-- ==== Sys2Proof/Word.lean ====
section
/-! DEFINITION. The plain data types of the model: bytes, fixed records, sparse tables. -/
namespace Sys2Proof

/-- One byte. -/
abbrev Byte := BitVec 8

/-- A 64-byte record (descriptor, move descriptor, KV command, route command, mirror record,
problem instruction, tile header). Byte `k` is bits `8k+7..8k`, little-endian as R4 says. -/
abbrev Rec64 := BitVec 512

/-- A 256-byte beat, byte `k` at bits `8k+7..8k` (R4, R122). -/
abbrev Beat := BitVec 2048

/-- A 528-byte link flit, byte `k` at bits `8k+7..8k` (R384). -/
abbrev Flit := BitVec 4224

/-- A sparse table: key and value pairs, keys rising, keys absent hold the table's default. -/
abbrev Tbl (α : Type) := List (Nat × α)

/-- Sparse byte memory in the host's cell form. -/
abbrev Mem := List (Nat × BitVec 8)

end Sys2Proof
end

