-- ==== Sys2Proof/Syntax.lean ====
section
/-! DEFINITION. The commands of the block: one constructor of `Instr` for each row of the opcode table,
and the data the commands carry. -/
namespace Sys2Proof

/-- The role the cluster map gives a unit (R266). -/
inductive Role where
  | static | worker | spare | idle
deriving DecidableEq, Repr, Inhabited

/-- A destination of a strand route (R123): an input strand of a unit, or a link strand channel. -/
inductive Dest where
  | strand (unit strand : Nat)
  | link (port ch : Nat)
deriving DecidableEq, Repr, Inhabited

/-- A semaphore of a unit (R140). -/
structure SemRef where
  unit : Nat
  sem : Nat
deriving DecidableEq, Repr, Inhabited

/-- A declared area of T1 or T2 that takes no bytes from the image: link buffers, spill area, count beats, queue
beats, reducer slots, rings (R203). Areas and extents share one space of identifiers. -/
structure AreaDecl where
  id : Nat
  tier2 : Bool
  unit : Nat          -- logical unit whose home slice holds a T1 area
  bytes : Nat
deriving DecidableEq, Repr, Inhabited

/-- The tile layout of a tile segment (R204) and its retain area (R209). -/
structure TileDecl where
  tb : Nat            -- payload beats, 1 to 256
  hdrArea : Nat
  hdrOff : Nat        -- header area, 64-byte aligned
  /-- Local address of the retain area, link depth, semaphore of the link's empty count, the link's reading units. -/
  retain : Option (Nat × Nat × Nat × Nat)
deriving DecidableEq, Repr, Inhabited

/-- A segment entry of a unit as the image declares it (R115). -/
structure SegDecl where
  idx : Nat
  area : Nat
  off : Nat
  len : Nat
  tile : Option TileDecl
deriving DecidableEq, Repr, Inhabited

/-- An entry of a unit's tensor table (R115): the scales to fold (R51) and the histogram placement (R59). -/
structure TensorDecl where
  idx : Nat
  ident : BitVec 32
  sIn : BitVec 32
  sW : BitVec 32
  sOut : BitVec 32
  bits16 : Bool            -- fed by 16-bit passes (R48, R49)
  completion : Bool        -- histogram record goes to the request's buffer, else adjacent (R59)
  elems : Nat              -- elements of the tensor: the last of them is in its last tile (R59)
  share : Nat              -- elements of it that this unit makes, 0 for a unit that claims its tiles (R58)
  area : Nat               -- where the tensor lies: area or extent, offset and bytes (R59)
  off : Nat
  bytes : Nat
  stride : Nat             -- bytes from its place in one buffer of its link to that in the next (R59, R151)
  copies : Nat             -- buffers of that link, 1 for a tensor with one place
  toReducer : Bool         -- its tiles are partials of an ordered reducer (R173)
deriving DecidableEq, Repr, Inhabited

/-- Program, counters, segments and tensor table of one logical unit (R265 section 0x03). -/
structure UnitDecl where
  unit : Nat
  program : List (BitVec 64)
  ctrs : List (Nat × Nat × Nat)      -- counter, part (0 base 1 step 2 bound 3 mode 4 value), value
  segs : List SegDecl
  tensors : List TensorDecl
  localAddrs : List Nat              -- local-store addresses the image states (R102)
  localBytes : Nat                   -- declared local-store allocation (R159)
deriving DecidableEq, Repr, Inhabited

/-- A strand route (R123) with the spill enable of each destination strand (R136). -/
structure RouteDecl where
  unit : Nat
  out : Nat
  dests : List Dest
  spill : Bool
  device : Bool            -- its signals also reach the device's side of the panel's run and step links (R140, R148)
deriving DecidableEq, Repr, Inhabited

/-- A declared work list (R164, R165). -/
structure ListDecl where
  region : Bool            -- false cluster scope, true region scope
  idx : Nat                -- logical cluster, or the logical unit naming the region
  list : Nat
  area : Nat
  off : Nat
  init : BitVec 64
deriving DecidableEq, Repr, Inhabited

/-- A declared ordered-reducer entry (R173). -/
structure ReducerDecl where
  unit : Nat               -- a logical unit of the region
  parts : Nat
  elems : Nat
  slotArea : Nat
  slotOff : Nat
  hdrOff : Nat
  outArea : Nat
  outOff : Nat
  outHdrOff : Nat
  tensor : BitVec 32
  empties : List SemRef
  fulls : List SemRef
deriving DecidableEq, Repr, Inhabited

/-- Which engine a declared queue beat belongs to: move (R197), walk (R229), route (R249). -/
inductive QueueKind where
  | move | walk | route
deriving DecidableEq, Repr, Inhabited

/-- A declared queue beat of a stack. -/
structure QueueDecl where
  kind : QueueKind
  stack : Nat
  area : Nat
  off : Nat
deriving DecidableEq, Repr, Inhabited

/-- A walk ring (R230): slots, header area, release word, reading units. -/
structure RingDecl where
  ring : Nat
  area : Nat
  off : Nat
  slots : Nat
  hdrOff : Nat
  relOff : Nat
  fulls : List SemRef
deriving DecidableEq, Repr, Inhabited

/-- The key-value cache parameters of R222 and the declared walk rings. -/
structure KvDecl where
  layers : Nat
  groups : Nat
  heads : Nat          -- HG
  qh : Nat
  dim : Nat            -- D
  kvfmt : Nat
  qfmt : Nat
  pfmt : Nat
  tp : Nat
  window : Nat
  maxLen : Nat
  poolPages : Nat
  scale : BitVec 32
  tensorBase : BitVec 32   -- TENSOR of layer l and group g is tensorBase + l*G + g
  rings : List RingDecl
deriving DecidableEq, Repr, Inhabited

/-- Where one expert is homed and the problem template of its work (R246). -/
structure ExpertHome where
  part : Nat
  stack : Nat
  template : Rec64
deriving DecidableEq, Repr, Inhabited

/-- A declared expert layer (R246). -/
structure ExpertDecl where
  experts : Nat
  kmax : Nat
  kmin : Nat
  thresh : BitVec 32
  renorm : Bool
  cap : Nat
  width : Nat
  xfmt : Nat
  yfmt : Nat
  ofmt : Nat
  sources : Nat
  tmax : Nat
  rb : Nat
  homes : List ExpertHome
  sourcePart : List Nat          -- part and stack of each source
  sourceStack : List Nat
  scoreArea : List Nat           -- per source: score segment
  rowArea : List Nat             -- per source: token-row tile segment
  sendArea : List Nat            -- per source: outbound area
  retArea : List Nat             -- per source: return inbox
  outArea : List Nat             -- per source: output tile segment
  inboxArea : List (Nat × Nat)   -- per home stack of this part (stack, area): inbox
  bufArea : List (Nat × Nat)     -- per home stack: expert buffer
  resArea : List (Nat × Nat)     -- per home stack: output buffer
  backArea : List (Nat × Nat)    -- per home stack: outbound area of returns to other parts
  workList : List (Nat × Nat × Nat)  -- per home stack: index of its declared work list, area of its problem list
  exchange : List (List SemRef)  -- per source: full semaphores of its exchange units
  homeExchange : List (Nat × List SemRef)  -- per home stack: full semaphores of its exchange units
  consumers : List (List SemRef) -- per source: full semaphores of its consumers
deriving DecidableEq, Repr, Inhabited

/-- A declared run or step link (R147, R288): buffers, depth, semaphores of both sides. -/
structure LinkDecl where
  depth : Nat
  inArea : Nat
  inOff : Nat
  inBytes : Nat             -- size of one inbound buffer
  outArea : Nat
  outOff : Nat
  outBytes : Nat            -- size of one outbound buffer
  payIn : Nat               -- declared input size of a RUN
  payOut : Nat              -- declared output size of a RUN
  fulls : List SemRef       -- full semaphore of each reading unit of the inbound link
  outWriters : List SemRef  -- empty semaphore of each writing unit of the outbound link
  inSem : Nat               -- semaphore number by which readers signal the device's empty count of the inbound link
  outSem : Nat              -- semaphore number by which writers signal the device's full count of the outbound link
deriving DecidableEq, Repr, Inhabited

/-- A swap layer (R278): its barrier and its extents. -/
structure SwapDecl where
  barrier : Nat
  extents : List Nat
deriving DecidableEq, Repr, Inhabited

/-- A receive channel a part declares (R388), or the transmit side naming the expected peer. -/
structure ChannelDecl where
  port : Nat
  ch : Nat
  recv : Bool
  peer : Nat
  credits : Nat
  dest : Dest               -- an input strand, or `link` for a through-route (R390)
deriving DecidableEq, Repr, Inhabited

/-- The resource declaration (R268). Groups, ways and the spill area stand beside it in `Pattern`. -/
structure ResourceDecl where
  clusters : Nat
  t1Pinned : Nat           -- T1 bytes by place
  t1Unpinned : Nat
  t2 : Nat                 -- T2 bytes
  reducers : List Nat      -- ordered reducer entries in each logical region
deriving DecidableEq, Repr, Inhabited

/-- What the sections 0x01 to 0x07, 0x09 and 0x0A declare. The manual gives their contents and not their binary
layout (R265), so the model carries the contents (log entry 4). -/
structure Pattern where
  res : ResourceDecl
  groups : Nat             -- least number of owned channel groups (R268)
  ways : Nat               -- least number of read-cache ways on each base die (R268)
  spillBytes : Nat         -- spill area size (R138) and the area that holds it
  spillArea : Nat
  batch : Nat
  chunk : Nat
  vocab : Nat
  stepNs : Nat
  summaryBytes : Nat
  runLink : Option LinkDecl
  stepLink : Option LinkDecl
  links : List (List Nat × List Nat)   -- writing and reading units of each link between stages (R148)
  roles : List (List Role)
  areas : List AreaDecl
  units : List UnitDecl
  routes : List RouteDecl
  lists : List ListDecl
  reducers : List ReducerDecl
  queues : List QueueDecl
  kv : Option KvDecl
  experts : List ExpertDecl
  swaps : List SwapDecl
  channels : List ChannelDecl
  parts : Nat              -- parts of the pattern, and the one this image is (R265 section 0x0A)
  selfPart : Nat
  cross16 : Bool           -- declares a cross-unit 16-bit reduction by another path than the reducer (R48)
  overlap16 : Bool         -- assigns 16-bit tiles with overlapping outputs through a work counter (R48)
  otherFormats : List Nat  -- every format code the sections name
  otherPairs : List (Nat × Nat)  -- every operand pair the sections name
deriving DecidableEq, Repr, Inhabited

/-- A pattern image (R264, R265): the 256-byte header, the section table of 32-byte entries, the bytes of each
section in table order, and what the sections without a stated layout declare. -/
structure Image where
  header : Beat
  table : List (BitVec 256)
  sections : List (List Byte)
  pat : Pattern
deriving DecidableEq, Repr, Inhabited

/-- A physical upset of the array during one execution of a pass: `delta` is added at issue row `row` (streamed rows
first, then the checksum cycles in group order), at band `band` (8 the checksum row path) and column `col`
(128 the checksum column). What a fault does is the environment's; what the checks make of it is R84 to R86. -/
structure Upset where
  row : Nat
  sub : Nat
  band : Nat
  col : Nat
  delta : Int
deriving DecidableEq, Repr, Inhabited

/-- A NAND block to write to, and how its erase ends when it needs one (R214, R217). -/
structure FreshBlock where
  block : BitVec 16
  eraseOk : Bool
deriving DecidableEq, Repr, Inhabited

/-- A move whose copy ends: how many of its T3 pages LDPC corrected in the read (R221), and the pages, by number, that a
block neighbour delivered for those it could not (R208). -/
structure MoveEnd where
  id : Nat
  corrected : Nat
  peers : List (Nat × List Byte)
deriving DecidableEq, Repr, Inhabited

/-- How the read of a T3 page ends (R208, R216): it can be read, or it cannot be corrected, with the page a block
neighbour then delivers, when one does. -/
inductive PageRead where
  | good
  | bad (peer : Option (List Byte))
deriving DecidableEq, Repr, Inhabited

/-- The result of the self-test of one unit (R473, R476): first failing test, or 0. -/
structure SwatchResult where
  unit : BitVec 9
  test : Nat
  band : Nat
  column : Nat
  detail : BitVec 32
deriving DecidableEq, Repr, Inhabited

/-- How a read of host memory fails (R319). -/
inductive ReadFail where
  | unsupported | abort | poisoned | timeout
deriving DecidableEq, Repr, Inhabited

/-- What the forward error correction says of the codewords that carry a flit: whether one of them could not be corrected,
and, of the codewords that end with it, how many could not be and how many held corrected symbols (R386, R399; log entry
94). -/
structure Fec where
  lost : Bool := false
  bad : Nat := 0
  corrected : Nat := 0
deriving DecidableEq, Repr

/-- A received flit that carries no slots, with its codewords. -/
structure RxFlit where
  flit : Flit
  fec : Fec := {}
deriving DecidableEq, Repr

/-- The read of a request's prompt, and its failure (R319, R341). -/
structure PromptRead where
  slot : BitVec 14
  fail : Option ReadFail := none
deriving DecidableEq, Repr

/-- The start of a RUN on a panel, and the failure of the read of its input (R319). -/
structure RunStart where
  panel : BitVec 4
  fail : Option ReadFail := none
deriving DecidableEq, Repr

/-- What a register access goes to: BAR0, BAR2, the function's configuration space, or the mailbox window of a master inside
the module, by its identity (R317, R323, R357). -/
inductive Space where
  | bar0 | bar2 | config
  | window (master : BitVec 8)
deriving DecidableEq, Repr, Inhabited

/-- The bytes of MBX_RX that a read covers: its lower half, its upper half, or the whole register (R364). -/
inductive RxPart where
  | lower | upper | whole
deriving DecidableEq, Repr, Inhabited

/-- The commands. Unit instructions carry the unit and the operand fields of R114; ring and admin commands carry the
64-byte descriptor; events carry what the outside supplies. -/
inductive Instr where
  -- control engine (R107, R114)
  | nopInstruction (u : BitVec 9)
  | halt (u : BitVec 9)
  | jump (u : BitVec 9) (target : BitVec 10)
  | loop (u : BitVec 9) (out : BitVec 8) (target : BitVec 10) (ctr : BitVec 4) (mark : Bool)
  | brm (u : BitVec 9) (inp : BitVec 8) (target : BitVec 10) (type : BitVec 4) (keep argm : Bool) (arg : BitVec 12)
  | semWait (u : BitVec 9) (sem : BitVec 5)
  | semSignal (u : BitVec 9) (sem : BitVec 5) (route : BitVec 3)
  | barrier (u : BitVec 9) (inp out : BitVec 8) (id : BitVec 12)
  | claim (u : BitVec 9) (ctr : BitVec 4) (region : Bool) (list : BitVec 4) (target : BitVec 10)
  | doneTile (u : BitVec 9) (ctr : BitVec 4) (region : Bool) (list : BitVec 4)
  | prob (u : BitVec 9) (ctr seg : BitVec 4)
  | mwait (u : BitVec 9) (tag : BitVec 16)
  | cset (u : BitVec 9) (ctr : BitVec 4) (part : BitVec 2) (apply : Bool) (value : BitVec 32)
  | cadd (u : BitVec 9) (ctr : BitVec 4) (imm : BitVec 32)
  | cload (u : BitVec 9) (ctr actr : BitVec 4) (toBound : Bool)
  | cstep (u : BitVec 9) (ctr : BitVec 4)
  -- array and output engines
  | plane (u : BitVec 9) (inp : BitVec 8) (actr : BitVec 4) (cell : BitVec 2) (p : Bool)
  | pass (u : BitVec 9) (inp : BitVec 8) (shape : BitVec 3) (m1 : BitVec 8) (actr afmt wfmt : BitVec 4)
      (keep add p : Bool) (upsets : List Upset)
  | accin (u : BitVec 9) (inp : BitVec 8) (actr : BitVec 4) (rows1 : BitVec 8) (p : Bool)
  | drain (u : BitVec 9) (out : BitVec 8) (dctr : BitVec 4) (dest : BitVec 2) (seg ofmt : BitVec 4)
      (tensor : BitVec 8) (act : BitVec 4) (bias : Bool) (bctr : BitVec 4) (rows1 : BitVec 8) (p : Bool)
  -- vector engine
  | vop (u : BitVec 9) (vfn : BitVec 6) (a b c d : BitVec 4) (rows1 : BitVec 8) (fmt : BitVec 4)
  | vred (u : BitVec 9) (max chain : Bool) (a d : BitVec 4) (rows1 : BitVec 8)
  | vsmax (u : BitVec 9) (sc st po : BitVec 4) (n1 : BitVec 7) (final : Bool)
  | vtopk (u : BitVec 9) (a d w : BitVec 4) (k1 : BitVec 12) (rows1 : BitVec 8) (first finish p : Bool)
  | vsample (u : BitVec 9) (a d sd t n : BitVec 4) (draw : BitVec 16)
  | vrand (u : BitVec 9) (d sd t : BitVec 4) (draw : BitVec 16) (rows1 : BitVec 8)
  -- move engine
  | load (u : BitVec 9) (lctr seg octr : BitVec 4) (beats1 : BitVec 8) (verify : Bool)
  | store (u : BitVec 9) (lctr seg octr : BitVec 4) (beats1 : BitVec 8)
  | send (u : BitVec 9) (out : BitVec 8) (lctr : BitVec 4) (beats1 : BitVec 8)
  | recv (u : BitVec 9) (inp : BitVec 8) (lctr : BitVec 4) (beats1 : BitVec 8) (mka : BitVec 2)
  | fwd (u : BitVec 9) (inp out : BitVec 8) (beats1 : BitVec 8) (mka : BitVec 2)
  -- strand engine
  | mark (u : BitVec 9) (out : BitVec 8) (marker : BitVec 16)
  | steer (u : BitVec 9) (data ctl out0 out1 : BitVec 3) (beats count1 : BitVec 8)
  | merge (u : BitVec 9) (in0 in1 ctl out : BitVec 3) (beats count1 : BitVec 8)
  -- unit, strand and counter events
  | stepFire (u : BitVec 9) (engine : BitVec 3)       -- 0 move, 1 strand, 2 output, 3 array, 4 vector
  | spillReturn (u : BitVec 9) (strand : BitVec 3)
  | passCheckOutcome (u : BitVec 9) (bufB : Bool)
  | replayIssue (u : BitVec 9) (upsets : List Upset)
  | passCommit (u : BitVec 9) (bufB : Bool)
  | tileDrainStart (u : BitVec 9)
  | semaphoreSignalArrive (u : BitVec 9) (sem : BitVec 5)
  | barrierRelease (panel : BitVec 4)
  | countBeatStore (region : Bool) (idx : BitVec 6) (list : BitVec 4) (word : BitVec 64)
  | claimServe (region : Bool) (idx : BitVec 6)
  | epochApply (region : Bool) (idx : BitVec 6) (list : BitVec 4)
  | reducerSlotReady (region : BitVec 4) (entry : BitVec 4) (slot : BitVec 8)
  | reducerResultWrite (region : BitVec 4) (entry : BitVec 4)
  -- memory tiers
  | move (d : Rec64)
  | moveQueueStore (u : BitVec 9) (stack : BitVec 2) (beat : Beat)
  | moveStart (stack : BitVec 2) (id : Nat) (badPages : List Nat)
  | moveEndUpdate (stack : BitVec 2) (move : MoveEnd)
  | reRequest (u : BitVec 9) (addr : BitVec 52) (peer : List (Nat × List Byte))   -- pages a neighbour delivered, by number in the image
  | tileResend (u : BitVec 9) (strand : BitVec 3)
  | poolEpochBoundary
  | allocWake (tier2 : Bool)
  | backgroundEviction (stack : BitVec 2)
  | wearLevelRelocation (stack : BitVec 2) (channel : BitVec 3) (fresh : FreshBlock)
  | readDisturbRelocation (stack : BitVec 2) (channel : BitVec 3) (block : BitVec 16) (fresh : FreshBlock)
  | patrolRead (stack : BitVec 2) (page : BitVec 31) (channel : BitVec 3) (block : BitVec 16)
      (fresh : FreshBlock) (corrected : Nat) (read : PageRead)
  | t3MountDone (stack : BitVec 2) (ok : Bool)
  -- key-value cache
  | walk (panel : BitVec 4) (stack : BitVec 2) (c : Rec64)
  | walkEntryPut (panel : BitVec 4) (ring : BitVec 4)
  | append (panel : BitVec 4) (stack : BitVec 2) (c : Rec64)
  | pageTakeResume (panel : BitVec 4)
  -- experts
  | dispatch (panel : BitVec 4) (stack : BitVec 2) (c : Rec64)
  | dispatchResume (panel : BitVec 4) (layer : BitVec 6)
  | bundleAnnounce (panel : BitVec 4) (stack : BitVec 2) (layer : BitVec 6) (source : BitVec 6) (step : BitVec 16)
  | arrive (panel : BitVec 4) (stack : BitVec 2) (c : Rec64)
  | expertReturnWrite (panel : BitVec 4) (stack : BitVec 2) (layer : BitVec 6)
  | ret (panel : BitVec 4) (stack : BitVec 2) (c : Rec64)
  -- admin commands on ring 0 (R344): the descriptor as read
  | identify (d : Rec64)
  | panelCreate (d : Rec64)
  | panelDestroy (d : Rec64)
  | castOn (d : Rec64)
  | castOnCopyDone (panel : BitVec 4) (ok : Bool)
  | bindOff (d : Rec64)
  | bindOffDrainLimit (panel : BitVec 4)
  | bindOffTeardown (panel : BitVec 4)
  | deploy (d : Rec64)
  | deployCopyDone (model wversion : BitVec 32) (img : Option Image)
  | undeploy (d : Rec64)
  | swapWeights (d : Rec64)
  | versionMarkerPlace (panel : BitVec 4)
  | swapLayerCopyDone (panel : BitVec 4) (layer : BitVec 10)
  | swapTimeout (panel : BitVec 4)
  | pin (d : Rec64)
  | unpin (d : Rec64)
  | schedLoad (d : Rec64)
  | schedulePeriodBoundary
  | setFallback (d : Rec64)
  | attest (d : Rec64)
  | swatch (d : Rec64)
  | swatchTestsDone (panel : BitVec 4) (fails : List SwatchResult)
  | counters (d : Rec64)
  | fwUpdate (d : Rec64)
  -- request descriptors on a ring (R340)
  | nop (ring : BitVec 12) (d : Rec64)
  | run (ring : BitVec 12) (d : Rec64)
  | gen (ring : BitVec 12) (d : Rec64)
  | pause (ring : BitVec 12) (d : Rec64)
  | resume (ring : BitVec 12) (d : Rec64)
  | abort (ring : BitVec 12) (d : Rec64)
  -- serving events
  | promptReadDone (read : PromptRead)
  | stepBufferWrite (panel : BitVec 4)
  | runStart (start : RunStart)
  | runResult (panel : BitVec 4)
  | tokenBoundary (panel : BitVec 4)
  | fallback (slot : BitVec 14)
  | sweep
  | summaryResult (slot : BitVec 14)
  | streamRecordWrite (ring : BitVec 12)
  | completionEntryWrite (ring : BitVec 12)
  -- host interface
  | poll
  | ringEnable
  | ringDisable
  | ringRead
  | capDrvWrite (v : BitVec 32)
  | irqModerationExpiry (ring : BitVec 12)
  | flr
  | perstAssert
  | perstDeassert
  | dlDown
  | d3hotEntry (busMasterOnly : Bool)
  | d0Return
  | barAccessMalformed (write : Bool) (bar2 : Bool) (off : BitVec 20) (size : Nat)
  | registerWrite (space : Space) (off : BitVec 20) (eight : Bool) (v : BitVec 64)
  | latchedRead (space : Space) (off : BitVec 20) (eight : Bool)
  | pwrCapWrite (v : BitVec 32)
  | lnkCtrlWrite (v : BitVec 32)
  | recoveryGo (v : BitVec 32)
  | recoveryDone
  -- mailboxes and messages; a master is its 8-bit identity (R357)
  | mbxTxWrite (master : BitVec 8) (ch : BitVec 6) (word : BitVec 32)
  | mbxRxRead (master : BitVec 8) (ch : BitVec 6) (part : RxPart)
  | mbxLockRead (master : BitVec 8) (ch : BitVec 6)
  | mbxLockWrite (master : BitVec 8) (ch : BitVec 6) (v : BitVec 32)
  | mbxCtrlWrite (master : BitVec 8) (ch : BitVec 6) (v : BitVec 32)
  | mbxDbMaskWrite (master : BitVec 8) (v : BitVec 32)
  | domainOff (master : BitVec 8)
  | domainOn (master : BitVec 8)
  | ping (handler : BitVec 8) (ch : BitVec 6) (src : BitVec 8)
  | setCap (ch : BitVec 6) (src : BitVec 8)
  | getTelemetry (ch : BitVec 6) (src : BitVec 8)
  | setRackId (ch : BitVec 6) (src : BitVec 8)
  | drainNotice (src : BitVec 8) (ms : BitVec 32)
  | resetModule (ch : BitVec 6) (src : BitVec 8)
  | getIdentity (ch : BitVec 6) (src : BitVec 8)
  | smbusBlockWrite (count : BitVec 8) (off : BitVec 16) (data : BitVec 64) (pecOk : Bool)
  | smbusProcessCall (count : BitVec 8) (off : BitVec 16) (size : BitVec 8)
  -- links
  | signalDetect (port : Fin 18)
  | equalisationDone (port : Fin 18) (failed : BitVec 4)
  | alignLock (port : Fin 18)
  | trainingTimeout (port : Fin 18)
  | trainingRetry (port : Fin 18)
  | hello (port : Fin 18) (r : RxFlit)
  | helloSend (port : Fin 18)
  | dataFlit (port : Fin 18) (f : Flit) (fec : Fec)
  | nullFlit (port : Fin 18) (r : RxFlit)
  | nakRepeat (port : Fin 18)
  | linkSilenceTimeout (port : Fin 18)
  | channelOpen (port : Fin 18) (m : Rec64)
  | channelClose (port : Fin 18) (m : Rec64)
  | fetchReq (port : Fin 18) (m : Rec64) (mediaError : Bool)
  | fetchData (port : Fin 18) (m : Rec64) (bytes : List Byte)
  | fetchRefuse (port : Fin 18) (m : Rec64)
  | fetchBusyRetry (port : Fin 18) (tag : BitVec 16)
  | readData (port : Fin 18) (m : Rec64) (bytes : List Byte)
  | readStatus (port : Fin 18) (m : Rec64)
  | resendReq (port : Fin 18) (m : Rec64)
  | mailbox (port : Fin 18) (m : Rec64) (words : List (BitVec 32))
  | lifeline (port : Fin 18) (m : Rec64) (records : List Rec64) (bulk : List Byte)
  -- the ply pair
  | heartbeatSend
  | missedBeat
  | partnerLost
  | takeover
  | plyBind (d : Rec64)
  | bindTimeout
  | plyRelease (d : Rec64)
  | bindRec (r : Rec64)
  | syncDone (r : Rec64)
  | releaseRec (r : Rec64)
  | openRec (r : Rec64)
  | tokens (r : Rec64)
  | generated (r : Rec64)
  | stateRec (r : Rec64)
  | bulk (r : Rec64) (bytes : List Byte)
  | catalogueRec (r : Rec64)
  | resync (r : Rec64)
  | handover (r : Rec64)
  | handoverReply (r : Rec64)
  -- power and heat
  | underVoltage (millivolts microseconds : Nat)
  | overVoltage (millivolts : Nat)
  | overCurrent (milliamps microseconds : Nat)
  | presenceOpen
  | inputRestart (removed : Bool)
  | powerGood (testHold : Bool)
  | powerEstimateTick (activity : Nat)
  | powerLoopTick
  | gaugeSample (millivolts : BitVec 16) (watts : BitVec 16) (microjoules : Nat)
  | junctionSample (readings : List (BitVec 16))
  | thermalTrip (deciC : BitVec 16) (microseconds : Nat)
  | coolantSample (inlet outlet flow : BitVec 16)
  -- start-up
  | railSequenceDone
  | bootVerifyDone
  | coreStartDone (coresOk sramOk : Bool) (ga : BitVec 7)
  | dramTrainingDone (failed : BitVec 24)
  | startupSwatchDone (units : List (BitVec 9)) (clusters : List (BitVec 6)) (regions : List (BitVec 4))
      (t1Hanks : List Nat)
  | pcieReadiness
  | readySet
  -- test access port
  | idcode
  | samplePreload (cells : List Bool)
  | extest
  | clamp
  | highz
  | extestPulse
  | extestTrain
  | mbxacc
  | bypass (code : BitVec 8)
  -- further events
  | insertion (millivolts : Nat)
  | signalLoss (port : Fin 18)
  | nandProgramDone (stack : BitVec 2) (channel : BitVec 3) (block : FreshBlock) (pages : List Nat) (ok : Bool)
  | fwBankWriteDone (ok : Bool)
  | voltageDroop (island : BitVec 7) (cycles : Nat)
  | configurationRequest
  | testLogicReset (trst : Bool)
deriving DecidableEq, Repr

end Sys2Proof
end

