-- ==== Sys2Proof/Decode.lean ====
section
/-! DEFINITION. The commands that table words spell: no row of the opcode table has bits (log entry 8). -/
namespace Sys2Proof

/-- The command a word of `nbits` bits spells: none, since every row's field list is empty (log entry 8). -/
def decodeTableWord (_nbits _w : Nat) : Option Instr := none

end Sys2Proof
end

