-- ==== Sys2Proof/Config.lean ====
section
/-! DEFINITION. What an implementation or a manufacture fixes and what the manual leaves open: opaque constants
without a body, so that a proof can lean on no value of them. -/
namespace Sys2Proof.Config

/-- A fresh free value for each count of `State.freeCtr` (log entry 3): a result the manual leaves unstated. -/
opaque freeValue : Nat → Nat

/-- A field of a tile header that R205 does not settle for a tile made by a SEND, a STORE or an engine, or an INDEX
outside a tile segment; the depth of an ACC96 tile without a header; STEP of a run buffer, and FIRST and OFFSET of a summary
record (log entry 3). R20 binds these fields, so each is a function of what every run of the pattern has alike: the field,
the instruction address with the row counters as issued (or what the request is for), and the payload. -/
opaque headerField : (field : Nat) → (key : List Nat) → (payload : List Byte) → Nat

/-- The result of a VOP conversion that names ACC96, whose unit of SUM the manual does not give (log entry 34): from or
to ACC96, the operand. -/
opaque acc96Convert : (fromAcc : Bool) → (code : Nat) → Nat

/-- The voltage in mV that a region's fused table gives for an operating point before the bounds of R435 (log entry 76). -/
opaque regionVoltage : (region : Nat) → (n : Nat) → Nat

/-- The estimate R442 forms from the activity counters, in W, at operating point `n` and ceiling level `l`.
The per-event energies are calibrated at manufacture and not given (log entry 12). -/
opaque powerEstimate : (activity : Nat) → (n : Nat) → (l : Nat) → Nat

/-- The leakage term of the estimate in W, from the region core voltages in mV and the junction sensors in 0.1 °C (R442; log
entry 12). -/
opaque leakage : (millivolts : List Nat) → (sensors : List (BitVec 16)) → Nat

/-- What the loop adds to the estimate after a tick, from what it added before, the estimate and the measured input power
(R442; log entry 12). -/
opaque powerTrim : (trim : Int) → (estimate : Nat) → (watts : Nat) → Int

/-- The module serial number (R324), manufacture data (log entry 5). -/
opaque serial : BitVec 64

/-- Service credits a storage target grants the module above the 576 it must grant (R395; log entry 94). -/
opaque targetCredits : Nat

/-- The root key slots: the SHA-512 of the public key of each programmed slot, `none` when not programmed (R465). -/
opaque rootHash : Nat → Option (BitVec 512)

/-- The revocation mask in the fuses when the module leaves manufacture (R465). -/
opaque revoked0 : BitVec 4

/-- The fuse SVN when the module leaves manufacture (R465). -/
opaque svnFuse0 : Nat

/-- The header bytes of the firmware image a boot flash bank holds at manufacture (bank 0 is A). -/
opaque bankHeader0 : Nat → Nat → Byte

/-- The body bytes of the firmware image a boot flash bank holds at manufacture. -/
opaque bankBody0 : Nat → List Byte

/-- The bank-select record at manufacture: `false` bank A, `true` bank B. -/
opaque bankSelect0 : Bool

/-- The private identity key of R477, a P-521 scalar that nothing reads but the signature of R478. -/
opaque identityKey : Nat

/-- The certificate chain of R477, at most 4,096 bytes. -/
opaque certChain : List Byte

/-- The two 16-bit words of a host interrupt message's address are the host's; what of the MSI-X table PCI Express
fixes is outside the manual. The seed of the CRC-checked swatch is fixed in firmware (R473). -/
opaque swatchExpected : Nat → BitVec 32

end Sys2Proof.Config
end

