-- ==== Sys2Proof/Machine/State.lean ====
section
/-! DEFINITION. The state of the module, as plain data. Each field's comment gives its width, the rule that names it
and its value at reset; the default of each field IS that reset value (a power-on start at time 0 of R462). -/
namespace Sys2Proof.Machine
open Sys2Proof

/-- Why the machine stops: there is no such reason, for every command has an effect in the manual. -/
inductive Fault where
deriving DecidableEq, Repr

/-- Why a command has no meaning. -/
inductive Refusal where
  /-- Raised by an arm of `exec` whose command the model does not give a meaning yet. Safe: nothing is claimed. -/
  | notModelled (mnemonic : String)
deriving DecidableEq, Repr, Inhabited

/-! ## Counters -/

/-- The counters of the manual, each with the member of its scope. `Ctr.width` gives the width; all saturate. -/
inductive Ctr where
  -- knit unit (R105, R139, R146, R221)
  | droppedStitches (u : Nat) | unchecked16 (u : Nat) | depthOverflow (u : Nat) | narrowSat (u : Nat)
  | samplerDegenerate (u : Nat) | bankConflict (u : Nat) | spills (u strand : Nat) | busy (u : Nat)
  | stall (u cause : Nat) | strandCrc (u : Nat) | resends (u : Nat)
  -- stack (R91, R221, R281)
  | lostRecords (st : Nat) | reservedAddr (st : Nat) | noHome (st : Nat) | memCrc (st : Nat) | reRequests (st : Nat)
  | reMoves (st : Nat) | dataLost (st : Nat) | evictions (st : Nat) | returns (st : Nat) | allocWaits (st : Nat)
  | cacheHits (panel st : Nat) | cacheMisses (panel st : Nat) | t3Corrected (st : Nat) | t3Uncorrectable (st : Nat)
  | retiredBlocks (st : Nat) | readDisturb (st : Nat) | patrol (st : Nat) | lazyCopies (st : Nat)
  -- panel (R139, R143, R245, R281, R316, R485)
  | mappingFaults (p : Nat) | spillHigh (p : Nat) | pageWaits (p : Nat) | walks (p : Nat) | blocksDelivered (p : Nat)
  | blocksSkipped (p : Nat) | pagesRead (p : Nat) | sanitised (p : Nat) | kvRebuilds (p : Nat) | rejectedKv (p : Nat)
  | castOns (p status : Nat) | spareSubst (p : Nat) | swapsDone (p : Nat) | swapsFailed (p : Nat)
  | versionChanged (p : Nat) | completions (p status : Nat) | steps (p : Nat) | preemptions (p : Nat)
  | urgent (p : Nat) | fallbacks (p : Nat) | noFallback (p : Nat) | malformed (p : Nat) | discardedRuns (p : Nat)
  | fieldSwatchFail (p : Nat)
  -- work list (R172)
  | claimsServed (l : Nat) | requeued (l : Nat) | rejectedStores (l : Nat) | epochs (l : Nat)
  -- expert layer (R263)
  | rowsKept (p layer e : Nat) | drops (p layer e : Nat) | emptySteps (p layer e : Nat) | forced (p layer : Nat)
  | nonFinite (p layer : Nat) | noExpert (p layer : Nat) | rejectedRoute (p layer : Nat) | dispatchWaits (p layer : Nat)
  -- module (R281, R316, R428, R458, R485, R504)
  | deploys (status : Nat) | noSlot | sweepEndings | missedBeats | partnersLost | mirrorErrors | resyncs
  | adopted | adoptionsEnded | handoversOut | handoversRefused | kvMirrorSkips | commitHeld
  | capClamps | emergencies | lagEvents | throttles | inputLimits | coolantExc | inputLoss (cause : Nat) | trips
  | stretched (island : Nat) | bankFallbacks | fwUpdates (status : Nat) | trainingRetries (group : Nat) | groupsOut
  | catalogueLosses | swatchFailures | testRefused | smbusErrors
  -- host interface (R356)
  | accepted (ring : Nat) | immediate (ring status : Nat) | fullHolds (ring : Nat) | ringErrors | hostReadErrors
  | malformedBar | msixMessages | polls
  -- mailboxes (R377)
  | collisions (ch : Nat) | lockRefusals (ch : Nat) | unbound | domainOff | denied (m : Nat) | droppedReplies (m : Nat)
  | partials (m : Nat)
  -- link ports (R399)
  | fecCorrected (p : Nat) | fecBad (p : Nat) | flitErrors (p : Nat) | replays (p : Nat) | retrains (p : Nat)
  | sessionsResumed (p : Nat) | sessionsNew (p : Nat) | closedDrops (p : Nat) | serviceErrors (p : Nat)
  | fetchServed (p : Nat) | fetchRefused (p : Nat) | creditWait (p : Nat)
deriving DecidableEq, Repr, Inhabited

/-! ## The knit unit -/

/-- A row counter (R117). -/
structure RowCtr where
  value : BitVec 32 := 0      -- 32; R117; 0
  base : BitVec 32 := 0       -- 32; R117; 0
  step : BitVec 32 := 0       -- 32; R117; 0
  bound : BitVec 32 := 0      -- 32; R117; 0
  mode : BitVec 4 := 0        -- 4; R117; 0
deriving DecidableEq, Repr, Inhabited

/-- An entry of a strand: a beat with the tile header its sideband carries (R204), or a marker (R122). -/
inductive Entry where
  | beat (b : Beat) (hdr : Option Rec64)
  | marker (m : BitVec 16)
  | hole (hdr : Rec64) (fails : Nat)   -- place of a tile that failed its check and is to be resent (R210)
  | refill (hdr : Option Rec64) (beats : List Beat)   -- the passing resent copy, taken beat by beat in that place (R210)
deriving DecidableEq, Repr, Inhabited

/-- An input strand (R122, R136). -/
structure InStrand where
  queue : List Entry := []     -- at most 16 beats and 16 markers; R122; empty
  spilled : List Entry := []   -- entries in the spill area; R136; empty
  spillEn : Bool := false      -- 1; R136; 0
  fromLink : Option (Nat × Nat) := none  -- feeding port and channel; R388; none
  arr : Option (Rec64 × List Beat) := none  -- header and beats of the tile now arriving; R207; none
  taken : Nat := 0             -- beats of it that an instruction has taken; R207; 0
  resent : Option (Rec64 × List Beat) := none  -- a resent copy now arriving over a link; R210; none
  spillOff : Nat := 0          -- entries of the first spill block already returned; R138; 0
deriving DecidableEq, Repr, Inhabited

/-- A tile an output strand keeps until its destinations have checked it (R210). -/
structure SentTile where
  hdr : Rec64
  beats : List Beat
  waiting : List Dest
deriving DecidableEq, Repr, Inhabited

/-- An output strand: its route and its part of the resend store (R123, R210). -/
structure OutStrand where
  dests : List Dest := []      -- the route; R123; none
  kept : List SentTile := []   -- resend store entries; R210; empty
  device : Bool := false       -- signals on this route reach the device's side of the links; R148; 0
deriving DecidableEq, Repr, Inhabited

/-- A weight plane: its cell mode and its 128-byte plane rows (R66). -/
structure Plane where
  cell : BitVec 2 := 0         -- 2; R35; DESIGN CHOICE 0 (2)
  bytes : List Byte := []      -- 16 KiB, bytes past the list 0; R66; DESIGN CHOICE 0 (2)
deriving DecidableEq, Repr, Inhabited

/-- An entry of a pass buffer: the 72-bit column sum and the SPECIAL code kept beside it (R72). -/
structure PassEntry where
  sum : BitVec 72 := 0
  special : BitVec 2 := 0
deriving DecidableEq, Repr, Inhabited

/-- Where a pass stands between issue and commit (R70, R73, R87). -/
inductive PassSt where
  | issued | equal | failed | replaying
deriving DecidableEq, Repr, Inhabited

/-- A pass in flight: its pass buffer, its copies in the retention buffer and its check state (R71, R72). -/
structure PassRec where
  seq : Nat
  pc : Nat
  bufB : Bool
  shape : Nat
  m : Nat
  afmt : Nat
  wfmt : Nat
  add : Bool
  acts : List Byte
  plane : Plane
  entries : Tbl PassEntry
  upsets : List Upset
  attempts : Nat
  st : PassSt
deriving DecidableEq, Repr, Inhabited

/-- What an engine has still to do for an instruction: its operands as read at issue (R107, R108, R128). -/
inductive EngOp where
  | plane (inp : Option Nat) (addr cell : Nat) (got : List Beat)
  | pass (inp : Option Nat) (addr shape m afmt wfmt : Nat) (keep add : Bool) (got : List Beat) (upsets : List Upset)
  | accin (inp : Option Nat) (addr rows : Nat) (got : List Beat) (hdr : Option Rec64)
  | load (addr seg off beats : Nat) (verify : Bool)
  | store (addr seg off beats : Nat)
  | send (out : BitVec 8) (addr left : Nat) (first : Bool)
  | recv (inp : Nat) (addr left : Nat) (mka : Nat)
  | fwd (inp : Nat) (out : BitVec 8) (left : Nat) (mka : Nat)
  | mark (out : BitVec 8) (marker : BitVec 16)
  | steer (data ctl out0 out1 beats items : Nat) (cur : Option (Bool × Nat))
  | merge (in0 in1 ctl out beats items : Nat) (cur : Option (Bool × Nat))
  | drain (out : BitVec 8) (addr : Nat) (dest seg ofmt tensor act : Nat) (bias : Option Nat) (rows : Nat)
  | emit (out : BitVec 8) (beats : List (Beat × Option Rec64))
  | vop (fn fmt rows a b c d : Nat)
  | vred (max chain : Bool) (a d rows : Nat)
  | vsmax (sc st po n : Nat) (final : Bool)
  | vtopk (a d w k rows : Nat) (first finish : Bool)
  | vsample (a d sd count token draw : Nat)
  | vrand (d sd token draw rows : Nat)
deriving DecidableEq, Repr, Inhabited

/-- An instruction in the queue of an engine: its number in the unit's program order, its instruction address, the row
counters it was issued with (R108), and what is left of it (R107, R143). -/
structure QOp where
  num : Nat
  pc : Nat
  key : List Nat
  op : EngOp
deriving DecidableEq, Repr, Inhabited

/-- What the sequencer of a unit holds (R140). -/
inductive Wait where
  | none
  | barrier (id : Nat) (inp out : BitVec 8) (met : Bool)   -- `met`: every unit has reached it (R140)
  | claim (list ctr target : Nat)
deriving DecidableEq, Repr, Inhabited

/-- A unit's state of execution. -/
inductive UnitRun where
  | idle        -- no program, or the panel holds no pattern
  | running
  | ended       -- HALT executed (R111)
  | stopped     -- the panel stopped it (R142, R277)
deriving DecidableEq, Repr, Inhabited

/-- A segment entry (R115): area or extent, offset in it, length, tile layout. The device addresses stand in the
panel's area table, which the end update rewrites hank by hank (R195). -/
structure Seg where
  area : Nat
  off : Nat
  len : Nat
  tile : Option TileDecl
deriving DecidableEq, Repr, Inhabited

/-- An entry of the tensor table (R115). -/
structure Tensor where
  ident : BitVec 32
  scale : BitVec 32
  completion : Bool
  elems : Nat
  share : Nat
  histArea : Nat
  histOff : Nat
  stride : Nat
  copies : Nat
deriving DecidableEq, Repr, Inhabited

/-- An entry of the header file (R204): local address of the payload and its header. -/
structure HdrEnt where
  addr : Nat
  hdr : Rec64
deriving DecidableEq, Repr, Inhabited

/-- The histogram counts of one tensor kept in a unit until the record is written (R56, R58). -/
structure Hist where
  elements : BitVec 32 := 0   -- 32; R57; 0
  bins : Tbl (BitVec 32) := []  -- 64 counts of 32; R56; 0
  zero : BitVec 32 := 0       -- 32; R56; 0
  underflow : BitVec 32 := 0  -- 32; R56; 0
  overflow : BitVec 32 := 0   -- 32; R56; 0
  nanInf : BitVec 32 := 0     -- 32; R56; 0
  saturated : BitVec 32 := 0  -- 32; R56; 0
  depthOvf : Bool := false    -- 1; R57; 0
deriving DecidableEq, Repr, Inhabited

/-- A knit unit (R61, R106, R117, R122, R140). -/
structure KUnit where
  program : List (BitVec 64) := []   -- 1,024 words of 64; R106; empty
  pc : Nat := 0                       -- instruction address; R106; 0
  run : UnitRun := .idle              -- execution state; R111; idle
  wait : Wait := .none                -- what the sequencer waits for; R140; none
  ctrs : Tbl RowCtr := []             -- 16 row counters; R117; zero
  sems : Tbl (BitVec 8) := []         -- 32 semaphores of 8; R140; zero
  segs : Tbl Seg := []                -- 16 segment entries; R115; none
  tensors : Tbl Tensor := []          -- 256 tensor entries; R115; none
  problem : Option Rec64 := none      -- problem register, 64 bytes; R163; none since CAST_ON
  store : Mem := []                   -- local store, 512 KiB; R102; DESIGN CHOICE 0 (2)
  hdrFile : List HdrEnt := []         -- header file, 64 entries; R204; empty
  tileCount : BitVec 64 := 0          -- producer's tile count; R205; 0
  acc : Tbl (BitVec 96) := []         -- accumulator store, 256 x 128 of 96; R40; DESIGN CHOICE 0 (2)
  depth : BitVec 32 := 0              -- reduction depth; R42; DESIGN CHOICE 0 (2)
  accFloat : Bool := false            -- pair class of the tile's last pass: float; R42; DESIGN CHOICE 0 (2)
  accShape : BitVec 4 := 0xF          -- shape of the tile's last pass; R205; DESIGN CHOICE 0xF (2)
  acc16 : Bool := false               -- pair class of the tile's last pass: 16-bit; R46; DESIGN CHOICE 0 (2)
  issue16 : Bool := false             -- the PASS issued last in program order is 16-bit; R64; DESIGN CHOICE 0 (2)
  shadow : Plane := {}                -- shadow plane, 16 KiB; R66; DESIGN CHOICE 0 (2)
  shadowFull : Bool := false          -- the shadow plane holds a complete load not yet swapped; R68; DESIGN CHOICE 0 (2)
  active : Plane := {}                -- active plane, 16 KiB; R66; DESIGN CHOICE 0 (2)
  passes : List PassRec := []         -- pass buffers A, B and retention buffer; R71; empty
  issued : Nat := 0                   -- instructions issued to engines; R107; 0
  lastBufB : Bool := true             -- buffer of the pass issued last; R72; DESIGN CHOICE B, so that the first takes A (2)
  lastReplay : Bool := false          -- the pass issued last was a replay; R72; DESIGN CHOICE 0 (2)
  arrQ : List QOp := []               -- array engine queue, 4; R107; empty
  outQ : List QOp := []               -- output engine queue, 4; R107; empty
  vecQ : List QOp := []               -- vector engine queue, 4; R107; empty
  moveQ : List QOp := []              -- move engine queue, 4; R107; empty
  strandQ : List QOp := []            -- strand engine queue, 4; R107; empty
  cycle : Nat := 0                    -- judged cycles of the unit's island; R144, R444; DESIGN CHOICE 0 (2)
  issues : List Nat := []             -- those of the last 64 in which it issued array rows or a vector operation; R444; none
  ins : Tbl InStrand := []            -- 8 input strands; R122; empty
  outs : Tbl OutStrand := []          -- 8 output strands; R123; no route
  hists : Tbl Hist := []              -- histogram counts by tensor index and use of the tensor; R56, R58; zero
  drained : Tbl Nat := []             -- elements of each tensor drained since CAST_ON; R58; zero
  sites : Tbl (BitVec 2) := []        -- 1,161 mismatch counts of 2; R90; zero
  marked : Bool := false              -- darning mark; R105; 0
  halted : Bool := false              -- halted; R105; 0
  recover : Option Nat := none        -- device address of the tile or problem being recovered; R208; none
  retained : List (Nat × Rec64 × Nat) := []  -- home address, header and local address of retained tiles; R209; none
  retCount : Tbl (Nat × Nat) := []    -- of each retained segment, the buffer written last and waits since; R209; none
  lastNoHome : Option Nat := none     -- device address of the access reissued after a no-home answer; R190; none
  heldAt : List (Nat × Nat) := []     -- writes held for a source in transit: pc of the instruction, device address; R194; none
  moveTags : List (BitVec 16) := []   -- tags of moves stored and not completed; R197; none
deriving DecidableEq, Repr, Inhabited

/-- A record of the datapath log (R91). -/
structure LogRec where
  unit : Nat
  band : Nat
  flags : BitVec 8
  column : Nat
  attempt : Nat
  time : BitVec 64
deriving DecidableEq, Repr, Inhabited

/-! ## Work counters and ordered reducers -/

/-- A work list (R165). Its key is 16 × cluster + list, or 1024 + 16 × region + list. -/
structure WorkList where
  panel : Nat := 0
  beat : Nat := 0              -- device address of the count beat; R164
  count : BitVec 24 := 0       -- 24; R165; from the declared count word
  final : Bool := false        -- 1; R165; from the declared count word
  epoch : BitVec 16 := 0       -- 16; R165; from the declared count word
  next : Nat := 0              -- next fresh index; R165; 0
  requeue : List Nat := []     -- requeue FIFO, 128 or 512; R169; empty
  held : Tbl Nat := []         -- held index of each unit; R165; none
  parked : Option (BitVec 64) := none  -- held new-epoch store; R170; none
deriving DecidableEq, Repr, Inhabited

/-- A claim at a work counter (R167): unit, list key, pending (`true`) or answered WAIT. -/
structure Claim where
  unit : Nat
  list : Nat
  due : Bool
deriving DecidableEq, Repr, Inhabited

/-- An ordered-reducer entry (R173). Its key is 16 × region + entry. -/
structure Reducer where
  panel : Nat
  parts : Nat
  elems : Nat
  slots : List Nat             -- device addresses of the slots' payloads
  hdrs : List Nat              -- device addresses of their headers
  out : Nat
  outHdr : Nat
  tensor : BitVec 32
  empties : List SemRef
  fulls : List SemRef
  stored : List Nat := []      -- slots whose last beat has been stored; R174; none
  ready : List Nat := []       -- slots ready and not yet added; R174; none
  nextPart : Nat := 0          -- partials added; R174; 0
  sum : List (BitVec 32) := [] -- running FP32 sums; R174; empty
  done : Bool := false         -- all partials added, result not yet written; R175; 0
deriving DecidableEq, Repr, Inhabited

/-! ## Memory tiers -/

/-- Where a hank of a tracked reference lies (R195, R202, R211, R273). -/
inductive Loc where
  | addr (a : Nat)
  | absent (t3 : Nat)
  | lazy
  | lost
deriving DecidableEq, Repr, Inhabited

/-- An allocated hank (R198, R203). Keys: T1 hank h is h, T2 hank h is 768 + h. -/
structure Hank where
  owner : Option Nat           -- panel, or none for the module; R198
  dev : Nat := 0               -- device part of the pin count; R203; 0
  age : BitVec 16 := 0         -- 16; R198; 0
  transit : Bool := false      -- source of a running move; R194; 0
deriving DecidableEq, Repr, Inhabited

/-- Who submitted a move (R191, R197, R200). -/
inductive Submitter where
  | admin (cmd : Nat)
  | unit (u : Nat)
  | evict (hank : Nat)
  | ret (panel : Nat) (area hank : Nat)
  | deploy (cmd : Nat)
deriving DecidableEq, Repr, Inhabited

/-- Whom an allocation is for (R200). -/
inductive Taker where
  | move (id : Nat)
  | lazy (panel area : Nat)
  | pages (panel slot : Nat)
  | list (panel slot : Nat)
  | cast (panel : Nat)
  | stage (cmd : Nat)
  | token (slot : Nat)
  | summary (slot : Nat)
  | mirror
deriving DecidableEq, Repr, Inhabited

/-- An allocation that has not been served yet: the hank being evicted for it, and whether its wait has been counted
(R200, R221). -/
structure AllocWait where
  who : Taker
  victim : Option Nat
  counted : Bool
deriving DecidableEq, Repr, Inhabited

/-- A move at a move engine (R193). -/
structure MoveRec where
  id : Nat
  stack : Nat
  kind : Nat
  alloc : Bool
  pin : Bool
  tag : BitVec 16
  panel : Nat                  -- 0xFF the module domain
  dtier : Nat
  src : Nat
  dst : Nat
  len : Nat
  peer : Nat
  by_ : Submitter
  pool : Bool
  placed : Bool := false                   -- its destination is chosen (R194, R516)
  running : Bool := false
  held : Bool := false                     -- its allocation waits (R200)
  filled : Nat := 0                        -- pages of a T3 destination that have entered the write buffer (R213)
  got : List (Nat × Byte) := []            -- bytes fetched from a peer, by device address
  bad : List Nat := []                     -- T3 pages LDPC could not correct (R208)
  lost : List Nat := []                    -- those of them that no source gave back (R211)
  read : Bool := false                     -- the read of its source has ended and is counted (R221)
deriving DecidableEq, Repr, Inhabited

/-- The state of a stack's translation layer: 0 NOT_MOUNTED to 5 FAILED (R220), and its blocks (R212 to R217). -/
structure T3Stack where
  st : BitVec 4 := 0              -- 4; R220; 0 NOT_MOUNTED
  closed : Bool := true           -- the journal was closed at the last loss or reset; R471; DESIGN CHOICE 1 (5)
  buffer : List Nat := []         -- 4 KiB pages in the 64 MiB write buffer; R213; empty
  place : Tbl Nat := []           -- block that holds each 4 KiB page (channel × 65,536 + block); R212; none
  written : Tbl Nat := []         -- 16 KiB pages programmed in each block since its last erase; R212; DESIGN CHOICE 0 (5)
  openBlk : Tbl Nat := []         -- block each channel is writing; R214; DESIGN CHOICE none (5)
  passEnd : Nat := 0              -- module time in µs at which the present patrol pass ends; R216; DESIGN CHOICE 0 (2)
  seen : List (Nat × Nat) := []   -- ranges of pages patrolled in the present pass; R216; none
  erases : Tbl (BitVec 16) := []  -- erase count of each block; R214; DESIGN CHOICE 0 (5)
  reads : Tbl (BitVec 32) := []   -- reads since the last erase; R215; 0
  retired : List Nat := []        -- retired blocks; R217; none
  spare : Nat := 65088            -- spare blocks; R217; DESIGN CHOICE 65,088 (5)
deriving DecidableEq, Repr, Inhabited

/-- A read-cache line of a stack: way and line address, most recently used first within the set (R185, R186). -/
structure CacheLine where
  way : Nat
  line : Nat
deriving DecidableEq, Repr, Inhabited

/-- A stack: its move engine order, T3 layer, read cache, datapath log (R8, R91). -/
structure Stack where
  t3 : T3Stack := {}
  cache : Tbl (List CacheLine) := []   -- 16,384 sets of 16 ways; R185; no lines
  log : List LogRec := []              -- 256 records, oldest first; R91; empty
deriving DecidableEq, Repr, Inhabited

/-- An instance of an extent or area of a cast-on pattern: where each of its hanks lies (R195, R267). -/
structure AreaInst where
  tier2 : Bool
  pinned : Bool
  readOnly : Bool              -- an extent of the image, recoverable from it (R208)
  len : Nat
  imgOff : Nat                 -- offset of its bytes in the image, for an extent
  swap : Nat
  wver : BitVec 32             -- weight version of the copy it comes from (R273, R279)
  locs : List Loc
deriving DecidableEq, Repr, Inhabited

/-! ## Panels -/

/-- Panel states (R274), in the code of IDENTIFY CNS 1 (R347). -/
inductive PanelSt where
  | empty | casting | ready | swapping | binding | faulted
deriving DecidableEq, Repr, Inhabited

/-- The mapping-fault record of a panel (R143). -/
structure FaultRec where
  unit : Nat
  resource : Nat
  atCastOn : Bool
  more : Bool
  address : Nat
  value : BitVec 64
  limit : BitVec 64
  time : BitVec 64
deriving DecidableEq, Repr, Inhabited

/-- An entry of a walk on its way to its ring (R231, R232): the walk record, or a block. -/
inductive WalkEnt where
  | record (blocks first n slot : Nat)
  | block (b n slot layer group : Nat) (first : Bool)
deriving DecidableEq, Repr, Inhabited

/-- A walk ring in use: entries written, entries to come (R230, R232). -/
structure WalkRing where
  put : Nat := 0
  todo : List WalkEnt := []
deriving DecidableEq, Repr, Inhabited

/-- Pages of a request that are released once the walks of its last step have finished (R242): its slot, the page indices,
whether the page list goes with them, and whether the step was abandoned for a lost page (R243). -/
structure PageRelease where
  slot : Nat
  lo : Nat
  hi : Nat
  whole : Bool
  lost : Bool
deriving DecidableEq, Repr, Inhabited

/-- A scatter in progress (R240): slot, rows, next row, waiting in take_pages. -/
structure Scatter where
  slot : Nat
  rows : Nat
  next : Nat
  appends : List Rec64
  taken : Bool := false         -- the pages of the next position have been taken (R240)
  waited : Bool := false        -- the present take_pages call has been counted as a wait (R245)
deriving DecidableEq, Repr, Inhabited

/-- A segment of a bundle or of a return (R253). -/
structure Segment where
  expert : Nat
  index : List (Nat × Nat)      -- token index, choice rank
  rows : List (List Byte)       -- row data in XFMT or YFMT
  keep : List Bool              -- return: the keep tile
  localDrops : Nat
deriving DecidableEq, Repr, Inhabited

/-- A bundle or a set of returns in an inbox slot (R254). -/
structure Bundle where
  layer : Nat
  source : Nat
  step : Nat
  stack : Nat
  part : Nat
  ret : Bool
  segs : List Segment
  announced : Bool
deriving DecidableEq, Repr, Inhabited

/-- A step open at a source (R259): choices of each token with gate weights (R247, R248). -/
structure SrcStep where
  layer : Nat
  source : Nat
  step : Nat
  choices : List (List (Nat × BitVec 32))   -- per token: expert, gate weight, by rank
  sentDrop : List (Nat × Nat)               -- (token, rank) dropped at the source
  returns : List Segment
  experts : List Nat                        -- experts whose return segment has come
deriving DecidableEq, Repr, Inhabited

/-- A step open at a home (R255, R257). -/
structure HomeStep where
  layer : Nat
  stack : Nat
  step : Nat
  done : Nat                                -- sources processed, in ascending order
  slots : Tbl Nat                           -- global slot counter of each expert
  kept : Tbl Nat                            -- kept rows of each expert
  keep : List (Nat × Nat × List Bool)       -- source, expert, keep bits
  base : List (Nat × Nat × Nat)             -- source, expert, first global slot
  probs : Nat                               -- problem instructions appended
deriving DecidableEq, Repr, Inhabited

/-- A record of the step in flight (R289). -/
structure StepRec where
  kind : Nat
  slot : Nat
  first : Nat
  count : Nat
  removed : Bool                             -- its request left the step (R303)
deriving DecidableEq, Repr, Inhabited

/-- A cast-on pattern and the panel's serving state (R275, R287, R518). -/
structure Cast where
  model : BitVec 32
  wversion : BitVec 32
  admission : BitVec 32
  img : Image
  ventry : Nat × Nat := (0, 0)      -- version-marker entry: physical unit and input strand (R264, R275)
  cmap : List Nat                   -- physical cluster of each logical cluster (R266)
  place : List (Nat × Nat)          -- logical unit of each STATIC unit moved to a spare, and the spare (R272)
  areas : Tbl AreaInst := []
  dirBase : Nat := 0                -- device address of the pool directory (R225), 0 for none
  histDone : Tbl Nat := []          -- records written of each tensor identifier since CAST_ON; R58; none
  dieSeq : Tbl Nat := []            -- tiles the engines of each base die have made since CAST_ON (R205)
  spillUsed : Nat := 0              -- spill blocks in use (R138)
  -- serving
  runEmpty : Nat := 0               -- the device's empty count of the run link (R148)
  stepEmpty : Nat := 0              -- of the step link
  runFull : Nat := 0                -- the device's full count of the outbound run link
  stepFull : Nat := 0
  runBuf : Nat := 0                 -- next inbound buffer of the run link (R151)
  runOut : Nat := 0
  stepBuf : Nat := 0
  stepOut : Nat := 0
  runs : List (Option Nat) := []    -- slots of the RUNs in flight, oldest first, none for a removed one (R305)
  step : Option (Nat × List StepRec) := none  -- step in flight: STEP and records (R518)
  stepNo : Nat := 0                 -- next STEP number (R289)
  tau : BitVec 32 := 0              -- measured per-token time in ns (R517)
  lastDecode : Option Nat := none   -- module time of the last boundary with a decode record (R517)
  flush : Bool := false             -- a flush marker is due (R292)
  stopDue : Bool := false           -- a stop marker is due (R292)
  -- key-value cache
  pagesTaken : List Nat := []       -- page numbers in use (R226)
  releases : List PageRelease := [] -- releases that wait for a walk of the request's last step (R242)
  poolHanks : Tbl Nat := []         -- pool table: device address of each page hank (R225)
  lostPages : List Nat := []        -- page numbers marked lost (R211)
  heldAt : List (Nat × List Nat) := []  -- writes of engines held for a source in transit: device address, requests (R194)
  rings : Tbl WalkRing := []
  appends : List (Nat × Rec64) := []  -- APPEND commands held until the boundary, with the base die they reached (R239)
  scatters : List Scatter := []     -- scatters to run or waiting for pages (R240)
  -- experts
  inbox : List Bundle := []
  srcSteps : List SrcStep := []
  homeSteps : List HomeStep := []
  seen : List (Nat × Nat × Nat × Nat × Nat) := []   -- accepted (layer, step, kind, source, part) (R251)
  waitDispatch : List (Nat × Rec64) := []           -- DISPATCHes held for a third step (R259)
  -- swap
  swapTo : Option Image := none
  swapCmd : Nat := 0
  swapAt : Nat := 0                 -- module time at which the swap was accepted (R280)
  swapped : List Nat := []          -- swap layers copied
  markerDue : Bool := false         -- the version marker is not placed yet (R278)
deriving DecidableEq, Repr, Inhabited

/-- A created panel (R345). -/
structure Panel where
  gen : Bool := false               -- named for GEN traffic; R344
  clusters : BitVec 64 := 0         -- R344
  groups : BitVec 24 := 0           -- R344
  ways : BitVec 64 := 0             -- four 16-bit masks; R344
  st : PanelSt := .empty            -- R274; EMPTY
  fallback : Nat := 0xFF            -- R299; DESIGN CHOICE 0xFF, none (2)
  margin : BitVec 32 := 0           -- R299; DESIGN CHOICE 0 (2)
  cast : Option Cast := none
  castCmd : Option Nat := none      -- the running CAST_ON, BIND_OFF, SWAP_WEIGHTS or SWATCH
  fault : Option FaultRec := none   -- R143; none
  mapFault : Bool := false          -- FAULTED by a mapping fault (R286)
  drained : Bool := false           -- the drain limit has ended (R277)
  closedAt : Nat := 0               -- module time at which it entered BINDING (R277)
  swatching : Bool := false         -- CASTING by SWATCH (R475)
deriving DecidableEq, Repr, Inhabited

/-- A catalogue entry (R269): the image, its T3 pieces, its staged copy. -/
structure CatEntry where
  model : BitVec 32
  wversion : BitVec 32
  length : Nat
  valid : Bool
  img : Image
  pieces : List Nat
  staged : List Nat
  filled : Nat := 0                 -- pages that have entered the write buffers while it is deployed (R213)
deriving DecidableEq, Repr, Inhabited

/-! ## Serving -/

/-- Slot states (R282). -/
inductive SlotSt where
  | queued | prefill | decode | paused | summarising | done | aborted
deriving DecidableEq, Repr, Inhabited

/-- A command that waits for its target: ring and REQUEST_ID (R310, R313). -/
structure Waiter where
  ring : Nat               -- SUBMIT ring of the command
  cq : Nat                 -- COMPLETE ring of its completion
  reqId : BitVec 32
  opcode : Nat
  status : Nat
  retry : Bool := false    -- an ABORT with RETRY (R313)
deriving DecidableEq, Repr, Inhabited

/-- A request slot that is not FREE (R282), with its shadow and what the device keeps beside it. -/
structure Slot where
  st : SlotSt := .queued
  opcode : Nat := 0
  cls : Nat := 0
  prio : BitVec 4 := 0
  effective : BitVec 4 := 0
  panel : Nat := 0
  homePanel : Nat := 0
  client : Nat := 0
  fallback : Bool := false
  pausePending : Bool := false
  abortPending : Bool := false
  noDeadline : Bool := false
  urgent : Bool := false
  takeover : Bool := false
  retryPending : Bool := false
  resumed : Bool := false
  length : Nat := 0
  committed : Nat := 0
  prompt : Nat := 0
  maxNew : Nat := 0
  deadline : BitVec 32 := 0
  acceptedAt : BitVec 32 := 0
  stopSet : Nat := 0xFFFF
  ring : Nat := 0
  streamRing : Nat := 0xFFFF
  reqId : BitVec 32 := 0
  model : BitVec 32 := 0
  wversion : BitVec 32 := 0
  served : BitVec 32 := 0            -- weight version of its panel that it is served under (R278)
  seed : BitVec 64 := 0
  pageList : Nat := 0
  tokenList : Nat := 0
  summary : Nat := 0
  mirrorEpoch : BitVec 32 := 0
  status : Nat := 0
  reason : Nat := 0
  lastStep : BitVec 32 := 0
  shadow : Rec64 := 0                -- R342
  -- kept beside the slot
  submitRing : Nat := 0
  budget : BitVec 32 := 0
  promptReady : Bool := false        -- prompt read and checked (R341)
  sampled : List (BitVec 32 × BitVec 16) := []  -- sampled and not committed, oldest first: token, LOGPROB (R23)
  stopAt : Option (Nat × Nat) := none  -- reason and status a sampled token decided (R303)
  streamed : Nat := 0                -- tokens streamed by this request (COUNT of R348)
  recordsDue : Nat := 0              -- stream records waiting for their ring (R352)
  finalDue : Bool := false           -- the final record is queued and not yet written (R287)
  complDue : Bool := false           -- the completion entry is queued
  outBytes : Nat := 0                -- RUN: output bytes written (R348)
  histWritten : Bool := false
  pausers : List Waiter := []        -- PAUSEs to complete (R310)
  aborters : List Waiter := []       -- ABORTs to complete (R313)
  retryTo : Nat := 0xFF              -- target panel of a pending RETRY (R313)
  rebuild : Bool := false            -- a KV rebuild is due (R243)
  fallbackDue : Bool := false        -- the monitor took the fallback (R300)
  discardSum : Bool := false         -- a summary result is to be discarded (R286)
  lastKv : Nat := 0                  -- full page indices mirrored (R413)
  kvSkip : Bool := false             -- no further pages mirrored (R413)
  handed : Option Nat := none        -- CAUSE of a HANDOVER sent (R420)
  cut : Bool := false                -- a host-interface reset cut it off from host memory (R322)
  group : Nat := 0                   -- ring group of the SUBMIT ring that carried it (R295)
  fed : Bool := false                -- the summary has been fed since LENGTH was last 0 (R311)
  positions : Nat := 0               -- POSITIONS of its summary, as the checked header gave them (R310)
  sumLost : Bool := false            -- its summary is marked lost (R211)
  sumDue : Bool := false             -- its summary goes to the partner once its hank is back from T3 (R202, R404)
  sumReady : Bool := false           -- the token result of the summary-out record has come (R310)
deriving DecidableEq, Repr, Inhabited

/-- One entry of the cyclic schedule (R294). -/
structure SchedEnt where
  start : Nat
  length : Nat
  panel : Nat
  group : Nat
deriving DecidableEq, Repr, Inhabited

/-- A cyclic schedule (R294). -/
structure Schedule where
  period : Nat
  entries : List SchedEnt
deriving DecidableEq, Repr, Inhabited

/-! ## Host interface -/

/-- Whose completion an entry is: a command's that holds no slot, a slot's, which is FREE once it is written, or that of a
paused request of a panel, which keeps its slot (R286, R310, R316). -/
inductive DueFor where
  | command
  | slot (i : Nat)
  | panel (p : Nat)
deriving DecidableEq, Repr, Inhabited

/-- What is due to a COMPLETE ring, a STREAM ring or ring 0 (R348, R306). -/
inductive Due where
  | completion (body : BitVec 224) (owner : DueFor) (waiters : List Waiter)
  | stream (rec : BitVec 128) (slot : Option Nat) (final : Bool)
  /-- The end record of a paused request or of one that holds no slot, with the completions that follow it (R287, R310,
  R339, R417). -/
  | paused (rec : BitVec 128) (cq : Nat) (body : BitVec 224) (owner : DueFor) (waiters : List Waiter)
deriving DecidableEq, Repr, Inhabited

/-- Ring states (R330). -/
inductive RingSt where
  | disabled | enabled | error
deriving DecidableEq, Repr, Inhabited

/-- A ring context (R330, R328). -/
structure Ring where
  st : RingSt := .disabled          -- 2; R330; 0
  error : BitVec 4 := 0             -- 4; R330; 0
  type : Nat := 0                   -- 3; R330; 0
  takeover : Bool := false          -- 1; R330; 0
  k : Nat := 6                      -- SIZE + 6; R330; 6
  cqk : Nat := 6                    -- CQ_SIZE + 6; R330; 6
  group : Nat := 0                  -- 8; R330; 0
  cq : Nat := 0                     -- 12; R330; 0
  ien : Bool := false               -- 1; R330; 0
  vector : Nat := 0                 -- 11; R330; 0
  delay : Nat := 0                  -- 8; R330; 0
  base : Nat := 0                   -- 51; R330; 0
  cqBase : Nat := 0                 -- 51; R330; 0
  idx : BitVec 32 := 0              -- device-side index: head of SUBMIT, tail of COMPLETE or STREAM; R328; 0
  cqTail : BitVec 32 := 0           -- ring 0: completion tail; R328; 0
  pubHead : BitVec 32 := 0          -- head last read; R351; 0
  due : List Due := []              -- entries due and not written; R333; none
  unannounced : Nat := 0            -- entries written and not announced; R354; 0
  firstAt : Nat := 0                -- module time the first of them was written; R354; 0
  waited : List Due := []           -- entries due whose wait for room is counted; R351, R352; none
deriving DecidableEq, Repr, Inhabited

/-- The RING_ staging registers (R330). -/
structure RingRegs where
  sel : BitVec 12 := 0              -- 12; R330; 0
  base : BitVec 51 := 0             -- ADDR [50:12]; R330; 0
  cqb : BitVec 51 := 0              -- ADDR [50:12]; R330; 0
  cfg : BitVec 20 := 0              -- [19:0]; R330; 0
  link : BitVec 32 := 0             -- 32; R330; 0
deriving DecidableEq, Repr, Inhabited

/-- The DB_ registers (R334). -/
structure DbRegs where
  bitmap : BitVec 51 := 0           -- ADDR [50:12]; R334; 0
  tail : BitVec 51 := 0             -- ADDR [50:12]; R334; 0
  devidx : BitVec 51 := 0           -- ADDR [50:12]; R334; 0
  bitmapCur : BitVec 51 := 0        -- bitmap address in effect; R334; 0
  tailCur : BitVec 51 := 0          -- tail-array address in effect; R334; 0
  devidxCur : BitVec 51 := 0        -- device-index address in effect; R334; 0
  interval : BitVec 7 := 2          -- 7; R334; 2
  enable : Bool := false            -- 1; R334; 0
deriving DecidableEq, Repr, Inhabited

/-- The IRQ_ registers (R355). -/
structure IrqRegs where
  vector : BitVec 11 := 0           -- 11; R355; 0
  cause : BitVec 6 := 0             -- 6; R355; 0
  enable : BitVec 6 := 0            -- 6; R355; 0
deriving DecidableEq, Repr, Inhabited

/-- How the last access of a master was answered. -/
inductive Reply where
  | none
  | value (master : BitVec 8) (v : BitVec 64)
  | abort (master : BitVec 8)       -- Completer Abort, all-ones data (R323, R372)
  | unsupported (master : BitVec 8) -- Unsupported Request (R511)
  | busError (master : BitVec 8)    -- bus error with code DOMAIN_OFF (R372)
  | retry                            -- Configuration Request Retry Status (R321)
  | nack                             -- not acknowledged on the management bus (R497)
deriving DecidableEq, Repr, Inhabited

/-- What the module has sent out: interrupt messages, service messages, flits. -/
inductive Out where
  | msix (vector : Nat)
  | interrupt (master : Nat)        -- a doorbell interrupt of a master other than the host (R370)
  | flit (port : Nat) (f : Flit)
deriving DecidableEq, Repr, Inhabited

/-- A write to host memory that is held: a byte, or an interrupt message of a vector (R320). -/
inductive HeldWrite where
  | cell (addr : Nat) (b : Byte)
  | message (vector : Nat)
deriving DecidableEq, Repr, Inhabited

/-- The PCI Express function (R317 to R323). -/
structure HostFn where
  perst : Bool := true              -- PERST# asserted; R462; asserted until the tray deasserts it
  training : Bool := false          -- link training may run; R462; 0
  up : Bool := false                -- the data link is up; R459; 0
  busMaster : Bool := false         -- Bus Master Enable; R320; 0
  memOn : Bool := false             -- Memory Space Enable; R317; PRESUMED 0 (92)
  bars : List (BitVec 64) := [0, 0] -- base addresses of BAR0 and BAR2; R317, R323; PRESUMED 0 (92)
  msixOn : Bool := false            -- MSI-X Enable; R317; PRESUMED 0 (92)
  msixAll : Bool := false           -- MSI-X Function Mask; R317; PRESUMED 0 (92)
  payload : BitVec 3 := 0           -- Max_Payload_Size, 128 bytes times a power of two; R317; PRESUMED 0 (92)
  readSize : BitVec 3 := 2          -- Max_Read_Request_Size, the same; R317; PRESUMED 2 (92)
  aspmL1 : Bool := false            -- ASPM L1 enabled; R317; PRESUMED 0 (92)
  readTimeout : BitVec 4 := 0       -- Completion Timeout Value, 0 the default setting; R319; PRESUMED 0 (92)
  aer : BitVec 32 := 0              -- AER Uncorrectable Error Status; R319; PRESUMED 0 (92)
  aerMask : BitVec 32 := 0          -- AER Uncorrectable Error Mask; R317; PRESUMED 0 (92)
  d3hot : Bool := false             -- 1; R320; 0
  flrBusy : Bool := false           -- 1; R321; 0
  version : BitVec 4 := 0           -- CAP_DRV.VERSION; R326; 0
  lock : Bool := false              -- CAP_DRV.LOCK; R326; 0
  held : List HeldWrite := []       -- host writes held, in order; R320; none
  msixMask : Tbl Bool := []         -- vector masks, absent masked; R317; PRESUMED masked (6)
  msixOff : Tbl (BitVec 32) := []   -- the other words of the MSI-X table; R507; PRESUMED 0 (6)
  pba : List Nat := []              -- pending bits; R354; none
  pollStart : Nat := 0              -- ring at which the next poll starts; R335; DESIGN CHOICE 0 (2)
  lastPoll : Option Nat := none     -- module time of the last poll; R335; none
  bad : List (Nat × Nat × ReadFail) := []  -- host ranges whose reads fail, and how (the environment's); R319; none
deriving DecidableEq, Repr, Inhabited

/-- An admin command that ring 0 has taken (R343). -/
structure AdminCmd where
  id : Nat
  d : Rec64
  discard : Bool := false           -- its completion is discarded (R322)
deriving DecidableEq, Repr, Inhabited

/-! ## Mailboxes -/

/-- A word in a mailbox queue with its stamp and destination (R359). -/
structure MbxWord where
  word : BitVec 32
  src : BitVec 8
  dst : BitVec 8
deriving DecidableEq, Repr, Inhabited

/-- A mailbox channel (R358, R363). On a bound channel `q0` runs toward MASTER_A and `q1` toward MASTER_B; on a
privileged one `q0` is inbound and `q1` outbound. -/
structure Chan where
  a : BitVec 8 := 0                 -- 8; R370; 0
  b : BitVec 8 := 0                 -- 8; R370; 0
  valid : Bool := false             -- 1; R370; 0
  q0 : List MbxWord := []           -- 16 words; R358; empty
  q1 : List MbxWord := []           -- 16 words; R358; empty
  compat : Bool := false            -- 1; R363; 0
  lock : BitVec 8 := 0              -- 8; R368; 0
  dst : BitVec 8 := 0               -- 8; R363; 0
  txCol : List (BitVec 8) := []     -- masters with TX_COLLISION; R363; none
  rxCol : List (BitVec 8) := []     -- masters with RX_COLLISION; R363; none
  latch : List (BitVec 8 × BitVec 32) := []  -- latched upper half of MBX_RX per master; R364; none
deriving DecidableEq, Repr, Inhabited

/-- A reply a handler remembers for 100 ms (R375). -/
structure Answered where
  handler : BitVec 8
  src : BitVec 8
  seq : BitVec 8
  at_ : BitVec 64
  words : List (BitVec 32)
deriving DecidableEq, Repr, Inhabited

/-- A SET_CAP or RESET_MODULE whose reply waits for room (R375). -/
structure Running where
  handler : BitVec 8
  src : BitVec 8
  ch : Nat
  seq : BitVec 8
  resets : Bool
  words : List (BitVec 32)
deriving DecidableEq, Repr, Inhabited

/-- The mailboxes (R357 to R377). -/
structure Mbx where
  chans : Tbl Chan := []            -- 64 channels; R358; entries 0-3 as R360 (the operations supply them)
  locked : Bool := false            -- MBX_BIND_LOCK; R370; 0
  db : Tbl (BitVec 32) := []        -- doorbell bits per master; R370; 0
  mask : Tbl (BitVec 32) := []      -- mask bits per master, absent 0xFFFF_FFFF; R370; all ones
  vec : BitVec 11 := 0              -- MBX_DB_VEC.VECTOR; R370; 0
  vecEn : Bool := false             -- MBX_DB_VEC.ENABLE; R370; 0
  off : List (BitVec 8) := [0x10, 0x11, 0x12, 0x13, 0x30, 0x40, 0x50]  -- masters whose domain is off; R371; all but host and security core
  answered : List Answered := []    -- R375; none
  running : List Running := []      -- requests whose handler still runs; R375; none
deriving DecidableEq, Repr, Inhabited

/-! ## Links -/

/-- Port states (R398). -/
inductive PortSt where
  | down | electrical | align | hello | up
deriving DecidableEq, Repr, Inhabited

/-- A receive channel (R388, R389). -/
structure RecvCh where
  panel : Nat
  open_ : Bool
  credits : Nat
  crn : BitVec 16
  dest : Dest
  hdr : Option Rec64 := none        -- header for the next beat (R385)
  slots : List (Nat × Beat) := []   -- slots received and not yet freed, oldest first: type and contents (R389)
  done : Nat := 0                   -- markers of the first of them already delivered (R385)
deriving DecidableEq, Repr, Inhabited

/-- A transmit channel: open toward this module, credits, last CRN seen (R388, R389). -/
structure SendCh where
  open_ : Bool := false
  credits : Nat := 0
  lastCrn : BitVec 16 := 0
  sent : Nat := 0               -- slots sent whose credits have not come back
deriving DecidableEq, Repr, Inhabited

/-- A link port (R378 to R393). -/
structure Port where
  st : PortSt := .down              -- 3; R398; DOWN
  degraded : Bool := false          -- 1; R398; 0
  reason : BitVec 4 := 0            -- 4; R398; 0
  peer : BitVec 8 := 0xFF           -- 8; R398; 0xFF
  peerPort : BitVec 5 := 0x1F       -- 5; R398; 0x1F
  version : BitVec 4 := 0           -- 4; R398; 0
  seenHello : Bool := false         -- a valid hello of this peer was received; R381; 0
  sentSeen : Bool := false          -- a hello with PEER_SEEN was sent; R381; 0
  gotSeen : Bool := false           -- a hello with PEER_SEEN was received; R381; 0
  resumeTx : Bool := false          -- its hellos carry RESUME; R387; 0
  prev : Option (BitVec 64 × BitVec 8) := none  -- SERIAL and PORT of the previous session; R387; none
  cur : Option (BitVec 64 × BitVec 8) := none   -- SERIAL and PORT of the peer now heard; R387; none
  leftUp : Option Nat := none       -- module time it left UP; R387; none
  retryAt : Option Nat := none      -- module time at which a failed or refused port starts again; R380; none
  since : Nat := 0                  -- module time at which STATE was entered; R380; DESIGN CHOICE 0 (2)
  peerResume : Bool := false        -- the peer's hello carries RESUME; R387; 0
  peerLast : BitVec 16 := 0         -- LAST_RX of the peer's hello; R387; DESIGN CHOICE 0 (2)
  lastGood : Nat := 0               -- module time of the last flit in error-free codewords; R387; DESIGN CHOICE 0 (2)
  txSeq : BitVec 16 := 0            -- next SEQ; R386; 0
  rxLast : BitVec 16 := 0xFFFF      -- last SEQ received in order; R386; DESIGN CHOICE 0xFFFF, one below 0 (2)
  acked : BitVec 16 := 0xFFFF       -- last ACK received; R386; DESIGN CHOICE 0xFFFF (2)
  nak : Bool := false               -- discarding until the expected SEQ; R386; 0
  replay : List (BitVec 16 × Flit × Nat) := []  -- replay buffer with resends, 2,048; R386; empty
  recv : Tbl RecvCh := []           -- 64 strand channels in; R388; closed
  send : Tbl SendCh := []           -- 64 strand channels out and the service channel; R388; closed
  served : List Nat := []           -- fetch requests being served: beats still to leave up to the end of each; R394; none
  asm : Option (Rec64 × List Beat) := none  -- service message being received; R393; none
  txq : List Beat := []             -- service-channel beats waiting for credits or replay room; R389; empty
  svcCrn : BitVec 16 := 0           -- cumulative returns of the service channel; R389; DESIGN CHOICE 0 (2)
  crnDue : List Nat := []           -- channels whose count has changed since they opened, in rotation; R389; none
  nakDue : Bool := false            -- the next outgoing flit carries NAK; R386; 0
  rack : BitVec 64 := 0             -- 64; the rack identity its training began with; R398; 0
  resendq : List (Nat × Entry) := []  -- entries of tiles to be sent again that wait for credit: channel, entry; R210; empty
  txMid : Nat := 0                  -- waiting beats that end a service message already begun; R393; 0
  skip : Nat := 0                   -- data beats still to come of a service message that was discarded; R393; 0
deriving DecidableEq, Repr, Inhabited

/-- An outstanding fetch or storage read request (R394, R396). -/
structure Fetch where
  tag : BitVec 16
  port : Nat
  key : BitVec 64
  off : Nat
  len : Nat
  retries : Nat := 0
  sent : Bool := false              -- the request is outstanding (R394)
  mv : Option Nat := none           -- the FETCH_PEER move
  cmd : Option Nat := none          -- the DEPLOY command
  target : Bool := false            -- a READ_REQ to a storage target
  data : Bool := false              -- its READ_DATA has come (R395)
  busyAt : Option Nat := none       -- module time of the BUSY answer it waits on (R394)
deriving DecidableEq, Repr, Inhabited

/-- The links (R398). -/
structure Links where
  enable : BitVec 18 := 0x3FFFF     -- 18; R398; 0x3_FFFF
  rackId : BitVec 64 := 0           -- 64; R398; 0
  event : BitVec 18 := 0            -- 18; R398; 0
  ports : Tbl Port := []            -- 18 ports; R398; DOWN
  fetches : List Fetch := []        -- outstanding requests; R394; none
  nextTag : BitVec 16 := 0          -- next request tag; R393; DESIGN CHOICE 0 (2)
deriving DecidableEq, Repr, Inhabited

/-! ## The ply pair -/

/-- Pair states (R402). -/
inductive PlySt where
  | unbound | binding | syncing | bound | releasing | lost
deriving DecidableEq, Repr, Inhabited

/-- A mirror entry, indexed by the partner's slot (R409, R414). -/
structure Mirror where
  broken : Bool := false            -- a record was discarded and no snapshot applied since (R410)
  have_ : Nat := 0                  -- positions of its token list received
  epoch : BitVec 32 := 0
  opcode : Nat := 0
  prio : BitVec 4 := 0
  client : Nat := 0
  reqId : BitVec 32 := 0
  model : BitVec 32 := 0
  wversion : BitVec 32 := 0
  seed : BitVec 64 := 0
  maxNew : Nat := 0
  prompt : Nat := 0
  committed : Nat := 0
  budget : BitVec 32 := 0
  deadline : BitVec 32 := 0         -- local deadline (R417)
  stopSet : Nat := 0xFFFF
  submitRing : Nat := 0
  mflags : BitVec 16 := 0
  st : Nat := 0
  status : Nat := 0
  reason : Nat := 0
  kvPages : Nat := 0
  tokenList : Nat := 0              -- token-list hank: IDs at 0, log-probabilities at 0x10_0000
  summary : Nat := 0
  positions : Nat := 0              -- POSITIONS of its summary (R310)
  pages : List (Nat × Nat × Nat × Nat) := []  -- page index, layer, group, device address of a mirrored page
deriving DecidableEq, Repr, Inhabited

/-- Bulk bytes that a BULK record has announced (R409). -/
structure BulkWait where
  slot : Nat
  what : Nat
  bytes : Nat
  dcrc : Nat
  page : Nat
  layer : Nat
  group : Nat
deriving DecidableEq, Repr, Inhabited

/-- An unacknowledged lifeline message: TAG, and slot and INDEX of each token its GENERATED records carry (R411). -/
structure Unacked where
  tag : BitVec 16
  toks : List (Nat × Nat)
deriving DecidableEq, Repr, Inhabited

/-- The module's side of the pair (R402 to R428). -/
structure Ply where
  st : PlySt := .unbound            -- 3; R427; UNBOUND
  fenced : Bool := false            -- 1; R427; 0
  partner : BitVec 8 := 0xFF        -- 8; R427; 0xFF
  standby : BitVec 16 := 0          -- 16; R427; 0
  events : BitVec 8 := 0            -- 8; R427; 0
  adopted : BitVec 16 := 0          -- 16; R427; 0
  ended : BitVec 16 := 0            -- 16; R427; 0
  kvThreshold : Nat := 0            -- R403; 0
  owner : Option Nat := none        -- owner of the mirror hanks, none the module; R414; none
  mirror : Tbl Mirror := []         -- 16,384 entries; R414; free
  mcat : List (BitVec 32 × BitVec 32 × BitVec 64 × BitVec 256) := []  -- partner's catalogue: key, LENGTH, DIGEST; R406; none
  txTag : BitVec 16 := 0            -- next TAG; R408; DESIGN CHOICE 0 (2)
  rxTag : BitVec 16 := 0xFFFF       -- last data message applied; R408; DESIGN CHOICE 0xFFFF (2)
  beat : BitVec 32 := 0             -- BEAT last sent; R408; DESIGN CHOICE 0 (2)
  missed : Nat := 0                 -- consecutive missed beats; R415; 0
  beatAt : Nat := 0                 -- module time of the last message, or of the last beat counted as missed; R415; DESIGN CHOICE 0 (2)
  unacked : List Unacked := []      -- R408; none
  outQ : List (Bool × List Byte × List (Nat × Nat)) := []  -- data messages waiting (BULK, data, generated tokens); R408; none
  dueC : List Due := []             -- takeover completions due; R418; none
  dueS : List Due := []             -- takeover stream records due; R418; none
  sentSync : Bool := false          -- SYNC_DONE sent; R404; 0
  gotSync : Bool := false           -- SYNC_DONE received; R404; 0
  bindCmd : Option Nat := none      -- the PLY_BIND that waits; R403; none
  relCmd : Option Nat := none       -- the PLY_RELEASE that waits; R405; none
  takeoverDue : Bool := false       -- takeover follows the declaration; R416; 0
  bulk : Option BulkWait := none    -- bulk bytes announced and not all received; R409; none
  bulkGot : List Byte := []         -- those received; R409; none
  rxQ : List (Option (BitVec 16) × Bool × List Byte) := []  -- data received and not yet applied (TAG, BULK, data); R414; none
  bindAt : Nat := 0                 -- module time PLY_BIND was accepted; R403; DESIGN CHOICE 0 (2)
  syncLeft : Nat := 0               -- data messages up to SYNC_DONE not yet acknowledged; R404; 0
  notices : List Nat := []          -- PLY_EVENT notices that wait for management core 0; R423; none
deriving DecidableEq, Repr, Inhabited

/-! ## Power, start-up, test -/

/-- Why the module is without power (R432, R433). -/
inductive OffCause where
  | underVoltage | overVoltage | overCurrent | presence | trip
deriving DecidableEq, Repr, Inhabited

/-- Power, clocks and cooling (R431 to R458). -/
structure Power where
  on : Bool := true                 -- rails on; R432; on (time 0 is power good)
  qualifying : Bool := false        -- the hot-swap stage waits and charges; R434; 0
  pwrgd : Bool := true              -- PWRGD pin; R498; high
  present : Bool := true            -- presence contacts closed; R434; closed
  off : Option OffCause := none     -- cause of the input loss whose wait stands before the next start; R433; none
  openAt : Nat := 0                 -- time the presence contacts last opened, on the stage's clock; R433; DESIGN CHOICE 0 (2)
  offAt : Nat := 0                  -- time of the input loss on the stage's clock; R433; DESIGN CHOICE 0 (2)
  overCurrents : List Nat := []     -- times of over-current losses in µs; R433; none
  latched : Bool := false           -- stays off until removal and reapplication; R433; 0
  clock : Nat := 0                  -- µs the hot-swap stage has counted, by which it times restarts; R433; DESIGN CHOICE 0 (2)
  cap : BitVec 16 := 0              -- PWR_CAP.WATTS; R457; 0
  rackCap : BitVec 16 := 0          -- PWR_RACK_CAP.WATTS; R457; 0
  inForce : BitVec 16 := 0x0E10     -- PWR_STATUS.IN_FORCE; R457; 3,600
  thermal : Bool := false           -- PWR_STATUS.THERMAL; R457; 0
  inputLimit : Bool := false        -- PWR_STATUS.INPUT_LIMIT; R457; 0
  coolant : Bool := false           -- PWR_STATUS.COOLANT; R457; 0
  lag : BitVec 16 := 0              -- PWR_LAG.WATTS; R457; 0
  n : BitVec 7 := 0x40              -- PWR_OP.N; R457; 64
  ceil : BitVec 7 := 0x40           -- PWR_OP.CEIL; R457; 64
  thermalCap : BitVec 16 := 0x0E10  -- PWR_THERMAL_CAP.WATTS; R457; 3,600
  throttled : Bool := false         -- throttle in effect; R454; 0
  gauge : BitVec 64 := 0            -- PWR_GAUGE; R448; 0
  millivolts : BitVec 16 := 0       -- PWR_INPUT.MILLIVOLTS; R457; 0
  watts : BitVec 16 := 0            -- PWR_INPUT.WATTS; R457; 0
  junction : BitVec 16 := 0         -- PWR_TEMP0.JUNCTION; R457; 0
  sensors : List (BitVec 16) := []  -- 80 junction sensors as last read, four of each region then of each base die; R451; none read
  inlet : BitVec 16 := 0            -- PWR_TEMP0.INLET; R457; 0
  outlet : BitVec 16 := 0           -- PWR_TEMP1.OUTLET; R457; 0
  flow : BitVec 16 := 0             -- PWR_TEMP1.FLOW; R457; 0
  event : BitVec 5 := 0             -- PWR_EVENT; R457; 0
  activity : Nat := 0               -- activity counters as last sampled; R442; DESIGN CHOICE 0 (12)
  estimate : Nat := 0               -- power estimate in W; R442; DESIGN CHOICE 0 (12)
  trim : Int := 0                   -- what the loop adds to the estimate in W; R442; DESIGN CHOICE 0 (12)
  lagTicks : Nat := 0               -- consecutive ticks with a lag; R447; 0
  busMv : BitVec 16 := 11000        -- intermediate bus in mV, the measured input / 4; R435; DESIGN CHOICE 11,000 (76)
  coreMv : List (BitVec 16) := List.replicate 16 0  -- the 16 region core rails in mV; R435; 0 (off before step 1 of R462)
deriving DecidableEq, Repr, Inhabited

/-- A firmware image in a boot flash bank: 512 header bytes and the body (R465). -/
structure FwImage where
  header : List Byte
  body : List Byte
deriving DecidableEq, Repr, Inhabited

/-- Start-up, security (R459 to R485). -/
structure Boot where
  testHold : Bool := false          -- test hold; R481; 0
  time0 : Nat := 0                  -- module time at time 0 of this start; R461; 0
  rails : Bool := false             -- step 1 ended; R462; 0
  booted : Bool := false            -- step 2 ended; R462; 0
  cores : Bool := false             -- step 3 ended; R462; 0
  dramDone : Bool := false          -- step 4 ended; R462; 0
  dramTries : Nat := 0              -- attempts made; R470; 0
  dramBad : BitVec 24 := 0xFFFFFF   -- groups not yet trained; R470; all
  swatchDone : Bool := false        -- step 7 ended; R462; 0
  pcie : Bool := false              -- PCIe readiness, step 8 ended; R462; 0
  ready : Bool := false             -- STATUS.READY; R324; 0
  failed : Bool := false            -- STATUS.FAILED; R324; 0
  fail : BitVec 4 := 0              -- TST_START.FAIL; R484; 0
  t1Retired : List Nat := []        -- retired T1 hanks; R473; none
  groupsOut : BitVec 24 := 0        -- TST_GROUPS_OUT; R484; 0
  readyMs : BitVec 32 := 0          -- TST_TIME.READY_MS; R484; 0
  rackPos : BitVec 8 := 0xFF        -- RACK_POSITION; R324; 0xFF
  mirrorPinned : Bool := false      -- request-table mirror hanks and stop-set hank allocated; R463; 0
  mirrorHank : Nat := 0             -- device address of the first request-table mirror hank; R414; 0
  stopBase : Nat := 0               -- device address of the stop-set table; R302; 0
  catReady : Bool := false          -- catalogue index read, all stacks mounted; R471; 0
  fwVersion : BitVec 32 := 0        -- running FW_VERSION; R324; DESIGN CHOICE 0 (2)
  bank : Bool := false              -- SEC_STATUS.BANK; R483; 0
  secFallback : Bool := false       -- SEC_STATUS.FALLBACK; R483; 0
  rootSlot : BitVec 2 := 0          -- SEC_STATUS.ROOT_SLOT; R483; 0
  svnImage : BitVec 7 := 0          -- SEC_STATUS.SVN_IMAGE; R483; 0
  rcvAddr : BitVec 64 := 0          -- SEC_RCV_ADDR; R483; 0
  rcvLen : BitVec 26 := 0           -- SEC_RCV_CTRL.LENGTH; R483; 0
  rcvState : BitVec 2 := 0          -- SEC_RCV_STATUS.STATE; R483; 0
  rcvCheck : BitVec 8 := 0          -- SEC_RCV_STATUS.CHECK; R483; 0
  rcvImg : Option FwImage := none   -- image of a recovery in progress; R469; none
  updImg : Option (Nat × FwImage) := none  -- FW_UPDATE in progress: command and image; R468; none
deriving DecidableEq, Repr, Inhabited

/-- The image a boot flash bank holds when the module leaves manufacture (log entry 5). -/
def factoryBank (b : Nat) : FwImage :=
  { header := (List.range 512).map (Config.bankHeader0 b), body := Config.bankBody0 b }

/-- What survives a loss of power (R459) beside the T3 range of `State.mem`, the catalogue and the non-volatile
counters of R458 and R485: fuses and boot flash. -/
structure NonVolatile where
  revoked : BitVec 4 := Config.revoked0    -- 4, revocation mask fuses; R465; DESIGN CHOICE Config.revoked0 (5)
  svn : Nat := Config.svnFuse0             -- 0-64, fuse SVN; R465; DESIGN CHOICE Config.svnFuse0 (5)
  bankA : FwImage := factoryBank 0         -- 32 MiB, boot flash bank A; R465; DESIGN CHOICE factory image (5)
  bankB : FwImage := factoryBank 1         -- 32 MiB, boot flash bank B; R465; DESIGN CHOICE factory image (5)
  select : Bool := Config.bankSelect0      -- 1, bank-select record; R466; DESIGN CHOICE Config.bankSelect0 (5)
deriving DecidableEq, Repr

/-- What the data register of the test access port is (R479). -/
inductive TapDr where
  | idcode | boundary | bypass | mailbox
deriving DecidableEq, Repr, Inhabited

/-- What the boundary cells do to the pins (R481). -/
inductive PinDrive where
  | functional | extest | clamped | floating | pulse | train
deriving DecidableEq, Repr, Inhabited

/-- The test access port (R479 to R482). -/
structure Tap where
  ir : BitVec 8 := 0x01             -- 8, instruction register; R479; IDCODE
  dr : TapDr := .idcode             -- selected data register; R479; identification register
  trst : Bool := false              -- TRST# asserted; R482; DESIGN CHOICE deasserted (2)
  drive : PinDrive := .functional   -- what the cells do to the pins; R481; functional
  cells : List Bool := []           -- 11,264 boundary cells as last sampled; R480; DESIGN CHOICE none sampled (2)
deriving DecidableEq, Repr, Inhabited

/-- Per-client counts (R314). -/
structure Client where
  accepted : BitVec 32 := 0         -- 32; R314; 0
  inFlight : Nat := 0               -- at most 16,384; R314; 0
deriving DecidableEq, Repr, Inhabited

/-- The whole module, and the queue of commands that wait for it. -/
structure State where
  pending : List Instr := []        -- the commands waiting, first in first out; empty
  now : BitVec 64 := 0              -- module time in µs, 64; R284; 0
  freeCtr : Nat := 0                -- the model's own: free values taken so far; DESIGN CHOICE 0 (3)
  mem : Mem := []                   -- device bytes by 52-bit address, host aperture included; R179; none listed
  home : List (Nat × Nat) := []     -- home bits of the 4 KiB pages, as rising ranges [first, last + 1) of home pages; R189; homeless
  units : Tbl KUnit := []           -- 512 knit units; R8; each as KUnit's defaults
  signals : List SemRef := []       -- semaphore signals on their way; R140; none
  lists : Tbl WorkList := []        -- declared work lists; R164; none
  posted : List (Nat × Nat × Rec64) := []  -- KV and route commands stored to a queue beat and not yet served (panel, stack, command); R229; none
  claims : Tbl (List Claim) := []   -- claims at each work counter, clusters 0-63 then regions 64-79; R167; none
  reducers : Tbl Reducer := []      -- 16 entries of each region; R173; free
  hanks : Tbl Hank := []            -- allocated hanks of T1 and T2; R198; all FREE
  hostPins : Tbl Nat := []          -- host part of each hank's pin count; R203; 0
  allocs : List AllocWait := []     -- allocations not served yet; R200; none
  nextEpoch : Nat := 1000           -- module time in µs of the next pool epoch boundary; R199; one period (79)
  moves : List MoveRec := []        -- moves queued and running, in order of arrival; R193; none
  nextId : Nat := 0                 -- the model's own: identifiers given to moves and admin commands; DESIGN CHOICE 0 (3)
  stackTbl : Tbl Stack := []          -- 4 stacks; R8; each as Stack's defaults
  panels : Tbl Panel := []          -- 16 panels; R345; none created
  catalogue : List CatEntry := []   -- 1,024 entries; R269; DESIGN CHOICE none (5)
  slots : Tbl Slot := []            -- 16,384 request slots; R282; FREE
  clients : Tbl Client := []        -- 4,096 clients; R314; 0
  sched : Option Schedule := none   -- running schedule; R295; none
  schedNext : Option (Option Schedule) := none  -- accepted and not yet running; R295; none
  schedStart : BitVec 64 := 0       -- start of the present period; R295; 0
  rings : Tbl Ring := []            -- 4,096 ring contexts; R330; DISABLED
  ringRegs : RingRegs := {}
  db : DbRegs := {}
  irq : IrqRegs := {}
  agingSteps : BitVec 6 := 0x10     -- PANEL_AGING.STEPS, 6; R315; 0x10
  urgentUs : BitVec 16 := 0x07D0    -- PANEL_AGING.URGENT_US, 16; R315; 0x07D0
  epochUs : BitVec 20 := 0x3E8      -- POOL_EPOCH.PERIOD_US, 20; R220; 0x3E8
  rdThreshold : BitVec 16 := 0xC8   -- POOL_T3_RD.THRESHOLD, 16; R220; 0xC8
  patrolHours : BitVec 16 := 0x48   -- POOL_T3_PATROL.HOURS, 16; R220; 0x48
  host : HostFn := {}
  admin : List AdminCmd := []       -- admin commands taken and running; R343; none
  adminWait : List Rec64 := []      -- read from ring 0 and not yet taken; R343; none
  latches : List (Nat × BitVec 32) := []  -- latched upper halves by register offset; R508; none
  bus : Reply := .none              -- answer to the last access; R323; none
  outbox : List Out := []           -- what the module has sent; R354; nothing
  mbx : Mbx := {}
  links : Links := {}
  ply : Ply := {}
  power : Power := {}
  boot : Boot := {}
  nv : NonVolatile := {}
  tap : Tap := {}
  ctrs : List (Ctr × Nat) := []     -- every counter of the manual, absent 0; R430; 0
deriving DecidableEq, Repr

/-- The machine right after reset: time 0 of a power-on start (R459, R461), power good just signalled. -/
def State.reset : State := {}

end Sys2Proof.Machine
end

