-- ==== Sys2Proof/Machine/Bits.lean ====
section
/-! DEFINITION. Bit fields, byte order, sparse tables and the checks every chapter uses: CRC-32C (R204). -/
namespace Sys2Proof.Machine
open Sys2Proof

/-! ## Sparse tables -/

/-- The entry of a table under a key. -/
def tget {α : Type} : Tbl α → Nat → Option α
  | [], _ => none
  | (k, v) :: t, i => if i = k then some v else tget t i

/-- The entry of a table under a key, or a default. -/
def tgetD {α : Type} (t : Tbl α) (i : Nat) (d : α) : α := (tget t i).getD d

/-- A table with one entry written, keys kept rising. -/
def tset {α : Type} : Tbl α → Nat → α → Tbl α
  | [], i, x => [(i, x)]
  | (k, v) :: t, i, x =>
    if i = k then (i, x) :: t else if i < k then (i, x) :: (k, v) :: t else (k, v) :: tset t i x

/-- A table with one entry removed. -/
def tdel {α : Type} : Tbl α → Nat → Tbl α
  | [], _ => []
  | (k, v) :: t, i => if i = k then t else (k, v) :: tdel t i

/-- The entries of a table after a function has been applied to each value. -/
def tmap {α : Type} (t : Tbl α) (f : Nat → α → α) : Tbl α := t.map fun kv => (kv.1, f kv.1 kv.2)

/-! ## Numbers and bytes -/

/-- Bits `off + w - 1` to `off` of a number. -/
def nbits (v off w : Nat) : Nat := (v >>> off) % 2 ^ w

/-- Bit `i` of a number. -/
def nbit (v i : Nat) : Bool := (v >>> i) % 2 == 1

/-- One for true. -/
def b2n (b : Bool) : Nat := if b then 1 else 0

/-- The low `n` bytes of a number, least significant first (R4). -/
def bytesOf : (n : Nat) → (v : Nat) → List Byte
  | 0, _ => []
  | n + 1, v => BitVec.ofNat 8 v :: bytesOf n (v / 256)

/-- The number whose bytes, least significant first, are given (R4). -/
def natOf : List Byte → Nat
  | [] => 0
  | b :: t => b.toNat + 256 * natOf t

/-- `size` bytes at byte offset `off` of a record, as a number. -/
def fld {w : Nat} (r : BitVec w) (off size : Nat) : Nat := nbits r.toNat (8 * off) (8 * size)

/-- A record laid out from fields (offset in bytes, size in bytes, value). -/
def recOf (w : Nat) (fs : List (Nat × Nat × Nat)) : BitVec w :=
  BitVec.ofNat w (fs.foldl (fun a f => a ||| ((f.2.2 % 256 ^ f.2.1) <<< (8 * f.1))) 0)

/-- A record with one field replaced. -/
def setFld {w : Nat} (r : BitVec w) (off size v : Nat) : BitVec w :=
  BitVec.ofNat w (r.toNat - (fld r off size) <<< (8 * off) + (v % 256 ^ size) <<< (8 * off))

/-- The bytes of a record. -/
def recBytes {w : Nat} (r : BitVec w) : List Byte := bytesOf (w / 8) r.toNat

/-- The two's-complement value of the low `w` bits. -/
def sx (w v : Nat) : Int :=
  let u := v % 2 ^ w
  if 2 * u < 2 ^ w then (u : Int) else (u : Int) - (2 ^ w : Nat)

/-- The low `w` bits of an integer, two's complement. -/
def toBits (w : Nat) (i : Int) : Nat := (i % ((2 ^ w : Nat) : Int)).toNat

/-- Ceiling of a quotient. -/
def cdiv (a b : Nat) : Nat := if a % b = 0 then a / b else a / b + 1

/-- A number added with saturation at the maximum of `w` bits. -/
def satAdd (w a b : Nat) : Nat := if a + b < 2 ^ w then a + b else 2 ^ w - 1

/-- Replace element `i` of a list. -/
def lset {α : Type} : List α → Nat → α → List α
  | [], _, _ => []
  | _ :: t, 0, x => x :: t
  | h :: t, n + 1, x => h :: lset t n x

/-- The element of a list at an index, or a default. -/
def lgetD {α : Type} : List α → Nat → α → α
  | [], _, d => d
  | h :: _, 0, _ => h
  | _ :: t, n + 1, d => lgetD t n d

/-- A list cut into pieces of `n` elements, at most `k` of them. -/
def chunks {α : Type} (n : Nat) : (k : Nat) → List α → List (List α)
  | 0, _ => []
  | k + 1, l => if l.isEmpty then [] else l.take n :: chunks n k (l.drop n)

/-- Numbers from `a`, `n` of them. -/
def upto (a n : Nat) : List Nat := (List.range n).map (a + ·)

/-- The set bits of a mask below `n`, ascending. -/
def maskBits (n m : Nat) : List Nat := (List.range n).filter (nbit m)

/-- Insert into a rising list of numbers without repeats. -/
def insNat : List Nat → Nat → List Nat
  | [], i => [i]
  | k :: t, i => if i = k then k :: t else if i < k then i :: k :: t else k :: insNat t i

/-- The longest common check on every list element with its position. -/
def allIdx {α : Type} (p : Nat → α → Bool) : Nat → List α → Bool
  | _, [] => true
  | n, h :: t => p n h && allIdx p (n + 1) t

/-! ## CRC-32C -/

/-- One bit of the reflected Castagnoli polynomial 0x1EDC_6F41 (R204). -/
def crcBit (c : Nat) : Nat := if c % 2 = 1 then (c >>> 1) ^^^ 0x82F63B78 else c >>> 1

/-- One byte into the CRC register. -/
def crcByte (c : Nat) (b : Byte) : Nat :=
  crcBit (crcBit (crcBit (crcBit (crcBit (crcBit (crcBit (crcBit (c ^^^ b.toNat))))))))

/-- The CRC register after a list of bytes. The number so far is worked out before the next byte is taken, which keeps
evaluation shallow: both arms are the same. -/
def crcBytes : Nat → List Byte → Nat
  | c, [] => c
  | c, b :: t =>
    match crcByte c b with
    | 0 => crcBytes 0 t
    | k + 1 => crcBytes (k + 1) t

/-- CRC-32C with initial value and final XOR 0xFFFF_FFFF (R204). -/
def crc32c (l : List Byte) : Nat := crcBytes 0xFFFFFFFF l ^^^ 0xFFFFFFFF

/-- The CRC of the first `n` bytes of a record. -/
def recCrc {w : Nat} (r : BitVec w) (n : Nat) : Nat := crc32c (bytesOf n r.toNat)

/-- A 64-byte record whose CRC field at 0x3C is right for bytes 0x00 to 0x3B. -/
def sealRec (r : Rec64) : Rec64 := setFld r 0x3C 4 (recCrc r 0x3C)

/-- Whether the CRC field at 0x3C of a 64-byte record is right. -/
def recOk (r : Rec64) : Bool := fld r 0x3C 4 == recCrc r 0x3C

end Sys2Proof.Machine
end

