-- ==== Sys2Proof/Machine/Extents.lean ====
section
/-! DEFINITION. Fields of a pattern image's header, its sections and its extent table (R264, R265, R267). -/
namespace Sys2Proof.Machine
open Sys2Proof

def ihModel (i : Image) : Nat := fld i.header 8 4
def ihWversion (i : Image) : Nat := fld i.header 0xC 4
def ihClusters (i : Image) : Nat := fld i.header 0x10 1
def ihSections (i : Image) : Nat := fld i.header 0x12 2
def ihVentryUnit (i : Image) : Nat := fld i.header 0x14 2
def ihVentryStrand (i : Image) : Nat := fld i.header 0x16 1
def ihLength (i : Image) : Nat := fld i.header 0x18 8
def ihPhash (i : Image) : Nat := fld i.header 0x20 64
def ihWhash (i : Image) : Nat := fld i.header 0x60 64
def ihWeightsOnly (i : Image) : Bool := nbit (fld i.header 7 1) 0
def ihGenOk (i : Image) : Bool := nbit (fld i.header 7 1) 1

def seKind (e : BitVec 256) : Nat := fld e 0 1
def seOff (e : BitVec 256) : Nat := fld e 8 8
def seLen (e : BitVec 256) : Nat := fld e 0x10 8

/-- Bytes of the sections whose kind a test takes, in table order. -/
def sectionBytes (f : Nat → Bool) (i : Image) : List Byte :=
  ((i.table.zip i.sections).filter fun es => f (seKind es.1)).flatMap (·.2)

/-- An extent table entry. -/
structure Ext where
  id : Nat
  place : Nat
  unit : Nat
  swap : Nat
  off : Nat
  len : Nat
deriving DecidableEq, Repr, Inhabited

def extOf (e : BitVec 256) : Ext :=
  { id := fld e 0 4, place := fld e 4 1, unit := fld e 6 2, swap := fld e 8 2, off := fld e 0x10 8, len := fld e 0x18 4 }

/-- The entries of the extent table, as 32-byte records. -/
def extRecs (i : Image) : List (BitVec 256) :=
  let l := sectionBytes (· == 8) i
  (chunks 32 (l.length / 32) l).map fun b => BitVec.ofNat 256 (natOf b)

def extents (i : Image) : List Ext := (extRecs i).map extOf

end Sys2Proof.Machine
end

