-- ==== Sys2Proof/Machine/Flags.lean ====
section
/-! DEFINITION. Counters and event bits: the block has no arithmetic flags of a processor; what it keeps instead are
saturating counters (R105, R139, R146, R172, R221, R245, R263, R281, R316, R356, R377, R399, R428, R458, R485) and
sticky event bits that a write of one clears (R6). -/
namespace Sys2Proof.Machine
open Sys2Proof

/-- The width of a counter, as the counter tables of each chapter give it. -/
def Ctr.width : Ctr → Nat
  | .bankConflict _ | .busy _ | .stall _ _ | .cacheHits _ _ | .cacheMisses _ _ | .t3Corrected _ => 64
  | .walks _ | .blocksDelivered _ | .blocksSkipped _ | .pagesRead _ => 64
  | .rowsKept _ _ _ => 64
  | .steps _ => 64
  | .accepted _ => 64
  | .msixMessages | .polls => 64
  | .fecCorrected _ | .creditWait _ | .stretched _ => 64
  | _ => 32

/-- A list of counters with one entry raised by `n`, saturating at its width. -/
def ctrAdd : List (Ctr × Nat) → Ctr → Nat → List (Ctr × Nat)
  | [], c, n => [(c, satAdd c.width 0 n)]
  | (k, v) :: t, c, n => if k = c then (k, satAdd c.width v n) :: t else (k, v) :: ctrAdd t c n

/-- The value of a counter: 0 when it has never risen. -/
def ctrGet : List (Ctr × Nat) → Ctr → Nat
  | [], _ => 0
  | (k, v) :: t, c => if k = c then v else ctrGet t c

/-- A list of counters with one entry set, for a high-water mark (R139). -/
def ctrPut : List (Ctr × Nat) → Ctr → Nat → List (Ctr × Nat)
  | [], c, n => [(c, n)]
  | (k, v) :: t, c, n => if k = c then (k, n) :: t else (k, v) :: ctrPut t c n

/-- Raise a counter by `n`. -/
def bump (c : Ctr) (n : Nat) (s : State) : State := { s with ctrs := ctrAdd s.ctrs c n }

/-- Raise a high-water mark to `n` if it is lower. -/
def highWater (c : Ctr) (n : Nat) (s : State) : State :=
  if ctrGet s.ctrs c < n then { s with ctrs := ctrPut s.ctrs c n } else s

/-- Clear the counters a predicate names (those cleared at CAST_ON). -/
def clearCtrs (p : Ctr → Bool) (s : State) : State := { s with ctrs := s.ctrs.filter fun kv => !p kv.1 }

/-- A free value: nothing constrains it (log entry 3). The counter it is drawn with advances. -/
def freeNat (s : State) : Nat × State := (Config.freeValue s.freeCtr, { s with freeCtr := s.freeCtr + 1 })

/-- Send something out of the module. -/
def emitOut (o : Out) (s : State) : State := { s with outbox := s.outbox ++ [o] }

/-- Answer an access. -/
def answer (r : Reply) (s : State) : State := { s with bus := r }

/-- Module time as a number of µs. -/
def State.us (s : State) : Nat := s.now.toNat

end Sys2Proof.Machine
end

