-- ==== Sys2Proof/Machine/Operands.lean ====
section
/-! DEFINITION. Number formats and exact arithmetic (chapter 02) and the operations of the vector unit
(R92 to R101). Every result is rounded once, to nearest even, from an exact value (R34). -/
namespace Sys2Proof.Machine
open Sys2Proof

/-! ## Formats -/

/-- A float value: NaN, an infinity, or `(-1)^neg * m * 2^e` exactly. -/
inductive FV where
  | nan
  | inf (neg : Bool)
  | fin (neg : Bool) (m : Nat) (e : Int)
deriving DecidableEq, Repr, Inhabited

/-- The parameters of a float format (R31 to R33): exponent and mantissa bits, bias, code of the largest finite
magnitude, code of infinity and of the canonical NaN where it has them. -/
structure FFmt where
  eb : Nat
  mb : Nat
  bias : Int
  maxFin : Nat
  infCode : Option Nat
  nanCode : Option Nat
deriving DecidableEq, Repr, Inhabited

def fmtE4M3 : FFmt := ⟨4, 3, 7, 0x7E, none, some 0x7F⟩
def fmtE5M2 : FFmt := ⟨5, 2, 15, 0x7B, some 0x7C, some 0x7F⟩
def fmtE2M1 : FFmt := ⟨2, 1, 1, 0x7, none, none⟩
def fmtBF16 : FFmt := ⟨8, 7, 127, 0x7F7F, some 0x7F80, some 0x7FC0⟩
def fmtFP16 : FFmt := ⟨5, 10, 15, 0x7BFF, some 0x7C00, some 0x7E00⟩
def fmtFP32 : FFmt := ⟨8, 23, 127, 0x7F7FFFFF, some 0x7F800000, some 0x7FC00000⟩

/-- The float format of a code of R27. -/
def floatFmt : Nat → Option FFmt
  | 5 => some fmtE4M3
  | 6 => some fmtE5M2
  | 7 => some fmtE2M1
  | 8 => some fmtBF16
  | 9 => some fmtFP16
  | 10 => some fmtFP32
  | _ => none

/-- Element size in bits (R27). -/
def fmtBits : Nat → Nat
  | 1 | 2 | 5 | 6 => 8
  | 3 | 4 | 7 => 4
  | 8 | 9 => 16
  | 10 | 12 => 32
  | 11 => 96
  | _ => 0

/-- Assigned format codes (R27). -/
def fmtOk (f : Nat) : Bool := 1 ≤ f && f ≤ 12

/-- Integer formats, with whether they are signed (R30). -/
def intFmt : Nat → Option (Nat × Bool)
  | 1 => some (8, true)
  | 2 => some (8, false)
  | 3 => some (4, true)
  | 4 => some (4, false)
  | 12 => some (32, true)
  | _ => none

/-- The value of a float code (R31 to R33). -/
def decFloat (f : FFmt) (c : Nat) : FV :=
  let mag := c % 2 ^ (f.eb + f.mb)
  let neg := nbit c (f.eb + f.mb)
  if some mag = f.infCode then .inf neg
  else if f.maxFin < mag then .nan
  else
    let e := mag >>> f.mb
    let m := mag % 2 ^ f.mb
    if e = 0 then .fin neg m (1 - f.bias - f.mb) else .fin neg (2 ^ f.mb + m) (e - f.bias - f.mb)

/-- Shift right by `k`, to nearest, ties to even (R34). -/
def rne (m k : Nat) : Nat :=
  let q := m >>> k
  let r := m % 2 ^ k
  if 2 * r < 2 ^ k then q else if 2 ^ k < 2 * r then q + 1 else q + q % 2

/-- The magnitude code of `m * 2^e` rounded to the precision of a format as though its exponent range were
unbounded above; codes above `maxFin` do not fit (R53). -/
def magCode (f : FFmt) (m : Nat) (e : Int) : Nat :=
  if m = 0 then 0
  else
    let emin : Int := 1 - f.bias - f.mb
    let q := max emin (e + m.log2 - f.mb)
    let m' := if q ≤ e then m <<< (e - q).toNat else rne m (q - e).toNat
    -- m' counts units of 2^q; from 2^mb on it is normal
    if m' < 2 ^ f.mb then m'
    else ((q - emin + 1).toNat) <<< f.mb + (m' - 2 ^ f.mb)

/-- The sign bit of a format, when set. -/
def signOf (f : FFmt) (neg : Bool) : Nat := if neg then 2 ^ (f.eb + f.mb) else 0

/-- The code of an exact value rounded once; a magnitude beyond the largest finite one gives an infinity
(R33, IEEE 754 arithmetic). -/
def encIeee (f : FFmt) : FV → Nat
  | .nan => f.nanCode.getD 0
  | .inf neg => signOf f neg + f.infCode.getD f.maxFin
  | .fin neg m e =>
    let c := magCode f m e
    signOf f neg + (if f.maxFin < c then f.infCode.getD f.maxFin else c)

/-- FP32 code to value and back. -/
def dec32 (c : Nat) : FV := decFloat fmtFP32 c
def enc32 (v : FV) : Nat := encIeee fmtFP32 v

/-- The canonical NaN, infinities and one in FP32 (R33). -/
def nan32 : Nat := 0x7FC00000
def inf32 : Nat := 0x7F800000
def ninf32 : Nat := 0xFF800000
def one32 : Nat := 0x3F800000

/-- `m * 2^e` with sign as an integer count of `2^(-u)`. -/
def unitsOf (u : Nat) (neg : Bool) (m : Nat) (e : Int) : Int :=
  let k := e + u
  let a : Int := if 0 ≤ k then ((m <<< k.toNat : Nat) : Int) else ((m >>> (-k).toNat : Nat) : Int)
  if neg then -a else a

/-- An integer count of `2^e`, as a value; zero is +0. -/
def ofUnits (i : Int) (e : Int) : FV := .fin (i < 0) i.natAbs e

/-! ## Arithmetic on values: one exact result, rounded by `enc32` -/

/-- The exact product; NaN for an infinity times zero. -/
def vMul : FV → FV → FV
  | .nan, _ => .nan
  | _, .nan => .nan
  | .inf a, .inf b => .inf (a != b)
  | .inf a, .fin b m _ => if m = 0 then .nan else .inf (a != b)
  | .fin a m _, .inf b => if m = 0 then .nan else .inf (a != b)
  | .fin a m e, .fin b n k => .fin (a != b) (m * n) (e + k)

/-- The exact sum; an exact zero is +0 unless both operands are −0. -/
def vAdd : FV → FV → FV
  | .nan, _ => .nan
  | _, .nan => .nan
  | .inf a, .inf b => if a = b then .inf a else .nan
  | .inf a, .fin .. => .inf a
  | .fin .., .inf b => .inf b
  | .fin a m e, .fin b n k =>
    let q := min e k
    let x : Int := ((m <<< (e - q).toNat : Nat) : Int) * (if a then -1 else 1)
      + ((n <<< (k - q).toNat : Nat) : Int) * (if b then -1 else 1)
    if x = 0 then .fin (a && b) 0 q else .fin (x < 0) x.natAbs q

/-- The negative of a value. -/
def vNeg : FV → FV
  | .nan => .nan
  | .inf a => .inf (!a)
  | .fin a m e => .fin (!a) m e

/-- A quotient with enough bits, and a sticky lowest bit, to round correctly to FP32. -/
def vDiv : FV → FV → FV
  | .nan, _ => .nan
  | _, .nan => .nan
  | .inf _, .inf _ => .nan
  | .inf a, .fin b _ _ => .inf (a != b)
  | .fin a _ _, .inf b => .fin (a != b) 0 0
  | .fin a m e, .fin b n k =>
    if n = 0 then (if m = 0 then .nan else .inf (a != b))
    else
      let num := m <<< 400
      let q := num / n
      .fin (a != b) (2 * q + b2n (num % n != 0)) (e - k - 401)

def fadd (a b : Nat) : Nat := enc32 (vAdd (dec32 a) (dec32 b))
def fsub (a b : Nat) : Nat := enc32 (vAdd (dec32 a) (vNeg (dec32 b)))
def fmul (a b : Nat) : Nat := enc32 (vMul (dec32 a) (dec32 b))
def fdiv (a b : Nat) : Nat := enc32 (vDiv (dec32 a) (dec32 b))
/-- fma: one rounding of the exact `a * b + c` (R92, R93). -/
def ffma (a b c : Nat) : Nat := enc32 (vAdd (vMul (dec32 a) (dec32 b)) (dec32 c))

/-- Whether an FP32 code is a NaN. -/
def isNan32 (c : Nat) : Bool := inf32 < c % 2 ^ 31

/-- An FP32 code with any NaN made the canonical one: no result carries an operand's sign and payload (R33). -/
def quiet (c : Nat) : Nat := if isNan32 c then nan32 else c

/-- The order of FP32 codes that are not NaN: signed magnitudes, both zeros 0. -/
def key32 (c : Nat) : Int := if nbit c 31 then -((c % 2 ^ 31 : Nat) : Int) else ((c % 2 ^ 31 : Nat) : Int)

/-- max and min of R92: NaN gives the canonical NaN; max(+0, −0) = +0, min(+0, −0) = −0. -/
def fmax (a b : Nat) : Nat :=
  if isNan32 a || isNan32 b then nan32
  else if key32 a < key32 b then b else if key32 b < key32 a then a else if nbit a 31 then b else a
def fmin (a b : Nat) : Nat :=
  if isNan32 a || isNan32 b then nan32
  else if key32 a < key32 b then a else if key32 b < key32 a then b else if nbit a 31 then a else b

/-- Compares of R92; every compare with a NaN is false. -/
def feq (a b : Nat) : Bool := !(isNan32 a || isNan32 b) && key32 a == key32 b
def flt (a b : Nat) : Bool := !(isNan32 a || isNan32 b) && key32 a < key32 b
def fle (a b : Nat) : Bool := !(isNan32 a || isNan32 b) && key32 a ≤ key32 b

/-- A value rounded to an integer, ties to even. -/
def roundInt (neg : Bool) (m : Nat) (e : Int) : Int :=
  let a : Nat := if 0 ≤ e then m <<< e.toNat else rne m (-e).toNat
  if neg then -(a : Int) else (a : Int)

/-- The range of an integer format. -/
def intLo (w : Nat) (signed : Bool) : Int := if signed then -((2 ^ (w - 1) : Nat) : Int) else 0
def intHi (w : Nat) (signed : Bool) : Int := ((2 ^ (if signed then w - 1 else w) : Nat) : Int) - 1

/-- Narrowing of an FP32 code to a format, and whether it counts one saturation (R53 to R55). An FP32 output is
written unchanged, a NaN as the canonical NaN. -/
def narrow (fmt c : Nat) : Nat × Bool :=
  match intFmt fmt with
  | some (w, sg) =>
    match dec32 c with
    | .nan => (0, true)
    | .inf neg => (toBits w (if neg then intLo w sg else intHi w sg), true)
    | .fin neg m e =>
      let i := roundInt neg m e
      if i < intLo w sg then (toBits w (intLo w sg), true)
      else if intHi w sg < i then (toBits w (intHi w sg), true)
      else (toBits w i, false)
  | none =>
    match floatFmt fmt with
    | none => (0, false)
    | some f =>
      match dec32 c with
      | .nan =>
        match f.nanCode with
        | some n => (n, false)
        | none => (0, true)
      | .inf neg =>
        match f.infCode with
        | some n => (signOf f neg + n, false)
        | none => (signOf f neg + f.maxFin, true)
      | .fin neg m e =>
        let k := magCode f m e
        if f.maxFin < k then (signOf f neg + f.maxFin, true) else (signOf f neg + k, false)

/-- A code of any format but ACC96, widened to FP32 (R92). -/
def widen (fmt c : Nat) : Nat :=
  match intFmt fmt with
  | some (w, sg) =>
    let i : Int := if sg then sx w c else ((c % 2 ^ w : Nat) : Int)
    enc32 (ofUnits i 0)
  | none =>
    match floatFmt fmt with
    | some f => enc32 (decFloat f c)
    | none => 0

/-- FP32 to INT32: to nearest even, clamped to range; NaN gives 0 (R92). -/
def toInt32 (c : Nat) : Nat :=
  match dec32 c with
  | .nan => 0
  | .inf neg => toBits 32 (if neg then intLo 32 true else intHi 32 true)
  | .fin neg m e => toBits 32 (max (intLo 32 true) (min (intHi 32 true) (roundInt neg m e)))

/-! ## Transcendental operations, correctly rounded (R92, R95; log entry 9) -/

/-- Newton's iteration for the integer square root, from above. -/
def isqrtGo : (fuel : Nat) → (n x : Nat) → Nat
  | 0, _, x => x
  | k + 1, n, x => let y := (x + n / x) / 2; if y < x then isqrtGo k n y else x

/-- The integer square root. -/
def isqrt (n : Nat) : Nat := if n = 0 then 0 else isqrtGo 700 n (2 ^ (n.log2 / 2 + 1))

/-- The product of `2^(2^-i)` over the set bits of a 60-bit fraction, with 200 fraction bits. -/
def exp2Go (frac : Nat) : (left : Nat) → (root acc : Nat) → Nat
  | 0, _, acc => acc
  | k + 1, root, acc =>
    let r := isqrt (root <<< 200)
    exp2Go frac k r (if nbit frac k then (acc * r) >>> 200 else acc)

/-- 2^x, the exact result rounded once. -/
def fexp2 (c : Nat) : Nat :=
  match dec32 c with
  | .nan => nan32
  | .inf neg => if neg then 0 else inf32
  | .fin neg m e =>
    if m = 0 then one32
    else if 8 ≤ e + m.log2 then (if neg then 0 else inf32)
    else if e + m.log2 < -36 then one32
    else
      -- the shift drops no bit: a value of 2^-36 and more with 24 bits is a multiple of 2^-60
      let x := unitsOf 60 neg m e
      let i := x / (2 ^ 60 : Nat)
      let f := (x % ((2 ^ 60 : Nat) : Int)).toNat
      if f = 0 then enc32 (.fin false 1 i)
      else enc32 (.fin false ((exp2Go f 60 (2 <<< 200) (1 <<< 200)) ||| 1) (i - 200))

/-- The fraction bits of a base-2 logarithm by repeated squaring, 420 fraction bits of working precision. -/
def log2Go : (left : Nat) → (y acc : Nat) → Nat
  | 0, _, acc => acc
  | k + 1, y, acc =>
    let z := (y * y) >>> 420
    if 2 ^ 421 ≤ z then log2Go k (z >>> 1) (2 * acc + 1) else log2Go k z (2 * acc)

/-- log2 x, the exact result rounded once. -/
def flog2 (c : Nat) : Nat :=
  match dec32 c with
  | .nan => nan32
  | .inf neg => if neg then nan32 else inf32
  | .fin neg m e =>
    if m = 0 then ninf32
    else if neg then nan32
    else
      let l := m.log2
      let i : Int := e + l
      if m = 2 ^ l then enc32 (ofUnits i 0)
      else
        let t : Int := i * ((2 ^ 200 : Nat) : Int) + (log2Go 200 (m <<< (420 - l)) 0 : Nat)
        enc32 (ofUnits (2 * t + 1) (-201))

/-- 1 / x, the exact result rounded once. -/
def frecip (c : Nat) : Nat := enc32 (vDiv (dec32 one32) (dec32 c))

/-- 1 / √x, the exact result rounded once. -/
def frsqrt (c : Nat) : Nat :=
  match dec32 c with
  | .nan => nan32
  | .inf neg => if neg then nan32 else 0
  | .fin neg m e =>
    if m = 0 then (if neg then ninf32 else inf32)
    else if neg then nan32
    else
      let (m, e) := if e % 2 = 0 then (m, e) else (2 * m, e - 1)
      let q := (1 <<< 400) / m
      let r := isqrt q
      enc32 (.fin false (2 * r + b2n (r * r * m != 1 <<< 400)) (-201 - e / 2))

/-! ## Activation functions (R96) -/

def actL : Nat := 0x3FB8AA3B
def actC1 : Nat := 0x3D372713
def actC2 : Nat := 0x3F4C422A

def actRelu (x : Nat) : Nat := if isNan32 x then nan32 else if 0 < key32 x then x else 0
def actSigmoid (x : Nat) : Nat := frecip (fadd (fexp2 (fmul x (actL + 2 ^ 31))) one32)
def actTanh (x : Nat) : Nat :=
  let q := frecip (fadd (fexp2 (fmul x (actL + 2 ^ 23))) one32)
  fsub one32 (fmul q 0x40000000)
def actSilu (x : Nat) : Nat := fmul x (actSigmoid x)
def actGelu (x : Nat) : Nat :=
  let c := fmul (fmul (fmul x x) x) actC1
  let t := actTanh (fmul (fadd x c) actC2)
  fmul (fmul x (fadd t one32)) 0x3F000000

/-- The activation of a code of R96. -/
def activate (code x : Nat) : Nat :=
  match code with
  | 1 => actRelu x
  | 2 => actSigmoid x
  | 3 => actTanh x
  | 4 => actSilu x
  | 5 => actGelu x
  | _ => x

/-! ## Reduction tree, softmax, top-k, random values (R94, R97 to R101) -/

/-- One level of the tree: results 2i and 2i + 1 are combined. -/
def treeLevel (f : Nat → Nat → Nat) : List Nat → List Nat
  | a :: b :: t => f a b :: treeLevel f t
  | l => l

/-- Seven levels over 128 lanes (R94). -/
def tree7 (f : Nat → Nat → Nat) (l : List Nat) : Nat :=
  ((treeLevel f (treeLevel f (treeLevel f (treeLevel f (treeLevel f (treeLevel f (treeLevel f l))))))).headD 0)

/-- A row padded to 128 lanes (R94). -/
def pad128 (d : Nat) (l : List Nat) : List Nat := l ++ List.replicate (128 - l.length) d

def reduceSum (l : List Nat) : Nat := tree7 fadd (pad128 0 l)
def reduceMax (l : List Nat) : Nat := tree7 fmax (pad128 ninf32 l)

/-- One block of the running-max softmax (R97): new m, new l, alpha, p. -/
def softmaxBlock (m l : Nat) (sc : List Nat) : Nat × Nat × Nat × List Nat :=
  let mn := fmax m (reduceMax sc)
  let alpha := if mn = ninf32 then one32 else fexp2 (fsub m mn)
  let p := if mn = ninf32 then sc.map fun _ => 0 else sc.map fun x => fexp2 (fsub x mn)
  (mn, fadd (fmul l alpha) (reduceSum p), alpha, p)

/-- The rank of R98: value descending, NaN below −Inf, both zeros equal, then ascending index. -/
def rankLt (a b : Nat × Nat) : Bool :=
  let ka : Option Int := if isNan32 a.1 then none else some (key32 a.1)
  let kb : Option Int := if isNan32 b.1 then none else some (key32 b.1)
  match ka, kb with
  | some x, some y => y < x || (x == y && a.2 < b.2)
  | some _, none => true
  | none, some _ => false
  | none, none => a.2 < b.2

/-- Insert a candidate into a ranked list. -/
def rankIns (x : Nat × Nat) : List (Nat × Nat) → List (Nat × Nat)
  | [] => [x]
  | h :: t => if rankLt x h then x :: h :: t else h :: rankIns x t

/-- The first `k` of the candidates in the order of R98, padded with (−Inf, 0xFFFF_FFFF). -/
def topk (k : Nat) (have_ cands : List (Nat × Nat)) : List (Nat × Nat) :=
  let base := have_.filter fun e => !(e.1 == ninf32 && e.2 == 0xFFFFFFFF)
  let l := (cands.foldl (fun acc x => (rankIns (quiet x.1, x.2) acc).take k) (base.take k))
  l ++ List.replicate (k - l.length) (ninf32, 0xFFFFFFFF)

/-- The mixer of R100, modulo 2^64. -/
def mix64 (z : Nat) : Nat :=
  let a := ((z ^^^ (z >>> 30)) * 0xBF58476D1CE4E5B9) % 2 ^ 64
  let b := ((a ^^^ (a >>> 27)) * 0x94D049BB133111EB) % 2 ^ 64
  b ^^^ (b >>> 31)

/-- The keyed random generator of R100. -/
def keyedRandom (seed t d lane : Nat) : Nat :=
  let ctr := (t % 2 ^ 32) <<< 32 ||| (d % 2 ^ 16) <<< 16 ||| lane % 2 ^ 16
  mix64 (mix64 ((seed + 0x9E3779B97F4A7C15) % 2 ^ 64) ^^^ ctr)

/-- `uniform` of R100 as an FP32 code: exact, in [0, 1). -/
def uniform32 (z : Nat) : Nat := enc32 (.fin false (z >>> 40) (-24))

/-- Weights as R101 counts them: negative or NaN ones as +0. -/
def sampleWeight (p : Nat) : Nat := if isNan32 p || nbit p 31 then 0 else p

/-- The highest index with a positive weight, or 0. -/
def highestPos (ps : List Nat) : Nat :=
  ((ps.zipIdx).foldl (fun acc x => if 0 < x.1 then x.2 else acc) 0)

/-- The scan of one chunk of R101. -/
def sampleChunk (h base : Nat) : (run : Nat) → List Nat → Option Nat
  | _, [] => none
  | run, p :: t =>
    let r := fadd run p
    if flt h r then some base else sampleChunk h (base + 1) r t

/-- The scan over chunks of R101. -/
def sampleGo (h : Nat) : (base run : Nat) → List (List Nat) → Option Nat
  | _, _, [] => none
  | base, run, c :: cs =>
    let next := fadd run (reduceSum c)
    if flt h next then
      match sampleChunk h base run c with
      | some i => some i
      | none => some (base + highestPos c)
    else sampleGo h (base + 128) next cs

/-- Categorical sampling (R101): the index and whether the total was +0. -/
def sample (ps : List Nat) (u : Nat) : Nat × Bool :=
  let ws := ps.map sampleWeight
  match ws.findIdx? (· == inf32) with
  | some i => (i, false)
  | none =>
    let cs := chunks 128 (cdiv ws.length 128) ws
    let total := cs.foldl (fun t c => fadd t (reduceSum c)) 0
    if total = 0 then (0, true)
    else (((sampleGo (fmul u total) 0 0 cs).getD (highestPos ws)), false)

/-! ## Elements of the array (R35 to R44) -/

/-- The cell mode of an operand pair: 0 8-bit, 1 4-bit, 2 16-bit; none for an illegal pair (R35, R36). -/
def cellMode (a w : Nat) : Option Nat :=
  let i4 (f : Nat) : Bool := f == 3 || f == 4
  let i8 (f : Nat) : Bool := f == 1 || f == 2
  let f8 (f : Nat) : Bool := f == 5 || f == 6
  if (i4 a && i4 w) || (a == 7 && w == 7) then some 1
  else if (i4 a || i8 a) && (i4 w || i8 w) then some 0
  else if (f8 a || a == 7) && (f8 w || w == 7) then some 0
  else if (a == 8 && w == 8) || (a == 9 && w == 9) then some 2
  else none

/-- Whether an 8-bit or 4-bit operand format is a float format. -/
def isFloatOp (f : Nat) : Bool := f == 5 || f == 6 || f == 7

/-- An element of an 8-bit or 4-bit format as an exact integer: itself for integer formats, units of 2^-16 for float
formats, 0 when not finite (R38, R82). -/
def elemInt (f c : Nat) : Int :=
  match intFmt f with
  | some (w, sg) => if sg then sx w c else ((c % 2 ^ w : Nat) : Int)
  | none =>
    match floatFmt f with
    | some g =>
      match decFloat g c with
      | .fin neg m e => unitsOf 16 neg m e
      | _ => 0
    | none => 0

/-- The kind of an element for R44: 0 finite non-zero, 1 zero, 2 +Inf, 3 −Inf, 4 NaN; the sign apart. -/
def elemKind (f c : Nat) : Nat × Bool :=
  match floatFmt f with
  | none => (if elemInt f c = 0 then 1 else 0, false)
  | some g =>
    match decFloat g c with
    | .nan => (4, false)
    | .inf neg => (2, neg)
    | .fin neg m _ => (if m = 0 then 1 else 0, neg)

/-- The special code of a product (R44): 0 finite, 1 +Inf, 2 −Inf, 3 NaN. -/
def prodSpecial (a b : Nat × Bool) : Nat :=
  if a.1 = 4 || b.1 = 4 then 3
  else if (a.1 = 2 && b.1 = 1) || (a.1 = 1 && b.1 = 2) then 3
  else if a.1 = 2 || b.1 = 2 then (if a.2 != b.2 then 2 else 1)
  else 0

/-- Combining special codes (R44). -/
def combSpecial (a b : Nat) : Nat :=
  if a = 3 || b = 3 then 3 else if a = 0 then b else if b = 0 then a else if a = b then a else 3

/-- Element `i` of packed data in a format (R29): bytes little-endian, low nibble first. -/
def elemAt (f : Nat) (l : List Byte) (i : Nat) : Nat :=
  match fmtBits f with
  | 4 => nbits (lgetD l (i / 2) 0).toNat (4 * (i % 2)) 4
  | 8 => (lgetD l i 0).toNat
  | 16 => natOf ((l.drop (2 * i)).take 2)
  | 32 => natOf ((l.drop (4 * i)).take 4)
  | 96 => natOf ((l.drop (12 * i)).take 12)
  | _ => 0

/-- Codes packed into bytes in a format (R29). -/
def packElems (f : Nat) (cs : List Nat) : List Byte :=
  match fmtBits f with
  | 4 => (chunks 2 (cdiv cs.length 2) cs).map fun p => BitVec.ofNat 8 (lgetD p 0 0 % 16 + 16 * (lgetD p 1 0 % 16))
  | w => cs.flatMap (bytesOf (w / 8))

/-- FP32 words of packed data. -/
def words32 (l : List Byte) (n : Nat) : List Nat := (chunks 4 n l).map natOf

end Sys2Proof.Machine
end

