-- ==== Sys2Proof/Machine/Ops.lean ====
section
/-! DEFINITION. The named operations every family shares: the device address map, memory, home bits, hanks,
allocation, the read cache, units, panels, areas, semaphore signals and interrupts. -/
namespace Sys2Proof.Machine
open Sys2Proof

/-! ## The device address map (R179, R183, R14) -/

def t2Base : Nat := 0x010000000000
def t2End : Nat := 0x028000000000
def t3Base : Nat := 0x100000000000
def t3End : Nat := 0x2C0000000000
def hostBase : Nat := 0x8000000000000
def hostEnd : Nat := 0x10000000000000
def hankBytes : Nat := 0x200000

/-- The tier of an address: 1 to 3, 4 the host aperture, 0 reserved (R179). -/
def tierOf (a : Nat) : Nat :=
  if a < 0x60000000 then 1
  else if t2Base ≤ a && a < t2End then 2
  else if t3Base ≤ a && a < t3End then 3
  else if hostBase ≤ a && a < hostEnd then 4
  else 0

/-- The tier a whole range lies in, 0 when it leaves one tier or touches a reserved address. -/
def tierRange (a n : Nat) : Nat := if 0 < n && tierOf (a + n - 1) = tierOf a then tierOf a else 0

/-- T2 channel group of an address (R183). -/
def groupOf (a : Nat) : Nat := (a - t2Base) >>> 36

/-- The stack that serves an address (R179, R183). -/
def stackOf (a : Nat) : Nat :=
  match tierOf a with
  | 1 => a / 0x18000000
  | 2 => groupOf a / 6
  | 3 => (a - t3Base) / 0x070000000000
  | _ => 0

/-- First page of the T3 range of a stack, and its number of 4 KiB pages. -/
def t3First (st : Nat) : Nat := (t3Base + st * 0x070000000000) / 4096
def t3Pages : Nat := 0x070000000000 / 4096

/-- Module-wide region, cluster and stack of a unit (R13). -/
def regionOf (u : Nat) : Nat := u / 32
def clusterOf (u : Nat) : Nat := u / 8
def unitStack (u : Nat) : Nat := u / 128

/-- First address of the home slice of a region (R14, R104). -/
def sliceBase (region : Nat) : Nat := (region / 4) * 0x18000000 + (region % 4) * 0x06000000

/-! ## Bytes of memory -/

/-- What a byte nothing has written reads as (log entry 7). -/
def emptyByte : Byte := 0

/-- The byte at an address. -/
def memGet : Mem → Nat → Byte
  | [], _ => emptyByte
  | (k, v) :: t, a => if a = k then v else if a < k then emptyByte else memGet t a

/-- Write one byte, keeping addresses rising and no entry equal to `emptyByte`. -/
def memPut : Mem → Nat → Byte → Mem
  | [], a, b => if b = emptyByte then [] else [(a, b)]
  | (k, v) :: t, a, b =>
    if a = k then (if b = emptyByte then t else (a, b) :: t)
    else if a < k then (if b = emptyByte then (k, v) :: t else (a, b) :: (k, v) :: t)
    else (k, v) :: memPut t a b

/-- Write bytes at consecutive addresses. -/
def memPuts : Mem → Nat → List Byte → Mem
  | m, _, [] => m
  | m, a, b :: t => memPuts (memPut m a b) (a + 1) t

/-- Write cells one after another. -/
def memPutCells : Mem → List (Nat × Byte) → Mem
  | m, [] => m
  | m, c :: t => memPutCells (memPut m c.1 c.2) t

/-- The bytes of a range. -/
def memGets (m : Mem) (a n : Nat) : List Byte := (List.range n).map fun i => memGet m (a + i)

/-- Memory with a range emptied. -/
def memClear (m : Mem) (a n : Nat) : Mem := m.filter fun c => c.1 < a || a + n ≤ c.1

/-- Memory with a range filled with one byte. -/
def memFill (m : Mem) (a n : Nat) (b : Byte) : Mem :=
  (m.filter fun c => c.1 < a) ++ (if b = emptyByte then [] else (List.range n).map fun i => (a + i, b))
    ++ m.filter fun c => a + n ≤ c.1

/-- Memory after the bytes of one range have been copied over another. -/
def memCopy (m : Mem) (src dst n : Nat) : Mem :=
  memPutCells (memClear m dst n)
    ((m.filter fun c => src ≤ c.1 && c.1 < src + n).map fun c => (c.1 - src + dst, c.2))

/-- Addresses rise and no entry equals what an unlisted address reads as. -/
def memWfFrom : Nat → Mem → Bool
  | _, [] => true
  | lo, (k, v) :: t => lo ≤ k && v != emptyByte && memWfFrom (k + 1) t

/-- The canonical form of memory. -/
def Memory.wf (m : Mem) : Bool := memWfFrom 0 m

/-- Bytes of device memory. -/
def rd (s : State) (a n : Nat) : List Byte := memGets s.mem a n

/-- Bytes of device memory as a number. -/
def rdNat (s : State) (a n : Nat) : Nat := natOf (rd s a n)

/-- Write bytes of device memory. -/
def wr (a : Nat) (l : List Byte) (s : State) : State := { s with mem := memPuts s.mem a l }

/-- Empty a range of device memory. -/
def clearRange (a n : Nat) (s : State) : State := { s with mem := memClear s.mem a n }

/-- Fill a range of device memory with one byte. -/
def fillRange (a n : Nat) (b : Byte) (s : State) : State := { s with mem := memFill s.mem a n b }

/-- Write cells of device memory one after another. -/
def putCells (l : List (Nat × Byte)) (s : State) : State := { s with mem := memPutCells s.mem l }

/-- Copy a range of device memory over another. -/
def copyRange (src dst n : Nat) (s : State) : State := { s with mem := memCopy s.mem src dst n }

/-! ## Home bits (R189), kept as rising ranges of pages -/

/-- Ranges with the pages `[lo, hi)` taken out. -/
def rangeDel : List (Nat × Nat) → Nat → Nat → List (Nat × Nat)
  | [], _, _ => []
  | (a, b) :: t, lo, hi =>
    (if a < min b lo then [(a, min b lo)] else []) ++ (if max a hi < b then [(max a hi, b)] else []) ++ rangeDel t lo hi

/-- Insert a range disjoint from the others, joining neighbours. -/
def rangeIns : List (Nat × Nat) → Nat → Nat → List (Nat × Nat)
  | [], lo, hi => [(lo, hi)]
  | (a, b) :: t, lo, hi =>
    if hi < a then (lo, hi) :: (a, b) :: t
    else if hi = a then (lo, b) :: t
    else if b = lo then rangeIns t a hi
    else (a, b) :: rangeIns t lo hi

/-- Ranges with the pages `[lo, hi)` added. -/
def rangeAdd (l : List (Nat × Nat)) (lo hi : Nat) : List (Nat × Nat) :=
  if lo < hi then rangeIns (rangeDel l lo hi) lo hi else l

/-- Some page of `[lo, hi)` is in the ranges. -/
def rangeAny (l : List (Nat × Nat)) (lo hi : Nat) : Bool := l.any fun r => max r.1 lo < min r.2 hi

/-- Every page of `[lo, hi)` is in the ranges. -/
def rangeAll (l : List (Nat × Nat)) (lo hi : Nat) : Bool := hi ≤ lo || l.any fun r => r.1 ≤ lo && hi ≤ r.2

/-- First and last-plus-one page of a byte range. -/
def pageLo (a : Nat) : Nat := a / 4096
def pageHi (a n : Nat) : Nat := (a + n + 4095) / 4096

def homeAll (s : State) (a n : Nat) : Bool := rangeAll s.home (pageLo a) (pageHi a n)
def homeAny (s : State) (a n : Nat) : Bool := rangeAny s.home (pageLo a) (pageHi a n)

/-- The pages of a range become home. -/
def makeHome (a n : Nat) (s : State) : State := { s with home := rangeAdd s.home (pageLo a) (pageHi a n) }

/-- The pages of a range become homeless: they hold no datum (R189). -/
def makeHomeless (a n : Nat) (s : State) : State :=
  { s with home := rangeDel s.home (pageLo a) (pageHi a n) }

/-! ## Hanks (R198) -/

/-- Key of the hank that holds an address of T1 or T2: T1 hank h is h, T2 hank h is 768 + h. -/
def hankOf (a : Nat) : Nat := if a < t2Base then a / hankBytes else 768 + (a - t2Base) / hankBytes

/-- First address of a hank. -/
def hankAddr (k : Nat) : Nat := if k < 768 then k * hankBytes else t2Base + (k - 768) * hankBytes

/-- Channel group of a T2 hank key. -/
def hankGroup (k : Nat) : Nat := (k - 768) / 32768

/-- The stack a hank lies on. -/
def hankStack (k : Nat) : Nat := stackOf (hankAddr k)

/-- The panel that owns a channel group, `none` for the module domain (R188). -/
def groupOwner (s : State) (g : Nat) : Option Nat :=
  (s.panels.find? fun p => nbit p.2.groups.toNat g).map (·.1)

/-- Whether an owner may take a hank (R198). -/
def mayTake (s : State) (o : Option Nat) (k : Nat) : Bool := k < 768 || groupOwner s (hankGroup k) == o

/-- Lowest number of `[lo, hi)` that is no key of a rising list, from a candidate on. -/
def firstGap {α : Type} : Tbl α → (lo hi : Nat) → Option Nat
  | [], lo, hi => if lo < hi then some lo else none
  | (k, _) :: t, lo, hi =>
    if k < lo then firstGap t lo hi else if k = lo then firstGap t (lo + 1) hi else if lo < hi then some lo else none

/-- Neighbouring ranges joined. -/
def joinRanges (l : List (Nat × Nat)) : List (Nat × Nat) :=
  l.foldr (fun r acc => match acc with
    | (c, d) :: t => if r.2 = c then (r.1, d) :: t else r :: acc
    | [] => [r]) []

/-- Ranges of hank keys an owner may take in a tier, ascending (R198): no retired T1 hank (R473), no channel group out
of service (R470). -/
def takeRanges (s : State) (tier : Nat) (o : Option Nat) : List (Nat × Nat) :=
  if tier = 1 then s.boot.t1Retired.foldl (fun l k => rangeDel l k (k + 1)) [(0, 768)]
  else ((List.range 24).filter fun g => groupOwner s g == o && !nbit s.boot.groupsOut.toNat g).map fun g =>
    (768 + g * 32768, 768 + (g + 1) * 32768)

/-- The lowest FREE hank an owner may take in a tier; a hank with a home page is not FREE (R198, R200). -/
def lowestFree (s : State) (tier : Nat) (o : Option Nat) : Option Nat :=
  (takeRanges s tier o).findSome? fun r => firstGap s.hanks r.1 r.2

/-- The host part of a hank's pin count, which stays while the hank is free (R203). -/
def hostPins (s : State) (k : Nat) : Nat := tgetD s.hostPins k 0

/-- Set the host part of a hank's pin count. -/
def setHostPins (k n : Nat) (s : State) : State :=
  { s with hostPins := if n = 0 then tdel s.hostPins k else tset s.hostPins k n }

/-- The pin count of a hank (R203). -/
def pinsOf (s : State) (k : Nat) : Nat := ((tget s.hanks k).map (·.dev)).getD 0 + hostPins s k

/-- The victim of R200: allocated, pin count 0, not in transit, largest age, ties to the lowest index. -/
def oldest (s : State) (tier : Nat) (o : Option Nat) : Option Nat :=
  let ok (k : Nat) (h : Hank) : Bool :=
    (if tier = 1 then k < 768 else 768 ≤ k) && mayTake s o k && pinsOf s k == 0 && !h.transit
  ((s.hanks.filter fun kh => ok kh.1 kh.2).foldl
    (fun (best : Option (Nat × Nat)) kh =>
      match best with
      | none => some (kh.1, kh.2.age.toNat)
      | some (k, a) => if a < kh.2.age.toNat then some (kh.1, kh.2.age.toNat) else some (k, a)) none).map (·.1)

/-- Take a hank: ALLOCATED to an owner, age 0, its pages home (R189, R198). -/
def takeHank (k : Nat) (o : Option Nat) (pin : Bool) (s : State) : State :=
  makeHome (hankAddr k) hankBytes { s with hanks := tset s.hanks k { owner := o, dev := b2n pin } }

/-- Free a hank: its pages become homeless (R189). -/
def freeHank (k : Nat) (s : State) : State :=
  makeHomeless (hankAddr k) hankBytes { s with hanks := tdel s.hanks k }

/-- Change a hank entry. -/
def modHank (k : Nat) (f : Hank → Hank) (s : State) : State :=
  match tget s.hanks k with
  | some h => { s with hanks := tset s.hanks k (f h) }
  | none => s

/-- The device part of the pin count (R203). -/
def devPin (k : Nat) (s : State) : State := modHank k (fun h => { h with dev := 1 }) s
def devUnpin (k : Nat) (s : State) : State := modHank k (fun h => { h with dev := 0 }) s

/-- The hanks a byte range of T1 or T2 touches. -/
def hanksOf (a n : Nat) : List Nat := if n = 0 then [] else upto (hankOf a) (hankOf (a + n - 1) + 1 - hankOf a)

/-- An access to a hank clears its age (R199). -/
def touch (a n : Nat) (s : State) : State :=
  if tierOf a = 1 || tierOf a = 2 then
    (hanksOf a n).foldl (fun s k => modHank k (fun h => { h with age := 0 }) s) s
  else s

/-- After home bits have changed: a hank is FREE exactly when all its pages are homeless (R198). -/
def syncHanks (a n : Nat) (o : Option Nat) (s : State) : State :=
  (hanksOf a n).foldl (fun s k =>
    let hm := homeAny s (hankAddr k) hankBytes
    match tget s.hanks k with
    | some _ => if hm then s else { s with hanks := tdel s.hanks k }
    | none => if hm then { s with hanks := tset s.hanks k { owner := o } } else s) s

/-! ## T3 space (R201, R213, R217) -/

def getStack (s : State) (st : Nat) : Stack := tgetD s.stackTbl st {}
def setStack (st : Nat) (x : Stack) (s : State) : State := { s with stackTbl := tset s.stackTbl st x }
def modStack (st : Nat) (f : Stack → Stack) (s : State) : State := setStack st (f (getStack s st)) s
def modT3 (st : Nat) (f : T3Stack → T3Stack) (s : State) : State := modStack st (fun x => { x with t3 := f x.t3 }) s

/-- A T3 range is released to the translation layer (R194). -/
def releaseT3 (a n : Nat) (s : State) : State :=
  modT3 (stackOf a) (fun t => { t with
    buffer := t.buffer.filter fun p => p < pageLo a || pageHi a n ≤ p
    place := t.place.filter fun kv => kv.1 < pageLo a || pageHi a n ≤ kv.1 }) s

/-- MOUNTED or DEGRADED: T3 takes moves in (R217, R219). -/
def t3Writable (s : State) (st : Nat) : Bool :=
  let x := (getStack s st).t3.st.toNat; x == 2 || x == 3

/-- MOUNTED, DEGRADED or READ_ONLY: T3 can be read (R217, R219). -/
def t3Readable (s : State) (st : Nat) : Bool :=
  let x := (getStack s st).t3.st.toNat; x == 2 || x == 3 || x == 4

/-- The device may issue requests to host memory (R320). -/
def hostLive (s : State) : Bool := s.host.up && s.host.busMaster && !s.host.d3hot && !s.host.flrBusy

/-- One MSI-X message on a vector: none while MSI-X is not enabled; a masked vector keeps it pending; a message is a write to
host memory, held while the device may issue none (R317, R320, R354, R356). -/
def sendMsix (vec : Nat) (s : State) : State :=
  if !s.host.msixOn then s
  else if s.host.msixAll || tgetD s.host.msixMask vec true then
    { s with host := { s.host with pba := insNat s.host.pba vec } }
  else if hostLive s then emitOut (.msix vec) (bump .msixMessages 1 s)
  else if s.host.up then { s with host := { s.host with held := s.host.held ++ [.message vec] } }
  else s

/-- Set a bit of `IRQ_CAUSE` and send the message it enables (R355). -/
def raiseCause (bit : Nat) (s : State) : State :=
  let was := s.irq.cause.toNat
  if nbit was bit then s
  else
    let s := { s with irq := { s.irq with cause := s.irq.cause ||| BitVec.ofNat 6 (2 ^ bit) } }
    if nbit s.irq.enable.toNat bit then sendMsix s.irq.vector.toNat s else s

/-- Change the reported state of a stack's translation layer: `POOL_T3_STATE` changed (R220, R355). -/
def setT3State (st v : Nat) (s : State) : State :=
  if (getStack s st).t3.st.toNat = v then s
  else raiseCause 1 (modT3 st (fun t => { t with st := BitVec.ofNat 4 v }) s)

/-- The lowest 2 MiB-aligned run of `n` pages without a home page, from a candidate page on. -/
def t3FitGo : List (Nat × Nat) → (cand n : Nat) → Nat
  | [], cand, _ => cand
  | (a, b) :: t, cand, n =>
    if b ≤ cand then t3FitGo t cand n
    else if cand + n ≤ a then cand
    else t3FitGo t (cdiv b 512 * 512) n

/-- T3 pages in use: home pages, and the destinations of moves not yet ended. -/
def t3Busy (s : State) : List (Nat × Nat) :=
  s.moves.foldl (fun l m => if tierOf m.dst = 3 then rangeAdd l (pageLo m.dst) (pageHi m.dst m.len) else l) s.home

/-- The lowest-addressed free 2 MiB-aligned range of `hanks` × 2 MiB in a stack's T3 (R201, R516). -/
def t3Free (s : State) (st hanks : Nat) : Option Nat :=
  let first := t3First st
  let c := t3FitGo (t3Busy s) first (512 * hanks)
  if c + 512 * hanks ≤ first + t3Pages then some (c * 4096) else none

/-! ## Allocation (R200) -/

/-- What one attempt of `alloc` gives: a hank, NONE, or a wait for an eviction or a free hank. -/
inductive AllocRes where
  | got (k : Nat)
  | none_
  | wait
deriving DecidableEq, Repr, Inhabited

/-- A pool move of an evicted hank one tier down, unless one is under way already (R200, R201). -/
def submitEvict (k : Nat) (s : State) : State :=
  let st := hankStack k
  let m : MoveRec :=
    { id := s.nextId, stack := st, kind := 1, alloc := true, pin := false, tag := 0,
      panel := ((tget s.hanks k).bind (·.owner)).getD 0xFF, dtier := if k < 768 then 2 else 3,
      src := hankAddr k, dst := 0, len := hankBytes, peer := 0, by_ := .evict k, pool := true }
  modHank k (fun h => { h with transit := true })
    { s with moves := s.moves ++ [m], nextId := s.nextId + 1 }

/-- The pool move that returns one hank from T3 to its former tier, unless it is under way (R202). -/
def submitReturn (p area hank t3 : Nat) (tier2 : Bool) (s : State) : State :=
  if s.moves.any fun m => m.by_ == .ret p area hank then s
  else
    { s with
      nextId := s.nextId + 1
      moves := s.moves ++
        [{ id := s.nextId, stack := stackOf t3, kind := 1, alloc := true, pin := false, tag := 0, panel := p,
           dtier := if tier2 then 2 else 1, src := t3, dst := 0, len := hankBytes, peer := 0, by_ := .ret p area hank,
           pool := true }] }

/-- The area number under which the pool directory's hanks return, and that of summaries (R202). -/
def poolArea : Nat := 0xFFFFFFFF
def summaryArea : Nat := 0xFFFFFFFE

/-- The area number under which hanks of mirrored pages return (R10, R202). -/
def mirrorArea : Nat := 0xFFFFFFFC

/-- The area number under which the pieces of staged copies return (R202, R269). -/
def stageArea : Nat := 0xFFFFFFFD

/-- Whether a T2 hank can be evicted now (R201, R219). -/
def canEvict (s : State) (k : Nat) : Bool :=
  k < 768 || (t3Writable s (hankStack k) && (t3Free s (hankStack k) 1).isSome)

/-- Whether a submitter is an eviction that will free a hank for an owner in a tier. -/
def evicts (s : State) (tier : Nat) (o : Option Nat) : Submitter → Bool
  | .evict k => (if tier = 1 then k < 768 else 768 ≤ k) && mayTake s o k
  | _ => false

/-- The entry of an allocation that has not been served yet. -/
def allocOf (s : State) (who : Taker) : AllocWait :=
  (s.allocs.find? (·.who == who)).getD { who := who, victim := none, counted := false }

/-- Change that entry, the last in its place when it is new. -/
def setAlloc (a : AllocWait) (s : State) : State :=
  { s with allocs := if s.allocs.any (·.who == a.who) then s.allocs.map fun b => if b.who == a.who then a else b
                     else s.allocs ++ [a] }

/-- An allocation is served, refused or given up. -/
def dropAlloc (who : Taker) (s : State) : State := { s with allocs := s.allocs.filter (·.who != who) }

/-- An allocation enters the wait path of R200: counted once for each allocation (R221), on the stack of the hank it
cannot evict, and on stack 0 when it has no victim (R200 and R221 name no stack; DESIGN CHOICE, log entry 79). -/
def countWait (who : Taker) (st : Nat) (s : State) : State :=
  let a := allocOf s who
  if a.counted then s else bump (.allocWaits st) 1 (setAlloc { a with counted := true } s)

/-- The pool move of the hank evicted for an allocation has not made its end update (R200). -/
def evicting (s : State) (who : Taker) : Bool :=
  match (allocOf s who).victim with
  | some v => s.moves.any fun m => m.by_ == .evict v
  | none => false

/-- Evict a hank for an allocation, or wait when it cannot be evicted (R200, R201). -/
def evictFor (who : Taker) (v : Nat) (s : State) : AllocRes × State :=
  if canEvict s v then (.wait, submitEvict v (setAlloc { allocOf s who with victim := some v } s))
  else (.wait, countWait who (hankStack v) s)

/-- One turn of the loop of R200 for a taker: the free hank, else the eviction of the victim, one at a time, else NONE
for a pinned allocation that no running eviction can serve, else the wait path. -/
def allocBy (who : Taker) (free victim : Option Nat) (o : Option Nat) (pin coming : Bool) (s : State) : AllocRes × State :=
  match free with
  | some k => (.got k, takeHank k o pin (dropAlloc who s))
  | none =>
    if evicting s who then (.wait, s)
    else
      match victim with
      | some v => evictFor who v s
      | none =>
        if !pin then (.wait, countWait who 0 s)
        else if coming then (.wait, s)
        else (.none_, dropAlloc who s)

/-- One turn of `alloc` in a tier. -/
def allocTry (who : Taker) (tier : Nat) (o : Option Nat) (pin : Bool) (s : State) : AllocRes × State :=
  allocBy who (lowestFree s tier o) (oldest s tier o) o pin (s.moves.any fun m => evicts s tier o m.by_) s

/-- `alloc` with spillable set: T1 and then T2 (R200). -/
def allocSpill (who : Taker) (o : Option Nat) (s : State) : AllocRes × State :=
  if (lowestFree s 1 o).isSome || (oldest s 1 o).isSome || evicting s who then allocTry who 1 o false s
  else allocTry who 2 o false s

/-! ## The T2 read cache (R185 to R187) -/

/-- The read-cache set of an address. -/
def cacheSet (a : Nat) : Nat := (a / 256) % 16384

/-- Lines of a set with the line of an address moved to the front. -/
def cacheFront (l : List CacheLine) (line : Nat) : List CacheLine :=
  (l.filter (·.line == line)) ++ (l.filter (·.line != line))

/-- Place a line in a way of a mask: a way of the mask that holds none, else the least recently used of them. -/
def cachePlace (l : List CacheLine) (mask line : Nat) : List CacheLine :=
  match (maskBits 16 mask).find? fun w => !(l.any (·.way == w)) with
  | some w => ⟨w, line⟩ :: l
  | none =>
    match (l.reverse.find? fun c => nbit mask c.way) with
    | some v => ⟨v.way, line⟩ :: l.filter (·.way != v.way)
    | none => l

/-- The way mask of a panel on a base die (R187). -/
def wayMask (s : State) (p st : Nat) : Nat := ((tget s.panels p).map fun x => nbits x.ways.toNat (16 * st) 16).getD 0

/-- A look-up of a panel is counted; one of the module domain has no counter (R221). -/
def lookCtr (c : Nat → Ctr) (p : Option Nat) (s : State) : State :=
  match p with
  | some p => bump (c p) 1 s
  | none => s

/-- One beat read of T2 for a panel, none for the module domain: it looks up all ways, and a miss places a line in a way
of the mask (R186). A read for the module domain has no counter of R221. -/
def cacheLook (p : Option Nat) (mask a : Nat) (s : State) : State :=
  let st := stackOf a
  let x := getStack s st
  let set := tgetD x.cache (cacheSet a) []
  let line := a / 256
  if set.any (·.line == line) then
    lookCtr (.cacheHits · st) p (setStack st { x with cache := tset x.cache (cacheSet a) (cacheFront set line) } s)
  else
    let s := lookCtr (.cacheMisses · st) p s
    if mask = 0 then s
    else setStack st { x with cache := tset x.cache (cacheSet a) (cachePlace set mask line) } s

/-- The beats of a range of T2, by number. -/
def t2Beats (a n : Nat) : List Nat :=
  if tierOf a = 2 && 0 < n then upto (a / 256) ((a + n - 1) / 256 + 1 - a / 256) else []

/-- A read by a unit or a walk of a panel, beat by beat: its misses allocate (R186, R187). -/
def cacheReads (p a n : Nat) (s : State) : State :=
  (t2Beats a n).foldl (fun s b => cacheLook (some p) (wayMask s p (stackOf a)) (256 * b) s) s

/-- A read by a move engine or for another transfer, beat by beat: its misses do not allocate (R186). -/
def cacheLooks (p : Option Nat) (a n : Nat) (s : State) : State :=
  (t2Beats a n).foldl (fun s b => cacheLook p 0 (256 * b) s) s

/-- Invalidate the lines a predicate names. -/
def cacheDrop (f : Nat → CacheLine → Bool) (s : State) : State :=
  { s with stackTbl := tmap s.stackTbl fun st x =>
      { x with cache := (tmap x.cache fun _ l => l.filter fun c => !f st c).filter fun kv => !kv.2.isEmpty } }

/-! ## Units and panels -/

def getUnit (s : State) (u : Nat) : KUnit := tgetD s.units u {}
def setUnit (u : Nat) (x : KUnit) (s : State) : State := { s with units := tset s.units u x }
def modUnit (u : Nat) (f : KUnit → KUnit) (s : State) : State := setUnit u (f (getUnit s u)) s

def getPanel (s : State) (p : Nat) : Option Panel := tget s.panels p
def setPanel (p : Nat) (x : Panel) (s : State) : State := { s with panels := tset s.panels p x }
def modPanel (p : Nat) (f : Panel → Panel) (s : State) : State :=
  match tget s.panels p with
  | some x => setPanel p (f x) s
  | none => s
def getCast (s : State) (p : Nat) : Option Cast := (tget s.panels p).bind (·.cast)
def modCast (p : Nat) (f : Cast → Cast) (s : State) : State := modPanel p (fun x => { x with cast := x.cast.map f }) s

/-- The panel that holds a cluster. -/
def panelOfCluster (s : State) (c : Nat) : Option Nat := (s.panels.find? fun p => nbit p.2.clusters.toNat c).map (·.1)

/-- The panel that holds a unit. -/
def panelOf (s : State) (u : Nat) : Option Nat := panelOfCluster s (clusterOf u)

/-- The units of a panel, ascending. -/
def panelUnits (s : State) (p : Nat) : List Nat :=
  match getPanel s p with
  | some x => (maskBits 64 x.clusters.toNat).flatMap fun c => upto (8 * c) 8
  | none => []

/-- The physical unit of a logical one: its cluster's place, or the spare it was moved to (R266, R272). -/
def physUnit (c : Cast) (lu : Nat) : Nat :=
  match c.place.find? (·.1 == lu) with
  | some x => x.2
  | none => 8 * lgetD c.cmap (lu / 8) 0 + lu % 8

/-- The physical form of a semaphore reference. -/
def physSem (c : Cast) (r : SemRef) : SemRef := { unit := physUnit c r.unit, sem := r.sem }

/-- A semaphore signal sets out (R140); SEMAPHORE_SIGNAL_ARRIVE delivers it. -/
def sendSignals (l : List SemRef) (s : State) : State := { s with signals := s.signals ++ l }

/-! ## Areas of a cast-on pattern -/

/-- Where byte `off` of an area lies (R195): its hank's place and the offset in the hank. -/
def areaLoc (x : AreaInst) (off : Nat) : Loc := lgetD x.locs (off / hankBytes) .lost

/-- The address of byte `off` of an area, when its hank has one. -/
def areaAddr (c : Cast) (id off : Nat) : Option Nat :=
  match tget c.areas id with
  | some x =>
    match areaLoc x off with
    | .addr a => some (a + off % hankBytes)
    | _ => none
  | none => none

/-- The address of an area's byte as a number; 0 when its hank has none. -/
def areaAddrD (c : Cast) (id off : Nat) : Nat := (areaAddr c id off).getD 0

/-- A range cut at hank boundaries: offset and length of each piece. -/
def hankPieces : (fuel : Nat) → (off n : Nat) → List (Nat × Nat)
  | 0, _, _ => []
  | k + 1, off, n =>
    if n = 0 then []
    else
      let here := min n (hankBytes - off % hankBytes)
      (off, here) :: hankPieces k (off + here) (n - here)

/-- Bytes of an area, hank by hank. -/
def areaRead (s : State) (c : Cast) (id off n : Nat) : List Byte :=
  (hankPieces (n / hankBytes + 2) off n).flatMap fun p => rd s (areaAddrD c id p.1) p.2

/-- A write of device memory by an engine: over a homeless page it is answered no-home and discarded (R190). -/
def putBytes (a : Nat) (l : List Byte) (s : State) : State :=
  if homeAll s a l.length then wr a l s else bump (.noHome (stackOf a)) 1 s

/-- Write bytes of an area, hank by hank, as a move engine does (R199). -/
def areaPut (c : Cast) (id off : Nat) (l : List Byte) (s : State) : State :=
  ((hankPieces (l.length / hankBytes + 2) off l.length).foldl
    (fun (acc : List Byte × State) p =>
      (acc.1.drop p.2, match areaAddr c id p.1 with
        | some a => putBytes a (acc.1.take p.2) acc.2
        | none => acc.2)) (l, s)).2

/-- Write bytes of an area as the other engines do: the ages of its hanks are cleared (R199). -/
def areaWrite (c : Cast) (id off : Nat) (l : List Byte) (s : State) : State :=
  (hankPieces (l.length / hankBytes + 2) off l.length).foldl (fun s p =>
    match areaAddr c id p.1 with
    | some a => touch a p.2 s
    | none => s) (areaPut c id off l s)

end Sys2Proof.Machine
end

