-- ==== Sys2Proof/Machine/LinkOps.lean ====
section
/-! DEFINITION. Sending over the link ports and over the lifeline: flits (R384), credits (R389), service messages
(R393), LIFELINE messages and mirror records (R408, R409). -/
namespace Sys2Proof.Machine
open Sys2Proof

/-! ## Flits -/

def getPort (s : State) (p : Nat) : Port := tgetD s.links.ports p {}
def setPort (p : Nat) (x : Port) (s : State) : State := { s with links := { s.links with ports := tset s.links.ports p x } }
def modPort (p : Nat) (f : Port → Port) (s : State) : State := setPort p (f (getPort s p)) s

/-- A flit of a kind, laid out as R384, its CRC right. -/
def mkFlit (kind slots seq ack ch0 ch1 flags crch crn body : Nat) : Flit :=
  let f : Flit := recOf 4224 [(0, 1, kind), (1, 1, slots), (2, 2, seq), (4, 2, ack), (6, 1, ch0), (7, 1, ch1),
    (8, 1, flags), (9, 1, crch), (0xA, 2, crn), (0xC, 512, body)]
  setFld f 0x20C 4 (recCrc f 0x20C)

/-- The cumulative count of credits returned to a channel (R389). -/
def crnOf (x : Port) (ch : Nat) : Nat := if ch = 64 then x.svcCrn.toNat else ((tget x.recv ch).map (·.crn.toNat)).getD 0

/-- A flit with the port's acknowledgement, NAK and credit return of the moment; returns rotate (R384, R386, R389). A hello
carries no NAK, and no return is taken for told by it. -/
def stampFlit (p kind slots seq ch0 ch1 body : Nat) (s : State) : Flit × State :=
  let x := getPort s p
  let crch := x.crnDue.headD 64
  let nak : Bool := kind != 3 && x.nakDue
  (mkFlit kind slots seq x.rxLast.toNat ch0 ch1 (b2n nak) crch (crnOf x crch) body,
    if kind = 3 then s else setPort p { x with crnDue := x.crnDue.tail ++ x.crnDue.take 1, nakDue := false } s)

/-- Send one flit; the replay buffer keeps a DATA flit (R386). -/
def sendFlit (p kind slots seq ch0 ch1 body : Nat) (s : State) : State :=
  let (f, s) := stampFlit p kind slots seq ch0 ch1 body s
  emitOut (.flit p f) (if kind = 1 then
    modPort p (fun x => { x with txSeq := x.txSeq + 1, replay := x.replay ++ [(BitVec.ofNat 16 seq, f, 0)] }) s else s)

/-- The replay buffer has room for `n` more flits (R386). -/
def replayRoom (x : Port) (n : Nat) : Bool := x.replay.length + n ≤ 2048

/-- A port can take `n` slots on a transmit channel: it is UP, the channel open with a credit for each, and the replay
buffer has room (R386, R388, R389). -/
def slotsRoom (x : Port) (ch n : Nat) : Bool :=
  let c := tgetD x.send ch {}
  x.st == .up && c.open_ && n ≤ c.credits && replayRoom x n

/-- Send one slot of a channel in a DATA flit, taking one credit: type 1 a beat, type 2 a side slot. -/
def sendSlot (p ch ty : Nat) (b : Beat) (s : State) : State :=
  let x := getPort s p
  let c := tgetD x.send ch {}
  let s := setPort p { x with send := tset x.send ch { c with credits := c.credits - 1, sent := c.sent + 1 } } s
  sendFlit p 1 ty x.txSeq.toNat ch 0 b.toNat s

/-- The beats that follow a service message's header (R393). -/
def svcBeats (h : Rec64) : Nat :=
  let op := fld h 0 1
  if op = 2 || op = 5 || op = 8 || op = 9 then fld h 0x18 8 / 256 else 0

/-- Which waiting beats of the service channel are of no LIFELINE message, and which of one begun: `n` beats are left of the
message at the front (R393, R416). -/
def txKeep : (n : Nat) → (keep : Bool) → List Beat → List Bool
  | _, _, [] => []
  | 0, _, b :: t =>
    let h : Rec64 := BitVec.ofNat 512 b.toNat
    let k : Bool := fld h 0 1 != 9
    k :: txKeep (svcBeats h) k t
  | n + 1, k, _ :: t => k :: txKeep n k t

/-- Waiting beats of the service channel go as credits and replay room allow (R386, R389). -/
def drainService (p : Nat) : (fuel : Nat) → State → State
  | 0, s => s
  | k + 1, s =>
    let x := getPort s p
    match x.txq with
    | b :: t =>
      if slotsRoom x 64 1 then
        let mid := if x.txMid = 0 then svcBeats (BitVec.ofNat 512 b.toNat) else x.txMid - 1
        drainService p k (sendSlot p 64 1 b
          (setPort p { x with txq := t, txMid := mid, served := (x.served.map (· - 1)).filter (· != 0) } s))
      else s
    | [] => s

/-- The header of a service message (R393), its CRC right. -/
def serviceHdr (op reason tag key off len : Nat) : Rec64 :=
  sealRec (recOf 512 [(0, 1, op), (1, 1, reason), (2, 2, tag), (4, 8, key), (0x10, 8, off), (0x18, 8, len)])

/-- Send a service message: one beat that holds the header, then the data beats (R393). -/
def sendService (p : Nat) (h : Rec64) (data : List Byte) (s : State) : State :=
  let beats := BitVec.ofNat 2048 h.toNat ::
    (chunks 256 (cdiv data.length 256) data).map fun l => BitVec.ofNat 2048 (natOf l)
  let s := modPort p (fun x => { x with txq := x.txq ++ beats }) s
  drainService p (getPort s p).txq.length s

/-! ## The lifeline (port 15) -/

/-- States in which records go to the partner: SYNCING and BOUND (R402, R404, R411). -/
def lifelineOn (s : State) : Bool := s.ply.st == .syncing || s.ply.st == .bound

/-- The header of a LIFELINE message (R408). -/
def lifelineHdr (tag beat ack : Nat) (bulk : Bool) (len : Nat) : Rec64 :=
  serviceHdr 9 0 tag (beat % 2 ^ 32 + (ack % 2 ^ 16) * 2 ^ 32) (b2n bulk) len

/-- Send one LIFELINE message, BEAT one higher (R415). Data counts in TAG (R408). -/
def lifelineMsg (bulk : Bool) (data : List Byte) (toks : List (Nat × Nat)) (s : State) : State :=
  let p := s.ply
  let beat := p.beat + 1
  let h := lifelineHdr p.txTag.toNat beat.toNat p.rxTag.toNat bulk data.length
  let p := if data.isEmpty then { p with beat := beat }
    else { p with beat := beat, txTag := p.txTag + 1, unacked := p.unacked ++ [{ tag := p.txTag, toks := toks }] }
  sendService 15 h data { s with ply := p }

/-- Waiting data messages go while at most 32,768 are unacknowledged (R408). -/
def lifelineDrain : (fuel : Nat) → State → State
  | 0, s => s
  | k + 1, s =>
    match s.ply.outQ with
    | m :: t =>
      if s.ply.unacked.length < 32768 then
        lifelineDrain k (lifelineMsg m.1 m.2.1 m.2.2 { s with ply := { s.ply with outQ := t } })
      else s
    | [] => s

/-- Bytes padded with zeros to a multiple of 4,096. -/
def pad4k (l : List Byte) : List Byte := l ++ List.replicate (cdiv l.length 4096 * 4096 - l.length) 0

/-- Queue mirror records, 1,024 to a message of at most 65,536 bytes, and send what may go (R408). -/
def lifelineRecs (recs : List Rec64) (toks : List (Nat × Nat)) (s : State) : State :=
  if recs.isEmpty || s.ply.fenced then s
  else
    let groups := chunks 1024 (cdiv recs.length 1024) recs
    let n := groups.length
    let msgs := groups.zipIdx.map fun g =>
      (false, pad4k (g.1.flatMap recBytes), if g.2 + 1 = n then toks else [])
    let s := { s with ply := { s.ply with outQ := s.ply.outQ ++ msgs } }
    lifelineDrain s.ply.outQ.length s

/-- Queue bulk bytes after the record that announces them (R409). -/
def lifelineBulk (bytes : List Byte) (s : State) : State :=
  if s.ply.fenced then s
  else
    let l := pad4k bytes
    let msgs := (chunks 65536 (cdiv l.length 65536) l).map fun c => (true, c, ([] : List (Nat × Nat)))
    let s := { s with ply := { s.ply with outQ := s.ply.outQ ++ msgs } }
    lifelineDrain s.ply.outQ.length s

/-- Lifeline bytes waiting (R412, R427): data messages not sent and beats in the service queue of port 15. -/
def backlogBytes (s : State) : Nat :=
  s.ply.outQ.foldl (fun a m => a + m.2.1.length) 0 + 256 * (getPort s 15).txq.length

/-- A mirror record (R409), its CRC right. -/
def mirrorRec (kind slot epoch : Nat) (body : List (Nat × Nat × Nat)) : Rec64 :=
  sealRec (recOf 512 ([(0, 1, kind), (2, 2, slot), (4, 4, epoch)] ++ body))

/-! ## Slot records -/

def getSlot (s : State) (i : Nat) : Option Slot := tget s.slots i
def setSlot (i : Nat) (x : Slot) (s : State) : State := { s with slots := tset s.slots i x }
def modSlot (i : Nat) (f : Slot → Slot) (s : State) : State :=
  match tget s.slots i with
  | some x => setSlot i (f x) s
  | none => s

/-- STATE codes of R282. -/
def SlotSt.code : SlotSt → Nat
  | .queued => 1 | .prefill => 2 | .decode => 3 | .paused => 4 | .summarising => 5 | .done => 6 | .aborted => 7

/-- MFLAGS of R409. -/
def Slot.mflags (x : Slot) : Nat :=
  b2n x.noDeadline + 2 * b2n x.resumed + 4 * b2n x.fallback + 8 * b2n (x.summary != 0) + 16 * b2n x.pausePending

/-- (DEADLINE − now) mod 2^32. -/
def Slot.left (x : Slot) (s : State) : Nat := (x.deadline - s.now.setWidth 32).toNat

/-- The fields of an OPEN record (R409). -/
def openBody (x : Slot) (s : State) : List (Nat × Nat × Nat) :=
  [(8, 1, x.opcode), (9, 1, x.prio.toNat), (0xA, 2, x.client), (0xC, 4, x.reqId.toNat), (0x10, 4, x.model.toNat),
   (0x14, 4, x.wversion.toNat), (0x18, 8, x.seed.toNat), (0x20, 4, x.maxNew), (0x24, 4, x.prompt),
   (0x28, 4, x.committed), (0x2C, 4, x.budget.toNat), (0x30, 4, x.left s), (0x34, 2, x.stopSet),
   (0x36, 2, x.submitRing), (0x38, 2, x.mflags), (0x3A, 1, x.st.code)]

/-- The fields of a STATE record (R409). -/
def stateBody (code : Nat) (x : Slot) (s : State) : List (Nat × Nat × Nat) :=
  [(8, 1, code), (9, 1, x.status), (0xA, 1, x.reason), (0xB, 1, x.prio.toNat), (0xC, 2, x.mflags),
   (0x10, 4, x.committed), (0x14, 4, x.lastKv), (0x18, 4, x.budget.toNat), (0x1C, 4, x.left s), (0x20, 4, x.maxNew),
   (0x24, 2, x.stopSet), (0x26, 2, x.submitRing), (0x28, 4, x.model.toNat), (0x2C, 4, x.wversion.toNat)]

/-- Whether a slot's request is mirrored: GEN or RESUME (R404). -/
def Slot.generates (x : Slot) : Bool := x.opcode == 2 || x.opcode == 4

/-- Send slot records in order, MIRROR_EPOCH rising by one for each (R411). -/
def slotRecs (i : Nat) (bodies : List (Nat × List (Nat × Nat × Nat))) (toks : List (Nat × Nat)) (s : State) : State :=
  match getSlot s i with
  | none => s
  | some x =>
    if lifelineOn s && x.generates then
      let recs := bodies.zipIdx.map fun b => mirrorRec b.1.1 i ((x.mirrorEpoch.toNat + b.2 + 1) % 2 ^ 32) b.1.2
      lifelineRecs recs toks (setSlot i { x with mirrorEpoch := x.mirrorEpoch + BitVec.ofNat 32 bodies.length } s)
    else s

/-- A change of STATE, FLAGS, PANEL, MODEL or WVERSION is mirrored by a STATE record (R411). -/
def slotChanged (i : Nat) (s : State) : State :=
  match getSlot s i with
  | some x => slotRecs i [(4, stateBody x.st.code x s)] [] s
  | none => s

/-- The token at a position of a slot's token list (R283). -/
def tokenAt (x : Slot) (i : Nat) (s : State) : Nat := rdNat s (x.tokenList + 4 * i) 4

/-- The FP16 log-probability kept beside a token (log entry 21). -/
def logpAt (x : Slot) (i : Nat) (s : State) : Nat := rdNat s (x.tokenList + 0x100000 + 2 * i) 2

/-- TOKENS records for positions below `n`, eleven to a record (R409). -/
def tokenBodies (x : Slot) (n : Nat) (s : State) : List (Nat × List (Nat × Nat × Nat)) :=
  (List.range (cdiv n 11)).map fun r =>
    let c := min 11 (n - 11 * r)
    (2, [(8, 4, 11 * r), (0xC, 1, c)] ++ (List.range c).map fun k => (0x10 + 4 * k, 4, tokenAt x (11 * r + k) s))

/-- GENERATED records for `n` positions from `a`, seven to a record (R409). -/
def generatedBodies (x : Slot) (a n : Nat) (s : State) : List (Nat × List (Nat × Nat × Nat)) :=
  (List.range (cdiv n 7)).map fun r =>
    let c := min 7 (n - 7 * r)
    (3, [(8, 4, a + 7 * r), (0xC, 1, c)] ++ (List.range c).flatMap fun k =>
      [(0x10 + 6 * k, 4, tokenAt x (a + 7 * r + k) s), (0x14 + 6 * k, 2, logpAt x (a + 7 * r + k) s)])

/-- The OPEN record of an accepted GEN or RESUME (R411). -/
def openSlot (i : Nat) (s : State) : State :=
  match getSlot s i with
  | some x => slotRecs i [(1, openBody x s)] [] s
  | none => s

/-- Its TOKENS records for positions 0 to COMMITTED − 1, once the tokens have been read (R341, R411). -/
def openTokens (i : Nat) (s : State) : State :=
  match getSlot s i with
  | some x => slotRecs i (tokenBodies x x.committed s) [] s
  | none => s

/-- The bytes of a summary extent: its header and BYTES of data (R310). -/
def summaryBytes (x : Slot) (s : State) : List Byte := rd s x.summary (64 + rdNat s (x.summary + 0x10) 4)

/-- A BULK record with its bulk bytes: 1 summary, 2 KV page (R409). -/
def sendBulk (i what page layer group : Nat) (bytes : List Byte) (s : State) : State :=
  match getSlot s i with
  | some x =>
    if lifelineOn s && x.generates then
      lifelineBulk bytes (slotRecs i [(5, [(8, 1, what), (0xC, 4, bytes.length), (0x10, 4, crc32c bytes),
        (0x14, 4, page), (0x18, 1, layer), (0x19, 1, group)])] [] s)
    else s
  | none => s

/-- The return move of a slot's summary hank from T3 (R202): its owner is the module. -/
def returnSummary (i : Nat) (s : State) : State :=
  match getSlot s i with
  | some x => if tierOf x.summary = 3 then submitReturn 0xFF summaryArea i x.summary false s else s
  | none => s

/-- A slot's summary goes to the partner; one that lies in T3 once its hank has returned (R202, R404). -/
def sendSummary (i : Nat) (s : State) : State :=
  match getSlot s i with
  | some x =>
    if x.summary = 0 then s
    else if tierOf x.summary = 3 then returnSummary i (setSlot i { x with sumDue := true } s)
    else sendBulk i 1 0 0 0 (summaryBytes x s) (touch x.summary 64 (setSlot i { x with sumDue := false } s))
  | none => s

/-- A slot's snapshot: OPEN, TOKENS and GENERATED for positions 0 to COMMITTED − 1, and the summary (R404). The partner
holds none of its pages from then on: they go again with the next that is due (R413; log entry 95). -/
def snapshot (i : Nat) (s : State) : State :=
  let s := modSlot i (fun x => { x with lastKv := 0 }) s
  match getSlot s i with
  | some x =>
    let toks := if x.promptReady then tokenBodies x (min x.prompt x.committed) s
      ++ generatedBodies x x.prompt (x.committed - x.prompt) s else []
    sendSummary i (slotRecs i ((1, openBody x s) :: toks) [] s)
  | none => s

end Sys2Proof.Machine
end

