-- ==== Sys2Proof/Machine/Requests.lean ====
section
/-! DEFINITION. Host memory accesses, completion and stream entries, and the ending of requests: what every
chapter does when it ends a request or faults a panel. -/
namespace Sys2Proof.Machine
open Sys2Proof

/-! ## Host memory (R318 to R320) -/

/-- A memory request of the device: its address, its length, and its attributes, always clear (R318). -/
structure HostReq where
  addr : Nat
  len : Nat
  relaxed : Bool := false
  noSnoop : Bool := false
  idBased : Bool := false
deriving DecidableEq, Repr

/-- The requests that a transfer of host memory is made of: none longer than `most`, none across a 4 KiB boundary (R318). -/
def hostReqs (most : Nat) : (fuel a n : Nat) → List HostReq
  | 0, _, _ => []
  | f + 1, a, n =>
    if n = 0 then []
    else
      let k := min n (min (max 1 most) (4096 - a % 4096))
      { addr := a, len := k } :: hostReqs most f (a + k) (n - k)

/-- The read requests and the write requests of a transfer: Max_Read_Request_Size and Max_Payload_Size bound them (R317,
R318). -/
def readReqs (s : State) (a n : Nat) : List HostReq := hostReqs (min 4096 (128 * 2 ^ s.host.readSize.toNat)) n a n
def writeReqs (s : State) (a n : Nat) : List HostReq := hostReqs (min 512 (128 * 2 ^ s.host.payload.toNat)) n a n

/-- A posted write to host memory; held in issue order while the device may issue none (R318, R320). -/
def hostWrite (a : Nat) (l : List Byte) (s : State) : State :=
  if hostLive s then
    (writeReqs s a l.length).foldl (fun s r => wr (hostBase + r.addr) ((l.drop (r.addr - a)).take r.len) s) s
  else if s.host.up then
    { s with host := { s.host with held := s.host.held ++ l.zipIdx.map fun b => .cell (a + b.2) b.1 } }
  else s

/-- How a request that reads host memory fails; what fails is the environment's (R319). -/
def reqFail (s : State) (r : HostReq) : Option ReadFail :=
  (s.host.bad.find? fun b => max b.1 r.addr < min (b.1 + b.2.1) (r.addr + r.len)).map (·.2.2)

/-- Whether a read of host memory fails: no request may be issued, or one of its requests fails (R319, R320). -/
def hostBad (s : State) (a n : Nat) : Bool := !hostLive s || (readReqs s a n).any fun r => (reqFail s r).isSome

/-- The bit of the AER Uncorrectable Error Status that reports a failed read (R319; log entry 92). -/
def readFailBit : ReadFail → Nat
  | .unsupported => 20 | .abort => 15 | .poisoned => 12 | .timeout => 14

/-- A failed read: reported through AER, and counted (R319). -/
def readFailed (f : Option ReadFail) (s : State) : State :=
  let s := match f with
    | some f => { s with host := { s.host with aer := s.host.aer ||| BitVec.ofNat 32 (2 ^ readFailBit f) } }
    | none => s
  bump .hostReadErrors 1 s

/-- A read of host memory: the bytes, or none with the failure reported and counted (R318, R319). -/
def hostRead (a n : Nat) (s : State) : Option (List Byte) × State :=
  if hostBad s a n then (none, readFailed ((readReqs s a n).findSome? (reqFail s)) s)
  else (some ((readReqs s a n).flatMap fun r => rd s (hostBase + r.addr) r.len), s)

/-- A read of host memory whose own failure, if any, is given (R319). -/
def hostReadAs (f : Option ReadFail) (a n : Nat) (s : State) : Option (List Byte) × State :=
  if hostLive s && f.isSome then (none, readFailed f s) else hostRead a n s

/-! ## Rings -/

def getRing (s : State) (r : Nat) : Ring := tgetD s.rings r {}
def setRing (r : Nat) (x : Ring) (s : State) : State := { s with rings := tset s.rings r x }
def modRing (r : Nat) (f : Ring → Ring) (s : State) : State := setRing r (f (getRing s r)) s

/-- A ring enters ERROR with a code (R332); the cause RING_ERROR is raised (R355). -/
def ringError (r code : Nat) (s : State) : State :=
  raiseCause 0 (bump .ringErrors 1 (modRing r (fun x => { x with st := .error, error := BitVec.ofNat 4 code }) s))

/-- The word of a ring in the device index array (R329). -/
def devIdxWord (x : Ring) (r : Nat) : Nat :=
  if r = 0 then x.idx.toNat % 65536 + (x.cqTail.toNat % 65536) * 65536 else x.idx.toNat

/-- Write a ring's word of the device index array (R329). -/
def writeDevIdx (r : Nat) (s : State) : State :=
  hostWrite (s.db.devidxCur.toNat + 4 * r) (bytesOf 4 (devIdxWord (getRing s r) r)) s

/-- A ring's free entries (R351, R352); ring 0 for its completions. -/
def entryRoom (s : State) (r : Nat) : Nat :=
  let x := getRing s r
  if x.st != .enabled || !hostLive s then 0
  else if r = 0 then 2 ^ x.cqk - (x.cqTail - x.pubHead).toNat % 65536
  else 2 ^ x.k - (x.idx - x.pubHead).toNat

/-- The enabled ring of a type whose TAKEOVER bit is set (R331, R418). -/
def takeoverRing (s : State) (type : Nat) : Option Nat :=
  (s.rings.find? fun r => r.2.st == .enabled && r.2.takeover && r.2.type == type).map (·.1)

/-- A due entry goes on a STREAM ring. -/
def Due.isStream : Due → Bool
  | .completion _ _ _ => false
  | _ => true

/-- The entries due to a ring: its own, and the takeover deliveries of its kind when its TAKEOVER bit is set (R418). -/
def dueTo (s : State) (r : Nat) (stream : Bool) : List Due :=
  let x := getRing s r
  let l := x.due.filter (·.isStream == stream)
  if !l.isEmpty || !x.takeover then l else if stream then s.ply.dueS else s.ply.dueC

/-- A ring takes entries of a kind: a STREAM ring records, a COMPLETE ring and ring 0 completions. -/
def takesDue (x : Ring) (r : Nat) (stream : Bool) : Bool :=
  if stream then x.type == 3 else (x.type == 2 && r != 0) || (x.type == 4 && r == 0)

/-- The entries of a kind that wait for room in a ring, in the order they became due: a COMPLETE ring's only while it is
ENABLED (R333, R351, R352). -/
def waitsForRoom (s : State) (r : Nat) (stream : Bool) : List Due :=
  let x := getRing s r
  if !stream && x.st != .enabled then []
  else (dueTo s r stream).drop (if takesDue x r stream then entryRoom s r else 0)

/-- Each entry that waits for room in a ring raises its full-hold counter once (R351, R352; log entry 58). -/
def countHolds (r : Nat) (s : State) : State :=
  let new := (getRing s r).waited.foldl (·.erase ·) (waitsForRoom s r true ++ waitsForRoom s r false)
  if new.isEmpty then s else bump (.fullHolds r) new.length (modRing r (fun x => { x with waited := x.waited ++ new }) s)

/-- Queue an entry due to a ring (R333, R348). -/
def pushDue (r : Nat) (d : Due) (s : State) : State :=
  countHolds r (modRing r (fun x => { x with due := x.due ++ [d] }) s)

/-- Queue an entry due to the takeover ring of its kind (R418). -/
def pushTakeover (d : Due) (s : State) : State :=
  let s := if d.isStream then { s with ply := { s.ply with dueS := s.ply.dueS ++ [d] } }
    else { s with ply := { s.ply with dueC := s.ply.dueC ++ [d] } }
  match takeoverRing s (if d.isStream then 3 else 2) with
  | some r => countHolds r s
  | none => s

/-- The 28-byte body of a completion entry without TIME, which is filled in when the body is written (R348). -/
def complBody (reqId slot submit status opcode flags count result : Nat) : BitVec 224 :=
  recOf 224 [(0, 4, reqId), (4, 2, slot), (6, 2, submit), (8, 1, status), (9, 1, opcode), (0xA, 2, flags),
    (0xC, 4, count), (0x10, 8, result)]

/-- A completion of a command that holds no slot: SLOT 0xFFFF (R348). -/
def pushPlain (cq submit : Nat) (reqId opcode status result : Nat) (s : State) : State :=
  pushDue cq (.completion (complBody reqId 0xFFFF submit status opcode 0 0 result) .command []) s

/-- The completions of PAUSE and ABORT commands that waited for their target (R310, R313). -/
def pushWaiters (ws : List Waiter) (s : State) : State :=
  ws.foldl (fun s w => pushDue w.cq
    (.completion (complBody w.reqId.toNat 0xFFFF w.ring w.status w.opcode 0 0 0) .command []) s) s

/-! ## Admin completions -/

/-- A completion on ring 0 (R348). -/
def pushAdmin (d : Rec64) (status result : Nat) (s : State) : State :=
  pushPlain 0 0 (fld d 4 4) (fld d 0 1) status result s

/-- An admin command ends: its completion goes to ring 0 unless a host-interface reset has discarded it (R322, R343). -/
def adminDone (id status result : Nat) (s : State) : State :=
  match s.admin.find? (·.id == id) with
  | none => s
  | some c =>
    let s := { s with admin := s.admin.filter (·.id != id) }
    if c.discard then s else pushAdmin c.d status result s

/-! ## Completion statuses (R349) -/

def stDone : Nat := 0x00
def stDoneStop : Nat := 0x01
def stDoneFallback : Nat := 0x02
def stDoneTakeover : Nat := 0x03
def stVersionChanged : Nat := 0x04
def stDeadline : Nat := 0x10
def stAborted : Nat := 0x11
def stBad : Nat := 0x20
def stVersionUnsup : Nat := 0x21
def stNoSlot : Nat := 0x22
def stLengthLimit : Nat := 0x23
def stMappingFault : Nat := 0x30
def stDataLost : Nat := 0x31
def stPanelDown : Nat := 0x40

/-- The stop reason of an end record for a status (R307). -/
def reasonOf (status : Nat) : Nat :=
  if status = stDeadline then 5 else if status = stAborted then 7 else if status = stVersionChanged then 8
  else if status = stLengthLimit then 4
  else if status = stPanelDown || status = stMappingFault || status = stDataLost || status = stBad then 9 else 0

/-! ## Stream records (R306) -/

/-- FLAGS of a stream record. -/
def streamFlags (x : Slot) (final noToken : Bool) (reason : Nat) : Nat :=
  b2n final + 2 * b2n x.fallback + 4 * b2n x.takeover + 8 * b2n noToken + 16 * b2n x.resumed
    + 256 * (if final then reason else 0)

/-- A stream record. -/
def streamRec (reqId token index flags logp : Nat) : BitVec 128 :=
  recOf 128 [(0, 4, reqId), (4, 4, token), (8, 4, index), (0xC, 2, flags), (0xE, 2, logp)]

/-- Queue a stream record of a slot on its STREAM ring, or on the takeover rings (R308, R418). A request cut off by a
host-interface reset has its record discarded instead (R322). -/
def pushStream (i : Nat) (rec : BitVec 128) (final : Bool) (s : State) : State :=
  match getSlot s i with
  | none => s
  | some x =>
    if x.cut then s
    else
      let s := setSlot i { x with recordsDue := x.recordsDue + 1, finalDue := x.finalDue || final } s
      if x.takeover then pushTakeover (.stream rec (some i) final) s
      else pushDue x.streamRing (.stream rec (some i) final) s

/-! ## Pages and hanks of a request (R227, R242) -/

/-- The cache parameters of a panel's pattern. -/
def kvOf (s : State) (p : Nat) : Option KvDecl := (getCast s p).bind (·.img.pat.kv)

/-- Element size of a cache format in bytes. -/
def kvElem (k : KvDecl) : Nat := fmtBits k.kvfmt / 8

/-- Rows of a page list in one hank (R227). -/
def rowsPerHank (k : KvDecl) : Nat := hankBytes / (k.layers * k.groups * 64)

/-- The root of a slot's page list (R225). -/
def rootAddr (c : Cast) (i : Nat) : Nat := c.dirBase + 256 * i

/-- Address of the page-list entry of page index `j` of layer `l` and group `g`; 0 when its row has no hank (R227). -/
def pageEntryAddr (s : State) (k : KvDecl) (root l g j : Nat) : Nat :=
  let c := j / 16
  let h := rdNat s (root + 8 * (c / rowsPerHank k)) 8
  if h = 0 then 0 else h + (c % rowsPerHank k) * (k.layers * k.groups * 64) + (l * k.groups + g) * 64 + (j % 16) * 4

/-- The page of page index `j`, 0xFFFF_FFFF for none. -/
def pageEntry (s : State) (k : KvDecl) (root l g j : Nat) : Nat :=
  let a := pageEntryAddr s k root l g j
  if a = 0 then 0xFFFFFFFF else rdNat s a 4

/-- Layers and groups, ascending in layer and then group. -/
def lgPairs (k : KvDecl) : List (Nat × Nat) :=
  (List.range k.layers).flatMap fun l => (List.range k.groups).map fun g => (l, g)

/-- Every page of page indices `lo` to `hi - 1` of a slot. -/
def pagesOfSlot (s : State) (k : KvDecl) (root lo hi : Nat) : List Nat :=
  (upto lo (hi - lo)).flatMap fun j => (lgPairs k).map fun lg => pageEntry s k root lg.1 lg.2 j

/-- The first 0xF8 bytes, PAGES and CRC of a page-list root (R227). -/
def writeRootPages (root pages : Nat) (s : State) : State :=
  let s := wr (root + 0xF8) (bytesOf 4 pages) s
  wr (root + 0xFC) (bytesOf 4 (crc32c (rd s root 0xFC))) s

/-- The page indices that hold cached positions of a block (R231). -/
def blockPages (k : KvDecl) (b n : Nat) : List Nat :=
  if n ≤ 128 * b then []
  else upto (128 * b / k.tp) ((min (128 * b + 127) (n - 1)) / k.tp + 1 - 128 * b / k.tp)

/-- The slot an entry of a walk belongs to. -/
def WalkEnt.slot : WalkEnt → Nat
  | .record _ _ _ i => i
  | .block _ _ i _ _ _ => i

/-- A walk of a slot has entries still to be written; on a panel that has stopped none is (R142, R242). -/
def walking (x : Panel) (c : Cast) (i : Nat) : Bool :=
  x.st != .faulted && c.rings.any fun r => r.2.todo.any fun e => e.slot == i

/-- Pages are released: they are free, and either the page-list hanks are freed and the root cleared, or the entries hold
0xFFFF_FFFF (R228, R242). -/
def releaseNow (p : Nat) (r : PageRelease) (s : State) : State :=
  match getCast s p, kvOf s p with
  | some c, some k =>
    let root := rootAddr c r.slot
    let ps := pagesOfSlot s k root r.lo r.hi
    let s := modCast p (fun c => { c with pagesTaken := c.pagesTaken.filter fun p => !ps.contains p }) s
    if r.whole then
      let hs := ((List.range 31).map fun n => rdNat s (root + 8 * n) 8).filter (· != 0)
      wr root (List.replicate 256 0) (hs.foldl (fun s a => freeHank (hankOf a) s) s)
    else
      let s := ((upto r.lo (r.hi - r.lo)).flatMap fun j => (lgPairs k).map fun lg => (j, lg)).foldl
        (fun s e => let a := pageEntryAddr s k root e.2.1 e.2.2 e.1
          if a = 0 then s else wr a (bytesOf 4 0xFFFFFFFF) s) s
      writeRootPages root (min r.lo (rdNat s (root + 0xF8) 4)) s
  | _, _ => s

/-- The releases of a panel's pages that no walk stands in the way of any more are carried out (R242). -/
def runReleases (p : Nat) (s : State) : State :=
  match getPanel s p, getCast s p with
  | some x, some c =>
    (c.releases.filter fun r => !walking x c r.slot).foldl (fun s r =>
      releaseNow p r (modCast p (fun c => { c with releases := c.releases.erase r }) s)) s
  | _, _ => s

/-- Pages of a panel are to be released. -/
def releaseDue (p : Nat) (r : PageRelease) (s : State) : State :=
  runReleases p (modCast p (fun c => { c with releases := c.releases ++ [r] }) s)

/-- Page indices of a slot that may have pages: those in use and those an unfinished scatter took. -/
def pagesEnd (s : State) (k : KvDecl) (x : Slot) : Nat := max (rdNat s (x.pageList + 0xF8) 4) (cdiv x.committed k.tp)

/-- A slot's pages and page-list hanks are released, and its root cleared (R242). -/
def releasePages (i : Nat) (s : State) : State :=
  match getSlot s i with
  | none => s
  | some x =>
    let s := setSlot i { x with pageList := 0, length := 0, lastKv := 0, fed := false } s
    if x.pageList = 0 then s
    else
      match kvOf s x.panel with
      | none => s
      | some k => releaseDue x.panel { slot := i, lo := 0, hi := pagesEnd s k x, whole := true, lost := x.rebuild } s

/-- The pages wholly at or above a new length are released (R242, R312). -/
def trimPages (i len : Nat) (s : State) : State :=
  match getSlot s i with
  | none => s
  | some x =>
    match kvOf s x.panel with
    | none => setSlot i { x with length := len, fed := x.fed && len != 0 } s
    | some k =>
      let s := setSlot i { x with length := len, lastKv := min x.lastKv (len / k.tp), fed := x.fed && len != 0 } s
      if x.pageList = 0 then s
      else releaseDue x.panel { slot := i, lo := cdiv len k.tp, hi := pagesEnd s k x, whole := false, lost := x.rebuild } s

/-- Free the hank that holds an address, when one does. -/
def freeAt (a : Nat) (s : State) : State :=
  if tierOf a = 3 then releaseT3 a hankBytes (makeHomeless a hankBytes s) else if a = 0 then s else freeHank (hankOf a) s

/-- Drop a slot's token list (R203, R283). -/
def dropTokenList (i : Nat) (s : State) : State :=
  match getSlot s i with
  | some x => dropAlloc (.token i) (freeAt x.tokenList (setSlot i { x with tokenList := 0 } s))
  | none => s

/-- Drop a slot's summary. -/
def dropSummary (i : Nat) (s : State) : State :=
  match getSlot s i with
  | some x => dropAlloc (.summary i) (freeAt x.summary (setSlot i { x with summary := 0, sumDue := false, sumLost := false } s))
  | none => s

/-- Sampled tokens of a slot are discarded: an acknowledgement of a message that carried them commits nothing (R23,
R312). -/
def dropToks (i : Nat) (s : State) : State :=
  let keep (l : List (Nat × Nat)) : List (Nat × Nat) := l.filter (·.1 != i)
  { s with ply := { s.ply with
      unacked := s.ply.unacked.map fun u => { u with toks := keep u.toks }
      outQ := s.ply.outQ.map fun m => (m.1, m.2.1, keep m.2.2) } }

/-! ## Slots end -/

/-- A slot becomes FREE: STATE with FREE goes to the partner, the in-flight count falls by one, its token list and
summary are freed (R286, R411). -/
def freeSlot (i : Nat) (s : State) : State :=
  match getSlot s i with
  | none => s
  | some x =>
    let s := slotRecs i [(4, stateBody 0 x s)] [] s
    let s := dropToks i (dropSummary i (dropTokenList i (releasePages i s)))
    let c := tgetD s.clients x.client {}
    { s with slots := tdel s.slots i, clients := tset s.clients x.client { c with inFlight := c.inFlight - 1 } }

/-- The completion entry of a slot's request (R348). A takeover delivery takes DONE_TAKEOVER for a status below 0x10
(R418). -/
def slotCompl (i : Nat) (x : Slot) : Due :=
  let status := if x.takeover && x.status < 0x10 then stDoneTakeover else x.status
  let flags := b2n x.fallback + 2 * b2n x.takeover + 4 * b2n x.resumed + 8 * b2n x.histWritten
    + 256 * (if x.generates then x.reason else 0)
  let count := if x.generates then x.streamed else x.outBytes
  let ws := (x.pausers.map fun w => { w with status := x.status }) ++ x.aborters
  .completion (complBody x.reqId.toNat i x.submitRing status x.opcode flags count 0) (.slot i) ws

/-- The completion entry of a slot becomes due (R287). A request cut off by a host-interface reset becomes FREE at that
moment (R322). -/
def pushSlotCompl (i : Nat) (s : State) : State :=
  match getSlot s i with
  | none => s
  | some x =>
    if x.cut then freeSlot i (pushWaiters ((x.pausers.map fun w => { w with status := x.status }) ++ x.aborters) s)
    else
      let s := setSlot i { x with complDue := true } s
      if x.takeover then pushTakeover (slotCompl i x) s
      else pushDue x.ring (slotCompl i x) s

/-- Take a slot's records out of the work in flight: its token or run result will be discarded (R303, R305). -/
def leaveWork (i : Nat) (s : State) : State :=
  match getSlot s i with
  | none => s
  | some x =>
    dropAlloc (.pages x.panel i) <| dropAlloc (.list x.panel i) <| modCast x.panel (fun c => { c with
      runs := c.runs.map fun r => if r == some i then none else r
      step := c.step.map fun st => (st.1, st.2.map fun r => if r.slot = i then { r with removed := true } else r)
      scatters := c.scatters.filter (·.slot != i)
      appends := c.appends.filter fun a => fld a.2 2 2 != i }) s

/-- The slot's request ends with a status, without a token of its own at the end (R286, R308): its uncommitted tokens
are discarded, its pages released, an end record and then the completion become due. -/
def endNow (i status reason : Nat) (s : State) : State :=
  match getSlot s i with
  | none => s
  | some x =>
    if x.st == .done || x.st == .aborted then s
    else
      let status := if x.fallback && (status = stDone || status = stDoneStop) then stDoneFallback else status
      let s := leaveWork i s
      let x := (getSlot s i).getD x
      let drop := x.st == .summarising
      let x := { x with st := (if status < 0x10 then SlotSt.done else .aborted), status := status, reason := reason,
                        sampled := [], pausePending := false, abortPending := false, retryPending := false,
                        handed := none, fallbackDue := false, rebuild := false, urgent := false,
                        discardSum := drop, sumReady := false }
      let s := dropSummary i (dropToks i (setSlot i x s))
      let s := slotChanged i (releasePages i s)
      let s := if status = stVersionChanged then bump (.versionChanged x.panel) 1 s else s
      if x.generates then
        let s := pushStream i (streamRec x.reqId.toNat 0xFFFFFFFF x.committed (streamFlags x true true reason) 0xFC00)
          true s
        if x.cut then pushSlotCompl i s else s
      else pushSlotCompl i s

/-- The request ends with a status. In BOUND, a GEN or RESUME that would end with PANEL_DOWN or DATA_LOST is handed
over to the partner instead (R420). -/
def endSlot (i status : Nat) (s : State) : State :=
  match getSlot s i with
  | none => s
  | some x =>
    if (status = stPanelDown || status = stDataLost) && s.ply.st == .bound && x.generates && x.handed.isNone
        && x.st != .done && x.st != .aborted && x.st != .paused then
      slotRecs i [(6, [(8, 1, status)])] [] (leaveWork i (setSlot i { x with handed := some status } s))
    else endNow i status (reasonOf status) s

/-- Slots of a panel in given states, ascending. -/
def slotsOf (s : State) (p : Nat) (sts : List SlotSt) : List Nat :=
  (s.slots.filter fun kv => kv.2.panel == p && sts.contains kv.2.st).map (·.1)

/-- The states of a request in flight (R286). -/
def inFlightSts : List SlotSt := [.queued, .prefill, .decode, .summarising]

/-- End every request of a panel in given states. -/
def endPanel (p : Nat) (sts : List SlotSt) (status : Nat) (s : State) : State :=
  (slotsOf s p sts).foldl (fun s i => endSlot i status s) s

/-! ## Commit (R23, R24) -/

/-- Commit the oldest sampled token of a slot: COMMITTED rises, its stream record becomes due, the final one when a
stop condition was met at it (R24, R303). -/
def commitOne (i : Nat) (s : State) : State :=
  match getSlot s i with
  | none => s
  | some x =>
    match x.sampled with
    | [] => s
    | (tok, lp) :: rest =>
      let final := rest.isEmpty && x.stopAt.isSome
      let idx := x.committed
      let x' := { x with sampled := rest, committed := x.committed + 1, streamed := x.streamed + 1 }
      let s := setSlot i x' s
      let s := pushStream i (streamRec x.reqId.toNat tok.toNat idx (streamFlags x final false x.reason) lp.toNat) final s
      if final && x.cut then pushSlotCompl i s else s

/-- Commit every sampled token of a slot (R25). -/
def commitAll (i : Nat) (s : State) : State :=
  match getSlot s i with
  | some x => x.sampled.foldl (fun s _ => commitOne i s) s
  | none => s

/-- A stop condition met by a sampled token: the status is decided, the slot ends, and its final record is the
token's own (R303). -/
def stopSlot (i reason status : Nat) (s : State) : State :=
  match getSlot s i with
  | none => s
  | some x =>
    let status := if x.fallback && (status = stDone || status = stDoneStop) then stDoneFallback else status
    let s := leaveWork i s
    let x := (getSlot s i).getD x
    let s := setSlot i
      { x with
        st := (if status < 0x10 then SlotSt.done else .aborted), status := status,
        reason := reason, stopAt := some (reason, status), pausePending := false, abortPending := false,
        retryPending := false, fallbackDue := false } s
    slotChanged i (dropSummary i (releasePages i s))

/-! ## Frogging (R312) -/

/-- Rewind a generation request to its last committed token and queue it. -/
def frog (i : Nat) (s : State) : State :=
  match getSlot s i with
  | none => s
  | some x =>
    let s := leaveWork i s
    let x := (getSlot s i).getD x
    let s := dropToks i (setSlot i { x with sampled := [], stopAt := none, st := .queued } s)
    let s := trimPages i (min x.length (x.committed - 1)) s
    let s := modCast x.panel (fun c => { c with flush := true }) s
    slotChanged i s

/-! ## Panels fault -/

/-- The engines and strands of a unit are emptied and it stops issuing (R142, R277). -/
def stopUnit (u : KUnit) : KUnit :=
  { u with run := .stopped, wait := .none, arrQ := [], outQ := [], vecQ := [], moveQ := [], strandQ := [], passes := [],
           ins := tmap u.ins (fun _ i => { i with queue := [], spilled := [], arr := none, taken := 0, resent := none, spillOff := 0 }),
           outs := tmap u.outs (fun _ o => { o with kept := [] }), recover := none }

/-- Every unit of a panel stops, and the panel's strands and spill area are discarded (R142, R277). -/
def stopPanelUnits (p : Nat) (s : State) : State :=
  modCast p (fun c => { c with spillUsed := 0 })
    ((panelUnits s p).foldl (fun s u => if (tget s.units u).isSome then modUnit u stopUnit s else s) s)

/-- The running SWAP_WEIGHTS of a panel fails (R280). -/
def failSwap (p : Nat) (s : State) : State :=
  match getPanel s p with
  | some x =>
    match x.cast with
    | some c =>
      if x.st == .swapping then
        adminDone c.swapCmd stPanelDown 0 (bump (.swapsFailed p) 1 (modCast p (fun c => { c with swapTo := none }) s))
      else s
    | none => s
  | none => s

/-- CHANNEL_CLOSE for each receive channel of a panel on every port that is UP; the channels close (R387, R421). -/
def closeChannels (p : Nat) (s : State) : State :=
  s.links.ports.foldl (fun s pp =>
    let mine := pp.2.recv.filter fun c => c.2.panel == p
    let s := modPort pp.1 (fun x => { x with
      recv := x.recv.filter fun c => c.2.panel != p
      crnDue := x.crnDue.filter fun ch => !mine.any (·.1 == ch) }) s
    if pp.2.st = .up then
      mine.foldl (fun s c => sendService pp.1 (serviceHdr 0xB 0 0 c.1 0 0) [] s) s
    else s) s

/-- A panel enters FAULTED and its requests end with a status (R89, R142, R274, R286). -/
def faultPanel (p status : Nat) (s : State) : State :=
  match getPanel s p with
  | none => s
  | some x =>
    if x.st == .empty || x.st == .faulted then s
    else
      let s := failSwap p (stopPanelUnits p s)
      let s := modPanel p (fun x => { x with st := .faulted, mapFault := status == stMappingFault }) s
      runReleases p (endPanel p inFlightSts status s)

/-- The VALUE of a fault record as 64 bits. -/
def faultRec (u res : Nat) (atCastOn : Bool) (addr : Nat) (value : Int) (limit : Nat) (s : State) : FaultRec :=
  { unit := u, resource := res, atCastOn := atCastOn, more := false, address := addr,
    value := BitVec.ofNat 64 (toBits 64 value), limit := BitVec.ofNat 64 limit, time := s.now }

/-- Write the mapping-fault record of a panel: the first since CAST_ON stays, later ones set FLAGS[1] (R143). -/
def recordFault (p : Nat) (r : FaultRec) (s : State) : State :=
  raiseCause 2 (bump (.mappingFaults p) 1 (modPanel p (fun x =>
    { x with fault := some (match x.fault with
        | none => r
        | some f => { f with more := true }) }) s))

/-- A mapping fault at run time, raised by the instruction at `pc` of a unit (R142, R143): units stop, the record is
written, requests end, the panel is FAULTED. -/
def mappingFaultAt (u pc res : Nat) (value : Int) (limit : Nat) (s : State) : State :=
  match panelOf s u with
  | none => s
  | some p => faultPanel p stMappingFault (recordFault p (faultRec u res false pc value limit s) s)

/-- A mapping fault of the instruction that the sequencer holds (R142). -/
def mappingFault (u res : Nat) (value : Int) (limit : Nat) (s : State) : State :=
  mappingFaultAt u (getUnit s u).pc res value limit s

/-- A lost tile (R211): the stack's data-lost counter rises and the cause DATA_LOST is raised (R355). -/
def dataLost (st : Nat) (s : State) : State := raiseCause 3 (bump (.dataLost st) 1 s)

end Sys2Proof.Machine
end

