-- ==== Sys2Proof/Machine/UnitOps.lean ====
section
/-! DEFINITION. What unit instructions share: the instruction word (R112 to R116), issue and stalls, row counters
(R117 to R119), the local store (R102, R109), strands (R122, R123, R136), tiles and their check (R204 to R210), and the
halt of a unit (R89). -/
namespace Sys2Proof.Machine
open Sys2Proof

/-! ## The instruction word -/

/-- OP, IN, OUT and the operand bits (R112). -/
def mkWord (op inp out operands : Nat) : Nat := op <<< 58 ||| inp <<< 50 ||| out <<< 42 ||| operands

/-- Operand bits from fields (lowest bit, value). -/
def opFields (fs : List (Nat × Nat)) : Nat := fs.foldl (fun a f => a ||| f.2 <<< f.1) 0

/-- The word of a unit instruction, by the tables of R112 to R114; 0 for a command that is none. -/
def iword : Instr → Nat
  | .nopInstruction _ => mkWord 0x00 0 0 0
  | .halt _ => mkWord 0x01 0 0 0
  | .jump _ t => mkWord 0x02 0 0 t.toNat
  | .loop _ o t c m => mkWord 0x03 0 o.toNat (opFields [(0, t.toNat), (10, c.toNat), (14, b2n m)])
  | .brm _ i t ty k am a => mkWord 0x04 i.toNat 0
      (opFields [(0, t.toNat), (10, ty.toNat), (14, b2n k), (15, b2n am), (16, a.toNat)])
  | .semWait _ sm => mkWord 0x05 0 0 sm.toNat
  | .semSignal _ sm r => mkWord 0x06 0 0 (opFields [(0, sm.toNat), (5, r.toNat)])
  | .barrier _ i o id => mkWord 0x07 i.toNat o.toNat id.toNat
  | .claim _ c sc l t => mkWord 0x08 0 0 (opFields [(0, c.toNat), (4, b2n sc), (5, l.toNat), (9, t.toNat)])
  | .doneTile _ c sc l => mkWord 0x09 0 0 (opFields [(0, c.toNat), (4, b2n sc), (5, l.toNat)])
  | .prob _ c sg => mkWord 0x0A 0 0 (opFields [(0, c.toNat), (4, sg.toNat)])
  | .mwait _ t => mkWord 0x0B 0 0 t.toNat
  | .cset _ c p a v => mkWord 0x0C 0 0 (opFields [(0, c.toNat), (4, p.toNat), (6, b2n a), (7, v.toNat)])
  | .cadd _ c v => mkWord 0x0D 0 0 (opFields [(0, c.toNat), (4, v.toNat)])
  | .cload _ c a t => mkWord 0x0E 0 0 (opFields [(0, c.toNat), (4, a.toNat), (8, b2n t)])
  | .cstep _ c => mkWord 0x0F 0 0 c.toNat
  | .plane _ i a c p => mkWord 0x10 i.toNat 0 (opFields [(0, a.toNat), (4, c.toNat), (6, b2n p)])
  | .pass _ i sh m a af wf k ad p _ => mkWord 0x11 i.toNat 0
      (opFields [(0, sh.toNat), (3, m.toNat), (11, a.toNat), (15, af.toNat), (19, wf.toNat), (23, b2n k), (24, b2n ad),
        (25, b2n p)])
  | .accin _ i a r p => mkWord 0x12 i.toNat 0 (opFields [(0, a.toNat), (4, r.toNat), (12, b2n p)])
  | .drain _ o d ds sg f t a b bc r p => mkWord 0x13 0 o.toNat
      (opFields [(0, d.toNat), (4, ds.toNat), (6, sg.toNat), (10, f.toNat), (14, t.toNat), (22, a.toNat), (26, b2n b),
        (27, bc.toNat), (31, r.toNat), (39, b2n p)])
  | .vop _ f a b c d r fm => mkWord 0x18 0 0
      (opFields [(0, f.toNat), (6, a.toNat), (10, b.toNat), (14, c.toNat), (18, d.toNat), (22, r.toNat), (30, fm.toNat)])
  | .vred _ k ch a d r => mkWord 0x19 0 0 (opFields [(0, b2n k), (1, b2n ch), (2, a.toNat), (6, d.toNat), (10, r.toNat)])
  | .vsmax _ a st po n f => mkWord 0x1A 0 0
      (opFields [(0, a.toNat), (4, st.toNat), (8, po.toNat), (12, n.toNat), (19, b2n f)])
  | .vtopk _ a d w k r fi fn p => mkWord 0x1B 0 0
      (opFields [(0, a.toNat), (4, d.toNat), (8, w.toNat), (12, k.toNat), (24, r.toNat), (32, b2n fi), (33, b2n fn),
        (34, b2n p)])
  | .vsample _ a d sd t n dr => mkWord 0x1C 0 0
      (opFields [(0, a.toNat), (4, d.toNat), (8, sd.toNat), (12, t.toNat), (16, n.toNat), (20, dr.toNat)])
  | .vrand _ d sd t dr r => mkWord 0x1D 0 0
      (opFields [(0, d.toNat), (4, sd.toNat), (8, t.toNat), (12, dr.toNat), (28, r.toNat)])
  | .load _ l sg o b v => mkWord 0x28 0 0
      (opFields [(0, l.toNat), (4, sg.toNat), (8, o.toNat), (12, b.toNat), (20, b2n v)])
  | .store _ l sg o b => mkWord 0x29 0 0 (opFields [(0, l.toNat), (4, sg.toNat), (8, o.toNat), (12, b.toNat)])
  | .send _ o l b => mkWord 0x2A 0 o.toNat (opFields [(0, l.toNat), (4, b.toNat)])
  | .recv _ i l b m => mkWord 0x2B i.toNat 0 (opFields [(0, l.toNat), (4, b.toNat), (12, m.toNat)])
  | .fwd _ i o b m => mkWord 0x2C i.toNat o.toNat (opFields [(0, b.toNat), (8, m.toNat)])
  | .mark _ o m => mkWord 0x30 0 o.toNat m.toNat
  | .steer _ d c o0 o1 b n => mkWord 0x31 (2 ^ d.toNat ||| 2 ^ c.toNat) (2 ^ o0.toNat ||| 2 ^ o1.toNat)
      (opFields [(0, d.toNat), (3, c.toNat), (6, o0.toNat), (9, o1.toNat), (12, b.toNat), (20, n.toNat)])
  | .merge _ i0 i1 c o b n => mkWord 0x32 (2 ^ i0.toNat ||| 2 ^ i1.toNat ||| 2 ^ c.toNat) (2 ^ o.toNat)
      (opFields [(0, i0.toNat), (3, i1.toNat), (6, c.toNat), (9, o.toNat), (12, b.toNat), (20, n.toNat)])
  | _ => 0

/-! ## Issue -/

/-- The word at a unit's instruction address. -/
def fetchWord (x : KUnit) : Option (BitVec 64) := x.program[x.pc]?

/-- What a presented instruction or a step comes to: the state it leaves, and the stall causes it waits for when it has
not fired (R128, R145); none when it has made progress. -/
abbrev Fired := State × List Nat

/-- The instruction address becomes `a`; the address after the last word raises a mapping fault with resource program
store (R110), at the address of the instruction just completed. -/
def goTo (u a : Nat) (s : State) : State :=
  let x := getUnit s u
  let n := x.program.length
  if x.run == .stopped then s
  else if n ≤ a then mappingFaultAt u x.pc 0x01 a n (setUnit u { x with pc := a } s)
  else setUnit u { x with pc := a } s

/-- The instruction completes or is handed to its engine: the next address (R107). -/
def retire (u : Nat) (s : State) : State := goTo u ((getUnit s u).pc + 1) s

/-- One count of a stall cause (R144, R145). -/
def stall (u cause : Nat) (s : State) : State := bump (.stall u cause) 1 s

/-! ## Row counters -/

def getCtr (x : KUnit) (n : Nat) : RowCtr := tgetD x.ctrs n {}
def setCtr (n : Nat) (c : RowCtr) (x : KUnit) : KUnit := { x with ctrs := tset x.ctrs n c }

/-- VALUE of a counter. -/
def ctrVal (x : KUnit) (n : Nat) : Nat := (getCtr x n).value.toNat

def RowCtr.overMode (c : RowCtr) : Nat := c.mode.toNat % 4
def RowCtr.chain (c : RowCtr) : Bool := nbit c.mode.toNat 2
def RowCtr.auto_ (c : RowCtr) : Bool := nbit c.mode.toNat 3

/-- t = VALUE + STEP as a signed integer, and whether the step passes the bound (R118). -/
def stepTarget (c : RowCtr) : Int × Bool :=
  let st := c.step.toInt
  let t : Int := c.value.toNat + st
  (t, (0 < st && (c.bound.toNat : Int) < t) || (st < 0 && t < (c.bound.toNat : Int)))

/-- One step of a counter and the chain it starts (R118): the unit, whether the named counter wrapped, and the fault
(t, BOUND) of a checked counter. -/
def stepCtr : (fuel : Nat) → (n : Nat) → KUnit → KUnit × Bool × Option (Int × Nat)
  | 0, _, x => (x, false, none)
  | k + 1, n, x =>
    let c := getCtr x n
    let (t, passes) := stepTarget c
    if !passes then (setCtr n { c with value := BitVec.ofInt 32 t } x, false, none)
    else if c.overMode = 2 then (x, false, some (t, c.bound.toNat))
    else
      let x := if c.overMode = 0 then setCtr n { c with value := c.base } x else x
      if c.chain && n < 15 then
        let (x, _, f) := stepCtr k (n + 1) x
        (x, true, f)
      else (x, true, none)

/-- Step a counter of a unit; a checked one that passes its bound raises the fault of R118. -/
def doStep (u n : Nat) (s : State) : Bool × Bool × State :=
  let (x, wrapped, f) := stepCtr 16 n (getUnit s u)
  let s := setUnit u x s
  match f with
  | some (t, b) => (wrapped, true, mappingFault u 0x02 t b s)
  | none => (wrapped, false, s)

/-- AUTO counters named in an address field step once after the instruction has read them (R119). -/
def autoStep (u : Nat) (ns : List Nat) (s : State) : State :=
  (ns.eraseDups).foldl (fun s n => if (getCtr (getUnit s u) n).auto_ then (doStep u n s).2.2 else s) s

/-! ## The local store -/

def lsBytes : Nat := 0x80000

/-- A local-store range is aligned and inside the store (R102). -/
def lsOk (addr n align : Nat) : Bool := addr % align == 0 && addr + n ≤ lsBytes

def lsRead (x : KUnit) (addr n : Nat) : List Byte := memGets x.store addr n
def lsWrite (addr : Nat) (l : List Byte) (x : KUnit) : KUnit := { x with store := memPuts x.store addr l }

/-- The mapping fault of a bad local address (R102, R119, R141). -/
def lsFault (u addr : Nat) (s : State) : State := mappingFault u 0x03 addr lsBytes s

/-- Every queued operation of a unit. -/
def queuedOps (x : KUnit) : List QOp := x.arrQ ++ x.outQ ++ x.vecQ ++ x.moveQ ++ x.strandQ

/-- Bytes of an operand row of 128 lanes. -/
def rowLen (fmt : Nat) : Nat := 16 * fmtBits fmt

/-- VOP codes that read operand B, and those that read operand C (R116). -/
def vopB (f : Nat) : Bool := f ≤ 9 || (0x0C ≤ f && f ≤ 0x18)
def vopC (f : Nat) : Bool := f = 3 || f = 9

/-- Local-store ranges an operation still reads (address and bytes). -/
def opReads : EngOp → List (Nat × Nat)
  | .plane none a c _ => [(a, if c = 2 then 8192 else 16384)]
  | .pass none a sh m _ _ _ _ _ _ => [(a, m * (if sh = 4 || sh = 5 then 512 else 128))]
  | .accin none a r _ _ => [(a, r * 1536)]
  | .store a _ _ b => [(a, 256 * b)]
  | .send _ a left _ => [(a, left * 256)]
  | .drain _ _ _ _ _ _ _ (some b) _ => [(b, 512)]
  | .vop f fmt r a b c _ => [(a, if f = 0x0A then r * rowLen fmt else 512 * r)]
      ++ (if vopB f then [(b, 512 * r)] else []) ++ (if vopC f then [(c, 512 * r)] else [])
  | .vred _ ch a d r => [(a, 512 * r)] ++ (if ch then [(d, 4)] else [])
  | .vsmax sc st _ n _ => [(sc, 4 * n), (st, 8)]
  | .vtopk a _ w k r first _ => [(a, 1024 * r)] ++ (if first then [] else [(w, 8 * k)])
  | .vsample a _ sd n _ _ => [(a, 4 * n), (sd, 8)]
  | .vrand _ sd _ _ _ => [(sd, 8)]
  | _ => []

/-- Bytes a drain of `r` rows writes at most, in whole beats. -/
def drainBytes (f r : Nat) : Nat := 256 * cdiv (r * 16 * fmtBits f) 256

/-- Local-store ranges an operation will write. -/
def opWrites : EngOp → List (Nat × Nat)
  | .load a _ _ b _ => [(a, 256 * b)]
  | .recv _ a left _ => [(a, left * 256)]
  | .drain _ a 0 _ f _ _ _ r => [(a, drainBytes f r)]
  | .vop f fmt r _ _ _ d => [(d, if f = 0x0B then r * rowLen fmt else 512 * r)]
  | .vred _ _ _ d _ => [(d, 4)]
  | .vsmax _ st po n final => [(st, if final then 16 else 12), (po, 4 * n)]
  | .vtopk _ d w k _ _ finish => [(w, 8 * k)] ++ (if finish then [(d, 8 * k)] else [])
  | .vsample _ d _ _ _ _ => [(d, 4)]
  | .vrand d _ _ _ r => [(d, 512 * r)]
  | _ => []

/-- The bytes of the retain area that a drain to a retained tile segment writes with its tiles (R209). -/
def retainWrites (x : KUnit) : EngOp → List (Nat × Nat)
  | .drain _ off 2 sg f _ _ _ r =>
    match (tget x.segs sg).bind (·.tile) with
    | some t => (t.retain.map fun a => (a.1 + off, drainBytes f r)).toList
    | none => []
  | _ => []

/-- Every local-store range an operation will write (R109, R209). -/
def localWrites (x : KUnit) (op : EngOp) : List (Nat × Nat) := opWrites op ++ retainWrites x op

/-- The range of an area that an access of a segment touches: area, first byte, bytes. -/
def segRange (x : KUnit) (sg off n : Nat) : List (Nat × Nat × Nat) :=
  match tget x.segs sg with
  | some g => [(g.area, g.off + off, n)]
  | none => []

/-- Device ranges an operation reads and writes, by area (R109). -/
def devReads (x : KUnit) : EngOp → List (Nat × Nat × Nat)
  | .load _ sg off b _ => segRange x sg off (256 * b)
  | _ => []
def devWrites (x : KUnit) : EngOp → List (Nat × Nat × Nat)
  | .store _ sg off b => segRange x sg off (256 * b)
  | .drain _ a 2 sg f _ _ _ r => segRange x sg a (drainBytes f r)
  | _ => []

/-- Two ranges share a byte. -/
def overlap (a b : Nat × Nat) : Bool := max a.1 b.1 < min (a.1 + a.2) (b.1 + b.2)

/-- Two ranges of areas share a byte. -/
def areaOverlap (a b : Nat × Nat × Nat) : Bool := a.1 == b.1 && overlap a.2 b.2

/-- Some operation that stands before instruction `num` writes what it reads, or reads or writes what it writes: local
ranges, and device ranges by area (R109). -/
def hazard (x : KUnit) (num : Nat) (lr lw : List (Nat × Nat)) (dr dw : List (Nat × Nat × Nat)) : Bool :=
  (queuedOps x).any fun o => o.num < num
    && ((localWrites x o.op).any (fun w => (lr ++ lw).any (overlap w)) || (opReads o.op).any (fun r => lw.any (overlap r))
      || (devWrites x o.op).any (fun w => (dr ++ dw).any (areaOverlap w))
      || (devReads x o.op).any (fun r => dw.any (areaOverlap r)))

/-- An operation at the head of its engine waits for an earlier instruction of its unit (R109). -/
def opHazard (x : KUnit) (q : QOp) : Bool :=
  hazard x q.num (opReads q.op) (localWrites x q.op) (devReads x q.op) (devWrites x q.op)

/-- The row counters as an instruction reads them, with its address: what `Config.headerField` goes by. -/
def opKey (x : KUnit) : List Nat := x.pc :: (List.range 16).map (ctrVal x)

/-- A new entry of an engine's queue, for the instruction the sequencer holds. -/
def newOp (x : KUnit) (op : EngOp) : QOp := { num := x.issued, pc := x.pc, key := opKey x, op := op }

/-! ## The datapath log and the halt of a unit -/

/-- Append a record to a stack's circular datapath log (R91). -/
def logRec (st : Nat) (r : LogRec) (s : State) : State :=
  let x := getStack s st
  if x.log.length < 256 then setStack st { x with log := x.log ++ [r] } s
  else bump (.lostRecords st) 1 (setStack st { x with log := x.log.tail ++ [r] } s)

/-- Key of a work list: region lists from 1024 on. -/
def listKey (region : Bool) (idx list : Nat) : Nat := (if region then 1024 else 0) + 16 * idx + list

/-- The work list a unit names by SCOPE and LIST (R164). -/
def unitList (u : Nat) (region : Bool) (list : Nat) : Nat :=
  listKey region (if region then regionOf u else clusterOf u) list

/-- Key of the work counter that holds a list: clusters 0 to 63, regions from 64 on. -/
def counterOf (key : Nat) : Nat := if key < 1024 then key / 16 else 64 + (key - 1024) / 16

/-- After a change of a list its waiting claims become pending again (R167). -/
def wakeClaims (key : Nat) (s : State) : State :=
  let c := counterOf key
  { s with claims := tset s.claims c ((tgetD s.claims c []).map fun q => if q.list = key then { q with due := true } else q) }

/-- A list is drained (R165). -/
def WorkList.drained (l : WorkList) : Bool := l.final && l.next == l.count.toNat && l.requeue.isEmpty && l.held.isEmpty

/-- Requeue the index a halted unit holds on a list (R169). -/
def requeueHeld (u key : Nat) (s : State) : State :=
  match tget s.lists key with
  | none => s
  | some l =>
    match tget l.held u with
    | none => s
    | some i => wakeClaims key (bump (.requeued key) 1
        { s with lists := tset s.lists key { l with held := tdel l.held u, requeue := l.requeue ++ [i] } })

/-- Whether a unit holds a STATIC part of its panel's pattern (R266, R272). -/
def isStatic (s : State) (u : Nat) : Bool :=
  match panelOf s u with
  | none => false
  | some p =>
    match getCast s p with
    | none => false
    | some c => allIdx (fun lc rs => allIdx (fun k r => !(r == Role.static && physUnit c (8 * lc + k) == u)) 0 rs) 0
        c.img.pat.roles == false

/-- A channel whose return count has changed joins the rotation of its port (R389). -/
def joinReturns (ch : Nat) (l : List Nat) : List Nat := if l.contains ch then l else l ++ [ch]

/-- Free one receive slot of a link channel: its credit is returned (R389). -/
def returnCredit (p ch : Nat) (s : State) : State :=
  modPort p (fun x =>
    { x with
      recv := (match tget x.recv ch with
        | some c => tset x.recv ch { c with crn := c.crn + 1 }
        | none => x.recv)
      crnDue := joinReturns ch x.crnDue }) s

/-- Change a receive channel. -/
def modRecv (p ch : Nat) (f : RecvCh → RecvCh) (s : State) : State :=
  modPort p (fun x => match tget x.recv ch with
    | some c => { x with recv := tset x.recv ch (f c) }
    | none => x) s

/-- The first slot of a receive channel is freed and its credit returned (R389). -/
def freeRecvSlot (p ch : Nat) (f : RecvCh → RecvCh) (s : State) : State :=
  returnCredit p ch (modRecv p ch (fun c => f { c with slots := c.slots.tail, done := 0 }) s)

/-- Receive channels that feed an input strand of a unit: port, channel, slots waiting. -/
def feedsOf (s : State) (u : Nat) : List (Nat × Nat × Nat) :=
  s.links.ports.flatMap fun p => p.2.recv.filterMap fun c =>
    match c.2.dest with
    | .strand v _ => if v = u then some (p.1, c.1, c.2.slots.length) else none
    | .link _ _ => none

/-- A halted unit's strands accept what waits for them on link channels and discard it (R152). -/
def discardFeeds (u : Nat) (s : State) : State :=
  (feedsOf s u).foldl (fun s f =>
    (List.range f.2.2).foldl (fun s _ => freeRecvSlot f.1 f.2.1 (fun c => { c with hdr := none }) s) s) s

/-- FLAGS of a datapath log record: [0] row check failed, [1] column check failed, [2] more failing columns than were
logged, [3] 16-bit bounded check, [4] HALT, [5] darning mark set by this event (R91). -/
def logFlags (base : Nat) (halt newly : Bool) : BitVec 8 := BitVec.ofNat 8 (base % 16 + 16 * b2n halt + 32 * b2n newly)

/-- Units of a panel that take part in barriers: those that were given a program. -/
def barrierUnits (s : State) (p : Nat) : List Nat := (panelUnits s p).filter fun u => (getUnit s u).run != .idle

/-- The barrier a unit waits at for the other units. -/
def barrierId (x : KUnit) : Option Nat :=
  match x.wait with
  | .barrier id _ _ false => some id
  | _ => none

/-- Every taking-part unit has arrived at a barrier with this ID, halted ones counted as arrived (R140, R152). -/
def allArrived (s : State) (p id : Nat) : Bool :=
  (barrierUnits s p).all fun u => let x := getUnit s u; x.halted || barrierId x == some id

/-- Every unit waits at a barrier and no ID is shared by all: the unit with the lowest number raises a mapping fault
with resource barrier (R140). -/
def barrierClash (p : Nat) (s : State) : State :=
  let us := (barrierUnits s p).filter fun u => !(getUnit s u).halted
  match us with
  | [] => s
  | u :: _ =>
    match barrierId (getUnit s u) with
    | some id =>
      if us.all (fun v => (barrierId (getUnit s v)).isSome) && !(allArrived s p id) then mappingFault u 0x0D id 0 s else s
    | none => s

/-- The halt of R89: nothing further issues, buffers are discarded, the unit is marked for darning, its tiles are
requeued, and the panel of a STATIC unit stops with PANEL_DOWN. A halted unit counts as arrived at every barrier, so the
units that are left may now all wait with different IDs (R140, R152). `recs` are the log records it writes, HALT set. -/
def haltUnit (u : Nat) (recs : List LogRec) (s : State) : State :=
  let s := modUnit u (fun x => { stopUnit x with run := .running, halted := true, marked := true, acc := [] }) s
  let s := discardFeeds u (recs.foldl (fun s r => logRec (unitStack u) r s) s)
  let s := (s.lists.map (·.1)).foldl (fun s k => requeueHeld u k s) s
  let s := { s with claims := tmap s.claims fun _ l => l.filter (·.unit != u) }
  match panelOf s u with
  | some p => if isStatic s u then faultPanel p stPanelDown s else barrierClash p s
  | none => s

/-! ## Strands -/

def getIn (x : KUnit) (i : Nat) : InStrand := tgetD x.ins i {}
def setIn (i : Nat) (q : InStrand) (x : KUnit) : KUnit := { x with ins := tset x.ins i q }
def getOut (x : KUnit) (o : Nat) : OutStrand := tgetD x.outs o {}
def setOut (o : Nat) (q : OutStrand) (x : KUnit) : KUnit := { x with outs := tset x.outs o q }

def Entry.isBeat : Entry → Bool
  | .beat _ _ => true
  | .hole _ _ => true
  | .refill _ _ => true
  | .marker _ => false

/-- Beats and markers in the on-chip queue (R122). -/
def InStrand.beats (q : InStrand) : Nat := (q.queue.filter (·.isBeat)).length
def InStrand.marks (q : InStrand) : Nat := (q.queue.filter fun e => !e.isBeat).length

/-- On-chip room in the lane of an entry (R122): 16 beats, 16 markers. -/
def InStrand.laneRoom (q : InStrand) (beat : Bool) : Bool := if beat then q.beats < 16 else q.marks < 16

/-- BEATS of a tile header. -/
def hdrBeats (h : Rec64) : Nat := fld h 6 2

/-- Slots an entry needs on a link channel: a tile header takes a side slot of its own (R385, R389). -/
def linkSlots : Entry → Nat
  | .beat _ (some _) => 2
  | _ => 1

/-- A destination has room for an entry (R123, R152, R178, R388). -/
def destRoom (s : State) (e : Entry) : Dest → Bool
  | .strand u i =>
    let x := getUnit s u
    let q := getIn x i
    x.halted || q.spillEn || q.laneRoom e.isBeat
  | .link p ch =>
    let x := getPort s p
    slotsRoom x ch (linkSlots e) && !x.resendq.any (·.1 == ch)

/-- Bytes an output strand's tiles hold in the resend store: their payload; the 64-byte header is counted apart from the
128 KiB (R210 does not say; DESIGN CHOICE, log entry 85). -/
def keptBytes (x : KUnit) : Nat :=
  x.outs.foldl (fun a o => a + o.2.kept.foldl (fun b t => if t.waiting.isEmpty then b else b + 256 * hdrBeats t.hdr) 0) 0

/-- An output strand has room for an entry: every destination has, and a new tile fits the resend store (R123, R210). -/
def outRoom (s : State) (u o : Nat) (e : Entry) : Bool :=
  let x := getUnit s u
  (getOut x o).dests.all (destRoom s e)
    && match e with
      | .beat _ (some h) => keptBytes x + 256 * hdrBeats h ≤ 0x20000
      | _ => true

/-- A full output waits for link credits rather than for a strand (R145, R178). -/
def outCause (s : State) (u o : Nat) (e : Entry) : Nat :=
  if (getOut (getUnit s u) o).dests.any fun d =>
      match d with
      | .link _ _ => !destRoom s e d
      | _ => false
  then 10 else 1

/-- Spill blocks a strand's spilled entries take: 4 KiB blocks of 16 entries, given back when all have returned
(R138). -/
def InStrand.blocks (q : InStrand) : Nat := if q.spilled.isEmpty then 0 else cdiv (q.spillOff + q.spilled.length) 16

/-- Spill blocks in use by the strands of a panel. -/
def spillInUse (s : State) (p : Nat) : Nat :=
  (panelUnits s p).foldl (fun a u => (getUnit s u).ins.foldl (fun a q => a + q.2.blocks) a) 0

/-- The spill area of a panel in blocks. -/
def spillArea (s : State) (p : Nat) : Nat := ((getCast s p).map fun c => c.img.pat.spillBytes / 4096).getD 0

/-! ## Tile headers (R204 to R207) -/

/-- A tile header with both CRCs right: HCRC over 0x00 to 0x3B and PCRC over the payload. -/
def mkTileHdr (fmt shape flags rows beats scale producer source panel tensor index seq : Nat) (payload : List Byte) :
    Rec64 :=
  sealRec (recOf 512 [(0, 1, 1), (1, 1, fmt), (2, 1, shape), (3, 1, flags), (4, 2, rows), (6, 2, beats), (8, 4, scale),
    (0xC, 2, producer), (0xE, 1, source), (0xF, 1, panel), (0x10, 4, tensor), (0x14, 4, index), (0x18, 8, seq),
    (0x38, 4, crc32c payload)])

/-- The header's own part of R207: HCRC, VERSION, reserved fields, defined values. -/
def tileHdrOk (h : Rec64) : Bool :=
  recOk h && fld h 0 1 == 1 && fmtOk (fld h 1 1) && (fld h 2 1 ≤ 5 || fld h 2 1 == 0xF) && fld h 3 1 < 8
    && 1 ≤ fld h 4 2 && fld h 4 2 ≤ 256 && 1 ≤ hdrBeats h && hdrBeats h ≤ 256 && fld h 0xC 2 < 512 && fld h 0xE 1 < 4
    && fld h 0xF 1 < 16 && fld h 0x20 24 == 0

/-- A tile passes (R207) at a place whose payload is `len` bytes. -/
def tilePasses (h : Rec64) (payload : List Byte) : Bool :=
  tileHdrOk h && 256 * hdrBeats h == payload.length && fld h 0x38 4 == crc32c payload

/-- A header marked as a resent copy: FLAGS[2] set, HCRC rewritten (R206, R210). -/
def resentHdr (h : Rec64) : Rec64 := sealRec (setFld h 3 1 (fld h 3 1 ||| 4))

def beatBytes (b : Beat) : List Byte := recBytes b
def beatOf (l : List Byte) : Beat := BitVec.ofNat 2048 (natOf l)

/-- Beats of a byte range, the last one padded with zeros. -/
def beatsOf (l : List Byte) : List Beat := (chunks 256 (cdiv l.length 256) l).map beatOf

/-! ## Delivery -/

/-- A copy of the tile with header `h`: PRODUCER, SOURCE, PANEL and SEQUENCE agree (R205). -/
def sameTile (h k : Rec64) : Bool := fld h 0xC 12 == fld k 0xC 12 && fld h 0x18 8 == fld k 0x18 8

/-- A sender keeps this copy of the tile with header `h` for the destination. -/
def SentTile.isFor (t : SentTile) (d : Dest) (h : Rec64) : Bool := sameTile t.hdr h && t.waiting.contains d

/-- Kept tiles after a destination has checked a copy of one: `skip` older copies of the same tile still wait for it. -/
def ackKept (d : Dest) (h : Rec64) : (skip : Nat) → List SentTile → List SentTile
  | _, [] => []
  | skip, t :: l =>
    if !t.isFor d h then t :: ackKept d h skip l
    else
      match skip with
      | k + 1 => t :: ackKept d h k l
      | 0 =>
        let w := t.waiting.filter (· != d)
        if w.isEmpty then l else { t with waiting := w } :: l

/-- The copy that a sender keeps of a tile no longer waits for a destination that has checked it, whichever unit sent it
on; a copy nobody waits for leaves the resend store (R210). Where the same tile was sent more than once, `skip` of its
copies failed before and are still to be resent. -/
def ackTile (d : Dest) (h : Rec64) (skip : Nat) (s : State) : State :=
  { s with units := tmap s.units fun _ x =>
      { x with outs := tmap x.outs fun _ o => { o with kept := ackKept d h skip o.kept } } }

/-- Copies of the tile with header `h` that failed at an input strand and are still to be resent (R210). -/
def holesOf (h : Rec64) (q : InStrand) : Nat :=
  ((q.queue ++ q.spilled).filter fun e => match e with
    | .hole k _ => sameTile k h
    | _ => false).length

/-- Beats have been taken of a tile that is still arriving at an input strand: an instruction that took them completes when
the tile has been checked (R207). A strand whose queue has no room for the rest of the tile can bring no check, and the
instruction goes on (R207 does not say; DESIGN CHOICE, log entry 88). -/
def tileOpen (x : KUnit) (i : Nat) : Bool :=
  let q := getIn x i
  q.arr.isSome && 0 < q.taken && (q.spillEn || q.laneRoom true)

/-- Move `n` beats of a failing tile back into the operation that took them (R207). -/
def rewindOp (i n : Nat) : EngOp → EngOp
  | .recv q a left m => if q = i then .recv q (a - 256 * n) (left + n) m else .recv q a left m
  | .fwd q o left m => if q = i then .fwd q o (left + n) m else .fwd q o left m
  | .plane (some q) a c got => if q = i then .plane (some q) a c (got.take (got.length - n)) else .plane (some q) a c got
  | .pass (some q) a sh m af wf k ad got ups =>
    .pass (some q) a sh m af wf k ad (if q = i then got.take (got.length - n) else got) ups
  | .accin (some q) a r got h => .accin (some q) a r (if q = i then got.take (got.length - n) else got) h
  | .steer d c o0 o1 b it (some (sel, dn)) =>
    if d = i then .steer d c o0 o1 b (max it 1) (some (sel, dn - n)) else .steer d c o0 o1 b it (some (sel, dn))
  | .merge i0 i1 c o b it (some (sel, dn)) =>
    if (if sel then i1 else i0) = i then .merge i0 i1 c o b (max it 1) (some (sel, dn - n))
    else .merge i0 i1 c o b it (some (sel, dn))
  | o => o

/-- The same for an entry of a queue. -/
def rewindQ (i n : Nat) (q : QOp) : QOp := { q with op := rewindOp i n q.op }

/-- Remove the last `n` beats of a list of entries, and put a hole in the place of the first of them. -/
def cutTail (n : Nat) (hole : Entry) (l : List Entry) : List Entry :=
  let rec go : Nat → List Entry → List Entry
    | _, [] => []
    | 0, e :: t => e :: go 0 t
    | k + 1, e :: t => if e.isBeat then go k t else e :: go (k + 1) t
  (go n l.reverse).reverse ++ [hole]

/-- Put a resent copy in the place of the first hole of a queue: it takes that one place, and its beats come as they
are taken (log entry 74). -/
def fillFirst (h : Rec64) (bs : List Beat) : List Entry → List Entry
  | [] => []
  | .hole _ _ :: t => .refill (some h) bs :: t
  | e :: t => e :: fillFirst h bs t

/-- Whether a list of entries holds a hole. -/
def hasHole (l : List Entry) : Bool := l.any fun e => match e with | .hole _ _ => true | _ => false

/-- One more failing copy for the first hole; the number of failing copies so far. -/
def failHole : List Entry → List Entry × Nat
  | [] => ([], 0)
  | .hole h n :: t => (.hole h (n + 1) :: t, n + 1)
  | e :: t => let r := failHole t; (e :: r.1, r.2)

/-- The log record of a unit that halts after four failing copies of a tile (R210). BAND and COLUMN are not stated: free
values (log entry 3). -/
def copyHalt (u : Nat) (s : State) : State :=
  let newly := !(getUnit s u).marked
  let (b, s) := freeNat s
  let (c, s) := freeNat s
  haltUnit u [{ unit := u, band := b % 9, flags := logFlags 0 true newly, column := c % 129, attempt := 3, time := s.now }] s

/-- A resent copy reaches an input strand: it takes the place of the tile that failed, or fails in turn; the fourth
failing copy halts the unit (R210). -/
def fillHole (u i : Nat) (h : Rec64) (bs : List Beat) (s : State) : State :=
  let x := getUnit s u
  let q := getIn x i
  let inQueue := hasHole q.queue
  if tilePasses h (bs.flatMap beatBytes) then
    let q' := if inQueue then { q with queue := fillFirst h bs q.queue } else { q with spilled := fillFirst h bs q.spilled }
    ackTile (.strand u i) h 0 (setUnit u (setIn i { q' with resent := none } x) s)
  else
    let r := failHole (if inQueue then q.queue else q.spilled)
    let q' := if inQueue then { q with queue := r.1 } else { q with spilled := r.1 }
    let s := bump (.strandCrc u) 1 (setUnit u (setIn i { q' with resent := none } x) s)
    if 4 ≤ r.2 then copyHalt u s else s

/-- The tile now arriving at an input strand fails (R207): one strand CRC failure; its beats leave the strand and the
operations that took them, and its place waits for the resent copy (R210). -/
def failArriving (u i : Nat) (h : Rec64) (bs : List Beat) (s : State) : State :=
  let x := getUnit s u
  let q := getIn x i
  let hole := Entry.hole h 1
  let n := bs.length - q.taken
  -- spilled entries are the newest: take the tile's beats from the tail of both
  let inSpill := min n ((q.spilled.filter (·.isBeat)).length)
  let q' := if inSpill = 0 then { q with queue := cutTail n hole q.queue, arr := none, taken := 0 }
    else { q with queue := (cutTail (n - inSpill) hole q.queue).dropLast, spilled := cutTail inSpill hole q.spilled,
                  arr := none, taken := 0 }
  let f := rewindQ i q.taken
  setUnit u { setIn i q' x with moveQ := x.moveQ.map f, arrQ := x.arrQ.map f, strandQ := x.strandQ.map f }
    (bump (.strandCrc u) 1 s)

/-- A complete tile at an input strand is checked (R207). A passing one is acknowledged to its sender; a failing one
is discarded and asked for again (R210). -/
def checkArrived (u i : Nat) (s : State) : State :=
  let x := getUnit s u
  let q := getIn x i
  match q.arr with
  | none => s
  | some (h, bs) =>
    if bs.length < hdrBeats h then s
    else if tilePasses h (bs.flatMap beatBytes) then
      ackTile (.strand u i) h (holesOf h q) (setUnit u (setIn i { q with arr := none, taken := 0 } x) s)
    else failArriving u i h bs s

/-- A header that arrives while a tile is incomplete cuts that tile short, and it fails (R207). -/
def cutShort (u i : Nat) (e : Entry) (s : State) : State :=
  match e, (getIn (getUnit s u) i).arr with
  | .beat _ (some _), some (h, bs) => failArriving u i h bs s
  | _, _ => s

/-- What a beat adds to the tile now arriving. -/
def arriveHdr (q : InStrand) (b : Beat) (h : Option Rec64) : InStrand :=
  match h, q.arr with
  | some h, _ => { q with arr := some (h, [b]), taken := 0 }
  | none, some (h, bs) => { q with arr := some (h, bs ++ [b]) }
  | none, none => q

/-- What a beat adds to a resent copy that is arriving at a strand with a hole (R210). -/
def resentBeat (q : InStrand) : Entry → Option (Rec64 × List Beat)
  | .beat b (some h) => if nbit (fld h 3 1) 2 && (hasHole q.queue || hasHole q.spilled) then some (h, [b]) else none
  | .beat b none => q.resent.map fun r => (r.1, r.2 ++ [b])
  | _ => none

/-- An entry that is no resent copy enters an input strand: its queue, or the spill area when it has no room or has
spilled (R122, R136). The spill area that runs out is a fault of the unit whose strand spills, at the instruction its
sequencer holds (R138 says only 'the unit'; DESIGN CHOICE, log entry 85). -/
def enter (u i : Nat) (e : Entry) (s : State) : State :=
  let x := getUnit s u
  let q := match e with
    | .beat b h => arriveHdr (getIn x i) b h
    | _ => getIn x i
  if q.spilled.isEmpty && q.laneRoom e.isBeat then
    checkArrived u i (setUnit u (setIn i { q with queue := q.queue ++ [e] } x) s)
  else
    match panelOf s u with
    | none => s
    | some p =>
      let before := spillInUse s p
      let s' := setUnit u (setIn i { q with spilled := q.spilled ++ [e] } x) s
      let now := spillInUse s' p
      if spillArea s p < now then mappingFault u 0x06 (4096 * before) (4096 * spillArea s p) s
      else
        let s' := modCast p (fun c => { c with spillUsed := now }) s'
        checkArrived u i (highWater (.spillHigh p) now (bump (.spills u i) 1 s'))

/-- An entry reaches an input strand. A halted unit discards it (R152); the copy of it that the sender keeps goes on
waiting for that destination, which never checks it (R152 and R210 do not say; DESIGN CHOICE, log entry 85). A resent
copy goes into the place that waits for it (R210). -/
def deliver (u i : Nat) (e : Entry) (s : State) : State :=
  if (getUnit s u).halted then s
  else
    let s := cutShort u i e s
    let x := getUnit s u
    let q := getIn x i
    match resentBeat q e with
    | some r =>
      if r.2.length < hdrBeats r.1 then setUnit u (setIn i { q with resent := some r } x) s else fillHole u i r.1 r.2 s
    | none => enter u i e s

/-- An entry leaves on a link strand channel: a tile header in a side slot, a beat in a beat slot, a marker in a side
slot (R385). -/
def sendLink (p ch : Nat) (e : Entry) (s : State) : State :=
  match e with
  | .beat b (some h) => sendSlot p ch 1 b (sendSlot p ch 2 (recOf 2048 [(0, 64, h.toNat), (0x40, 1, 1)]) s)
  | .beat b none => sendSlot p ch 1 b s
  | .marker m => sendSlot p ch 2 (recOf 2048 [(0x41, 1, 1), (0x42, 2, m.toNat)]) s
  | _ => s

/-- Deliver an entry to one destination of a route. -/
def sendTo (e : Entry) (d : Dest) (s : State) : State :=
  match d with
  | .strand u i => deliver u i e s
  | .link p ch => sendLink p ch e s

/-- The resend store keeps each tile an output strand sends; one that no destination waits for any more gives way
(R210). -/
def keepTile (o : OutStrand) (e : Entry) : OutStrand :=
  match e with
  | .beat b (some h) =>
    let live := o.kept.filter fun t => !t.waiting.isEmpty
    let l := if 32 ≤ o.kept.length then live else o.kept
    { o with kept := l ++ [{ hdr := h, beats := [b], waiting := o.dests }] }
  | .beat b none =>
    match o.kept.getLast? with
    | some t => if t.beats.length < hdrBeats t.hdr then
        { o with kept := o.kept.dropLast ++ [{ t with beats := t.beats ++ [b] }] } else o
    | none => o
  | _ => o

/-- Put an entry on an output strand: it enters every destination (R123). -/
def putOut (u o : Nat) (e : Entry) (s : State) : State :=
  let x := getUnit s u
  let q := getOut x o
  (q.dests).foldl (fun s d => sendTo e d s) (setUnit u (setOut o (keepTile q e) x) s)

/-- The output strands of a mask. -/
def outList (m : BitVec 8) : List Nat := maskBits 8 m.toNat

/-- The link channels among the destinations of a mask of output strands. -/
def outLinks (s : State) (u : Nat) (m : BitVec 8) : List (Nat × Nat) :=
  (outList m).flatMap fun o => (getOut (getUnit s u) o).dests.filterMap fun d =>
    match d with
    | .link p ch => some (p, ch)
    | .strand _ _ => none

/-- Every output strand of a mask has room, and the replay buffer of each port has room for all that go by it. -/
def outsRoom (s : State) (u : Nat) (m : BitVec 8) (e : Entry) : Bool :=
  let links := outLinks s u m
  (outList m).all (fun o => outRoom s u o e)
    && links.all fun l => replayRoom (getPort s l.1) (linkSlots e * (links.filter (·.1 == l.1)).length)

/-- The stall cause of a mask without room. -/
def outsCause (s : State) (u : Nat) (m : BitVec 8) (e : Entry) : Nat :=
  if (outList m).any fun o => !outRoom s u o e && outCause s u o e = 10 then 10 else 1

/-- An entry is held for want of room: the stall cause, and a credit-wait cycle of each channel without credit (R145,
R399). -/
def stallOuts (u : Nat) (m : BitVec 8) (e : Entry) (s : State) : Fired :=
  let waits := (outLinks s u m).filter fun l =>
    let c := tgetD (getPort s l.1).send l.2 {}
    c.open_ && c.credits < linkSlots e
  (waits.foldl (fun s l => bump (.creditWait l.1) 1 s) s, [outsCause s u m e])

/-- Put an entry on every output strand of a mask. -/
def putOuts (u : Nat) (m : BitVec 8) (e : Entry) (s : State) : State :=
  (outList m).foldl (fun s o => putOut u o e s) s

/-! ## Taking entries -/

/-- What is at the head of an input strand: nothing, an entry still in the spill area, a beat, or a marker. -/
inductive Head where
  | empty
  | spilled
  | beat (b : Beat) (h : Option Rec64)
  | marker (m : BitVec 16)
deriving DecidableEq, Repr, Inhabited

/-- The head of an input strand (R122, R137); a tile that is to be resent keeps its place and is waited for (R210). -/
def headOf (q : InStrand) : Head :=
  match q.queue with
  | .beat b h :: _ => .beat b h
  | .marker m :: _ => .marker m
  | .hole _ _ :: _ => .empty
  | .refill h (b :: _) :: _ => .beat b h
  | .refill _ [] :: _ => .empty
  | [] => if q.spilled.isEmpty then .empty else .spilled

/-- The stall cause of a missing entry (R145). -/
def headCause (q : InStrand) : Nat := match headOf q with | .spilled => 5 | _ => 0

/-- A port can take one more slot of a transmit channel, on which no resent tile waits (R210, R388, R389). -/
def slotRoom (s : State) (p ch : Nat) : Bool :=
  let x := getPort s p
  slotsRoom x ch 1 && !x.resendq.any (·.1 == ch)

/-- Deliver what a receive channel holds, as far as its destination has room: a beat with the header that waits for it,
the markers of a side slot in order (R385, R389); a through-route sends each slot onward unchanged (R390). -/
def pumpRecv (p ch : Nat) : (fuel : Nat) → State → State
  | 0, s => s
  | k + 1, s =>
    match tget (getPort s p).recv ch with
    | none => s
    | some c =>
      match c.slots, c.dest with
      | [], _ => s
      | (ty, b) :: _, .link q ch2 =>
        if slotRoom s q ch2 then pumpRecv p ch k (sendSlot q ch2 ty b (freeRecvSlot p ch id s)) else s
      | (ty, b) :: _, .strand u i =>
        if ty = 1 then
          let e := Entry.beat b c.hdr
          if destRoom s e (.strand u i) then
            pumpRecv p ch k (deliver u i e (freeRecvSlot p ch (fun c => { c with hdr := none }) s))
          else s
        else if c.done < fld b 0x41 1 then
          let e := Entry.marker (BitVec.ofNat 16 (fld b (0x42 + 2 * c.done) 2))
          if destRoom s e (.strand u i) then
            pumpRecv p ch k (deliver u i e (modRecv p ch (fun c => { c with done := c.done + 1 }) s))
          else s
        else
          let h := if nbit (fld b 0x40 1) 0 then some (BitVec.ofNat 512 (fld b 0 64)) else c.hdr
          pumpRecv p ch k (freeRecvSlot p ch (fun c => { c with hdr := h }) s)

/-- Enough steps to empty a receive channel: at most 33 for each slot. -/
def pumpFuel (s : State) (p ch : Nat) : Nat :=
  34 * ((tget (getPort s p).recv ch).map (·.slots.length)).getD 0

/-- Through-routes into the transmit channels of a port that a test names go on (R390). -/
def pumpRoutes (p : Nat) (test : Nat → Bool) (s : State) : State :=
  s.links.ports.foldl (fun s q =>
    (q.2.recv.filter fun r =>
      match r.2.dest with
      | .link p' ch => p' = p && test ch
      | .strand _ _ => false).foldl (fun s r => pumpRecv q.1 r.1 (pumpFuel s q.1 r.1) s) s) s

/-- Entries of tiles to be sent again go in order, each once its channel has room for all its slots; one that has none
holds those of its own channel only (R210, R388, R389). -/
def drainResends (p : Nat) (s : State) : State :=
  let step : List Nat × State → Nat × Entry → List Nat × State := fun r e =>
    let x := getPort r.2 p
    if !r.1.contains e.1 && slotsRoom x e.1 (linkSlots e.2) then
      (r.1, sendLink p e.1 e.2 (setPort p { x with resendq := x.resendq.erase e } r.2))
    else (e.1 :: r.1, r.2)
  ((getPort s p).resendq.foldl step ([], s)).2

/-- An input strand without its head entry; of a resent copy one beat goes. A beat of the tile now arriving is remembered
as taken (R207). -/
def InStrand.pop (q : InStrand) : InStrand :=
  match q.queue with
  | [] => q
  | .refill _ (_ :: b :: t) :: es => { q with queue := .refill none (b :: t) :: es }
  | .refill _ _ :: es => { q with queue := es }
  | e :: t =>
    let left := q.beats + (q.spilled.filter (·.isBeat)).length
    let ofArr := e.isBeat && (match q.arr with
      | some (_, bs) => left ≤ bs.length - q.taken
      | none => false)
    { q with queue := t, taken := if ofArr then q.taken + 1 else q.taken }

/-- Take the head entry of an input strand, and let a link channel that feeds it deliver what the room allows. -/
def takeHead (u i : Nat) (s : State) : State :=
  let s := modUnit u (fun x => setIn i (getIn x i).pop x) s
  match (getIn (getUnit s u) i).fromLink with
  | some (p, ch) => pumpRecv p ch (pumpFuel s p ch) s
  | none => s

/-- Reserved marker types (R126). -/
def markerReserved (m : BitVec 16) : Bool := let t := m.toNat / 4096; t = 0 || 9 ≤ t

/-- Broadcast markers: stop, flush, barrier, version (R126). -/
def markerBroadcast (m : BitVec 16) : Bool := let t := m.toNat / 4096; 5 ≤ t && t ≤ 8

/-- Place a marker on an input strand from the device itself (R278, R292). -/
def deviceMarker (u i : Nat) (m : BitVec 16) (s : State) : State := deliver u i (.marker m) s

/-! ## Semaphores -/

/-- A semaphore count of a unit. -/
def semOf (x : KUnit) (n : Nat) : BitVec 8 := tgetD x.sems n 0

/-- A signal reaches a semaphore: one is added; above 255 it raises a mapping fault; signals to a halted unit are
dropped (R140, R152). -/
def signalArrive (u n : Nat) (s : State) : State :=
  let x := getUnit s u
  if x.halted then s
  else if (semOf x n).toNat = 255 then mappingFault u 0x0B n 255 s
  else setUnit u { x with sems := tset x.sems n (semOf x n + 1) } s

end Sys2Proof.Machine
end

