-- ==== Sys2Proof/Machine/Moves.lean ====
section
/-! DEFINITION. Moves (R191 to R202, R516): checking a descriptor, submitting, starting, the end update. -/
namespace Sys2Proof.Machine
open Sys2Proof

/-! ## Block peers (R16) -/

/-- The two parallel ports of a rack position to a direct block peer, none for a position that is none (R15, R16). -/
def peerPortsAt (me peer : Nat) : List Nat :=
  if me = 0xFF || peer / 16 != me / 16 || peer = me then []
  else
    let t := me / 4 % 4
    let p := me % 4
    let t' := peer / 4 % 4
    let p' := peer % 4
    if t = t' then let k := if p' < p then p' else p' - 1; [k, 6 + k]
    else if p = p' then let k := if t' < t then t' else t' - 1; [3 + k, 9 + k]
    else []

/-- The two parallel ports of this module to a direct block peer. -/
def peerPorts (s : State) (peer : Nat) : List Nat := peerPortsAt s.boot.rackPos.toNat peer

/-! ## The catalogue (R269) -/

/-- The catalogue entry of a key. -/
def catFind (s : State) (model wv : BitVec 32) : Option CatEntry :=
  s.catalogue.find? fun e => e.valid && e.model == model && e.wversion == wv

/-- The catalogue entry an area's bytes come from: that of the version it was copied from, or for a lazy extent the one its
entries refer to (R273, R279). -/
def areaEntry (s : State) (c : Cast) (x : AreaInst) : Option CatEntry := catFind s c.model x.wver

/-- Bytes of a deployed image from its 2 MiB pieces. -/
def pieceRead (s : State) (pieces : List Nat) (off n : Nat) : List Byte :=
  (hankPieces (n / hankBytes + 2) off n).flatMap fun p => rd s (lgetD pieces (p.1 / hankBytes) 0 + p.1 % hankBytes) p.2

/-- Bytes of an image as cast-on and lazy copies read them: from the staged copy if one exists, otherwise from the
catalogue (R273, R275). -/
def catRead (s : State) (e : CatEntry) (off n : Nat) : List Byte :=
  pieceRead s (if e.staged.isEmpty then e.pieces else e.staged) off n

/-- Reads of T3 pages raise the read counts of their blocks (R215). -/
def countT3Reads (a n : Nat) (s : State) : State :=
  if tierOf a = 3 then
    let hit (e : Nat × Nat) : Bool := pageLo a ≤ e.1 && e.1 < pageHi a n
    let inc (r : Tbl (BitVec 32)) (e : Nat × Nat) : Tbl (BitVec 32) :=
      if hit e then tset r e.2 (BitVec.ofNat 32 (satAdd 32 (tgetD r e.2 0).toNat 1)) else r
    modT3 (stackOf a) (fun t => { t with reads := t.place.foldl inc t.reads }) s
  else s

/-- The pieces of an image's staged copy under a range of its bytes. -/
def stagedUnder (e : CatEntry) (off n : Nat) : List Nat :=
  ((hankPieces (n / hankBytes + 2) off n).map fun p => lgetD e.staged (p.1 / hankBytes) 0).eraseDups

/-- The return moves of the pieces of a staged copy under a range that lie in T3 (R202); none when all can be read. -/
def returnStaged (e : CatEntry) (off n : Nat) (s : State) : Option State :=
  if e.staged.isEmpty then none
  else
    match (stagedUnder e off n).filter fun a => tierOf a == 3 with
    | [] => none
    | l => some (l.foldl (fun s a => submitReturn 0xFF stageArea a a true s) s)

/-- Of a number of pages read from a stack's T3 some were corrected by LDPC: how many the spec leaves open, a free value
(R221; log entry 3). -/
def countCorrected (st pages : Nat) (s : State) : State :=
  if pages = 0 then s else let (v, s) := freeNat s; bump (.t3Corrected st) (v % (pages + 1)) s

/-- The reads of an image's bytes by `catRead` for a panel: of the staged copy through the read cache, of the catalogue copy
in T3 (R186, R215, R221). -/
def catCount (p : Nat) (e : CatEntry) (off n : Nat) (s : State) : State :=
  (hankPieces (n / hankBytes + 2) off n).foldl (fun s q =>
    let a := lgetD (if e.staged.isEmpty then e.pieces else e.staged) (q.1 / hankBytes) 0 + q.1 % hankBytes
    if tierOf a = 3 then countCorrected (stackOf a) (pageHi a q.2 - pageLo a) (countT3Reads a q.2 s)
    else cacheLooks (some p) a q.2 (touch a q.2 s)) s

/-- A copy from T3 that failed: of its pages a free number, at least one, could not be corrected (R221; log entry 3). -/
def catFailed (e : CatEntry) (s : State) : State :=
  if e.staged.isEmpty then
    let (v, s) := freeNat s
    bump (.t3Uncorrectable (stackOf (e.pieces.headD 0))) (1 + v % (max 1 (e.length / 4096))) s
  else s

/-! ## Sources of a page (R208 step 3) -/

/-- A source of an image's bytes: 2 MiB pieces of a staged or a catalogue copy, or the pages a block neighbour delivered, by
their number in the image. -/
inductive Source where
  | pieces (l : List Nat)
  | neighbour (pages : List (Nat × List Byte))
deriving DecidableEq, Repr

/-- Bytes of an image of which some pages are given. -/
def patched (pages : List (Nat × List Byte)) (own : Nat → Nat → List Byte) (off n : Nat) : List Byte :=
  (upto (off / 4096) (cdiv (off % 4096 + n) 4096)).flatMap fun k =>
    let a := max off (4096 * k)
    let m := min (off + n) (4096 * (k + 1)) - a
    match pages.find? (·.1 == k) with
    | some q => (q.2.drop (a % 4096)).take m
    | none => own a m

/-- Where a page of T1, T2 or T3 lies in an image: the entry, the offset, the segments of the pattern, the offset in the
image of each of its extents, and the sources of the page, in order (R208). -/
structure ImageAt where
  entry : CatEntry
  off : Nat
  segs : List SegDecl
  offs : List (Nat × Nat)
  sources : List Source
deriving Repr

/-- Bytes of a source's copy. Those that a neighbour did not deliver are taken from the catalogue copy (log entry 88). -/
def Source.bytes (s : State) (x : ImageAt) (off n : Nat) : Source → List Byte
  | .pieces l => pieceRead s l off n
  | .neighbour ps => patched ps (pieceRead s x.entry.pieces) off n

/-- A source's copy of a range can be read; `bad` names T3 pages that cannot be corrected. -/
def Source.readable (s : State) (bad : List Nat) (off n : Nat) : Source → Bool
  | .pieces l => (upto (off / 4096) (cdiv (off % 4096 + n) 4096)).all fun k =>
      let a := lgetD l (k / 512) 0 + 4096 * (k % 512)
      homeAll s a 4096 && !bad.contains (a / 4096) && (tierOf a != 3 || t3Readable s (stackOf a))
  | .neighbour _ => true

/-- The reads of a source's pages raise the read counts of their blocks (R215). -/
def Source.count (off n : Nat) : Source → State → State
  | .pieces l, s => (hankPieces (n / hankBytes + 2) off n).foldl (fun s p =>
      countT3Reads (lgetD l (p.1 / hankBytes) 0 + p.1 % hankBytes) p.2 s) s
  | .neighbour _, s => s

/-- The tiles over bytes `[off, off + n)` of an image pass in a source's own copy (R207, R208). -/
def Source.passes (s : State) (x : ImageAt) (off n : Nat) (src : Source) : Bool :=
  x.segs.all fun sg =>
    match sg.tile, x.offs.find? (·.1 == sg.area) with
    | some t, some o =>
      match x.offs.find? (·.1 == t.hdrArea) with
      | none => true
      | some q =>
        (List.range (sg.len / (256 * t.tb))).all fun i =>
          let a := o.2 + sg.off + 256 * t.tb * i
          let ha := q.2 + t.hdrOff + 64 * i
          ((off + n ≤ a || a + 256 * t.tb ≤ off) && (off + n ≤ ha || ha + 64 ≤ off)) ||
            (let h : Rec64 := BitVec.ofNat 512 (natOf (src.bytes s x ha 64))
             tilePasses h (src.bytes s x a (256 * t.tb)) && hdrBeats h == t.tb)
    | _, _ => true

/-- The staged copy and the catalogue copy of an image (R208). -/
def copiesOf (e : CatEntry) : List Source := (if e.staged.isEmpty then [] else [.pieces e.staged]) ++ [.pieces e.pieces]

/-- The extent of a panel's image that holds an address of T1, T2 or T3. -/
def extentOf (s : State) (c : Cast) (addr : Nat) : Option ImageAt :=
  c.areas.findSome? fun a =>
    if a.2.readOnly then
      (a.2.locs.zipIdx.findSome? fun l =>
        let at_ (b : Nat) : Option Nat := if b ≤ addr && addr < b + hankBytes then some (l.2 * hankBytes + (addr - b)) else none
        match l.1 with
        | .addr b => at_ b
        | .absent b => at_ b
        | _ => none).bind fun off => (areaEntry s c a.2).map fun e =>
          { entry := e, off := a.2.imgOff + off, segs := c.img.pat.units.flatMap (·.segs)
            offs := (c.areas.filter fun y => y.2.readOnly && y.2.wver == a.2.wver).map fun y => (y.1, y.2.imgOff)
            sources := copiesOf e }
    else none

/-- The extent of some panel's image that holds an address. -/
def extentAt (s : State) (addr : Nat) : Option ImageAt := s.panels.findSome? fun p => p.2.cast.bind fun c => extentOf s c addr

/-- The copy in the catalogue that holds an address: a piece in T3, whose source is the staged copy, or a piece of a staged
copy, whose source is the catalogue copy. -/
def copyAt (s : State) (addr : Nat) : Option ImageAt :=
  s.catalogue.findSome? fun e =>
    let find (l : List Nat) : Option Nat := l.zipIdx.findSome? fun q =>
      if q.1 ≤ addr && addr < q.1 + hankBytes then some (q.2 * hankBytes + (addr - q.1)) else none
    let at_ (off : Nat) (src : List Source) : ImageAt :=
      { entry := e, off := off, segs := e.img.pat.units.flatMap (·.segs), offs := (extents e.img).map fun x => (x.id, x.off)
        sources := src }
    ((find e.pieces).map fun o => at_ o (if e.staged.isEmpty then [] else [.pieces e.staged])).or
      ((find e.staged).map fun o => at_ o [.pieces e.pieces])

/-- The image that an address belongs to. -/
def imageAt (s : State) (addr : Nat) : Option ImageAt := (extentAt s addr).or (copyAt s addr)

/-- The sources of bytes `[off, off + n)` of an image are tried one after another (R208 step 3): each counts one re-move, also
one that is passed over because its own copy fails or cannot be read (log entry 88); of the others the bytes are used, and
the first use that gives what was asked for ends it. -/
def trySources (st : Nat) (x : ImageAt) (off n : Nat) (bad : List Nat) (use : Source → State → State) (good : State → Bool) :
    List Source → State → Bool × State
  | [], s => (false, s)
  | src :: t, s =>
    let s := src.count off n (bump (.reMoves st) 1 s)
    if !(src.readable s bad off n && src.passes s x off n) then trySources st x off n bad use good t s
    else
      let s := use src s
      if good s then (true, s) else trySources st x off n bad use good t s

/-! ## Tracked references (R195) -/

/-- 2 MiB bases that some tracked reference names: areas, pool tables, summaries, token lists, mirrors, staged copies. -/
def trackedBases (s : State) : List Nat :=
  let ofCast (c : Cast) : List Nat :=
    c.areas.flatMap (fun a => a.2.locs.filterMap fun l =>
      match l with
      | .addr b => some b
      | .absent b => some b
      | _ => none) ++ c.poolHanks.map (·.2)
  (s.panels.flatMap fun p => ((p.2.cast.map ofCast).getD []))
    ++ (s.slots.flatMap fun x => ([x.2.summary, x.2.tokenList].filter (· != 0)))
    ++ (s.ply.mirror.flatMap fun m =>
        ([m.2.tokenList, m.2.summary].filter (· != 0)) ++ m.2.pages.map fun p => p.2.2.2 / hankBytes * hankBytes)
    ++ s.catalogue.flatMap (·.staged)

/-- A base after the move of `[src, src + len)` to `dst`. -/
def rebase (src len dst b : Nat) : Nat := if src ≤ b && b < src + len then b - src + dst else b

/-- A place after a move: a hank in T3 is absent, elsewhere it has an address (R195). -/
def rebaseLoc (src len dst : Nat) : Loc → Loc
  | .addr b => let n := rebase src len dst b; if tierOf n = 3 then .absent n else .addr n
  | .absent b => let n := rebase src len dst b; if tierOf n = 3 then .absent n else .addr n
  | l => l

/-- Rewrite every tracked reference to a moved hank (R194 step 4, R195). The pool table in memory follows. -/
def rewriteRefs (src len dst : Nat) (s : State) : State :=
  let f := rebase src len dst
  let s := s.panels.foldl (fun s p =>
    match p.2.cast with
    | some c =>
      c.poolHanks.foldl (fun s e => if f e.2 = e.2 then s else wr (c.dirBase + 16384 * 256 + 8 * e.1) (bytesOf 8 (f e.2)) s) s
    | none => s) s
  { s with
    panels := tmap s.panels fun _ p =>
      { p with cast := p.cast.map fun c =>
          { c with
            areas := tmap c.areas fun _ a => { a with locs := a.locs.map (rebaseLoc src len dst) }
            poolHanks := tmap c.poolHanks fun _ b => f b } }
    catalogue := s.catalogue.map fun e => { e with staged := e.staged.map f }
    units := tmap s.units fun _ u =>
      { u with retained := u.retained.map fun r => (f r.1, r.2), recover := u.recover.map f }
    slots := tmap s.slots fun _ x => { x with summary := if x.summary = 0 then 0 else f x.summary }
    ply := { s.ply with mirror := tmap s.ply.mirror fun _ m =>
      { m with summary := (if m.summary = 0 then 0 else f m.summary)
               pages := m.pages.map fun p => (p.1, p.2.1, p.2.2.1, f p.2.2.2) } } }

/-- A staged copy with a lost piece is given up: its other pieces are freed (R211, R269). -/
def loseStaged (a n : Nat) (s : State) : State :=
  let hit (e : CatEntry) : Bool := e.staged.any fun b => max a b < min (a + n) (b + hankBytes)
  let gone := (s.catalogue.filter hit).flatMap (·.staged)
  if gone.isEmpty then s
  else gone.foldl (fun s b => freeAt b s)
    { s with catalogue := s.catalogue.map fun e => if hit e then { e with staged := [] } else e }

/-- Bytes of a summary extent: its header and as many bytes as it states (R310). -/
def summaryLen (s : State) (a : Nat) : Nat := min hankBytes (64 + rdNat s (a + 0x10) 4)

/-- The pages of a panel's pool that a range touches (R225, R226). -/
def poolPagesIn (c : Cast) (a n : Nat) : List Nat :=
  c.poolHanks.flatMap fun e => (upto (32 * e.1) 32).filter fun pg =>
    let b := e.2 + (pg % 32) * 0x10000
    max a b < min (a + n) (b + 0x10000)

/-- A mirror's references into a lost range are given up: its pages there, and its summary, whose hank is freed (R211). -/
def loseMirrors (a n : Nat) (s : State) : State :=
  let hit (s : State) (b : Nat) : Bool := b != 0 && max a b < min (a + n) (b + summaryLen s b)
  let gone := (s.ply.mirror.filter fun m => hit s m.2.summary).map (·.2.summary)
  gone.foldl (fun s b => freeAt b s) { s with ply := { s.ply with mirror := tmap s.ply.mirror fun _ m =>
    { m with summary := if hit s m.summary then 0 else m.summary
             pages := m.pages.filter fun p => !(max a p.2.2.2 < min (a + n) (p.2.2.2 + 0x10000)) } } }

/-- References into a lost range are marked lost; its pages are homeless (R211). -/
def loseRange (a n : Nat) (s : State) : State :=
  let s := loseMirrors a n (loseStaged a n s)
  let lost : Loc → Loc
    | .addr b => if max a b < min (a + n) (b + hankBytes) then .lost else .addr b
    | .absent b => if max a b < min (a + n) (b + hankBytes) then .lost else .absent b
    | l => l
  let slots := tmap s.slots fun _ x =>
    if x.summary != 0 && max a x.summary < min (a + n) (x.summary + summaryLen s x.summary) then { x with sumLost := true } else x
  let s := makeHomeless a n
    { s with
      slots := slots
      panels := tmap s.panels fun _ p =>
        { p with cast := p.cast.map fun c =>
            { c with areas := tmap c.areas fun _ x => { x with locs := x.locs.map lost }
                     lostPages := (poolPagesIn c a n).foldl insNat c.lostPages } } }
  if tierOf a = 3 then releaseT3 a n s else syncHanks a n none s

/-! ## Move descriptors (R191, R192) -/

def mvVersion (d : Rec64) : Nat := fld d 0 1
def mvKind (d : Rec64) : Nat := fld d 1 1
def mvFlags (d : Rec64) : Nat := fld d 2 2
def mvAlloc (d : Rec64) : Bool := nbit (mvFlags d) 0
def mvPin (d : Rec64) : Bool := nbit (mvFlags d) 1
def mvTag (d : Rec64) : Nat := fld d 4 2
def mvPanel (d : Rec64) : Nat := fld d 6 1
def mvDtier (d : Rec64) : Nat := fld d 7 1
def mvSrc (d : Rec64) : Nat := fld d 8 8
def mvDst (d : Rec64) : Nat := fld d 0x10 8
def mvLen (d : Rec64) : Nat := fld d 0x18 8
def mvPeer (d : Rec64) : Nat := fld d 0x20 1

/-- The owner a descriptor's PANEL names (R191). -/
def domainOwner (p : Nat) : Option Nat := if p = 0xFF then none else some p

/-- Fields of a descriptor by themselves are legal (R192). -/
def moveFieldsOk (s : State) (d : Rec64) : Bool :=
  recOk d && mvVersion d == 1 && 1 ≤ mvKind d && mvKind d ≤ 4 && mvFlags d < 4 && fld d 0x21 27 == 0
    && (mvPanel d == 0xFF || (getPanel s (mvPanel d)).isSome)
    && (if mvAlloc d then 1 ≤ mvDtier d && mvDtier d ≤ 3 && mvDst d == 0 && mvKind d != 3 else mvDtier d == 0)
    && mvSrc d % 4096 == 0 && mvDst d % 4096 == 0 && mvLen d % 4096 == 0 && mvLen d != 0

/-- The ranges lie in tiers their kind allows (R181, R191, R192). -/
def moveTiersOk (d : Rec64) : Bool :=
  let st := tierRange (mvSrc d) (mvLen d)
  let dt := if mvAlloc d then mvDtier d else tierRange (mvDst d) (mvLen d)
  (match mvKind d with
    | 2 => st == 4 && 1 ≤ dt && dt ≤ 3
    | 3 => 1 ≤ st && st ≤ 3 && dt == 4
    | _ => 1 ≤ st && st ≤ 3 && 1 ≤ dt && dt ≤ 3)
    && !(mvPin d && (dt == 3 || dt == 4))

/-- The source of a MOVE or EXPORT: home, not pinned, whole tracked hanks with an aligned destination (R192). -/
def moveSrcOk (s : State) (d : Rec64) : Bool :=
  let src := mvSrc d
  let len := mvLen d
  if mvKind d = 2 || mvKind d = 4 then true
  else
    homeAll s src len
      && (mvKind d == 3
        || ((tierOf src == 3 || (hanksOf src len).all fun k => pinsOf s k == 0)
          && (trackedBases s).all fun b =>
              (b + hankBytes ≤ src || src + len ≤ b) ||
                (src ≤ b && b + hankBytes ≤ src + len && (mvAlloc d || mvDst d % hankBytes == 0))))

/-- A move record that keeps catalogue space for a DEPLOY (R269). -/
def MoveRec.forDeploy (m : MoveRec) : Bool :=
  match m.by_ with
  | .deploy _ => true
  | _ => false

/-- The destination without ALLOC: homeless, not reserved as catalogue space (R269), in groups the domain owns (R192). -/
def moveDstOk (s : State) (d : Rec64) : Bool :=
  let dst := mvDst d
  let len := mvLen d
  if mvAlloc d || mvKind d = 3 then true
  else
    !homeAny s dst len
      && !(s.moves.any fun m => m.forDeploy && overlap (m.dst, m.len) (dst, len))
      && (tierOf dst != 2 || (hanksOf dst len).all fun k => groupOwner s (hankGroup k) == domainOwner (mvPanel d))
      && (!mvPin d || (hanksOf dst len).all fun k => hostPins s k < 254)

/-- A MOVE's ranges do not overlap (R192). -/
def moveApart (d : Rec64) : Bool :=
  mvKind d != 1 || mvAlloc d || mvSrc d + mvLen d ≤ mvDst d || mvDst d + mvLen d ≤ mvSrc d

/-- The whole of R192. -/
def moveOk (s : State) (d : Rec64) : Bool :=
  moveFieldsOk s d && moveTiersOk d && moveSrcOk s d && moveDstOk s d && moveApart d
    && (mvKind d != 4 || !(peerPorts s (mvPeer d)).isEmpty)

/-! ## Choosing ranges (R516) -/

/-- The lowest run of `n` numbers of `[cand, hi)` that are no key of a rising list. -/
def runIn : List Nat → (cand hi n : Nat) → Option Nat
  | [], cand, hi, n => if cand + n ≤ hi then some cand else none
  | k :: t, cand, hi, n =>
    if k < cand then runIn t cand hi n
    else if cand + n ≤ min k hi then some cand
    else if hi ≤ k then none
    else runIn t (k + 1) hi n

/-- The lowest run of `n` hanks an owner may take that avoids the given rising keys. -/
def freeRun (s : State) (tier : Nat) (o : Option Nat) (avoid : List Nat) (n : Nat) : Option Nat :=
  (joinRanges (takeRanges s tier o)).findSome? fun r => runIn avoid r.1 r.2 n

/-- Take a run of hanks. -/
def takeRun (k n : Nat) (o : Option Nat) (s : State) : State := (upto k n).foldl (fun s k => takeHank k o false s) s

/-- Keys of hanks that no run may hold: pinned or in transit (R516). -/
def stuckHanks (s : State) : List Nat :=
  (s.hanks.filter fun kh => pinsOf s kh.1 != 0 || kh.2.transit).map (·.1)

/-- The oldest allocated hank of a run, ties to the lowest index. -/
def runVictim (s : State) (run : List Nat) : Option Nat :=
  (run.foldl (fun (b : Option (Nat × Nat)) i =>
    let a := ((tget s.hanks i).map (·.age.toNat)).getD 0
    match b with
    | none => some (i, a)
    | some (j, c) => if c < a then some (i, a) else some (j, c)) none).map (·.1)

/-- One turn of taking a run of several hanks: a free run, else the eviction of the oldest hank of the lowest run without
a pinned or moving hank, one at a time; with no such run NONE for a pinned taker, else a wait (R516). -/
def allocRun (who : Taker) (tier n : Nat) (o : Option Nat) (pin : Bool) (s : State) : AllocRes × State :=
  match freeRun s tier o (s.hanks.map (·.1)) n with
  | some k => (.got (hankAddr k), takeRun k n o (dropAlloc who s))
  | none =>
    if evicting s who then (.wait, s)
    else
      match (freeRun s tier o (stuckHanks s) n).bind fun k => runVictim s ((upto k n).filter fun i => (tget s.hanks i).isSome) with
      | some i => evictFor who i s
      | none => if pin then (.none_, dropAlloc who s) else (.wait, countWait who 0 s)

/-- The stack whose T3 holds a range of `n` hanks for a move (R516): that of its source, or the lowest writable one. -/
def t3Range (s : State) (n : Nat) (srcStack : Option Nat) : Option Nat :=
  let sts := match srcStack with
    | some st => [st]
    | none => [0, 1, 2, 3]
  sts.findSome? fun st => if t3Writable s st then t3Free s st n else none

/-- One attempt to take `n` hanks in a tier, in T3 a free range (R200, R201, R516). -/
def allocHanks (who : Taker) (tier n : Nat) (o : Option Nat) (pin : Bool) (srcStack : Option Nat) (s : State) :
    AllocRes × State :=
  if tier = 3 then
    match t3Range s n srcStack with
    | some a => (.got a, s)
    | none => (.wait, s)
  else if n = 1 then
    match allocTry who tier o pin s with
    | (.got k, s) => (.got (hankAddr k), modHank k (fun h => { h with dev := 0 }) s)
    | r => r
  else allocRun who tier n o pin s

/-- Choose and take the destination of a move with ALLOC (R200, R516): its base, NONE, or a wait. -/
def allocRange (who : Taker) (tier len : Nat) (o : Option Nat) (pin : Bool) (srcStack : Option Nat) (s : State) :
    AllocRes × State :=
  allocHanks who tier (cdiv len hankBytes) o pin srcStack s

/-! ## Submitting and starting (R193, R194) -/

/-- The engine that runs a move: the stack of the destination, for EXPORT of the source (R193). A move with ALLOC waits at
its source's engine, or engine 0, until its destination is chosen. -/
def moveEngine (d : Rec64) : Nat :=
  if mvKind d = 3 then stackOf (mvSrc d)
  else if mvAlloc d then (if mvKind d = 1 then stackOf (mvSrc d) else 0)
  else stackOf (mvDst d)

/-- Queue a checked move. -/
def submitMove (d : Rec64) (by_ : Submitter) (s : State) : State :=
  { s with
    nextId := s.nextId + 1
    moves := s.moves ++
      [{ id := s.nextId, stack := moveEngine d, kind := mvKind d, alloc := mvAlloc d, pin := mvPin d,
         tag := BitVec.ofNat 16 (mvTag d), panel := mvPanel d, dtier := mvDtier d, src := mvSrc d, dst := mvDst d,
         len := mvLen d, peer := mvPeer d, by_ := by_, pool := false, placed := !mvAlloc d }] }

/-- The ranges of device memory and of the host aperture that a move reads and writes: a peer's bytes are another module's,
and a destination not yet chosen is none (R193). -/
def MoveRec.ranges (m : MoveRec) : List (Nat × Nat) :=
  (if m.kind = 4 then [] else [(m.src, m.len)]) ++ (if m.placed then [(m.dst, m.len)] else [])

/-- Two moves touch a common byte. -/
def movesOverlap (a b : MoveRec) : Bool := a.ranges.any fun x => b.ranges.any (overlap x)

/-- A stack's translation layer has failed (R219). -/
def t3Failed (s : State) (st : Nat) : Bool := (getStack s st).t3.st.toNat == 5

/-- The source stack of a MOVE, which an allocation in T3 stays on (R516). -/
def moveSrcStack (m : MoveRec) : Option Nat := if m.kind = 1 then some (stackOf m.src) else none

/-- The T3 states let a move run now (R217, R219): reads need a readable stack, writes a writable one; an allocation in
T3 needs a stack that holds a range. -/
def moveT3Ready (s : State) (m : MoveRec) : Bool :=
  (m.kind == 4 || tierOf m.src != 3 || t3Readable s (stackOf m.src) || t3Failed s (stackOf m.src))
    && (if !m.placed then
          m.dtier != 3 || (moveSrcStack m).any (t3Failed s) || (t3Range s (cdiv m.len hankBytes) (moveSrcStack m)).isSome
        else tierOf m.dst != 3 || t3Writable s (stackOf m.dst) || t3Failed s (stackOf m.dst))

/-- Moves ahead of a move: pool moves first, then arrival order (R193). -/
def moveOrder (s : State) : List MoveRec := s.moves.filter (·.pool) ++ s.moves.filter (!·.pool)

/-- Fewer than 16 moves run on an engine (R193). -/
def engineFree (s : State) (st : Nat) : Bool := (s.moves.filter fun x => x.running && x.stack == st).length < 16

/-- A queued move may start: fewer than 16 run on its engine, no earlier move overlaps it, T3 is ready (R193, R219). -/
def moveReady (s : State) (m : MoveRec) : Bool :=
  !m.running && !m.forDeploy && engineFree s m.stack
    && (s.moves.all fun x => !(x.id < m.id || x.running) || x.id == m.id || !movesOverlap x m)
    && moveT3Ready s m

/-- The next move an engine starts: the first that is ready; one whose allocation waits gives way to the others. -/
def nextMove (s : State) (st : Nat) : Option MoveRec :=
  let l := (moveOrder s).filter fun m => m.stack == st && moveReady s m
  (l.find? (!·.held)).or l.head?

def setMove (m : MoveRec) (s : State) : State :=
  { s with moves := s.moves.map fun x => if x.id = m.id then m else x }
def dropMove (id : Nat) (s : State) : State := { s with moves := s.moves.filter (·.id != id) }

/-- Mark the source hanks of a move in transit, or no longer (R194). -/
def markTransit (m : MoveRec) (on : Bool) (s : State) : State :=
  if tierOf m.src = 1 || tierOf m.src = 2 then
    (hanksOf m.src m.len).foldl (fun s k => modHank k (fun h => { h with transit := on }) s) s
  else s

/-- A tag of a unit is complete (R197). -/
def untag (u : Nat) (t : BitVec 16) (s : State) : State := modUnit u (fun x => { x with moveTags := x.moveTags.erase t }) s

/-- Writes of engines to a move's source are held no longer; those held, with the panel and its requests. -/
def heldOn (m : MoveRec) (s : State) : List (Nat × Nat × List Nat) :=
  s.panels.flatMap fun p => ((p.2.cast.map (·.heldAt)).getD []).filterMap fun h =>
    if m.src ≤ h.1 && h.1 < m.src + m.len then some (p.1, h) else none
def dropHeld (m : MoveRec) (s : State) : State :=
  { s with panels := tmap s.panels fun _ p =>
      { p with cast := p.cast.map fun c =>
          { c with heldAt := c.heldAt.filter fun h => !(m.src ≤ h.1 && h.1 < m.src + m.len) } } }

/-- A move ends with a status (R196): its submitter learns it. -/
def endMove (m : MoveRec) (status result : Nat) (s : State) : State :=
  let s := dropHeld m (markTransit m false (dropMove m.id (dropAlloc (.move m.id) s)))
  match m.by_ with
  | .admin c => adminDone c status result s
  | .unit u =>
    if status = stBad then mappingFault u 0x0C m.src 0 (untag u m.tag s) else untag u m.tag s
  | .evict k => if status = stDone then bump (.evictions (hankStack k)) 1 s else s
  | .ret _ _ _ => if status = stDone then bump (.returns (stackOf m.src)) 1 s else s
  | .deploy _ => s

/-- What a move was given in its destination tier is free again. -/
def freeDest (m : MoveRec) (s : State) : State :=
  if m.alloc && m.placed && (tierOf m.dst = 1 || tierOf m.dst = 2) then
    (hanksOf m.dst m.len).foldl (fun s k => freeHank k s) s
  else s

/-- A move ends with DATA_LOST, and what it was given is freed (R196, R211). -/
def failMove (m : MoveRec) (s : State) : State :=
  endMove m stDataLost 0 (if m.filled = 0 then freeDest m s else releaseT3 m.dst m.len s)

/-- Pages of a move's source that cannot be read are lost (R211). -/
def loseMove (m : MoveRec) (s : State) : State :=
  failMove m (dataLost (stackOf m.src) (m.bad.foldl (fun s p => loseRange (4096 * p) 4096 s) s))

/-- The move of an admin command that a host-interface reset has cut off from host memory (R322). -/
def moveCut (s : State) (m : MoveRec) : Bool :=
  match m.by_ with
  | .admin c => s.admin.any fun a => a.id == c && a.discard
  | _ => false

/-- FETCH_REQs of a transfer: at most 64 MiB each, the two ports alternately, 16 outstanding per peer (R394). -/
def fetchPieces (key off len : Nat) (ports : List Nat) (mv cmd : Option Nat) (target : Bool) (step : Nat) :
    (fuel : Nat) → (n : Nat) → List Fetch
  | 0, _ => []
  | k + 1, n =>
    if len ≤ n * step then []
    else { tag := BitVec.ofNat 16 n, port := lgetD ports (n % ports.length) 0, key := BitVec.ofNat 64 key,
           off := off + n * step, len := min step (len - n * step), mv := mv, cmd := cmd, target := target }
      :: fetchPieces key off len ports mv cmd target step k (n + 1)

/-- The request message of a fetch (R393, R394, R396). -/
def fetchMsg (f : Fetch) : Rec64 := serviceHdr (if f.target then 4 else 1) 0 f.tag.toNat f.key.toNat f.off f.len

/-- A request may be outstanding: 16 for each peer, whose two ports differ by 6; 8 on each storage port (R394, R396). -/
def fetchRoom (s : State) (f : Fetch) : Bool :=
  let out := s.links.fetches.filter (·.sent)
  if f.target then (out.filter fun g => g.target && g.port == f.port).length < 8
  else (out.filter fun g => !g.target && g.port % 6 == f.port % 6).length < 16

/-- Send the first request that may be outstanding and is not, with a fresh tag. -/
def sendNextFetch (s : State) : State :=
  match s.links.fetches.find? fun f => !f.sent && fetchRoom s f with
  | none => s
  | some f =>
    let g := { f with tag := s.links.nextTag, sent := true }
    sendService g.port (fetchMsg g) []
      { s with links := { s.links with
          nextTag := s.links.nextTag + 1
          fetches := s.links.fetches.map fun x => if x = f then g else x } }

/-- Send every request that may be outstanding. -/
def pumpFetches (s : State) : State := s.links.fetches.foldl (fun s _ => sendNextFetch s) s

/-- Queue fetch requests and send those that may be outstanding (R394). -/
def sendFetches (fs : List Fetch) (s : State) : State :=
  pumpFetches { s with links := { s.links with fetches := s.links.fetches ++ fs } }

/-- Step 2: the source is in transit, or its bytes are asked for (R194, R394). -/
def runMoveRec (m : MoveRec) (s : State) : State :=
  let s := markTransit m true (setMove m s)
  let ps := (peerPorts s m.peer).filter fun p => (getPort s p).st == .up
  if m.kind != 4 then s
  else if ps.isEmpty then failMove m s
  else sendFetches (fetchPieces 0 m.src m.len ps (some m.id) none false 0x4000000 (cdiv m.len 0x4000000) 0) s

/-- The queue of a stack's move engine is full: 1,024 moves wait (R193). The records of catalogue space are none. -/
def moveQueueFull (s : State) (st : Nat) : Bool :=
  1024 ≤ (s.moves.filter fun m => m.stack == st && !m.running && !m.forDeploy).length

/-- A range allocated for a move is its destination (R193, R194, R203): a move with FLAGS[1] that would take the host part of
a hank above 254 ends with BAD_DESCRIPTOR, one whose engine runs 16 moves waits there, or where it is while that engine's
queue is full; `s0` is the state without the allocation. -/
def placeMove (m : MoveRec) (a : Nat) (bad : List Nat) (s0 s : State) : State :=
  let full := !engineFree s (stackOf a)
  if m.pin && (hanksOf a m.len).any (fun k => 254 ≤ hostPins s0 k) then endMove m stBad 0 s0
  else if full && moveQueueFull s0 (stackOf a) then setMove { m with held := true } s0
  else
    let m := { m with dst := a, placed := true, stack := stackOf a, held := false, bad := bad }
    if full then setMove m s else runMoveRec { m with running := true } s

/-- Start a move: step 1 allocates, step 2 puts the source in transit (R194). -/
def startMove (m : MoveRec) (badPages : List Nat) (s : State) : State :=
  let bad := badPages.filter fun p => m.src ≤ 4096 * p && 4096 * p < m.src + m.len && tierOf m.src == 3 && m.kind != 4
  if m.kind != 4 && tierOf m.src == 3 && t3Failed s (stackOf m.src) then loseMove { m with bad := upto (pageLo m.src) (m.len / 4096) } s
  else if (if !m.placed then m.dtier == 3 && (moveSrcStack m).any (t3Failed s)
           else tierOf m.dst == 3 && t3Failed s (stackOf m.dst)) then failMove m s
  else if m.kind != 2 && m.kind != 4 && !(if m.pool then homeAny s m.src m.len else homeAll s m.src m.len) then
    endMove m stBad 0 (freeDest m s)
  else if !m.placed then
    match allocRange (.move m.id) m.dtier m.len (domainOwner m.panel) m.pin (moveSrcStack m) s with
    | (.got a, s') => placeMove m a bad s s'
    | (.none_, s) => endMove m stBad 0 s
    | (.wait, s) => setMove { m with held := true } s
  else runMoveRec { m with running := true, bad := if m.bad.isEmpty then bad else m.bad } s

/-! ## The end update (R194) -/

/-- 4 KiB pages of the 64 MiB write buffer, each with its 4-byte map entry (R212, R213; log entry 80). -/
def bufferPagesMax : Nat := 0x4000000 / 4100

/-- 4 KiB pages of a T3 range enter the stack's write buffer (R213). -/
def bufferPages (a n : Nat) (s : State) : State :=
  modT3 (stackOf a) (fun t => { t with buffer := t.buffer ++ upto (pageLo a) (pageHi a n - pageLo a) }) s

/-- The write buffer has room for a range (R213). -/
def bufferRoom (s : State) (a n : Nat) : Bool :=
  (getStack s (stackOf a)).t3.buffer.length + (pageHi a n - pageLo a) ≤ bufferPagesMax

/-- As much of a move's data as the write buffer has room for enters it (R213): the move, and whether all has. -/
def fillBuffer (m : MoveRec) (s : State) : MoveRec × Bool × State :=
  let all := m.len / 4096
  let k := min (all - m.filled) (bufferPagesMax - (getStack s (stackOf m.dst)).t3.buffer.length)
  let m' := { m with filled := m.filled + k }
  (m', m'.filled == all, setMove m' (if k = 0 then s else bufferPages (m.dst + 4096 * m.filled) (4096 * k) s))

/-- Copy bytes of a transfer: from a peer they are the bytes fetched; to the host they are posted writes (R320, R322). -/
def copyMove (m : MoveRec) (s : State) : State :=
  if m.kind = 3 then (if moveCut s m then s else hostWrite (m.dst - hostBase) (rd s m.src m.len) s)
  else if m.kind = 4 then putCells m.got (clearRange m.dst m.len s)
  else copyRange m.src m.dst m.len s

/-- The bytes of the last hank beyond LENGTH hold unspecified values: free (R516; log entry 3). -/
def fillTail (dst len span : Nat) (s : State) : State :=
  if span ≤ len then s else let (v, s) := freeNat s; wr (dst + len) (bytesOf (span - len) v) s

/-- The destination pages of a move become home; of a hank that the pool moves, those whose source page holds a datum
(R189, R194). -/
def destHome (m : MoveRec) (span : Nat) (s : State) : State :=
  let s' := makeHome m.dst span s
  if m.pool then
    (upto (pageLo m.src) (m.len / 4096)).foldl (fun t p =>
      if rangeAny s.home p (p + 1) then t else makeHomeless (m.dst + (4096 * p - m.src)) 4096 t) s'
  else s'

/-- The requests whose work is in a panel's stages: those of its step in flight and of its runs. -/
def workSlots (s : State) (p : Nat) : List Nat :=
  match getCast s p with
  | none => []
  | some c =>
    ((c.step.map fun st => (st.2.filter (!·.removed)).map (·.slot)).getD [] ++ c.runs.filterMap id).eraseDups

/-- Step 5: engines' writes held for a move's source are answered no-home, and the requests they acted for end with
BAD_DESCRIPTOR (R190, R194). -/
def answerHeld (m : MoveRec) (s : State) : State :=
  (heldOn m s).foldl (fun s h =>
    (h.2.2.filter fun i => (getSlot s i).any fun x => x.panel == h.1 && (x.st == .prefill || x.st == .decode)).foldl
      (fun s i => endSlot i stBad s) (bump (.noHome (stackOf h.2.1)) 1 s)) s

/-- The end update and the completion of a move (R194 to R196). -/
def finishMove (m : MoveRec) (s : State) : State :=
  let o := domainOwner m.panel
  let s := copyMove m (if m.kind = 4 then s else cacheLooks o m.src m.len (countT3Reads m.src m.len s))
  if m.kind = 3 then endMove m stDone m.dst s
  else
    let span := if m.alloc then cdiv m.len hankBytes * hankBytes else m.len
    let s := fillTail m.dst m.len span (destHome m span s)
    let s := if tierOf m.dst = 3 then s else syncHanks m.dst span o s
    let s := if m.pin then (hanksOf m.dst m.len).foldl (fun s k => setHostPins k (min 254 (hostPins s k + 1)) s) s else s
    let s :=
      if m.kind = 1 then
        let s := rewriteRefs m.src m.len m.dst s
        let s := cacheDrop (fun _ c => m.src ≤ 256 * c.line && 256 * c.line < m.src + m.len) s
        let s := makeHomeless m.src m.len (clearRange m.src m.len s)
        answerHeld m (if tierOf m.src = 3 then releaseT3 m.src m.len s else syncHanks m.src m.len none s)
      else s
    endMove m stDone m.dst s

/-- A page in T3 is written again: it goes to a new place by way of the write buffer (R213). -/
def rewriteT3 (a : Nat) (l : List Byte) (s : State) : State := wr a l (bufferPages a 4096 (releaseT3 a 4096 s))

/-- What the recovery of a T3 page waits for: room for the page in the write buffer (R213), or the return of a piece of the
staged copy from T3 (R202). -/
def recoveryWaits (page : Nat) (s : State) : Option State :=
  if !bufferRoom s (4096 * page) 4096 then some s
  else
    match imageAt s (4096 * page) with
    | some x => if x.sources.contains (.pieces x.entry.staged) then returnStaged x.entry x.off 4096 s else none
    | none => none

/-- A T3 page that LDPC cannot correct takes step 3 of R208: whether some source's copy passes and is written in its
place. -/
def recoverPage (page : Nat) (bad : List Nat) (peer : Option (List Byte)) (s : State) : Bool × State :=
  match imageAt s (4096 * page) with
  | none => (false, s)
  | some x =>
    trySources (stackOf (4096 * page)) x x.off 4096 bad
      (fun src s => rewriteT3 (4096 * page) ((src.bytes s x x.off 4096).take 4096) s) (fun _ => true)
      (x.sources ++ (peer.map fun l => Source.neighbour [(x.off / 4096, l)]).toList) s

/-- Blocks of a stack: eight channels of 65,536 (R212). -/
def t3Blocks : Nat := 524288

/-- The state of a stack's T3 by its spare blocks: 2 MOUNTED, 3 DEGRADED, 4 READ_ONLY (R217). -/
def t3ByWear (spare : Nat) : Nat := if 400 * spare < t3Blocks then 4 else if 100 * spare < t3Blocks then 3 else 2

/-- Retire a block (R217). -/
def retireBlock (st key : Nat) (s : State) : State :=
  let t := (getStack s st).t3
  if t.retired.contains key then s
  else
    let spare := t.spare - 1
    let s := bump (.retiredBlocks st) 1 (modT3 st (fun t => { t with retired := insNat t.retired key, spare := spare }) s)
    if t3Readable s st then setT3State st (t3ByWear spare) s else s

/-- A page that cannot be corrected is counted, and its block retired (R217, R221). -/
def pageBad (page : Nat) (s : State) : State :=
  let st := stackOf (4096 * page)
  let key := tget (getStack s st).t3.place page
  let s := bump (.t3Uncorrectable st) 1 s
  match key with
  | some k => retireBlock st k s
  | none => s

/-- The unreadable pages of a move are recovered one by one, up to one whose recovery waits: those left, those that were
lost, and the state (R196, R208). `bad` are all of the move's pages that cannot be corrected. -/
def recoverPages (peers : List (Nat × List Byte)) (bad : List Nat) :
    List Nat → (lost : List Nat) → State → List Nat × List Nat × State
  | [], lost, s => ([], lost, s)
  | p :: t, lost, s =>
    match recoveryWaits p s with
    | some s => (p :: t, lost, s)
    | none =>
      match recoverPage p bad ((peers.find? (·.1 == p)).map (·.2)) (pageBad p s) with
      | (true, s) => recoverPages peers bad t lost s
      | (false, s) => recoverPages peers bad t (lost ++ [p]) s

/-- The end update once every source page can be read: a move into T3 waits until all of it is in the write buffer
(R213). -/
def endReadable (m : MoveRec) (s : State) : State :=
  if tierOf m.dst = 3 && m.kind != 3 then
    match fillBuffer m s with
    | (m, true, s) => finishMove m s
    | (_, false, s) => s
  else finishMove m s

/-- The end update of a running move: a transfer from a peer waits for its last data; unreadable source pages take the
recovery of R208, and lose the move when that fails (R194, R196, R211, R319). `corrected` pages were corrected by LDPC in
the read (R221). -/
def endUpdate (m : MoveRec) (corrected : Nat) (peers : List (Nat × List Byte)) (s : State) : State :=
  if m.kind = 4 && s.links.fetches.any (fun f => f.mv == some m.id) then s
  else if m.kind = 2 && !moveCut s m && !hostLive s then s
  else if m.kind = 2 && (moveCut s m || hostBad s (m.src - hostBase) m.len) then
    failMove m (readFailed (if moveCut s m then none else (readReqs s (m.src - hostBase) m.len).findSome? (reqFail s)) s)
  else
    let s := if tierOf m.src = 3 && m.kind != 4 && !m.read then
        bump (.t3Corrected (stackOf m.src)) (min corrected (m.len / 4096)) s else s
    match recoverPages peers m.bad m.bad m.lost s with
    | ([], [], s) => endReadable { m with bad := [], read := true } s
    | ([], lost, s) => loseMove { m with bad := lost } s
    | (left, lost, s) => setMove { m with bad := left, lost := lost, read := true } s

/-! ## Moves of units (R197) -/

/-- A unit's move names only addresses in the T2 and T3 extents of its own panel (R197): no transfer from or to the host
or a peer does. -/
def unitMoveRangeOk (s : State) (p : Nat) (d : Rec64) : Bool :=
  match getCast s p with
  | none => false
  | some c =>
    let mine := c.areas.flatMap fun a => if a.2.tier2 then a.2.locs.filterMap (fun l =>
      match l with
      | .addr b => some b
      | .absent b => some b
      | _ => none) else []
    let inside (a n : Nat) : Bool := (upto (a / hankBytes) (cdiv (a % hankBytes + n) hankBytes)).all fun h =>
      mine.contains (h * hankBytes)
    mvKind d == 1 && inside (mvSrc d) (mvLen d) && (mvAlloc d || inside (mvDst d) (mvLen d))

/-- A unit stores a move descriptor into a move queue beat (R197): a move R192 rejects raises a mapping fault. -/
def unitMove (u : Nat) (d : Rec64) (s : State) : State :=
  match panelOf s u with
  | none => s
  | some p =>
    if moveOk s d && unitMoveRangeOk s p d then
      modUnit u (fun x => { x with moveTags := x.moveTags ++ [BitVec.ofNat 16 (mvTag d)] }) (submitMove d (.unit u) s)
    else mappingFault u 0x0C (mvSrc d) 0 s

/-- The four 64-byte slots of a queue beat; a slot whose first byte is zero is empty (R191, R229). -/
def beatSlots (b : Beat) : List Rec64 :=
  ((List.range 4).map fun i => BitVec.ofNat 512 (fld b (64 * i) 64)).filter fun r => fld r 0 1 != 0

end Sys2Proof.Machine
end

