-- ==== Sys2Proof/Machine/Access.lean ====
section
/-! DEFINITION. Accesses of units to T1 and T2 through their segment entries (R115, R190, R195, R202, R273), the stores
the slice controllers pass on (R165, R174, R197, R229), and the recovery of a failing tile (R208). -/
namespace Sys2Proof.Machine
open Sys2Proof

/-! ## Lazy extents (R273) -/

/-- Take `n` T2 hanks for a panel, all or none. -/
def takeT2 (who : Taker) (p : Nat) : (n : Nat) → List Nat → State → Option (List Nat) × State
  | 0, got, s => (some got, s)
  | n + 1, got, s =>
    match allocTry who 2 (some p) false s with
    | (.got k, s) => takeT2 who p n (got ++ [k]) s
    | (_, s) => (none, got.foldl (fun s k => freeHank k s) s)

/-- The first access to a lazy extent: T2 is allocated, the extent copied, its entries rewritten; the stack's return
counter and lazy-copy counter rise (R273, R281). A staged copy in T3 is returned first (R202). -/
def lazyCopy (p id : Nat) (s : State) : State :=
  match getCast s p with
  | none => s
  | some c =>
    match tget c.areas id, (tget c.areas id).bind (areaEntry s c) with
    | some x, some e =>
      match returnStaged e x.imgOff x.len s with
      | some s => s
      | none =>
      match takeT2 (.lazy p id) p x.locs.length [] s with
      | (none, s) => s
      | (some ks, s) =>
        let locs := ks.map fun k => Loc.addr (hankAddr k)
        let c' := { c with areas := tset c.areas id { x with locs := locs } }
        let st := hankStack (ks.headD 768)
        areaWrite c' id 0 (catRead s e x.imgOff x.len)
          (catCount p e x.imgOff x.len <| bump (.lazyCopies st) 1 (bump (.returns st) 1 (modCast p (fun _ => c') s)))
    | _, _ => s

/-! ## Unit accesses -/

/-- What an access of a unit comes to: the device ranges it may use; a wait, with its stall causes; a lost tile, for
which the panel's requests end; or a fault it has raised. -/
inductive Access where
  | go (ps : List (Nat × Nat)) (s : State)
  | wait (f : Fired)
  | lost (s : State)
  | fault (s : State)
deriving Repr

/-- The device address of byte `off` of an area; past its hanks, counted on from its first byte (R141). -/
def areaAddrFrom (c : Cast) (id base off : Nat) : Nat := (areaAddr c id (base + off)).getD (areaAddrD c id base + off)

/-- The device address of the end of a segment, as the LIMIT of a fault (R141). -/
def segEnd (c : Cast) (sg : Seg) : Nat := areaAddrFrom c sg.area sg.off sg.len

/-- The area of a segment lies in T2. -/
def segTier2 (c : Cast) (sg : Seg) : Bool := ((tget c.areas sg.area).map (·.tier2)).getD false

/-- The fault resource of a segment: T1 0x04, T2 0x0C (R141). -/
def segRes (c : Cast) (sg : Seg) : Nat := if segTier2 c sg then 0x0C else 0x04

/-- The segment fault of an access at offset `off`: VALUE its device address, LIMIT the segment's end (R141). -/
def segFault (u pc : Nat) (c : Cast) (sg : Seg) (off : Nat) (s : State) : State :=
  mappingFaultAt u pc (segRes c sg) (areaAddrFrom c sg.area sg.off off) (segEnd c sg) s

/-- The fault of an access that names a segment entry with no segment: it has no device address, so VALUE and LIMIT are
free values (R141; log entry 3). -/
def noSegment (u pc : Nat) (s : State) : State :=
  let (v, s) := freeNat s
  let (l, s) := freeNat s
  mappingFaultAt u pc 0x04 (v % 2 ^ 52 : Nat) (l % 2 ^ 52) s

/-- The requests in a panel's stages end with a status. -/
def endWork (p status : Nat) (s : State) : State := (workSlots s p).foldl (fun s i => endSlot i status s) s

/-- The requests in a panel's stages end with DATA_LOST: a tile they needed is lost (R211; log entry 22). -/
def lostForPanel (p : Nat) (s : State) : State := endWork p stDataLost s

/-- Follow the places of a range; the first hank that has no address stops the access: a return move of the hank, the
copy of a lazy extent, or a lost tile, which a lazy extent whose version has been removed from the catalogue has too (R195,
R202, R211, R271, R273; log entry 91). -/
def followPieces (p : Nat) (c : Cast) (id : Nat) : List (Nat × Nat) → List (Nat × Nat) → State → Access
  | [], acc, s => .go acc s
  | (off, n) :: t, acc, s =>
    match (tget c.areas id).map fun x => (x, areaLoc x off) with
    | some (_, .addr a) => followPieces p c id t (acc ++ [(a + off % hankBytes, n)]) s
    | some (x, .absent t3) => .wait (submitReturn p id (off / hankBytes) t3 x.tier2 s, if x.tier2 then [6] else [])
    | some (x, .lazy) =>
      if (areaEntry s c x).isSome then .wait (lazyCopy p id s, [6]) else .lost (lostForPanel p s)
    | _ => .lost (lostForPanel p s)

/-- A range has a page that a running move takes away: writes of it are held (R194). -/
def inTransit (s : State) (a n : Nat) : Bool :=
  s.moves.any fun m => m.running && m.kind != 2 && m.kind != 4 && max m.src a < min (m.src + m.len) (a + n)

/-- The headers that an access of a tile segment touches with its payload: area, first byte, bytes (R204). -/
def hdrRange (sg : Seg) (off n : Nat) : Nat × Nat × Nat :=
  match sg.tile with
  | some t =>
    let i := off / (256 * t.tb)
    (t.hdrArea, t.hdrOff + 64 * i, 64 * (cdiv (off + n) (256 * t.tb) - i))
  | none => (sg.area, sg.off, 0)

/-- The places of a payload and then of its headers, followed together; how many of them are the payload's. -/
def followTile (p : Nat) (c : Cast) (sg : Seg) (off n : Nat) (s : State) : Nat × Access :=
  match followPieces p c sg.area (hankPieces 3 (sg.off + off) n) [] s with
  | .go ps s =>
    let h := hdrRange sg off n
    (ps.length, followPieces p c h.1 (hankPieces 3 h.2.1 h.2.2) ps s)
  | r => (0, r)

/-- The access of the instruction at `pc` to `[off, off + n)` of a segment with the headers of its tiles (R115, R204):
outside the segment it raises a mapping fault; a no-home answer is counted and the access reissued once (R190); a write
to a source in transit is held until the end update, then answered no-home once and reissued through the rewritten entry
(R194). The ranges it answers with are the payload's. -/
def unitAccess (u pc sgi off n : Nat) (write : Bool) (s : State) : Access :=
  let x := getUnit s u
  match panelOf s u, tget x.segs sgi with
  | some p, some sg =>
    match getCast s p with
    | none => .wait (s, [])
    | some c =>
      let t2wait := if segTier2 c sg then [6] else []
      if sg.len < off + n then .fault (segFault u pc c sg off s)
      else
        match followTile p c sg off n s with
        | (k, .go ps s) =>
          let free (s : State) : State := modUnit u (fun x => { x with heldAt := x.heldAt.filter (·.1 != pc) }) s
          match x.heldAt.find? (·.1 == pc) with
          | some (_, a) =>
            if ps.any (fun r => inTransit s r.1 r.2) then .wait (s, t2wait)
            else if ps.any (fun r => r.1 = a) then
              -- the move of the source was given up: the write is performed
              .go (ps.take k) (free (ps.foldl (fun s r => touch r.1 r.2 s) s))
            else .wait (bump (.noHome (stackOf a)) 1 (free s), t2wait)
          | none =>
            match ps.find? fun r => !homeAll s r.1 r.2 with
            | some r =>
              let s := bump (.noHome (stackOf r.1)) 1 s
              if x.lastNoHome = some r.1 then .fault (mappingFaultAt u pc (segRes c sg) r.1 (segEnd c sg) s)
              else .wait (modUnit u (fun x => { x with lastNoHome := some r.1 }) s, t2wait)
            | none =>
              match (if write then ps.find? fun r => inTransit s r.1 r.2 else none) with
              | some r => .wait (modUnit u (fun x => { x with heldAt := x.heldAt ++ [(pc, r.1)] }) s, t2wait)
              | none =>
                let s := modUnit u (fun x => { x with lastNoHome := none }) s
                .go (ps.take k) (ps.foldl (fun s r => touch r.1 r.2 (if write then s else cacheReads p r.1 r.2 s)) s)
        | (_, r) => r
  | some _, none => .fault (noSegment u pc s)
  | none, _ => .wait (s, [])

/-! ## Accesses of engines -/

/-- An engine that acts for a panel's requests met an address with no datum: it is counted, and those requests end with
BAD_DESCRIPTOR (R190). -/
def noHomeFor (p a : Nat) (s : State) : State := endWork p stBad (bump (.noHome (stackOf a)) 1 s)

/-- Follow the ranges of several areas of a panel: area, first byte, bytes. -/
def followAreas (p : Nat) (c : Cast) : List (Nat × Nat × Nat) → List (Nat × Nat) → State → Access
  | [], acc, s => .go acc s
  | (id, off, n) :: t, acc, s =>
    match followPieces p c id (hankPieces (n / hankBytes + 2) off n) acc s with
    | .go acc s => followAreas p c t acc s
    | r => r

/-- An engine's write is held while its range is the source of a running move, for requests (R194). -/
def holdWrite (p a : Nat) (slots : List Nat) (s : State) : State :=
  modCast p (fun c => if c.heldAt.any (·.1 == a) then c else { c with heldAt := c.heldAt ++ [(a, slots)] }) s

/-- What an engine's access to device ranges comes to: no datum there (R190), a write that is held while its range is
the source of a running move (R194), or the ranges with their ages cleared (R199), read through the read cache (R186). -/
def engineRanges (p : Nat) (ps : List (Nat × Nat)) (write : Bool) (s : State) : Access :=
  match ps.find? fun r => !homeAll s r.1 r.2 with
  | some r => .fault (noHomeFor p r.1 s)
  | none =>
    match (if write then ps.find? fun r => inTransit s r.1 r.2 else none) with
    | some r => .wait (holdWrite p r.1 (workSlots s p) s, [])
    | none => .go ps (ps.foldl (fun s r => touch r.1 r.2 (if write then s else cacheLooks (some p) r.1 r.2 s)) s)

/-- What an engine's access to ranges of a panel's areas comes to: a hank in T3 is returned first (R202). -/
def engineAccess (p : Nat) (c : Cast) (rs : List (Nat × Nat × Nat)) (write : Bool) (s : State) : Access :=
  match followAreas p c rs [] s with
  | .go ps s => engineRanges p ps write s
  | r => r

/-- What reads of some areas and writes of others by an engine come to. -/
def areasAccess (p : Nat) (reads writes : List (Nat × Nat × Nat)) (s : State) : Access :=
  match getCast s p with
  | none => .fault s
  | some c =>
    match engineAccess p c reads false s with
    | .go _ s => engineAccess p c writes true s
    | r => r

/-- Reads of some areas and writes of others by an engine, then what it does with them; otherwise it waits, or its
requests have ended. -/
def withAreas (p : Nat) (reads writes : List (Nat × Nat × Nat)) (f : State → State) (s : State) : State :=
  match areasAccess p reads writes s with
  | .go _ s => f s
  | .wait r => r.1
  | .lost s => s
  | .fault s => s

/-- The number of a tile that the engines of a base die make for a panel: their count since CAST_ON, from 0 (R205). -/
def nextTile (p die : Nat) (s : State) : Nat × State :=
  let n := ((getCast s p).map fun c => tgetD c.dieSeq die 0).getD 0
  (n, modCast p (fun c => { c with dieSeq := tset c.dieSeq die (n + 1) }) s)

/-- Bytes of device ranges. -/
def readPieces (ps : List (Nat × Nat)) (s : State) : List Byte := ps.flatMap fun r => rd s r.1 r.2

/-- Write bytes over device ranges. -/
def writePieces (ps : List (Nat × Nat)) (l : List Byte) (s : State) : State :=
  (ps.foldl (fun (acc : List Byte × State) r => (acc.1.drop r.2, wr r.1 (acc.1.take r.2) acc.2)) (l, s)).2

/-! ## What the slice controllers pass on -/

/-- Apply a new epoch's count word (R170). -/
def startEpoch (key : Nat) (w : BitVec 64) (s : State) : State :=
  match tget s.lists key with
  | none => s
  | some l =>
    let l' : WorkList :=
      { l with
        next := 0, count := BitVec.ofNat 24 w.toNat, final := nbit w.toNat 31
        epoch := BitVec.ofNat 16 (w.toNat >>> 32), parked := none }
    wakeClaims key (bump (.epochs key) 1 { s with lists := tset s.lists key l' })

/-- A drained list takes its pending new-epoch store (R170). -/
def applyParked (key : Nat) (s : State) : State :=
  match tget s.lists key with
  | some l =>
    match l.parked with
    | some w => if l.drained then startEpoch key w s else s
    | none => s
  | none => s

/-- A store to a count beat reaches its list (R165, R170); a list that is drained takes its pending epoch first. -/
def countStore (key : Nat) (w : BitVec 64) (s : State) : State :=
  let s := applyParked key s
  match tget s.lists key with
  | none => s
  | some l =>
    let n := w.toNat
    let cnt := nbits n 0 24
    let fin := nbit n 31
    let rej := bump (.rejectedStores key) 1 s
    if nbits n 24 7 != 0 || n >>> 48 != 0 then rej
    else if nbits n 32 16 = l.epoch.toNat then
      if cnt < l.count.toNat || (l.final && !fin) then rej
      else wakeClaims key { s with lists := tset s.lists key { l with count := BitVec.ofNat 24 cnt, final := l.final || fin } }
    else if l.drained then startEpoch key w s
    else
      let s := if l.parked.isSome then rej else s
      { s with lists := tset s.lists key { l with parked := some w } }

/-- Slots of a reduction entry whose last beat a store covers for the first time. -/
def newlyStored (a n : Nat) (r : Reducer) : List Nat :=
  (r.slots.zipIdx.filter fun sl =>
    let last := sl.1 + 4 * r.elems - 256
    a ≤ last && last + 256 ≤ a + n && !r.stored.contains sl.2 && !r.ready.contains sl.2).map (·.2)

/-- A store whose range covers the last beat of a reducer slot (R174). -/
def slotStored (a n : Nat) (s : State) : State :=
  { s with reducers := tmap s.reducers fun _ r =>
      { r with stored := r.stored ++ newlyStored a n r } }

/-- The queue beats of a panel: kind, stack and device address. -/
def queueBeats (c : Cast) : List (QueueKind × Nat × Nat) :=
  c.img.pat.queues.filterMap fun q => (areaAddr c q.area q.off).map fun a => (q.kind, q.stack, a)

/-- What a performed store of a unit sets off: count beats, queue beats and reducer slots it covers (R165, R174, R197,
R229, R249). `l` is what was written at `a`. -/
def snoop (u a : Nat) (l : List Byte) (s : State) : State :=
  let n := l.length
  let s := slotStored a n s
  let s := s.lists.foldl (fun s kl =>
    if a ≤ kl.2.beat && kl.2.beat + 8 ≤ a + n then
      countStore kl.1 (BitVec.ofNat 64 (natOf ((l.drop (kl.2.beat - a)).take 8))) s else s) s
  match panelOf s u with
  | none => s
  | some p =>
    match getCast s p with
    | none => s
    | some c =>
      (queueBeats c).foldl (fun s q =>
        if a ≤ q.2.2 && q.2.2 + 256 ≤ a + n then
          let recs := beatSlots (beatOf ((l.drop (q.2.2 - a)).take 256))
          match q.1 with
          | .move => recs.foldl (fun s d => unitMove u d s) s
          | _ => { s with posted := s.posted ++ recs.map fun r => (p, q.2.1, r) }
        else s) s

/-- A unit's store, performed and passed on. -/
def unitStore (u : Nat) (ps : List (Nat × Nat)) (l : List Byte) (s : State) : State :=
  let s := writePieces ps l s
  (ps.foldl (fun (acc : List Byte × State) r => (acc.1.drop r.2, snoop u r.1 (acc.1.take r.2) acc.2)) (l, s)).2

/-! ## Tiles in segments (R204) and their recovery (R208, R209) -/

/-- Offset of the header of tile `i` of a tile segment in the header area. -/
def tileHdrOff (t : TileDecl) (i : Nat) : Nat := t.hdrOff + 64 * i

/-- The header of tile `i` of a tile segment, read from its area. -/
def tileHdrAt (s : State) (c : Cast) (t : TileDecl) (i : Nat) : Rec64 :=
  BitVec.ofNat 512 (natOf (areaRead s c t.hdrArea (tileHdrOff t i) 64))

/-- Write the header of tile `i` of a tile segment. -/
def putTileHdr (c : Cast) (t : TileDecl) (i : Nat) (h : Rec64) (s : State) : State :=
  areaWrite c t.hdrArea (tileHdrOff t i) (recBytes h) s

/-- What is checked and recovered as one (R207, R208): the tile of a tile segment, or a problem instruction. -/
structure TilePlace where
  area : Nat
  off : Nat
  len : Nat
  tile : Option (TileDecl × Nat)    -- the layout and the tile's number, none for a problem instruction
deriving DecidableEq, Repr

/-- Tile `i` of a tile segment. -/
def segTile (area off : Nat) (t : TileDecl) (i : Nat) : TilePlace :=
  { area := area, off := off + 256 * t.tb * i, len := 256 * t.tb, tile := some (t, i) }

/-- The tile `k` tiles on in the same segment. -/
def TilePlace.plus (x : TilePlace) (k : Nat) : TilePlace :=
  { x with off := x.off + x.len * k, tile := x.tile.map fun t => (t.1, t.2 + k) }

/-- The device address of what a place names; 0 when its hank has none. -/
def TilePlace.addr (c : Cast) (x : TilePlace) : Nat := areaAddrD c x.area x.off

/-- What lies at a place passes (R161, R207). -/
def TilePlace.ok (s : State) (c : Cast) (x : TilePlace) : Bool :=
  let l := areaRead s c x.area x.off x.len
  match x.tile with
  | some (t, i) => let h := tileHdrAt s c t i; tilePasses h l && hdrBeats h == t.tb
  | none => recOk (BitVec.ofNat 512 (natOf l))

/-- The ranges of a place: area, first byte, bytes; the payload and its header. -/
def TilePlace.ranges (x : TilePlace) : List (Nat × Nat × Nat) :=
  (x.area, x.off, x.len) :: (x.tile.map fun t => (t.1.hdrArea, tileHdrOff t.1 t.2, 64)).toList

/-- The device ranges of a payload, hank by hank. -/
def TilePlace.pieces (c : Cast) (x : TilePlace) : List (Nat × Nat) :=
  (hankPieces 3 x.off x.len).filterMap fun p => (areaAddr c x.area p.1).map fun a => (a, p.2)

/-- Put a tile in a unit's header file; the oldest of 64 entries is replaced (R204). -/
def hdrFilePut (addr : Nat) (h : Rec64) (x : KUnit) : KUnit :=
  let l := x.hdrFile.filter (·.addr != addr)
  { x with hdrFile := (if l.length < 64 then l else l.tail) ++ [{ addr := addr, hdr := h }] }

/-- The header-file entry whose payload is exactly a local range. -/
def hdrFileFind (x : KUnit) (addr beats : Nat) : Option Rec64 :=
  (x.hdrFile.find? fun e => e.addr == addr && hdrBeats e.hdr == beats).map (·.hdr)

/-- Remember that a tile is being recovered: its first failure counts one memory CRC failure, and it is read once more
(R208 step 1). The instruction waits. -/
def startRecover (u addr : Nat) (s : State) : Fired :=
  let x := getUnit s u
  (if x.recover = some addr then s
    else bump (.memCrc (stackOf addr)) 1 (setUnit u { x with recover := some addr } s),
   if tierOf addr = 2 then [6] else [])

/-- The unit that retains a tile, with its copy (R209). -/
def findRetained (s : State) (addr : Nat) : Option (Nat × Rec64 × List Byte) :=
  s.units.findSome? fun ux =>
    if ux.2.halted then none
    else (ux.2.retained.find? (·.1 == addr)).map fun r =>
      (ux.1, r.2.1, lsRead ux.2 r.2.2 (256 * hdrBeats r.2.1))

/-- The producer's copy is written over a tile: one re-request (R208 step 2, R209). -/
def rewriteTile (c : Cast) (x : TilePlace) (h : Rec64) (l : List Byte) (s : State) : State :=
  let s := bump (.reRequests (stackOf (x.addr c))) 1 s
  areaPut c x.area x.off (l.take x.len) (match x.tile with
    | some (t, i) => areaPut c t.hdrArea (tileHdrOff t i) (recBytes h) s
    | none => s)

/-- The pages of a tile that is lost are homeless, their references marked lost; the stack's data-lost counter rises
(R211). -/
def loseTile (c : Cast) (x : TilePlace) (s : State) : State :=
  dataLost (stackOf (x.addr c)) ((x.pieces c).foldl (fun s r => loseRange r.1 r.2 s) s)

/-- A tile that an engine reads: when it fails it is read once more and re-requested from a unit that retains it (R208
steps 1 and 2); whether it then passes. -/
def engineTile (c : Cast) (x : TilePlace) (s : State) : Bool × State :=
  if x.ok s c then (true, s)
  else
    let s := bump (.memCrc (stackOf (x.addr c))) 1 s
    match findRetained s (x.addr c) with
    | some r => let s := rewriteTile c x r.2.1 r.2.2 s; (x.ok s c, s)
    | none => (false, s)

/-- Tiles of writable memory that an engine reads: whether all pass. One that does not is lost (R208, R211). -/
def engineTiles (c : Cast) : List TilePlace → State → Bool × State
  | [], s => (true, s)
  | x :: t, s =>
    match engineTile c x s with
    | (true, s) => engineTiles c t s
    | (false, s) => (false, loseTile c x s)

/-- The pages of an extent under a range of it are written from a source's copy (R208 step 3). -/
def removePages (c : Cast) (x : ImageAt) (src : Source) (s : State) (r : Nat × Nat × Nat) : State :=
  match x.offs.find? (·.1 == r.1) with
  | none => s
  | some o =>
    let lo := r.2.1 / 4096 * 4096
    let n := cdiv (r.2.1 - lo + r.2.2) 4096 * 4096
    areaPut c r.1 lo (src.bytes s x (o.2 + lo) n) s

/-- Steps 2 and 3 of R208 for a tile: re-request from a producer that retains it, then re-move from each source of the
extent in turn, the last the pages a neighbour delivered (`peer`, by their number in the image); whether the bytes at the
place then pass. -/
def recoverBy (c : Cast) (x : TilePlace) (peer : List (Nat × List Byte)) (s : State) : Bool × State :=
  let first := match findRetained s (x.addr c) with
    | some r => let s := rewriteTile c x r.2.1 r.2.2 s; (x.ok s c, s)
    | none => (false, s)
  if first.1 then first
  else
    match extentOf s c (x.addr c) with
    | none => first
    | some y =>
      trySources (stackOf (x.addr c)) y y.off x.len [] (fun src s => x.ranges.foldl (removePages c y src) s)
        (fun s => x.ok s c) (y.sources ++ (if peer.isEmpty then [] else [.neighbour peer])) first.2

/-- The recovery of a tile waits for the return of pieces of its staged copy (R202). -/
def recoveryReturns (c : Cast) (x : TilePlace) (s : State) : Option State :=
  match extentOf s c (x.addr c) with
  | some y => returnStaged y.entry y.off x.len s
  | none => none

/-- Steps 2 to 4 of R208 for a tile of a unit; what cannot be recovered is lost, and the panel's requests in work end with
DATA_LOST (R211). -/
def recoverTile (u p : Nat) (c : Cast) (x : TilePlace) (peer : List (Nat × List Byte)) (s : State) : State :=
  let fin (s : State) : State := modUnit u (fun x => { x with recover := none }) s
  match recoveryReturns c x s with
  | some s => s
  | none =>
    match recoverBy c x peer s with
    | (true, s) => fin s
    | (false, s) => fin (lostForPanel p (loseTile c x s))

end Sys2Proof.Machine
end

