-- ==== Sys2Proof/Machine/Control.lean ====
section
/-! DEFINITION. The control engine: NOP to CSTEP (R107, R111, R114 to R121, R130, R140, R161 to R170), and the events
that complete its waits. -/
namespace Sys2Proof.Machine
open Sys2Proof

/-- What every meaning here ends in. -/
abbrev Result := Host.Outcome State Fault Refusal

/-! ## NOP, HALT, JUMP, LOOP, BRM -/

/-- HALT stops the sequencer for good; the engines finish what was issued (R111). -/
def haltStep (u : Nat) (s : State) : Fired := (modUnit u (fun x => { x with run := .ended }) s, [])

/-- LOOP (R120): step, jump if it did not wrap; a wrapped one falls through and may emit a loop-end marker through the
strand engine, whose queue holds four (R107). -/
def loopStep (u ctr target : Nat) (out : BitVec 8) (mark : Bool) (s : State) : Fired :=
  let x := getUnit s u
  let c := getCtr x ctr
  if mark && (stepTarget c).2 && c.overMode != 2 && 4 ≤ x.strandQ.length then (s, [])
  else
    let (wrapped, faulted, s) := doStep u ctr s
    if faulted then (s, [])
    else if !wrapped then (goTo u target s, [])
    else
      let s := if mark then
          modUnit u (fun x =>
            { x with strandQ := x.strandQ ++ [newOp x (.mark out (BitVec.ofNat 16 (0x1000 + ctr)))], issued := x.issued + 1 }) s
        else s
      (retire u s, [])

/-- A mapping fault with resource marker (R127, R130): the marker is its VALUE. -/
def markerFault (u : Nat) (m : BitVec 16) (s : State) : State := mappingFault u 0x0A m.toNat 0 s

/-- A mapping fault with resource marker where a beat stands and no marker gives the VALUE: a free value (log 3). -/
def beatFault (u : Nat) (s : State) : State := let (v, s) := freeNat s; mappingFault u 0x0A (v % 65536 : Nat) 0 s

/-- The one strand of a mask. -/
def maskOne (m : BitVec 8) : Nat := (maskBits 8 m.toNat).headD 0

/-- BRM (R130). -/
def brmStep (u i target type : Nat) (keep argm : Bool) (arg : Nat) (s : State) : Fired :=
  let q := getIn (getUnit s u) i
  match headOf q with
  | .marker m =>
    if markerReserved m then (markerFault u m s, [])
    else
      let take := m.toNat / 4096 = type && (!argm || m.toNat % 4096 = arg)
      let s := if keep then s else takeHead u i s
      (if take then goTo u target s else retire u s, [])
  | .beat _ _ => (beatFault u s, [])
  | _ => (s, [headCause q])

/-! ## Semaphores (R140, R148, R150) -/

/-- A wait on a link's empty semaphore has completed: after as many as the link has reading units, the retained copies
of the buffer that is written next are let go (R209). -/
def releaseRetained (sem : Nat) (x : KUnit) : KUnit :=
  x.segs.foldl (fun x sg =>
    match sg.2.tile.bind (fun t => t.retain.map fun r => (t, r)), tget x.retCount sg.1 with
    | some (t, area, depth, sm, waits), some (last, n) =>
      if sm != sem then x
      else if n + 1 < waits then { x with retCount := tset x.retCount sg.1 (last, n + 1) }
      else
        let slot := sg.2.len / max 1 depth
        let lo := area + (last + 1) % max 1 depth * slot
        { x with
          retained := x.retained.filter fun r => !(lo ≤ r.2.2 && r.2.2 < lo + max slot (256 * t.tb))
          retCount := tset x.retCount sg.1 (last, 0) }
    | _, _ => x) x

/-- SEM_WAIT. -/
def semWaitStep (u sem : Nat) (s : State) : Fired :=
  let x := getUnit s u
  if semOf x sem = 0 then (s, [3])
  else (retire u (setUnit u (releaseRetained sem { x with sems := tset x.sems sem (semOf x sem - 1) }) s), [])

/-- An access of T1 or T2 issued earlier and not performed holds a signal back (R150; log entry 11). -/
def devPending (x : KUnit) : Bool :=
  (queuedOps x).any fun o => !(devReads x o.op).isEmpty || !(devWrites x o.op).isEmpty

/-- A signal reaches the device's side of the panel's links (R148): its count of the link that SEM names rises; above 255
it is a mapping fault with resource semaphore (R140, R149). -/
def deviceSignal (u sem : Nat) (s : State) : State :=
  match panelOf s u with
  | none => s
  | some p =>
    match getCast s p with
    | none => s
    | some c =>
      let at_ (l : Option LinkDecl) (f : LinkDecl → Nat) : Nat := b2n (l.any fun d => f d == sem)
      let c' := { c with
        runEmpty := c.runEmpty + at_ c.img.pat.runLink (·.inSem), runFull := c.runFull + at_ c.img.pat.runLink (·.outSem),
        stepEmpty := c.stepEmpty + at_ c.img.pat.stepLink (·.inSem),
        stepFull := c.stepFull + at_ c.img.pat.stepLink (·.outSem) }
      if [c'.runEmpty, c'.runFull, c'.stepEmpty, c'.stepFull].any (255 < ·) then mappingFault u 0x0B sem 255 s
      else modCast p (fun _ => c') s

/-- SEM_SIGNAL: a signal to semaphore SEM of every unit the route of output strand ROUTE names. -/
def semSignalStep (u sem route : Nat) (s : State) : Fired :=
  let x := getUnit s u
  if devPending x then (s, [])
  else
    let refs := (getOut x route).dests.filterMap fun d =>
      match d with
      | .strand v _ => some { unit := v, sem := sem }
      | .link _ _ => none
    let s := sendSignals refs s
    (retire u (if (getOut x route).device then deviceSignal u sem s else s), [])

/-- SEMAPHORE_SIGNAL_ARRIVE: a signal on its way takes effect (R140). -/
def execSemaphoreSignalArrive (u : BitVec 9) (sem : BitVec 5) (s : State) : Result :=
  let r : SemRef := { unit := u.toNat, sem := sem.toNat }
  .next (if s.signals.contains r then signalArrive r.unit r.sem { s with signals := s.signals.erase r } else s)

/-! ## Barriers (R140, R154) -/

/-- A reserved-type marker at the head of a strand that a waiting BARRIER names in IN (R127). -/
def barrierMarker (x : KUnit) : Option (BitVec 16) :=
  match x.wait with
  | .barrier _ inp _ _ => (maskBits 8 inp.toNat).findSome? fun i =>
      match headOf (getIn x i) with
      | .marker m => if markerReserved m then some m else none
      | _ => none
  | _ => none

/-- The first unit of a panel whose BARRIER has reached a reserved-type marker, with the marker (R127). -/
def badBarrier (s : State) (p : Nat) : Option (Nat × BitVec 16) :=
  (barrierUnits s p).findSome? fun u => (barrierMarker (getUnit s u)).map fun m => (u, m)

/-- BARRIER: the unit waits. -/
def barrierStep (u id : Nat) (inp out : BitVec 8) (s : State) : Fired :=
  let s := modUnit u (fun x => { x with wait := .barrier id inp out false }) s
  match barrierMarker (getUnit s u), panelOf s u with
  | some m, _ => (markerFault u m s, [])
  | none, some p => (barrierClash p s, [4])
  | none, none => (s, [4])

/-- The marker a barrier consumes and emits (R140). -/
def barrierWord (id : Nat) : BitVec 16 := BitVec.ofNat 16 (0x7000 + id)

/-- The barrier that every unit has reached is complete at a unit: each strand it names in IN holds the barrier marker
at its head, each in OUT has marker room. -/
def barrierHere (s : State) (u : Nat) : Bool :=
  match (getUnit s u).wait with
  | .barrier id inp out true =>
    (maskBits 8 inp.toNat).all (fun i => headOf (getIn (getUnit s u) i) == .marker (barrierWord id))
      && outsRoom s u out (.marker (barrierWord id))
  | _ => false

/-- A swap barrier completes only when its layer has been copied (R279). -/
def swapHolds (s : State) (p id : Nat) : Bool :=
  match getPanel s p with
  | some x =>
    match x.cast with
    | some c =>
      x.st == .swapping &&
        (c.img.pat.swaps.zipIdx.any fun w => w.1.barrier == id && !c.swapped.contains w.2)
    | none => false
  | none => false

/-- Complete a barrier at one unit: its markers are consumed and emitted (R140). -/
def barrierFinish (u : Nat) (s : State) : State :=
  match (getUnit s u).wait with
  | .barrier id inp out _ =>
    let s := (maskBits 8 inp.toNat).foldl (fun s i => takeHead u i s) s
    let s := putOuts u out (.marker (barrierWord id)) s
    retire u (modUnit u (fun x => { x with wait := .none }) s)
  | _ => s

/-- The barrier that every unit of a panel has now reached. -/
def barrierReached (s : State) (p : Nat) : Option Nat :=
  match (barrierUnits s p).findSome? fun u => if (getUnit s u).halted then none else barrierId (getUnit s u) with
  | none => none
  | some id => if allArrived s p id && !swapHolds s p id then some id else none

/-- A unit's wait once every unit has reached its barrier. -/
def barrierMet (x : KUnit) : KUnit :=
  match x.wait with
  | .barrier id inp out false => { x with wait := .barrier id inp out true }
  | _ => x

/-- Every unit of a panel has reached a barrier: from now on each completes on its own strands (R140). -/
def meetBarrier (p : Nat) (s : State) : State :=
  match barrierReached s p with
  | some _ => (barrierUnits s p).foldl (fun s u => modUnit u barrierMet s) s
  | none => s

/-! ## Work lists (R164 to R170) -/

/-- A held index completes (R168). -/
def completeIdx (u key : Nat) (s : State) : State :=
  match tget s.lists key with
  | none => s
  | some l =>
    if (tget l.held u).isSome then wakeClaims key { s with lists := tset s.lists key { l with held := tdel l.held u } }
    else s

/-- A CLAIM or DONE_TILE that names an undeclared list (R164). -/
def noList (u : Nat) (s : State) : State := let (v, s) := freeNat s; mappingFault u 0x0E 0xFFFFFFFF v s

/-- A list a unit may name: declared by the panel that holds the unit. -/
def listOf (s : State) (u key : Nat) : Option WorkList :=
  match tget s.lists key with
  | some l => if panelOf s u == some l.panel then some l else none
  | none => none

/-- CLAIM: the claim reaches its work counter and the unit waits (R167). -/
def claimStep (u ctr key target : Nat) (s : State) : Fired :=
  if devPending (getUnit s u) then (s, [])
  else
    match listOf s u key with
    | none => (noList u s, [])
    | some _ =>
      let c := counterOf key
      let s := modUnit u (fun x => { x with wait := .claim key ctr target }) s
      ({ s with claims := tset s.claims c (tgetD s.claims c [] ++ [{ unit := u, list := key, due := true }]) }, [])

/-- DONE_TILE (R168). -/
def doneTileStep (u ctr key : Nat) (s : State) : Fired :=
  let x := getUnit s u
  if devPending x then (s, [])
  else
    match listOf s u key with
    | none => (noList u s, [])
    | some l =>
      let i := ctrVal x ctr
      (if tget l.held u = some i then retire u (completeIdx u key s) else mappingFault u 0x0E i l.count.toNat s, [])

/-- The answer of a claim reaches its unit: an index goes into the counter, EMPTY jumps (R140). -/
def claimAnswer (u : Nat) (idx : Option Nat) (s : State) : State :=
  match (getUnit s u).wait with
  | .claim _ ctr target =>
    let s := modUnit u (fun x => { x with wait := .none }) s
    match idx with
    | some i => retire u (modUnit u (fun x => setCtr ctr { getCtr x ctr with value := BitVec.ofNat 32 i } x) s)
    | none => goTo u target s
  | _ => s

/-- The algorithm of R166 for one claim: an index, EMPTY or WAIT. A drained list takes its pending epoch first (R170). -/
def serveClaim (c : Claim) (s : State) : Fired :=
  let k := c.list
  let s := applyParked k (completeIdx c.unit k s)
  let counter := counterOf k
  let rest := (tgetD s.claims counter []).filter (·.unit != c.unit)
  match tget s.lists k with
  | none => (s, [])
  | some l =>
    let give (i : Nat) (l : WorkList) : State :=
      claimAnswer c.unit (some i) (bump (.claimsServed k) 1
        { s with claims := tset s.claims counter rest, lists := tset s.lists k { l with held := tset l.held c.unit i } })
    match l.requeue with
    | i :: t => (give i { l with requeue := t }, [])
    | [] =>
      if l.next < l.count.toNat then (give l.next { l with next := l.next + 1 }, [])
      else if l.drained then (claimAnswer c.unit none { s with claims := tset s.claims counter rest }, [])
      else ({ s with claims := tset s.claims counter (rest ++ [{ c with due := false }]) }, [11])

/-- The pending claim of the lowest unit number at a counter (R167). -/
def nextClaim (s : State) (counter : Nat) : Option Claim :=
  ((tgetD s.claims counter []).filter (·.due)).foldl (fun b c =>
    match b with
    | none => some c
    | some d => if c.unit < d.unit then some c else some d) none

/-- COUNT_BEAT_STORE: a store to the count beat of a list, written and passed on (R165). -/
def execCountBeatStore (region : Bool) (idx : BitVec 6) (list : BitVec 4) (word : BitVec 64) (s : State) : Result :=
  let k := listKey region idx.toNat list.toNat
  .next (match tget s.lists k with
    | some l => countStore k word (wr l.beat (bytesOf 8 word.toNat) s)
    | none => s)

/-- EPOCH_APPLY: a drained list takes its pending new-epoch store (R170). -/
def execEpochApply (region : Bool) (idx : BitVec 6) (list : BitVec 4) (s : State) : Result :=
  .next (applyParked (listKey region idx.toNat list.toNat) s)

/-! ## PROB (R160 to R163) -/

def pbShape (r : Rec64) : Nat := fld r 0 1
def pbFlags (r : Rec64) : Nat := fld r 1 1
def pbM (r : Rec64) : Nat := fld r 2 2
def pbAfmt (r : Rec64) : Nat := fld r 4 1
def pbWfmt (r : Rec64) : Nat := fld r 5 1
def pbOfmt (r : Rec64) : Nat := fld r 6 1
def pbAct (r : Rec64) : Nat := fld r 7 1
def pbTensor (r : Rec64) : Nat := fld r 8 1
def pbCmask (r : Rec64) : Nat := fld r 9 1
def pbRows (r : Rec64) : Nat := fld r 0xA 2
def pbTopk (r : Rec64) : Nat := fld r 0xC 2

/-- The largest M of a shape (R64). -/
def shapeMaxM (sh : Nat) : Nat := match sh with | 3 => 128 | 5 => 64 | _ => 256

/-- The shapes a cell mode allows (R64, R65). -/
def shapeMode (sh : Nat) : Option Nat := match sh with | 0 => some 0 | 1 => some 1 | 2 => some 2 | 3 => some 0 | 4 => some 0 | 5 => some 0 | _ => none

/-- The checks of R162: the fault resource with VALUE and LIMIT, or none. For a problem that fails several the rule gives
no order; the list checks come first, then operand format, tile shape and top-k (DESIGN CHOICE, log entry 77). VALUE
[15:8] of a tile-shape fault holds M modulo 256, M being wider than the field (DESIGN CHOICE, log entry 77). -/
def probFault (r : Rec64) (tensors idx len : Nat) : Option (Nat × Int × Nat) :=
  let bad := pbShape r ≥ 8 || pbShape r = 6 || pbShape r = 7 || pbFlags r ≥ 8 || pbAct r ≥ 16 || (6 ≤ pbAct r && pbAct r < 16)
    || !fmtOk (pbAfmt r) || !fmtOk (pbWfmt r) || !fmtOk (pbOfmt r) || tensors ≤ pbTensor r || pbM r = 0
    || pbRows r = 0 || 256 < pbRows r || fld r 0xE 2 != 0 || fld r 0x34 8 != 0
  if bad then some (0x0E, idx, len)
  else if (cellMode (pbAfmt r) (pbWfmt r)).isNone then some (0x07, (16 * pbAfmt r + pbWfmt r : Nat), 0)
  else if shapeMaxM (pbShape r) < pbM r || shapeMode (pbShape r) != cellMode (pbAfmt r) (pbWfmt r) then
    some (0x08, (pbShape r + 256 * (pbM r % 256) : Nat), shapeMaxM (pbShape r))
  else if 4096 < pbTopk r then some (0x09, (pbTopk r : Nat), 4096)
  else none

/-- Counters 8 to 15 written from CVAL by CMASK (R161). -/
def loadCvals (r : Rec64) (x : KUnit) : KUnit :=
  (maskBits 8 (pbCmask r)).foldl (fun x i =>
    setCtr (8 + i) { getCtr x (8 + i) with value := BitVec.ofNat 32 (fld r (0x10 + 4 * i) 4) } x) x

/-- PROB (R161): read the problem, check CRC and fields, write the problem register and the counters. It waits for an
earlier access of its unit that writes the same bytes (R109). -/
def probStep (u ctr seg : Nat) (s : State) : Fired :=
  let x := getUnit s u
  let idx := ctrVal x ctr
  let len := ((tget x.segs seg).map (·.len)).getD 0 / 64
  if len ≤ idx then (mappingFault u 0x0E idx len s, [])
  else if hazard x x.issued [] [] (segRange x seg (64 * idx) 64) [] then (s, [])
  else
    match unitAccess u x.pc seg (64 * idx) 64 false s with
    | .wait f => f
    | .fault s => (s, [])
    | .lost s => (retire u s, [])
    | .go ps s =>
      let r : Rec64 := BitVec.ofNat 512 (natOf (readPieces ps s))
      if !recOk r then startRecover u ((ps.headD (0, 0)).1) s
      else
        match probFault r (x.tensors.foldl (fun n t => max n (t.1 + 1)) 0) idx len with
        | some (res, v, l) => (mappingFault u res v l s, [])
        | none => (retire u (modUnit u (fun x => loadCvals r { x with problem := some r, recover := none }) s), [])

/-- A P instruction before any PROB since CAST_ON (R163). -/
def noProblem (u : Nat) (s : State) : State := let (v, s) := freeNat s; mappingFault u 0x0E 0xFFFFFFFF v s

/-! ## MWAIT and the counter instructions -/

/-- MWAIT completes when no stored move with the tag is open (R140, R197), those in the queue of its move engine
included. -/
def mwaitStep (u : Nat) (tag : BitVec 16) (s : State) : Fired :=
  let x := getUnit s u
  if x.moveQ.any (fun o => !(devWrites x o.op).isEmpty) then (s, [])
  else if x.moveTags.contains tag then (s, [7]) else (retire u s, [])

/-- CSET: write the field PART; with APPLY set VALUE to BASE (R119). -/
def csetCtr (part : Nat) (apply : Bool) (v : BitVec 32) (c : RowCtr) : RowCtr :=
  let c := match part with
    | 0 => { c with base := v }
    | 1 => { c with step := v }
    | 2 => { c with bound := v }
    | _ => { c with mode := v.setWidth 4 }
  if apply then { c with value := c.base } else c

/-- CSET. -/
def csetStep (u ctr part : Nat) (apply : Bool) (v : BitVec 32) (s : State) : Fired :=
  (retire u (modUnit u (fun x => setCtr ctr (csetCtr part apply v (getCtr x ctr)) x) s), [])

/-- CADD (R119): t = VALUE + IMM; checked counters fault past BOUND in the direction of IMM or outside 32 bits. -/
def caddStep (u ctr : Nat) (imm : BitVec 32) (s : State) : Fired :=
  let x := getUnit s u
  let c := getCtr x ctr
  let i := imm.toInt
  let t : Int := c.value.toNat + i
  let bad := (0 < i && (c.bound.toNat : Int) < t) || (i < 0 && t < (c.bound.toNat : Int)) || t < 0 || (2 ^ 32 : Nat) ≤ t
  if c.overMode = 2 && i != 0 && bad then (mappingFault u 0x02 t c.bound.toNat s, [])
  else (retire u (setUnit u (setCtr ctr { c with value := BitVec.ofInt 32 t } x) s), [])

/-- CLOAD (R119): a 4-byte-aligned local word into VALUE or BOUND. -/
def cloadStep (u ctr actr : Nat) (toBound : Bool) (s : State) : Fired :=
  let x := getUnit s u
  let a := ctrVal x actr
  if !lsOk a 4 4 then (lsFault u a s, [])
  else if hazard x x.issued [(a, 4)] [] [] [] then (s, [])
  else
    let v := BitVec.ofNat 32 (natOf (lsRead x a 4))
    let c := getCtr x ctr
    let s := setUnit u (setCtr ctr (if toBound then { c with bound := v } else { c with value := v }) x) s
    (retire u (autoStep u [actr] s), [])

/-- CSTEP (R119). -/
def cstepStep (u ctr : Nat) (s : State) : Fired :=
  let (_, faulted, s) := doStep u ctr s
  (if faulted then s else retire u s, [])

end Sys2Proof.Machine
end

