-- ==== Sys2Proof/Machine/Array.lean ====
section
/-! DEFINITION. The array engine (R61 to R77, R82 to R90): planes, passes, accumulate-in, the checks, replay, commit. -/
namespace Sys2Proof.Machine
open Sys2Proof

/-! ## Shapes (R62 to R64) -/

/-- The sub-problems of a shape: count, K, N. -/
def shapeSubs (sh : Nat) : Nat × Nat × Nat :=
  match sh with
  | 1 => (1, 256, 128)
  | 2 => (1, 64, 64)
  | 3 => (2, 64, 128)
  | 4 => (4, 128, 32)
  | 5 => (16, 32, 32)
  | _ => (1, 128, 128)

def shapeK (sh : Nat) : Nat := (shapeSubs sh).2.1
def shapeN (sh : Nat) : Nat := (shapeSubs sh).2.2

/-- Activation bytes of one streamed row (R71: 512 where each column group is fed its own). -/
def rowBytes (sh : Nat) : Nat := if sh = 4 || sh = 5 then 512 else 128

/-- First array row and first column of a sub-problem (R64). -/
def subRow (sh a : Nat) : Nat := if sh = 3 then 64 * a else if sh = 5 then 32 * (a / 4) else 0
def subCol (sh a : Nat) : Nat := if sh = 4 then 32 * a else if sh = 5 then 32 * (a % 4) else 0

/-- First accumulator row of a sub-problem (R64). -/
def subAccRow (sh a : Nat) : Nat := if sh = 3 then 128 * a else if sh = 5 then 64 * (a / 4) else 0

/-- Plane bytes of a cell mode (R66). -/
def planeBytes (cell : Nat) : Nat := if cell = 2 then 8192 else 16384

/-- Index in the row's packed elements of K index `k` of sub-problem `a` (R62, R64; log entry 13). -/
def actIndex (sh a k : Nat) : Nat := if sh = 4 then 128 * a + k else if sh = 5 then 128 * (a % 4) + 32 * (a / 4) + k else subRow sh a + k

/-- The code of x[m][k] of sub-problem `a` (R29, R62). In 8-bit cell mode every element of the row, 4-bit ones too, is
one byte, a 4-bit code in its low nibble (R37 does not say where it lies; DESIGN CHOICE, log entry 81); in 4-bit and
16-bit mode the row is packed. -/
def actCode (acts : List Byte) (sh afmt m a k : Nat) : Nat :=
  let row := (acts.drop (m * rowBytes sh)).take (rowBytes sh)
  if sh = 1 || sh = 2 then elemAt afmt row (actIndex sh a k)
  else (lgetD row (actIndex sh a k) 0).toNat % 2 ^ fmtBits afmt

/-- The code of w[k][j] of sub-problem `a` (R62); in 8-bit cell mode a 4-bit weight is the low nibble of its byte
(DESIGN CHOICE, log entry 81). -/
def wgtCode (pl : Plane) (sh wfmt a k j : Nat) : Nat :=
  let c := subCol sh a + j
  if sh = 1 then nbits (lgetD pl.bytes (128 * (k / 2) + c) 0).toNat (4 * (k % 2)) 4
  else if sh = 2 then natOf ((pl.bytes.drop (128 * k + 2 * j)).take 2)
  else (lgetD pl.bytes (128 * (subRow sh a + k) + c) 0).toNat % 2 ^ fmtBits wfmt

/-! ## Column sums -/

/-- Sum of a function over the first `n` numbers. -/
def sumN (n : Nat) (f : Nat → Int) : Int := (List.range n).foldl (fun a i => a + f i) 0

def PassRec.x (p : PassRec) (a m k : Nat) : Int := elemInt p.afmt (actCode p.acts p.shape p.afmt m a k)
def PassRec.w (p : PassRec) (a k j : Nat) : Int := elemInt p.wfmt (wgtCode p.plane p.shape p.wfmt a k j)

/-- What upsets add at an issue row of a sub-problem, over bands up to `b`, in a set of columns. -/
def upsetSum (us : List Upset) (row a b : Nat) (col : Nat → Bool) : Int :=
  us.foldl (fun s u => if u.row = row && u.sub = a && u.band ≤ b && col u.col then s + u.delta else s) 0

/-- y[m][j] of a sub-problem: the exact column sum as the array gives it (R39, R63). -/
def PassRec.y (p : PassRec) (a m j : Nat) : Int :=
  sumN (shapeK p.shape) (fun k => p.x a m k * p.w a k j) + upsetSum p.upsets m a 7 (· == j)

/-- The special code of y[m][j] (R44). -/
def PassRec.sp (p : PassRec) (a m j : Nat) : Nat :=
  (List.range (shapeK p.shape)).foldl (fun c k =>
    combSpecial c (prodSpecial (elemKind p.afmt (actCode p.acts p.shape p.afmt m a k))
      (elemKind p.wfmt (wgtCode p.plane p.shape p.wfmt a k j)))) 0

/-- A 16-bit operand as a value. -/
def val16 (fmt c : Nat) : FV := match floatFmt fmt with | some f => decFloat f c | none => .nan

def PassRec.x16 (p : PassRec) (m k : Nat) : FV := val16 p.afmt (actCode p.acts p.shape p.afmt m 0 k)
def PassRec.w16 (p : PassRec) (k j : Nat) : FV := val16 p.wfmt (wgtCode p.plane p.shape p.wfmt 0 k j)

/-- The FP32 pass sum of R46: p_0, then fl32(s + p_k) in ascending k; upsets change its code. -/
def PassRec.y16 (p : PassRec) (m j : Nat) : Nat :=
  let prod (k : Nat) : Nat := enc32 (vMul (p.x16 m k) (p.w16 k j))
  let s := (upto 1 63).foldl (fun s k => fadd s (prod k)) (prod 0)
  toBits 32 (s + upsetSum p.upsets m 0 7 (· == j))

/-- The entries a pass writes into its buffer, by accumulator position 128 × row + column (R64, R72). -/
def passEntries (p : PassRec) : Tbl PassEntry :=
  (List.range (shapeSubs p.shape).1).foldl (fun t a =>
    (List.range p.m).foldl (fun t m =>
      (List.range (shapeN p.shape)).foldl (fun t j =>
        let e : PassEntry :=
          if p.shape = 2 then { sum := BitVec.ofNat 72 (p.y16 m j) }
          else { sum := BitVec.ofInt 72 (p.y a m j), special := BitVec.ofNat 2 (p.sp a m j) }
        tset t (128 * (subAccRow p.shape a + m) + subCol p.shape a + j) e) t) t) []

/-! ## The checks (R82 to R86) -/

/-- c[k]: the checksum column over the finite weights (R82). -/
def PassRec.c (p : PassRec) (a k : Nat) : Int := sumN (shapeN p.shape) fun j => p.w a k j

/-- Rows of group `g` (R69). -/
def groupRows (m g : Nat) : List Nat := upto (128 * g) (min 128 (m - 128 * g))

/-- v[k]: the checksum activation vector of a group (R83). -/
def PassRec.v (p : PassRec) (a g k : Nat) : Int := (groupRows p.m g).foldl (fun s m => s + p.x a m k) 0

/-- The bands of a sub-problem (R84). -/
def subBands (sh a : Nat) : List Nat :=
  if sh = 3 then upto (4 * a) 4 else if sh = 5 then upto (2 * (a / 4)) 2 else List.range 8

/-- K indices of a sub-problem in its bands up to `b` (R83). -/
def bandK (sh a b : Nat) : Nat :=
  let first := (subBands sh a).headD 0
  let per := if sh = 1 then 32 else if sh = 2 then 8 else 16
  min (shapeK sh) (per * (b + 1 - first))

/-- Equal as 88-bit two's complement (R84). -/
def eq88 (x y : Int) : Bool := (x - y) % ((2 ^ 88 : Nat) : Int) == 0

/-- The row check of an issue row at band `b`, with activations given by `x` (a streamed row or a checksum cycle). -/
def rowCheck (p : PassRec) (row a b : Nat) (x : Nat → Int) : Bool :=
  let n := bandK p.shape a b
  let left := sumN (shapeN p.shape) (fun j => sumN n fun k => x k * p.w a k j) + upsetSum p.upsets row a b (· < 128)
  let right := sumN n (fun k => x k * p.c a k) + upsetSum p.upsets row a b (· == 128)
  eq88 left right

/-- The column check of group `g` and column `j` of a sub-problem: y against z (R84). -/
def colCheck (p : PassRec) (a g j : Nat) : Bool :=
  let left := (groupRows p.m g).foldl (fun s m => s + p.y a m j) 0
  let z := sumN (shapeK p.shape) (fun k => p.v a g k * p.w a k j) + upsetSum p.upsets (p.m + g) a 8 (· == j)
  eq88 left z

/-- Groups of a pass. -/
def passGroups (p : PassRec) : Nat := cdiv p.m 128

/-- What the checks of a pass find: the first failing band, the failing columns, the 16-bit checks not made. -/
structure CheckRes where
  band : Option Nat
  cols : List Nat
  unchecked : Nat
deriving DecidableEq, Repr, Inhabited

/-- The lower of two optional numbers. -/
def optMin (a b : Option Nat) : Option Nat :=
  match a, b with
  | some x, some y => some (min x y)
  | some x, none => some x
  | none, y => y

/-- The first band at which an issue row of a sub-problem fails its row check. -/
def rowFail (p : PassRec) (row a : Nat) (x : Nat → Int) : Option Nat :=
  (subBands p.shape a).find? fun b => !rowCheck p row a b x

/-- The comparisons of R84. R86 speaks of one row check and of columns; a pass of several sub-problems has one site list:
the lowest failing band over all of them, and the failing array columns of all of them as one set (R86 does not say whether
sites are found for each sub-problem; DESIGN CHOICE, log entry 86). -/
def check8 (p : PassRec) : CheckRes :=
  let subs := List.range (shapeSubs p.shape).1
  let band := subs.foldl (fun acc a =>
    let acc := (List.range p.m).foldl (fun acc m => optMin acc (rowFail p m a (p.x a m))) acc
    (List.range (passGroups p)).foldl (fun acc g => optMin acc (rowFail p (p.m + g) a (p.v a g))) acc) none
  let cols := subs.flatMap fun a => ((List.range (shapeN p.shape)).filter fun j =>
    !((List.range (passGroups p)).all fun g => colCheck p a g j)).map (subCol p.shape a + ·)
  { band := band, cols := cols.foldl insNat [], unchecked := 0 }

/-- A finite value in units of 2^-300. -/
def units300 : FV → Int
  | .fin neg m e => unitsOf 300 neg m e
  | _ => 0

def FV.finite : FV → Bool
  | .fin .. => true
  | _ => false

/-- Absolute value. -/
def iabs (i : Int) : Int := i.natAbs

/-- The bounded comparisons of R85 in units of 2^-300 for sums and 2^-600 for products of scaled factors: row checks at
band 7 and column checks; a row or column with a product or a column sum that is not finite is not checked. One unchecked
row is one streamed row or one group's checksum cycle, and a column counts once in each group (R85 says 'each such row or
column'; DESIGN CHOICE, log entry 86). COLUMN of a site is the output column 0 to 63, not the array column its sum leaves
through (R86 does not say; DESIGN CHOICE, log entry 86). -/
def check16 (p : PassRec) : CheckRes :=
  let ys (m j : Nat) : FV := dec32 (p.y16 m j)
  let X (m k : Nat) : Int := units300 (p.x16 m k)
  let W (k j : Nat) : Int := units300 (p.w16 k j)
  let scale : Int := ((2 ^ 300 : Nat) : Int)
  -- D > 2^-12 A + 64 · 2^-149, both sides multiplied by 2^612
  let above (d a : Int) : Bool := ((2 ^ 12 : Nat) : Int) * d > a + ((2 ^ (600 + 12 + 6 - 149) : Nat) : Int)
  let prodsFin (m j : Nat) : Bool := (List.range 64).all fun k => (vMul (p.x16 m k) (p.w16 k j)).finite
  let ysum (l : List FV) : Int := l.foldl (fun s v => s + units300 v * scale) 0
  let rowOf (row : Nat) (x : Nat → Int) (fin : Bool) (left : Int) : Option Bool :=
    if !fin then none
    else
      let right := sumN 64 (fun k => x k * sumN 64 fun j => W k j) + upsetSum p.upsets row 0 7 (· == 128)
      let a := sumN 64 fun k => iabs (x k) * sumN 64 fun j => iabs (W k j)
      some (above (iabs (left - right)) a)
  let V (g k : Nat) : Int := (groupRows p.m g).foldl (fun s m => s + X m k) 0
  let rows := (List.range p.m).map (fun m =>
      rowOf m (X m) ((List.range 64).all fun j => prodsFin m j && (ys m j).finite) (ysum ((List.range 64).map (ys m))))
    ++ (List.range (passGroups p)).map (fun g =>
      rowOf (p.m + g) (V g) ((groupRows p.m g).all fun m => (List.range 64).all fun j => prodsFin m j && (ys m j).finite)
        (ysum ((groupRows p.m g).flatMap fun m => (List.range 64).map (ys m))))
  let cols := (List.range 64).map fun j => (List.range (passGroups p)).map fun g =>
    if (groupRows p.m g).all fun m => prodsFin m j && (ys m j).finite then
      let right := sumN 64 (fun k => V g k * W k j) + upsetSum p.upsets (p.m + g) 0 8 (· == j)
      let a := sumN 64 fun k => iabs (V g k) * iabs (W k j)
      some (above (iabs (ysum ((groupRows p.m g).map fun m => ys m j) - right)) a)
    else none
  { band := if rows.any (· == some true) then some 7 else none,
    cols := (cols.zipIdx.filter fun c => c.1.any (· == some true)).map (·.2),
    unchecked := (rows.filter (· == none)).length + (cols.foldl (fun n c => n + (c.filter (· == none)).length) 0) }

/-- The checks of a pass. -/
def passCheck (p : PassRec) : CheckRes := if p.shape = 2 then check16 p else check8 p

/-- The sites of a mismatch, at most four (R86). -/
def mismatchSites (r : CheckRes) : List (Nat × Nat) :=
  match r.band, r.cols with
  | some b, [] => [(b, 128)]
  | some b, cs => (cs.take 4).map fun c => (b, c)
  | none, cs => (cs.take 4).map fun c => (8, c)

/-- Key of a site in the mismatch counts: 9 × 129 positions (R90). -/
def siteKey (b c : Nat) : Nat := 129 * b + c

/-- One more mismatch at a site; a count of three marks the unit for darning (R90). -/
def countSite (site : Nat × Nat) (x : KUnit) : KUnit :=
  let k := siteKey site.1 site.2
  let n := min 3 ((tgetD x.sites k 0).toNat + 1)
  { x with sites := tset x.sites k (BitVec.ofNat 2 n), marked := x.marked || n == 3 }

/-- A mismatch: the site counts, a log record for each site, the dropped-stitch counter, and a replay, or the halt after
four attempts in place of it (R87, R89, R90). Failing columns beyond the four that are logged raise no site count (R86
and R90 do not say; DESIGN CHOICE, log entry 78). -/
def passFails (u : Nat) (p : PassRec) (r : CheckRes) (s : State) : State :=
  let base := b2n r.band.isSome + 2 * b2n (!r.cols.isEmpty) + 4 * b2n (4 < r.cols.length) + 8 * b2n (p.shape == 2)
  let sites := mismatchSites r
  let halts : Bool := 3 ≤ p.attempts
  let before := getUnit s u
  let counted := sites.foldl (fun x site => countSite site x) before
  let newly := (halts || counted.marked) && !before.marked
  let recs := sites.map fun site =>
    ({ unit := u, band := site.1, flags := logFlags base halts newly, column := site.2, attempt := p.attempts,
       time := s.now } : LogRec)
  let s := bump (.droppedStitches u) 1 (setUnit u counted s)
  if halts then haltUnit u recs s
  else
    modUnit u (fun x =>
        { x with passes := x.passes.map fun q => if q.seq = p.seq then { q with st := .failed, entries := [] } else q })
      (recs.foldl (fun s r => logRec (unitStack u) r s) s)

/-- PASS_CHECK_OUTCOME: the check outcome of the pass in a buffer becomes known (R70, R84 to R87). -/
def execPassCheckOutcome (u : BitVec 9) (bufB : Bool) (s : State) : Result :=
  let x := getUnit s u.toNat
  .next (match x.passes.find? fun p => p.bufB == bufB && p.st == .issued with
    | none => s
    | some p =>
      let r := passCheck p
      let s := if r.unchecked = 0 then s else bump (.unchecked16 u.toNat) r.unchecked s
      if r.band.isNone && r.cols.isEmpty then
        modUnit u.toNat (fun x =>
          { x with passes := x.passes.map fun q => if q.seq = p.seq then { q with st := .equal } else q }) s
      else passFails u.toNat p r s)

/-! ## The accumulator (R40 to R45) -/

/-- Fields of an accumulator entry (R40). -/
def accSum (e : BitVec 96) : Nat := e.toNat % 2 ^ 88
def accSpecial (e : BitVec 96) : Nat := nbits e.toNat 88 2
def accOvf (e : BitVec 96) : Bool := nbit e.toNat 90
def mkAcc (sum sp : Nat) (ovf : Bool) : BitVec 96 := BitVec.ofNat 96 (sum % 2 ^ 88 + sp * 2 ^ 88 + b2n ovf * 2 ^ 90)

def getAcc (x : KUnit) (k : Nat) : BitVec 96 := tgetD x.acc k 0

/-- Depth limit of a pair class (R42). -/
def depthLimit (float : Bool) : Nat := if float then 2 ^ 20 else 2 ^ 24

/-- Add to the tile's reduction depth; a crossing of the limit of its pair class sets DEPTH_OVF in every entry and counts
(R42, R43). -/
def addDepth (u d : Nat) (float : Bool) (s : State) : State :=
  let x := getUnit s u
  let n := satAdd 32 x.depth.toNat d
  let lim := depthLimit float
  let s := setUnit u { x with depth := BitVec.ofNat 32 n } s
  if x.depth.toNat ≤ lim && lim < n then
    let all := (List.range 32768).foldl (fun t k => tset t k (getAcc x k ||| BitVec.ofNat 96 (2 ^ 90))) []
    bump (.depthOverflow u) 1 (modUnit u (fun x => { x with acc := all }) s)
  else s

/-- A replacing commit (R73). -/
def commitReplace (u : Nat) (p : PassRec) (s : State) : State :=
  let x := getUnit s u
  let acc := p.entries.foldl (fun t e =>
    tset t e.1 (if p.shape = 2 then BitVec.ofNat 96 e.2.sum.toNat
      else mkAcc (toBits 88 e.2.sum.toInt) e.2.special.toNat false)) x.acc
  setUnit u { x with
    acc := acc
    depth := if p.shape = 2 then x.depth else BitVec.ofNat 32 (shapeK p.shape)
    accShape := BitVec.ofNat 4 p.shape
    accFloat := isFloatOp p.afmt || p.shape == 2
    acc16 := p.shape == 2 } s

/-- An adding commit (R73; R41 to R44, or fl32 of R46). -/
def commitAdd (u : Nat) (p : PassRec) (s : State) : State :=
  let x := getUnit s u
  let acc := p.entries.foldl (fun t e =>
    let old := tgetD t e.1 0
    tset t e.1 (if p.shape = 2 then BitVec.ofNat 96 (fadd (old.toNat % 2 ^ 32) e.2.sum.toNat)
      else mkAcc (accSum old + toBits 88 e.2.sum.toInt) (combSpecial (accSpecial old) e.2.special.toNat) (accOvf old))) x.acc
  let float := isFloatOp p.afmt || p.shape == 2
  let s := setUnit u
    { x with acc := acc, accShape := BitVec.ofNat 4 p.shape, accFloat := float, acc16 := p.shape == 2 } s
  if p.shape = 2 then s else addDepth u (shapeK p.shape) float s

/-- R74: whether an equal pass may commit now. -/
def mayCommit (x : KUnit) (p : PassRec) : Bool :=
  let earlier := x.passes.filter fun q => q.seq < p.seq
  if p.shape = 2 || !p.add then earlier.isEmpty else earlier.all (·.add)

/-- A drain issued before instruction `num` has not read its rows yet (R76). -/
def drainAhead (x : KUnit) (num : Nat) : Bool :=
  x.outQ.any fun o =>
    match o.op with
    | .drain .. => o.num < num
    | _ => false

/-! ## The ceiling (R444) -/

/-- The power ceiling withholds issue: at level L a unit issues in at most L of 64 consecutive cycles (R444). -/
def withheld (s : State) (u : Nat) : Bool :=
  let x := getUnit s u
  s.power.ceil.toNat ≤ (x.issues.filter fun t => x.cycle < t + 64).length

/-- The first cycle from `c` on in which a unit that issued in the cycles `l` may issue at ceiling level `lv` (R444). -/
def nextIssue (lv c : Nat) (l : List Nat) : Nat :=
  let recent := l.filter fun t => c < t + 64
  if recent.length < lv then c else lgetD recent (recent.length - lv) c + 64

/-- The cycle after `n` issue cycles, each in the first cycle the ceiling allows, and the issues of the last 64 (R444). -/
def issueRows (lv : Nat) : (n : Nat) → Nat → List Nat → Nat × List Nat
  | 0, c, l => (c, l)
  | n + 1, c, l =>
    let t := nextIssue lv c l
    issueRows lv n (t + 1) ((l.filter fun k => t < k + 64) ++ [t])

/-- A unit after `n` issue cycles at a ceiling level: the last of them is its present cycle (R444). -/
def countIssue (lv n : Nat) (x : KUnit) : KUnit :=
  let r := issueRows lv n x.cycle x.issues
  { x with cycle := max x.cycle (r.1 - 1), issues := r.2 }

/-- Cycles among them in which the ceiling withheld an issue (R444). -/
def heldCycles (lv n : Nat) (x : KUnit) : Nat := (issueRows lv n x.cycle x.issues).1 - x.cycle - n

/-- Withheld cycles of a running unit count under stall cause 9 (R144, R444). -/
def countHeld (u n : Nat) (s : State) : State :=
  if n = 0 || (getUnit s u).run != .running then s else bump (.stall u 9) n s

/-- A unit issues in `n` cycles (R444). -/
def payIssue (u n : Nat) (s : State) : State :=
  let x := getUnit s u
  let lv := s.power.ceil.toNat
  setUnit u (countIssue lv n x) (countHeld u (heldCycles lv n x) s)

/-- Issue cycles of a pass: its rows and a checksum cycle for each group (R69). -/
def passCycles (m : Nat) : Nat := m + cdiv m 128

/-- Vector cycles of an activation code for 128 values (R96). -/
def actCycles : Nat → Nat
  | 1 => 1 | 2 => 10 | 3 => 12 | 4 => 11 | 5 => 20 | _ => 0

/-- Vector cycles of an operation (R92, R96 to R99, R101). A row of VRAND takes one (no rule gives its rate; DESIGN CHOICE,
log entry 30). -/
def vecCycles : EngOp → Nat
  | .vop f fmt r _ _ _ _ => r * (if f = 0x1E then actCycles fmt else if 0x1A ≤ f && f ≤ 0x1D then 4 else 1)
  | .vred _ _ _ _ r => r
  | .vsmax .. => 12
  | .vtopk _ _ _ k r _ finish => r + (if finish then cdiv k 16 else 0)
  | .vsample _ _ _ n _ _ => cdiv n 128 + 128
  | .vrand _ _ _ _ r => r
  | .drain _ _ _ _ ofmt _ act bias r => if ofmt = 11 then 0 else r * (actCycles act + b2n bias.isSome)
  | _ => 0

/-! ## Passes in flight -/

/-- What a pass in flight waits for: its replay, which the ceiling may withhold, or an accumulator row that a drain has
still to read (R76, R87, R444). -/
def passWaits (s : State) (u : Nat) (p : PassRec) : List Nat :=
  let x := getUnit s u
  if p.st == .failed then (if withheld s u then [9, 8] else [8]) else if p.st == .equal && mayCommit x p && drainAhead x p.seq then [1] else []

/-- A pass whose outcome is equal is committed in the order of R74 (R73, R76). -/
def commitStep (u : Nat) (bufB : Bool) (s : State) : State :=
  let x := getUnit s u
  match x.passes.find? fun p => p.bufB == bufB && p.st == .equal with
  | none => s
  | some p =>
    if !mayCommit x p || drainAhead x p.seq then s
    else
      let s := if p.add then commitAdd u p s else commitReplace u p s
      modUnit u (fun x => { x with passes := x.passes.filter fun q => q.seq != p.seq }) s

/-- The first failed pass, in program order, issues again from the retention buffer, into the buffer it had (R72, R87,
R88). Its issue cycles are under the ceiling as the first ones were (R444). -/
def replayStep (u : Nat) (upsets : List Upset) (s : State) : State :=
  let x := getUnit s u
  match (if withheld s u then none else x.passes.find? fun p => p.st == .failed) with
  | none => s
  | some p =>
    let lv := s.power.ceil.toNat
    let n := passCycles p.m
    let p' := { p with st := .issued, attempts := p.attempts + 1, upsets := upsets }
    let p' := { p' with entries := passEntries p' }
    setUnit u { countIssue lv n x with
      passes := x.passes.map fun q => if q.seq = p.seq then p' else q
      lastBufB := p.bufB, lastReplay := true } (countHeld u (heldCycles lv n x) s)

/-! ## The engine's queue -/

/-- Bytes gathered from a strand. -/
def gathered (got : List Beat) (n : Nat) : List Byte := (got.flatMap beatBytes).take n

/-- A mapping fault with resource marker, raised by a queued instruction (R127, R129). -/
def markerFaultAt (u pc : Nat) (m : BitVec 16) (s : State) : State := mappingFaultAt u pc 0x0A m.toNat 0 s

/-- The head of the array queue with its operation changed. -/
def setArrOp (u : Nat) (op : EngOp) (s : State) : State :=
  modUnit u (fun x => { x with arrQ := match x.arrQ with
    | q :: t => { q with op := op } :: t
    | [] => [] }) s

/-- Pop the head of the array queue. -/
def popArr (u : Nat) (s : State) : State := modUnit u (fun x => { x with arrQ := x.arrQ.tail }) s

/-- Take a beat of a strand for the operation at the head of the array queue; a marker raises a mapping fault (R128,
R129). `put` rebuilds the operation with the new beat. -/
def gatherStep (u pc i : Nat) (put : Beat → Option Rec64 → EngOp) (s : State) : Fired :=
  let q := getIn (getUnit s u) i
  match headOf q with
  | .beat b h => (setArrOp u (put b h) (takeHead u i s), [])
  | .marker m => (markerFaultAt u pc m s, [])
  | _ => (s, [headCause q])

/-- A plane becomes complete in the shadow plane (R66). -/
def loadPlane (u cell : Nat) (bytes : List Byte) (s : State) : State :=
  popArr u (modUnit u (fun x =>
    { x with shadow := { cell := BitVec.ofNat 2 cell, bytes := bytes }, shadowFull := true }) s)

/-- The pass that holds the buffer the next pass takes (R72). -/
def bufHolder (x : KUnit) : Option PassRec := x.passes.find? fun p => p.bufB == !x.lastBufB

/-- What the next pass waits for before it issues its rows (R68, R72, R75, R87, R444). -/
def issueWaits (s : State) (u : Nat) (keep : Bool) : List Nat :=
  let x := getUnit s u
  (if withheld s u then [9] else [])
    ++ (if x.passes.any (fun p => p.st == .failed) then [8] else [])
    ++ (if keep || x.shadowFull then [] else [2])
    ++ match bufHolder x with
      | some h => [if 0 < h.attempts || x.lastReplay then 8 else 1]
      | none => if 2 ≤ x.passes.length then [1] else []

/-- A pass issues its rows (R63, R67, R69, R71, R72). A pass that does not keep its plane swaps the shadow plane in. -/
def issuePass (u : Nat) (q : QOp) (sh m afmt wfmt : Nat) (keep add : Bool) (acts : List Byte) (ups : List Upset)
    (s : State) : Fired :=
  let w := issueWaits s u keep
  if !w.isEmpty then (s, w)
  else
    let x := getUnit s u
    let p : PassRec :=
      { seq := q.num, pc := q.pc, bufB := !x.lastBufB, shape := sh, m := m, afmt := afmt, wfmt := wfmt, add := add,
        acts := acts, plane := if keep then x.active else x.shadow, entries := [], upsets := ups, attempts := 0,
        st := .issued }
    let p := { p with entries := passEntries p }
    let lv := s.power.ceil.toNat
    let n := passCycles m
    (popArr u (setUnit u
      { countIssue lv n x with
        active := p.plane, shadow := (if keep then x.shadow else x.active), shadowFull := x.shadowFull && keep,
        lastBufB := !x.lastBufB, lastReplay := false, passes := x.passes ++ [p] } (countHeld u (heldCycles lv n x) s)), [])

/-- Add an ACC96 tile into the accumulator (R45): SUM, SPECIAL, DEPTH_OVF and the header's depth. -/
def accumulateIn (u rows : Nat) (bytes : List Byte) (depth : Nat) (s : State) : State :=
  let x := getUnit s u
  let acc := (List.range (128 * rows)).foldl (fun t k =>
    let e := BitVec.ofNat 96 (natOf ((bytes.drop (12 * k)).take 12))
    let old := tgetD t k 0
    tset t k (mkAcc (accSum old + accSum e) (combSpecial (accSpecial old) (accSpecial e)) (accOvf old || accOvf e))) x.acc
  popArr u (addDepth u depth x.accFloat (setUnit u { x with acc := acc } s))

/-- The depth an ACC96 tile's header carries; a tile without a header has no stated depth: a free value of the instruction
and its data, since R20 binds what comes of it (log entry 3). -/
def accDepth (h : Option Rec64) (key : List Nat) (bytes : List Byte) : Nat :=
  match h with
  | some h => fld h 8 4
  | none => Config.headerField 5 key bytes % 2 ^ 32

/-- An ACCIN adds its tile once no earlier replacing pass, and of 16-bit pairs no earlier pass, is uncommitted and every
earlier drain has read its rows (R73, R74, R76). -/
def accinStep (u num rows : Nat) (key : List Nat) (bytes : List Byte) (h : Option Rec64) (s : State) : Fired :=
  let x := getUnit s u
  if !x.passes.all (·.add) || (x.acc16 && !x.passes.isEmpty) then (s, [])
  else if drainAhead x num then (s, [1])
  else (accumulateIn u rows bytes (accDepth h key bytes) s, [])

/-- The step of the operation at the head of the array queue (R107, R128). One that has taken beats of a tile still
arriving waits for the tile's check (R207). -/
def arrayOp (u : Nat) (q : QOp) (s : State) : Fired :=
  let x := getUnit s u
  match q.op with
  | .plane (some i) a c got =>
    if got.length < planeBytes c / 256 then gatherStep u q.pc i (fun b _ => .plane (some i) a c (got ++ [b])) s
    else if tileOpen x i then (s, [0])
    else (loadPlane u c (gathered got (planeBytes c)) s, [])
  | .plane none a c _ => (loadPlane u c (lsRead x a (planeBytes c)) s, [])
  | .pass (some i) a sh m af wf k ad got ups =>
    if got.length < cdiv (m * rowBytes sh) 256 then
      gatherStep u q.pc i (fun b _ => .pass (some i) a sh m af wf k ad (got ++ [b]) ups) s
    else if tileOpen x i then (s, [0])
    else issuePass u q sh m af wf k ad (gathered got (m * rowBytes sh)) ups s
  | .pass none a sh m af wf k ad _ ups => issuePass u q sh m af wf k ad (lsRead x a (m * rowBytes sh)) ups s
  | .accin (some i) a rows got h =>
    if got.length < cdiv (rows * 1536) 256 then
      gatherStep u q.pc i (fun b hd => .accin (some i) a rows (got ++ [b]) (if h.isNone then hd else h)) s
    else if tileOpen x i then (s, [0])
    else accinStep u q.num rows q.key (gathered got (rows * 1536)) h s
  | .accin none a rows _ _ =>
    accinStep u q.num rows q.key (lsRead x a (rows * 1536)) ((x.hdrFile.find? fun e => e.addr == a).map (·.hdr)) s
  | _ => (s, [])

/-- The head of the array queue steps, unless an earlier instruction of the unit holds its bytes (R109). -/
def arrayStep (u : Nat) (s : State) : Fired :=
  let x := getUnit s u
  if x.halted || x.run == .stopped then (s, [])
  else
    match x.arrQ with
    | [] => (s, [])
    | q :: _ => if opHazard x q then (s, []) else arrayOp u q s

/-- An operation names no strand: its one step fires when its engine reaches it (R128). -/
def EngOp.stepsAtOnce : EngOp → Bool
  | .plane none .. => true
  | .pass none .. => true
  | .accin none .. => true
  | .load .. => true
  | .store .. => true
  | _ => false

/-- Hand an operation to the array engine, whose queue holds four (R107); one that needs no strand begins when the
engine is free. -/
def pushArr (u : Nat) (op : EngOp) (autos : List Nat) (s : State) : Fired :=
  let x := getUnit s u
  if 4 ≤ x.arrQ.length then (s, [])
  else
    let s := setUnit u { x with arrQ := x.arrQ ++ [newOp x op], issued := x.issued + 1 } s
    let s := retire u (autoStep u autos s)
    if x.arrQ.isEmpty && op.stepsAtOnce then arrayStep u s else (s, [])

/-- PLANE (R66, R115). -/
def planeIssue (u : Nat) (inp : BitVec 8) (actr cell : Nat) (p : Bool) (s : State) : Fired :=
  let x := getUnit s u
  if p && x.problem.isNone then (noProblem u s, [])
  else
    let cell := if p then ((x.problem.bind fun r => cellMode (pbAfmt r) (pbWfmt r))).getD 0 else cell
    let a := ctrVal x actr
    if inp != 0 then pushArr u (.plane (some (maskOne inp)) a cell []) [] s
    else if !lsOk a (planeBytes cell) 256 then (lsFault u a s, [])
    else pushArr u (.plane none a cell []) [actr] s

/-- PASS (R63 to R75, R115). -/
def passIssue (u : Nat) (inp : BitVec 8) (sh m actr af wf : Nat) (keep add p : Bool) (ups : List Upset) (s : State) :
    Fired :=
  let x := getUnit s u
  if p && x.problem.isNone then (noProblem u s, [])
  else
    let r := x.problem.getD 0
    let sh := if p then pbShape r % 8 else sh
    let m := if p then pbM r else m
    let af := if p then pbAfmt r else af
    let wf := if p then pbWfmt r else wf
    let keep := if p then nbit (pbFlags r) 0 else keep
    let add := if p then nbit (pbFlags r) 1 else add
    let a := ctrVal x actr
    let op (i : Option Nat) : EngOp := .pass i a sh m af wf keep add [] ups
    if 4 ≤ x.arrQ.length then (s, [])
    else
      let s := setUnit u { x with issue16 := sh == 2 } s
      if inp != 0 then pushArr u (op (some (maskOne inp))) [] s
      else if !lsOk a (m * rowBytes sh) 256 then (lsFault u a s, [])
      else pushArr u (op none) [actr] s

/-- ACCIN (R45, R73, R115). -/
def accinIssue (u : Nat) (inp : BitVec 8) (actr rows : Nat) (p : Bool) (s : State) : Fired :=
  let x := getUnit s u
  if p && x.problem.isNone then (noProblem u s, [])
  else
    let rows := if p then pbRows (x.problem.getD 0) else rows
    let a := ctrVal x actr
    if inp != 0 then pushArr u (.accin (some (maskOne inp)) a rows [] none) [] s
    else if !lsOk a (rows * 1536) 256 then (lsFault u a s, [])
    else pushArr u (.accin none a rows [] none) [actr] s

end Sys2Proof.Machine
end

