-- ==== Sys2Proof/Machine/Output.lean ====
section
/-! DEFINITION. The output engine (R49 to R60, R78, R79, R204, R209): draining an accumulator tile. -/
namespace Sys2Proof.Machine
open Sys2Proof

/-! ## The four steps (R49) -/

/-- Columns of a tile: 64 when 16-bit passes made it (R64, R78). -/
def tileCols (b16 : Bool) : Nat := if b16 then 64 else 128

/-- Step 1: an accumulator entry as FP32, by the pair class of the passes that made the tile (R49, R50). -/
def accToF32 (x : KUnit) (e : BitVec 96) : Nat :=
  if x.acc16 then e.toNat % 2 ^ 32
  else
    match accSpecial e with
    | 1 => inf32
    | 2 => ninf32
    | 3 => nan32
    | _ => enc32 (ofUnits (sx 88 (accSum e)) (if x.accFloat then -32 else 0))

/-- Steps 1 to 3: the value that enters step 4. -/
def outValue (x : KUnit) (t : Tensor) (act : Nat) (bias : Option Nat) (e : BitVec 96) : Nat :=
  let v := fmul (accToF32 x e) t.scale.toNat
  let v := match bias with
    | some b => fadd v b
    | none => v
  activate act v

/-! ## The histogram (R56 to R59) -/

/-- A 32-bit counter that saturates. -/
def inc32 (c : BitVec 32) (n : Nat) : BitVec 32 := BitVec.ofNat 32 (satAdd 32 c.toNat n)

/-- floor(log2 |x|) of a finite non-zero FP32 code, by its exponent field; subnormals lie below -126. -/
def exp32 (c : Nat) : Int := (nbits c 23 8 : Nat) - 127

/-- Count one value entering step 4, and whether its narrowing saturated (R56). -/
def histCount (v : Nat) (sat : Bool) (h : Hist) : Hist :=
  let h := { h with elements := inc32 h.elements 1, saturated := inc32 h.saturated (b2n sat) }
  let mag := v % 2 ^ 31
  if mag = 0 then { h with zero := inc32 h.zero 1 }
  else if inf32 ≤ mag then { h with nanInf := inc32 h.nanInf 1 }
  else if exp32 v < -32 then { h with underflow := inc32 h.underflow 1 }
  else if 32 ≤ exp32 v then { h with overflow := inc32 h.overflow 1 }
  else
    let b := (exp32 v + 32).toNat
    { h with bins := tset h.bins b (inc32 (tgetD h.bins b 0) 1) }

/-- Merging the counts of two units: saturating addition (R58). -/
def histMerge (a b : Hist) : Hist :=
  { elements := inc32 a.elements b.elements.toNat
    bins := b.bins.foldl (fun t e => tset t e.1 (inc32 (tgetD t e.1 0) e.2.toNat)) a.bins
    zero := inc32 a.zero b.zero.toNat
    underflow := inc32 a.underflow b.underflow.toNat
    overflow := inc32 a.overflow b.overflow.toNat
    nanInf := inc32 a.nanInf b.nanInf.toNat
    saturated := inc32 a.saturated b.saturated.toNat
    depthOvf := a.depthOvf || b.depthOvf }

/-- Some counter of a record holds 0xFFFF_FFFF (R58). -/
def Hist.full (h : Hist) : Bool :=
  ([h.elements, h.zero, h.underflow, h.overflow, h.nanInf, h.saturated] ++ h.bins.map (·.2)).any (· == 0xFFFFFFFF)

/-- The 512-byte record (R57). -/
def histRecord (fmt u : Nat) (tensor : BitVec 32) (h : Hist) : List Byte :=
  let r : BitVec 4096 := recOf 4096 ([(0, 2, 1), (2, 1, fmt), (3, 1, b2n h.full + 2 * b2n h.depthOvf), (4, 2, u),
    (8, 4, tensor.toNat), (0xC, 4, h.elements.toNat)]
    ++ (h.bins.map fun e => (0x10 + 4 * e.1, 4, e.2.toNat))
    ++ [(0x110, 4, h.zero.toNat), (0x114, 4, h.underflow.toNat), (0x118, 4, h.overflow.toNat),
        (0x11C, 4, h.nanInf.toNat), (0x120, 4, h.saturated.toNat)])
  recBytes (setFld r 0x1FC 4 (recCrc r 0x1FC))

/-- Key of the counts of a tensor in its use `g`: the run or step, from 0, whose elements they are. -/
def histKey (ti g : Nat) : Nat := ti + 256 * g

/-- The use of a tensor that a unit drains next: a unit that makes a fixed share of the tensor has made so many shares, and
one that claims its tiles works on the record that is not yet written (R58; DEDUCED, log entry 23). -/
def histUse (c : Option Cast) (x : KUnit) (ti : Nat) (t : Tensor) : Nat :=
  if t.share = 0 then (c.map fun c => tgetD c.histDone t.ident.toNat 0).getD 0 else tgetD x.drained ti 0 / t.share

/-- The counts under a key are those of the use `g` of the tensor with this identifier. -/
def KUnit.countsFor (x : KUnit) (ident : BitVec 32) (g key : Nat) : Bool :=
  key / 256 == g && (tget x.tensors (key % 256)).map (·.ident) == some ident

/-- The counts of a use of a tensor over the units of a panel, by its identifier (R58). -/
def histOf (s : State) (p : Nat) (ident : BitVec 32) (g : Nat) : Hist :=
  (panelUnits s p).foldl (fun a u =>
    let x := getUnit s u
    x.hists.foldl (fun a e => if x.countsFor ident g e.1 then histMerge a e.2 else a) a) {}

/-- The counts of a use of a tensor, once its record is written, are dropped in every unit of the panel. -/
def clearHist (p : Nat) (ident : BitVec 32) (g : Nat) (s : State) : State :=
  (panelUnits s p).foldl (fun s u =>
    if (tget s.units u).isSome then
      modUnit u (fun x => { x with hists := x.hists.filter fun h => !x.countsFor ident g h.1 }) s
    else s) s

/-- Where the record of a use of a tensor goes: after the tensor, in the buffer of its link that the use has (R59, R151,
R289). -/
def histPlace (t : Tensor) (g : Nat) : Nat := t.histOff + t.stride * (g % max 1 t.copies)

/-- The place of a tensor's record can be reached: a hank of it in T3 is returned first (R202). An ACC96 tile has no record
(R45). -/
def histReach (p ofmt g : Nat) (t : Tensor) (s : State) : Access :=
  match getCast s p with
  | some c => if ofmt = 11 then .go [] s else followPieces p c t.histArea (hankPieces 3 (histPlace t g) 512) [] s
  | none => .go [] s

/-- The record of a use of a tensor is written after its last tile, which is the one that brings ELEMENTS to the tensor's
elements: at the first 64-byte boundary after the tensor's place in that use (R58, R59, R289; DEDUCED, log entry 23). -/
def writeHist (u fmt g : Nat) (t : Tensor) (s : State) : State :=
  match panelOf s u with
  | none => s
  | some p =>
    match getCast s p with
    | none => s
    | some c =>
      let h := histOf s p t.ident g
      if h.elements.toNat < min t.elems 0xFFFFFFFF then s
      else
        let c' := { c with histDone := tset c.histDone t.ident.toNat (max (tgetD c.histDone t.ident.toNat 0) (g + 1)) }
        clearHist p t.ident g (areaWrite c t.histArea (histPlace t g) (histRecord fmt u t.ident h) (modCast p (fun _ => c') s))

/-! ## Draining -/

/-- The entries of a tile in row order. -/
def tileEntries (x : KUnit) (rows cols : Nat) : List (Nat × BitVec 96) :=
  (List.range rows).flatMap fun r => (List.range cols).map fun c => (c, getAcc x (128 * r + c))

/-- The codes of a drained tile, with the histogram it leaves. -/
def drainCodes (x : KUnit) (t : Tensor) (ofmt act : Nat) (bias : Option (List Nat)) (es : List (Nat × BitVec 96)) (h : Hist) :
    List Nat × Hist :=
  let r := es.foldl (fun (acc : List Nat × Hist) e =>
    let v := outValue x t act (bias.map fun b => lgetD b e.1 0) e.2
    let n := narrow ofmt v
    (n.1 :: acc.1, histCount v n.2 { acc.2 with depthOvf := acc.2.depthOvf || (!x.acc16 && accOvf e.2) })) ([], h)
  (r.1.reverse, r.2)

/-- The payload of a drained tile, padded to whole beats, and the unit with its histogram counted. An ACC96 tile
bypasses all four steps and has no histogram (R45). -/
def drainPayload (x : KUnit) (ti g : Nat) (t : Tensor) (ofmt act : Nat) (bias : Option (List Nat)) (rows : Nat) :
    List Byte × KUnit :=
  let es := tileEntries x rows (tileCols x.acc16)
  let pad (l : List Byte) : List Byte := l ++ List.replicate (256 * cdiv l.length 256 - l.length) 0
  if ofmt = 11 then (pad (es.flatMap fun e => bytesOf 12 e.2.toNat), x)
  else
    let r := drainCodes x t ofmt act bias es (tgetD x.hists (histKey ti g) {})
    (pad (packElems ofmt r.1), { x with hists := tset x.hists (histKey ti g) r.2
                                        drained := tset x.drained ti (tgetD x.drained ti 0 + es.length) })

/-- One piece of a drained tile: its header and payload. -/
structure Piece where
  hdr : Rec64
  payload : List Byte
deriving DecidableEq, Repr, Inhabited

/-- Headers of the pieces of a drained tile, `tb` beats each (R205). INDEX is the tile's number in its tile segment;
elsewhere the manual names none: a free value of the instruction and its data (log entry 3). -/
def drainPieces (u panel tb ofmt rows rowBytes : Nat) (key : List Nat) (t : Tensor) (first : Option Nat)
    (payload : List Byte) (s : State) : List Piece × State :=
  let ps := chunks (256 * tb) (cdiv payload.length (256 * tb)) payload
  ps.zipIdx.foldl (fun (acc : List Piece × State) p =>
    let s := acc.2
    let x := getUnit s u
    let idx := match first with
      | some i => i + p.2
      | none => Config.headerField 4 (p.2 :: t.ident.toNat :: key) p.1 % 2 ^ 32
    let before := p.2 * 256 * tb / rowBytes
    let r := max 1 (min rows (cdiv (p.2 * 256 * tb + p.1.length) rowBytes) - before)
    let ovf := !x.acc16 && (tileEntries x rows (tileCols x.acc16)).any fun e => accOvf e.2
    let h := mkTileHdr ofmt x.accShape.toNat (b2n (ofmt == 11) + 2 * b2n ovf) (min 256 r) (p.1.length / 256)
      (if ofmt = 11 then x.depth.toNat else t.scale.toNat) u 0 panel t.ident.toNat idx x.tileCount.toNat p.1
    (acc.1 ++ [{ hdr := h, payload := p.1 }], setUnit u { x with tileCount := x.tileCount + 1 } s)) ([], s)

/-- Bytes of a drained row. -/
def drainRow (b16 : Bool) (ofmt : Nat) : Nat := tileCols b16 * fmtBits ofmt / 8

/-- Some hank of a range of an area is lost (R211). -/
def rangeLost (c : Cast) (id off n : Nat) : Bool :=
  (hankPieces 4 off n).any fun p =>
    match (tget c.areas id).map fun x => areaLoc x p.1 with
    | some (.addr _) => false
    | some (.absent _) => false
    | some .lazy => false
    | _ => true

/-- Pop the head of the output queue. -/
def popOut (u : Nat) (s : State) : State := modUnit u (fun x => { x with outQ := x.outQ.tail }) s

/-- A drain to the local store: payload and header file (R79, R204). -/
def drainLocal (u addr : Nat) (ps : List Piece) (s : State) : State :=
  popOut u ((ps.foldl (fun (acc : Nat × State) p =>
    (acc.1 + p.payload.length, modUnit u (fun x => hdrFilePut acc.1 p.hdr (lsWrite acc.1 p.payload x)) acc.2)) (addr, s)).2)

/-- A drain to output strands: the beats wait to be put on them one by one (R128). -/
def drainStrands (u : Nat) (out : BitVec 8) (ps : List Piece) (s : State) : State :=
  let bs := ps.flatMap fun p => (beatsOf p.payload).zipIdx.map fun b => (b.1, if b.2 = 0 then some p.hdr else none)
  modUnit u (fun x => { x with outQ := match x.outQ with
    | q :: t => { q with op := .emit out bs } :: t
    | [] => [] }) s

/-- The copy of tile `i` that a retained tile segment keeps in the retain area: the slots of the link's buffers lie one
after another as the buffers do (R209). -/
def retainTile (u sgi i : Nat) (t : TileDecl) (len home : Nat) (p : Piece) (s : State) : State :=
  match t.retain with
  | none => s
  | some (area, depth, _, _) =>
    modUnit u (fun x =>
      let at_ := area + 256 * t.tb * i
      let x := lsWrite at_ p.payload x
      { x with retCount := tset x.retCount sgi (256 * t.tb * i / max 1 (len / max 1 depth), 0)
               retained := x.retained.filter (fun r => r.2.2 != at_) ++ [(home, p.hdr, at_)] }) s

/-- Headers of a tile segment, and the retained copies (R204, R209). -/
def drainHeaders (u sgi : Nat) (c : Cast) (sg : Seg) (off : Nat) (ps : List Piece) (s : State) : State :=
  match sg.tile with
  | none => s
  | some t =>
    ps.zipIdx.foldl (fun s p =>
      let i := off / (256 * t.tb) + p.2
      retainTile u sgi i t sg.len (areaAddrD c sg.area (sg.off + 256 * t.tb * i)) p.1 (putTileHdr c t i p.1.hdr s)) s

/-- A drain to a segment, at the offset DCTR gave (R79, R115). `x'` is the unit with its histogram counted. -/
def drainSegment (u : Nat) (q : QOp) (off sgi ofmt rows g : Nat) (t : Tensor) (payload : List Byte) (x' : KUnit)
    (panel : Nat) (s : State) : Fired :=
  match (getPanel s panel).bind (·.cast), tget (getUnit s u).segs sgi with
  | some c, some sg =>
    match unitAccess u q.pc sgi off payload.length true s with
    | .wait f => f
    | .fault s => (s, [])
    | .lost s => (popOut u s, [])
    | .go ps s =>
      let s := modUnit u (fun x => { x with hists := x'.hists, drained := x'.drained }) s
      let tb := (sg.tile.map (·.tb)).getD 256
      let (pieces, s) := drainPieces u panel tb ofmt rows (drainRow x'.acc16 ofmt) q.key t
        (sg.tile.map fun d => off / (256 * d.tb)) payload s
      let s := popOut u (drainHeaders u sgi c sg off pieces (unitStore u ps payload s))
      (if ofmt = 11 then s else writeHist u ofmt g t s, [])
  | _, _ => (noSegment u q.pc s, [])

/-- The passes and accumulate-ins issued before a drain have taken effect (R78). -/
def drainReady (x : KUnit) (num : Nat) : Bool :=
  x.passes.all (fun p => num ≤ p.seq) && x.arrQ.all fun o =>
    match o.op with
    | .pass .. => num ≤ o.num
    | .accin .. => num ≤ o.num
    | _ => true

/-- The drain at the head of the output queue is performed; the vector cycles of its activation and bias are under the
ceiling (R78, R444). -/
def drainOp (u : Nat) (q : QOp) (s : State) : Fired :=
  let x := getUnit s u
  match q.op with
  | .drain out addr dest sgi ofmt ti act bias rows =>
    if !drainReady x q.num then (s, [])
    else if 0 < vecCycles q.op && withheld s u then (s, [9])
    else
      match tget x.tensors ti, panelOf s u with
      | some t, some p =>
        let g := histUse (getCast s p) x ti t
        match histReach p ofmt g t s with
        | .wait f => f
        | .fault s => (s, [])
        | .lost s => (popOut u s, [])
        | .go _ s =>
          let s := payIssue u (vecCycles q.op) s
          let x := getUnit s u
          let cols := tileCols x.acc16
          let b := bias.map fun a => words32 (lsRead x a (4 * cols)) cols
          let (payload, x') := drainPayload x ti g t ofmt act b rows
          if dest = 2 then drainSegment u q addr sgi ofmt rows g t payload x' p s
          else
            let s := setUnit u x' s
            let (ps, s) := drainPieces u p 256 ofmt rows (drainRow x.acc16 ofmt) q.key t none payload s
            let s := if dest = 0 then drainLocal u addr ps s else drainStrands u out ps s
            (if ofmt = 11 then s else writeHist u ofmt g t s, [])
      | _, _ => (popOut u s, [])
  | _ => (s, [])

/-- One beat of a drained tile goes onto its output strands. -/
def emitOp (u : Nat) (q : QOp) (s : State) : Fired :=
  match q.op with
  | .emit _ [] => (popOut u s, [])
  | .emit out ((b, h) :: t) =>
    let e := Entry.beat b h
    if outsRoom s u out e then
      (modUnit u (fun x =>
        { x with outQ := if t.isEmpty then x.outQ.tail else { q with op := .emit out t } :: x.outQ.tail }) (putOuts u out e s), [])
    else stallOuts u out e s
  | _ => (s, [])

/-- The head of the output queue steps: a drain begins, or a drained beat goes out. -/
def outputStep (u : Nat) (s : State) : Fired :=
  let x := getUnit s u
  if x.halted || x.run == .stopped then (s, [])
  else
    match x.outQ with
    | [] => (s, [])
    | q :: _ =>
      if opHazard x q then (s, [])
      else
        match q.op with
        | .emit .. => emitOp u q s
        | _ => drainOp u q s

/-- DRAIN (R78, R79, R115): operands are read at issue, with P from the problem register (R163). -/
def drainIssue (u : Nat) (out : BitVec 8) (dctr dest seg ofmt ti act : Nat) (bias : Bool) (bctr rows : Nat) (p : Bool)
    (s : State) : Fired :=
  let x := getUnit s u
  if p && x.problem.isNone then (noProblem u s, [])
  else
    let r := x.problem.getD 0
    let ofmt := if p then pbOfmt r else ofmt
    let ti := if p then pbTensor r else ti
    let act := if p then pbAct r else act
    let bias := if p then nbit (pbFlags r) 2 else bias
    let rows := if p then pbRows r else rows
    let a := ctrVal x dctr
    let b := ctrVal x bctr
    let cols := tileCols x.issue16
    let n := 256 * cdiv (rows * drainRow x.issue16 ofmt) 256
    let usesBias := bias && ofmt != 11
    let autos := (if dest = 1 then [] else [dctr]) ++ (if usesBias then [bctr] else [])
    if 4 ≤ x.outQ.length then (s, [])
    else if dest = 0 && !lsOk a n 256 then (lsFault u a s, [])
    else if usesBias && !lsOk b (4 * cols) 256 then (lsFault u b s, [])
    else
      let op := EngOp.drain out a dest seg ofmt ti act (if usesBias then some b else none) rows
      (retire u (autoStep u autos (setUnit u { x with outQ := x.outQ ++ [newOp x op], issued := x.issued + 1 } s)), [])

end Sys2Proof.Machine
end

