-- ==== Sys2Proof/Machine/Vector.lean ====
section
/-! DEFINITION. The vector engine (R92 to R101, R107, R115, R116): operands are read and results written when its engine
reaches an instruction. -/
namespace Sys2Proof.Machine
open Sys2Proof

/-- Hand an instruction to the vector engine, whose queue holds four (R107). Its local ranges are `reads` and `writes`
(address, bytes, alignment): the first bad address raises the local-store fault (R102). AUTO counters step (R119). -/
def pushVec (u : Nat) (op : EngOp) (ranges : List (Nat × Nat × Nat)) (autos : List Nat) (s : State) : Fired :=
  let x := getUnit s u
  if 4 ≤ x.vecQ.length then (s, [])
  else
    match ranges.find? fun r => !lsOk r.1 r.2.1 r.2.2 with
    | some r => (lsFault u r.1 s, [])
    | none => (retire u (autoStep u autos (setUnit u { x with vecQ := x.vecQ ++ [newOp x op], issued := x.issued + 1 } s)), [])

/-- Write local bytes. -/
def lsPut (u addr : Nat) (l : List Byte) (s : State) : State := modUnit u (lsWrite addr l) s

/-- FP32 words as bytes. -/
def wordBytes (l : List Nat) : List Byte := l.flatMap (bytesOf 4)

/-! ## VOP (R116) -/

/-- Signed value of a 32-bit word. -/
def i32 (a : Nat) : Int := sx 32 a

/-- One lane of a code that works on 32-bit words (R92, R116). -/
def vopLane (f fmt a b c : Nat) : Nat :=
  match f with
  | 0x00 => fadd a b
  | 0x01 => fsub a b
  | 0x02 => fmul a b
  | 0x03 => ffma a b c
  | 0x04 => fmin a b
  | 0x05 => fmax a b
  | 0x06 => b2n (feq a b)
  | 0x07 => b2n (flt a b)
  | 0x08 => b2n (fle a b)
  | 0x09 => quiet (if c % 2 ^ 32 != 0 then a else b)
  | 0x0C => (a + b) % 2 ^ 32
  | 0x0D => (a + 2 ^ 32 - b) % 2 ^ 32
  | 0x0E => (a * b) % 2 ^ 32
  | 0x0F => a &&& b
  | 0x10 => a ||| b
  | 0x11 => a ^^^ b
  | 0x12 => (a <<< (b % 32)) % 2 ^ 32
  | 0x13 => a >>> (b % 32)
  | 0x14 => toBits 32 (i32 a / (2 ^ (b % 32) : Nat))
  | 0x15 => if i32 a ≤ i32 b then a else b
  | 0x16 => if i32 a ≤ i32 b then b else a
  | 0x17 => b2n (a == b)
  | 0x18 => b2n (decide (i32 a < i32 b))
  | 0x19 => toInt32 a
  | 0x1A => fexp2 a
  | 0x1B => flog2 a
  | 0x1C => frecip a
  | 0x1D => frsqrt a
  | _ => activate fmt a

/-- The result bytes of a VOP over `n` lanes, its saturations counted. A conversion that names ACC96, whose unit of SUM
the manual does not give, has free values that follow the operand (log entries 3 and 34). -/
def vopBytes (u f fmt n a b c : Nat) (s : State) : List Byte × State :=
  let x := getUnit s u
  if f = 0x0A then
    let src := lsRead x a (n * fmtBits fmt / 8)
    if fmt = 11 then
      (wordBytes ((List.range n).map fun i =>
        Config.acc96Convert true (natOf ((src.drop (12 * i)).take 12)) % 2 ^ 32), s)
    else (wordBytes ((List.range n).map fun i => widen fmt (elemAt fmt src i)), s)
  else
    let av := words32 (lsRead x a (4 * n)) n
    if f = 0x0B then
      if fmt = 11 then (av.flatMap fun v => bytesOf 12 (Config.acc96Convert false v), s)
      else
        let r := av.map (narrow fmt)
        (packElems fmt (r.map (·.1)), bump (.narrowSat u) ((r.filter (·.2)).length) s)
    else
      let bv := if vopB f then words32 (lsRead x b (4 * n)) n else []
      let cv := if vopC f then words32 (lsRead x c (4 * n)) n else []
      (wordBytes (av.zipIdx.map fun e => vopLane f fmt e.1 (lgetD bv e.2 0) (lgetD cv e.2 0)), s)

/-- VOP. -/
def vopStep (u f a b c d rows fmt : Nat) (s : State) : Fired :=
  let x := getUnit s u
  let n := 128 * rows
  let na := if f = 0x0A then rows * rowLen fmt else 4 * n
  let nd := if f = 0x0B then rows * rowLen fmt else 4 * n
  pushVec u (.vop f fmt rows (ctrVal x a) (ctrVal x b) (ctrVal x c) (ctrVal x d))
    ([(ctrVal x a, na, 256)] ++ (if vopB f then [(ctrVal x b, 4 * n, 256)] else [])
      ++ (if vopC f then [(ctrVal x c, 4 * n, 256)] else []) ++ [(ctrVal x d, nd, 256)])
    ([a] ++ (if vopB f then [b] else []) ++ (if vopC f then [c] else []) ++ [d]) s

/-- The effect of a VOP. -/
def vopEffect (u f fmt rows a b c d : Nat) (s : State) : State :=
  let (l, s) := vopBytes u f fmt (128 * rows) a b c s
  lsPut u d l s

/-! ## VRED (R94, R115) -/

/-- The running combination over rows (R94). -/
def vredVal (max_ : Bool) (start : Option Nat) (rows : List (List Nat)) : Nat :=
  let one (r : List Nat) : Nat := if max_ then reduceMax r else reduceSum r
  let comb (t v : Nat) : Nat := if max_ then fmax t v else fadd t v
  (rows.foldl (fun (acc : Option Nat) r => some (match acc with
    | none => one r
    | some t => comb t (one r))) start).getD 0

/-- VRED. The running value at D is 4-byte aligned (R102 does not say; DESIGN CHOICE, log entry 83). -/
def vredStep (u : Nat) (max_ chain : Bool) (a d rows : Nat) (s : State) : Fired :=
  let x := getUnit s u
  pushVec u (.vred max_ chain (ctrVal x a) (ctrVal x d) rows) [(ctrVal x a, 512 * rows, 256), (ctrVal x d, 4, 4)] [a, d] s

/-- The effect of a VRED. -/
def vredEffect (u : Nat) (max_ chain : Bool) (a d rows : Nat) (s : State) : State :=
  let x := getUnit s u
  let rs := chunks 128 rows (words32 (lsRead x a (512 * rows)) (128 * rows))
  lsPut u d (bytesOf 4 (vredVal max_ (if chain then some (natOf (lsRead x d 4)) else none) rs)) s

/-! ## VSMAX (R97, R115) -/

/-- VSMAX: one block over `n` scores. The state at ST is 4-byte aligned (R102 does not say; DESIGN CHOICE, log entry 83). -/
def vsmaxStep (u sc st po n : Nat) (final : Bool) (s : State) : Fired :=
  let x := getUnit s u
  pushVec u (.vsmax (ctrVal x sc) (ctrVal x st) (ctrVal x po) n final)
    [(ctrVal x sc, 4 * n, 256), (ctrVal x st, if final then 16 else 12, 4), (ctrVal x po, 4 * n, 256)] [sc, st, po] s

/-- The effect of a VSMAX. -/
def vsmaxEffect (u sc st po n : Nat) (final : Bool) (s : State) : State :=
  let x := getUnit s u
  let r := softmaxBlock (natOf (lsRead x st 4)) (natOf (lsRead x (st + 4) 4)) (words32 (lsRead x sc (4 * n)) n)
  let s := lsPut u st (wordBytes ([r.1, r.2.1, r.2.2.1] ++ (if final then [frecip r.2.1] else []))) s
  lsPut u po (wordBytes r.2.2.2) s

/-! ## VTOPK (R98, R99, R115) -/

/-- Value and index pairs of packed data (log entry 14). -/
def pairsOf (l : List Byte) (n : Nat) : List (Nat × Nat) :=
  (chunks 8 n l).map fun e => (natOf (e.take 4), natOf (e.drop 4))

def pairBytes (l : List (Nat × Nat)) : List Byte := l.flatMap fun e => bytesOf 4 e.1 ++ bytesOf 4 e.2

/-- VTOPK. With P set, k is the problem's TOPK; of a TOPK of 0, for which R98 gives no result, nothing is written
(DESIGN CHOICE, log entry 82). -/
def vtopkStep (u a d w k rows : Nat) (first finish p : Bool) (s : State) : Fired :=
  let x := getUnit s u
  if p && x.problem.isNone then (noProblem u s, [])
  else
    let r := x.problem.getD 0
    let k := if p then pbTopk r else k
    let rows := if p then pbRows r else rows
    pushVec u (.vtopk (ctrVal x a) (ctrVal x d) (ctrVal x w) k rows first finish)
      ([(ctrVal x a, 1024 * rows, 256), (ctrVal x w, 8 * k, 256)] ++ (if finish then [(ctrVal x d, 8 * k, 256)] else []))
      ([a, w] ++ (if finish then [d] else [])) s

/-- The effect of a VTOPK: candidates join the working area; FINISH writes the sorted result. -/
def vtopkEffect (u a d w k rows : Nat) (first finish : Bool) (s : State) : State :=
  let x := getUnit s u
  let have_ := if first then [] else pairsOf (lsRead x w (8 * k)) k
  let l := pairBytes (topk k have_ (pairsOf (lsRead x a (1024 * rows)) (128 * rows)))
  let s := lsPut u w l s
  if finish then lsPut u d l s else s

/-! ## VSAMPLE and VRAND (R100, R101, R115) -/

/-- VSAMPLE: one categorical draw from the `n` weights at A. The seed is 8-byte aligned and the result 4-byte aligned
(R102 aligns beats only; DESIGN CHOICE, log entry 83). -/
def vsampleStep (u a d sd t n draw : Nat) (s : State) : Fired :=
  let x := getUnit s u
  pushVec u (.vsample (ctrVal x a) (ctrVal x d) (ctrVal x sd) (ctrVal x n) (ctrVal x t) draw)
    [(ctrVal x a, 4 * ctrVal x n, 256), (ctrVal x sd, 8, 8), (ctrVal x d, 4, 4)] [a, d, sd] s

/-- The effect of a VSAMPLE. -/
def vsampleEffect (u a d sd n t draw : Nat) (s : State) : State :=
  let x := getUnit s u
  let z := keyedRandom (natOf (lsRead x sd 8)) t draw 0
  let r := sample (words32 (lsRead x a (4 * n)) n) (uniform32 z)
  let s := lsPut u d (bytesOf 4 r.1) s
  if r.2 then bump (.samplerDegenerate u) 1 s else s

/-- VRAND: uniforms for lanes 0 to 128 × ROWS − 1. The seed is 8-byte aligned (DESIGN CHOICE, log entry 83). -/
def vrandStep (u d sd t draw rows : Nat) (s : State) : Fired :=
  let x := getUnit s u
  pushVec u (.vrand (ctrVal x d) (ctrVal x sd) (ctrVal x t) draw rows)
    [(ctrVal x sd, 8, 8), (ctrVal x d, 512 * rows, 256)] [d, sd] s

/-- The effect of a VRAND. -/
def vrandEffect (u d sd t draw rows : Nat) (s : State) : State :=
  let seed := natOf (lsRead (getUnit s u) sd 8)
  lsPut u d (wordBytes ((List.range (128 * rows)).map fun lane => uniform32 (keyedRandom seed t draw lane))) s

/-! ## The engine -/

/-- The effect of the instruction at the head of the vector queue. -/
def vecEffect (u : Nat) (op : EngOp) (s : State) : State :=
  match op with
  | .vop f fmt r a b c d => vopEffect u f fmt r a b c d s
  | .vred m ch a d r => vredEffect u m ch a d r s
  | .vsmax sc st po n final => vsmaxEffect u sc st po n final s
  | .vtopk a d w k r first finish => vtopkEffect u a d w k r first finish s
  | .vsample a d sd n t draw => vsampleEffect u a d sd n t draw s
  | .vrand d sd t draw r => vrandEffect u d sd t draw r s
  | _ => s

/-- The head of the vector queue is performed, unless an earlier instruction of the unit holds its bytes (R109) or the
ceiling withholds it (R444). -/
def vectorStep (u : Nat) (s : State) : Fired :=
  let x := getUnit s u
  if x.halted || x.run == .stopped then (s, [])
  else
    match x.vecQ with
    | [] => (s, [])
    | q :: t =>
      if opHazard x q then (s, [])
      else if withheld s u then (s, [9])
      else (vecEffect u q.op (modUnit u (fun x => { x with vecQ := t }) (payIssue u (vecCycles q.op) s)), [])

/-- A vector instruction is issued, and performed at once when its engine is free (R128). -/
def vecRun (u : Nat) (f : State → Fired) (s : State) : Fired :=
  let before := (getUnit s u).vecQ
  let r := f s
  if before.isEmpty && (getUnit r.1 u).vecQ.length = 1 then vectorStep u r.1 else r

end Sys2Proof.Machine
end

