-- ==== Sys2Proof/Machine/Engines.lean ====
section
/-! DEFINITION. The move engine and the strand engine (R115, R128 to R135, R204, R207, R210), spill returns (R136), and
the ordered reducers (R47, R173 to R175). -/
namespace Sys2Proof.Machine
open Sys2Proof

/-- A new header of a SEND or a tile STORE (R204): the sending unit as producer, untyped data, a CRC over the bytes as
read. FORMAT, ROWS, SCALE, TENSOR and INDEX are not stated: free values of the instruction and its data, within their
ranges (R20; log entry 3). -/
def newHdr (s : State) (u : Nat) (key : List Nat) (payload : List Byte) : Rec64 :=
  let f (n : Nat) : Nat := Config.headerField n key payload
  mkTileHdr (1 + f 0 % 12) 0xF 0 (1 + f 1 % 256) (payload.length / 256) (f 2 % 2 ^ 32) u 0 ((panelOf s u).getD 0)
    (f 3 % 2 ^ 32) (f 4 % 2 ^ 32) (getUnit s u).tileCount.toNat payload

/-- A unit has made one more tile (R205). -/
def countTile (u : Nat) (s : State) : State := modUnit u (fun x => { x with tileCount := x.tileCount + 1 }) s

/-! ## The move engine's queue -/

/-- The head of the move queue becomes `op`, or leaves it when done. -/
def setMoveQ (u : Nat) (op : Option EngOp) (s : State) : State :=
  modUnit u (fun x => { x with moveQ := match x.moveQ, op with
    | q :: t, some o => { q with op := o } :: t
    | _ :: t, none => t
    | [], _ => [] }) s

/-! ## LOAD and STORE -/

/-- The tiles of a verified LOAD, checked one after another (R207): header-file entries of those that pass, or the
number in the load of the first that fails. -/
def checkTiles (s : State) (c : Cast) (t : TileDecl) (i : Nat) : (n : Nat) → List Byte → List Rec64 → List Rec64 ⊕ Nat
  | 0, _, acc => .inl acc
  | n + 1, bytes, acc =>
    let h := tileHdrAt s c t i
    if tilePasses h (bytes.take (256 * t.tb)) && hdrBeats h = t.tb then
      checkTiles s c t (i + 1) n (bytes.drop (256 * t.tb)) (acc ++ [h])
    else .inr acc.length

/-- A verified LOAD does not start at a tile boundary or does not cover whole tiles: the segment fault (R207; log
entry 15). -/
def loadUnaligned (t : TileDecl) (off n : Nat) : Bool := off % (256 * t.tb) != 0 || n % (256 * t.tb) != 0

/-- The bytes of a LOAD enter the local store, and it completes. -/
def loadDone (u a : Nat) (bytes : List Byte) (s : State) : State :=
  setMoveQ u none (modUnit u (fun x => { lsWrite a bytes x with recover := none }) s)

/-- A LOAD from a tile segment with VERIFY: its tiles are checked; the first that fails is recovered (R207, R208). -/
def loadTiles (u a off n : Nat) (c : Cast) (sg : Seg) (t : TileDecl) (bytes : List Byte) (s : State) : Fired :=
  match checkTiles s c t (off / (256 * t.tb)) (n / (256 * t.tb)) bytes [] with
  | .inl hs =>
    (loadDone u a bytes (hs.zipIdx.foldl (fun s h => modUnit u (hdrFilePut (a + 256 * t.tb * h.2) h.1) s) s), [])
  | .inr k => startRecover u (areaAddrD c sg.area (sg.off + off + 256 * t.tb * k)) s

/-- LOAD, when the move engine reaches it. -/
def loadOp (u : Nat) (q : QOp) (a sgi off beats : Nat) (verify : Bool) (s : State) : Fired :=
  let n := 256 * beats
  match unitAccess u q.pc sgi off n false s with
  | .wait f => f
  | .fault s => (s, [])
  | .lost s => (setMoveQ u none s, [])
  | .go ps s =>
    let bytes := readPieces ps s
    match (panelOf s u).bind (getCast s), tget (getUnit s u).segs sgi with
    | some c, some sg =>
      match sg.tile with
      | some t =>
        if !verify then (loadDone u a bytes s, [])
        else if loadUnaligned t off n then (segFault u q.pc c sg off s, [])
        else loadTiles u a off n c sg t bytes s
      | none => (loadDone u a bytes s, [])
    | _, _ => (loadDone u a bytes s, [])

/-- A range of a tile segment cut at tile boundaries: tile number, offset in the range, bytes. -/
def tileCuts (tile : Nat) : (fuel : Nat) → (off at_ n : Nat) → List (Nat × Nat × Nat)
  | 0, _, _, _ => []
  | k + 1, off, at_, n =>
    if n = 0 then []
    else
      let here := min n (tile - off % tile)
      (off / tile, at_, here) :: tileCuts tile k (off + here) (at_ + here) (n - here)

/-- Headers of a STORE to a tile segment (R204): a range that is exactly the payload of a header-file entry carries its
header unchanged, to each tile it touches; any other range carries new ones. -/
def storeHdrs (u : Nat) (q : QOp) (a off n : Nat) (c : Cast) (t : TileDecl) (bytes : List Byte) (s : State) : State :=
  let kept := hdrFileFind (getUnit s u) a (n / 256)
  (tileCuts (256 * t.tb) (n / (256 * t.tb) + 2) off 0 n).foldl (fun s p =>
    match kept with
    | some h => putTileHdr c t p.1 h s
    | none => countTile u (putTileHdr c t p.1 (newHdr s u (p.1 :: q.key) ((bytes.drop p.2.1).take p.2.2)) s)) s

/-- A store covers a move queue beat and holds a move whose engine's queue is full: it waits for its acknowledgement
(R193). -/
def queueHeld (s : State) (u : Nat) (ps : List (Nat × Nat)) (bytes : List Byte) : Bool :=
  match (panelOf s u).bind (getCast s) with
  | some c => (queueBeats c).any fun q =>
      q.1 == .move &&
        (ps.foldl (fun (acc : Bool × List Byte) r =>
          (acc.1 || (r.1 ≤ q.2.2 && q.2.2 + 256 ≤ r.1 + r.2 &&
            (beatSlots (beatOf ((acc.2.drop (q.2.2 - r.1)).take 256))).any fun d => moveOk s d && moveQueueFull s (moveEngine d)),
           acc.2.drop r.2)) (false, bytes)).1
  | none => false

/-- A store covers a route queue beat while an earlier read or write of the unit has not been performed: it has release order
and takes effect only after them (R150, R249). -/
def releaseHeld (s : State) (u : Nat) (q : QOp) (ps : List (Nat × Nat)) : Bool :=
  let x := getUnit s u
  match (panelOf s u).bind (getCast s) with
  | some c =>
    (queueBeats c).any (fun b => b.1 == .route && ps.any fun r => r.1 ≤ b.2.2 && b.2.2 + 256 ≤ r.1 + r.2)
      && (queuedOps x).any fun o => o.num < q.num &&
        !((opReads o.op).isEmpty && (localWrites x o.op).isEmpty && (devReads x o.op).isEmpty && (devWrites x o.op).isEmpty)
  | none => false

/-- STORE, when the move engine reaches it. -/
def storeOp (u : Nat) (q : QOp) (a sgi off beats : Nat) (s : State) : Fired :=
  let n := 256 * beats
  match unitAccess u q.pc sgi off n true s with
  | .wait f => f
  | .fault s => (s, [])
  | .lost s => (setMoveQ u none s, [])
  | .go ps s =>
    let x := getUnit s u
    let bytes := lsRead x a n
    if queueHeld s u ps bytes || releaseHeld s u q ps then (s, [])
    else
      let s := match (panelOf s u).bind (getCast s), (tget x.segs sgi).bind (·.tile) with
        | some c, some t => storeHdrs u q a off n c t bytes s
        | _, _ => s
      (setMoveQ u none (unitStore u ps bytes s), [])

/-! ## SEND, RECV and FWD -/

/-- Put an entry on the strands of a mask and go on if they have room; otherwise the step waits. -/
def putIfRoom (u : Nat) (m : BitVec 8) (e : Entry) (f : State → State) (s : State) : Fired :=
  if outsRoom s u m e then (f (putOuts u m e s), []) else stallOuts u m e s

/-- The header of a SEND, which goes with its first beat, and whether it is a new one (R204). -/
def sendHdr (s : State) (u : Nat) (q : QOp) (a left : Nat) : Rec64 × Bool :=
  match hdrFileFind (getUnit s u) a left with
  | some h => (h, false)
  | none => (newHdr s u q.key (lsRead (getUnit s u) a (256 * left)), true)

/-- A beat of a SEND (R128). -/
def sendOp (u : Nat) (q : QOp) (out : BitVec 8) (a left : Nat) (first : Bool) (s : State) : Fired :=
  let h := if first then some (sendHdr s u q a left) else none
  putIfRoom u out (.beat (beatOf (lsRead (getUnit s u) a 256)) (h.map (·.1))) (fun s =>
    setMoveQ u (if left ≤ 1 then none else some (.send out (a + 256) (left - 1) false))
      (if (h.map (·.2)).getD false then countTile u s else s)) s

/-- What stays in the move queue after a RECV or FWD has taken a beat of strand `i`: nothing after its last one, but for
one that waits for the check of a tile still arriving (R207). -/
def afterTake (x : KUnit) (i left : Nat) (op : EngOp) : Option EngOp := if left ≤ 1 && !tileOpen x i then none else some op

/-- A RECV or FWD that has taken all its beats waits for the check of the tile they belong to (R207). -/
def heldMove (u i : Nat) (s : State) : Fired :=
  if tileOpen (getUnit s u) i then (s, [0]) else (setMoveQ u none s, [])

/-- A step of a RECV (R129): a beat enters the local store; a marker ends it or is dropped. -/
def recvOp (u pc i a left mka : Nat) (s : State) : Fired :=
  let q := getIn (getUnit s u) i
  match headOf q with
  | .beat b _ =>
    let s := takeHead u i (modUnit u (lsWrite a (beatBytes b)) s)
    (setMoveQ u (afterTake (getUnit s u) i left (.recv i (a + 256) (left - 1) mka)) s, [])
  | .marker m =>
    if markerReserved m then (markerFaultAt u pc m s, [])
    else if mka = 0 then (setMoveQ u none s, [])
    else (takeHead u i s, [])
  | _ => (s, [headCause q])

/-- A step of a FWD (R129): a beat or, with MKA 1, a marker goes on. -/
def fwdOp (u pc i : Nat) (out : BitVec 8) (left mka : Nat) (s : State) : Fired :=
  let q := getIn (getUnit s u) i
  match headOf q with
  | .beat b h =>
    putIfRoom u out (.beat b h) (fun s =>
      let s := takeHead u i s
      setMoveQ u (afterTake (getUnit s u) i left (.fwd i out (left - 1) mka)) s) s
  | .marker m =>
    if markerReserved m then (markerFaultAt u pc m s, [])
    else if mka = 0 then (setMoveQ u none s, [])
    else if mka = 1 then putIfRoom u out (.marker m) (takeHead u i) s
    else (takeHead u i s, [])
  | _ => (s, [headCause q])

/-- The step of the operation at the head of the move queue (R107, R128). -/
def moveOp (u : Nat) (q : QOp) (s : State) : Fired :=
  match q.op with
  | .load a sg off b v => loadOp u q a sg off b v s
  | .store a sg off b => storeOp u q a sg off b s
  | .send out a left first => sendOp u q out a left first s
  | .recv i a left mka => if left = 0 then heldMove u i s else recvOp u q.pc i a left mka s
  | .fwd i out left mka => if left = 0 then heldMove u i s else fwdOp u q.pc i out left mka s
  | _ => (s, [])

/-- The head of the move queue steps, unless an earlier instruction of the unit holds its bytes (R109). -/
def moveStep (u : Nat) (s : State) : Fired :=
  let x := getUnit s u
  if x.halted || x.run == .stopped then (s, [])
  else
    match x.moveQ with
    | [] => (s, [])
    | q :: _ => if opHazard x q then (s, []) else moveOp u q s

/-- Hand an operation to the move engine, whose queue holds four (R107). Its local range is `range` (address, bytes): a
bad address raises the local-store fault (R102). A LOAD or STORE begins when the engine is free (R128). AUTO counters
step (R119). -/
def pushMove (u : Nat) (op : EngOp) (range : Option (Nat × Nat)) (autos : List Nat) (s : State) : Fired :=
  let x := getUnit s u
  if 4 ≤ x.moveQ.length then (s, [])
  else
    match range.filter fun r => !lsOk r.1 r.2 256 with
    | some r => (lsFault u r.1 s, [])
    | none =>
      let s := retire u (autoStep u autos (setUnit u { x with moveQ := x.moveQ ++ [newOp x op], issued := x.issued + 1 } s))
      if x.moveQ.isEmpty && op.stepsAtOnce then moveStep u s else (s, [])

/-- LOAD (R115, R119). -/
def loadIssue (u l sgi o beats : Nat) (verify : Bool) (s : State) : Fired :=
  let x := getUnit s u
  pushMove u (.load (ctrVal x l) sgi (ctrVal x o) beats verify) (some (ctrVal x l, 256 * beats)) [l, o] s

/-- STORE (R115, R119). -/
def storeIssue (u l sgi o beats : Nat) (s : State) : Fired :=
  let x := getUnit s u
  pushMove u (.store (ctrVal x l) sgi (ctrVal x o) beats) (some (ctrVal x l, 256 * beats)) [l, o] s

/-- SEND (R115, R119). -/
def sendIssue (u : Nat) (out : BitVec 8) (l beats : Nat) (s : State) : Fired :=
  let x := getUnit s u
  pushMove u (.send out (ctrVal x l) beats true) (some (ctrVal x l, 256 * beats)) [l] s

/-- RECV (R115, R119). -/
def recvIssue (u : Nat) (inp : BitVec 8) (l beats mka : Nat) (s : State) : Fired :=
  let x := getUnit s u
  pushMove u (.recv (maskOne inp) (ctrVal x l) beats mka) (some (ctrVal x l, 256 * beats)) [l] s

/-- FWD (R115). -/
def fwdIssue (u : Nat) (inp out : BitVec 8) (beats mka : Nat) (s : State) : Fired :=
  pushMove u (.fwd (maskOne inp) out beats mka) none [] s

/-! ## The strand engine -/

/-- The head of the strand queue becomes `op`, or leaves it when done. -/
def setStrandQ (u : Nat) (op : Option EngOp) (s : State) : State :=
  modUnit u (fun x => { x with strandQ := match x.strandQ, op with
    | q :: t, some o => { q with op := o } :: t
    | _ :: t, none => t
    | [], _ => [] }) s

/-- Hand an operation to the strand engine, whose queue holds four (R107). -/
def pushStrand (u : Nat) (op : EngOp) (s : State) : Fired :=
  let x := getUnit s u
  if 4 ≤ x.strandQ.length then (s, [])
  else (retire u (setUnit u { x with strandQ := x.strandQ ++ [newOp x op], issued := x.issued + 1 } s), [])

/-- Select markers (R126): the chosen side. -/
def selectOf (m : BitVec 16) : Option Bool :=
  if m.toNat / 4096 = 3 then some false else if m.toNat / 4096 = 4 then some true else none

/-- Group-end markers end an item of BEATS = 0 mode. -/
def groupEnd (m : BitVec 16) : Bool := m.toNat / 4096 = 2

/-- The mask of one strand. -/
def maskOf (o : Nat) : BitVec 8 := BitVec.ofNat 8 (2 ^ o)

/-- The item in hand ends, or goes on with `done` beats moved. -/
def afterBeat (beats items : Nat) (sel : Bool) (done : Nat) : Option (Nat × Option (Bool × Nat)) :=
  if beats != 0 && done = beats then (if items ≤ 1 then none else some (items - 1, none))
  else some (items, some (sel, done))

/-- What is left of the items when an item ends at a group-end. -/
def afterItem (items : Nat) : Option (Nat × Option (Bool × Nat)) := if items ≤ 1 then none else some (items - 1, none)

/-- A STEER in hand: its strands and what is left of it. -/
structure SteerOp where
  pc : Nat
  d : Nat
  c : Nat
  o0 : Nat
  o1 : Nat
  beats : Nat
  items : Nat
deriving DecidableEq, Repr, Inhabited

/-- The output a select marker chooses. -/
def SteerOp.out (o : SteerOp) (sel : Bool) : BitVec 8 := maskOf (if sel then o.o1 else o.o0)

/-- Both outputs. -/
def SteerOp.both (o : SteerOp) : BitVec 8 := maskOf o.o0 ||| maskOf o.o1

/-- The STEER that stays in the strand queue. -/
def SteerOp.next (o : SteerOp) (r : Option (Nat × Option (Bool × Nat))) : Option EngOp :=
  r.map fun v => .steer o.d o.c o.o0 o.o1 o.beats v.1 v.2

/-- A STEER or MERGE whose last item has ended waits for the check of the tile its last beats belong to (R207): it stays in
the queue with no item left. -/
def heldItem (x : KUnit) (i : Nat) (held : EngOp) : Option EngOp → Option EngOp
  | some op => some op
  | none => if tileOpen x i then some held else none

/-- A STEER or MERGE with no item left. -/
def heldStrand (u i : Nat) (s : State) : Fired :=
  if tileOpen (getUnit s u) i then (s, [0]) else (setStrandQ u none s, [])

/-- What stays of a STEER after beat `done + 1` of an item. -/
def SteerOp.after (o : SteerOp) (x : KUnit) (side : Bool) (done : Nat) : Option EngOp :=
  heldItem x o.d (.steer o.d o.c o.o0 o.o1 o.beats 0 (some (side, done + 1))) (o.next (afterBeat o.beats o.items side (done + 1)))

/-- A marker of CTL or DATA that goes to both outputs and is consumed (R132). -/
def SteerOp.spread (o : SteerOp) (u strand : Nat) (m : BitVec 16) (s : State) : Fired :=
  putIfRoom u o.both (.marker m) (takeHead u strand) s

/-- A marker of DATA goes to the item's output; the group-end of an item in BEATS = 0 mode ends the item, and `sel` says
whether the select marker is still at the head of CTL (R131, R132). -/
def SteerOp.dataMarker (o : SteerOp) (u : Nat) (side first : Bool) (m : BitVec 16) (s : State) : Fired :=
  putIfRoom u (o.out side) (.marker m) (fun s =>
    let s := takeHead u o.d s
    if o.beats = 0 && groupEnd m then
      setStrandQ u (o.next (afterItem o.items)) (if first then takeHead u o.c s else s)
    else s) s

/-- A beat of DATA goes to the item's output; the first one consumes the select marker (R131). -/
def SteerOp.dataBeat (o : SteerOp) (u : Nat) (side : Bool) (done : Nat) (b : Beat) (h : Option Rec64) (s : State) : Fired :=
  putIfRoom u (o.out side) (.beat b h) (fun s =>
    let s := takeHead u o.d s
    setStrandQ u (o.after (getUnit s u) side done) (if done = 0 then takeHead u o.c s else s)) s

/-- The non-select marker at the head of CTL, if there is one (R132). -/
def ctlMarker (x : KUnit) (c : Nat) : Option (BitVec 16) :=
  match headOf (getIn x c) with
  | .marker k => if (selectOf k).isNone then some k else none
  | _ => none

/-- STEER: the item goes to the chosen output. `cur` is the item in hand, none between items (R131). -/
def SteerOp.item (o : SteerOp) (u : Nat) (side : Bool) (cur : Option Nat) (s : State) : Fired :=
  let q := getIn (getUnit s u) o.d
  match headOf q with
  | .beat b h => o.dataBeat u side (cur.getD 0) b h s
  | .marker m =>
    if markerReserved m then (markerFaultAt u o.pc m s, [])
    else if cur.isNone && markerBroadcast m then o.spread u o.d m s
    else o.dataMarker u side cur.isNone m s
  | _ => (s, [headCause q])

/-- STEER between items without a select marker: a broadcast marker at the head of DATA goes on at once; everything else
waits for CTL (R131, R132, R135). -/
def SteerOp.idle (o : SteerOp) (u : Nat) (s : State) : Fired :=
  let x := getUnit s u
  match headOf (getIn x o.d) with
  | .marker m =>
    if markerReserved m then (markerFaultAt u o.pc m s, [])
    else if markerBroadcast m then o.spread u o.d m s
    else (s, [headCause (getIn x o.c)])
  | _ => (s, [headCause (getIn x o.c)])

/-- One step of a STEER (R131, R132, R135). A non-select marker at the head of CTL goes first, inside an item too: R132
says that it does not wait for data, and not where it goes among an item's beats (DESIGN CHOICE, log entry 84). -/
def steerStep (u : Nat) (o : SteerOp) (cur : Option (Bool × Nat)) (s : State) : Fired :=
  let x := getUnit s u
  match ctlMarker x o.c with
  | some k => if markerReserved k then (markerFaultAt u o.pc k s, []) else o.spread u o.c k s
  | none =>
    match cur, headOf (getIn x o.c) with
    | some (side, done), _ => o.item u side (some done) s
    | none, .marker k =>
      match selectOf k with
      | some side => o.item u side none s
      | none => (s, [0])
    | none, _ => o.idle u s

/-- The join of broadcast markers at IN0 and IN1 (R134): one copy, or the fault when they differ. The fault records the
second marker, which the model takes to be the one at the head of the input that the select did not choose (R134 does not
say which of two is the second; DESIGN CHOICE, log entry 84). -/
def mergeJoin (u pc in0 in1 out : Nat) (a b : BitVec 16) (s : State) : Fired :=
  if a = b then putIfRoom u (maskOf out) (.marker a) (fun s => takeHead u in1 (takeHead u in0 s)) s
  else (markerFaultAt u pc b s, [])

/-- The MERGE that stays in the strand queue. -/
def mergeOp (in0 in1 c out beats : Nat) (r : Option (Nat × Option (Bool × Nat))) : Option EngOp :=
  r.map fun v => .merge in0 in1 c out beats v.1 v.2

/-- What stays of a MERGE after beat `done + 1` of an item from input `me`. -/
def mergeAfter (x : KUnit) (me in0 in1 c out beats items : Nat) (sel : Bool) (done : Nat) : Option EngOp :=
  heldItem x me (.merge in0 in1 c out beats 0 (some (sel, done + 1)))
    (mergeOp in0 in1 c out beats (afterBeat beats items sel (done + 1)))

/-- Take the select marker at the head of CTL when it is still there. -/
def eatSelect (u c : Nat) (first : Bool) (s : State) : State := if first then takeHead u c s else s

/-- A broadcast marker stands at the head of the selected input: MERGE waits for the other (R134). The marker of the
other input is the second one of a join (DESIGN CHOICE, log entry 84). -/
def mergeWait (u pc me other out : Nat) (m : BitVec 16) (s : State) : Fired :=
  match headOf (getIn (getUnit s u) other) with
  | .marker k =>
    if markerReserved k then (markerFaultAt u pc k s, [])
    else if markerBroadcast k then mergeJoin u pc me other out m k s
    else (s, [0])
  | .spilled => (s, [5])
  | _ => (s, [0])

/-- MERGE: what stands at the head of the selected input goes to OUT (R133, R134). `first` is set between items, when
the select marker is still at the head of CTL. A non-select marker at the head of CTL waits while an item is in hand (R133
does not say where it goes among the item's beats; DESIGN CHOICE, log entry 84). -/
def mergeTake (u pc in0 in1 c out beats items : Nat) (sel : Bool) (done : Nat) (first : Bool) (s : State) : Fired :=
  let me := if sel then in1 else in0
  let q := getIn (getUnit s u) me
  match headOf q with
  | .beat b h =>
    putIfRoom u (maskOf out) (.beat b h) (fun s =>
      let s := takeHead u me s
      setStrandQ u (mergeAfter (getUnit s u) me in0 in1 c out beats items sel done) (eatSelect u c first s)) s
  | .marker m =>
    if markerReserved m then (markerFaultAt u pc m s, [])
    else if markerBroadcast m then mergeWait u pc me (if sel then in0 else in1) out m s
    else putIfRoom u (maskOf out) (.marker m) (fun s =>
      if beats = 0 && groupEnd m then
        setStrandQ u (mergeOp in0 in1 c out beats (afterItem items)) (eatSelect u c first (takeHead u me s))
      else takeHead u me s) s
  | _ => (s, [headCause q])

/-- Both inputs have the same broadcast marker at their heads (R134). -/
def joinReady (x : KUnit) (in0 in1 : Nat) : Option (BitVec 16) :=
  match headOf (getIn x in0), headOf (getIn x in1) with
  | .marker a, .marker b => if markerBroadcast a && a = b then some a else none
  | _, _ => none

/-- MERGE between items (R133, R134, R135). -/
def mergeIdle (u pc in0 in1 c out beats items : Nat) (s : State) : Fired :=
  let x := getUnit s u
  match joinReady x in0 in1 with
  | some a => mergeJoin u pc in0 in1 out a a s
  | none =>
    match headOf (getIn x c) with
    | .marker k =>
      if markerReserved k then (markerFaultAt u pc k s, [])
      else
        match selectOf k with
        | none => putIfRoom u (maskOf out) (.marker k) (takeHead u c) s
        | some sel => mergeTake u pc in0 in1 c out beats items sel 0 true s
    | _ => (s, [headCause (getIn x c)])

/-- The step of the operation at the head of the strand queue (R107, R128). -/
def strandOp (u : Nat) (q : QOp) (s : State) : Fired :=
  match q.op with
  | .mark out m => putIfRoom u out (.marker m) (setStrandQ u none) s
  | .steer d c o0 o1 beats items cur =>
    if items = 0 then heldStrand u d s else steerStep u ⟨q.pc, d, c, o0, o1, beats, items⟩ cur s
  | .merge in0 in1 c out beats items none => mergeIdle u q.pc in0 in1 c out beats items s
  | .merge in0 in1 c out beats items (some (sel, done)) =>
    if items = 0 then heldStrand u (if sel then in1 else in0) s
    else mergeTake u q.pc in0 in1 c out beats items sel done false s
  | _ => (s, [])

/-- The head of the strand queue steps (R128). -/
def strandStep (u : Nat) (s : State) : Fired :=
  let x := getUnit s u
  if x.halted || x.run == .stopped then (s, [])
  else
    match x.strandQ with
    | [] => (s, [])
    | q :: _ => strandOp u q s

/-! ## Spill returns and resent tiles -/

/-- SPILL_RETURN: the oldest spilled entry returns to the on-chip queue (R136, R138). -/
def execSpillReturn (u : BitVec 9) (strand : BitVec 3) (s : State) : Result :=
  let x := getUnit s u.toNat
  let q := getIn x strand.toNat
  .next (match q.spilled with
    | e :: t =>
      if q.laneRoom e.isBeat && !x.halted then
        let q' := { q with queue := q.queue ++ [e], spilled := t, spillOff := if t.isEmpty then 0 else (q.spillOff + 1) % 16 }
        let s := setUnit u.toNat (setIn strand.toNat q' x) s
        match panelOf s u.toNat with
        | some p => modCast p (fun c => { c with spillUsed := spillInUse s p }) s
        | none => s
      else s
    | [] => s)

/-- The oldest kept tile that waits for a destination, and the unit that keeps it (R210). -/
def keptFor (s : State) (d : Dest) : Option (Nat × SentTile) :=
  s.units.findSome? fun ux =>
    (ux.2.outs.findSome? fun o => o.2.kept.find? fun t => t.waiting.contains d).map fun t => (ux.1, t)

/-- TILE_RESEND: the destination asks for its failing tile; a unit of this module resends it with FLAGS[2] set, a
module at the far end of a link is asked by RESEND_REQ (R210, R390; log entry 16). -/
def execTileResend (u : BitVec 9) (strand : BitVec 3) (s : State) : Result :=
  let i := strand.toNat
  let q := getIn (getUnit s u.toNat) i
  .next (match (q.queue ++ q.spilled).findSome? fun e => match e with | .hole h _ => some h | _ => none with
    | none => s
    | some h =>
      match q.fromLink with
      | some (p, ch) =>
        if (getPort s p).st == .up then sendService p (serviceHdr 7 0 0 ch (fld h 0x18 8) 0) [] s else s
      | none =>
        match keptFor s (.strand u.toNat i) with
        | some t => fillHole u.toNat i (resentHdr t.2.hdr) t.2.beats (bump (.resends t.1) 1 s)
        | none => s)

/-! ## Ordered reducers (R173 to R175) -/

/-- A partial of an entry passes (R174, R207): its header and CRC, and its place's length. -/
def partialOk (s : State) (r : Reducer) (k : Nat) : Bool :=
  let h : Rec64 := BitVec.ofNat 512 (natOf (rd s (lgetD r.hdrs k 0) 64))
  tilePasses h (rd s (lgetD r.slots k 0) (4 * r.elems))

/-- Add a partial into the running sums: r = P_0, then r = fl32(r + P_j) (R47). -/
def addPartial (sums part : List Nat) : List Nat :=
  if sums.isEmpty then part else (sums.zip part).map fun e => fadd e.1 e.2

/-- A partial that fails its check is recovered from its producer's retained copy (R208). -/
def recheckPartial (r : Reducer) (j : Nat) (s : State) : State :=
  if partialOk s r j then s
  else
    let a := lgetD r.slots j 0
    match findRetained s a with
    | some c =>
      wr a c.2.2 (wr (lgetD r.hdrs j 0) (recBytes c.2.1) (bump (.reRequests (stackOf a)) 1 (bump (.memCrc (stackOf a)) 1 s)))
    | none => bump (.memCrc (stackOf a)) 1 s

/-- A reducer with its next partial added to the sums (R174). -/
def addedPartial (s : State) (r : Reducer) (j : Nat) : Reducer :=
  let part := words32 (rd s (lgetD r.slots j 0) (4 * r.elems)) r.elems
  { r with
    nextPart := j + 1
    sum := (addPartial (r.sum.map (·.toNat)) part).map (BitVec.ofNat 32)
    ready := r.ready.filter (· != j)
    done := j + 1 = r.parts }

def setReducer (key : Nat) (r : Reducer) (s : State) : State := { s with reducers := tset s.reducers key r }

/-- Addresses of a reduction entry that its engine reads or writes, with their bytes: a slot, or the output. -/
def slotRanges (r : Reducer) (j : Nat) : List (Nat × Nat) := [(lgetD r.slots j 0, 4 * r.elems), (lgetD r.hdrs j 0, 64)]
def outRanges (r : Reducer) : List (Nat × Nat) := [(r.out, 4 * r.elems), (r.outHdr, 64)]

/-- Add the partials that are ready, in ascending order (R174). A partial that fails its check is recovered as R208
says: its producer's retained copy, else it is lost (R211). -/
def reduceReady (key : Nat) : (fuel : Nat) → State → State
  | 0, s => s
  | k + 1, s =>
    match tget s.reducers key with
    | none => s
    | some r =>
      let j := r.nextPart
      if !r.ready.contains j || r.parts ≤ j then s
      else
        let a := lgetD r.slots j 0
        match engineRanges r.panel (slotRanges r j) false s with
        | .go _ s =>
          let s := recheckPartial r j s
          if partialOk s r j then
            let s := setReducer key (addedPartial s r j) s
            reduceReady key k (if j + 1 = r.parts then sendSignals r.empties s else s)
          else
            lostForPanel r.panel (dataLost (stackOf a) (loseRange a (4 * r.elems) s))
        | .wait f => f.1
        | .lost s => s
        | .fault s => s

/-- REDUCER_SLOT_READY: the slice has performed the store of a slot's last beat (R174). -/
def execReducerSlotReady (region entry : BitVec 4) (slot : BitVec 8) (s : State) : Result :=
  let key := 16 * region.toNat + entry.toNat
  .next (match tget s.reducers key with
    | none => s
    | some r =>
      if r.stored.contains slot.toNat then
        let r' := { r with stored := r.stored.filter (· != slot.toNat), ready := insNat r.ready slot.toNat }
        reduceReady key (r.parts + 1) (setReducer key r' s)
      else s)

/-- The FP32 result tile of a reduction entry is written (R174): a tile of a device engine, PRODUCER the base-die number,
SOURCE 1, ROWS of the partials. INDEX is not stated: a free value of the entry and its data (log entry 3). -/
def putResult (key : Nat) (r : Reducer) (s : State) : State :=
  let payload := r.sum.flatMap fun w => bytesOf 4 w.toNat
  let h0 : Rec64 := BitVec.ofNat 512 (natOf (rd s (lgetD r.hdrs 0 0) 64))
  let die := key / 64
  let (q, s) := nextTile r.panel die s
  let h := mkTileHdr 10 (fld h0 2 1) 0 (fld h0 4 2) (payload.length / 256) one32 die 1 r.panel r.tensor.toNat
    (Config.headerField 4 [key, r.tensor.toNat] payload % 2 ^ 32) q payload
  wr r.outHdr (recBytes h) (wr r.out payload s)

/-- REDUCER_RESULT_WRITE: the FP32 result tile, with header and CRC, and the full signals (R174, R175); partials of the
next use that are ready are then added. -/
def execReducerResultWrite (region entry : BitVec 4) (s : State) : Result :=
  let key := 16 * region.toNat + entry.toNat
  .next (match tget s.reducers key with
    | none => s
    | some r =>
      if !r.done then s
      else
        match engineRanges r.panel (outRanges r) true s with
        | .go _ s =>
          let s := setReducer key { r with nextPart := 0, sum := [], done := false } (putResult key r s)
          reduceReady key (r.parts + 1) (sendSignals r.fulls s)
        | .wait f => f.1
        | .lost s => s
        | .fault s => s)

end Sys2Proof.Machine
end

