-- ==== Sys2Proof/Machine/Units.lean ====
section
/-! DEFINITION. The commands of the knit units: presenting an instruction to a sequencer (R107), the steps of the engines
(R128), and the count of a judged cycle (R144 to R146). What each instruction does stands with its engine. -/
namespace Sys2Proof.Machine
open Sys2Proof

/-! ## The judged cycle (R144, R145) -/

/-- Operations at the head of a unit's engines and its passes in flight: number in program order, and the engine that
holds it: 0 move, 1 strand, 2 output, 3 array, 4 vector, 5 a pass. -/
def headNums (x : KUnit) : List (Nat × Nat) :=
  let head (l : List QOp) (e : Nat) : List (Nat × Nat) := (l.head?.map fun q => (q.num, e)).toList
  head x.moveQ 0 ++ head x.strandQ 1 ++ head x.outQ 2 ++ head x.arrQ 3 ++ head x.vecQ 4 ++ x.passes.map fun p => (p.seq, 5)

/-- The oldest operation a unit has not completed. -/
def oldestOp (x : KUnit) : Option (Nat × Nat) :=
  (headNums x).foldl (fun b e => match b with
    | none => some e
    | some c => if e.1 < c.1 then some e else some c) none

/-- What the oldest incomplete instruction of a unit waits for: nothing when it makes progress. `held` is what the
instruction that the sequencer holds waits for, which is the oldest when every engine has finished. -/
def oldestWaits (s : State) (u : Nat) (held : List Nat) : List Nat :=
  let x := getUnit s u
  match oldestOp x with
  | none => held
  | some (n, e) =>
    match e with
    | 0 => (moveStep u s).2
    | 1 => (strandStep u s).2
    | 2 => (outputStep u s).2
    | 3 => (arrayStep u s).2
    | 4 => (vectorStep u s).2
    | _ => ((x.passes.find? fun p => p.seq == n).map (passWaits s u)).getD []

/-- The order in which a cycle is counted under one of several causes (R145). -/
def firstCause (l : List Nat) : Option Nat := [9, 8, 2, 10, 5, 6, 7, 11, 3, 4, 1, 0].find? l.contains

/-- The bank of a local beat (R102). -/
def bankOf (a : Nat) : Nat := a / 256 % 8

/-- An operation makes a local access in the present cycle: no earlier instruction holds its bytes (R109), and what else
it waits for is there. -/
def makesAccess (s : State) (u : Nat) (q : QOp) : Bool :=
  let x := getUnit s u
  !opHazard x q && match q.op with
    | .plane none .. => !x.shadowFull
    | .pass none _ _ _ _ _ keep .. => (issueWaits s u keep).isEmpty
    | .accin none .. => x.passes.all (·.add) && !drainAhead x q.num
    | .send out .. => outsRoom s u out (.beat 0 none)
    | .recv i _ left _ => left != 0 && (match headOf (getIn x i) with
      | .beat _ _ => true
      | _ => false)
    | .drain .. => drainReady x q.num
    | .load .. | .store .. => true
    | .vop .. | .vred .. | .vsmax .. | .vtopk .. | .vsample .. | .vrand .. => !withheld s u
    | _ => false

/-- The operation is a plane load: the loader works beside the input stage (R66). -/
def QOp.isPlane (q : QOp) : Bool := match q.op with
  | .plane .. => true
  | _ => false

/-- The local beats that meet in the present cycle: the next one of the activation input, of the plane loader and of each
other engine's oldest operation (R103). -/
def nextBeats (s : State) (u : Nat) : List Nat :=
  let x := getUnit s u
  let first (q : Option QOp) : List Nat :=
    ((q.filter (makesAccess s u)).bind fun q => ((opReads q.op ++ localWrites x q.op).head?).map (·.1)).toList
  first (x.arrQ.find? fun q => !q.isPlane) ++ first (x.arrQ.find? (·.isPlane)) ++ first x.outQ.head? ++ first x.vecQ.head?
    ++ first x.moveQ.head?

/-- Accesses of the present cycle that wait because another one meets them at one bank: one lost cycle when there is one
(R103). The model takes the accesses of a cycle to be the next beat of each of them (DESIGN CHOICE, log entry 30). -/
def bankLost (s : State) (u : Nat) : Nat :=
  let l := (nextBeats s u).map bankOf
  b2n (l.length != l.eraseDups.length)

/-- A cycle lost to a bank conflict is counted, after HALT too while the engines finish (R103, R105, R111). -/
def countLost (u : Nat) (s0 s : State) : State :=
  let x := getUnit s0 u
  if x.halted || !(x.run == .running || x.run == .ended) || bankLost s0 u = 0 then s
  else bump (.bankConflict u) (bankLost s0 u) s

/-- One cycle of a unit is judged after a command `f` of it: BUSY or one stall cause between CAST_ON and HALT (R144), by
the state `s0` the command found; and the cycle passes. -/
def tally (u : Nat) (s0 : State) (f : Fired) : State :=
  let x := getUnit s0 u
  let s := countLost u s0 (modUnit u (fun x => { x with cycle := x.cycle + 1 }) f.1)
  if x.run == .running && !x.halted then
    match firstCause (oldestWaits s0 u f.2) with
    | some c => stall u c s
    | none => bump (.busy u) 1 s
  else s

/-! ## Presenting an instruction -/

/-- A unit's sequencer holds this instruction: it runs, and the word at its address is the instruction's (R107; log
entry 10). -/
def holds (i : Instr) (u : Nat) (s : State) : Bool :=
  let x := getUnit s u
  x.run == .running && !x.halted && fetchWord x == some (BitVec.ofNat 64 (iword i))

/-- What a BARRIER or CLAIM that has begun waits for (R140). -/
def waitCauses (s : State) (u : Nat) : List Nat :=
  match (getUnit s u).wait with
  | .none => []
  | .barrier .. => [4]
  | .claim key .. => if ((tgetD s.claims (counterOf key) []).any fun c => c.unit == u && !c.due) then [11] else []

/-- A sequencer presents an instruction for one cycle: it begins, goes on waiting, or is held (R107). Presented to a unit
that does not hold it, it does nothing (log entry 10). -/
def issue (i : Instr) (u : BitVec 9) (f : Nat → State → Fired) (s : State) : State :=
  let n := u.toNat
  if !holds i n s then s
  else if (getUnit s n).wait == .none then tally n s (f n s)
  else tally n s (s, waitCauses s n)

/-! ## The control engine (R114, R120, R130, R140, R161 to R170) -/

def execNopInstruction (u : BitVec 9) (s : State) : Result :=
  .next (issue (.nopInstruction u) u (fun u s => (retire u s, [])) s)

def execHalt (u : BitVec 9) (s : State) : Result := .next (issue (.halt u) u haltStep s)

def execJump (u : BitVec 9) (target : BitVec 10) (s : State) : Result :=
  .next (issue (.jump u target) u (fun u s => (goTo u target.toNat s, [])) s)

def execLoop (u : BitVec 9) (out : BitVec 8) (target : BitVec 10) (ctr : BitVec 4) (mark : Bool) (s : State) : Result :=
  .next (issue (.loop u out target ctr mark) u (fun u s => loopStep u ctr.toNat target.toNat out mark s) s)

def execBrm (u : BitVec 9) (inp : BitVec 8) (target : BitVec 10) (type : BitVec 4) (keep argm : Bool) (arg : BitVec 12)
    (s : State) : Result :=
  .next (issue (.brm u inp target type keep argm arg) u
    (fun u s => brmStep u (maskOne inp) target.toNat type.toNat keep argm arg.toNat s) s)

def execSemWait (u : BitVec 9) (sem : BitVec 5) (s : State) : Result :=
  .next (issue (.semWait u sem) u (fun u s => semWaitStep u sem.toNat s) s)

def execSemSignal (u : BitVec 9) (sem : BitVec 5) (route : BitVec 3) (s : State) : Result :=
  .next (issue (.semSignal u sem route) u (fun u s => semSignalStep u sem.toNat route.toNat s) s)

def execBarrier (u : BitVec 9) (inp out : BitVec 8) (id : BitVec 12) (s : State) : Result :=
  .next (issue (.barrier u inp out id) u (fun u s => barrierStep u id.toNat inp out s) s)

def execClaim (u : BitVec 9) (ctr : BitVec 4) (region : Bool) (list : BitVec 4) (target : BitVec 10) (s : State) :
    Result :=
  .next (issue (.claim u ctr region list target) u
    (fun u s => claimStep u ctr.toNat (unitList u region list.toNat) target.toNat s) s)

def execDoneTile (u : BitVec 9) (ctr : BitVec 4) (region : Bool) (list : BitVec 4) (s : State) : Result :=
  .next (issue (.doneTile u ctr region list) u (fun u s => doneTileStep u ctr.toNat (unitList u region list.toNat) s) s)

def execProb (u : BitVec 9) (ctr seg : BitVec 4) (s : State) : Result :=
  .next (issue (.prob u ctr seg) u (fun u s => probStep u ctr.toNat seg.toNat s) s)

def execMwait (u : BitVec 9) (tag : BitVec 16) (s : State) : Result :=
  .next (issue (.mwait u tag) u (fun u s => mwaitStep u tag s) s)

def execCset (u : BitVec 9) (ctr : BitVec 4) (part : BitVec 2) (apply : Bool) (value : BitVec 32) (s : State) : Result :=
  .next (issue (.cset u ctr part apply value) u (fun u s => csetStep u ctr.toNat part.toNat apply value s) s)

def execCadd (u : BitVec 9) (ctr : BitVec 4) (imm : BitVec 32) (s : State) : Result :=
  .next (issue (.cadd u ctr imm) u (fun u s => caddStep u ctr.toNat imm s) s)

def execCload (u : BitVec 9) (ctr actr : BitVec 4) (toBound : Bool) (s : State) : Result :=
  .next (issue (.cload u ctr actr toBound) u (fun u s => cloadStep u ctr.toNat actr.toNat toBound s) s)

def execCstep (u : BitVec 9) (ctr : BitVec 4) (s : State) : Result :=
  .next (issue (.cstep u ctr) u (fun u s => cstepStep u ctr.toNat s) s)

/-- BARRIER_RELEASE: every unit of a panel has reached a barrier; each of them whose strands allow it completes (R140).
A reserved-type marker at a strand that a BARRIER names raises a mapping fault with resource marker (R127), and units that
all wait with no shared ID one with resource barrier (R140). -/
def execBarrierRelease (panel : BitVec 4) (s : State) : Result :=
  let p := panel.toNat
  .next (match badBarrier s p with
    | some (u, m) => markerFault u m s
    | none =>
      let s := barrierClash p (meetBarrier p s)
      (barrierUnits s p).foldl (fun s u => if barrierHere s u then tally u s (barrierFinish u s, []) else s) s)

/-- CLAIM_SERVE: the next pending claim of a work counter is answered (R166, R167). -/
def execClaimServe (region : Bool) (idx : BitVec 6) (s : State) : Result :=
  .next (match nextClaim s (if region then 64 + idx.toNat else idx.toNat) with
    | some c => tally c.unit s (serveClaim c s)
    | none => s)

/-! ## The array and output engines -/

def execPlane (u : BitVec 9) (inp : BitVec 8) (actr : BitVec 4) (cell : BitVec 2) (p : Bool) (s : State) : Result :=
  .next (issue (.plane u inp actr cell p) u (fun u s => planeIssue u inp actr.toNat cell.toNat p s) s)

def execPass (u : BitVec 9) (inp : BitVec 8) (shape : BitVec 3) (m1 : BitVec 8) (actr afmt wfmt : BitVec 4)
    (keep add p : Bool) (upsets : List Upset) (s : State) : Result :=
  .next (issue (.pass u inp shape m1 actr afmt wfmt keep add p upsets) u (fun u s =>
    passIssue u inp shape.toNat (m1.toNat + 1) actr.toNat afmt.toNat wfmt.toNat keep add p upsets s) s)

def execAccin (u : BitVec 9) (inp : BitVec 8) (actr : BitVec 4) (rows1 : BitVec 8) (p : Bool) (s : State) : Result :=
  .next (issue (.accin u inp actr rows1 p) u (fun u s => accinIssue u inp actr.toNat (rows1.toNat + 1) p s) s)

def execDrain (u : BitVec 9) (out : BitVec 8) (dctr : BitVec 4) (dest : BitVec 2) (seg ofmt : BitVec 4)
    (tensor : BitVec 8) (act : BitVec 4) (bias : Bool) (bctr : BitVec 4) (rows1 : BitVec 8) (p : Bool) (s : State) :
    Result :=
  .next (issue (.drain u out dctr dest seg ofmt tensor act bias bctr rows1 p) u (fun u s =>
    drainIssue u out dctr.toNat dest.toNat seg.toNat ofmt.toNat tensor.toNat act.toNat bias bctr.toNat
      (rows1.toNat + 1) p s) s)

/-- PASS_COMMIT: the equal pass of a buffer is committed when the order of R74 and the earlier drains allow it (R73,
R76). -/
def execPassCommit (u : BitVec 9) (bufB : Bool) (s : State) : Result :=
  .next (tally u.toNat s (commitStep u.toNat bufB s, []))

/-- REPLAY_ISSUE: the pending replay of a failed pass issues (R87). -/
def execReplayIssue (u : BitVec 9) (upsets : List Upset) (s : State) : Result :=
  .next (tally u.toNat s (replayStep u.toNat upsets s, []))

/-- TILE_DRAIN_START: the drain at the head of the output engine's queue begins once its tile has committed (R78). -/
def execTileDrainStart (u : BitVec 9) (s : State) : Result := .next (tally u.toNat s (outputStep u.toNat s))

/-! ## The vector engine -/

def execVop (u : BitVec 9) (vfn : BitVec 6) (a b c d : BitVec 4) (rows1 : BitVec 8) (fmt : BitVec 4) (s : State) :
    Result :=
  .next (issue (.vop u vfn a b c d rows1 fmt) u (fun u s => vecRun u
    (vopStep u vfn.toNat a.toNat b.toNat c.toNat d.toNat (rows1.toNat + 1) fmt.toNat) s) s)

def execVred (u : BitVec 9) (max chain : Bool) (a d : BitVec 4) (rows1 : BitVec 8) (s : State) : Result :=
  .next (issue (.vred u max chain a d rows1) u (fun u s => vecRun u
    (vredStep u max chain a.toNat d.toNat (rows1.toNat + 1)) s) s)

def execVsmax (u : BitVec 9) (sc st po : BitVec 4) (n1 : BitVec 7) (final : Bool) (s : State) : Result :=
  .next (issue (.vsmax u sc st po n1 final) u (fun u s => vecRun u
    (vsmaxStep u sc.toNat st.toNat po.toNat (n1.toNat + 1) final) s) s)

def execVtopk (u : BitVec 9) (a d w : BitVec 4) (k1 : BitVec 12) (rows1 : BitVec 8) (first finish p : Bool) (s : State) :
    Result :=
  .next (issue (.vtopk u a d w k1 rows1 first finish p) u (fun u s => vecRun u
    (vtopkStep u a.toNat d.toNat w.toNat (k1.toNat + 1) (rows1.toNat + 1) first finish p) s) s)

def execVsample (u : BitVec 9) (a d sd t n : BitVec 4) (draw : BitVec 16) (s : State) : Result :=
  .next (issue (.vsample u a d sd t n draw) u (fun u s => vecRun u
    (vsampleStep u a.toNat d.toNat sd.toNat t.toNat n.toNat draw.toNat) s) s)

def execVrand (u : BitVec 9) (d sd t : BitVec 4) (draw : BitVec 16) (rows1 : BitVec 8) (s : State) : Result :=
  .next (issue (.vrand u d sd t draw rows1) u (fun u s => vecRun u
    (vrandStep u d.toNat sd.toNat t.toNat draw.toNat (rows1.toNat + 1)) s) s)

/-! ## The move and strand engines -/

def execLoad (u : BitVec 9) (lctr seg octr : BitVec 4) (beats1 : BitVec 8) (verify : Bool) (s : State) : Result :=
  .next (issue (.load u lctr seg octr beats1 verify) u (fun u s =>
    loadIssue u lctr.toNat seg.toNat octr.toNat (beats1.toNat + 1) verify s) s)

def execStore (u : BitVec 9) (lctr seg octr : BitVec 4) (beats1 : BitVec 8) (s : State) : Result :=
  .next (issue (.store u lctr seg octr beats1) u (fun u s =>
    storeIssue u lctr.toNat seg.toNat octr.toNat (beats1.toNat + 1) s) s)

def execSend (u : BitVec 9) (out : BitVec 8) (lctr : BitVec 4) (beats1 : BitVec 8) (s : State) : Result :=
  .next (issue (.send u out lctr beats1) u (fun u s => sendIssue u out lctr.toNat (beats1.toNat + 1) s) s)

def execRecv (u : BitVec 9) (inp : BitVec 8) (lctr : BitVec 4) (beats1 : BitVec 8) (mka : BitVec 2) (s : State) :
    Result :=
  .next (issue (.recv u inp lctr beats1 mka) u (fun u s =>
    recvIssue u inp lctr.toNat (beats1.toNat + 1) mka.toNat s) s)

def execFwd (u : BitVec 9) (inp out : BitVec 8) (beats1 : BitVec 8) (mka : BitVec 2) (s : State) : Result :=
  .next (issue (.fwd u inp out beats1 mka) u (fun u s => fwdIssue u inp out (beats1.toNat + 1) mka.toNat s) s)

def execMark (u : BitVec 9) (out : BitVec 8) (marker : BitVec 16) (s : State) : Result :=
  .next (issue (.mark u out marker) u (fun u s => pushStrand u (.mark out marker) s) s)

def execSteer (u : BitVec 9) (data ctl out0 out1 : BitVec 3) (beats count1 : BitVec 8) (s : State) : Result :=
  .next (issue (.steer u data ctl out0 out1 beats count1) u (fun u s =>
    pushStrand u (.steer data.toNat ctl.toNat out0.toNat out1.toNat beats.toNat (count1.toNat + 1) none) s) s)

def execMerge (u : BitVec 9) (in0 in1 ctl out : BitVec 3) (beats count1 : BitVec 8) (s : State) : Result :=
  .next (issue (.merge u in0 in1 ctl out beats count1) u (fun u s =>
    pushStrand u (.merge in0.toNat in1.toNat ctl.toNat out.toNat beats.toNat (count1.toNat + 1) none) s) s)

/-- STEP_FIRE: the oldest operation of an engine steps, or waits (R128): 0 move, 1 strand, 2 output, 3 array, any other
the vector engine. -/
def execStepFire (u : BitVec 9) (engine : BitVec 3) (s : State) : Result :=
  let n := u.toNat
  .next (tally n s (match engine.toNat with
    | 0 => moveStep n s
    | 1 => strandStep n s
    | 2 => outputStep n s
    | 3 => arrayStep n s
    | _ => vectorStep n s))

end Sys2Proof.Machine
end

