-- ==== Sys2Proof/Machine/Tiers.lean ====
section
/-! DEFINITION. The events of the memory tiers: moves start and end (R193 to R202), re-requests (R208, R209), the pool
(R199, R200), and the T3 translation layer (R212 to R219). -/
namespace Sys2Proof.Machine
open Sys2Proof

/-! ## Moves -/

/-- MOVE_QUEUE_STORE: a unit's store to its panel's move queue beat of a stack (R197). A descriptor whose engine's queue is
full holds the store (R193). -/
def execMoveQueueStore (u : BitVec 9) (stack : BitVec 2) (beat : Beat) (s : State) : Result :=
  let n := u.toNat
  let x := getUnit s n
  .next (match (panelOf s n).bind (getCast s) with
    | none => s
    | some c =>
      match (queueBeats c).find? fun q => q.1 == .move && q.2.1 == stack.toNat with
      | none => s
      | some q =>
        if x.run == .stopped || x.run == .idle || x.halted || queueHeld s n [(q.2.2, 256)] (beatBytes beat) then s
        else unitStore n [(q.2.2, 256)] (beatBytes beat) s)

/-- MOVE_START: the next move an engine starts (R193, R194). `badPages` are the T3 pages of its source that LDPC cannot
correct after retries. -/
def execMoveStart (stack : BitVec 2) (id : Nat) (badPages : List Nat) (s : State) : Result :=
  .next (match nextMove s stack.toNat with
    | some m => if m.id = id then startMove m badPages s else s
    | none => s)

/-- MOVE_END_UPDATE: a running move's copy ends (R194). -/
def execMoveEndUpdate (stack : BitVec 2) (move : MoveEnd) (s : State) : Result :=
  .next (match s.moves.find? fun m => m.id == move.id && m.running && m.stack == stack.toNat with
    | some m => endUpdate m move.corrected move.peers s
    | none => s)

/-! ## Recovery (R208) -/

/-- The tile of a unit's tile segments whose payload begins at a device address. -/
def segTileAt (x : KUnit) (c : Cast) (addr : Nat) : Option TilePlace :=
  x.segs.findSome? fun e =>
    match e.2.tile with
    | none => none
    | some t =>
      ((List.range (e.2.len / (256 * t.tb))).find? fun i =>
        areaAddr c e.2.area (e.2.off + 256 * t.tb * i) == some addr).map fun i => segTile e.2.area e.2.off t i

/-- The problem instruction of a unit's segments at a device address (R160). -/
def segProbAt (x : KUnit) (c : Cast) (addr : Nat) : Option TilePlace :=
  x.segs.findSome? fun e =>
    ((List.range (e.2.len / 64)).find? fun i => areaAddr c e.2.area (e.2.off + 64 * i) == some addr).map fun i =>
      { area := e.2.area, off := e.2.off + 64 * i, len := 64, tile := none }

/-- RE_REQUEST: the recovery a unit has begun goes on with the producer's retained copy and the extent's sources
(R208, R209). `peer` are the pages a block neighbour delivers, by their number in the image. -/
def execReRequest (u : BitVec 9) (addr : BitVec 52) (peer : List (Nat × List Byte)) (s : State) : Result :=
  let n := u.toNat
  let x := getUnit s n
  let a := addr.toNat
  .next (match panelOf s n, (panelOf s n).bind (getCast s) with
    | some p, some c =>
      if x.recover != some a then s
      else
        match (segTileAt x c a).or (segProbAt x c a) with
        | some y => recoverTile n p c y peer s
        | none => s
    | _, _ => s)

/-! ## The hank pool -/

/-- Page hanks of a panel's pool whose 32 pages are all free (R226). -/
def freePoolHanks (c : Cast) : List (Nat × Nat) :=
  c.poolHanks.filter fun e => c.pagesTaken.all fun p => p / 32 != e.1

/-- A pool-table entry of a pattern without its hank: none of its pages is marked lost any more. -/
def dropPoolHank (i : Nat) (c : Cast) : Cast :=
  { c with poolHanks := tdel c.poolHanks i, lostPages := c.lostPages.filter fun pg => pg / 32 != i }

/-- Free the wholly free page hanks of a panel and clear their pool-table entries (R226). -/
def sweepPool (p : Nat) (s : State) : State :=
  match getCast s p with
  | none => s
  | some c =>
    (freePoolHanks c).foldl (fun s e =>
      freeAt e.2 (wr (c.dirBase + 16384 * 256 + 8 * e.1) (bytesOf 8 0)
        (modCast p (dropPoolHank e.1) s))) s

/-- POOL_EPOCH_BOUNDARY: the ages of allocated hanks rise and wholly free page hanks are freed, when the boundary is due;
a change of the period takes effect here (R199, R220, R226). -/
def execPoolEpochBoundary (s : State) : Result :=
  if s.now.toNat < s.nextEpoch then .next s
  else
    let s := { s with
      nextEpoch := s.nextEpoch + s.epochUs.toNat
      hanks := tmap s.hanks fun _ h => { h with age := BitVec.ofNat 16 (satAdd 16 h.age.toNat 1) } }
    .next ((s.panels.map (·.1)).foldl (fun s p => sweepPool p s) s)

/-- The victim among hanks a predicate allows: pin count 0, not in transit, largest age, ties to the lowest index
(R200). -/
def oldestOf (s : State) (f : Nat → Hank → Bool) : Option Nat :=
  ((s.hanks.filter fun kh => pinsOf s kh.1 == 0 && !kh.2.transit && f kh.1 kh.2).foldl
    (fun (best : Option (Nat × Nat)) kh =>
      match best with
      | none => some (kh.1, kh.2.age.toNat)
      | some (k, a) => if a < kh.2.age.toNat then some (kh.1, kh.2.age.toNat) else some (k, a)) none).map (·.1)

/-- A region has fewer than 8 free T1 hanks (R200). -/
def shortRegion (s : State) (r : Nat) : Bool :=
  let used := (s.hanks.filter fun kh => kh.1 / 48 == r && kh.1 < 768).length
    + (s.boot.t1Retired.filter fun k => k / 48 == r).length
  48 < used + 8

/-- Owners that hold hanks in a stack's groups (R200). -/
def stackOwners (s : State) (st : Nat) : List (Option Nat) :=
  ((s.hanks.filter fun kh => 768 ≤ kh.1 && hankGroup kh.1 / 6 == st).map fun kh => groupOwner s (hankGroup kh.1)).eraseDups

/-- T2 hanks of a stack that an owner may take and that are free. -/
def freeT2 (s : State) (st : Nat) (o : Option Nat) : Nat :=
  let gs := (upto (6 * st) 6).filter fun g => groupOwner s g == o && !nbit s.boot.groupsOut.toNat g
  32768 * gs.length - (s.hanks.filter fun kh => 768 ≤ kh.1 && gs.contains (hankGroup kh.1)).length

/-- The hank that is evicted for a stack's reserves: the oldest of the first short region that has one to evict, else of
the first owner short of T2 that has (R200, R201). -/
def reserveVictim (s : State) (st : Nat) : Option Nat :=
  let v1 := (upto (4 * st) 4).findSome? fun r =>
    if shortRegion s r then oldestOf s fun k _ => k < 768 && k / 48 == r else none
  let v2 := (stackOwners s st).findSome? fun o =>
    if freeT2 s st o < 64 then
      (oldestOf s fun k _ => 768 ≤ k && hankGroup k / 6 == st && groupOwner s (hankGroup k) == o).filter (canEvict s)
    else none
  v1.or v2

/-- BACKGROUND_EVICTION: one hank is evicted where a reserve of free hanks is short (R200). -/
def execBackgroundEviction (stack : BitVec 2) (s : State) : Result :=
  .next (match reserveVictim s stack.toNat with
    | some k => submitEvict k s
    | none => s)

/-! ## The translation layer -/

/-- Key of a block: channel × 65,536 + block (R212). -/
def blockKey (ch b : Nat) : Nat := 65536 * ch + b

/-- Erase counts of a channel. -/
def chanErases (t : T3Stack) (ch : Nat) : List (Nat × Nat) :=
  (t.erases.filter fun e => e.1 / 65536 == ch).map fun e => (e.1, e.2.toNat)

/-- A block is free: no valid page, not retired, not the one its channel is writing. -/
def blockFree (t : T3Stack) (key : Nat) : Bool :=
  !t.retired.contains key && tget t.openBlk (key / 65536) != some key && t.place.all fun e => e.2 != key

/-- A new block for writing is a free block of lowest erase count on its channel (R214). -/
def freshOk (t : T3Stack) (ch fresh : Nat) : Bool :=
  let key := blockKey ch fresh
  let n := (tgetD t.erases key 0).toNat
  blockFree t key &&
    -- a block of lower count is either used or retired
    (n = 0 || ((List.range 65536).all fun b =>
      n ≤ (tgetD t.erases (blockKey ch b) 0).toNat || !blockFree t (blockKey ch b)))

/-- Erase a block: its count rises and its reads start again (R214, R215). One whose erase fails, or that reaches 3,000
erases, is retired (R217). -/
def eraseBlock (st key : Nat) (ok : Bool) (s : State) : State :=
  if !ok then retireBlock st key s
  else
    let n := (tgetD (getStack s st).t3.erases key 0).toNat + 1
    let s := modT3 st (fun t =>
      { t with
        erases := tset t.erases key (BitVec.ofNat 16 (min 65535 n))
        reads := tdel t.reads key
        written := tdel t.written key }) s
    if 3000 ≤ n then retireBlock st key s else s

/-- A free block that has been written since its last erase is erased before it is written again. -/
def cleanBlock (st key : Nat) (ok : Bool) (s : State) : State :=
  if tgetD (getStack s st).t3.written key 0 = 0 then s else eraseBlock st key ok s

/-- 16 KiB pages that a number of 4 KiB pages fills (R212). -/
def nandPages (n : Nat) : Nat := cdiv n 4

/-- The valid pages of a block move to a fresh one, and the block is erased (R214, R215); `count` counts it. `eraseOk` is the
outcome of the erase of the fresh block when it needs one, and else of the old one: a fresh block whose erase fails takes
nothing. -/
def relocate (st old new : Nat) (eraseOk : Bool) (count : State → State) (s : State) : State :=
  let dirty := tgetD (getStack s st).t3.written new 0 != 0
  let s := cleanBlock st new eraseOk s
  if (getStack s st).t3.retired.contains new then s
  else
    count (eraseBlock st old (dirty || eraseOk) (modT3 st (fun t =>
      { t with
        place := t.place.map fun e => if e.2 = old then (e.1, new) else e
        written := tset t.written new (nandPages (t.place.filter fun e => e.2 == old).length)
        openBlk := t.openBlk.filter fun e => e.2 != old }) s))

/-- Lowest-count block of a channel that holds valid data, and its count. -/
def lowestBlock (t : T3Stack) (ch : Nat) : Option (Nat × Nat) :=
  ((t.place.map (·.2)).filter fun b => b / 65536 == ch).foldl (fun (best : Option (Nat × Nat)) b =>
    let n := (tgetD t.erases b 0).toNat
    match best with
    | none => some (b, n)
    | some (c, m) => if n < m || (n = m && b < c) then some (b, n) else some (c, m)) none

/-- WEAR_LEVEL_RELOCATION (R214). -/
def execWearLevelRelocation (stack : BitVec 2) (channel : BitVec 3) (fresh : FreshBlock) (s : State) : Result :=
  let st := stack.toNat
  let t := (getStack s st).t3
  let hi := (chanErases t channel.toNat).foldl (fun a e => max a e.2) 0
  .next (match lowestBlock t channel.toNat with
    | some (b, n) =>
      if t3Readable s st && 150 < hi - n && freshOk t channel.toNat fresh.block.toNat then
        relocate st b (blockKey channel.toNat fresh.block.toNat) fresh.eraseOk id s
      else s
    | none => s)

/-- READ_DISTURB_RELOCATION (R215). -/
def execReadDisturbRelocation (stack : BitVec 2) (channel : BitVec 3) (block : BitVec 16) (fresh : FreshBlock)
    (s : State) : Result :=
  let st := stack.toNat
  let t := (getStack s st).t3
  let key := blockKey channel.toNat block.toNat
  .next (if t3Readable s st && s.rdThreshold.toNat * 1000 ≤ (tgetD t.reads key 0).toNat
        && freshOk t channel.toNat fresh.block.toNat then
      relocate st key (blockKey channel.toNat fresh.block.toNat) fresh.eraseOk (bump (.readDisturb st) 1) s
    else s)

/-- The patrol pass a read belongs to: a new one begins when the last has run its hours (R216, R220). -/
def patrolPass (st : Nat) (s : State) : State :=
  if s.now.toNat < (getStack s st).t3.passEnd then s
  else modT3 st (fun t => { t with passEnd := s.now.toNat + s.patrolHours.toNat * 3600000000, seen := [] }) s

/-- A page in T3 that cannot be corrected takes steps 3 and 4 of R208: it is written again from a source, or lost. -/
def patrolBad (pg : Nat) (peer : Option (List Byte)) (s : State) : State :=
  match recoverPage pg [pg] peer (pageBad pg s) with
  | (true, s) => s
  | (false, s) => loseRange (4096 * pg) 4096 (dataLost (stackOf (4096 * pg)) s)

/-- PATROL_READ: one valid page is read, once in a pass (R216). `corrected` bits were corrected in it, or it could not be
corrected. -/
def execPatrolRead (stack : BitVec 2) (page : BitVec 31) (channel : BitVec 3) (block : BitVec 16) (fresh : FreshBlock)
    (corrected : Nat) (read : PageRead) (s : State) : Result :=
  let st := stack.toNat
  let t := (getStack s st).t3
  let pg := t3First st + page.toNat
  let key := blockKey channel.toNat block.toNat
  .next (if !t3Readable s st || t3Pages ≤ page.toNat || tget t.place pg != some key then s
    else
      let s := patrolPass st s
      let waits := match read with
        | .bad _ => recoveryWaits pg s
        | .good => none
      if rangeAny (getStack s st).t3.seen pg (pg + 1) then s
      else if waits.isSome then waits.getD s
      else
        let s := modT3 st (fun t => { t with seen := rangeAdd t.seen pg (pg + 1) }) (countT3Reads (4096 * pg) 4096 s)
        match read with
        | .bad peer => patrolBad pg peer s
        | .good =>
          let s := if 0 < corrected then bump (.t3Corrected st) 1 s else s
          if 48 < corrected && freshOk t channel.toNat fresh.block.toNat then
            relocate st key (blockKey channel.toNat fresh.block.toNat) fresh.eraseOk (bump (.patrol st) 1) s
          else s)

/-- Pages of the write buffer are programmed into a block, which its channel goes on writing (R212, R213). -/
def programPages (st ch key : Nat) (pages : List Nat) (s : State) : State :=
  modT3 st (fun t =>
    { t with
      buffer := t.buffer.filter fun p => !pages.contains p
      place := pages.foldl (fun m p => tset m p key) t.place
      written := tset t.written key (tgetD t.written key 0 + nandPages pages.length)
      openBlk := tset t.openBlk ch key }) s

/-- NAND_PROGRAM_DONE: pages of the write buffer have been programmed into the block its channel is writing, or into a new
one, which is a free block of lowest erase count, erased first when it has been written (R213, R214). When the program
fails the block is retired, the data still in the buffer (R217). -/
def execNandProgramDone (stack : BitVec 2) (channel : BitVec 3) (block : FreshBlock) (pages : List Nat) (ok : Bool)
    (s : State) : Result :=
  let st := stack.toNat
  let ch := channel.toNat
  let t := (getStack s st).t3
  let key := blockKey ch block.block.toNat
  let n := nandPages pages.length
  .next (if pages.isEmpty || 1024 < n || !(pages.all fun p => t.buffer.contains p) || t.retired.contains key then s
    else
      let opened := tget t.openBlk ch == some key && tgetD t.written key 0 + n ≤ 1024
      if !opened && !freshOk t ch block.block.toNat then s
      else
        let s := if opened then s else cleanBlock st key block.eraseOk s
        if (getStack s st).t3.retired.contains key then s
        else if ok then programPages st ch key pages s
        else retireBlock st key s)

/-- References to a failed stack's T3 extents are marked lost (R219). -/
def loseT3Refs (st : Nat) (s : State) : State :=
  let lost : Loc → Loc
    | .absent b => if stackOf b = st then .lost else .absent b
    | l => l
  { s with panels := tmap s.panels fun _ p =>
      { p with cast := p.cast.map fun c =>
          { c with areas := tmap c.areas fun _ x => { x with locs := x.locs.map lost } } } }

/-- Catalogue entries with a piece on a failed stack are removed (R471). -/
def dropCatalogue (st : Nat) (s : State) : State :=
  let bad (e : CatEntry) : Bool := e.pieces.any fun a => stackOf a == st
  bump .catalogueLosses ((s.catalogue.filter bad).length) { s with catalogue := s.catalogue.filter fun e => !bad e }

end Sys2Proof.Machine
end

