-- ==== Sys2Proof/Machine/Kv.lean ====
section
/-! DEFINITION. The key-value cache (R222 to R245): KV commands, the walk, page taking and the scatter. -/
namespace Sys2Proof.Machine
open Sys2Proof

/-! ## The pool directory (R225) -/

/-- Pool table, page headers: after the 16,384 roots. -/
def poolTable (c : Cast) : Nat := c.dirBase + 16384 * 256
def pageHdrBase (c : Cast) (k : KvDecl) : Nat := poolTable c + 8 * (k.poolPages / 32)

/-- Bytes of a pool directory. -/
def dirBytes (k : KvDecl) : Nat := 16384 * 256 + 8 * (k.poolPages / 32) + 64 * k.poolPages

/-- Device address of a page, when its pool-table entry is there. -/
def pageAddr (c : Cast) (page : Nat) : Option Nat := (tget c.poolHanks (page / 32)).map fun b => b + (page % 32) * 0x10000

/-- Header of a page. -/
def pageHdrAddr (c : Cast) (k : KvDecl) (page : Nat) : Nat := pageHdrBase c k + 64 * page
def pageHdr (s : State) (c : Cast) (k : KvDecl) (page : Nat) : Rec64 :=
  BitVec.ofNat 512 (natOf (rd s (pageHdrAddr c k page) 64))

/-- A page passes (R207, R224). -/
def pageOk (s : State) (c : Cast) (k : KvDecl) (page : Nat) : Bool :=
  match pageAddr c page with
  | some a => homeAll s a 0x10000 && hdrBeats (pageHdr s c k page) == 256 && tilePasses (pageHdr s c k page) (rd s a 0x10000)
  | none => false

/-! ## Commands (R229, R230) -/

def kvSlot (c : Rec64) : Nat := fld c 2 2
def kvLayer (c : Rec64) : Nat := fld c 4 1
def kvGroup (c : Rec64) : Nat := fld c 5 1
def kvRing (c : Rec64) : Nat := fld c 6 1
def kvFirst (c : Rec64) : Nat := fld c 8 4
def kvCount (c : Rec64) : Nat := fld c 0xC 4
def kvSrc (c : Rec64) : Nat := fld c 0x10 8

/-- A KV command of a kind is accepted (R230). A WALK's ring that the pattern does not declare is out of range (DESIGN CHOICE:
R230 gives the range 0 to 15 and no outcome for a ring not declared; log entry 89). -/
def kvOk (s : State) (p kind : Nat) (k : KvDecl) (c : Rec64) : Bool :=
  recOk c && fld c 0 1 == 1 && fld c 1 1 == kind && fld c 7 1 == 0 && fld c 0x18 36 == 0
    && kvLayer c < k.layers && kvGroup c < k.groups
    && (if kind = 1 then kvSrc c == 0 && k.rings.any (fun r => r.ring == kvRing c)
        else kvRing c == 0 && tierRange (kvSrc c) 1 == 1)
    && 1 ≤ kvCount c && kvCount c ≤ 4096
    && (match getSlot s (kvSlot c) with
      | some x => (x.st == .prefill || x.st == .decode) && x.panel == p && kvFirst c == x.length
      | none => false)
    && kvFirst c + kvCount c ≤ k.maxLen

/-- A rejected KV command: counted, and its request completes with BAD_DESCRIPTOR (R230). -/
def kvReject (p slot : Nat) (s : State) : State :=
  let s := bump (.rejectedKv p) 1 s
  match getSlot s slot with
  | some x => if x.panel = p && (x.st == .prefill || x.st == .decode) then endSlot slot stBad s else s
  | none => s

/-- A command leaves the queue beat it was stored in. -/
def unpost (p st : Nat) (c : Rec64) (s : State) : State := { s with posted := s.posted.erase (p, st, c) }

/-! ## The walk (R231, R232) -/

/-- Lowest position any query row of a walk sees, and its first and last block. -/
def walkBlocks (k : KvDecl) (first count : Nat) : Nat × Nat :=
  let lo := if k.window = 0 then 0 else first + 1 - min (first + 1) k.window
  (lo / 128, (first + count - 1) / 128)

/-- WALK: the record and the block entries wait for their ring (R231). -/
def execWalk (panel : BitVec 4) (stack : BitVec 2) (c : Rec64) (s : State) : Result :=
  let p := panel.toNat
  let s := unpost p stack.toNat c s
  .next (match kvOf s p with
    | none => s
    | some k =>
      if !kvOk s p 1 k c then kvReject p (kvSlot c) s
      else
        let (first, last) := walkBlocks k (kvFirst c) (kvCount c)
        let n := kvFirst c
        let ents := WalkEnt.record (last + 1 - first) first n (kvSlot c)
          :: (upto first (last + 1 - first)).map fun b =>
              .block b n (kvSlot c) (kvLayer c) (kvGroup c) (b == first)
        let s := bump (.blocksSkipped p) first (bump (.walks p) 1 s)
        modCast p (fun x =>
          let r := tgetD x.rings (kvRing c) {}
          { x with rings := tset x.rings (kvRing c) { r with todo := r.todo ++ ents } }) s)

/-- Bytes of a ring slot, and its tiles. -/
def keyTileBytes (k : KvDecl) : Nat := k.dim * 128 * kvElem k
def ringSlotBytes (k : KvDecl) : Nat := max 256 (2 * k.heads * keyTileBytes k + 512)
def slotTiles (k : KvDecl) : Nat := 2 * k.heads + 1

/-- The page of a position of a block, among the block's pages. -/
def pageAt (k : KvDecl) (b : Nat) (pages : List Nat) (t : Nat) : Nat := lgetD pages (t / k.tp - 128 * b / k.tp) 0xFFFFFFFF

/-- `bytes` bytes of the page of a position at an offset. -/
def pageRun (s : State) (c : Cast) (k : KvDecl) (b : Nat) (pages : List Nat) (t : Nat) (at_ bytes : Nat) : List Byte :=
  match pageAddr c (pageAt k b pages t) with
  | some a => rd s (a + at_) bytes
  | none => List.replicate bytes 0

/-- The bytes of dimension `d` of head `h` for the positions of a block: keys are dimension-major (R223). Positions at
or above n are zero (R232). -/
def keyRow (s : State) (c : Cast) (k : KvDecl) (pages : List Nat) (b n h d : Nat) : List Byte :=
  let e := kvElem k
  let run := min 128 k.tp
  (List.range (128 / run)).flatMap fun q =>
    let t := 128 * b + q * run
    let have_ := min run (n - t)
    (if have_ = 0 then [] else pageRun s c k b pages t (((h * k.dim + d) * k.tp + t % k.tp) * e) (have_ * e))
      ++ List.replicate ((run - have_) * e) 0

/-- The value row of a position: position-major (R223). -/
def valueRow (s : State) (c : Cast) (k : KvDecl) (pages : List Nat) (b n h t : Nat) : List Byte :=
  let e := kvElem k
  if t < n then
    pageRun s c k b pages t (k.tp * k.heads * k.dim * e + ((t % k.tp) * k.heads + h) * k.dim * e) (k.dim * e)
  else List.replicate (k.dim * e) 0

/-- The tiles of a block entry: format, rows, payload (R232). R232 gives the position tile's values and no header fields
beyond them: it is of format INT32 with ROWS 1, SCALE 1.0 and the TENSOR of the layer and group (DESIGN CHOICE; log
entry 89). -/
def blockTiles (s : State) (c : Cast) (k : KvDecl) (pages : List Nat) (b n : Nat) : List (Nat × Nat × List Byte) :=
  ((List.range k.heads).map fun h =>
    (k.kvfmt, k.dim, (List.range k.dim).flatMap fun d => keyRow s c k pages b n h d))
  ++ ((List.range k.heads).map fun h =>
    (k.kvfmt, 128, (List.range 128).flatMap fun i => valueRow s c k pages b n h (128 * b + i)))
  ++ [(12, 1, (List.range 128).flatMap fun i =>
    let t := 128 * b + i
    bytesOf 4 (if t < n then t else 0xFFFFFFFF))]

/-- Write the tiles of an entry into a ring slot, each with its header in the header area (R205, R232). INDEX of a block's
tiles is not stated: a free value of the tensor and its data (log entry 3). -/
def putTiles (p die : Nat) (c : Cast) (k : KvDecl) (r : RingDecl) (slot tensor : Nat)
    (tiles : List (Nat × Nat × List Byte)) (s : State) : State :=
  (tiles.zipIdx.foldl (fun (acc : Nat × State) t =>
    let (q, s) := nextTile p die acc.2
    let h := mkTileHdr t.1.1 0xF 0 t.1.2.1 (cdiv t.1.2.2.length 256) (if t.1.1 = 12 then one32 else k.scale.toNat) die 1 p
      tensor (Config.headerField 4 [t.2, tensor] t.1.2.2 % 2 ^ 32) q t.1.2.2
    (acc.1 + t.1.2.2.length,
      areaWrite c r.area (r.hdrOff + 64 * (slot * slotTiles k + t.2)) (recBytes h)
        (areaWrite c r.area acc.1 t.1.2.2 s))) (r.off + slot * ringSlotBytes k, s)).2

/-- Entry `put` of a ring may be written: its release word has come far enough (R232). -/
def ringRoom (s : State) (c : Cast) (r : RingDecl) (put : Nat) : Bool :=
  let rel := natOf (areaRead s c r.area r.relOff 4)
  (put % 2 ^ 32 + 2 ^ 32 - rel) % 2 ^ 32 < r.slots

/-- An entry has been written: the ring advances and the reading units are signalled (R232). -/
def entryDone (p : Nat) (c : Cast) (r : RingDecl) (rest : List WalkEnt) (s : State) : State :=
  sendSignals (r.fulls.map (physSem c)) (modCast p (fun x =>
    let w := tgetD x.rings r.ring {}
    { x with rings := tset x.rings r.ring { put := w.put + 1, todo := rest } }) s)

/-- A hank of the pool that holds no datum any more is the pool's no longer: its entry is cleared (R198, R225). -/
def dropGoneHanks (p : Nat) (s : State) : State :=
  match getCast s p with
  | none => s
  | some c =>
    (c.poolHanks.filter fun e => !homeAny s e.2 hankBytes).foldl (fun s e =>
      wr (poolTable c + 8 * e.1) (bytesOf 8 0) (modCast p (dropPoolHank e.1) s)) s

/-- The step of a request is abandoned, and a KV rebuild is due (R243). -/
def rebuildDue (p slot : Nat) (s : State) : State :=
  match getSlot s slot with
  | some x =>
    if x.panel = p && (x.st == .prefill || x.st == .decode) then
      modSlot slot (fun x => { x with rebuild := true }) (leaveWork slot s)
    else s
  | none => s

/-- A lost page: it becomes homeless, the step of the request is abandoned, a KV rebuild is due (R211, R243). A page whose
entry is not there has no address, and so no stack whose counter rises: stack 0 is taken (DESIGN CHOICE; log entry 89). -/
def losePage (p slot : Nat) (addr : Option Nat) (s : State) : State :=
  rebuildDue p slot (match addr with
    | some a => dropGoneHanks p (loseRange a 0x10000 (dataLost (stackOf a) s))
    | none => dataLost 0 s)

/-- A page that a walk or a scatter cannot use: a missing entry (R231) or a page that fails R207 is lost (R243); one marked
lost abandons the step again; one that holds no datum without being marked lost ends the request (R190). -/
def badPage (p slot : Nat) (c : Cast) (page : Nat) (s : State) : State :=
  match pageAddr c page with
  | none => losePage p slot none s
  | some a =>
    if c.lostPages.contains page then rebuildDue p slot s
    else if homeAll s a 0x10000 then losePage p slot (some a) (bump (.memCrc (stackOf a)) 1 s)
    else endSlot slot stBad (bump (.noHome (stackOf a)) 1 s)

/-- The return move of a page hank that lies in T3 (R202, R225). -/
def returnPage (p page : Nat) (s : State) : State :=
  submitReturn p poolArea (page / 32) (((getCast s p).bind fun c => tget c.poolHanks (page / 32)).getD 0) true s

/-- A page whose hank lies in T3, still with its datum. -/
def pageInT3 (s : State) (c : Cast) (page : Nat) : Bool := (pageAddr c page).any fun a => tierOf a == 3 && homeAll s a 0x10000

/-- A page read by a walk: payload and header through the read cache, and the count of R245. -/
def readPage (p : Nat) (c : Cast) (k : KvDecl) (page : Nat) (s : State) : State :=
  match pageAddr c page with
  | some a =>
    let h := pageHdrAddr c k page
    bump (.pagesRead p) 1 (cacheReads p h 64 (touch h 64 (cacheReads p a 0x10000 (touch a 0x10000 s))))
  | none => s

/-- The line fetch of page index `j`, of which there is one for 16 entries of a walk (R227, R231). -/
def readLine (p : Nat) (k : KvDecl) (root l g j : Nat) (s : State) : State :=
  let a := pageEntryAddr s k root l g (j / 16 * 16)
  cacheReads p a 64 (touch a 64 s)

/-- The pages of a block that the walk has not read for the block before are read (R231). -/
def readBlock (p : Nat) (c : Cast) (k : KvDecl) (root l g b n : Nat) (first : Bool) (pages : List Nat) (s : State) : State :=
  ((blockPages k b n).zip pages).zipIdx.foldl (fun s e =>
    let j := e.1.1
    if !first && j * k.tp < 128 * b then s
    else readPage p c k e.1.2 (if j % 16 = 0 || (first && e.2 = 0) then readLine p k root l g j s else s)) s

/-- A block of a step that was abandoned: what the stage receives is not stated, free values (log entry 3), with marks of
-1. -/
def deadTiles (k : KvDecl) (s : State) : List (Nat × Nat × List Byte) × State :=
  let (v, s) := freeNat s
  ((List.range (2 * k.heads)).map (fun h => (k.kvfmt, if h < k.heads then k.dim else 128, bytesOf (keyTileBytes k) (v + h)))
    ++ [(12, 1, List.replicate 512 0xFF)], s)

/-- A block entry is written to its ring slot. -/
def putBlock (p : Nat) (c : Cast) (k : KvDecl) (r : RingDecl) (slot tensor : Nat) (rest : List WalkEnt)
    (tiles : List (Nat × Nat × List Byte)) (s : State) : State :=
  entryDone p c r rest (bump (.blocksDelivered p) 1 (putTiles p (stackOf (areaAddrD c r.area r.off)) c k r slot tensor tiles s))

/-- The walks of a request's step deliver what its page list names: not those of a step that was abandoned or is gone
(R242, R243). -/
def walkLive (s : State) (p : Nat) (c : Cast) (sl : Nat) : Bool :=
  match c.releases.find? fun r => r.slot == sl with
  | some r => !r.lost
  | none => (getSlot s sl).any fun x => x.panel == p && (x.st == .prefill || x.st == .decode) && !x.rebuild

/-- The pages a block entry reads, which its request's page list names until the walks of its last step have finished; none
for a step that was abandoned (R231, R242, R243). -/
def entryPages (s : State) (p : Nat) (c : Cast) (k : KvDecl) (b n sl l g : Nat) : Option (List Nat) :=
  if walkLive s p c sl then some ((blockPages k b n).map fun j => pageEntry s k (rootAddr c sl) l g j) else none

/-- The next entry of a ring that has room is written, its page hanks returned from T3 first (R202, R231, R232). -/
def walkEntry (p : Nat) (c : Cast) (k : KvDecl) (r : RingDecl) (slot : Nat) (e : WalkEnt) (rest : List WalkEnt) (s : State) :
    State :=
  match e with
  | .record blocks first n sl =>
    let b : Beat := recOf 2048 [(0, 4, blocks), (4, 4, first), (8, 4, n), (0xC, 2, sl)]
    entryDone p c r rest (areaWrite c r.area (r.off + slot * ringSlotBytes k) (beatBytes b) s)
  | .block b n sl l g first =>
    let put := putBlock p c k r slot ((k.tensorBase.toNat + l * k.groups + g) % 2 ^ 32) rest
    match entryPages s p c k b n sl l g with
    | none => let (tiles, s) := deadTiles k s; put tiles s
    | some pages =>
      match pages.find? (pageInT3 s c) with
      | some pg => returnPage p pg s
      | none =>
        match pages.find? fun pg => !pageOk s c k pg with
        | some pg => badPage p sl c pg s
        | none => put (blockTiles s c k pages b n) (readBlock p c k (rootAddr c sl) l g b n first pages s)

/-- What an entry of a ring reads and writes of the ring's area. -/
def ringReads (r : RingDecl) : List (Nat × Nat × Nat) := [(r.area, r.relOff, 4)]
def ringWrites (k : KvDecl) (r : RingDecl) (slot : Nat) : List (Nat × Nat × Nat) :=
  [(r.area, r.off + slot * ringSlotBytes k, ringSlotBytes k), (r.area, r.hdrOff + 64 * slot * slotTiles k, 64 * slotTiles k)]

/-- WALK_ENTRY_PUT: the next entry of a ring is written when its release word allows it (R232), and releases that waited for
the walk are carried out (R242). -/
def execWalkEntryPut (panel : BitVec 4) (ring : BitVec 4) (s : State) : Result :=
  let p := panel.toNat
  .next (match kvOf s p, getCast s p with
    | some k, some c =>
      match k.rings.find? fun r => r.ring == ring.toNat with
      | none => s
      | some r =>
        let w := tgetD c.rings r.ring {}
        let slot := w.put % r.slots
        match w.todo with
        | [] => s
        | e :: rest =>
          if !ringRoom s c r w.put then s
          else runReleases p (withAreas p (ringReads r) (ringWrites k r slot) (walkEntry p c k r slot e rest) s)
    | _, _ => s)

/-- APPEND: the command is held until the step's token boundary (R239). -/
def execAppend (panel : BitVec 4) (stack : BitVec 2) (c : Rec64) (s : State) : Result :=
  let p := panel.toNat
  let s := unpost p stack.toNat c s
  .next (match kvOf s p with
    | none => s
    | some k =>
      if kvOk s p 2 k c then modCast p (fun x => { x with appends := x.appends ++ [(stack.toNat, c)] }) s
      else kvReject p (kvSlot c) s)

/-! ## Taking pages (R226, R240) -/

/-- Free pages whose hank is in the pool and that can hold a datum, lowest first, `n` of them: a page that was lost is not
taken again before its hank is (R190, R226). -/
def freePages (s : State) (c : Cast) (n : Nat) : List Nat :=
  ((c.poolHanks.flatMap fun e => upto (32 * e.1) 32).filter fun p =>
    !c.pagesTaken.contains p && (pageAddr c p).any fun a => homeAll s a 0x10000).take n

/-- The entry of the pool table that a new page hank gets: the lowest without one (DESIGN CHOICE: R226 says only that its
entry is written; log entry 89). -/
def poolGap (c : Cast) (k : KvDecl) : Option Nat := firstGap c.poolHanks 0 (k.poolPages / 32)

/-- The pool grows by T2 hanks until it holds `need` free pages for a request (R226); whether it does. -/
def growPool (p i need : Nat) : (fuel : Nat) → State → Bool × State
  | 0, s => (false, s)
  | f + 1, s =>
    match getCast s p, kvOf s p with
    | some c, some k =>
      if need ≤ (freePages s c need).length then (true, s)
      else
        match poolGap c k with
        | none => (false, countWait (.pages p i) 0 s)
        | some e =>
          match allocTry (.pages p i) 2 (some p) false s with
          | (.got h, s) =>
            growPool p i need f (wr (poolTable c + 8 * e) (bytesOf 8 (hankAddr h))
              (modCast p (fun c => { c with poolHanks := tset c.poolHanks e (hankAddr h) }) s))
          | (_, s) => (false, s)
    | _, _ => (false, s)

/-- CRC-32C of 65,536 zero bytes. -/
def zeroPageCrc : Nat := crc32c (List.replicate 65536 0)

/-- A page is taken: zero-filled, payload and header, its PCRC that of zeros (R226). -/
def takePage (p page : Nat) (s : State) : State :=
  match getCast s p, kvOf s p with
  | some c, some k =>
    let s := modCast p (fun c => { c with pagesTaken := insNat c.pagesTaken page }) s
    let h : Rec64 := recOf 512 [(0x38, 4, zeroPageCrc)]
    match pageAddr c page with
    | some a => touch a 0x10000 (wr (pageHdrAddr c k page) (recBytes h) (clearRange a 0x10000 s))
    | none => s
  | _, _ => s

/-- The page-list hank of page index `j` is there, or is allocated and pinned, its entries 0xFFFF_FFFF (R228). -/
def ensureList (p i j : Nat) (s : State) : Bool × State :=
  match getCast s p, kvOf s p with
  | some c, some k =>
    let root := rootAddr c i
    let hi := j / 16 / rowsPerHank k
    if rdNat s (root + 8 * hi) 8 != 0 then (true, s)
    else
      match allocTry (.list p i) 2 (some p) true s with
      | (.got h, s) =>
        let s := fillRange (hankAddr h) hankBytes 0xFF s
        let s := wr (root + 8 * hi) (bytesOf 8 (hankAddr h)) s
        let pages := rdNat s (root + 0xF8) 4
        (true, modSlot i (fun x => { x with pageList := root }) (writeRootPages root pages s))
      | (_, s) => (false, s)
  | _, _ => (false, s)

/-- The return moves of the hanks of pages that lie in T3 (R202); none when all can be reached. -/
def returnPages (p : Nat) (pages : List Nat) (s : State) : Option State :=
  match getCast s p with
  | none => none
  | some c =>
    match pages.filter (pageInT3 s c) with
    | [] => none
    | l => some (l.foldl (fun s pg => returnPage p pg s) s)

/-- take_pages (R240): one page for every layer and group, all or none; whether it succeeded. -/
def takePages (p i j : Nat) (s : State) : Bool × State :=
  match kvOf s p with
  | none => (false, s)
  | some k =>
    let need := k.layers * k.groups
    match growPool p i need (need / 32 + 2) s with
    | (false, s) => (false, s)
    | (true, s) =>
      match ensureList p i j s with
      | (false, s) => (false, s)
      | (true, s) =>
        match getCast s p with
        | none => (false, s)
        | some c =>
          let pages := freePages s c need
          match returnPages p pages s with
          | some s => (false, s)
          | none =>
            let s := dropAlloc (.pages p i) (pages.foldl (fun s pg => takePage p pg s) s)
            let root := rootAddr c i
            (true, ((lgPairs k).zip pages).foldl (fun s e =>
              let a := pageEntryAddr s k root e.1.1 e.1.2 j
              touch a 4 (wr a (bytesOf 4 e.2) s)) s)

/-! ## The scatter (R239, R240) -/

/-- Whether an element code is a NaN or an infinity (R235). -/
def notFinite (fmt c : Nat) : Bool :=
  match floatFmt fmt with
  | some f => match decFloat f c with | .fin _ _ _ => false | _ => true
  | none => false

/-- A row's elements sanitised: bytes and the number replaced by +0 (R235). -/
def sanitise (fmt n : Nat) (l : List Byte) : List Byte × Nat :=
  let cs := (List.range n).map fun i => elemAt fmt l i
  (packElems fmt (cs.map fun c => if notFinite fmt c then 0 else c), (cs.filter (notFinite fmt)).length)

/-- Write one row of a layer and group at position `t` into its page: keys into their dimension-major places, values
position-major; PCRC follows by linearity, the header by R224. The identifiers that a pattern gives to its layers and groups
are consecutive, by layer and then group (DESIGN CHOICE: R224 does not say how the pattern gives them; log entry 89). -/
def scatterRow (p i l g t : Nat) (key value : List Byte) (s : State) : State :=
  match getCast s p, kvOf s p with
  | some c, some k =>
    let e := kvElem k
    let root := rootAddr c i
    let pg := pageEntry s k root l g (t / k.tp)
    match pageAddr c pg with
    | none => s
    | some a =>
      let o := t % k.tp
      let n := k.heads * k.dim
      let (kb, kn) := sanitise k.kvfmt n key
      let (vb, vn) := sanitise k.kvfmt n value
      let before := crc32c (rd s a 0x10000)
      let s := (t2Beats a 0x10000).foldl (fun s b =>
        let lo := 256 * b - a
        let keys := (List.range n).any fun x => (x * k.tp + o) * e < lo + 256 && lo < (x * k.tp + o + 1) * e
        let v := k.tp * n * e + o * n * e
        if keys || (v < lo + 256 && lo < v + n * e) then cacheLook (some p) 0 (256 * b) s else s) s
      let s := (List.range n).foldl (fun s x => wr (a + (x * k.tp + o) * e) ((kb.drop (x * e)).take e) s) s
      let s := wr (a + k.tp * n * e + o * n * e) vb s
      let after := crc32c (rd s a 0x10000)
      let old := pageHdr s c k pg
      let (q, s) := nextTile p (stackOf a) s
      let h : Rec64 := sealRec (recOf 512 [(0, 1, 1), (1, 1, k.kvfmt), (2, 1, 0xF), (4, 2, k.tp), (6, 2, 256),
        (8, 4, k.scale.toNat), (0xC, 2, stackOf a), (0xE, 1, 1), (0xF, 1, p),
        (0x10, 4, k.tensorBase.toNat + l * k.groups + g), (0x14, 4, t / k.tp), (0x18, 8, q % 2 ^ 64),
        (0x38, 4, fld old 0x38 4 ^^^ before ^^^ after)])
      touch a 0x10000 (bump (.sanitised p) (kn + vn) (wr (pageHdrAddr c k pg) (recBytes h) s))
  | _, _ => s

/-- The tile of a tile segment of a panel's units whose payload begins at an address. -/
def appendSeg (s : State) (p a : Nat) (c : Cast) : Option TilePlace :=
  (panelUnits s p).findSome? fun u => segTileAt (getUnit s u) c a

/-- Bytes of the rows of an APPEND: key rows and then value rows, one after another from SRC (log entry 17). -/
def appendBytes (k : KvDecl) (a : Rec64) : Nat := 2 * kvCount a * k.heads * k.dim * kvElem k

/-- The append tiles of a command are checked (R207, R240): a status with which the request ends, or none. Rows that leave
T1 are an access to a reserved address, which the base die of the queue beat counts (R181, R229), rows that hold no datum a no-home access (R190); SRC that is no tile's
address is no APPEND's (log entry 17); a tile that fails is lost (R208, R211). -/
def checkAppend (p : Nat) (k : KvDecl) (cmd : Nat × Rec64) (s : State) : Option Nat × State :=
  let a := cmd.2
  let src := kvSrc a
  let n := appendBytes k a
  if tierRange src n != 1 then (some stBad, bump (.reservedAddr cmd.1) 1 s)
  else if !homeAll s src n then (some stBad, bump (.noHome (stackOf src)) 1 s)
  else
    match (getCast s p).bind fun c => (appendSeg s p src c).map fun t => (c, t) with
    | none => (some stBad, bump (.rejectedKv p) 1 s)
    | some (c, x) =>
      match engineTiles c ((List.range (cdiv n x.len)).map x.plus) (touch src n s) with
      | (true, s) => (none, s)
      | (false, s) => (some stDataLost, s)

/-- The append tiles of several commands, checked until one fails. -/
def checkAppends (p : Nat) (k : KvDecl) (l : List (Nat × Rec64)) (s : State) : Option Nat × State :=
  l.foldl (fun acc a => if acc.1.isSome then acc else checkAppend p k a acc.2) (none, s)

/-- Rows of every layer and group at position `n0 + r` of a scatter. -/
def scatterPos (p : Nat) (sc : Scatter) (k : KvDecl) (n0 t : Nat) (s : State) : State :=
  let rb := k.heads * k.dim * kvElem k
  (lgPairs k).foldl (fun s lg =>
    match sc.appends.find? fun a => kvLayer a == lg.1 && kvGroup a == lg.2 with
    | some a =>
      let i := t - n0
      scatterRow p sc.slot lg.1 lg.2 t (rd s (kvSrc a + i * rb) rb) (rd s (kvSrc a + (sc.rows + i) * rb) rb) s
    | none => s) s

/-- The pages that the next position of a scatter needs (R239): taken when it is the first of its page index. -/
def scatterPages (p : Nat) (sc : Scatter) (k : KvDecl) (s : State) : Bool × State :=
  if sc.next % k.tp = 0 then takePages p sc.slot (sc.next / k.tp) s else (true, s)

/-- What stands between a scatter and the pages of its next position. -/
inductive PageTurn where
  | ready (s : State)
  | wait (s : State)
  | gone (s : State)
deriving Repr

/-- The pages of a position are there to be written: a hank in T3 returns first (R202), a write to the source of a running
move is held (R194), and a page that holds no datum is lost (R190, R211). -/
def pagesReady (p : Nat) (sc : Scatter) (k : KvDecl) (s : State) : PageTurn :=
  match getCast s p with
  | none => .wait s
  | some c =>
    let pages := (lgPairs k).map fun lg => pageEntry s k (rootAddr c sc.slot) lg.1 lg.2 (sc.next / k.tp)
    match returnPages p pages s with
    | some s => .wait s
    | none =>
      match pages.find? fun pg => !(pageAddr c pg).any fun a => homeAll s a 0x10000 with
      | some pg => .gone (badPage p sc.slot c pg s)
      | none =>
        match (pages.filterMap (pageAddr c)).find? fun a => inTransit s a 0x10000 with
        | some a => .wait (holdWrite p a [sc.slot] s)
        | none => .ready s

/-- A scatter runs as far as committed tokens and pages allow (R239, R240). -/
def scatterGo (p : Nat) : (fuel : Nat) → Scatter → State → Scatter × Bool × State
  | 0, sc, s => (sc, false, s)
  | f + 1, sc, s =>
    match getSlot s sc.slot, kvOf s p with
    | some x, some k =>
      if x.rebuild then (sc, false, s)
      else if x.length + sc.rows ≤ sc.next then (sc, true, s)
      else if x.committed ≤ sc.next then (sc, false, s)
      else
        match (if sc.taken then (true, s) else scatterPages p sc k s) with
        | (false, s) => ({ sc with waited := true }, false, if sc.waited then s else bump (.pageWaits p) 1 s)
        | (true, s) =>
          match pagesReady p sc k s with
          | .wait s => ({ sc with taken := true }, false, s)
          | .gone s => (sc, false, s)
          | .ready s =>
            scatterGo p f { sc with next := sc.next + 1, waited := false, taken := false } (scatterPos p sc k x.length sc.next s)
    | _, _ => (sc, true, s)

/-- Tokens of the sequence committed, or sampled and awaiting commitment (R300). -/
def Slot.tokens (x : Slot) : Nat := x.committed + x.sampled.length

/-- A slot's LENGTH rises; with every position to COMMITTED − 2 processed, PREFILL becomes DECODE (R240, R286). -/
def positionsDone (i n : Nat) (s : State) : State :=
  match getSlot s i with
  | none => s
  | some x =>
    let s := setSlot i { x with length := n } s
    if x.st == .prefill && x.generates && x.tokens ≤ n + 1 then
      slotChanged i (modSlot i (fun x => { x with st := .decode }) s)
    else s

/-- Mirror the full page indices of a request not yet sent (R413): the L × G pages of each, ascending; a page in T3
returns first, and its index goes with the next (R202). -/
def mirrorPages (i : Nat) (k : KvDecl) (len : Nat) (s : State) : State :=
  match getSlot s i with
  | none => s
  | some x =>
    if s.ply.kvThreshold = 0 || len < s.ply.kvThreshold || !lifelineOn s || x.kvSkip then s
    else
      match getCast s x.panel with
      | none => s
      | some c =>
        (upto x.lastKv (len / k.tp - x.lastKv)).foldl (fun s j =>
          let pages := (lgPairs k).map fun lg => pageEntry s k (rootAddr c i) lg.1 lg.2 j
          if (getSlot s i).any fun x => x.kvSkip || x.lastKv != j then s
          else if pages.any (pageInT3 s c) then (returnPages x.panel pages s).getD s
          else if 0x1000000 < backlogBytes s then bump .kvMirrorSkips 1 (modSlot i (fun x => { x with kvSkip := true }) s)
          else
            let s := (lgPairs k).foldl (fun s lg =>
              match pageAddr c (pageEntry s k (rootAddr c i) lg.1 lg.2 j) with
              | some a => sendBulk i 2 j lg.1 lg.2 (rd s a 0x10000) (cacheLooks (some x.panel) a 0x10000 (touch a 0x10000 s))
              | none => s) s
            modSlot i (fun x => { x with lastKv := j + 1 }) s) s

/-- A scatter has written its rows: PAGES and the slot's length, last (R240). -/
def scatterEnd (p : Nat) (sc : Scatter) (s : State) : State :=
  match getCast s p, kvOf s p, getSlot s sc.slot with
  | some c, some k, some x =>
    let n := x.length + sc.rows
    positionsDone sc.slot n (mirrorPages sc.slot k n
      (modSlot sc.slot (fun x => { x with pageList := rootAddr c sc.slot }) (writeRootPages (rootAddr c sc.slot) (cdiv n k.tp) s)))
  | _, _, _ => s

/-- Run the scatters of a panel, in ascending slot number; those that wait stay. -/
def runScatters (p : Nat) (s : State) : State :=
  match getCast s p with
  | none => s
  | some c =>
    c.scatters.foldl (fun s sc =>
      let (sc', done, s) := scatterGo p (sc.rows + 2) sc s
      if done then scatterEnd p sc' (modCast p (fun c => { c with scatters := c.scatters.filter (·.slot != sc.slot) }) s)
      else modCast p (fun c => { c with scatters := c.scatters.map fun x => if x.slot = sc.slot then sc' else x }) s) s

/-- What the commands a slot's step stored must be: one APPEND for every layer and group, each with the same FIRST and
COUNT (R239). -/
def appendsOk (k : KvDecl) (n : Nat) (l : List Rec64) : Bool :=
  l.length == k.layers * k.groups
    && (lgPairs k).all (fun lg => (l.filter fun a => kvLayer a == lg.1 && kvGroup a == lg.2).length == 1)
    && l.all fun a => kvFirst a == n && kvCount a == kvCount (l.headD 0)

/-- A slot's scatter at its token boundary: checked, and queued (R239). -/
def startScatter (p i : Nat) (s : State) : State :=
  match getCast s p, kvOf s p, getSlot s i with
  | some c, some k, some x =>
    let cmds := c.appends.filter fun a => kvSlot a.2 = i
    let mine := cmds.map (·.2)
    if x.st != .prefill && x.st != .decode then s
    else if !appendsOk k x.length mine then endSlot i stBad (bump (.rejectedKv p) 1 s)
    else
      match checkAppends p k cmds s with
      | (some status, s) => endSlot i status s
      | (none, s) =>
        modCast p (fun c => { c with scatters := c.scatters ++
          [{ slot := i, rows := kvCount (mine.headD 0), next := x.length, appends := mine }] }) s
  | _, _, _ => s

/-- PAGE_TAKE_RESUME: a scatter that waited in take_pages goes on (R240). -/
def execPageTakeResume (panel : BitVec 4) (s : State) : Result := .next (runScatters panel.toNat s)

end Sys2Proof.Machine
end

