-- ==== Sys2Proof/Machine/Experts.lean ====
section
/-! DEFINITION. Expert routing (R246 to R263): gating, sorting, bundles, capacity, expert work, returns, combining.
Where tiles of a bundle lie in an inbox, an outbound area or a return inbox is the model's choice (log entry 18). -/
namespace Sys2Proof.Machine
open Sys2Proof

/-! ## The declared layer -/

def expertLayer (c : Cast) (layer : Nat) : Option ExpertDecl := c.img.pat.experts[layer]?

/-- The value a stack has in a list of (stack, value). -/
def atStack {α : Type} (l : List (Nat × α)) (st : Nat) : Option α := (l.find? (·.1 == st)).map (·.2)

/-- Experts homed at a part and stack, ascending (R246). -/
def homedAt (d : ExpertDecl) (part st : Nat) : List Nat :=
  (d.homes.zipIdx.filter fun h => h.1.part == part && h.1.stack == st).map (·.2)

/-- The parts and stacks that home experts. -/
def homeStacks (d : ExpertDecl) : List (Nat × Nat) := (d.homes.map fun h => (h.part, h.stack)).eraseDups

/-- The home of an expert. -/
def homeOf (d : ExpertDecl) (e : Nat) : ExpertHome := lgetD d.homes e ⟨0, 0, 0⟩

/-- Bytes of a row in a format. -/
def rowOf (d : ExpertDecl) (fmt : Nat) : Nat := d.width * fmtBits fmt / 8

/-- Physical key of a declared work list. -/
def physList (c : Cast) (l : ListDecl) : Nat :=
  listKey l.region (if l.region then regionOf (physUnit c l.idx) else lgetD c.cmap l.idx 0) l.list

/-! ## Gating (R247, R248) -/

/-- Candidates in the order of R98. -/
def ranked (l : List (Nat × Nat)) : List (Nat × Nat) := l.foldl (fun acc x => rankIns x acc) []

/-- The choices of a token from its scores: (score, expert) by choice rank, and whether the choice was forced. -/
def gate (d : ExpertDecl) (scores : List Nat) : List (Nat × Nat) × Bool :=
  let all := scores.zipIdx
  let ch := (ranked (all.filter fun e => fle d.thresh.toNat e.1)).take d.kmax
  if ch.isEmpty && d.kmin = 1 then ((ranked all).take 1, true) else (ch, false)

/-- The gate weight of a score (R248): +0 when it is not finite. -/
def gateWeight (score : Nat) : Nat := if inf32 ≤ score % 2 ^ 31 then 0 else score

/-! ## Segments (R253) -/

/-- Bytes padded with zeros to whole beats. -/
def padBeats (l : List Byte) : List Byte := l ++ List.replicate (256 * cdiv l.length 256 - l.length) 0

/-- Bits packed into bytes, lowest first. -/
def packBits (l : List Bool) : List Byte :=
  (chunks 8 (cdiv l.length 8) l).map fun g => BitVec.ofNat 8 (g.zipIdx.foldl (fun a b => a + b2n b.1 * 2 ^ b.2) 0)

/-- The bytes of a segment: record, index tile, rows, and for a return the keep tile. -/
def segBytes (ret : Bool) (layer source step : Nat) (g : Segment) : List Byte :=
  let n := g.index.length
  let r : Beat := recOf 2048 [(0, 1, 1), (1, 1, 1 + b2n ret), (2, 1, layer), (4, 2, step), (6, 2, source),
    (8, 2, g.expert), (0xC, 4, n), (0x10, 4, if ret then g.rows.length else 0), (0x14, 4, if ret then 0 else g.localDrops)]
  beatBytes r ++
    (if n = 0 then []
     else padBeats (g.index.flatMap fun i => bytesOf 4 (i.1 + 65536 * i.2))
       ++ (if ret then padBeats (packBits g.keep) else []) ++ padBeats (g.rows.flatMap id))

/-- Read one segment from bytes: the segment and the rest. -/
def parseSeg (ret : Bool) (rowB : Nat) (l : List Byte) : Segment × List Byte :=
  let n := natOf ((l.drop 0xC).take 4)
  let kept := natOf ((l.drop 0x10).take 4)
  let e := natOf ((l.drop 8).take 2)
  let ld := natOf ((l.drop 0x14).take 4)
  let l := l.drop 256
  if n = 0 then ({ expert := e, index := [], rows := [], keep := [], localDrops := ld }, l)
  else
    let idx := (List.range n).map fun i =>
      let w := natOf ((l.drop (4 * i)).take 4)
      (w % 65536, nbits w 16 4)
    let l := l.drop (256 * cdiv (4 * n) 256)
    let keep := if ret then (List.range n).map fun i => nbit (lgetD l (i / 8) 0).toNat (i % 8) else List.replicate n true
    let l := if ret then l.drop (256 * cdiv (cdiv n 8) 256) else l
    let rows := if ret then kept else n
    ({ expert := e, index := idx, rows := chunks rowB rows (l.take (rows * rowB)), keep := keep, localDrops := ld },
      l.drop (256 * cdiv (rows * rowB) 256))

/-- Read `n` segments. -/
def parseSegs (ret : Bool) (rowB : Nat) : (n : Nat) → List Byte → List Segment
  | 0, _ => []
  | k + 1, l => let (g, t) := parseSeg ret rowB l; g :: parseSegs ret rowB k t

/-- The most bytes of a segment. -/
def maxSeg (d : ExpertDecl) (ret : Bool) : Nat :=
  256 + 256 * cdiv (4 * d.cap) 256 + (if ret then 256 * cdiv (cdiv d.cap 8) 256 else 0)
    + 256 * cdiv (d.cap * rowOf d (if ret then d.yfmt else d.xfmt)) 256

/-- Rows of one row tile: as many as 256 rows and 256 beats allow, whole beats together (log entry 18). -/
def tileRows (rb : Nat) : Nat :=
  let n := min 256 (65536 / max 1 rb)
  max 1 (if rb % 256 = 0 then n else n / 4 * 4)

/-- The tiles of a segment of `n` rows, `kept` of them carried back: format (0 where none is stated), rows (0 likewise) and
bytes. The record, the index words and the keep bits are tiles of their own, cut at 256 beats, and so are the rows, which are
in XFMT or YFMT (R205, R253; log entry 18). -/
def segTiles (d : ExpertDecl) (ret : Bool) (n kept : Nat) : List (Nat × Nat × Nat) :=
  let fmt := if ret then d.yfmt else d.xfmt
  let rb := rowOf d fmt
  let r := tileRows rb
  let rows := if ret then kept else n
  (0, 0, 256) ::
    if n = 0 then []
    else
      ((List.range (cdiv (4 * n) 65536)).map fun i => (0, 0, 256 * cdiv (min 65536 (4 * n - 65536 * i)) 256))
        ++ (if ret then [(0, 0, 256 * cdiv (cdiv n 8) 256)] else [])
        ++ (List.range (cdiv rows r)).map fun i => (fmt, min r (rows - r * i), 256 * cdiv (min r (rows - r * i) * rb) 256)

/-- Bytes of the payloads of a slot that holds segments of every expert of the layer, and of the slot: the tiles' headers stand
after them (log entry 18). -/
def slotPayload (d : ExpertDecl) (ret : Bool) : Nat := d.experts * maxSeg d ret
def bundleSlot (d : ExpertDecl) (ret : Bool) : Nat :=
  slotPayload d ret + 256 * cdiv (64 * d.experts * (segTiles d ret d.cap d.cap).length) 256

/-- Offset of a slot in an inbox: slot (SOURCE, STEP mod 2) (R254). -/
def inboxOff (d : ExpertDecl) (source step : Nat) : Nat := (2 * source + step % 2) * bundleSlot d false

/-- Offset of what goes to or comes from a home part and stack, in an outbound area or a return inbox. -/
def homeOff (d : ExpertDecl) (ret : Bool) (part st step : Nat) : Nat := (2 * (4 * part + st) + step % 2) * bundleSlot d ret

/-! ## Checked reads (R207, R262) -/

/-- The tile layout some unit's segment gives an area. -/
def areaTile (s : State) (p area : Nat) : Option (Nat × TileDecl) :=
  (panelUnits s p).findSome? fun u =>
    (getUnit s u).segs.findSome? fun e => if e.2.area = area then e.2.tile.map fun t => (e.2.off, t) else none

/-- The numbers of the tiles of a segment at `base` that hold bytes `[off, off + n)` of its area. -/
def tilesOver (base tile off n : Nat) : List Nat :=
  if n = 0 || off < base then []
  else upto ((off - base) / tile) ((off - base + n - 1) / tile + 1 - (off - base) / tile)

/-- The tiles that hold bytes `[off, off + n)` of an area are read and checked; one that fails is recovered or lost (R207,
R208, R262). Whether all pass. -/
def checkArea (p : Nat) (area off n : Nat) (s : State) : Bool × State :=
  match getCast s p, areaTile s p area with
  | some c, some (base, t) =>
    engineTiles c ((tilesOver base (256 * t.tb) off n).map (segTile area base t)) s
  | _, _ => (true, s)

/-- Several ranges of areas are checked. -/
def checkAreas (p : Nat) (l : List (Nat × Nat × Nat)) (s : State) : Bool × State :=
  l.foldl (fun acc r => if acc.1 then checkArea p r.1 r.2.1 r.2.2 acc.2 else acc) (true, s)

/-- Where the area of a range is a tile segment, the route engine writes the headers of the tiles it has written (R205,
R253): untyped data of a base die, the format and the row bytes those of its rows; for `fmt` 0 neither is stated. What R205
leaves open there is a free value of the tile and its data (log entries 3, 18). -/
def tileHeaders (p die : Nat) (c : Cast) (area off n fmt rowB : Nat) (s : State) : State :=
  match areaTile s p area with
  | none => s
  | some (base, t) =>
    (tilesOver base (256 * t.tb) off n).foldl (fun s i =>
      let payload := areaRead s c area (base + 256 * t.tb * i) (256 * t.tb)
      let f (k : Nat) : Nat := Config.headerField k [area, i] payload
      let fm := if fmt = 0 then 1 + f 0 % 12 else fmt
      let rows := if fmt = 0 then 1 + f 1 % 256 else max 1 (min 256 (256 * t.tb / max 1 rowB))
      let (q, s) := nextTile p die s
      putTileHdr c t i (mkTileHdr fm 0xF 0 rows t.tb (if fmt = 0 then f 2 % 2 ^ 32 else one32) die 1 p (f 3 % 2 ^ 32) i q
        payload) s) s

/-- The route engine of a base die writes bytes of an area, with the headers of its tiles. -/
def tileWrite (p die : Nat) (c : Cast) (area off fmt rowB : Nat) (l : List Byte) (s : State) : State :=
  tileHeaders p die c area off l.length fmt rowB (areaWrite c area off l s)

/-- Tile `k` of a slot: its place in the payloads and its header (log entry 18). -/
def slotTile (d : ExpertDecl) (ret : Bool) (area off at_ len k : Nat) : TilePlace :=
  { area := area, off := at_, len := len
    tile := some ({ tb := len / 256, hdrArea := area, hdrOff := off + slotPayload d ret, retain := none }, k) }

/-- The header of a tile of a slot (R205): untyped data of a base die; the format and the rows of rows, what is not stated a
free value (log entries 3, 18). -/
def slotHdr (p die fmt rows k seq : Nat) (payload : List Byte) : Rec64 :=
  let f (n : Nat) : Nat := Config.headerField n [k] payload
  mkTileHdr (if fmt = 0 then 1 + f 0 % 12 else fmt) 0xF 0 (if fmt = 0 then 1 + f 1 % 256 else rows) (payload.length / 256)
    (if fmt = 0 then f 2 % 2 ^ 32 else one32) die 1 p (f 3 % 2 ^ 32) (f 4 % 2 ^ 32) seq payload

/-- The route engine of a base die writes a bundle or a set of returns into a slot: its segments, each tile with its header;
where the area is a tile segment of some unit, with that segment's headers too (R204, R253). -/
def writeSlot (p die : Nat) (c : Cast) (d : ExpertDecl) (ret : Bool) (area off layer source step : Nat) (segs : List Segment)
    (s : State) : State :=
  let bytes := segs.flatMap (segBytes ret layer source step)
  let tiles := segs.flatMap fun g => segTiles d ret g.index.length g.rows.length
  let s := (tiles.zipIdx.foldl (fun (acc : List Byte × State) t =>
    let payload := acc.1.take t.1.2.2
    let (q, s) := nextTile p die acc.2
    (acc.1.drop t.1.2.2,
      areaWrite c area (off + slotPayload d ret + 64 * t.2) (recBytes (slotHdr p die t.1.1 t.1.2.1 t.2 q payload)) s))
    (bytes, areaWrite c area off bytes s)).2
  tileHeaders p die c area off bytes.length 0 0
    (tileHeaders p die c area (off + slotPayload d ret) (64 * tiles.length) 0 0 s)

/-- The tiles of the segment whose record is the beat `at_` of a slot and tile `k` of it, as that record gives them, and where
the next segment begins (R253, R262). -/
def segPlaces (c : Cast) (d : ExpertDecl) (ret : Bool) (area off at_ k : Nat) (s : State) : Nat × List TilePlace :=
  let r := areaRead s c area at_ 256
  let rows := min d.cap (natOf ((r.drop 0xC).take 4))
  let tiles := (segTiles d ret rows (min rows (natOf ((r.drop 0x10).take 4)))).drop 1
  tiles.foldl (fun (acc : Nat × List TilePlace) t =>
    (acc.1 + t.2.2, acc.2 ++ [slotTile d ret area off acc.1 t.2.2 (k + 1 + acc.2.length)])) (at_ + 256, [])

/-- The tiles of one segment are read and checked, its record first (R207, R253): whether all pass, where the next segment
begins, and its first tile's number. -/
def checkSeg (c : Cast) (d : ExpertDecl) (ret : Bool) (area off at_ k : Nat) (s : State) : Bool × Nat × Nat × State :=
  match engineTiles c [slotTile d ret area off at_ 256 k] s with
  | (false, s) => (false, at_, k, s)
  | (true, s) =>
    let places := segPlaces c d ret area off at_ k s
    match engineTiles c places.2 s with
    | (false, s) => (false, at_, k, s)
    | (true, s) => (true, places.1, k + 1 + places.2.length, s)

/-- A check of `n` segments one after the other, as far as each passes; whether all do. -/
def eachSeg (f : Nat → Nat → State → Bool × Nat × Nat × State) : (n at_ k : Nat) → State → Bool × State
  | 0, _, _, s => (true, s)
  | n + 1, at_, k, s =>
    match f at_ k s with
    | (false, _, _, s) => (false, s)
    | (true, at_, k, s) => eachSeg f n at_ k s

/-- The tiles of `n` segments of a slot are read and checked; one that fails is recovered or lost. Whether all pass. -/
def checkSlot (c : Cast) (d : ExpertDecl) (ret : Bool) (area off n at_ k : Nat) (s : State) : Bool × State :=
  eachSeg (checkSeg c d ret area off) n at_ k s

/-- The segments of a slot as its bytes give them. -/
def readSlot (s : State) (c : Cast) (d : ExpertDecl) (ret : Bool) (area off n : Nat) : List Segment :=
  parseSegs ret (rowOf d (if ret then d.yfmt else d.xfmt)) n (areaRead s c area off (n * maxSeg d ret))

/-! ## Sorting at the source (R252) -/

/-- Choices of each token with gate weights; forced and non-finite scores. -/
def gateAll (d : ExpertDecl) (rows : List (List Nat)) : List (List (Nat × Nat)) × Nat × Nat :=
  rows.foldr (fun sc acc =>
    let g := gate d sc
    let bad := (g.1.filter fun e => inf32 ≤ e.1 % 2 ^ 31).length
    ((g.1.map fun e => (e.2, gateWeight e.1)) :: acc.1, acc.2.1 + b2n g.2, acc.2.2 + bad)) ([], 0, 0)

/-- Every choice of an expert in (token index, choice rank) order. -/
def choicesOf (choices : List (List (Nat × Nat))) (e : Nat) : List (Nat × Nat) :=
  choices.zipIdx.flatMap fun t => (t.1.zipIdx.filter fun ch => ch.1.1 == e).map fun ch => (t.2, ch.2)

/-- The dispatch segment of an expert: its first CAP choices; the others are dropped at the source. -/
def dispatchSeg (d : ExpertDecl) (row : Nat → List Byte) (choices : List (List (Nat × Nat))) (e : Nat) : Segment :=
  let all := choicesOf choices e
  let kept := all.take d.cap
  { expert := e, index := kept, rows := kept.map fun i => row i.1, keep := List.replicate kept.length true,
    localDrops := all.length - kept.length }

/-- What a DISPATCH reads: the scores and the rows of its tokens. -/
def dispatchReads (d : ExpertDecl) (source tokens : Nat) : List (Nat × Nat × Nat) :=
  [(lgetD d.scoreArea source 0, 0, 4 * d.experts * tokens), (lgetD d.rowArea source 0, 0, tokens * rowOf d d.xfmt)]

/-- What a DISPATCH's gates give: the segments of every expert, and the open step (R247, R248, R252). -/
def dispatchSegs (s : State) (c : Cast) (d : ExpertDecl) (layer source step tokens : Nat) :
    List Segment × SrcStep × Nat × Nat :=
  let rb := rowOf d d.xfmt
  let rows := (List.range tokens).map fun t =>
    words32 (areaRead s c (lgetD d.scoreArea source 0) (4 * d.experts * t) (4 * d.experts)) d.experts
  let (choices, forced, bad) := gateAll d rows
  ((List.range d.experts).map (dispatchSeg d (fun t => areaRead s c (lgetD d.rowArea source 0) (t * rb) rb) choices),
   { layer := layer, source := source, step := step,
     choices := choices.map fun t => t.map fun ch => (ch.1, BitVec.ofNat 32 ch.2),
     sentDrop := (List.range d.experts).flatMap fun e => (choicesOf choices e).drop d.cap, returns := [], experts := [] },
   forced, bad)

/-- The bundle for a home is written: to the inbox of a home of this part, to the outbound area for the others (R254). -/
def writeBundle (p : Nat) (c : Cast) (d : ExpertDecl) (layer source step : Nat) (segs : List Segment) (h : Nat × Nat)
    (s : State) : State :=
  let die := lgetD d.sourceStack source 0
  let mine := segs.filter fun g => (homedAt d h.1 h.2).contains g.expert
  if h.1 = c.img.pat.selfPart then
    let b : Bundle := { layer := layer, source := source, step := step, stack := h.2, part := h.1, ret := false,
                        segs := mine, announced := false }
    writeSlot p die c d false ((atStack d.inboxArea h.2).getD 0) (inboxOff d source step) layer source step mine
      (modCast p (fun c => { c with inbox := c.inbox ++ [b] }) s)
  else writeSlot p die c d false (lgetD d.sendArea source 0) (homeOff d false h.1 h.2 step) layer source step mine s

/-- A DISPATCH runs (R252): gates, sorts, and writes a bundle for every home; homes of this part are announced, the
exchange units of the source are signalled for the others (R254). A lost tile ends the requests of the step (R262). -/
def dispatchRun (p layer source step tokens : Nat) (s : State) : State :=
  match getCast s p with
  | none => s
  | some c =>
    match expertLayer c layer with
    | none => s
    | some d =>
      match checkAreas p (dispatchReads d source tokens) s with
      | (false, s) => lostForPanel p s
      | (true, s) =>
        let (segs, open_, forced, bad) := dispatchSegs s c d layer source step tokens
        let s := bump (.forced p layer) forced (bump (.nonFinite p layer) bad s)
        let s := segs.foldl (fun s g => if g.localDrops = 0 then s else bump (.drops p layer g.expert) g.localDrops s) s
        let s := modCast p (fun c => { c with srcSteps := c.srcSteps ++ [open_] }) s
        let s := (homeStacks d).foldl (fun s h => writeBundle p c d layer source step segs h s) s
        if (homeStacks d).any (fun h => h.1 != c.img.pat.selfPart) then
          sendSignals ((lgetD d.exchange source []).map (physSem c)) s
        else s

/-! ## Route commands (R250, R251) -/

def rcLayer (c : Rec64) : Nat := fld c 2 1
def rcPart (c : Rec64) : Nat := fld c 3 1
def rcStep (c : Rec64) : Nat := fld c 4 2
def rcSource (c : Rec64) : Nat := fld c 6 2
def rcTokens (c : Rec64) : Nat := fld c 8 4

/-- Steps of a layer open at a source, oldest first. -/
def srcOpen (c : Cast) (layer source : Nat) : List Nat :=
  (c.srcSteps.filter fun x => x.layer == layer && x.source == source).map (·.step)

/-- Steps of a layer open at its sources, oldest first (R259). -/
def layerOpen (c : Cast) (layer : Nat) : List Nat := ((c.srcSteps.filter fun x => x.layer == layer).map (·.step)).eraseDups

/-- How far a step is ahead of another; STEP is modulo 65,536. -/
def stepGap (a b : Nat) : Nat := (b + 65536 - a) % 65536

/-- The oldest of some steps. -/
def oldestStep (l : List Nat) : Option Nat := l.find? fun a => l.all fun b => stepGap a b < 32768

/-- The oldest step of a layer that is open or waits (R259). -/
def layerOldest (c : Cast) (layer : Nat) : Option Nat :=
  oldestStep (layerOpen c layer ++ (c.waitDispatch.filter fun w => rcLayer w.2 == layer).map fun w => rcStep w.2)

/-- A DISPATCH may run now: its step is the oldest or the one after it, so that two steps are open at most and a third waits
until the oldest closes (R259). -/
def mayOpen (c : Cast) (layer step : Nat) : Bool :=
  match layerOldest c layer with
  | none => true
  | some n => stepGap n step ≤ 1

/-- Steps of a layer open at a home stack: bundles or home steps, oldest first. -/
def homeOpen (c : Cast) (layer st : Nat) : List Nat :=
  (((c.homeSteps.filter fun x => x.layer == layer && x.stack == st).map (·.step))
    ++ ((c.inbox.filter fun b => b.layer == layer && b.stack == st && !b.ret).map (·.step))).eraseDups

/-- The key under which an accepted command is remembered: a stack's engine keeps its own (R251). -/
def rcKey (kind st : Nat) (c : Rec64) : Nat × Nat × Nat × Nat × Nat :=
  (rcLayer c, rcStep c, kind, rcSource c, rcPart c + (if kind = 2 then 64 * st else 0))

/-- The step of a command is one the layer may hold open; a DISPATCH for a third step waits (R251, R259). -/
def stepOk (x : Cast) (kind st : Nat) (c : Rec64) : Bool :=
  let l := rcLayer c
  match kind with
  | 1 => (layerOldest x l).all fun n => stepGap n (rcStep c) ≤ 2
  | 2 => (oldestStep (homeOpen x l st)).all fun n => stepGap n (rcStep c) ≤ 1
  | _ => (srcOpen x l (rcSource c)).contains (rcStep c)

/-- The route engine accepts a command of a kind (R251). -/
def routeOk (x : Cast) (kind st : Nat) (c : Rec64) : Bool :=
  match expertLayer x (rcLayer c) with
  | none => false
  | some d =>
    recOk c && fld c 0 1 == 1 && fld c 1 1 == kind && fld c 0xC 48 == 0
      && rcSource c < d.sources && rcPart c < 64
      && (if kind = 1 then rcPart c == 0 && rcTokens c ≤ d.tmax else rcTokens c == 0)
      && !x.seen.contains (rcKey kind st c) && stepOk x kind st c

/-- A discarded command (R251). -/
def routeReject (p : Nat) (c : Rec64) (s : State) : State := bump (.rejectedRoute p (rcLayer c)) 1 s

/-- Remember an accepted command; STEP being modulo 65,536, those half its range back are forgotten. -/
def remember (p kind st : Nat) (c : Rec64) (s : State) : State :=
  modCast p (fun x =>
    { x with seen := (x.seen.filter fun k => k.1 != rcLayer c || (rcStep c + 65536 - k.2.1) % 65536 < 32768
        || 65532 ≤ (rcStep c + 65536 - k.2.1) % 65536) ++ [rcKey kind st c] }) s

/-- A DISPATCH reads its areas and runs, `taken` being what takes the command from where it waits; an access that waits
leaves it there (R190, R202). -/
def dispatchNow (p : Nat) (c : Rec64) (taken : State → State) (s : State) : State :=
  match (getCast s p).bind fun x => expertLayer x (rcLayer c) with
  | none => s
  | some d =>
    match areasAccess p (dispatchReads d (rcSource c) (rcTokens c)) [] s with
    | .go _ s => dispatchRun p (rcLayer c) (rcSource c) (rcStep c) (rcTokens c) (taken s)
    | .wait f => f.1
    | .lost s => taken s
    | .fault s => taken s

/-- DISPATCH: runs, or waits for the oldest open step to close (R259). -/
def execDispatch (panel : BitVec 4) (stack : BitVec 2) (c : Rec64) (s : State) : Result :=
  let p := panel.toNat
  let st := stack.toNat
  .next (match getCast s p with
    | none => unpost p st c s
    | some x =>
      if !routeOk x 1 st c then routeReject p c (unpost p st c s)
      else if mayOpen x (rcLayer c) (rcStep c) then dispatchNow p c (fun s => remember p 1 st c (unpost p st c s)) s
      else
        bump (.dispatchWaits p (rcLayer c)) 1
          (modCast p (fun x => { x with waitDispatch := x.waitDispatch ++ [(st, c)] }) (remember p 1 st c (unpost p st c s))))

/-- DISPATCH_RESUME: the first held DISPATCH of a layer whose step may be open runs (R259). -/
def execDispatchResume (panel : BitVec 4) (layer : BitVec 6) (s : State) : Result :=
  let p := panel.toNat
  .next (match getCast s p with
    | none => s
    | some x =>
      match x.waitDispatch.find? fun w => rcLayer w.2 == layer.toNat && mayOpen x (rcLayer w.2) (rcStep w.2) with
      | none => s
      | some w => dispatchNow p w.2 (modCast p (fun x => { x with waitDispatch := x.waitDispatch.erase w })) s)

/-! ## Capacity and expert work (R255, R256) -/

/-- The problem instruction of a block of kept rows (R256). -/
def blockProblem (d : ExpertDecl) (e m off slot : Nat) : Rec64 :=
  let t := setFld (setFld (setFld (setFld (homeOf d e).template 2 2 m) 0x10 4 e) 0x14 4 off) 0x18 4 slot
  sealRec t

/-- Rows of an expert buffer: CAP for each homed expert, ascending. -/
def bufRow (d : ExpertDecl) (part st e slot : Nat) : Nat := (homedAt d part st).idxOf e * d.cap + slot

/-- The count word of a step's epoch (R165, R256). -/
def countWord (step n : Nat) (final : Bool) : BitVec 64 := BitVec.ofNat 64 (n + b2n final * 2 ^ 31 + step * 2 ^ 32)

/-- The engine's store to its list's count beat. -/
def raiseCount (c : Cast) (d : ExpertDecl) (st step n : Nat) (final : Bool) (s : State) : State :=
  match atStack d.workList st with
  | none => s
  | some (li, _) =>
    match c.img.pat.lists[li]? with
    | none => s
    | some l =>
      let w := countWord step n final
      countStore (physList c l) w (areaWrite c l.area l.off (bytesOf 8 w.toNat) s)

/-- Append a problem instruction for a block and raise COUNT (R256). -/
def appendProblem (c : Cast) (d : ExpertDecl) (st step n : Nat) (r : Rec64) (s : State) : State :=
  let area := ((atStack d.workList st).map (·.2)).getD 0
  raiseCount c d st step (n + 1) false (areaWrite c area (64 * n) (recBytes r) s)

/-- Get and set a home step. -/
def homeStepOf (x : Cast) (layer st step : Nat) : HomeStep :=
  (x.homeSteps.find? fun h => h.layer == layer && h.stack == st && h.step == step).getD
    { layer := layer, stack := st, step := step, done := 0, slots := [], kept := [], keep := [], base := [], probs := 0 }
def putHomeStep (p : Nat) (h : HomeStep) (s : State) : State :=
  modCast p (fun x =>
    let same (y : HomeStep) : Bool := y.layer == h.layer && y.stack == h.stack && y.step == h.step
    { x with homeSteps := if x.homeSteps.any same then x.homeSteps.map fun y => if same y then h else y
                          else x.homeSteps ++ [h] }) s

/-- The segment of one expert takes its global slots: kept rows are copied, blocks of RB rows appended (R255, R256). -/
def placeSeg (p part st source : Nat) (c : Cast) (d : ExpertDecl) (h : HomeStep) (g : Segment) (s : State) :
    HomeStep × State :=
  let e := g.expert
  let g0 := tgetD h.slots e 0
  let n := g.index.length
  let keep := (List.range n).map fun i => decide (g0 + i < d.cap)
  let kept := (keep.filter id).length
  let rb := rowOf d d.xfmt
  let row0 := bufRow d part st e g0
  let area := (atStack d.bufArea st).getD 0
  let s := tileWrite p st c area (row0 * rb) d.xfmt rb ((g.rows.take kept).flatMap id) s
  let s := bump (.rowsKept p h.layer e) kept (if n = kept then s else bump (.drops p h.layer e) (n - kept) s)
  let blocks := (List.range (cdiv kept d.rb)).map fun b => (b * d.rb, min d.rb (kept - b * d.rb))
  let r := blocks.foldl (fun (acc : Nat × State) b =>
    (acc.1 + 1, appendProblem c d st h.step acc.1 (blockProblem d e b.2 ((row0 + b.1) * rb) (g0 + b.1)) acc.2))
    (h.probs, s)
  ({ h with
      slots := tset h.slots e (g0 + n)
      kept := tset h.kept e (tgetD h.kept e 0 + kept)
      keep := h.keep ++ [(source, e, keep)]
      base := h.base ++ [(source, e, g0)]
      probs := r.1 }, r.2)

/-- The home processes the bundle of one source; after the last it sets FINAL (R255, R256). -/
def takeBundle (p layer st step : Nat) (x : Cast) (d : ExpertDecl) (b : Bundle) (h : HomeStep) (s : State) :
    HomeStep × State :=
  let me := x.img.pat.selfPart
  let r := b.segs.foldl (fun (acc : HomeStep × State) g => placeSeg p me st b.source x d acc.1 g acc.2) (h, s)
  let h := { r.1 with done := r.1.done + 1 }
  if h.done = d.sources then
    let empty := (homedAt d me st).filter fun e => tgetD h.kept e 0 = 0
    (h, raiseCount x d st step h.probs true (empty.foldl (fun s e => bump (.emptySteps p layer e) 1 s) r.2))
  else (h, r.2)

/-- The bundle that the home processes next, when it is there (R255). -/
def nextBundle (x : Cast) (layer st step : Nat) (h : HomeStep) : Option Bundle :=
  x.inbox.find? fun b => b.announced && !b.ret && b.layer == layer && b.stack == st && b.step == step && b.source == h.done

/-- A home's expert buffer, list and output buffer are an earlier open step's, one with kept rows or whose sources are not
all processed, until its returns are written. -/
def homeBusy (x : Cast) (d : ExpertDecl) (layer st step : Nat) : Bool :=
  ((x.homeSteps.filter fun h => h.layer == layer && h.stack == st).takeWhile fun h => h.step != step).any fun h =>
    h.probs != 0 || h.done != d.sources

/-- The announced bundles of a step hold no row: every source's is there, and no choice of any was dispatched (R257,
R261). -/
def stepEmpty (x : Cast) (d : ExpertDecl) (layer st step : Nat) : Bool :=
  (List.range d.sources).all fun n => x.inbox.any fun b =>
    b.announced && !b.ret && b.layer == layer && b.stack == st && b.step == step && b.source == n
      && b.segs.all fun g => g.index.isEmpty

/-- The home processes source after source as their bundles are there (R255, R256). Its buffers hold the rows of one step:
those of the second open step wait until the first's returns are written, unless it has none (R257, R259; log entry
18). -/
def homeGo (p layer st step : Nat) : (fuel : Nat) → State → State
  | 0, s => s
  | k + 1, s =>
    match getCast s p with
    | none => s
    | some x =>
      match expertLayer x layer with
      | none => s
      | some d =>
        let h := homeStepOf x layer st step
        if d.sources ≤ h.done then s
        else if homeBusy x d layer st step && !stepEmpty x d layer st step then putHomeStep p h s
        else
          match nextBundle x layer st step h with
          | none => putHomeStep p h s
          | some b =>
            let r := takeBundle p layer st step x d b h s
            homeGo p layer st step k (putHomeStep p r.1 r.2)

/-- Every step open at a home goes on, oldest first. -/
def homeGoAll (p layer st : Nat) (s : State) : State :=
  match getCast s p with
  | none => s
  | some x => (homeOpen x layer st).foldl (fun s step => homeGo p layer st step 65 s) s

/-- Where the bundle of a source stands in a home's inbox: the area and the slot (R254). -/
def inboxReads (d : ExpertDecl) (st source step : Nat) : List (Nat × Nat × Nat) :=
  [((atStack d.inboxArea st).getD 0, inboxOff d source step, bundleSlot d false)]

/-- The segments of a home's inbox slot, its tiles checked: none when one is lost, and the requests of the step end with
DATA_LOST (R262). -/
def takeInbox (p st source step : Nat) (x : Cast) (d : ExpertDecl) (s : State) : Option (List Segment) × State :=
  let area := (atStack d.inboxArea st).getD 0
  let off := inboxOff d source step
  let n := (homedAt d x.img.pat.selfPart st).length
  match checkSlot x d false area off n off 0 s with
  | (false, s) => (none, lostForPanel p s)
  | (true, s) => (some (readSlot s x d false area off n), s)

/-- A bundle of this module in an inbox, not yet announced. -/
def isNewBundle (layer st source step : Nat) (b : Bundle) : Bool :=
  !b.announced && !b.ret && b.layer == layer && b.stack == st && b.source == source && b.step == step

/-- The home takes an announced bundle of this module from its inbox and goes on (R254, R255). -/
def announceGo (p layer st source step : Nat) (x : Cast) (d : ExpertDecl) (s : State) : State :=
  match takeInbox p st source step x d s with
  | (none, s) => s
  | (some g, s) =>
    let f (b : Bundle) : Bundle :=
      if isNewBundle layer st source step b then { b with announced := true, segs := g } else b
    homeGo p layer st step 65 (modCast p (fun x => { x with inbox := x.inbox.map f }) s)

/-- BUNDLE_ANNOUNCE: a bundle of this module reaches its home (R254, R255). -/
def execBundleAnnounce (panel : BitVec 4) (stack : BitVec 2) (layer : BitVec 6) (source : BitVec 6) (step : BitVec 16)
    (s : State) : Result :=
  let p := panel.toNat
  .next (match getCast s p with
    | none => s
    | some x =>
      match expertLayer x layer.toNat with
      | none => s
      | some d =>
        if x.inbox.any (isNewBundle layer.toNat stack.toNat source.toNat step.toNat) then
          withAreas p (inboxReads d stack.toNat source.toNat step.toNat) []
            (announceGo p layer.toNat stack.toNat source.toNat step.toNat x d) s
        else s)

/-- ARRIVE: a bundle from another module stands in the inbox (R254); a lost tile of it ends the requests of the step
(R262). -/
def execArrive (panel : BitVec 4) (stack : BitVec 2) (c : Rec64) (s : State) : Result :=
  let p := panel.toNat
  let st := stack.toNat
  .next (match getCast s p with
    | none => unpost p st c s
    | some x =>
      match expertLayer x (rcLayer c) with
      | none => routeReject p c (unpost p st c s)
      | some d =>
        if !routeOk x 2 st c then routeReject p c (unpost p st c s)
        else
          match areasAccess p (inboxReads d st (rcSource c) (rcStep c)) [] s with
          | .wait f => f.1
          | .lost s => unpost p st c s
          | .fault s => unpost p st c s
          | .go _ s =>
            match takeInbox p st (rcSource c) (rcStep c) x d (remember p 2 st c (unpost p st c s)) with
            | (none, s) => s
            | (some g, s) =>
              let b : Bundle :=
                { layer := rcLayer c, source := rcSource c, step := rcStep c, stack := st, part := rcPart c, ret := false,
                  segs := g, announced := true }
              homeGo p (rcLayer c) st (rcStep c) 65 (modCast p (fun x => { x with inbox := x.inbox ++ [b] }) s))

/-! ## Combining (R258) -/

/-- The sum of the weights of kept choices, in rank order. -/
def weightSum (ws : List Nat) : Nat := ws.foldl fadd 0

/-- A combined row: the kept choices' weights and YFMT rows as FP32 (R258). -/
def combineRow (d : ExpertDecl) (l : List (Nat × List Nat)) : List Nat :=
  let sum := weightSum (l.map (·.1))
  let norm := d.renorm && flt 0 sum && flt sum inf32
  let w2 (w : Nat) : Nat := if norm then fmul w (frecip sum) else w
  (List.range d.width).map fun k => l.foldl (fun acc y => ffma (w2 y.1) (lgetD y.2 k 0) acc) 0

/-- The kept row of a token's choice among the returns: found by token index and rank. -/
def returnedRow (rs : List Segment) (e t rank : Nat) : Option (List Byte) :=
  rs.findSome? fun g =>
    if g.expert != e then none
    else
      match g.index.zipIdx.find? fun i => i.1 == (t, rank) with
      | none => none
      | some i =>
        if lgetD g.keep i.2 false then g.rows[((g.keep.take i.2).filter id).length]? else none

/-- A source combines a step when return segments of all experts are there, and the step closes (R258, R259). -/
def combine (p layer source step : Nat) (s : State) : State :=
  match getCast s p with
  | none => s
  | some x =>
    match expertLayer x layer, x.srcSteps.find? fun y => y.layer == layer && y.source == source && y.step == step with
    | some d, some y =>
      if !((List.range d.experts).all fun e => y.experts.contains e) then s
      else
        let rows := y.choices.zipIdx.map fun t =>
          let kept := t.1.zipIdx.filterMap fun ch =>
            (returnedRow y.returns ch.1.1 t.2 ch.2).map fun r =>
              (ch.1.2.toNat, (List.range d.width).map fun k => widen d.yfmt (elemAt d.yfmt r k))
          (kept.isEmpty, combineRow d kept)
        let none_ := (rows.filter (·.1)).length
        let rb := rowOf d d.ofmt
        let area := lgetD d.outArea source 0
        let bytes := rows.flatMap fun r => packElems d.ofmt (r.2.map fun v => (narrow d.ofmt v).1)
        let die := lgetD d.sourceStack source 0
        let s := if none_ = 0 then s else bump (.noExpert p layer) none_ s
        let s := tileWrite p die x area 0 d.ofmt rb bytes s
        let s := modCast p (fun x => { x with srcSteps := x.srcSteps.filter fun z =>
          !(z.layer == layer && z.source == source && z.step == step) }) s
        sendSignals ((lgetD d.consumers source []).map (physSem x)) s
    | _, _ => s

/-- Return segments reach a source (R254, R257). -/
def takeReturns (p layer source step : Nat) (segs : List Segment) (s : State) : State :=
  let f (y : SrcStep) : SrcStep :=
    if y.layer == layer && y.source == source && y.step == step then
      { y with returns := y.returns ++ segs, experts := y.experts ++ segs.map (·.expert) } else y
  combine p layer source step (modCast p (fun x => { x with srcSteps := x.srcSteps.map f }) s)

/-- Where the returns of a part stand in a source's return inbox: a slot for each of its homes. -/
def returnReads (d : ExpertDecl) (part source step : Nat) : List (Nat × Nat × Nat) :=
  ((homeStacks d).filter (·.1 == part)).map fun h =>
    (lgetD d.retArea source 0, homeOff d true part h.2 step, bundleSlot d true)

/-- The returns of a home in a source's return inbox are read, their tiles checked, and taken; a lost tile ends the requests of
the step (R254, R258, R262). -/
def takeReturnSlot (p layer source step : Nat) (x : Cast) (d : ExpertDecl) (h : Nat × Nat) (s : State) : State :=
  let area := lgetD d.retArea source 0
  let off := homeOff d true h.1 h.2 step
  let n := (homedAt d h.1 h.2).length
  match checkSlot x d true area off n off 0 s with
  | (false, s) => lostForPanel p s
  | (true, s) => takeReturns p layer source step (readSlot s x d true area off n) s

/-- RETURN: return segments from another module stand in the source's return inbox (R254). -/
def execRet (panel : BitVec 4) (stack : BitVec 2) (c : Rec64) (s : State) : Result :=
  let p := panel.toNat
  let st := stack.toNat
  .next (match getCast s p with
    | none => unpost p st c s
    | some x =>
      match expertLayer x (rcLayer c) with
      | none => routeReject p c (unpost p st c s)
      | some d =>
        if !routeOk x 3 st c then routeReject p c (unpost p st c s)
        else
          match areasAccess p (returnReads d (rcPart c) (rcSource c) (rcStep c)) [] s with
          | .wait f => f.1
          | .lost s => unpost p st c s
          | .fault s => unpost p st c s
          | .go _ s => ((homeStacks d).filter (·.1 == rcPart c)).foldl (fun s h =>
              takeReturnSlot p (rcLayer c) (rcSource c) (rcStep c) x d h s) (remember p 3 st c (unpost p st c s)))

/-! ## Returns (R257) -/

/-- The return segment of one source and expert. -/
def returnSeg (s : State) (c : Cast) (d : ExpertDecl) (part st : Nat) (h : HomeStep) (b : Bundle) (g : Segment) : Segment :=
  let keep := ((h.keep.find? fun k => k.1 == b.source && k.2.1 == g.expert).map (·.2.2)).getD []
  let g0 := ((h.base.find? fun k => k.1 == b.source && k.2.1 == g.expert).map (·.2.2)).getD 0
  let rb := rowOf d d.yfmt
  let area := (atStack d.resArea st).getD 0
  let kept := (keep.filter id).length
  { expert := g.expert, index := g.index, keep := keep, localDrops := 0,
    rows := (List.range kept).map fun i => areaRead s c area (bufRow d part st g.expert (g0 + i) * rb) rb }

/-- The list of a home has drained for a step (R165, R257): of its epoch, or that epoch has given way to the next, which only
a drained list takes (R170). -/
def listDone (s : State) (key step : Nat) : Bool :=
  match tget s.lists key with
  | some w =>
    if w.epoch.toNat = step then w.drained else !(w.parked.any fun v => v.toNat / 2 ^ 32 % 2 ^ 16 == step)
  | none => false

/-- A home step is complete: every source processed, and its list drained or no row kept (R257). -/
def homeReady (s : State) (c : Cast) (d : ExpertDecl) (h : HomeStep) : Bool :=
  h.done == d.sources &&
    (h.probs == 0 ||
      (match (atStack d.workList h.stack).bind fun w => c.img.pat.lists[w.1]? with
        | none => false
        | some l => listDone s (physList c l) h.step))

/-- The output-buffer rows that a home step returns. -/
def resultReads (d : ExpertDecl) (part : Nat) (h : HomeStep) : List (Nat × Nat × Nat) :=
  let rb := rowOf d d.yfmt
  h.kept.map fun e => ((atStack d.resArea h.stack).getD 0, bufRow d part h.stack e.1 0 * rb, e.2 * rb)

/-- The returns of one bundle are written: to the source's return inbox on this part, else to the area the exchange units
send from (R254, R257). -/
def writeReturns (p : Nat) (s0 : State) (c : Cast) (d : ExpertDecl) (h : HomeStep) (b : Bundle) (s : State) : State :=
  let me := c.img.pat.selfPart
  let segs := b.segs.map (returnSeg s0 c d me h.stack h b)
  if lgetD d.sourcePart b.source 0 = me then
    takeReturnSlot p h.layer b.source h.step c d (me, h.stack)
      (writeSlot p h.stack c d true (lgetD d.retArea b.source 0) (homeOff d true me h.stack h.step) h.layer b.source h.step segs s)
  else
    writeSlot p h.stack c d true ((atStack d.backArea h.stack).getD 0) ((2 * b.source + h.step % 2) * bundleSlot d true) h.layer
      b.source h.step segs s

/-- The return segments of a complete home step are written and its inbox slots freed; the next open step goes on (R257).
A lost output tile ends the requests of the step instead (R262). -/
def returnStep (p : Nat) (c : Cast) (d : ExpertDecl) (h : HomeStep) (s : State) : State :=
  let me := c.img.pat.selfPart
  let mine (b : Bundle) : Bool := !b.ret && b.layer == h.layer && b.stack == h.stack && b.step == h.step
  let bs := c.inbox.filter mine
  let close (s : State) : State := modCast p (fun x =>
    { x with
      homeSteps := x.homeSteps.filter fun y => !(y.layer == h.layer && y.stack == h.stack && y.step == h.step)
      inbox := x.inbox.filter fun b => !mine b }) s
  match checkAreas p (resultReads d me h) s with
  | (false, s) => homeGoAll p h.layer h.stack (lostForPanel p (close s))
  | (true, s) =>
    let s' := bs.foldl (fun t b => writeReturns p s c d h b t) (close s)
    let s' := if bs.any (fun b => lgetD d.sourcePart b.source 0 != me) then
        sendSignals (((atStack d.homeExchange h.stack).getD []).map (physSem c)) s' else s'
    homeGoAll p h.layer h.stack s'

/-- EXPERT_RETURN_WRITE: the return segments of the oldest complete home step are written (R257). -/
def execExpertReturnWrite (panel : BitVec 4) (stack : BitVec 2) (layer : BitVec 6) (s : State) : Result :=
  let p := panel.toNat
  .next (match getCast s p with
    | none => s
    | some c =>
      match expertLayer c layer.toNat with
      | none => s
      | some d =>
        match c.homeSteps.find? fun h => h.layer == layer.toNat && h.stack == stack.toNat && homeReady s c d h with
        | none => s
        | some h => withAreas p (resultReads d c.img.pat.selfPart h) [] (returnStep p c d h) s)

end Sys2Proof.Machine
end

