-- ==== Sys2Proof/Machine/Sha.lean ====
section
/-! DEFINITION. SHA-512, which the manual uses for PHASH, WHASH and DIGEST (R264, R409), firmware (R465) and the key
hash (R477). The function is the one FIPS 180 defines; the manual names it only. -/
namespace Sys2Proof.Machine
open Sys2Proof

/-- The first 80 primes, as the bits set in one number. -/
def shaPrimes : List Nat :=
  maskBits 410
    0x20220208820808228020800228800200a20a08208028228800800a28028208820a00a08800228a20208828828208a20a08a28ac

/-- The largest `r` below `a + 2 ^ n` with `r ^ k ≤ x`, for an `a` that is none too large: bit by bit from the top. -/
def rootBits (k x : Nat) : (n : Nat) → (a : Nat) → Nat
  | 0, a => a
  | n + 1, a => rootBits k x n (if (a + 2 ^ n) ^ k ≤ x then a + 2 ^ n else a)

/-- The first 64 bits after the point of the `k`-th root of a number below 2 ^ 10. -/
def rootFrac (k p : Nat) : BitVec 64 := BitVec.ofNat 64 (rootBits k (p * 2 ^ (64 * k)) 70 0)

/-- The round constants come from the cube roots of the primes, the initial hash value from the square roots of the first
eight. -/
def shaConsts : List (BitVec 64) := shaPrimes.map (rootFrac 3)
def shaStart : List (BitVec 64) := (shaPrimes.take 8).map (rootFrac 2)

/-- The number whose bytes, most significant first, are given. -/
def natOfBE (l : List Byte) : Nat := l.foldl (fun a b => 256 * a + b.toNat) 0

/-- A message with its end mark, zeros and its length in bits, a whole number of blocks. -/
def shaMessage (l : List Byte) : List Byte :=
  let used := l.length + 17
  l ++ 0x80 :: List.replicate (128 * cdiv used 128 - used) 0 ++ (bytesOf 16 (8 * l.length)).reverse

/-- Copies of a word rotated right by several amounts, added modulo 2. -/
def rotations (by_ : List Nat) (x : BitVec 64) : BitVec 64 := by_.foldl (fun a n => a ^^^ x.rotateRight n) 0

/-- `n` more words of a block's schedule, each from those 2, 7, 15 and 16 places before it. The newest stands first. -/
def shaExtend : (n : Nat) → List (BitVec 64) → List (BitVec 64)
  | 0, w => w
  | n + 1, w =>
    let back (i : Nat) : BitVec 64 := lgetD w (i - 1) 0
    let new := back 16 + back 7 + (rotations [1, 8] (back 15) ^^^ (back 15) >>> 7)
      + (rotations [19, 61] (back 2) ^^^ (back 2) >>> 6)
    shaExtend n (new :: w)

/-- One round on the eight working words; `kw` is the sum of its constant and its schedule word. -/
def shaTurn (st : List (BitVec 64)) (kw : BitVec 64) : List (BitVec 64) :=
  match st with
  | [a, b, c, d, e, f, g, h] =>
    let t := h + rotations [14, 18, 41] e + (g ^^^ (e &&& (f ^^^ g))) + kw
    [t + rotations [28, 34, 39] a + ((a &&& b) ||| (c &&& (a ||| b))), a, b, c, d + t, e, f, g]
  | _ => st

/-- The hash value after one block of 128 bytes. -/
def shaTake (h : List (BitVec 64)) (block : List Byte) : List (BitVec 64) :=
  let words := (chunks 8 16 block).map fun b => BitVec.ofNat 64 (natOfBE b)
  let sums := List.zipWith (· + ·) shaConsts (shaExtend 64 words.reverse).reverse
  List.zipWith (· + ·) h (sums.foldl shaTurn h)

/-- SHA-512 of bytes: 64 bytes, in the order the function defines. -/
def sha512 (l : List Byte) : List Byte :=
  let m := shaMessage l
  ((chunks 128 (m.length / 128) m).foldl shaTake shaStart).flatMap fun w => (bytesOf 8 w.toNat).reverse

end Sys2Proof.Machine
end

