-- ==== Sys2Proof/Machine/Images.lean ====
section
/-! DEFINITION. Pattern images: the header, the section table, the extent table, and every rule the manual gives for an
image by itself (R264 to R267, R519, R520 and the CAST_ON rules of chapters 02 to 08). -/
namespace Sys2Proof.Machine
open Sys2Proof

/-! ## Header and section table (R264, R265) -/

/-- The fields of the header are legal (R264, R266). -/
def headerOk (i : Image) : Bool :=
  fld i.header 0 4 == 0x5441504B && fld i.header 4 2 == 1 && fld i.header 6 1 == 1 && fld i.header 7 1 < 4
    && ihModel i != 0 && ihWversion i != 0 && 1 ≤ ihClusters i && ihClusters i ≤ 64 && fld i.header 0x11 1 == 0
    && 1 ≤ ihSections i && ihSections i ≤ 64 && ihVentryUnit i < 8 * ihClusters i && ihVentryStrand i < 8
    && fld i.header 0x17 1 == 0 && ihLength i % 4096 == 0 && ihLength i ≤ 2 ^ 36 && fld i.header 0xA0 92 == 0
    && fld i.header 0xFC 4 == recCrc i.header 0xFC

/-- Elements of a list hold a relation pairwise. -/
def allPairs {α : Type} (r : α → α → Bool) : List α → Bool
  | [] => true
  | h :: t => t.all (r h) && allPairs r t

/-- The section table and the sections' CRCs (R265). -/
def sectionsOk (i : Image) : Bool :=
  i.table.length == ihSections i && i.sections.length == i.table.length
    && ((i.table.zip i.sections).all fun es =>
      1 ≤ seKind es.1 && seKind es.1 ≤ 0x0B && fld es.1 1 7 == 0 && fld es.1 0x18 4 == 0
        && seOff es.1 % 4096 == 0 && 0x1000 ≤ seOff es.1 && 0 < seLen es.1 && seOff es.1 + seLen es.1 ≤ ihLength i
        && es.2.length == seLen es.1 && fld es.1 0x1C 4 == crc32c es.2)
    && allPairs (fun a b => (seKind a != seKind b || seKind a == 0x0B)
        && (seOff a + seLen a ≤ seOff b || seOff b + seLen b ≤ seOff a)) i.table

/-- WHASH, and PHASH of a full image. A WEIGHTS_ONLY image carries the PHASH of the pattern it belongs to (R270; log
entry 24). -/
def hashesOk (i : Image) : Bool :=
  ihWhash i == natOf (sha512 (sectionBytes (· == 0x0B) i))
    && (ihWeightsOnly i || ihPhash i == natOf (sha512 (sectionBytes (· != 0x0B) i)))

/-- How many sections of a kind a table holds. -/
def kindCount (i : Image) (k : Nat) : Nat := (i.table.filter fun e => seKind e == k).length

/-- The patterns that need a section of a kind (R265): every pattern those that R519 asks for; the others, those that
declare what the section carries. Semaphores and barriers, which section 0x05 also declares, are what programs use. -/
def kindNeeded (p : Pattern) (k : Nat) : Bool :=
  match k with
  | 4 => !p.routes.isEmpty || !p.channels.isEmpty
  | 5 => p.runLink.isSome || p.stepLink.isSome || !p.links.isEmpty || !p.lists.isEmpty || !p.reducers.isEmpty
      || !p.queues.isEmpty || p.units.any fun u => u.program.any fun w =>
        [0x05, 0x06, 0x07].contains (nbits w.toNat 58 6)
  | 6 => p.kv.isSome
  | 7 => !p.experts.isEmpty
  | 9 => !p.swaps.isEmpty
  | 0xA => 1 < p.parts
  | _ => true

/-- R519. -/
def kindsOk (i : Image) : Bool :=
  if ihWeightsOnly i then
    kindCount i 8 == 1 && 1 ≤ kindCount i 0x0B && i.table.all fun e => seKind e == 8 || seKind e == 0x0B
  else
    kindCount i 1 == 1 && kindCount i 2 == 1 && kindCount i 3 == 1 && kindCount i 8 == 1
      && [4, 5, 6, 7, 9, 0xA].all fun k => kindNeeded i.pat k == (kindCount i k == 1)

/-! ## Extents (R267, R520) -/

/-- R267, R520. -/
def extentsOk (i : Image) : Bool :=
  let l := (sectionBytes (· == 8) i).length
  l % 32 == 0 && l != 0
    && ((extRecs i).all fun r =>
      let e := extOf r
      fld r 5 1 == 0 && fld r 0xA 6 == 0 && fld r 0x1C 4 == recCrc r 0x1C
        && 1 ≤ e.place && e.place ≤ 4 && e.len != 0 && e.len % 4096 == 0 && e.off % 4096 == 0
        && (e.swap ≤ 1023 || e.swap == 0xFFFF)
        && (if e.place ≤ 2 then e.unit < 8 * ihClusters i else e.unit == 0xFFFF)
        && i.table.any fun w => seKind w == 0x0B && seOff w ≤ e.off && e.off + e.len ≤ seOff w + seLen w)
    && allPairs (fun a b : Ext => a.id != b.id) (extents i)

/-- Bytes of an image at an offset of it, from the sections that hold them. -/
def imgBytes (i : Image) (off n : Nat) : List Byte :=
  match (i.table.zip i.sections).find? fun es => seOff es.1 ≤ off && off + n ≤ seOff es.1 + es.2.length with
  | some es => (es.2.drop (off - seOff es.1)).take n
  | none => []

/-! ## Areas -/

/-- Tier and size of an extent or declared area. -/
def areaOf (i : Image) (id : Nat) : Option (Bool × Nat) :=
  match (extents i).find? (·.id == id) with
  | some e => some (3 ≤ e.place, e.len)
  | none => (i.pat.areas.find? (·.id == id)).map fun a => (a.tier2, a.bytes)

/-- A range lies inside an area. -/
def inArea (i : Image) (id off n : Nat) : Bool :=
  match areaOf i id with
  | some a => off + n ≤ a.2
  | none => false

/-- The area lies in T1. -/
def inT1 (i : Image) (id : Nat) : Bool := (areaOf i id).any fun a => !a.1

/-- The area lies in the pattern's pinned T1 (R203, R267). -/
def inPinned (i : Image) (id : Nat) : Bool :=
  match (extents i).find? (·.id == id) with
  | some e => e.place == 1
  | none => inT1 i id

/-- A range of an area in pinned T1. -/
def pinnedRange (i : Image) (id off n : Nat) : Bool := inPinned i id && inArea i id off n

/-! ## Units and roles (R266) -/

/-- The role of a logical unit. -/
def roleOf (i : Image) (lu : Nat) : Role := lgetD (lgetD i.pat.roles (lu / 8) []) (lu % 8) .idle

/-- Every semaphore a pattern's links, rings, reducers and exchanges name. -/
def patSems (p : Pattern) : List SemRef :=
  let lk (l : Option LinkDecl) : List SemRef := match l with
    | some l => l.fulls ++ l.outWriters
    | none => []
  lk p.runLink ++ lk p.stepLink ++ (p.reducers.flatMap fun r => r.empties ++ r.fulls)
    ++ (match p.kv with
      | some k => k.rings.flatMap (·.fulls)
      | none => [])
    ++ p.experts.flatMap fun e => e.exchange.flatten ++ e.consumers.flatten ++ e.homeExchange.flatMap (·.2)

/-- Units that sit at an end of a strand route. -/
def routeUnits (p : Pattern) : List Nat :=
  let ends (l : List Dest) : List Nat := l.filterMap fun d => match d with
    | .strand u _ => some u
    | .link _ _ => none
  (p.routes.flatMap fun r => r.unit :: ends r.dests) ++ p.channels.flatMap fun c => ends [c.dest]

/-- Every logical unit number a pattern carries. -/
def patUnits (p : Pattern) : List Nat :=
  (p.units.map (·.unit)) ++ routeUnits p ++ (patSems p).map (·.unit) ++ (p.reducers.map (·.unit))
    ++ (p.lists.map fun l => if l.region then l.idx else 8 * l.idx) ++ ((p.areas.filter (!·.tier2)).map (·.unit))
    ++ p.links.flatMap fun l => l.1 ++ l.2

/-- R266. -/
def rolesOk (i : Image) : Bool :=
  let p := i.pat
  let n := 8 * ihClusters i
  p.roles.length == ihClusters i && p.roles.all (·.length == 8)
    && (patUnits p).all (· < n) && ihVentryUnit i < n && roleOf i (ihVentryUnit i) == .static
    && (p.units.all fun u => roleOf i u.unit == .static || roleOf i u.unit == .worker)
    && ((routeUnits p ++ (patSems p).map (·.unit) ++ p.reducers.map (·.unit) ++ p.links.flatMap fun l => l.1 ++ l.2).all fun u =>
        roleOf i u != .worker)
    && allPairs (fun a b : UnitDecl => a.unit != b.unit) p.units

/-! ## Programs (R110, R113, R114) -/

/-- A mask of the low `n` bits. -/
def ones (n : Nat) : Nat := 2 ^ n - 1

/-- IN rule, OUT rule and width of the operand bits of an opcode (R114). Rules: 0 zero, 1 exactly one, 2 at most one,
3 any, 4 at least one; the opcodes with other rules have their own test. -/
def wordRule : Nat → Option (Nat × Nat × Nat)
  | 0x00 => some (0, 0, 0) | 0x01 => some (0, 0, 0) | 0x02 => some (0, 0, 10) | 0x03 => some (0, 3, 15)
  | 0x04 => some (1, 0, 28) | 0x05 => some (0, 0, 5) | 0x06 => some (0, 0, 8) | 0x07 => some (3, 3, 12)
  | 0x08 => some (0, 0, 19) | 0x09 => some (0, 0, 9) | 0x0A => some (0, 0, 8) | 0x0B => some (0, 0, 16)
  | 0x0C => some (0, 0, 39) | 0x0D => some (0, 0, 36) | 0x0E => some (0, 0, 9) | 0x0F => some (0, 0, 4)
  | 0x10 => some (2, 0, 7) | 0x11 => some (2, 0, 26) | 0x12 => some (2, 0, 13) | 0x13 => some (0, 3, 40)
  | 0x18 => some (0, 0, 34) | 0x19 => some (0, 0, 18) | 0x1A => some (0, 0, 20) | 0x1B => some (0, 0, 35)
  | 0x1C => some (0, 0, 36) | 0x1D => some (0, 0, 36)
  | 0x28 => some (0, 0, 21) | 0x29 => some (0, 0, 20) | 0x2A => some (0, 4, 12) | 0x2B => some (1, 0, 14)
  | 0x2C => some (1, 4, 10)
  | 0x30 => some (0, 4, 16) | 0x31 => some (3, 3, 28) | 0x32 => some (3, 3, 28)
  | _ => none

/-- A mask obeys a rule of R114. -/
def maskOk (rule m : Nat) : Bool :=
  let n := (maskBits 8 m).length
  match rule with
  | 0 => n == 0
  | 1 => n == 1
  | 2 => n ≤ 1
  | 4 => 1 ≤ n
  | _ => true

/-- A LOAD and its segment agree: whole tiles of a tile segment with VERIFY, a plain one without (R207). -/
def loadOk (u : UnitDecl) (sgi beats : Nat) (verify : Bool) : Bool :=
  match u.segs.find? (·.idx == sgi) with
  | none => true
  | some sg =>
    match sg.tile with
    | some t => verify && beats % t.tb == 0
    | none => !verify

/-- An instruction word of an image is legal in its unit (R28, R36, R65, R96, R110, R113, R114, R116, R118, R127, R129, R160,
R173, R177, R207). -/
def wordOk (p : Pattern) (u : UnitDecl) (w : Nat) : Bool :=
  let op := nbits w 58 6
  let inp := nbits w 50 8
  let out := nbits w 42 8
  let o := nbits w 0 42
  let f := nbits o
  let len := u.program.length
  let toLink (r : Nat) : Bool := p.routes.any fun x => x.unit == u.unit && x.out == r && x.dests.any fun d =>
    match d with
    | .link _ _ => true
    | .strand _ _ => false
  match wordRule op with
  | none => false
  | some (ri, ro, n) =>
    maskOk ri inp && maskOk ro out && o < 2 ^ n
      && (match op with
        | 0x02 | 0x03 | 0x04 => f 0 10 < len
        | 0x08 => f 9 10 < len
        | 0x06 => !toLink (f 5 3)
        | 0x0A => u.segs.all fun sg => sg.idx != f 4 4 || sg.len % 64 == 0
        | 0x0C => f 4 2 != 3 || (f 7 2 != 3 && !(f 0 4 == 15 && nbit o 9))
        | 0x10 => f 4 2 != 3
        | 0x11 => f 0 3 ≤ 5 && fmtOk (f 15 4) && fmtOk (f 19 4)
            && (nbit o 25 || (cellMode (f 15 4) (f 19 4)).any fun m =>
                shapeMode (f 0 3) == some m && f 3 8 + 1 ≤ shapeMaxM (f 0 3))
        | 0x13 => f 4 2 != 3 && (if f 4 2 = 1 then out != 0 else out == 0) && fmtOk (f 10 4) && f 22 4 ≤ 5
            && !(!nbit o 39 && u.tensors.any fun t => t.idx == f 14 8 && t.toReducer && (f 22 4 != 0 || nbit o 26))
        | 0x18 => f 0 6 ≤ 0x1E
            && (if f 0 6 = 0x0A || f 0 6 = 0x0B then fmtOk (f 30 4) else if f 0 6 = 0x1E then f 30 4 ≤ 5 else f 30 4 == 0)
        | 0x28 => loadOk u (f 4 4) (f 12 8 + 1) (nbit o 20)
        | 0x2B => f 12 2 != 3
        | 0x2C => f 8 2 != 3
        | 0x30 => !markerReserved (BitVec.ofNat 16 (f 0 16))
        | 0x31 => f 0 3 != f 3 3 && f 6 3 != f 9 3 && inp == (2 ^ f 0 3 ||| 2 ^ f 3 3) && out == (2 ^ f 6 3 ||| 2 ^ f 9 3)
        | 0x32 => f 0 3 != f 3 3 && f 0 3 != f 6 3 && f 3 3 != f 6 3
            && inp == (2 ^ f 0 3 ||| 2 ^ f 3 3 ||| 2 ^ f 6 3) && out == 2 ^ f 9 3
        | _ => true)

/-- A scale is positive, finite and normal (R52). -/
def scaleOk (x : BitVec 32) : Bool := 0x00800000 ≤ x.toNat && x.toNat < inf32

/-- The folded scale (R51). -/
def foldScale (t : TensorDecl) : Nat := fdiv (fmul t.sIn.toNat t.sW.toNat) t.sOut.toNat

/-- Where a tensor's record lies in its area: the first 64-byte boundary after the tensor's last byte (R59). -/
def recordOff (t : TensorDecl) : Nat := cdiv (t.off + t.bytes) 64 * 64

/-- The DRAIN words of a unit that may drain a tensor: those that name it, and those that take TENSOR from the problem
register. -/
def drainsOf (u : UnitDecl) (t : TensorDecl) : List (BitVec 64) :=
  u.program.filter fun w => nbits w.toNat 58 6 == 0x13 && (nbit w.toNat 39 || nbits w.toNat 14 8 == t.idx)

/-- A tensor of the unit has a histogram record: it is drained otherwise than as an ACC96 tile (R45). -/
def hasRecord (u : UnitDecl) (t : TensorDecl) : Bool :=
  (drainsOf u t).any fun w => nbit w.toNat 39 || nbits w.toNat 10 4 != 11

/-- The record of a tensor that reaches a completion: the tensor lies in the run link's first outbound buffer with its record
after it, and in each further buffer at the same place (R59, R289). -/
def completionOk (i : Image) (t : TensorDecl) : Bool :=
  i.pat.runLink.any fun l => t.area == l.outArea && l.outOff ≤ t.off && recordOff t + 512 ≤ l.outOff + l.outBytes
    && t.stride == l.outBytes && t.copies == l.depth

/-- A tensor of a unit's table (R52, R59, R173): a record that is written has room after the tensor, in every buffer. -/
def tensorOk (i : Image) (u : UnitDecl) (t : TensorDecl) : Bool :=
  t.idx < 256 && scaleOk t.sIn && scaleOk t.sW && scaleOk t.sOut && (!t.toReducer || foldScale t == one32)
    && (!t.completion || completionOk i t) && 1 ≤ t.elems && 1 ≤ t.copies
    && (t.copies == 1 || recordOff t + 512 ≤ t.off + t.stride)
    && (!hasRecord u t || inArea i t.area (recordOff t + t.stride * (t.copies - 1)) 512)

/-- A tile segment (R204, R209): its header area in the same tier and the same allocation, its retain area in the local
store. -/
def tileOk (i : Image) (sg : SegDecl) (t : TileDecl) : Bool :=
  1 ≤ t.tb && t.tb ≤ 256 && t.hdrOff % 64 == 0 && t.hdrArea == sg.area
    && inArea i t.hdrArea t.hdrOff (64 * (sg.len / (256 * t.tb)))
    && match t.retain with
      | none => true
      | some (a, depth, sm, _) => 1 ≤ depth && sg.len % (256 * depth) == 0 && lsOk a sg.len 256 && sm < 32

/-- The problem instructions that an image holds in an extent which a PROB of the unit names: those with a right CRC (R160,
R161). -/
def imageProblems (i : Image) (u : UnitDecl) : List Rec64 :=
  (u.segs.filter fun sg => u.program.any fun w => nbits w.toNat 58 6 == 0x0A && nbits w.toNat 4 4 == sg.idx).flatMap fun sg =>
    match (extents i).find? (·.id == sg.area) with
    | some e => ((chunks 64 (sg.len / 64) (imgBytes i (e.off + sg.off) sg.len)).map fun b => BitVec.ofNat 512 (natOf b)).filter recOk
    | none => []

/-- A problem instruction of an image names no reserved format code (R28). -/
def problemFormatsOk (i : Image) (u : UnitDecl) : Bool :=
  (imageProblems i u).all fun r => fmtOk (pbAfmt r) && fmtOk (pbWfmt r) && fmtOk (pbOfmt r)

/-- One unit's program, counters, segments and tensors (R28, R52, R59, R102, R115, R117, R118, R173, R204, R209). -/
def unitDeclOk (i : Image) (u : UnitDecl) : Bool :=
  (u.program.all fun w => wordOk i.pat u w.toNat)
    && (u.ctrs.all fun c => c.1 < 16 && c.2.1 < 5 && c.2.2 < 2 ^ 32 && (c.2.1 != 3 || (c.2.2 < 16 && c.2.2 % 4 != 3 && !(c.1 == 15 && nbit c.2.2 2))))
    && (u.segs.all fun sg => sg.idx < 16 && inArea i sg.area sg.off sg.len
        && sg.tile.all (tileOk i sg))
    && (u.tensors.all (tensorOk i u))
    && problemFormatsOk i u && u.localAddrs.all fun a => lsOk a 256 256

/-! ## Links, lists, reducers, channels -/

/-- A run or step link (R149). -/
def linkOk (i : Image) : Option LinkDecl → Bool
  | none => true
  | some l => 1 ≤ l.depth && l.depth * l.fulls.length ≤ 255 && l.depth * l.outWriters.length ≤ 255
      && inArea i l.inArea l.inOff (l.depth * l.inBytes) && inArea i l.outArea l.outOff (l.depth * l.outBytes)
      && l.inOff % 256 == 0 && l.outOff % 256 == 0 && l.inBytes % 256 == 0 && l.outBytes % 256 == 0

def listOk (i : Image) (l : ListDecl) : Bool :=
  l.list < 16 && l.off % 256 == 0 && pinnedRange i l.area l.off 256
    && nbits l.init.toNat 24 7 == 0 && l.init.toNat >>> 48 == 0

def reducerOk (i : Image) (r : ReducerDecl) : Bool :=
  2 ≤ r.parts && r.parts ≤ 256 && r.elems % 128 == 0 && 128 ≤ r.elems && r.elems ≤ 16384
    && r.slotOff % 256 == 0 && pinnedRange i r.slotArea r.slotOff (r.parts * 4 * r.elems)
    && inArea i r.slotArea r.hdrOff (64 * r.parts) && inArea i r.outArea r.outOff (4 * r.elems)
    && inArea i r.outArea r.outHdrOff 64

def queueOk (i : Image) (q : QueueDecl) : Bool := q.stack < 4 && q.off % 256 == 0 && pinnedRange i q.area q.off 256

def channelOk (c : ChannelDecl) : Bool := c.port < 18 && (!c.recv || (4 ≤ c.credits && c.credits ≤ 2048))

/-! ## The cache and the expert layers (R222, R227, R230, R246) -/

/-- A walk ring lies in pinned T1: slots, header area, release word (R230). -/
def ringOk (i : Image) (k : KvDecl) (r : RingDecl) : Bool :=
  r.ring < 16 && 2 ≤ r.slots && r.slots ≤ 64 && r.off % 256 == 0 && r.hdrOff % 64 == 0 && r.relOff % 4 == 0
    && pinnedRange i r.area r.off (r.slots * ringSlotBytes k) && inArea i r.area r.hdrOff (64 * r.slots * slotTiles k)
    && inArea i r.area r.relOff 4

def kvOkDecl (i : Image) (k : KvDecl) : Bool :=
  let e := fmtBits k.kvfmt / 8
  let rows := cdiv (cdiv k.maxLen k.tp) 16
  let rh := 2097152 / (k.layers * k.groups * 64)
  1 ≤ k.layers && k.layers ≤ 256 && 1 ≤ k.groups && k.groups ≤ 64 && 1 ≤ k.heads && k.heads ≤ 8
    && 1 ≤ k.qh && k.qh ≤ 16 && [64, 128, 256].contains k.dim && [5, 6, 8, 9].contains k.kvfmt
    && (if e = 1 then [5, 6, 7].contains k.qfmt && fmtBits k.qfmt == 8 && (k.pfmt == 5 || k.pfmt == 6)
        else k.qfmt == k.kvfmt && k.pfmt == k.kvfmt)
    && [16, 32, 64, 128, 256].contains k.tp && 2 * k.heads * k.dim * e * k.tp ≤ 65536
    && k.window ≤ 262144 && 1 ≤ k.maxLen && k.maxLen ≤ 262144
    && k.poolPages % 32 == 0 && 32 ≤ k.poolPages && k.poolPages ≤ 16777216
    && cdiv rows rh ≤ 31 && scaleOk k.scale
    && (k.rings.all (ringOk i k))
    && allPairs (fun a b : RingDecl => a.ring != b.ring) k.rings

/-- A problem template is legal but for what the route engine fills in: its operand pair and its shape for that pair too
(R36, R65, R160, R246). -/
def templateOk (t : Rec64) (rb : Nat) : Bool :=
  fld t 0 1 ≤ 5 && rb ≤ shapeMaxM (fld t 0 1) && fld t 1 1 < 8 && fmtOk (fld t 4 1) && fmtOk (fld t 5 1) && fmtOk (fld t 6 1)
    && (cellMode (fld t 4 1) (fld t 5 1)).isSome && shapeMode (fld t 0 1) == cellMode (fld t 4 1) (fld t 5 1)
    && fld t 7 1 ≤ 5 && 1 ≤ fld t 0xA 2 && fld t 0xA 2 ≤ 256 && fld t 0xC 2 ≤ 4096 && fld t 0xE 2 == 0 && fld t 0x34 8 == 0

/-- What each source of this part declares lies in pinned T1, its token rows in a tile segment (R246). -/
def sourceAreasOk (i : Image) (d : ExpertDecl) (n : Nat) : Bool :=
  let homes := 2 * 4 * i.pat.parts
  pinnedRange i (lgetD d.scoreArea n 0) 0 (4 * d.experts * d.tmax)
    && pinnedRange i (lgetD d.rowArea n 0) 0 (d.tmax * rowOf d d.xfmt)
    && i.pat.units.any (fun u => u.segs.any fun sg => sg.area == lgetD d.rowArea n 0 && sg.tile.isSome)
    && pinnedRange i (lgetD d.sendArea n 0) 0 (homes * bundleSlot d false)
    && pinnedRange i (lgetD d.retArea n 0) 0 (homes * bundleSlot d true)
    && pinnedRange i (lgetD d.outArea n 0) 0 (d.tmax * rowOf d d.ofmt)

/-- The most blocks of RB rows that the CAP rows of an expert fall into: none crosses the boundary of a source (R256). -/
def mostBlocks (d : ExpertDecl) : Nat := let n := min d.sources d.cap; n + (d.cap - n) / d.rb

/-- What each home stack of this part declares: inbox, expert buffer, output buffer, work list with a problem list of whole
problem instructions (R160, R246). -/
def homeAreasOk (i : Image) (d : ExpertDecl) (st : Nat) : Bool :=
  let n := (homedAt d i.pat.selfPart st).length
  let at_ (l : List (Nat × Nat)) (bytes : Nat) : Bool := (atStack l st).any fun a => pinnedRange i a 0 bytes
  at_ d.inboxArea (2 * d.sources * bundleSlot d false) && at_ d.bufArea (n * d.cap * rowOf d d.xfmt)
    && at_ d.resArea (n * d.cap * rowOf d d.yfmt)
    && (d.sourcePart.all (· == i.pat.selfPart) || at_ d.backArea (2 * d.sources * bundleSlot d true))
    && (atStack d.workList st).any fun w => w.1 < i.pat.lists.length
        && (areaOf i w.2).any (fun a => a.2 % 64 == 0) && pinnedRange i w.2 0 (64 * n * mostBlocks d)

def expertOk (i : Image) (d : ExpertDecl) : Bool :=
  let me := i.pat.selfPart
  1 ≤ d.experts && d.experts ≤ 1024 && d.homes.length == d.experts && 1 ≤ d.kmax && d.kmax ≤ 16 && d.kmin ≤ 1
    && d.thresh.toNat % 2 ^ 31 < inf32 && 1 ≤ d.cap && d.cap ≤ 65536
    && d.width % 128 == 0 && 128 ≤ d.width && d.width ≤ 16384 && 1 ≤ d.xfmt && d.xfmt ≤ 9
    && [8, 9, 10].contains d.yfmt && 1 ≤ d.ofmt && d.ofmt ≤ 10 && 1 ≤ d.sources && d.sources ≤ 64
    && 1 ≤ d.tmax && d.tmax ≤ 16384 && 1 ≤ d.rb
    && (d.homes.all fun h => h.stack < 4 && h.part < i.pat.parts && templateOk h.template d.rb)
    && ((List.range d.sources).all fun n => lgetD d.sourcePart n 0 < i.pat.parts
        && (lgetD d.sourcePart n 0 != me || (lgetD d.sourceStack n 0 < 4 && sourceAreasOk i d n)))
    && ((homeStacks d).filter (·.1 == me)).all fun h => homeAreasOk i d h.2

/-! ## The whole image -/

/-- The resource declaration agrees with the header and with the reducer entries declared (R173, R268). -/
def resourcesOk (i : Image) : Bool :=
  i.pat.res.clusters == ihClusters i
    && i.pat.reducers.all fun r =>
        (i.pat.reducers.filter fun q => q.unit / 32 == r.unit / 32).length ≤ lgetD i.pat.res.reducers (r.unit / 32) 0

/-- A unit drains a tensor of 16-bit passes as ACC96 partials onto output strands: its sums would be joined in another unit's
accumulator, which is no ordered reducer (R45, R47, R48). -/
def sends16 (u : UnitDecl) : Bool :=
  u.tensors.any fun t => t.bits16 && u.program.any fun w =>
    nbits w.toNat 58 6 == 0x13 && !nbit w.toNat 39 && nbits w.toNat 14 8 == t.idx && nbits w.toNat 10 4 == 11
      && nbits w.toNat 4 2 == 1

/-- The pattern reduces a 16-bit tensor over several units otherwise than by an ordered reducer (R48): what its programs and
tensors show, and what the sender of the image says of the rest (log entry 4). -/
def crosses16 (p : Pattern) : Bool := p.cross16 || p.units.any sends16

/-- The work lists a unit claims from: scope and number (R114). -/
def claimLists (u : UnitDecl) : List Nat :=
  (u.program.filter fun w => nbits w.toNat 58 6 == 0x08).map fun w => nbits w.toNat 4 5

/-- Two units share a work counter by their claims: the same list of one cluster, or of one region (R164). -/
def sharesList (a b : UnitDecl) : Bool :=
  (claimLists a).any fun k => (claimLists b).contains k
    && (if k % 2 = 1 then a.unit / 32 == b.unit / 32 else a.unit / 8 == b.unit / 8)

/-- Two different tensors of 16-bit tiles overlap in their outputs. -/
def overlaps16 (a b : TensorDecl) : Bool :=
  a.bits16 && b.bits16 && a.ident != b.ident && a.area == b.area && overlap (a.off, a.bytes) (b.off, b.bytes)

/-- 16-bit tiles that a shared work counter assigns write overlapping outputs (R48): what the declared tensors show, and what
the sender of the image says of the rest (log entry 4). -/
def overlapsOut16 (p : Pattern) : Bool :=
  p.overlap16 || p.units.any fun a => p.units.any fun b => sharesList a b && a.tensors.any fun t => b.tensors.any (overlaps16 t)

/-- The rules of the sections whose layout the manual does not give, none of which depends on a panel. -/
def patternOk (i : Image) : Bool :=
  let p := i.pat
  resourcesOk i && rolesOk i && (p.units.all (unitDeclOk i)) && linkOk i p.runLink && linkOk i p.stepLink
    && (p.lists.all (listOk i)) && (p.reducers.all (reducerOk i)) && (p.queues.all (queueOk i))
    && allPairs (fun a b : QueueDecl => a.kind != b.kind || a.stack != b.stack) p.queues
    && (p.channels.all channelOk) && (p.kv.all (kvOkDecl i)) && p.experts.length ≤ 64 && p.experts.all (expertOk i)
    && 1 ≤ p.parts && p.parts ≤ 64 && p.selfPart < p.parts
    && p.otherFormats.all fmtOk && (p.otherPairs.all fun q => (cellMode q.1 q.2).isSome)
    && !crosses16 p && !overlapsOut16 p
    && p.spillBytes % 65536 == 0 && (p.spillBytes == 0 || pinnedRange i p.spillArea 0 p.spillBytes)
    && (p.runLink.isNone && p.stepLink.isNone
        || (1 ≤ p.batch && p.batch ≤ 256 && 1 ≤ p.chunk && p.chunk ≤ 4096 && 1 ≤ p.vocab && p.vocab ≤ 2 ^ 24))
    && p.summaryBytes ≤ 0x100000 && p.swaps.length ≤ 1024

/-- GEN_OK is declared rightly (R260). -/
def genOkOk (i : Image) : Bool :=
  !ihGenOk i || (i.pat.stepLink.isSome && i.pat.experts.all fun d => d.sources * d.tmax ≤ d.cap)

/-- Step 4 of DEPLOY but for what compares with the catalogue (R269). -/
def imageOk (i : Image) : Bool :=
  headerOk i && sectionsOk i && hashesOk i && kindsOk i && extentsOk i
    && (ihWeightsOnly i || (patternOk i && genOkOk i))

/-- The image agrees with the bytes copied: header, section table and sections are those bytes. -/
def imageAgrees (i : Image) (at_ : Nat → Nat → List Byte) : Bool :=
  recBytes i.header == at_ 0 256
    && i.table == ((List.range (min 64 (ihSections i))).map fun n => BitVec.ofNat 256 (natOf (at_ (256 + 32 * n) 32)))
    && i.sections == i.table.map fun e => at_ (seOff e) (min (seLen e) (2 ^ 36))

/-- DIGEST of an image: the first 32 bytes of SHA-512 over PHASH then WHASH (R409). -/
def imageDigest (i : Image) : Nat := natOf ((sha512 (bytesOf 64 (ihPhash i) ++ bytesOf 64 (ihWhash i))).take 32)

end Sys2Proof.Machine
end

