-- ==== Sys2Proof/Machine/Admin.lean ====
section
/-! DEFINITION. What every admin command shares: the descriptor's layout (R337, R344), the checks of R339, the order of
R343, host buffers (R322, R346). -/
namespace Sys2Proof.Machine
open Sys2Proof

/-! ## Descriptors (R337, R344) -/

def dOp (d : Rec64) : Nat := fld d 0 1
def dVersion (d : Rec64) : Nat := fld d 1 1 % 16
def dFlags (d : Rec64) : Nat := fld d 2 2
def dReq (d : Rec64) : Nat := fld d 4 4
def dPanel (d : Rec64) : Nat := fld d 8 1
def dModel (d : Rec64) : BitVec 32 := BitVec.ofNat 32 (fld d 0xC 4)
def dWver (d : Rec64) : BitVec 32 := BitVec.ofNat 32 (fld d 0x10 4)

/-- Bytes that fields cover. -/
def coverMask (fs : List (Nat × Nat)) : Nat := fs.foldl (fun a f => a ||| ((256 ^ f.2 - 1) <<< (8 * f.1))) 0

/-- Defined FLAGS bits and the fields (offset, size) of an admin opcode, beyond the common header (R344). -/
def adminLayout : Nat → Option (Nat × List (Nat × Nat))
  | 0x00 => some (0, [])
  | 0x80 => some (0, [(8, 1), (0x10, 8), (0x18, 4)])
  | 0x81 => some (1, [(8, 1), (0x10, 8), (0x18, 3), (0x1C, 8)])
  | 0x82 => some (0, [(8, 1)])
  | 0x83 => some (0, [(8, 1), (0xC, 4), (0x10, 4)])
  | 0x84 => some (0, [(8, 1), (0xC, 4)])
  | 0x85 => some (7, [(8, 1), (0xC, 4), (0x10, 4), (0x18, 8), (0x20, 8)])
  | 0x86 => some (0, [(0xC, 4), (0x10, 4)])
  | 0x87 => some (0, [(8, 1), (0xA, 2), (0xC, 4), (0x10, 4)])
  | 0x88 => some (0, [(0x10, 8)])
  | 0x89 => some (0, [(0x10, 8), (0x18, 8)])
  | 0x8A => some (0, [(0x10, 8), (0x18, 8)])
  | 0x8B => some (3, [(8, 2), (0xA, 2), (0x10, 8), (0x18, 8)])
  | 0x8C => some (0, [(8, 1), (0xC, 4), (0x10, 2)])
  | 0x8D => some (0, [])
  | 0x8E => some (0, [(0x10, 8), (0x18, 8), (0x20, 4)])
  | 0x8F => some (0, [(8, 1), (0x10, 8), (0x18, 4)])
  | 0x90 => some (0, [(8, 1), (0xA, 2), (0x10, 8), (0x18, 4)])
  | 0x91 => some (0, [(0x10, 8), (0x18, 4)])
  | 0x92 => some (0, [(8, 1), (9, 1), (0xC, 4)])
  | _ => none

/-- The reserved bits of a descriptor are zero, given what its opcode defines (check 3 of R339). -/
def reservedOk (d : Rec64) (flags : Nat) (fs : List (Nat × Nat)) : Bool :=
  fld d 1 1 < 16 && dFlags d ||| flags == flags && (d.toNat >>> 64 <<< 64) ||| coverMask fs == coverMask fs

/-- A host range: 64-byte aligned, below 2^51 (check 4 of R339). -/
def hostRangeOk (a n : Nat) : Bool := a % 64 == 0 && a + max n 1 ≤ 2 ^ 51

/-- Host ranges an admin descriptor names. -/
def adminRanges (d : Rec64) : List (Nat × Nat) :=
  match dOp d with
  | 0x80 | 0x8F | 0x90 => [(fld d 0x10 8, fld d 0x18 4)]
  | 0x88 => [(fld d 0x10 8, 64)]
  | 0x8B => (if nbit (dFlags d) 0 then [(fld d 0x10 8, 64)] else [])
      ++ (if nbit (dFlags d) 1 then [(fld d 0x18 8, 1024 * fld d 0xA 2)] else [])
  | 0x8E => [(fld d 0x10 8, 64), (fld d 0x18 8, fld d 0x20 4)]
  | 0x91 => [(fld d 0x10 8, fld d 0x18 4)]
  | _ => []

/-- INDEX of COUNTERS by SELECT: how many there are (R429). -/
def indexBound : Nat → Nat
  | 1 => 4 | 2 => 16 | 3 => 512 | 4 => 16384 | 5 => 4 | _ => 1

/-- The hanks PIN and UNPIN name: whole hanks of T1 or of T2, at least one (R344). -/
def pinRange (d : Rec64) : Option (List Nat) :=
  let a := fld d 0x10 8
  let n := fld d 0x18 8
  if a % hankBytes = 0 && n % hankBytes = 0 && (tierRange a n = 1 || tierRange a n = 2) then some (hanksOf a n) else none

/-- Fields are in their stated ranges (check 4 of R339). -/
def adminFieldsOk (d : Rec64) : Bool :=
  (match dOp d with
    | 0x80 => fld d 8 1 ≤ 2
    | 0x81 | 0x82 | 0x83 | 0x8F => dPanel d < 16
    | 0x84 => dPanel d < 16 && fld d 0xC 4 ≤ 1000000
    | 0x85 => (!nbit (dFlags d) 1 || fld d 8 1 < 64)
        && (!nbit (dFlags d) 2 || (fld d 0x20 8 >>> 56 == 0 && nbits (fld d 0x20 8) 54 2 != 0))
    | 0x87 => dPanel d < 16 && 1 ≤ fld d 0xA 2 && fld d 0xA 2 ≤ 10000
    | 0x89 | 0x8A => (pinRange d).isSome
    | 0x8C => dPanel d < 64
    | 0x8B => dFlags d != 0
        && (!nbit (dFlags d) 1 || (1 ≤ fld d 0xA 2 && fld d 8 2 + fld d 0xA 2 ≤ 1024))
    | 0x90 => fld d 8 1 ≤ 6 && fld d 0xA 2 < indexBound (fld d 8 1)
    | 0x92 => dPanel d < 16 && (fld d 9 1 < 16 || fld d 9 1 == 0xFF)
    | _ => true)
    && (adminRanges d).all fun r => hostRangeOk r.1 r.2

/-- The checks of R339 on a descriptor of ring 0: the status of the first that fails. -/
def adminCheck (s : State) (d : Rec64) : Option Nat :=
  if dVersion d != s.host.version.toNat then some stVersionUnsup
  else
    match adminLayout (dOp d) with
    | none => some stBad
    | some (fl, fs) => if reservedOk d fl fs && adminFieldsOk d then none else some stBad

/-! ## Conflicts (R343) -/

/-- FW_UPDATE, PLY_BIND and PLY_RELEASE conflict with every command. -/
def adminGlobal (d : Rec64) : Bool := dOp d == 0x8C || dOp d == 0x8D || dOp d == 0x91

/-- The panels a command names. -/
def adminPanels (d : Rec64) : List Nat :=
  match dOp d with
  | 0x81 | 0x82 | 0x83 | 0x84 | 0x87 | 0x8F => [dPanel d]
  | 0x92 => dPanel d :: (if fld d 9 1 = 0xFF then [] else [fld d 9 1])
  | _ => []

/-- The catalogue key a command names. -/
def adminKey (d : Rec64) : Option (Nat × Nat) :=
  match dOp d with
  | 0x83 | 0x85 | 0x86 | 0x87 => some (fld d 0xC 4, fld d 0x10 4)
  | _ => none

/-- A command `a` conflicts with a running command `b`. A BIND_OFF does not wait for the SWAP_WEIGHTS of its panel, which
it fails: R274, R276 and R280 provide for both running at once (DEDUCED, log entry 49). -/
def adminConflict (a b : Rec64) : Bool :=
  adminGlobal a || adminGlobal b
    || (!(dOp a == 0x84 && dOp b == 0x87) && (adminPanels a).any fun p => (adminPanels b).contains p)
    || ((adminKey a).isSome && adminKey a == adminKey b)

/-- Nothing but a command ahead of it holds a command in ring 0: the catalogue is read (R471), a MOVE's engine has room
(R193). -/
def adminReady (s : State) (d : Rec64) : Bool :=
  match dOp d with
  | 0x83 | 0x85 | 0x86 => s.boot.catReady
  | _ => true

/-- A command can be taken. -/
def adminTakes (s : State) (d : Rec64) : Bool :=
  s.admin.length < 64 && !(s.admin.any fun c => adminConflict d c.d) && adminReady s d

/-! ## Running commands -/

/-- The running command of an id. -/
def adminCmd (s : State) (id : Nat) : Option AdminCmd := s.admin.find? (·.id == id)

/-- The running command of an opcode, when there is one. -/
def adminOf (s : State) (op : Nat) (f : Rec64 → Bool) : Option AdminCmd :=
  s.admin.find? fun c => dOp c.d == op && f c.d

/-- A command's read of host memory; after a host-interface reset it fails (R319, R322). -/
def adminRead (id a n : Nat) (s : State) : Option (List Byte) × State :=
  if (adminCmd s id).any (·.discard) then (none, bump .hostReadErrors 1 s) else hostRead a n s

/-- A command's write to host memory; after a host-interface reset it is discarded (R322). -/
def adminWrite (id a : Nat) (l : List Byte) (s : State) : State :=
  if (adminCmd s id).any (·.discard) then s else hostWrite a l s

/-- A command ends with its output in its buffer, or with the length it needs (R346). -/
def adminOut (id buf len : Nat) (out : List Byte) (s : State) : State :=
  if len < out.length then adminDone id stBad out.length s
  else adminDone id stDone out.length (adminWrite id buf out s)

end Sys2Proof.Machine
end

