-- ==== Sys2Proof/Machine/Lifecycle.lean ====
section
/-! DEFINITION. Panels, the catalogue, cast-on, bind-off, swaps and the field swatch (R264 to R281, R345, R475). What each
admin command does once it has been taken stands here under `run...`; the events that go on with it are commands of
their own. -/
namespace Sys2Proof.Machine
open Sys2Proof

/-! ## PANEL_CREATE and PANEL_DESTROY (R345) -/

/-- T1 and T2 hanks of the partner's mirror (R414). -/
def mirrorBases (s : State) : List Nat :=
  ([s.boot.mirrorHank].filter (· != 0)) ++
  s.ply.mirror.flatMap fun m => ([m.2.tokenList, m.2.summary].filter (· != 0)) ++ m.2.pages.map (·.2.2.2)

/-- A channel group holds a mirror hank (R414). -/
def groupMirrors (s : State) (g : Nat) : Bool := (mirrorBases s).any fun a => tierOf a == 2 && groupOf a == g

/-- The four way masks of a panel number. -/
def waysOf (w : Nat) : List Nat := (List.range 4).map fun st => nbits w (16 * st) 16

def runPanelCreate (id : Nat) (d : Rec64) (s : State) : State :=
  let p := dPanel d
  let cl := fld d 0x10 8
  let gr := fld d 0x18 3
  let wy := fld d 0x1C 8
  let bad := 15 < p || (getPanel s p).isSome || cl == 0
    || s.panels.any (fun q => q.2.clusters.toNat &&& cl != 0 || q.2.groups.toNat &&& gr != 0 || q.2.ways.toNat &&& wy != 0)
    || s.boot.groupsOut.toNat &&& gr != 0
    || (s.ply.st != .unbound && (maskBits 24 gr).any (groupMirrors s))
  if bad then adminDone id stBad 0 s
  else
    adminDone id stDone p (setPanel p
      { gen := nbit (dFlags d) 0, clusters := BitVec.ofNat 64 cl, groups := BitVec.ofNat 24 gr, ways := BitVec.ofNat 64 wy } s)

/-- Fallback settings that name a panel are cleared (R299, R345). -/
def clearFallbacks (p : Nat) (s : State) : State :=
  { s with panels := tmap s.panels fun _ x => if x.fallback = p then { x with fallback := 0xFF } else x }

def runPanelDestroy (id : Nat) (d : Rec64) (s : State) : State :=
  let p := dPanel d
  match getPanel s p with
  | some x =>
    if x.st != .empty || (s.ply.st != .unbound && s.ply.owner == some p) then adminDone id stBad 0 s
    else
      let gone (st : Nat) (c : CacheLine) : Bool := nbit x.ways.toNat (16 * st + c.way)
      adminDone id stDone 0 (clearFallbacks p (cacheDrop gone { s with panels := tdel s.panels p }))
  | none => adminDone id stBad 0 s

/-! ## The catalogue (R269 to R271) -/

/-- A CATALOGUE record goes to the partner (R409, R411). -/
def catalogueNote (e : CatEntry) (removed : Bool) (s : State) : State :=
  if lifelineOn s then
    lifelineRecs [mirrorRec 8 0xFFFF 0 [(8, 4, e.model.toNat), (0xC, 4, e.wversion.toNat), (0x10, 8, e.length),
      (0x18, 4, if removed then 2 else 1), (0x1C, 32, imageDigest e.img)]] [] s
  else s

/-- The move record that keeps one 2 MiB piece of catalogue space for a DEPLOY: a FETCH_PEER into T3 that the DEPLOY itself
runs (R189, R191, R269; log entry 90). -/
def deployMove (cmd a : Nat) (s : State) : State :=
  { s with
    nextId := s.nextId + 1
    moves := s.moves ++
      [{ id := s.nextId, stack := stackOf a, kind := 4, alloc := true, pin := false, tag := 0, panel := 0xFF, dtier := 3,
         src := 0, dst := a, len := hankBytes, peer := 0, by_ := .deploy cmd, pool := false, placed := true }] }

/-- Reserve catalogue space: 2 MiB pieces over the four stacks' T3, from stack 0 on; none when a stack has no room. -/
def reservePieces (cmd : Nat) : (n : Nat) → (i : Nat) → List Nat → State → Option (List Nat) × State
  | 0, _, got, s => (some got, s)
  | n + 1, i, got, s =>
    match (if t3Writable s (i % 4) then t3Free s (i % 4) 1 else none) with
    | some a => reservePieces cmd n (i + 1) (got ++ [a]) (deployMove cmd a s)
    | none => (none, s)

/-- Free the catalogue space of an entry: the pages of its LENGTH bytes. -/
def freePieces (e : CatEntry) (s : State) : State :=
  e.pieces.zipIdx.foldl (fun s q =>
    let n := min hankBytes (e.length - hankBytes * q.2)
    releaseT3 q.1 n (makeHomeless q.1 n (clearRange q.1 n s))) s

/-- Change catalogue entries of a key. -/
def dropCat (m w : BitVec 32) (s : State) : State :=
  { s with catalogue := s.catalogue.filter fun e => !(e.model == m && e.wversion == w) }

/-- A DEPLOY ends (R270, R281), and with it the moves it ran; in every status other than DONE its catalogue space is
freed. -/
def deployEnd (id status : Nat) (s : State) : State :=
  match adminCmd s id with
  | none => s
  | some c =>
    let m := dModel c.d
    let w := dWver c.d
    let res := s.catalogue.filter fun e => e.model == m && e.wversion == w && !e.valid
    let s := { s with
      links := { s.links with fetches := s.links.fetches.filter fun f => f.cmd != some id }
      moves := s.moves.filter (·.by_ != .deploy id) }
    let s := if status = stDone then s
      else res.foldl (fun s e => freePieces e s)
        { s with catalogue := s.catalogue.filter fun e => !(e.model == m && e.wversion == w && !e.valid) }
    adminDone id status 0 (bump (.deploys status) 1 s)

/-- The allowed storage ports whose peer is the target a handle names (R396). -/
def targetPorts (s : State) (handle : Nat) : List Nat :=
  ([0, 1].filter fun i => nbit handle (54 + i) && (getPort s (16 + i)).st == .up
    && (getPort s (16 + i)).peer.toNat == 0x40 + nbits handle 48 6).map (16 + ·)

/-- Copy an image from a storage target (R269 step 3, R396). -/
def deployStorage (id : Nat) (d : Rec64) (s : State) : State :=
  let ps := targetPorts s (fld d 0x20 8)
  let len := fld d 0x18 8
  if !nbit (dFlags d) 2 || ps.isEmpty then deployEnd id stDataLost s
  else sendFetches (fetchPieces (nbits (fld d 0x20 8) 0 48) 0 len ps none (some id) true 0x400000 (cdiv len 0x400000) 0) s

/-- Copy an image from a peer, or turn to the storage target (R269 step 2, R394). -/
def deployPeer (id : Nat) (d : Rec64) (s : State) : State :=
  let ps := (peerPorts s (fld d 8 1)).filter fun p => (getPort s p).st == .up
  let len := fld d 0x18 8
  if !nbit (dFlags d) 1 || ps.isEmpty then deployStorage id d s
  else
    sendFetches (fetchPieces ((dModel d).toNat + (dWver d).toNat * 2 ^ 32) 0 len ps none (some id) false 0x4000000
      (cdiv len 0x4000000) 0) s

/-- A source of a DEPLOY is given up: the peer for the storage target, the storage target for nothing (R394, R396). -/
def deployGiveUp (id : Nat) (target : Bool) (s : State) : State :=
  match adminCmd s id with
  | none => s
  | some c =>
    let s := { s with links := { s.links with fetches := s.links.fetches.filter fun f => f.cmd != some id } }
    if target then deployEnd id stDataLost s else deployStorage id c.d s

def runDeploy (id : Nat) (d : Rec64) (s : State) : State :=
  let len := fld d 0x18 8
  let m := dModel d
  let w := dWver d
  if (s.catalogue.any fun e => e.model == m && e.wversion == w) || 1024 ≤ s.catalogue.length || len = 0 || len % 4096 != 0
      || 2 ^ 36 < len || dFlags d / 2 % 4 == 0 then deployEnd id stBad s
  else
    match reservePieces id (cdiv len hankBytes) 0 [] s with
    | (none, s) => deployEnd id stBad s
    | (some ps, s) =>
      deployPeer id d { s with catalogue := s.catalogue ++
        [{ model := m, wversion := w, length := len, valid := false, img := default, pieces := ps, staged := [] }] }

/-- Bytes of an image arrive: they go to their place in the pieces, whose pages are home with them (R189, R394, R396). -/
def deployBytes (id off : Nat) (l : List Byte) (s : State) : State :=
  match adminCmd s id with
  | none => s
  | some c =>
    match s.catalogue.find? fun e => e.model == dModel c.d && e.wversion == dWver c.d && !e.valid with
    | none => s
    | some e =>
      ((hankPieces (l.length / hankBytes + 2) off l.length).foldl (fun (acc : List Byte × State) p =>
        let a := lgetD e.pieces (p.1 / hankBytes) 0 + p.1 % hankBytes
        (acc.1.drop p.2, makeHome a p.2 (wr a (acc.1.take p.2) acc.2))) (l, s)).2

/-- Groups of the module domain, ascending. -/
def moduleGroups (s : State) : List Nat :=
  (List.range 24).filter fun g => groupOwner s g == none && !nbit s.boot.groupsOut.toNat g

/-- The lowest free hank of a group; else its oldest is evicted and the taker waits (R200). -/
def takeInGroup (who : Taker) (g : Nat) (s : State) : AllocRes × State :=
  allocBy who (firstGap s.hanks (768 + g * 32768) (768 + (g + 1) * 32768))
    (oldestOf s fun k _ => 768 ≤ k && hankGroup k == g) none false false s

/-- Take a hank for each piece of a staged copy; on a wait what was taken is freed and the copy is tried again
(R269 step 5). -/
def stagePieces (who : Taker) (gs : List Nat) : (n : Nat) → (i : Nat) → List Nat → State → Option (List Nat) × State
  | 0, _, got, s => (some got, s)
  | n + 1, i, got, s =>
    match takeInGroup who (lgetD gs (i % gs.length) 0) s with
    | (.got k, s) => stagePieces who gs n (i + 1) (got ++ [hankAddr k]) s
    | (_, s) => (none, got.foldl (fun s a => freeHank (hankOf a) s) s)

/-- Change the entry that a DEPLOY fills. -/
def modDeployed (e : CatEntry) (f : CatEntry → CatEntry) (s : State) : State :=
  { s with catalogue := s.catalogue.map fun x => if x.model == e.model && x.wversion == e.wversion && !x.valid then f x else x }

/-- Page `k` of an entry's pieces. -/
def entryPage (e : CatEntry) (k : Nat) : Nat := lgetD e.pieces (k / 512) 0 + 4096 * (k % 512)

/-- The image's pages enter the write buffers of their stacks as far as those have room (R213): the pages that have. -/
def fillEntry (e : CatEntry) (s : State) : Nat × State :=
  (upto e.filled (e.length / 4096 - e.filled)).foldl (fun (acc : Nat × State) k =>
    if acc.1 = k && bufferRoom acc.2 (entryPage e k) 4096 then (k + 1, bufferPages (entryPage e k) 4096 acc.2) else acc)
    (e.filled, s)

/-- Make an entry valid, with its staged copy (R269 step 6). -/
def deployValid (id : Nat) (e : CatEntry) (img : Image) (staged : List Nat) (s : State) : State :=
  let e' := { e with valid := true, img := img, staged := staged, filled := e.length / 4096 }
  let s := (e.pieces.zip staged).foldl (fun s q => copyRange q.1 q.2 hankBytes s) s
  let s := { s with catalogue := s.catalogue.map fun x => if x.model == e.model && x.wversion == e.wversion then e' else x }
  deployEnd id stDone (catalogueNote e' false s)

/-- Steps 5 and 6 of a DEPLOY whose image has passed: all of it is in the write buffers, and its staged copy is made
(R213, R269). -/
def deployStage (c : AdminCmd) (e : CatEntry) (i : Image) (s : State) : State :=
  match fillEntry e s with
  | (n, s) =>
    let s := modDeployed e (fun x => { x with filled := n }) s
    if n < e.length / 4096 then s
    else if nbit (dFlags c.d) 0 && !(moduleGroups s).isEmpty then
      match stagePieces (.stage c.id) (moduleGroups s) e.pieces.length 0 [] s with
      | (some st, s) => deployValid c.id e i st s
      | (none, s) => s
    else deployValid c.id e i [] s

/-- DEPLOY_COPY_DONE: the copy of an image has ended (R269 steps 4 to 6). `img` is what the bytes copied are, `none` when
no named source delivered them. -/
def execDeployCopyDone (model wversion : BitVec 32) (img : Option Image) (s : State) : Result :=
  .next (match adminOf s 0x85 (fun d => dModel d == model && dWver d == wversion) with
    | none => s
    | some c =>
      match img with
      | none => deployEnd c.id stDataLost s
      | some i =>
        match s.catalogue.find? fun e => e.model == model && e.wversion == wversion && !e.valid with
        | none => deployEnd c.id stBad s
        | some e =>
          if s.links.fetches.any (fun f => f.cmd == some c.id) || !imageAgrees i (fun o n => pieceRead s e.pieces o n) then s
          else if !(imageOk i && ihModel i == model.toNat && ihWversion i == wversion.toNat && ihLength i == e.length
              && (!ihWeightsOnly i || s.catalogue.any fun x => x.valid && x.model == model && ihPhash x.img == ihPhash i)) then
            deployEnd c.id stBad s
          else deployStage c e i s)

/-- Whether a panel uses a catalogue key: it has the entry cast on, or its running SWAP_WEIGHTS names it (R271). -/
def keyInUse (s : State) (m w : BitVec 32) : Bool :=
  s.panels.any fun p => p.2.cast.any fun c =>
    c.model == m && (c.wversion == w || (c.swapTo.isSome && c.admission == w))

def runUndeploy (id : Nat) (d : Rec64) (s : State) : State :=
  let m := dModel d
  let w := dWver d
  match catFind s m w with
  | none => adminDone id stBad 0 s
  | some e =>
    if keyInUse s m w then adminDone id stBad 0 s
    else
      adminDone id stDone 0 (catalogueNote e true (e.staged.foldl (fun s a => freeAt a s) (freePieces e (dropCat m w s))))

/-! ## Cast-on, step 1: what depends on the panel -/

/-- The physical cluster numbers of a panel, ascending (R266). -/
def castMap (x : Panel) : List Nat := maskBits 64 x.clusters.toNat

/-- The region of a logical unit under a cluster map. -/
def mapRegion (cm : List Nat) (lu : Nat) : Nat := lgetD cm (lu / 8) 0 / 4

/-- Home region of an extent or declared area of T1. -/
def areaRegion (cm : List Nat) (i : Image) (id : Nat) : Option Nat :=
  match (extents i).find? (·.id == id) with
  | some e => some (mapRegion cm e.unit)
  | none => (i.pat.areas.find? (·.id == id)).map fun a => mapRegion cm a.unit

/-- Free reduction entries of a region (R173). -/
def freeReducers (s : State) (r : Nat) : List Nat := (upto (16 * r) 16).filter fun k => (tget s.reducers k).isNone

/-- Reduction entries that a pattern needs in a physical region: those it declares, or as many as its resource declaration
states for the logical regions that begin there (R173, R268). -/
def reducerNeed (p : Pattern) (cm : List Nat) (r : Nat) : Nat :=
  max (p.reducers.filter fun d => mapRegion cm d.unit == r).length
    ((p.res.reducers.zipIdx.filter fun n => mapRegion cm (32 * n.2) == r && 4 * n.2 < cm.length).foldl (fun a n => a + n.1) 0)

/-- R164, R165, R173, R188, R260, R268. -/
def castPanelOk (s : State) (x : Panel) (i : Image) : Bool :=
  let p := i.pat
  let cm := castMap x
  cm.length == ihClusters i && !ihWeightsOnly i
    && p.groups ≤ (maskBits 24 x.groups.toNat).length
    && ((waysOf x.ways.toNat).all fun w => p.ways ≤ (maskBits 16 w).length)
    && (!x.gen || ihGenOk i)
    && (x.groups != 0 || (p.kv.isNone && (extents i).all (·.place < 3) && p.areas.all (!·.tier2)))
    && (p.lists.all fun l =>
      let r := if l.region then mapRegion cm l.idx else lgetD cm l.idx 0 / 4
      areaRegion cm i l.area == some r && (!l.region || (upto (4 * r) 4).all fun c => cm.contains c))
    && (p.reducers.all fun d => areaRegion cm i d.slotArea == some (mapRegion cm d.unit))
    && (List.range 16).all fun r => reducerNeed p cm r ≤ (freeReducers s r).length

/-! ## Step 2: placement (R272) -/

/-- Darned STATIC units of a cluster with the spares that take their place. -/
def placeCluster (s : State) (lc phys : Nat) (roles : List Role) : Option (List (Nat × Nat)) :=
  let dark (k : Nat) : Bool := (getUnit s (8 * phys + k)).marked
  let pick (r : Role) (m : Bool) : List Nat := (List.range 8).filter fun k => lgetD roles k .idle == r && dark k == m
  let st := pick .static true
  let sp := pick .spare false
  if sp.length < st.length then none else some ((st.zip sp).map fun q => (8 * lc + q.1, 8 * phys + q.2))

/-- The placement of every cluster. -/
def placeAll (s : State) (i : Image) : (lc : Nat) → List Nat → Option (List (Nat × Nat))
  | _, [] => some []
  | lc, ph :: t =>
    match placeCluster s lc ph (lgetD i.pat.roles lc []), placeAll s i (lc + 1) t with
    | some a, some b => some (a ++ b)
    | _, _ => none

/-- The mismatch counts of a panel's units are cleared (R90). -/
def clearSites (p : Nat) (s : State) : State :=
  (panelUnits s p).foldl (fun s u => if (tget s.units u).isSome then modUnit u (fun x => { x with sites := [] }) s else s) s

/-! ## Step 3: allocation -/

/-- The lowest FREE hank of a region's slice, none retired (R14, R473). -/
def freeInSlice (s : State) (r : Nat) : Option Nat :=
  (s.boot.t1Retired.foldl (fun l k => rangeDel l k (k + 1)) [(48 * r, 48 * r + 48)]).findSome? fun q =>
    firstGap s.hanks q.1 q.2

/-- Whether a submitter is an eviction out of a region's slice. -/
def evictsSlice (r : Nat) : Submitter → Bool
  | .evict k => k < 768 && k / 48 == r
  | _ => false

/-- A hank of a region's slice (R14, R267): the lowest free, else its oldest is evicted; none when every one is pinned. -/
def takeSlice (p r : Nat) (pin : Bool) (s : State) : AllocRes × State :=
  let free := freeInSlice s r
  let old := oldestOf s fun k _ => k / 48 == r && k < 768
  if free.isSome || old.isSome || pin || evicting s (.cast p) then
    allocBy (.cast p) free old (some p) pin (s.moves.any fun m => evictsSlice r m.by_) s
  else allocTry (.cast p) 2 (some p) false s

/-- Take `n` hanks one by one. -/
def takeMany (f : State → AllocRes × State) : (n : Nat) → List Nat → State → AllocRes × List Nat × State
  | 0, got, s => (.got 0, got, s)
  | n + 1, got, s =>
    match f s with
    | (.got k, s) => takeMany f n (got ++ [k]) s
    | (r, s) => (r, got, s)

/-- An area to allocate: its instance without places, and the home region of a T1 one. -/
structure AreaNeed where
  id : Nat
  inst : AreaInst
  region : Nat
deriving Repr

/-- Every extent and declared area of an image (R203, R267). -/
def areaNeeds (cm : List Nat) (i : Image) (w : BitVec 32) : List AreaNeed :=
  ((extents i).map fun e =>
    { id := e.id, region := mapRegion cm e.unit,
      inst := { tier2 := 3 ≤ e.place, pinned := e.place == 1, readOnly := true, len := e.len, imgOff := e.off, swap := e.swap,
                wver := w, locs := if e.place = 4 then List.replicate (cdiv e.len hankBytes) .lazy else [] } })
    ++ i.pat.areas.map fun a =>
      { id := a.id, region := mapRegion cm a.unit,
        inst := { tier2 := a.tier2, pinned := !a.tier2, readOnly := false, len := a.bytes, imgOff := 0, swap := 0xFFFF,
                  wver := w, locs := [] } }

/-- One hank for an area: T2, or its home slice (R267). -/
def takeAreaHank (p : Nat) (a : AreaNeed) (s : State) : AllocRes × State :=
  if a.inst.tier2 then allocTry (.cast p) 2 (some p) false s else takeSlice p a.region a.inst.pinned s

/-- Allocate the areas in order; a lazy one takes nothing. -/
def takeAreas (p : Nat) : List AreaNeed → Tbl AreaInst → State → AllocRes × Option AreaNeed × Tbl AreaInst × State
  | [], t, s => (.got 0, none, t, s)
  | a :: rest, t, s =>
    if a.inst.locs.contains .lazy then takeAreas p rest (tset t a.id a.inst) s
    else
      match takeMany (takeAreaHank p a) (cdiv a.inst.len hankBytes) [] s with
      | (.got _, ks, s) => takeAreas p rest (tset t a.id { a.inst with locs := ks.map fun k => .addr (hankAddr k) }) s
      | (r, ks, s) => (r, some a, t, ks.foldl (fun s k => freeHank k s) s)

/-- Free what an area holds. -/
def freeArea (a : AreaInst) (s : State) : State :=
  a.locs.foldl (fun s l => match l with
    | .addr b => freeHank (hankOf b) s
    | .absent b => releaseT3 b hankBytes (makeHomeless b hankBytes s)
    | _ => s) s

/-- Free every hank of a cast-on pattern: areas, pool directory, page hanks (R275, R277 steps 4 and 5). -/
def freeCast (c : Cast) (s : State) : State :=
  let s := c.areas.foldl (fun s a => freeArea a.2 s) s
  let s := if c.dirBase = 0 then s
    else (hanksOf c.dirBase ((c.img.pat.kv.map dirBytes).getD 0)).foldl (fun s k => freeHank k s) s
  c.poolHanks.foldl (fun s e => freeAt e.2 s) s

/-- The pool directory: a pinned run of T2 (R225), all zero. -/
def takeDirectory (p : Nat) (i : Image) (s : State) : AllocRes × State :=
  match i.pat.kv with
  | none => (.got 0, s)
  | some k =>
    match allocRange (.cast p) 2 (dirBytes k) (some p) true none s with
    | (.got a, s) =>
      (.got a, (hanksOf a (dirBytes k)).foldl (fun s h => devPin h s) (clearRange a (dirBytes k) s))
    | r => r

/-! ## Static overflows (R110, R124, R142, R159, R388) -/

/-- Clusters, regions and stacks a route reaches: how it is made (R123). 0 cable switch, for at most 8 destinations,
1 multicast group of its region, 2 package bridge, 3 link, 4 none of them. -/
def routeKind (c : Cast) (r : RouteDecl) : Nat :=
  let u := physUnit c r.unit
  let us := r.dests.filterMap fun d => match d with
    | .strand v _ => some (physUnit c v)
    | .link _ _ => none
  if us.length < r.dests.length then (if r.dests.length = 1 then 3 else 4)
  else if us.length ≤ 8 && us.all fun v => clusterOf v == clusterOf u then 0
  else if us.all fun v => regionOf v == regionOf u then 1
  else if us.length = 1 then 2
  else 4

/-- The capacity of R124 that a route of no form of R123 is held against: link strand channels when a link is among its
destinations, package-bridge routes when another stack is, else multicast groups (R123 states no outcome; DESIGN CHOICE, log
entry 87). -/
def oddLimit (c : Cast) (r : RouteDecl) : Nat :=
  if r.dests.any fun d => match d with
    | .link _ _ => true
    | .strand _ _ => false then 64
  else if r.dests.any fun d => match d with
    | .strand v _ => unitStack (physUnit c v) != unitStack (physUnit c r.unit)
    | .link _ _ => false then 128
  else 256

/-- The first static overflow: unit, resource, value, limit; `none` for a value nothing states. A route of no form of R123
is one of resource strand routing, VALUE its destinations (DESIGN CHOICE, log entry 87); so is a link strand channel beyond
63, VALUE the channels up to the highest (DESIGN CHOICE, log entry 87). -/
def castOverflow (s : State) (c : Cast) : Option (Nat × Nat × Option Nat × Nat) :=
  let p := c.img.pat
  let big := p.units.findSome? fun u =>
    if 1024 < u.program.length then some (physUnit c u.unit, 0x01, some u.program.length, 1024)
    else if lsBytes < u.localBytes then some (physUnit c u.unit, 0x03, some u.localBytes, lsBytes)
    else none
  let odd := p.routes.findSome? fun r =>
    if routeKind c r = 4 then some (physUnit c r.unit, 0x05, some r.dests.length, oddLimit c r) else none
  let groups := (List.range 16).findSome? fun rg =>
    let n := (p.routes.filter fun r => routeKind c r == 1 && regionOf (physUnit c r.unit) == rg).length
    if 256 < n then some (32 * rg, 0x05, some n, 256) else none
  let bridge := (List.range 16).findSome? fun q =>
    let n := (p.routes.filter fun r => routeKind c r == 2 && unitStack (physUnit c r.unit) == q / 4
      && r.dests.any fun d => match d with
        | .strand v _ => unitStack (physUnit c v) == q % 4 && unitStack (physUnit c v) != q / 4
        | .link _ _ => false).length
    if 128 < n then some (128 * (q / 4), 0x05, some n, 128) else none
  let link := (List.range 18).findSome? fun port =>
    let mine := p.channels.filter (·.port == port)
    let held : Nat := ((getPort s port).recv.map fun r => r.2.credits).foldl (· + ·) 0
    let total : Nat := (mine.filter (·.recv)).foldl (fun a ch => a + ch.credits) held
    let x := getPort s port
    let many := (mine.filter fun ch => 64 ≤ ch.ch).foldl (fun n ch => max n (ch.ch + 1)) 0
    match (if many = 0 then none else some many) with
    | some n => some (physUnit c (ihVentryUnit c.img), 0x05, some n, 64)
    | none =>
    if 4096 < total then some (physUnit c (ihVentryUnit c.img), 0x05, some total, 4096)
    else if mine.any fun ch => port == 15 || x.st != .up || x.peer.toNat != ch.peer || (ch.recv && (tget x.recv ch.ch).isSome) then
      some (physUnit c (ihVentryUnit c.img), 0x05, none, 64)
    else none
  [big, odd, groups, bridge, link].findSome? id

/-! ## Step 4: what is written -/

/-- A unit as cast-on leaves it before its own declarations (R106, R117, R140, R275). -/
def blankUnit (x : KUnit) : KUnit :=
  { x with
    program := [], pc := 0, run := .idle, wait := .none, ctrs := [], sems := [], segs := [], tensors := [],
    problem := none, tileCount := 0, passes := [], arrQ := [], outQ := [], vecQ := [], moveQ := [], strandQ := [],
    shadowFull := false, issued := 0, issue16 := false, lastBufB := true, lastReplay := false, ins := [], outs := [],
    hists := [], drained := [], recover := none, retained := [], retCount := [], lastNoHome := none, heldAt := [], moveTags := [] }

/-- One field of a counter: base, step, bound, mode, value. -/
def setCtrPart (c : RowCtr) (part v : Nat) : RowCtr :=
  match part with
  | 0 => { c with base := BitVec.ofNat 32 v }
  | 1 => { c with step := BitVec.ofNat 32 v }
  | 2 => { c with bound := BitVec.ofNat 32 v }
  | 3 => { c with mode := BitVec.ofNat 4 v }
  | _ => { c with value := BitVec.ofNat 32 v }

/-- A unit's own declarations; it stands stopped until step 6. -/
def loadUnit (d : UnitDecl) (x : KUnit) : KUnit :=
  { x with
    program := d.program, run := .stopped,
    ctrs := d.ctrs.foldl (fun t q => tset t q.1 (setCtrPart (tgetD t q.1 {}) q.2.1 q.2.2)) [],
    segs := d.segs.foldl (fun t sg => tset t sg.idx { area := sg.area, off := sg.off, len := sg.len, tile := sg.tile }) [],
    tensors := d.tensors.foldl (fun t q => tset t q.idx
      { ident := q.ident, scale := BitVec.ofNat 32 (foldScale q), completion := q.completion, elems := q.elems,
        share := q.share, histArea := q.area, histOff := recordOff q, stride := q.stride, copies := q.copies }) [] }

/-- The physical form of a destination. -/
def physDest (c : Cast) : Dest → Dest
  | .strand u i => .strand (physUnit c u) i
  | .link p ch => .link p ch

/-- Enable the spill of an input strand (R136). -/
def spillOn (u i : Nat) (s : State) : State := modUnit u (fun x => setIn i { getIn x i with spillEn := true } x) s

/-- Write one route, with the spill enables of its destinations. -/
def writeRoute (c : Cast) (r : RouteDecl) (s : State) : State :=
  let s := modUnit (physUnit c r.unit) (fun x => setOut r.out { dests := r.dests.map (physDest c), device := r.device } x) s
  if r.spill then r.dests.foldl (fun s d => match d with
    | .strand v i => spillOn (physUnit c v) i s
    | .link _ _ => s) s
  else s

/-- Units to load: declared ones, less the darned WORKERs (R272). -/
def loadable (s : State) (c : Cast) : List UnitDecl :=
  c.img.pat.units.filter fun u => !(roleOf c.img u.unit == .worker && (getUnit s (physUnit c u.unit)).marked)

/-- A declared work list at its start (R164, R165): its count beat holds the initial word. -/
def writeList (p : Nat) (c : Cast) (l : ListDecl) (s : State) : State :=
  let key := physList c l
  let a := areaAddrD c l.area l.off
  let w := l.init
  let x : WorkList :=
    { panel := p, beat := a, count := BitVec.ofNat 24 w.toNat, final := nbit w.toNat 31,
      epoch := BitVec.ofNat 16 (w.toNat >>> 32) }
  wr a (recBytes w) { s with lists := tset s.lists key x }

/-- A declared ordered-reducer entry, in the lowest free entry of its region (R173). -/
def writeReducer (p : Nat) (c : Cast) (d : ReducerDecl) (s : State) : State :=
  match (freeReducers s (regionOf (physUnit c d.unit))).head? with
  | none => s
  | some k =>
    let x : Reducer :=
      { panel := p, parts := d.parts, elems := d.elems,
        slots := (List.range d.parts).map fun n => areaAddrD c d.slotArea (d.slotOff + 4 * d.elems * n),
        hdrs := (List.range d.parts).map fun n => areaAddrD c d.slotArea (d.hdrOff + 64 * n),
        out := areaAddrD c d.outArea d.outOff, outHdr := areaAddrD c d.outArea d.outHdrOff, tensor := d.tensor,
        empties := d.empties.map (physSem c), fulls := d.fulls.map (physSem c) }
    { s with reducers := tset s.reducers k x }

/-- Counters that CAST_ON clears (R139, R146, R172, R245, R263). -/
def castClears (p : Nat) (us : List Nat) (ls : List Nat) : Ctr → Bool
  | .spills u _ => us.contains u
  | .busy u => us.contains u
  | .stall u _ => us.contains u
  | .claimsServed l => ls.contains l
  | .requeued l => ls.contains l
  | .rejectedStores l => ls.contains l
  | .epochs l => ls.contains l
  | .spillHigh q | .pageWaits q | .walks q | .blocksDelivered q | .blocksSkipped q | .pagesRead q | .sanitised q
  | .kvRebuilds q | .rejectedKv q => q == p
  | .rowsKept q _ _ | .drops q _ _ | .emptySteps q _ _ | .forced q _ | .nonFinite q _ | .noExpert q _
  | .rejectedRoute q _ | .dispatchWaits q _ => q == p
  | _ => false

/-- Work lists, reductions, claims, signals and posted commands of a panel are dropped. -/
def dropPanelWork (p : Nat) (s : State) : State :=
  let us := panelUnits s p
  { s with
    lists := s.lists.filter (fun l => l.2.panel != p)
    reducers := s.reducers.filter (fun r => r.2.panel != p)
    claims := tmap s.claims (fun _ l => l.filter fun c => !us.contains c.unit)
    signals := s.signals.filter fun g => !us.contains g.unit
    posted := s.posted.filter fun q => q.1 != p }

/-- Step 4 of cast-on for a panel whose pattern has its areas. -/
def castWrite (p : Nat) (c : Cast) (s : State) : State :=
  let s := dropPanelWork p s
  let s := (panelUnits s p).foldl (fun s u => modUnit u blankUnit s) s
  let s := (loadable s c).foldl (fun s d => modUnit (physUnit c d.unit) (loadUnit d) s) s
  let s := c.img.pat.routes.foldl (fun s r => writeRoute c r s) s
  let s := c.img.pat.lists.foldl (fun s l => writeList p c l s) s
  let s := c.img.pat.reducers.foldl (fun s d => writeReducer p c d s) s
  let s := c.img.pat.queues.foldl (fun s q => areaWrite c q.area q.off (List.replicate 256 0) s) s
  let s := ((c.img.pat.kv.map (·.rings)).getD []).foldl (fun s r => areaWrite c r.area r.relOff (List.replicate 4 0) s) s
  clearCtrs (castClears p (panelUnits s p) (c.img.pat.lists.map (physList c))) s

/-- Receive channels of a pattern, closed until its cast-on completes (R388). -/
def castChannels (p : Nat) (c : Cast) (s : State) : State :=
  c.img.pat.channels.foldl (fun s ch =>
    if ch.recv then
      let y : RecvCh := { panel := p, open_ := false, credits := ch.credits, crn := 0, dest := physDest c ch.dest }
      let s := modPort ch.port (fun x => { x with recv := tset x.recv ch.ch y }) s
      match ch.dest with
      | .strand u i => modUnit (physUnit c u) (fun x => setIn i { getIn x i with fromLink := some (ch.port, ch.ch) } x) s
      | .link _ _ => s
    else s) s

/-- Strands fed by a link know their channel again after a second step 4. -/
def feedChannels (c : Cast) (s : State) : State :=
  c.img.pat.channels.foldl (fun s ch =>
    match ch.recv, ch.dest with
    | true, .strand u i => modUnit (physUnit c u) (fun x => setIn i { getIn x i with fromLink := some (ch.port, ch.ch) } x) s
    | _, _ => s) s

/-! ## CAST_ON (R275) -/

/-- A CAST_ON ends (R281). -/
def castEnd (p id status : Nat) (s : State) : State :=
  adminDone id status 0 (bump (.castOns p status) 1 (modPanel p (fun x => { x with castCmd := none }) s))

/-- An allocation is for a panel. -/
def takerOf (p : Nat) : Taker → Bool
  | .lazy q _ => q == p
  | .pages q _ => q == p
  | .list q _ => q == p
  | .cast q => q == p
  | _ => false

/-- The allocations of a panel that wait are given up. -/
def dropAllocs (p : Nat) (s : State) : State := { s with allocs := s.allocs.filter fun a => !takerOf p a.who }

/-- A failing step: hanks freed, pins removed, the panel EMPTY, held requests ended with PANEL_DOWN (R274, R275). -/
def castFail (p id status : Nat) (s : State) : State :=
  let c := getCast s p
  let s := match c with
    | some c => freeCast c (dropPanelWork p ((panelUnits s p).foldl (fun s u => modUnit u blankUnit s) s))
    | none => s
  let s := { s with links := { s.links with ports := tmap s.links.ports fun _ x =>
    { x with recv := x.recv.filter fun r => r.2.panel != p } } }
  let s := dropAllocs p (modPanel p (fun x => { x with st := .empty, cast := none }) s)
  castEnd p id status (endPanel p inFlightSts stPanelDown s)

/-- The record of an overflow found at cast-on (R142, R143). -/
def castFault (p u res : Nat) (value : Option Nat) (limit : Option Nat) (s : State) : State :=
  let (v, s) := match value with
    | some v => (v, s)
    | none => freeNat s
  let (l, s) := match limit with
    | some l => (l, s)
    | none => freeNat s
  recordFault p (faultRec u res true 0xFFFF v l s) s

/-- The version-marker entry of the image, in physical terms (R264). -/
def withEntry (c : Cast) : Cast :=
  { c with ventry := (physUnit c (ihVentryUnit c.img), ihVentryStrand c.img % 8) }

/-- Steps 2 to 4. While an allocation waits for an eviction the panel stays CASTING without a pattern, and ALLOC_WAKE
tries again (R200). -/
def castSteps (p id : Nat) (x : Panel) (e : CatEntry) (s : State) : State :=
  let i := e.img
  let s := clearSites p s
  match placeAll s i 0 (castMap x) with
  | none => castFail p id stPanelDown s
  | some pl =>
    let c0 := withEntry
      { model := e.model, wversion := e.wversion, admission := e.wversion, img := i, cmap := castMap x, place := pl }
    match takeDirectory p i s with
    | (.none_, s) => castFail p id stMappingFault (castFault p (physUnit c0 (ihVentryUnit i)) 0x0C none none s)
    | (.wait, s) => s
    | (.got base, s) =>
      let dir := { c0 with dirBase := base }
      match takeAreas p (areaNeeds c0.cmap i e.wversion) [] s with
      | (.none_, a, t, s) =>
        let u := (a.map fun a => 32 * a.region).getD 0
        castFail p id stMappingFault (castFault p u 0x04 none none (freeCast { dir with areas := t } s))
      | (.wait, _, t, s) => freeCast { dir with areas := t } s
      | (.got _, _, t, s) =>
        match castOverflow s c0 with
        | some (u, res, v, l) => castFail p id stMappingFault (castFault p u res v (some l) (freeCast { dir with areas := t } s))
        | none =>
          let c := { dir with areas := t, tau := BitVec.ofNat 32 i.pat.stepNs,
                              rings := ((i.pat.kv.map (·.rings)).getD []).map fun r => (r.ring, {}) }
          let s := modPanel p (fun x => { x with cast := some c, fault := none, mapFault := false }) s
          bump (.spareSubst p) pl.length (castChannels p c (castWrite p c s))

/-- Steps 1 to 4. The header is read from the staged copy, when one exists, and otherwise from the catalogue; a staged copy
in T3 is returned first, with the panel CASTING as while an allocation waits (R202, R275). -/
def castTry (p id : Nat) (x : Panel) (e : CatEntry) (s : State) : State :=
  match returnStaged e 0 4096 s with
  | some s => s
  | none =>
    let s := catCount p e 0 4096 s
    if castPanelOk s x e.img then castSteps p id x e s else castFail p id stBad s

def runCastOn (id : Nat) (d : Rec64) (s : State) : State :=
  let p := dPanel d
  match getPanel s p with
  | none => adminDone id stBad 0 (bump (.castOns p stBad) 1 s)
  | some x =>
    if x.st != .empty then adminDone id stBad 0 (bump (.castOns p stBad) 1 s)
    else
      let s := modPanel p (fun x => { x with st := .casting, castCmd := some id, swatching := false, drained := false,
                                             fault := none, mapFault := false }) s
      match catFind s (dModel d) (dWver d) with
      | none => castFail p id stBad s
      | some e =>
        castTry p id x e s

/-- A cast-on that waits for a hank, or for its staged copy, tries its steps again. -/
def castRetry (p : Nat) (s : State) : State :=
  match getPanel s p with
  | none => s
  | some x =>
    match x.castCmd.bind (adminCmd s) with
    | none => s
    | some c =>
      if x.st != .casting || x.swatching || x.cast.isSome || dOp c.d != 0x83 then s
      else
        match catFind s (dModel c.d) (dWver c.d) with
        | none => castFail p c.id stBad s
        | some e => if s.allocs.any (·.who == .cast p) then castSteps p c.id x e s else castTry p c.id x e s

/-- ALLOC_WAKE: a hank of a tier has freed; the first allocation that waits for one there is tried again: a move, else a
cast-on (R200). -/
def execAllocWake (tier2 : Bool) (s : State) : Result :=
  let tier := if tier2 then 2 else 1
  .next (match (moveOrder s).find? fun m =>
      moveReady s m && !m.placed && m.dtier == tier && (lowestFree s tier (domainOwner m.panel)).isSome with
    | some m => startMove m [] s
    | none =>
      match s.panels.find? fun q => q.2.st == .casting && !q.2.swatching && q.2.cast.isNone with
      | some q => castRetry q.1 s
      | none => s)

/-- CHANNEL_OPEN for each receive channel of a panel (R388, R393). -/
def openChannels (p : Nat) (s : State) : State :=
  s.links.ports.foldl (fun s pp =>
    (pp.2.recv.filter fun r => r.2.panel == p).foldl (fun s r =>
      let s := modPort pp.1 (fun x => { x with recv := tset x.recv r.1 { r.2 with open_ := true } }) s
      if pp.2.st = .up then sendService pp.1 (serviceHdr 0xA 0 0 r.1 r.2.crn.toNat r.2.credits) [] s else s) s) s

/-- Units that hold a program start at address 0 (R106). -/
def startUnits (p : Nat) (s : State) : State :=
  (panelUnits s p).foldl (fun s u =>
    if (getUnit s u).run == .stopped then goTo u 0 (modUnit u (fun x => { x with run := .running }) s) else s) s

/-- The device's prologue on the outbound run and step links, whose reading side it takes: the empty semaphore of every
writing unit, once for each buffer (R149, R288). -/
def linkPrologue (p : Nat) (s : State) : State :=
  match getCast s p with
  | none => s
  | some c =>
    let of_ (l : Option LinkDecl) : List SemRef :=
      (l.map fun k => (List.replicate k.depth (k.outWriters.map (physSem c))).flatten).getD []
    sendSignals (of_ c.img.pat.runLink ++ of_ c.img.pat.stepLink) s

/-- Step 6: the panel is READY. -/
def castReady (p : Nat) (s : State) : State :=
  linkPrologue p (startUnits p (modPanel p (fun x => { x with st := .ready, castCmd := none }) s))

/-- The places of an extent can be written: its hanks in T3 return first (R202), and a write to the source of a running move
is held (R194). A lazy extent has none: it will be copied from the new image. -/
def extentReady (p : Nat) (c : Cast) (id : Nat) (s : State) : Option State :=
  match tget c.areas id with
  | none => none
  | some a =>
    match a.locs.zipIdx.filterMap fun l => match l.1 with
        | .absent t3 => some (l.2, t3)
        | _ => none with
    | [] => if a.locs.any fun l => match l with
        | .addr b => inTransit s b hankBytes
        | _ => false then some s else none
    | l => some (l.foldl (fun s h => submitReturn p id h.1 h.2 a.tier2 s) s)

/-- What the copy of an extent out of a catalogue entry waits for: pieces of the staged copy, or hanks of the extent. -/
def copyWaits (p : Nat) (c : Cast) (e : CatEntry) (x : Ext) (s : State) : Option State :=
  match returnStaged e x.off x.len s with
  | some s => some s
  | none => extentReady p c x.id s

/-- A hank of an extent holds no datum: a write of it is answered no-home (R190). -/
def extentGone (s : State) (c : Cast) (id : Nat) : Bool :=
  (tget c.areas id).any fun a => a.locs.any fun l => match l with
    | .addr b => !homeAll s b hankBytes
    | .lost => true
    | _ => false

/-- CAST_ON_COPY_DONE: the extent copies end (R275 steps 5 and 6). `ok` is false when a piece could not be read. -/
def execCastOnCopyDone (panel : BitVec 4) (ok : Bool) (s : State) : Result :=
  let p := panel.toNat
  .next (match getPanel s p with
    | none => s
    | some x =>
      match x.cast, x.castCmd.bind (adminCmd s) with
      | some c, some cmd =>
        if dOp cmd.d != 0x83 then s
        else if x.st == .faulted then castEnd p cmd.id stPanelDown s
        else
          match x.st == .casting, catFind s c.model c.wversion with
          | false, _ => s
          | true, none => castFail p cmd.id stDataLost s
          | true, some e =>
            let exts := (extents c.img).filter (·.place < 4)
            if !ok then castFail p cmd.id stDataLost (catFailed e s)
            else
              match exts.findSome? fun x => copyWaits p c e x s with
              | some s => s
              | none =>
                if exts.any fun x => extentGone s c x.id then castFail p cmd.id stBad s
                else
                  let s := exts.foldl (fun s x => catCount p e x.off x.len (areaWrite c x.id 0 (catRead s e x.off x.len) s)) s
                  castEnd p cmd.id stDone (castReady p (openChannels p s))
      | _, _ => s)

/-! ## BIND_OFF (R277) -/

/-- Place a marker of the device on the version-marker entry of a panel, when its strand has room (R264, R292). -/
def placeEntry (p : Nat) (m : Nat) (s : State) : Option State :=
  match getCast s p with
  | none => none
  | some c =>
    let u := c.ventry.1
    let i := c.ventry.2
    let q := getIn (getUnit s u) i
    if q.laneRoom false || q.spillEn then some (deviceMarker u i (BitVec.ofNat 16 m) s) else none

/-- A stop marker that is due is placed when there is room (R292). -/
def placeStop (p : Nat) (s : State) : State :=
  match getCast s p with
  | none => s
  | some c =>
    if c.stopDue then
      match placeEntry p 0x5000 s with
      | some s => modCast p (fun c => { c with stopDue := false }) s
      | none => s
    else s

def runBindOff (id : Nat) (d : Rec64) (s : State) : State :=
  let p := dPanel d
  match getPanel s p with
  | none => adminDone id stBad 0 s
  | some x =>
    let close (s : State) : State := modPanel p (fun x => { x with castCmd := some id, drained := false }) s
    match x.st with
    | .ready => placeStop p (modCast p (fun c => { c with stopDue := true }) (modPanel p (fun x => { x with st := .binding, closedAt := s.us }) (close s)))
    | .swapping => close (faultPanel p stPanelDown s)
    | .faulted => close s
    | _ => adminDone id stBad 0 s

/-- Slots of a panel that belong to its step in flight. -/
def inStep (s : State) (p i : Nat) : Bool :=
  (getCast s p).any fun c => c.step.any fun st => st.2.any fun r => r.slot == i && !r.removed

/-- The drain limit of a panel's running BIND_OFF has ended: DRAIN_US from its entering BINDING (R277, R344). -/
def drainOver (s : State) (x : Panel) : Bool :=
  (x.castCmd.bind (adminCmd s)).any fun c => dOp c.d == 0x84 && x.closedAt + fld c.d 0xC 4 ≤ s.us

/-- BIND_OFF_DRAIN_LIMIT: when the drain limit has ended, what is still in flight ends at its next token or tile boundary
(R277 step 2): a request in the step in flight at that step's boundary, any other at once. -/
def execBindOffDrainLimit (panel : BitVec 4) (s : State) : Result :=
  let p := panel.toNat
  .next (match getPanel s p with
    | none => s
    | some x =>
      if x.st != .binding || x.drained || !drainOver s x then s
      else
        let s := placeStop p (modPanel p (fun x => { x with drained := true }) s)
        (slotsOf s p [.prefill, .decode]).foldl (fun s i => if inStep s p i then s else endSlot i stAborted s) s)

/-- Moves whose source or purpose has gone with a panel are dropped; a running one frees its destination. -/
def dropGoneMoves (p : Nat) (us : List Nat) (s : State) : State :=
  let gone (m : MoveRec) : Bool := match m.by_ with
    | .ret q _ _ => q == p
    | .evict k => (tget s.hanks k).isNone
    | .unit u => us.contains u
    | .admin _ => false
    | .deploy _ => false
  (s.moves.filter gone).foldl (fun s m =>
    let s := markTransit m false (dropMove m.id (dropAlloc (.move m.id) s))
    if m.filled = 0 then freeDest m s else releaseT3 m.dst m.len s) s

/-- Steps 3 to 6 of bind-off. -/
def bindTeardown (p : Nat) (s : State) : State :=
  let us := panelUnits s p
  let s := endPanel p inFlightSts stPanelDown (closeChannels p (stopPanelUnits p s))
  let s := (s.slots.filter fun x => x.2.panel == p && x.2.pageList != 0).foldl (fun s x => releasePages x.1 s) s
  let s := (((getCast s p).map (·.releases)).getD []).foldl (fun s r => releaseNow p r s) s
  let s := match getCast s p with
    | some c => freeCast c s
    | none => s
  let s := dropAllocs p (dropGoneMoves p us (dropPanelWork p s))
  let s := us.foldl (fun s u => if (tget s.units u).isSome then modUnit u blankUnit s else s) s
  clearFallbacks p (modPanel p (fun x =>
    { x with st := .empty, cast := none, castCmd := none, mapFault := false, drained := false }) s)

/-- BIND_OFF_TEARDOWN: with no request in flight, or on a FAULTED panel, the pattern is unloaded (R277). -/
def execBindOffTeardown (panel : BitVec 4) (s : State) : Result :=
  let p := panel.toNat
  .next (match getPanel s p with
    | none => s
    | some x =>
      match x.castCmd.bind (adminCmd s) with
      | none => s
      | some c =>
        if dOp c.d == 0x84 && (x.st == .faulted
            || (x.st == .binding && (slotsOf s p [.prefill, .decode, .summarising]).isEmpty)) then
          adminDone c.id stDone 0 (bindTeardown p s)
        else s)

/-! ## SWAP_WEIGHTS (R278 to R280) -/

/-- Every extent with a swap layer has the same ID, PLACE and LENGTH in both images (R278). -/
def swapExtentsOk (a b : Image) : Bool :=
  let sw (i : Image) : List Ext := (extents i).filter (·.swap != 0xFFFF)
  let same (x y : Ext) : Bool := x.id == y.id && x.place == y.place && x.len == y.len
  (sw a).all (fun x => (extents b).any (same x)) && (sw b).all fun x => (extents a).any (same x)

def runSwapWeights (id : Nat) (d : Rec64) (s : State) : State :=
  let p := dPanel d
  match getPanel s p with
  | none => adminDone id stBad 0 s
  | some x =>
    match x.cast, catFind s (dModel d) (dWver d) with
    | some c, some e =>
      if x.st != .ready || c.model != e.model || ihPhash c.img != ihPhash e.img || c.wversion == e.wversion
          || !swapExtentsOk c.img e.img then adminDone id stBad 0 s
      else
        modPanel p (fun x => { x with st := .swapping, castCmd := some id })
          (modCast p (fun c => { c with admission := e.wversion, swapTo := some e.img, swapCmd := id, swapAt := s.us,
                                        swapped := [], markerDue := true }) s)
    | _, _ => adminDone id stBad 0 s

/-- The swap is complete: every layer copied, the marker placed (R280). -/
def swapFinish (p : Nat) (s : State) : State :=
  match getPanel s p with
  | none => s
  | some x =>
    match x.cast with
    | none => s
    | some c =>
      match c.swapTo with
      | none => s
      | some i =>
        if x.st != .swapping || c.markerDue || c.swapped.length < c.img.pat.swaps.length then s
        else
          let s := modCast p (fun c => { c with
              wversion := c.admission, img := { i with pat := c.img.pat }, swapTo := none }) s
          adminDone c.swapCmd stDone 0 (bump (.swapsDone p) 1 (modPanel p (fun x => { x with st := .ready, castCmd := none }) s))

/-- VERSION_MARKER_PLACE: the last request of the old version has started (R278 step 2). -/
def execVersionMarkerPlace (panel : BitVec 4) (s : State) : Result :=
  let p := panel.toNat
  .next (match getPanel s p with
    | none => s
    | some x =>
      match x.cast with
      | none => s
      | some c =>
        if x.st != .swapping || !c.markerDue
            || (slotsOf s p [.queued]).any (fun i => (getSlot s i).any fun q => q.served != c.admission) then s
        else
          match placeEntry p (0x8000 + c.admission.toNat % 4096) s with
          | some s => swapFinish p (modCast p (fun c => { c with markerDue := false }) s)
          | none => s)

/-- Write an extent's bytes over the place of each of its hanks. -/
def overwriteArea (a : AreaInst) (l : List Byte) (s : State) : State :=
  (a.locs.zip (chunks hankBytes a.locs.length l)).foldl (fun s q => match q.1 with
    | .addr b => putBytes b q.2 s
    | _ => s) s

/-- The extents of a swap layer: those that carry its weights and those its table lists (R267, R278). -/
def layerExtents (i : Image) (n : Nat) (w : SwapDecl) : List Ext :=
  (extents i).filter fun q => q.swap == n || w.extents.contains q.id

/-- The extents of a swap layer are copied over the old ones, which are then of the new version (R279). -/
def copyLayer (p : Nat) (c : Cast) (e : CatEntry) (exts : List Ext) (s : State) : State :=
  let s := exts.foldl (fun s q => match tget c.areas q.id with
    | some a => if a.locs.contains .lazy then s else catCount p e q.off q.len (overwriteArea a (catRead s e q.off q.len) s)
    | none => s) s
  modCast p (fun c =>
    let areas := exts.foldl (fun t q => match tget t q.id with
      | some a => tset t q.id { a with imgOff := q.off, wver := e.wversion }
      | none => t) c.areas
    { c with areas := areas }) s

/-- SWAP_LAYER_COPY_DONE: the copy of a swap layer's weights ends (R279). The copy is made while every unit waits at the
layer's barrier. -/
def execSwapLayerCopyDone (panel : BitVec 4) (layer : BitVec 10) (s : State) : Result :=
  let p := panel.toNat
  let n := layer.toNat
  .next (match getPanel s p with
    | none => s
    | some x =>
      match x.cast with
      | none => s
      | some c =>
        match c.swapTo, c.img.pat.swaps[n]?, catFind s c.model c.admission with
        | some i, some w, some e =>
          if x.st != .swapping || c.markerDue || c.swapped.contains n || !allArrived s p w.barrier then s
          else
            let mine := layerExtents i n w
            match mine.findSome? fun q => copyWaits p c e q s with
            | some s => s
            | none => swapFinish p (modCast p (fun c => { c with swapped := c.swapped ++ [n] }) (copyLayer p c e mine s))
        | _, _, _ => s)

/-- The time limit of a panel's running swap has passed: LIMIT_MS from its acceptance (R280, R344). -/
def swapLate (s : State) (c : Cast) : Bool :=
  (adminCmd s c.swapCmd).any fun a => c.swapAt + 1000 * fld a.d 0xA 2 ≤ s.us

/-- SWAP_TIMEOUT: the swap fails (R280). -/
def execSwapTimeout (panel : BitVec 4) (s : State) : Result :=
  .next (match getPanel s panel.toNat with
    | some x => if x.st == .swapping && x.cast.any (swapLate s) then
        modPanel panel.toNat (fun x => { x with castCmd := none }) (faultPanel panel.toNat stPanelDown s) else s
    | none => s)

/-! ## SWATCH on a panel (R475, R476) -/

def runSwatch (id : Nat) (d : Rec64) (s : State) : State :=
  let p := dPanel d
  match getPanel s p with
  | none => adminDone id stBad 0 s
  | some x =>
    let need := 64 + 16 * (panelUnits s p).length
    if x.st != .ready then adminDone id stBad 0 s
    else if fld d 0x18 4 < need then adminDone id stBad need s
    else modPanel p (fun x => { x with st := .casting, castCmd := some id, swatching := true }) s

/-- The record of one unit (R476). -/
def swatchRec (u : Nat) (was : Bool) (f : Option SwatchResult) : List Byte :=
  match f with
  | none => bytesOf 2 u ++ bytesOf 1 (if was then 3 else 0) ++ List.replicate 13 0
  | some r =>
    let low := 1 ≤ r.test && r.test ≤ 4
    bytesOf 2 u ++ bytesOf 1 (if was then 2 else 1) ++ bytesOf 1 r.test ++ bytesOf 1 (if low then r.band else 0) ++ [0]
      ++ bytesOf 2 (if low then r.column else 0) ++ bytesOf 4 (if 8 ≤ r.test then r.detail.toNat else 0) ++ bytesOf 4 0

/-- The whole report. -/
def swatchReport (p now : Nat) (us : List (Nat × Bool × Option SwatchResult)) : List Byte :=
  let newly := (us.filter fun q => !q.2.1 && q.2.2.isSome).length
  recBytes (sealRec (recOf 512 [(0, 1, 1), (1, 1, p), (2, 2, us.length), (4, 2, newly), (8, 8, now)]))
    ++ us.flatMap fun q => swatchRec q.1 q.2.1 q.2.2

/-- SWATCH_TESTS_DONE: the tests of a panel's units end; `fails` names the units that fail (R475 steps 3 to 5). -/
def execSwatchTestsDone (panel : BitVec 4) (fails : List SwatchResult) (s : State) : Result :=
  let p := panel.toNat
  .next (match getPanel s p with
    | none => s
    | some x =>
      match x.cast, x.castCmd.bind (adminCmd s) with
      | some c, some cmd =>
        if !x.swatching || dOp cmd.d != 0x8F then s
        else if x.st != .casting then
          adminDone cmd.id stPanelDown 0 (modPanel p (fun x => { x with castCmd := none, swatching := false }) s)
        else if !(slotsOf s p [.prefill, .decode, .summarising]).isEmpty then s
        else
          let us := (panelUnits s p).map fun u =>
            (u, (getUnit s u).marked, fails.find? fun f => f.unit.toNat == u && 1 ≤ f.test && f.test ≤ 11)
          let bad := us.filter (·.2.2.isSome)
          let report := swatchReport p s.us us
          let s := bump (.fieldSwatchFail p) bad.length
            (bad.foldl (fun s q => modUnit q.1 (fun x => { x with marked := true }) s) s)
          let s := clearSites p s
          match placeAll s c.img 0 (castMap x) with
          | none =>
            adminDone cmd.id stPanelDown 0
              (modPanel p (fun x => { x with castCmd := none, swatching := false }) (bindTeardown p s))
          | some pl =>
            let c := withEntry { c with
                              place := pl, spillUsed := 0, runEmpty := 0, stepEmpty := 0, runFull := 0, stepFull := 0,
                              runBuf := 0, runOut := 0, stepBuf := 0, stepOut := 0, runs := [], step := none,
                              rings := tmap c.rings fun _ _ => {}, inbox := [], srcSteps := [], homeSteps := [], seen := [],
                              waitDispatch := [], flush := false, dieSeq := [] }
            let s := modPanel p (fun x => { x with cast := some c, swatching := false }) s
            let s := feedChannels c (castWrite p c s)
            let s := (panelUnits s p).foldl (fun s u => modUnit u (fun x => { x with store := [], hdrFile := [] }) s) s
            let s := bump (.spareSubst p) pl.length s
            adminOut cmd.id (fld cmd.d 0x10 8) (fld cmd.d 0x18 4) report (castReady p s)
      | _, _ => s)

end Sys2Proof.Machine
end

