-- ==== Sys2Proof/Machine/Serving.lean ====
section
/-! DEFINITION. Serving requests, chapter 10: deadlines, ranking, steps, token boundaries, stops, the monitor, runs,
sweeps, pauses. -/
namespace Sys2Proof.Machine
open Sys2Proof

/-! ## Time (R284) -/

/-- The low 32 bits of module time. -/
def now32 (s : State) : Nat := s.us % 2 ^ 32

/-- `a` is before `b` (R284). -/
def before32 (a b : Nat) : Bool := 2 ^ 31 ≤ (a + 2 ^ 32 - b % 2 ^ 32) % 2 ^ 32

/-- The request's deadline is reached (R284). -/
def reached (x : Slot) (s : State) : Bool := !x.noDeadline && !before32 (now32 s) x.deadline.toNat

/-- The length limit of a panel (R238). -/
def limitOf (s : State) (p : Nat) : Nat := min 262144 (((kvOf s p).map (·.maxLen)).getD 262144)

/-- Tokens sampled now are committed at once: no partner acknowledges them (R23, R402). -/
def commitsNow (s : State) : Bool := !(s.ply.st == .bound || s.ply.st == .releasing)

/-! ## Ranking (R296, R297) -/

/-- The rank of a request: a lower number first (R297). -/
def rankKey (s : State) (i : Nat) (x : Slot) : Nat :=
  let dl := if x.noDeadline then 2 ^ 32 else (x.deadline.toNat + 2 ^ 31 + 2 ^ 32 - now32 s) % 2 ^ 32
  let acc := 2 ^ 32 - 1 - (now32 s + 2 ^ 32 - x.acceptedAt.toNat) % 2 ^ 32
  (((b2n (!x.urgent) * 16 + (15 - x.effective.toNat)) * 2 ^ 33 + dl) * 2 ^ 32 + acc) * 2 ^ 14 + i

/-- Insert by key. -/
def keyIns {α : Type} (k : Nat) (a : α) : List (Nat × α) → List (Nat × α)
  | [] => [(k, a)]
  | (j, b) :: t => if k < j then (k, a) :: (j, b) :: t else (j, b) :: keyIns k a t

/-- Slots in the order of R297. -/
def rankedSlots (s : State) (l : List (Nat × Slot)) : List (Nat × Slot) :=
  (l.foldl (fun acc e => keyIns (rankKey s e.1 e.2) e acc) []).map (·.2)

/-- Priority aging and urgency of one active request (R296, R315); a change of URGENT is mirrored (R282, R411). -/
def ageSlot (i : Nat) (s : State) : State :=
  match getSlot s i with
  | none => s
  | some x =>
    if !inFlightSts.contains x.st then s
    else if x.noDeadline then
      let s := setSlot i { x with effective := x.prio, urgent := false } s
      if x.urgent then slotChanged i s else s
    else
      let slack := (x.deadline - x.acceptedAt).toNat
      let step := max 1 (slack / max 1 s.agingSteps.toNat)
      let consumed := (now32 s + 2 ^ 32 - x.acceptedAt.toNat) % 2 ^ 32
      let eff := min 15 (x.prio.toNat + consumed / step)
      let urgent : Bool := !reached x s && (x.deadline.toNat + 2 ^ 32 - now32 s) % 2 ^ 32 < s.urgentUs.toNat
      let s := setSlot i { x with effective := BitVec.ofNat 4 eff, urgent := urgent } s
      let s := if urgent != x.urgent then slotChanged i s else s
      if urgent && !x.urgent then bump (.urgent x.panel) 1 s else s

/-- The slots that are not FREE, ascending. -/
def liveSlots (s : State) : List Nat := s.slots.map (·.1)

/-- Aging of every active request (R296). -/
def ageAll (s : State) : State := (liveSlots s).foldl (fun s i => ageSlot i s) s

/-! ## The deadline monitor (R300, R301) -/

/-- The fallback panel a request may take: set, READY or SWAPPING, long enough, with a summary stage when RESUMED. -/
def fallbackPanel (s : State) (x : Slot) (total : Nat) : Option Nat :=
  match getPanel s x.panel with
  | none => none
  | some p =>
    match getPanel s p.fallback with
    | none => none
    | some f =>
      match f.cast with
      | none => none
      | some c =>
        if (f.st == .ready || f.st == .swapping) && total ≤ limitOf s p.fallback
            && (!x.resumed || 0 < c.img.pat.summaryBytes) then some p.fallback else none

/-- Tokens still to come, by MAX_NEW and by the length limit (R300). -/
def remaining (s : State) (x : Slot) : Nat := min (x.maxNew - (x.tokens - x.prompt)) (limitOf s x.panel - x.tokens)

/-- The monitor judges one request (R300). -/
def monitorSlot (i : Nat) (s : State) : State :=
  match getSlot s i with
  | none => s
  | some x =>
    if !x.generates || x.noDeadline || x.fallback || x.fallbackDue || x.handed.isSome
        || !(x.st == .prefill || x.st == .decode) then s
    else
      match getPanel s x.panel, getCast s x.panel with
      | some p, some c =>
        let rem := remaining s x
        let est := (now32 s + min (2 ^ 31 - 1) (rem * c.tau.toNat / 1000)) % 2 ^ 32
        if before32 est ((x.deadline - p.margin).toNat) then s
        else if (fallbackPanel s x (x.tokens + rem)).isSome then setSlot i { x with fallbackDue := true } s
        else bump (.noFallback x.panel) 1 s
      | _, _ => s

/-- A request leaves its panel with nothing kept: pages released, LENGTH 0, and the flush marker due when it leaves by a
step (R292, R301). -/
def leavePanel (byStep : Bool) (i : Nat) (s : State) : State :=
  match getSlot s i with
  | none => s
  | some x => modCast x.panel (fun c => { c with flush := c.flush || byStep }) (releasePages i (leaveWork i s))

/-- FALLBACK: a request whose sampled tokens are all committed moves to its fallback panel (R301). -/
def execFallback (slot : BitVec 14) (s : State) : Result :=
  let i := slot.toNat
  .next (match getSlot s i with
    | none => s
    | some x =>
      if !x.fallbackDue || !x.sampled.isEmpty || !(x.st == .prefill || x.st == .decode) then s
      else
        match fallbackPanel s x (x.tokens + remaining s x) with
        | none => setSlot i { x with fallbackDue := false } s
        | some f =>
          let s := bump (.fallbacks x.panel) 1 (leavePanel true i s)
          let adm := ((getCast s f).map (·.admission)).getD 0
          slotChanged i (modSlot i (fun x => { x with
            fallback := true, fallbackDue := false, panel := f, served := adm, rebuild := false, st := .queued }) s))

/-! ## Retry (R313) -/

/-- A panel may be the target of a RETRY of a request: READY with the same MODEL and WVERSION, named for GEN traffic, with
a step link. -/
def retryTargetOk (s : State) (x : Slot) (t : Nat) : Bool :=
  (getPanel s t).any fun y => y.st == .ready && y.gen && y.cast.any fun c =>
    c.model == x.model && c.wversion == x.wversion && c.img.pat.stepLink.isSome

/-- A request moves to its target panel, when one is named and still qualifies, and its ABORTs with RETRY complete; an ABORT
without RETRY that is pending stays so. -/
def retarget (byStep : Bool) (i : Nat) (s : State) : State :=
  match getSlot s i with
  | none => s
  | some x =>
    let s := if x.retryTo != 0xFF && x.retryTo != x.panel && retryTargetOk s x x.retryTo then
        let adm := ((getCast s x.retryTo).map (·.admission)).getD 0
        modSlot i (fun y => { y with panel := x.retryTo, served := adm }) (leavePanel byStep i s) else s
    let s := modSlot i (fun y => { y with
      retryPending := false, retryTo := 0xFF, aborters := y.aborters.filter fun w => !w.retry }) s
    slotChanged i (pushWaiters (x.aborters.filter (·.retry)) s)

/-! ## The steps of a token boundary (R291) -/

/-- A KV rebuild (R243): every page released, and the committed tokens prefilled again on the same panel. -/
def kvRebuild (i : Nat) (s : State) : State :=
  match getSlot s i with
  | none => s
  | some x =>
    let s := bump (.kvRebuilds x.panel) 1 (leavePanel true i s)
    slotChanged i (modSlot i (fun x => { x with rebuild := false, st := if x.st == .queued then .queued else .prefill }) s)

/-- The next record of a request feeds its summary (R311). -/
def feedsSummary (x : Slot) : Bool := x.resumed && x.length == 0 && !x.fed

/-- The T1 hank of a summary, when a SUMMARISING request holds none yet (R310); a summary about to be used returns from T3
(R202). -/
def readySummary (i : Nat) (s : State) : State :=
  match getSlot s i with
  | none => s
  | some x =>
    if x.st == .summarising && x.summary == 0 then
      match allocSpill (.summary i) none s with
      | (.got k, s) => modSlot i (fun x => { x with summary := hankAddr k }) s
      | (_, s) => s
    else if x.st == .summarising || feedsSummary x then returnSummary i s
    else s

/-- The status with which a token boundary ends a request: ABORT, deadline, drain limit, LENGTH_LIMIT, in that order
(R285, R286, R291). -/
def endingOf (s : State) (p : Nat) (drained : Bool) (x : Slot) : Option Nat :=
  let started : Bool := x.st == .prefill || x.st == .decode
  if x.abortPending && (started || x.st == .queued || x.st == .paused) then some stAborted
  else if (started || x.st == .queued) && reached x s then some stDeadline
  else if !x.generates || !started then none
  else if drained then some stAborted
  else if limitOf s p ≤ x.tokens then some stLengthLimit
  else none

/-- A pending RETRY or PAUSE of a request, or the end of its weight version, takes effect (R278, R286, R310, R313): a PAUSE
takes a T1 hank of its own, and the summary a RESUME fed is freed (log entry 51). A request that is to feed a summary which is
lost ends (R211). -/
def turnSlot (i : Nat) (admission : BitVec 32) (s : State) : State :=
  match getSlot s i with
  | none => s
  | some x =>
    let started : Bool := x.st == .prefill || x.st == .decode
    if x.retryPending && started then retarget true i (frog i s)
    else if x.pausePending && x.st == .decode then
      readySummary i (slotChanged i
        (modSlot i (fun x => { x with st := .summarising, pausePending := false }) (dropSummary i s)))
    else if started && x.served != admission then endSlot i stVersionChanged s
    else if x.promptReady && feedsSummary x && x.sumLost then endSlot i stDataLost s
    else readySummary i s

/-- A request's previous step has still to finish on its panel: its scatter, or a release of pages of its slot that waits for
its walks (R240 to R242). -/
def stepUnfinished (c : Cast) (i : Nat) : Bool := c.scatters.any (·.slot == i) || c.releases.any (·.slot == i)

/-- Step 5 for one request: its end, else a KV rebuild, RETRY, PAUSE, version change, in that order. A request that is
being handed over only ends by ABORT or its deadline, and one that waits in take_pages holds its boundary (R240, R286,
R420). -/
def settleSlot (p i : Nat) (drained : Bool) (admission : BitVec 32) (s : State) : State :=
  match getSlot s i with
  | none => s
  | some x =>
    if x.panel != p then s
    else
      match endingOf s p (drained && x.handed.isNone) x with
      | some status => endSlot i status s
      | none =>
        if !x.generates || x.handed.isSome || (getCast s p).any (fun c => c.scatters.any (·.slot == i)) then s
        else
          turnSlot i admission
            (if x.rebuild && (x.st == .prefill || x.st == .decode || x.st == .queued) then kvRebuild i s else s)

/-- Step 5 of R291. -/
def step5 (p : Nat) (s : State) : State :=
  match getPanel s p with
  | none => s
  | some y =>
    let adm := (y.cast.map (·.admission)).getD 0
    let s := (liveSlots s).foldl (fun s i => settleSlot p i y.drained adm s) s
    let s := (liveSlots s).foldl (fun s i => if (getSlot s i).any (·.panel == p) then monitorSlot i s else s) s
    ageAll s

/-- A due entry is a stream record of a slot. -/
def Due.ofSlot (i : Nat) : Due → Bool
  | .stream _ j _ => j == some i
  | _ => false

/-- A stream record of the request waits for its ring (R352). -/
def recordWaits (s : State) (i : Nat) (x : Slot) : Bool :=
  !x.cut && (if x.takeover then
    match takeoverRing s 3 with
    | none => s.ply.dueS.any (Due.ofSlot i)
    | some r => (waitsForRoom s r true).any (Due.ofSlot i)
  else (waitsForRoom s x.streamRing true).any (Due.ofSlot i))

/-- The panel serves: its units run (R274, R475). -/
def Panel.serves (y : Panel) : Bool :=
  y.st == .ready || y.st == .swapping || y.st == .binding || (y.st == .casting && y.swatching)

/-- A candidate for a step of a panel (R241, R297, R341, R352) but for R412. -/
def isCandidate (s : State) (p : Nat) (y : Panel) (c : Cast) (i : Nat) (x : Slot) : Bool :=
  x.panel == p && x.generates && x.promptReady && x.handed.isNone && !x.fallbackDue && !x.rebuild
    && (match x.st with
      | .queued => (y.st == .ready || y.st == .swapping) && !(c.markerDue && x.served == c.admission)
      | .prefill | .decode => y.serves
      | _ => false)
    && !(feedsSummary x && (x.sumLost || tierOf x.summary == 3)) && !stepUnfinished c i && !recordWaits s i x

/-- The class-D candidates of a panel in rank order, with R412 applied and its steps counted. -/
def candidates (s : State) (p : Nat) (y : Panel) (c : Cast) : List (Nat × Slot) × Nat :=
  let l := s.slots.filter fun e => isCandidate s p y c e.1 e.2
  let ok := l.filter fun e => e.2.sampled.length ≤ 16
  (rankedSlots s ok, l.length - ok.length)

/-- The summary-out records that wait on a panel, in rank order (R293, R310). -/
def summaryCands (s : State) (p : Nat) (c : Cast) : List (Nat × Slot) :=
  rankedSlots s (s.slots.filter fun e =>
    e.2.panel == p && e.2.st == .summarising && e.2.summary != 0 && tierOf e.2.summary != 3 && !e.2.sumReady
      && e.2.handed.isNone && !stepUnfinished c e.1)

/-- A class-D candidate or a summary record of a panel exists (R518), one whose summary or pages steps 5 and 6 first make ready
counted with it. -/
def stepWaits (s : State) (p : Nat) (y : Panel) (c : Cast) : Bool :=
  s.slots.any fun e =>
    e.2.panel == p && e.2.generates && e.2.handed.isNone && !stepUnfinished c e.1
      && ((isCandidate s p y c e.1 { e.2 with rebuild := false, summary := 0, sumLost := false } && e.2.sampled.length ≤ 16)
        || (e.2.st == .summarising && !e.2.sumReady))

/-- What a candidate contributes: kind, first position, positions (R286, R289, R297). -/
def recordOf (chunk : Nat) (x : Slot) : Nat × Nat × Nat :=
  if feedsSummary x then (5, 0, 0)
  else if x.length + 1 < x.tokens then (2, x.length, min chunk (x.tokens - 1 - x.length))
  else (3, x.tokens - 1, 1)

/-- The token IDs of a record. -/
def recordTokens (s : State) (x : Slot) (r : Nat × Nat × Nat) : List Byte :=
  if r.1 = 2 || r.1 = 3 then rd s (x.tokenList + 4 * r.2.1) (4 * r.2.2) else []

/-- A dispatch record (R289). -/
def dispatchRec (kind slot first count off : Nat) (x : Slot) : Rec64 :=
  sealRec (recOf 512 [(0, 1, kind), (1, 1, b2n x.fallback + 2 * b2n x.resumed), (2, 2, slot), (4, 4, first), (8, 4, count),
    (0xC, 4, off), (0x10, 8, x.seed.toNat), (0x18, 8, if kind = 4 || kind = 5 then x.summary else 0),
    (0x20, 4, x.reqId.toNat)])

/-- The header of an inbound buffer (R289). -/
def bufferHdr (kind records stepNo : Nat) : Rec64 :=
  sealRec (recOf 512 [(0, 1, 1), (1, 1, kind), (2, 2, records), (4, 4, stepNo)])

/-- A field of a dispatch record or buffer header that R289 does not settle: R20 binds it, so it is a free value of the
request's model, version and seed and of the data that come with it (log entry 3). -/
def requestField (field kind : Nat) (x : Slot) (data : List Byte) : Nat :=
  Config.headerField field [kind, x.model.toNat, x.served.toNat, x.seed.toNat] data % 2 ^ 32

/-- The records of a step laid out one after another, their token IDs at beat-aligned offsets. FIRST and OFFSET of a
summary record are not stated: free values (log entry 3). -/
def stepBody (s : State) : List (Nat × Slot × (Nat × Nat × Nat)) → (off : Nat) → List Byte × List Byte
  | [], _ => ([], [])
  | (i, x, r) :: t, off =>
    let toks := padBeats (recordTokens s x r)
    let b := stepBody s t (off + toks.length)
    let first := if r.1 = 4 then requestField 7 r.1 x [] else r.2.1
    let at_ := if r.1 = 4 || r.1 = 5 then requestField 8 r.1 x [] else off
    (recBytes (dispatchRec r.1 i first r.2.2 at_ x) ++ b.1, toks ++ b.2)

/-- A flush marker that is due goes ahead of the step buffer (R292); nothing when its strand has no room. -/
def placeFlush (p : Nat) (s : State) : Option State :=
  match getCast s p with
  | none => none
  | some c =>
    if c.flush then (placeEntry p 0x6000 s).map (modCast p (fun c => { c with flush := false })) else some s

/-- A chosen request enters PREFILL, and DECODE when nothing is left to prefill (R286). -/
def chosen (i : Nat) (kind : Nat) (s : State) : State :=
  match getSlot s i with
  | none => s
  | some x =>
    let st := if x.st == .queued then SlotSt.prefill else x.st
    let s := if x.st == .queued then slotChanged i (setSlot i { x with st := .prefill } s) else s
    if kind = 3 && st == .prefill then slotChanged i (modSlot i (fun x => { x with st := .decode }) s) else s

/-- An engine's use of a panel's link buffers: what it does when they can be reached, and when their datum is gone (R190,
R202, R211). -/
def linkAccess (p : Nat) (reads writes : List (Nat × Nat × Nat)) (go gone : State → State) (s : State) : State :=
  match areasAccess p reads writes s with
  | .go _ s => go s
  | .wait r => r.1
  | .lost s => gone s
  | .fault s => gone s

/-- The step buffer of chosen records is written and the step starts (R148, R289, R297). -/
def beginStep (p : Nat) (c : Cast) (lk : LinkDecl) (cands sums : List (Nat × Slot)) (held : Nat) (s : State) : State :=
  let take := cands.take c.img.pat.batch
  let rest := (cands.drop c.img.pat.batch).filter fun e => e.2.st == .prefill || e.2.st == .decode
  let gen := take.map fun e => (e.1, e.2, recordOf c.img.pat.chunk e.2)
  let all := gen ++ (sums.take (c.img.pat.batch - take.length)).map fun e => (e.1, e.2, (4, 0, 0))
  let s := gen.foldl (fun s e => chosen e.1 e.2.2.1 s) s
  let n := all.length
  let (recs, data) := stepBody s all (256 * cdiv (64 * (1 + n)) 256)
  let head := padBeats (recBytes (bufferHdr 2 n c.stepNo) ++ recs)
  let s := gen.foldl (fun s e => if e.2.2.1 = 5 then s else touch e.2.1.tokenList hankBytes s) s
  let s := areaWrite c lk.inArea (lk.inOff + c.stepBuf * lk.inBytes) (head ++ data) s
  let srs : List StepRec := all.map fun e => { kind := e.2.2.1, slot := e.1, first := e.2.2.2.1, count := e.2.2.2.2, removed := false }
  let s := modCast p (fun c => { c with
    step := some (c.stepNo, srs), stepNo := (c.stepNo + 1) % 2 ^ 32,
    stepEmpty := c.stepEmpty - lk.fulls.length, stepBuf := (c.stepBuf + 1) % max 1 lk.depth }) s
  let s := bump .commitHeld (min 1 held) (bump (.preemptions p) rest.length (bump (.steps p) 1 s))
  sendSignals (lk.fulls.map (physSem c)) s

/-- Step 6 of R291: the next step buffer is written when the step link's empty count allows (R148, R289, R297, R518). -/
def writeStep (p : Nat) (s : State) : State :=
  match getPanel s p with
  | none => s
  | some y =>
    match y.cast with
    | none => s
    | some c =>
      match c.img.pat.stepLink with
      | none => s
      | some lk =>
        let (cands, held) := candidates s p y c
        let sums := summaryCands s p c
        if c.step.isSome || c.stepEmpty < lk.fulls.length || (cands.isEmpty && sums.isEmpty)
            || !y.serves then s
        else
          linkAccess p [] [(lk.inArea, lk.inOff + c.stepBuf * lk.inBytes, lk.inBytes)]
            (fun s => match placeFlush p s with
              | none => s
              | some s => beginStep p c lk cands sums held s) id s

/-- STEP_BUFFER_WRITE: a panel with no step in flight, while a class-D candidate or a summary record exists, runs steps 5 and 6
(R518). -/
def execStepBufferWrite (panel : BitVec 4) (s : State) : Result :=
  let p := panel.toNat
  .next (match getPanel s p with
    | none => s
    | some y =>
      match y.cast with
      | none => s
      | some c => if c.step.isSome || !stepWaits s p y c then s else writeStep p (step5 p s))

/-! ## Stop conditions (R302, R303) -/

/-- A stop-set entry. -/
def stopEntry (s : State) (n : Nat) : List Byte := rd s (s.boot.stopBase + 1024 * n) 1024

/-- A token ID at a byte of a stop-set entry. -/
def idAt (e : List Byte) (off : Nat) : Nat := natOf ((e.drop off).take 4)

/-- Whether the last tokens at positions PROMPT and above equal a stop sequence (R303). -/
def seqMet (s : State) (x : Slot) (e : List Byte) (q : Nat) : Bool :=
  let n := (lgetD (e.drop 4) q 0).toNat
  x.prompt + n ≤ x.tokens
    && (List.range n).all fun k => tokenAt x (x.tokens - n + k) s == idAt e (0xC0 + 64 * q + 4 * k)

/-- The first stop condition a request's newest token meets: reason and status (R303). -/
def stopOf (s : State) (x : Slot) (token : Nat) : Option (Nat × Nat) :=
  let e := if x.stopSet < 1024 then stopEntry s x.stopSet else []
  let ids := (lgetD e 0 0).toNat
  let seqs := (lgetD e 1 0).toNat
  if (List.range ids).any fun k => idAt e (0x40 + 4 * k) == token then some (1, stDoneStop)
  else if (List.range seqs).any (seqMet s x e) then some (2, stDoneStop)
  else if x.tokens - x.prompt == x.maxNew then some (3, stDone)
  else if limitOf s x.panel ≤ x.tokens then some (4, stLengthLimit)
  else if reached x s then some (5, stDeadline)
  else none

/-- A token result is well formed for its record (R290). -/
def resultOk (vocab : Nat) (stepNo : Nat) (r : StepRec) (b : List Byte) : Bool :=
  let tok := natOf ((b.drop 4).take 4)
  natOf (b.take 2) == r.slot && natOf ((b.drop 12).take 4) == stepNo
    && (if r.kind = 3 then tok != 0xFFFFFFFF && tok < vocab else tok == 0xFFFFFFFF)

/-- Step 2 of R291 for one decode record: the token joins the list, is mirrored, and commits at once without a partner. -/
def sampleToken (i pos tok lp : Nat) (s : State) : State :=
  match getSlot s i with
  | none => s
  | some x =>
    let h := (narrow 9 lp).1
    let s := touch x.tokenList hankBytes
      (wr (x.tokenList + 0x100000 + 2 * pos) (bytesOf 2 h) (wr (x.tokenList + 4 * pos) (bytesOf 4 tok) s))
    let s := setSlot i { x with sampled := x.sampled ++ [(BitVec.ofNat 32 tok, BitVec.ofNat 16 h)] } s
    slotRecs i (generatedBodies x pos 1 s) [(i, pos)] s

/-- Step 3 for one request, and its commit when no partner is bound (R23, R303). -/
def stopToken (i tok : Nat) (s : State) : State :=
  match getSlot s i with
  | none => s
  | some x =>
    let s := match stopOf s x tok with
      | some (reason, status) => stopSlot i reason status s
      | none => s
    if commitsNow s then commitAll i s else s

/-- The token results of a step, each with its record (R289, R290). -/
def stepResults (s : State) (c : Cast) (lk : LinkDecl) (srs : List StepRec) : List (StepRec × List Byte) :=
  let bytes := areaRead s c lk.outArea (lk.outOff + c.stepOut * lk.outBytes) (16 * srs.length)
  srs.zipIdx.map fun r => (r.1, (bytes.drop (16 * r.2)).take 16)

/-- Results in ascending slot number. -/
def bySlot (l : List (StepRec × List Byte)) : List (StepRec × List Byte) :=
  (l.foldl (fun acc r => keyIns r.1.slot r acc) []).map (·.2)

/-- τ after a boundary whose step held a decode record (R517). -/
def nextTau (s : State) (c : Cast) : BitVec 32 :=
  match c.lastDecode with
  | none => c.tau
  | some t => BitVec.ofInt 32 ((c.tau.toNat : Int) + ((1000 * (s.us - t) : Nat) - (c.tau.toNat : Int)) / 8)

/-- Step 4 for one record: its scatter, or, for a pattern without a cache, the positions it processed (R239, R240). The
step of a request that this boundary ends has none. -/
def scatterRecord (p : Nat) (drained : Bool) (r : StepRec) (s : State) : State :=
  match getSlot s r.slot with
  | none => s
  | some x =>
    if x.panel != p || !(x.st == .prefill || x.st == .decode) || (endingOf s p drained x).isSome then s
    else
      let s := if r.kind = 5 then modSlot r.slot (fun x => { x with fed := true }) s else s
      let none_ : Bool := r.kind = 5 && x.positions == 0
      match kvOf s p with
      | some _ => if none_ then positionsDone r.slot 0 s else startScatter p r.slot s
      | none => positionsDone r.slot (if r.kind = 5 then x.positions else r.first + r.count) s

/-- The step of a panel leaves its link: its outbound buffer is empty again (R148). -/
def stepDone (p : Nat) (lk : LinkDecl) (s : State) : State :=
  match getCast s p with
  | none => s
  | some c =>
    sendSignals (lk.outWriters.map (physSem c)) (modCast p (fun c => { c with
      step := none, stepFull := c.stepFull - lk.outWriters.length, stepOut := (c.stepOut + 1) % max 1 lk.depth }) s)

/-- The token boundary of a panel whose step left the results `res` (R291). -/
def tokenBoundary (p : Nat) (y : Panel) (c : Cast) (lk : LinkDecl) (n : Nat) (srs : List StepRec)
    (res : List (StepRec × List Byte)) (s : State) : State :=
  let good (r : StepRec × List Byte) : Bool := resultOk c.img.pat.vocab n r.1 r.2
  let tok (r : StepRec × List Byte) : Nat := natOf ((r.2.drop 4).take 4)
  let s := stepDone p lk s
  let s := if srs.any (·.kind == 3) then
      modCast p (fun c => { c with tau := nextTau s c, lastDecode := some s.us }) s else s
  let s := res.foldl (fun s r => modSlot r.1.slot (fun x => { x with lastStep := BitVec.ofNat 32 s.us }) s) s
  let s := (res.filter fun r => !good r).foldl (fun s r => bump (.malformed p) 1 (endSlot r.1.slot stBad s)) s
  let ok := bySlot (res.filter good)
  let dec := ok.filter fun r => r.1.kind = 3
  let s := dec.foldl (fun s r => sampleToken r.1.slot (r.1.first + 1) (tok r) (natOf ((r.2.drop 8).take 4)) s) s
  let s := dec.foldl (fun s r => stopToken r.1.slot (tok r) s) s
  let s := (ok.filter fun r => r.1.kind != 4).foldl (fun s r => scatterRecord p y.drained r.1 s) s
  let s := runScatters p (modCast p (fun c => { c with appends := [] }) s)
  let s := (ok.filter fun r => r.1.kind = 4).foldl (fun s r => modSlot r.1.slot (fun x => { x with sumReady := true }) s) s
  writeStep p (step5 p s)

/-- TOKEN_BOUNDARY: the device reads the token results of a panel's step (R290, R291). -/
def execTokenBoundary (panel : BitVec 4) (s : State) : Result :=
  let p := panel.toNat
  .next (match getPanel s p with
    | none => s
    | some y =>
      match y.cast with
      | none => s
      | some c =>
        match c.img.pat.stepLink, c.step with
        | some lk, some (n, srs) =>
          if !y.serves || c.stepFull < lk.outWriters.length then s
          else
            linkAccess p [(lk.outArea, lk.outOff + c.stepOut * lk.outBytes, 16 * srs.length)] []
              (fun s => tokenBoundary p y c lk n srs ((stepResults s c lk srs).filter fun r => !r.1.removed) s)
              (tokenBoundary p y c lk n srs []) s
        | _, _ => s)

/-! ## Runs (R293, R297, R305) -/

/-- A window of the schedule is open for a panel and a ring group (R295). -/
def windowOpen (s : State) (p group : Nat) : Bool :=
  match s.sched with
  | none => true
  | some sc =>
    let t := s.us - s.schedStart.toNat
    sc.entries.any fun e => e.panel == p && e.group == group && e.start ≤ t && t < e.start + e.length

/-- The RUNs of a class that may start on a panel, in rank order. -/
def runCands (s : State) (p : Nat) (c : Cast) (cls : Nat) : List (Nat × Slot) :=
  rankedSlots s (s.slots.filter fun e =>
    e.2.panel == p && e.2.opcode == 1 && e.2.cls == cls && e.2.st == .queued && !reached e.2 s && !e.2.abortPending
      && !(c.markerDue && e.2.served == c.admission) && (cls != 0 || e.2.urgent || windowOpen s p e.2.group))

/-- The input of a run, read from the host (R289, R322). -/
def runInput (fail : Option ReadFail) (x : Slot) (s : State) : Option (List Byte) × State :=
  if x.cut then (none, bump .hostReadErrors 1 s) else hostReadAs fail (fld x.shadow 0x18 8) (fld x.shadow 0x20 4) s

/-- A RUN's input is read from the host and its run buffer written, its tiles with headers and CRC-32C by the base die's DMA
engine (R205, R289). STEP of a run buffer is not stated: a free value (log entry 3). -/
def startRun (fail : Option ReadFail) (p : Nat) (c : Cast) (lk : LinkDecl) (i : Nat) (x : Slot) (s : State) : State :=
  match runInput fail x s with
  | (none, s) => endSlot i stBad s
  | (some data, s) =>
    let head := padBeats (recBytes (bufferHdr 1 1 (requestField 6 1 x data)) ++ recBytes (dispatchRec 1 i 0 0 256 x))
    let off := lk.inOff + c.runBuf * lk.inBytes
    let s := tileHeaders p (stackOf (areaAddrD c lk.inArea off)) c lk.inArea (off + 256) data.length 0 0
      (areaWrite c lk.inArea off (head ++ data) s)
    let s := modCast p (fun c => { c with
      runs := c.runs ++ [some i], runEmpty := c.runEmpty - lk.fulls.length, runBuf := (c.runBuf + 1) % max 1 lk.depth }) s
    sendSignals (lk.fulls.map (physSem c)) (modSlot i (fun x => { x with st := .prefill }) s)

/-- RUN_START: the highest-ranked eligible RUN goes through the run link (R289, R293, R297); while the device may issue no
request to host memory its input is not read, and it waits (R320). -/
def execRunStart (start : RunStart) (s : State) : Result :=
  let p := start.panel.toNat
  .next (match getPanel s p with
    | none => s
    | some y =>
      match y.cast with
      | none => s
      | some c =>
        match c.img.pat.runLink, (runCands s p c 0 ++ runCands s p c 2).head? with
        | some lk, some (i, x) =>
          if !(y.st == .ready || y.st == .swapping) || c.runEmpty < lk.fulls.length || (!x.cut && !hostLive s) then s
          else
            linkAccess p [] [(lk.inArea, lk.inOff + c.runBuf * lk.inBytes, lk.inBytes)] (startRun start.fail p c lk i x) id s
        | _, _ => s)

/-- The result tiles of the outbound buffer in hand are checked and recovered (R207, R208, R289); a result that lies in no
tile segment has no headers. -/
def resultTiles (p : Nat) (c : Cast) (lk : LinkDecl) (s : State) : Bool × State :=
  match appendSeg s p (areaAddrD c lk.outArea (lk.outOff + c.runOut * lk.outBytes)) c with
  | none => (true, s)
  | some x => engineTiles c ((List.range (cdiv lk.payOut x.len)).map x.plus) s

/-- The tensors whose record goes to the request's buffer, each once, in the order of the tensor tables (R59, R340). -/
def completionTensors (i : Image) : List TensorDecl :=
  (i.pat.units.flatMap fun u => u.tensors.filter (·.completion)).foldl
    (fun l t => if l.any (·.ident == t.ident) then l else l ++ [t]) []

/-- Where the completion records of the result in hand lie: area, first byte, bytes (R59, R289). -/
def resultRecords (c : Cast) (lk : LinkDecl) : List (Nat × Nat × Nat) :=
  (completionTensors c.img).map fun t => (t.area, recordOff t + c.runOut * lk.outBytes, 512)

/-- The oldest run of a panel leaves its link: its outbound buffer is empty again (R148, R305). -/
def runDone (p : Nat) (lk : LinkDecl) (s : State) : State :=
  match getCast s p with
  | none => s
  | some c =>
    sendSignals (lk.outWriters.map (physSem c)) (modCast p (fun c => { c with
      runs := c.runs.tail, runFull := c.runFull - lk.outWriters.length, runOut := (c.runOut + 1) % max 1 lk.depth }) s)

/-- The result of a run goes to its request's host buffers, and the request is DONE (R59, R286, R289, R340). -/
def deliverRun (i : Nat) (x : Slot) (payOut : Nat) (out hs : List Byte) (s : State) : State :=
  let hist := fld x.shadow 0x30 8
  let wrHist : Bool := hist != 0 && !hs.isEmpty
  let s := if x.cut then s else hostWrite (fld x.shadow 0x28 8) out s
  let s := if x.cut || !wrHist then s else hostWrite hist hs s
  endSlot i stDone (modSlot i (fun x => { x with outBytes := payOut, histWritten := wrHist }) s)

/-- The result of the oldest run in flight (R305): discarded when its request has ended or its deadline is reached, lost
when a tile of it is (R211), else delivered. -/
def runResult (p : Nat) (c : Cast) (lk : LinkDecl) (s : State) : State :=
  match (c.runs.head?.join).bind fun i => (getSlot s i).map fun x => (i, x) with
  | none => bump (.discardedRuns p) 1 (runDone p lk s)
  | some (i, x) =>
    if x.st != .prefill then bump (.discardedRuns p) 1 (runDone p lk s)
    else if reached x s then bump (.discardedRuns p) 1 (endSlot i stDeadline (runDone p lk s))
    else
      match resultTiles p c lk s with
      | (false, s) => endSlot i stDataLost (runDone p lk s)
      | (true, s) =>
        deliverRun i x lk.payOut (areaRead s c lk.outArea (lk.outOff + c.runOut * lk.outBytes) lk.payOut)
          ((resultRecords c lk).flatMap fun r => areaRead s c r.1 r.2.1 r.2.2) (runDone p lk s)

/-- RUN_RESULT: the result of the oldest RUN in flight arrives (R289, R305, R341). -/
def execRunResult (panel : BitVec 4) (s : State) : Result :=
  let p := panel.toNat
  .next (match getPanel s p with
    | none => s
    | some y =>
      match y.cast with
      | none => s
      | some c =>
        match c.img.pat.runLink with
        | some lk =>
          if c.runs.isEmpty || !y.serves || c.runFull < lk.outWriters.length then s
          else
            linkAccess p ((lk.outArea, lk.outOff + c.runOut * lk.outBytes, lk.payOut) :: resultRecords c lk) []
              (runResult p c lk) (runDone p lk) s
        | none => s)

/-! ## Sweeps (R285) -/

/-- The sweep's endings: a pending ABORT, then a reached deadline. -/
def sweepSlot (i : Nat) (s : State) : State :=
  match getSlot s i with
  | none => s
  | some x =>
    if x.abortPending && (inFlightSts.contains x.st || x.st == .paused) then bump .sweepEndings 1 (endSlot i stAborted s)
    else if inFlightSts.contains x.st && reached x s then bump .sweepEndings 1 (endSlot i stDeadline s)
    else s

/-- Summaries that have returned from T3 go to the partner (R202, R404). -/
def sendSummaries (s : State) : State :=
  (liveSlots s).foldl (fun s i => if (getSlot s i).any (·.sumDue) then sendSummary i s else s) s

/-- SWEEP: every 100 µs of module time (R285, R296, R300). -/
def execSweep (s : State) : Result :=
  .next (if s.us % 100 != 0 then s
    else
      let s := (liveSlots s).foldl (fun s i => sweepSlot i s) s
      let s := (liveSlots s).foldl (fun s i =>
        if (getSlot s i).any fun x => inStep s x.panel i then s else monitorSlot i s) s
      ageAll (sendSummaries s))

/-! ## Summaries (R310) -/

/-- The header of a summary extent passes (R310). -/
def summaryOk (s : State) (x : Slot) (bytes : Nat) : Bool :=
  let h : Rec64 := BitVec.ofNat 512 (natOf (rd s x.summary 64))
  recOk h && fld h 0 1 == 1 && fld h 4 4 == x.model.toNat && fld h 8 4 == x.wversion.toNat && fld h 0xC 4 ≤ 65536
    && fld h 0x10 4 ≤ bytes

/-- The request is PAUSED: the pages and token list go, the request completes with DONE after an end record with reason
PAUSED, and the PAUSE completes after that (R310). -/
def pauseSlot (i : Nat) (s : State) : State :=
  match getSlot s i with
  | none => s
  | some x =>
    let s := dropTokenList i (releasePages i (sendBulk i 1 0 0 0 (summaryBytes x s) s))
    let n := rdNat s (x.summary + 0xC) 4
    let s := modSlot i (fun x => { x with positions := n, st := .paused, sampled := [], status := stDone, reason := 6, sumReady := false,
                                          pausers := [], urgent := false }) s
    let s := slotChanged i s
    let status := if x.takeover then stDoneTakeover else if x.fallback then stDoneFallback else stDone
    let flags := b2n x.fallback + 2 * b2n x.takeover + 4 * b2n x.resumed + 256 * 6
    let body := complBody x.reqId.toNat i x.submitRing status x.opcode flags x.streamed 0
    let due := Due.paused (streamRec x.reqId.toNat 0xFFFFFFFF x.committed (streamFlags x true true 6) 0xFC00) x.ring body
      (.panel x.panel) x.pausers
    if x.cut then pushWaiters x.pausers s
    else if x.takeover then pushTakeover due s
    else pushDue x.streamRing due s

/-- SUMMARY_RESULT: the summary-out result has arrived and its header is checked (R310); a lost summary is the
request's end (R211). -/
def execSummaryResult (slot : BitVec 14) (s : State) : Result :=
  let i := slot.toNat
  .next (match getSlot s i with
    | none => s
    | some x =>
      if x.st != .summarising || !x.sumReady then s
      else if tierOf x.summary = 3 then returnSummary i s
      else
        match getCast s x.panel with
        | none => s
        | some c =>
          let s := touch x.summary 64 s
          if x.sumLost then endSlot i stDataLost s
          else if summaryOk s x c.img.pat.summaryBytes then pauseSlot i s else endSlot i stBad s)

end Sys2Proof.Machine
end

