-- ==== Sys2Proof/Machine/Submit.lean ====
section
/-! DEFINITION. Request descriptors: the checks of R339, acceptance (R283, R284, R340 to R342), PAUSE, RESUME and ABORT
(R309 to R313). -/
namespace Sys2Proof.Machine
open Sys2Proof

/-! ## Layouts (R338, R340) -/

/-- Defined FLAGS bits and the fields (offset, size) of a request opcode, beyond the common header. -/
def requestLayout : Nat → Option (Nat × List (Nat × Nat))
  | 0 => some (0, [])
  | 1 => some (3, [(8, 2), (0xA, 2), (0xC, 4), (0x10, 4), (0x14, 4), (0x18, 8), (0x20, 8), (0x28, 8), (0x30, 8)])
  | 2 => some (0, [(8, 2), (0xA, 2), (0xC, 4), (0x10, 4), (0x14, 4), (0x18, 8), (0x20, 8), (0x28, 4), (0x2C, 4), (0x30, 4)])
  | 3 => some (0, [(8, 2)])
  | 4 => some (0, [(8, 2), (0xA, 2), (0xC, 4), (0x10, 4), (0x14, 4), (0x18, 8), (0x20, 8), (0x28, 4), (0x2C, 4)])
  | 5 => some (1, [(8, 2), (0xA, 1)])
  | _ => none

/-- Reserved bits inside the fields: PRIORITY [7:4] of RUN and GEN; PANEL, PRIORITY [15:12] and CLIENT [31:12] of RESUME. -/
def requestBitsOk (d : Rec64) : Bool :=
  match dOp d with
  | 1 | 2 => fld d 9 1 < 16
  | 4 => fld d 0xA 2 < 0x1000 && fld d 0x10 4 < 0x1000
  | _ => true

/-- The panel a descriptor names. -/
def rqPanel (d : Rec64) : Nat := if dOp d = 4 then fld d 0xA 1 else fld d 8 1
def rqSlot (d : Rec64) : Nat := fld d 8 2
def rqStopSet (d : Rec64) : Nat := if dOp d = 4 then fld d 0x14 2 else fld d 0x30 2
def rqStream (d : Rec64) : Nat := if dOp d = 4 then fld d 0x16 2 else fld d 0x32 2

/-- The pattern of a panel, its admission version and MODEL: of a panel in CASTING that has no areas yet, those of the
image its CAST_ON names. -/
def panelImg (s : State) (p : Nat) : Option (Image × BitVec 32 × BitVec 32) :=
  match getPanel s p with
  | none => none
  | some y =>
    match y.cast with
    | some c => some (c.img, c.admission, c.model)
    | none =>
      match y.castCmd.bind (adminCmd s) with
      | none => none
      | some a => (catFind s (dModel a.d) (dWver a.d)).map fun e => (e.img, e.wversion, e.model)

/-- The length limit of a panel, by its pattern or the one being cast on (R238). -/
def rqLimit (s : State) (p : Nat) : Nat := min 262144 (((panelImg s p).bind fun q => q.1.pat.kv.map (·.maxLen)).getD 262144)

/-- A STREAM ring a request may name: ENABLED, without TAKEOVER (check 4). -/
def streamRingOk (s : State) (r : Nat) : Bool :=
  r < 4096 && (tget s.rings r).any fun x => x.st == .enabled && x.type == 3 && !x.takeover

/-! ## Check 4 of R339 -/

/-- Field ranges and host addresses. -/
def requestFieldsOk (s : State) (d : Rec64) : Bool :=
  match dOp d with
  | 1 =>
    let hist := fld d 0x30 8
    let n := ((panelImg s (rqPanel d)).map fun q => (completionTensors q.1).length).getD 0
    rqPanel d < 16 && (dFlags d == 0 || dFlags d == 2) && fld d 0xA 2 < 4096 && fld d 0xC 4 < 2 ^ 31
      && hostRangeOk (fld d 0x18 8) (fld d 0x20 4) && hostRangeOk (fld d 0x28 8) (fld d 0x24 4)
      && (hist == 0 || hostRangeOk hist (512 * n))
  | 2 | 4 =>
    rqPanel d < 16 && fld d 0xC 4 < 2 ^ 31 && (dOp d == 4 || fld d 0xA 2 < 4096)
      && hostRangeOk (fld d 0x20 8) (4 * fld d 0x28 4) && 1 ≤ fld d 0x28 4 && fld d 0x28 4 ≤ 262144
      && 1 ≤ fld d 0x2C 4 && fld d 0x2C 4 ≤ 262144 && (rqStopSet d < 1024 || rqStopSet d == 0xFFFF)
      && streamRingOk s (rqStream d)
  | _ => true

/-- The slot a PAUSE, RESUME or ABORT names: not FREE, and with its REQUEST_ID (R309). -/
def namedSlot (s : State) (d : Rec64) : Option (Nat × Slot) :=
  if rqSlot d < 16384 then
    (getSlot s (rqSlot d)).bind fun x => if x.reqId.toNat = dReq d then some (rqSlot d, x) else none
  else none

/-- The checks of R309, R311 and R313. -/
def controlOk (s : State) (d : Rec64) : Bool :=
  match dOp d with
  | 3 => (namedSlot s d).any fun q => q.2.generates && (q.2.st == .prefill || q.2.st == .decode)
      && (getCast s q.2.panel).any fun c => 0 < c.img.pat.summaryBytes
  | 4 => (namedSlot s d).any fun q => q.2.st == .paused && fld d 0x10 4 == q.2.client
      && (match panelImg s (rqPanel d) with | some (_, _, m) => m == q.2.model | none => true)
  | 5 => (fld d 0xA 1 < 16 || fld d 0xA 1 == 0xFF) && (namedSlot s d).any fun q =>
      !nbit (dFlags d) 0 || (q.2.generates && q.2.st != .paused && q.2.st != .summarising
        && (fld d 0xA 1 == 0xFF || retryTargetOk s q.2 (fld d 0xA 1)))
  | _ => true

/-- Checks 1 to 4 of R339 on a descriptor of a SUBMIT ring. -/
def requestCheck (s : State) (d : Rec64) : Option Nat :=
  if dVersion d != s.host.version.toNat then some stVersionUnsup
  else
    match requestLayout (dOp d) with
    | none => some stBad
    | some (fl, fs) =>
      if reservedOk d fl fs && requestBitsOk d && requestFieldsOk s d && controlOk s d then none else some stBad

/-- Tokens the sequence of a GEN or RESUME starts with. -/
def startTokens (s : State) (d : Rec64) : Nat :=
  fld d 0x28 4 + (if dOp d = 4 then ((namedSlot s d).map (·.2.positions)).getD 0 else 0)

/-- WVERSION a RUN, GEN or RESUME names: a RESUME's is its summary's (R311). -/
def namedVersion (s : State) (d : Rec64) : BitVec 32 :=
  if dOp d = 4 then ((namedSlot s d).map (·.2.wversion)).getD 0 else BitVec.ofNat 32 (fld d 0x14 4)

/-- Checks 5 to 9 of R339 on a RUN, GEN or RESUME: status and stop reason. -/
def panelCheck (s : State) (d : Rec64) : Option (Nat × Nat) :=
  match getPanel s (rqPanel d) with
  | none => some (stPanelDown, 9)
  | some y =>
    if y.st == .empty || y.st == .binding || y.st == .faulted then some (stPanelDown, 9)
    else
      match panelImg s (rqPanel d) with
      | none => some (stPanelDown, 9)
      | some (i, adm, model) =>
        let six : Bool :=
          if dOp d = 1 then
            BitVec.ofNat 32 (fld d 0x10 4) == model && i.pat.runLink.any fun l =>
              fld d 0x20 4 == l.payIn && l.payOut ≤ fld d 0x24 4
          else (dOp d == 4 || BitVec.ofNat 32 (fld d 0x10 4) == model) && i.pat.stepLink.isSome && y.gen
        if !six then some (stBad, 9)
        else if (namedVersion s d != 0 || dOp d == 4) && namedVersion s d != adm then some (stVersionChanged, 8)
        else if dOp d != 1 && rqLimit s (rqPanel d) ≤ startTokens s d then some (stLengthLimit, 4)
        else if dOp d != 4 && (firstGap s.slots 0 16384).isNone then some (stNoSlot, 9)
        else none

/-! ## Acceptance -/

/-- A descriptor's immediate completion (R339, R356). -/
def immediate (ring : Nat) (d : Rec64) (status : Nat) (s : State) : State :=
  pushPlain (getRing s ring).cq ring (dReq d) (dOp d) status 0 (bump (.immediate ring status) 1 s)

/-- The owner of a token-list hank: the module when the module domain holds groups, else the home panel (R283). -/
def tokenOwner (s : State) (p : Nat) : Option Nat :=
  if (moduleGroups s).isEmpty then some p else none

/-- A token-list hank for a slot that holds none (R283). A pinned allocation that is refused is tried again later. -/
def allocTokenList (i : Nat) (s : State) : State :=
  match getSlot s i with
  | none => s
  | some x =>
    if x.tokenList != 0 then s
    else
      match allocTry (.token i) 2 (tokenOwner s x.homePanel) true s with
      | (.got k, s) => modSlot i (fun x => { x with tokenList := hankAddr k }) s
      | (_, s) => s

/-- Deadline fields (R284). -/
def setBudget (budget : Nat) (s : State) (x : Slot) : Slot :=
  { x with
    budget := BitVec.ofNat 32 budget, noDeadline := budget == 0, acceptedAt := BitVec.ofNat 32 s.us,
    deadline := if budget = 0 then 0 else BitVec.ofNat 32 (s.us + budget), lastStep := BitVec.ofNat 32 s.us }

/-- A RUN or GEN is accepted into the lowest FREE slot (R283, R286, R314). -/
def acceptNew (ring : Nat) (d : Rec64) (s : State) : State :=
  match firstGap s.slots 0 16384 with
  | none => s
  | some i =>
    let r := getRing s ring
    let p := rqPanel d
    let adm := ((panelImg s p).map (·.2.1)).getD 0
    let wv := if fld d 0x14 4 = 0 then adm else BitVec.ofNat 32 (fld d 0x14 4)
    let gen : Bool := dOp d == 2
    let n := if gen then fld d 0x28 4 else 0
    let x : Slot :=
      { opcode := dOp d, cls := if gen then 1 else dFlags d, prio := BitVec.ofNat 4 (fld d 9 1),
        effective := BitVec.ofNat 4 (fld d 9 1), panel := p, homePanel := p, client := fld d 0xA 2,
        committed := n, prompt := n, maxNew := if gen then fld d 0x2C 4 else 0,
        stopSet := if gen then rqStopSet d else 0xFFFF, ring := r.cq, streamRing := if gen then rqStream d else 0xFFFF,
        reqId := BitVec.ofNat 32 (dReq d), model := BitVec.ofNat 32 (fld d 0x10 4), wversion := wv, served := adm,
        seed := if gen then BitVec.ofNat 64 (fld d 0x18 8) else 0, shadow := d, submitRing := ring, group := r.group }
    let x := setBudget (fld d 0xC 4) s x
    let c := tgetD s.clients x.client {}
    let s := { s with clients := tset s.clients x.client { accepted := c.accepted + 1, inFlight := c.inFlight + 1 } }
    let s := setSlot i x s
    if gen then openSlot i (allocTokenList i s) else s

/-- A RESUME is accepted for its PAUSED slot (R311); an ABORT that is pending stays so (R313). -/
def acceptResume (ring : Nat) (d : Rec64) (s : State) : State :=
  match namedSlot s d with
  | none => s
  | some (i, x) =>
    let r := getRing s ring
    let n := startTokens s d
    let x := { x with
      st := .queued, opcode := 4, cls := 1, prio := BitVec.ofNat 4 (nbits (fld d 0xA 2) 8 4),
      effective := BitVec.ofNat 4 (nbits (fld d 0xA 2) 8 4), panel := rqPanel d, homePanel := rqPanel d,
      fallback := false, pausePending := false, urgent := false, takeover := false,
      served := ((panelImg s (rqPanel d)).map (·.2.1)).getD 0, retryPending := false, resumed := true, length := 0, fed := false, committed := n, prompt := n,
      maxNew := fld d 0x2C 4, stopSet := rqStopSet d, ring := r.cq, streamRing := rqStream d,
      seed := BitVec.ofNat 64 (fld d 0x18 8), shadow := d, submitRing := ring, group := r.group, status := 0, reason := 0,
      promptReady := false, sampled := [], stopAt := none, streamed := 0, fallbackDue := false, rebuild := false,
      kvSkip := false, cut := false }
    openSlot i (allocTokenList i (setSlot i (setBudget (fld d 0xC 4) s x) s))

/-- A PAUSE is accepted (R309, R310). -/
def acceptPause (ring : Nat) (d : Rec64) (s : State) : State :=
  let w : Waiter := { ring := ring, cq := (getRing s ring).cq, reqId := BitVec.ofNat 32 (dReq d), opcode := 3, status := stDone }
  let i := rqSlot d
  slotChanged i (modSlot i (fun x => { x with pausePending := true, pausers := x.pausers ++ [w] }) s)

/-- An ABORT is accepted (R313). -/
def acceptAbort (ring : Nat) (d : Rec64) (s : State) : State :=
  match namedSlot s d with
  | none => s
  | some (i, x) =>
    let cq := (getRing s ring).cq
    let w : Waiter := { ring := ring, cq := cq, reqId := BitVec.ofNat 32 (dReq d), opcode := 5, status := stDone,
                        retry := nbit (dFlags d) 0 }
    if x.st == .done || x.st == .aborted then pushPlain cq ring (dReq d) 5 stDone 0 s
    else if nbit (dFlags d) 0 then
      let s := modSlot i (fun x => { x with retryTo := fld d 0xA 1, aborters := x.aborters ++ [w] }) s
      if x.st == .queued then retarget false i s
      else slotChanged i (modSlot i (fun x => { x with retryPending := true }) s)
    else slotChanged i (modSlot i (fun x => { x with abortPending := true, aborters := x.aborters ++ [w] }) s)

/-- A RUN, GEN or RESUME that fails checks 5 to 9: for GEN and RESUME an end record, which the completion follows (R287,
R339); requests of another version are counted (R281). A RESUME for another version frees its slot and summary (R311). -/
def refuseRequest (ring : Nat) (d : Rec64) (status reason : Nat) (s : State) : State :=
  let idx := if dOp d = 4 then ((namedSlot s d).map (·.2.committed)).getD 0 else fld d 0x28 4
  let flags := 1 + 8 + 16 * b2n (dOp d == 4) + 256 * reason
  let s := if status = stNoSlot then bump .noSlot 1 s else s
  let s := if status = stVersionChanged then bump (.versionChanged (rqPanel d)) 1 s else s
  let s := if dOp d == 4 && status == stVersionChanged then freeSlot (rqSlot d) s else s
  if dOp d = 1 then immediate ring d status s
  else
    pushDue (rqStream d) (.paused (streamRec (dReq d) 0xFFFFFFFF idx flags 0xFC00) (getRing s ring).cq
      (complBody (dReq d) 0xFFFF ring status (dOp d) (256 * reason) 0 0) .command []) (bump (.immediate ring status) 1 s)

/-- A descriptor of a SUBMIT ring: checked, and accepted or completed (R283, R339). -/
def submitRequest (ring : Nat) (d : Rec64) (s : State) : State :=
  match requestCheck s d with
  | some status => immediate ring d status s
  | none =>
    let ok (s : State) : State := bump (.accepted ring) 1 s
    match dOp d with
    | 0 => pushPlain (getRing s ring).cq ring (dReq d) 0 stDone 0 (ok s)
    | 3 => acceptPause ring d (ok s)
    | 5 => acceptAbort ring d (ok s)
    | _ =>
      match panelCheck s d with
      | some (status, reason) => refuseRequest ring d status reason s
      | none => if dOp d = 4 then acceptResume ring d (ok s) else acceptNew ring d (ok s)

/-- The device reads descriptors of a ring: the function may issue requests, the ring is an ENABLED SUBMIT ring. -/
def readsSubmit (s : State) (ring : Nat) : Bool :=
  hostLive s && (tget s.rings ring).any fun x => x.st == .enabled && x.type == 1

/-- A request descriptor of one opcode, as it is read from a SUBMIT ring. -/
def submitAs (op : Nat) (ring : BitVec 12) (d : Rec64) (s : State) : State :=
  if readsSubmit s ring.toNat then submitRequest ring.toNat (setFld d 0 1 op) s else s

def execRun (ring : BitVec 12) (d : Rec64) (s : State) : Result := .next (submitAs 1 ring d s)
def execGen (ring : BitVec 12) (d : Rec64) (s : State) : Result := .next (submitAs 2 ring d s)
def execPause (ring : BitVec 12) (d : Rec64) (s : State) : Result := .next (submitAs 3 ring d s)
def execResume (ring : BitVec 12) (d : Rec64) (s : State) : Result := .next (submitAs 4 ring d s)
def execAbort (ring : BitVec 12) (d : Rec64) (s : State) : Result := .next (submitAs 5 ring d s)

/-! ## The prompt (R341) -/

/-- The prompt of a request, read from the host (R322, R341). -/
def readPrompt (fail : Option ReadFail) (x : Slot) (s : State) : Option (List Byte) × State :=
  if x.cut then (none, bump .hostReadErrors 1 s) else hostReadAs fail (fld x.shadow 0x20 8) (4 * fld x.shadow 0x28 4) s

/-- Check the prompt's tokens and store them at the end of the request's token list (R341). -/
def storePrompt (i : Nat) (x : Slot) (b : List Byte) (s : State) : State :=
  let n := fld x.shadow 0x28 4
  let first := x.prompt - n
  let vocab := ((panelImg s x.panel).map fun q => q.1.pat.vocab).getD 0
  if (List.range n).any fun k => vocab ≤ idAt b (4 * k) then endSlot i stBad s
  else
    let s := touch x.tokenList hankBytes
      (wr (x.tokenList + 4 * first) b (wr x.tokenList (List.replicate (4 * first) 0xFF) s))
    openTokens i (modSlot i (fun x => { x with promptReady := true }) s)

/-- PROMPT_READ_DONE: a request's tokens are read into its token list and checked; while the device may issue no request to
host memory they are not read, and the request waits (R320). -/
def execPromptReadDone (read : PromptRead) (s : State) : Result :=
  let i := read.slot.toNat
  .next (match getSlot s i with
    | none => s
    | some x =>
      if !x.generates || x.st != .queued || x.promptReady then s
      else
        let s := allocTokenList i s
        match getSlot s i with
        | none => s
        | some x =>
          if x.tokenList = 0 || (!x.cut && !hostLive s) then s
          else
            match readPrompt read.fail x s with
            | (none, s) => endSlot i stBad s
            | (some b, s) => storePrompt i x b s)

end Sys2Proof.Machine
end

