-- ==== Sys2Proof/Machine/Mailbox.lean ====
section
/-! DEFINITION. Mailboxes: channels, queues and collisions (R357 to R366), the compatibility lock (R367 to R369),
doorbells (R370) and powered-down domains (R371, R372). -/
namespace Sys2Proof.Machine
open Sys2Proof

/-- Accesses to the BARs are served: after PCIe readiness, in D0, with no FLR in progress and memory space enabled (R317,
R321, R511). -/
def barLive (s : State) : Bool :=
  s.power.on && s.boot.pcie && s.host.up && !s.host.d3hot && !s.host.flrBusy && s.host.memOn

/-- A memory request that reaches the function in D3hot, during an FLR, or with memory space not enabled (R317, R511). -/
def barRefused (s : State) : Bool :=
  s.power.on && s.boot.pcie && s.host.up && (s.host.d3hot || s.host.flrBusy || !s.host.memOn)

/-! ## Masters and channels (R357, R358, R360) -/

def mHost : BitVec 8 := 0x01
def mCore0 : BitVec 8 := 0x10
def mSecurity : BitVec 8 := 0x20
def mPartner : BitVec 8 := 0x30
def mRack : BitVec 8 := 0x40
def mTest : BitVec 8 := 0x50

/-- The assigned master identities. -/
def masters : List (BitVec 8) := [0x01, 0x10, 0x11, 0x12, 0x13, 0x20, 0x30, 0x40, 0x50]

/-- The owner of a privileged channel. -/
def chOwner (c : Nat) : BitVec 8 := lgetD [mSecurity, mCore0, mRack, mHost] c 0

def getChan (s : State) (c : Nat) : Chan := tgetD s.mbx.chans c {}
def setChan (c : Nat) (x : Chan) (s : State) : State := { s with mbx := { s.mbx with chans := tset s.mbx.chans c x } }
def modChan (c : Nat) (f : Chan → Chan) (s : State) : State := setChan c (f (getChan s c)) s

/-- A bound channel's entry is valid: VALID set and both identities assigned (R357). -/
def chBinds (s : State) (c : Nat) : Bool :=
  let x := getChan s c
  4 ≤ c && x.valid && masters.contains x.a && masters.contains x.b

/-- The other bound master. -/
def chOther (x : Chan) (m : BitVec 8) : BitVec 8 := if x.a == m then x.b else x.a

/-- A master may use a channel (R362); the test access port reaches channel 10 only (R482). -/
def chUsable (s : State) (m : BitVec 8) (c : Nat) : Bool :=
  masters.contains m && (m != mTest || c == 10)
    && (if c < 4 then true else chBinds s c && ((getChan s c).a == m || (getChan s c).b == m))

/-- A master's domain is off (R371). -/
def isOff (s : State) (m : BitVec 8) : Bool := s.mbx.off.contains m

/-! ## Doorbells (R370) -/

/-- Interrupt a master: one MSI-X message for the host when enabled. -/
def interruptMaster (m : BitVec 8) (s : State) : State :=
  if m == mHost then (if s.mbx.vecEn then sendMsix s.mbx.vec.toNat s else s) else emitOut (.interrupt m.toNat) s

def dbBits (s : State) (m : BitVec 8) : BitVec 32 := tgetD s.mbx.db m.toNat 0
def dbMask (s : State) (m : BitVec 8) : BitVec 32 := tgetD s.mbx.mask m.toNat 0xFFFFFFFF

/-- A doorbell bit of a master is set. -/
def ringBell (m : BitVec 8) (c : Nat) (s : State) : State :=
  let b := BitVec.ofNat 32 (2 ^ (c % 32))
  let was := dbBits s m
  let s := { s with mbx := { s.mbx with db := tset s.mbx.db m.toNat (was ||| b) } }
  if was &&& b == 0 && dbMask s m &&& b == 0 then interruptMaster m s else s

/-- ALERT# is driven low: a doorbell bit of the rack controller is set with its mask bit clear; not while the module is
unpowered or before step 3 ends (R498). -/
def alertLow (s : State) : Bool := s.power.on && s.boot.cores && dbBits s mRack &&& ~~~(dbMask s mRack) != 0

/-! ## Queues (R359, R365, R366) -/

/-- Add a master to a list of sticky flags. -/
def flagSet (l : List (BitVec 8)) (m : BitVec 8) : List (BitVec 8) := if l.contains m then l else l ++ [m]

/-- The masters a queue delivers to. -/
def queueTo (c : Nat) (first : Bool) (x : Chan) : List (BitVec 8) :=
  if 4 ≤ c then [if first then x.a else x.b]
  else if first then [chOwner c] else masters.filter (· != chOwner c)

/-- Put a word in a queue (`first`: q0): a full queue has its newest word replaced, with the flags of R366. -/
def putWord (c : Nat) (first : Bool) (w : MbxWord) (s : State) : State :=
  let x := getChan s c
  let q := if first then x.q0 else x.q1
  let full : Bool := 16 ≤ q.length
  let q' := if full then q.dropLast ++ [w] else q ++ [w]
  let x' := if first then { x with q0 := q' } else { x with q1 := q' }
  let x' := if full then
      { x' with txCol := flagSet (flagSet x'.txCol w.src) ((q.getLast?.map (·.src)).getD w.src),
                rxCol := (queueTo c first x).foldl flagSet x'.rxCol } else x'
  let s := setChan c x' s
  ringBell w.dst c (if full then bump (.collisions c) 1 s else s)

/-- The answer to an access that meets a powered-down domain (R372). -/
def domainOffAccess (m : BitVec 8) (read : Bool) (s : State) : State :=
  let s := bump .domainOff 1 s
  if m == mHost then (if read then answer (.abort m) s else s) else answer (.busError m) s

/-- An access by a master that may not use the channel (R362). -/
def unboundAccess (m : BitVec 8) (read : Bool) (s : State) : State :=
  let s := bump .unbound 1 s
  if read then answer (.value m 0) s else s

/-- An access to a channel's register: refused to a master that may not use the channel; without effect while the other end of
a bound channel is off, and, for a write, while the owner of a privileged channel is (R362, R372). -/
def chanAccess (m : BitVec 8) (c : Nat) (read : Bool) (f : State → State) (s : State) : State :=
  if !chUsable s m c then unboundAccess m read s
  else if if 4 ≤ c then isOff s (chOther (getChan s c) m) else !read && isOff s (chOwner c) then domainOffAccess m read s
  else f s

/-- A word toward the ply partner crosses the lifeline as a MAILBOX message. Its queue stands on the partner's side; whether
that was full is reported back, a free value (R365, R366, R393; log entry 75). -/
def toPartner (m : BitVec 8) (c : Nat) (w : BitVec 32) (s : State) : State :=
  let (v, s) := freeNat s
  let s := modChan c (fun x => { x with txCol := if v % 2 = 1 then flagSet x.txCol m else x.txCol }) s
  sendService 15 (serviceHdr 8 0 0 c w.toNat 0) [] s

/-- A master without the lock of a channel in COMPAT writes to it: nothing but its TX_COLLISION and the count (R368). -/
def lockRefusal (m : BitVec 8) (c : Nat) (s : State) : State :=
  bump (.lockRefusals c) 1 (modChan c (fun x => { x with txCol := flagSet x.txCol m }) s)

/-- A word written to MBX_TX (R365, R366, R368). -/
def mbxTx (m : BitVec 8) (c : Nat) (w : BitVec 32) (s : State) : State :=
  chanAccess m c false (fun s =>
    let x := getChan s c
    if 4 ≤ c then
      let o := chOther x m
      if x.compat && x.lock != m then lockRefusal m c s
      else if o == mPartner then toPartner m c w s
      else putWord c (o == x.a) { word := w, src := m, dst := o } s
    else if m != chOwner c then putWord c true { word := w, src := m, dst := chOwner c } s
    else if !masters.contains x.dst || x.dst == m then unboundAccess m false s
    else if isOff s x.dst then domainOffAccess m false s
    else if x.dst == mPartner then toPartner m c w s
    else putWord c false { word := w, src := m, dst := x.dst } s) s

/-- The words that wait for a master on a channel. -/
def rxQueue (s : State) (m : BitVec 8) (c : Nat) : List MbxWord :=
  let x := getChan s c
  if 4 ≤ c then (if x.a == m then x.q0 else x.q1)
  else if m == chOwner c then x.q0 else x.q1.filter (·.dst == m)

/-- Remove the oldest word for a master. -/
def rxPop (m : BitVec 8) (c : Nat) (s : State) : State :=
  modChan c (fun x =>
    if 4 ≤ c then (if x.a == m then { x with q0 := x.q0.tail } else { x with q1 := x.q1.tail })
    else if m == chOwner c then { x with q0 := x.q0.tail }
    else
      match x.q1.find? (·.dst == m) with
      | some w => { x with q1 := x.q1.erase w }
      | none => x) s

/-- The 64 bits of MBX_RX (R363). -/
def rxValue (s : State) (m : BitVec 8) (c : Nat) : Nat :=
  match rxQueue s m c with
  | [] => 0
  | w :: _ => w.word.toNat + 2 ^ 32 * w.src.toNat + 2 ^ 40

/-- A read of MBX_RX: the oldest word goes; a 4-byte read latches the upper half (R363, R364). -/
def mbxRx (m : BitVec 8) (c : Nat) (eight : Bool) (s : State) : State :=
  chanAccess m c true (fun s =>
    let v := rxValue s m c
    let s := rxPop m c s
    if eight then answer (.value m (BitVec.ofNat 64 v)) s
    else
      let s := modChan c (fun x => { x with latch := (x.latch.filter (·.1 != m)) ++ [(m, BitVec.ofNat 32 (v >>> 32))] }) s
      answer (.value m (BitVec.ofNat 64 (v % 2 ^ 32))) s) s

/-- A read of the latched half at 0x0C; zero with nothing latched (R364). -/
def mbxRxUpper (m : BitVec 8) (c : Nat) (s : State) : State :=
  chanAccess m c true (fun s =>
    let v := (((getChan s c).latch.find? (·.1 == m)).map (·.2.toNat)).getD 0
    answer (.value m (BitVec.ofNat 64 v)) (modChan c (fun x => { x with latch := x.latch.filter (·.1 != m) }) s)) s

/-! ## COMPAT and its lock (R367 to R369) -/

/-- A read of MBX_LOCK: takes a free lock, returns the other holder. -/
def mbxLock (m : BitVec 8) (c : Nat) (s : State) : State :=
  chanAccess m c true (fun s =>
    let x := getChan s c
    if !x.compat then answer (.value m 0) s
    else if x.lock == 0 || x.lock == m then answer (.value m 0) (setChan c { x with lock := m } s)
    else answer (.value m (x.lock.setWidth 64)) s) s

/-- A write to MBX_LOCK: the holder releases it. -/
def mbxUnlock (m : BitVec 8) (c : Nat) (s : State) : State :=
  chanAccess m c false (fun s =>
    let x := getChan s c
    if x.lock == m then setChan c { x with lock := 0 } s else s) s

/-- A write to MBX_CTRL: either bound master sets or clears COMPAT; clearing releases the lock. -/
def mbxCtrl (m : BitVec 8) (c : Nat) (v : BitVec 32) (s : State) : State :=
  chanAccess m c false (fun s =>
    let x := getChan s c
    let on := nbit v.toNat 0
    if c < 4 then s else setChan c { x with compat := on, lock := if on then x.lock else 0 } s) s

/-- A write to MBX_DB_MASK: clearing a mask bit over a set doorbell bit interrupts once (R370). -/
def mbxMask (m : BitVec 8) (v : BitVec 32) (s : State) : State :=
  let cleared := dbMask s m &&& ~~~v &&& dbBits s m
  let s := { s with mbx := { s.mbx with mask := tset s.mbx.mask m.toNat v } }
  if cleared == 0 then s else interruptMaster m s

/-! ## Domains (R371, R372) -/

/-- A channel as a master's domain going off leaves it. -/
def chanOff (m : BitVec 8) (c : Nat) (x : Chan) : Chan :=
  let x := { x with lock := if x.lock == m then 0 else x.lock }
  if 4 ≤ c then (if x.valid && (x.a == m || x.b == m) then { x with q0 := [], q1 := [] } else x)
  else { x with q0 := x.q0.filter fun w => w.src != m && w.dst != m, q1 := x.q1.filter fun w => w.src != m && w.dst != m }

/-- A master's domain goes off. -/
def goOff (m : BitVec 8) (s : State) : State :=
  { s with mbx := { s.mbx with off := flagSet s.mbx.off m, chans := tmap s.mbx.chans (chanOff m) } }

/-! ## Messages sent by the module's own masters (R373) -/

/-- A message header. -/
def msgHeader (type len seq result : Nat) : BitVec 32 := BitVec.ofNat 32 (type + 256 * len + 65536 * seq + 2 ^ 24 * result)

/-- Words written one after another to a queue. -/
def putWords (c : Nat) (first : Bool) (src dst : BitVec 8) (ws : List (BitVec 32)) (s : State) : State :=
  ws.foldl (fun s w => putWord c first { word := w, src := src, dst := dst } s) s

/-- A notice to the host on channel 3 or to the rack controller on channel 2; dropped and counted when the destination is
off (R358, R375). Its SEQ is the sender's own: a free value (log entry 3). -/
def notice (src dst : BitVec 8) (type : Nat) (words : List (BitVec 32)) (s : State) : State :=
  if isOff s dst then bump (.droppedReplies src.toNat) 1 s
  else
    let (q, s) := freeNat s
    putWords (if dst == mHost then 3 else 2) true src dst (msgHeader type words.length (q % 256) 0 :: words) s

/-- The PLY_EVENT notices of management core 0 to the host and the rack controller (R374, R419); they wait while the core
does not run (R423). -/
def plyNotice (code : Nat) (s : State) : State :=
  if isOff s mCore0 then { s with ply := { s.ply with notices := s.ply.notices ++ [code] } }
  else
    let ws : List (BitVec 32) := [BitVec.ofNat 32 code, s.ply.partner.setWidth 32]
    notice mCore0 mRack 7 ws (notice mCore0 mHost 7 ws s)

/-- HEALTH, a notice of management core 0 to the rack controller: READY, FAILED, a takeover in progress, T3 not fully mounted,
and the darned-unit count (R374); it is sent when READY, the mounting of T3 or a takeover changes what it reports (log entry
75). -/
def healthNotice (s : State) : State :=
  if isOff s mCore0 then s
  else
    let t3 : Bool := (List.range 4).any fun st => (getStack s st).t3.st.toNat < 2 || (getStack s st).t3.st == 5
    let flags := b2n s.boot.ready + 2 * b2n s.boot.failed + 4 * b2n s.ply.takeoverDue + 8 * b2n t3
    notice mCore0 mRack 6 [BitVec.ofNat 32 flags, BitVec.ofNat 32 (s.units.filter fun u => u.2.marked).length] s

/-- Notices that waited are sent. -/
def plyNotices (s : State) : State :=
  s.ply.notices.foldl (fun s c => plyNotice c s) { s with ply := { s.ply with notices := [] } }

/-- A ply event: its bit of PLY_EVENT, IRQ_CAUSE.PLY when the bit rises, and the notices (R402, R427). -/
def plyEvent (code : Nat) (s : State) : State :=
  let was := s.ply.events.toNat
  let s := { s with ply := { s.ply with events := BitVec.ofNat 8 (was ||| 2 ^ code) } }
  plyNotice code (if nbit was code then s else raiseCause 4 s)

/-- A master's domain comes back on: the doorbell of the other master of each of its bound channels is set. -/
def goOn (m : BitVec 8) (s : State) : State :=
  if !isOff s m then s
  else
    let s := { s with mbx := { s.mbx with off := s.mbx.off.filter (· != m) } }
    (upto 4 60).foldl (fun s c =>
      let x := getChan s c
      if chBinds s c && (x.a == m || x.b == m) then ringBell (chOther x m) c s else s) s

/-- The lifeline lets the partner's domain be on: a partner is bound and the port is UP (R371, R402). -/
def partnerOn (s : State) : Bool :=
  !(s.ply.st == .unbound || s.ply.st == .lost) && (getPort s 15).st == .up

/-- What R371 makes of a master's domain by the state alone; `none` where the event itself decides. -/
def domainByState (s : State) (m : BitVec 8) : Option Bool :=
  if m == mHost then some (s.host.d3hot || s.host.flrBusy)
  else if m == mSecurity then some false
  else if m == mPartner then some (!partnerOn s)
  else if m == mTest then some (s.tap.ir != 0x20 || s.tap.trst)
  else none

/-- The partner's domain follows the pair and the lifeline port. -/
def syncPartner (s : State) : State := if partnerOn s then goOn mPartner s else if isOff s mPartner then s else goOff mPartner s

/-- DOMAIN_OFF: a master's domain goes off. -/
def execDomainOff (master : BitVec 8) (s : State) : Result :=
  .next (if s.power.on && masters.contains master && (domainByState s master).getD true then goOff master s else s)

/-- DOMAIN_ON: a master's domain comes back on. -/
def execDomainOn (master : BitVec 8) (s : State) : Result :=
  .next (if s.power.on && masters.contains master && !(domainByState s master).getD false then
      let s := goOn master s
      if master == mCore0 then plyNotices s else s
    else s)

/-! ## Accesses by any master -/

/-- An access of a master to its window: the host's comes through BAR2 (R323, R511), and an off domain makes none. -/
def mbxAccess (m : BitVec 8) (f : State → State) (s : State) : State :=
  if m == mHost then (if barLive s then f s else if barRefused s then answer (.unsupported m) s else s)
  else if s.power.on && s.boot.booted && masters.contains m && !isOff s m then f s else s

def execMbxTxWrite (master : BitVec 8) (ch : BitVec 6) (word : BitVec 32) (s : State) : Result :=
  .next (mbxAccess master (mbxTx master ch.toNat word) s)
/-- MBX_RX_READ: the lower half or the whole register removes the word, the upper half is the latched one (R364). -/
def execMbxRxRead (master : BitVec 8) (ch : BitVec 6) (part : RxPart) (s : State) : Result :=
  .next (mbxAccess master (match part with
    | .lower => mbxRx master ch.toNat false
    | .whole => mbxRx master ch.toNat true
    | .upper => mbxRxUpper master ch.toNat) s)
def execMbxLockRead (master : BitVec 8) (ch : BitVec 6) (s : State) : Result :=
  .next (mbxAccess master (mbxLock master ch.toNat) s)
def execMbxLockWrite (master : BitVec 8) (ch : BitVec 6) (_v : BitVec 32) (s : State) : Result :=
  .next (mbxAccess master (mbxUnlock master ch.toNat) s)
def execMbxCtrlWrite (master : BitVec 8) (ch : BitVec 6) (v : BitVec 32) (s : State) : Result :=
  .next (mbxAccess master (mbxCtrl master ch.toNat v) s)
def execMbxDbMaskWrite (master : BitVec 8) (v : BitVec 32) (s : State) : Result :=
  .next (mbxAccess master (mbxMask master v) s)

end Sys2Proof.Machine
end

