-- ==== Sys2Proof/Machine/Rings.lean ====
section
/-! DEFINITION. Rings: enabling and disabling (R330 to R333), the writing of completion entries and stream records
(R348 to R353), interrupt moderation (R354), and the host-interface reset (R322). -/
namespace Sys2Proof.Machine
open Sys2Proof

/-! ## Writing entries -/

/-- Take the first due entry of a ring. -/
def dropDue (r : Nat) (d : Due) (s : State) : State :=
  let x := getRing s r
  let s := setRing r { x with waited := x.waited.erase d } s
  if x.due.contains d then modRing r (fun x => { x with due := x.due.erase d }) s
  else { s with ply := { s.ply with dueS := s.ply.dueS.erase d, dueC := s.ply.dueC.erase d } }

/-- The message of a ring whose delay is 0, or the start of its delay (R354). -/
def announce (r : Nat) (s : State) : State :=
  let x := getRing s r
  if !x.ien then s
  else if x.delay = 0 then sendMsix x.vector s
  else setRing r { x with unannounced := x.unannounced + 1, firstAt := if x.unannounced = 0 then s.us else x.firstAt } s

/-- A stream record has been written: of a slot, the final one makes its completion due (R287). -/
def streamWritten (r : Nat) (d : Due) (s : State) : State :=
  match d with
  | .stream _ (some i) final =>
    let s := modSlot i (fun x => { x with recordsDue := x.recordsDue - 1, finalDue := x.finalDue && !final }) s
    if final then pushSlotCompl i s else s
  | .paused _ cq body owner ws =>
    let c := Due.completion body owner ws
    if (getRing s r).takeover then pushTakeover c s else pushDue cq c s
  | _ => s

/-- The 16 bytes of a stream record. -/
def Due.record : Due → BitVec 128
  | .stream r _ _ => r
  | .paused r _ _ _ _ => r
  | .completion _ _ _ => 0

/-- STREAM_RECORD_WRITE: the next record due to a STREAM ring is written when the ring has room (R306, R352). -/
def execStreamRecordWrite (ring : BitVec 12) (s : State) : Result :=
  let r := ring.toNat
  .next (match dueTo s r true with
    | [] => s
    | d :: _ =>
      let x := getRing s r
      if !takesDue x r true || entryRoom s r = 0 then countHolds r s
      else
        let s := hostWrite (x.base + 16 * (x.idx.toNat % 2 ^ x.k)) (recBytes d.record) (dropDue r d s)
        let s := modRing r (fun x => { x with idx := x.idx + 1 }) s
        streamWritten r d (announce r (writeDevIdx r s)))

/-- A completion entry has been written: a request's is counted and its slot becomes FREE, but for a paused one, and commands
that waited for it complete (R286, R310, R313, R316). -/
def complWritten (body : BitVec 224) (owner : DueFor) (ws : List Waiter) (s : State) : State :=
  let s := match owner with
    | .slot i =>
      match getSlot s i with
      | some x => freeSlot i (bump (.completions x.panel (fld body 8 1)) 1 s)
      | none => s
    | .panel p => bump (.completions p (fld body 8 1)) 1 s
    | .command => s
  pushWaiters ws s

/-- COMPLETION_ENTRY_WRITE: the next entry due to a COMPLETE ring or ring 0 is written when there is room: the body, then
the phase word, then the index word (R350, R351). On a ring that is not ENABLED it is held without a wait for room (R333). -/
def execCompletionEntryWrite (ring : BitVec 12) (s : State) : Result :=
  let r := ring.toNat
  .next (match dueTo s r false with
    | .completion body owner ws :: _ =>
      let x := getRing s r
      if !takesDue x r false || entryRoom s r = 0 then countHolds r s
      else
        let c := if r = 0 then x.cqTail.toNat % 65536 else x.idx.toNat
        let k := if r = 0 then x.cqk else x.k
        let a := (if r = 0 then x.cqBase else x.base) + 32 * (c % 2 ^ k)
        let s := dropDue r (.completion body owner ws) s
        let s := hostWrite a (recBytes (setFld body 0x18 4 (now32 s))) s
        let s := hostWrite (a + 0x1C) (bytesOf 4 ((c / 2 ^ k + 1) % 2)) s
        let s := modRing r (fun x => if r = 0 then { x with cqTail := BitVec.ofNat 32 ((c + 1) % 65536) }
          else { x with idx := x.idx + 1 }) s
        complWritten body owner ws (announce r (writeDevIdx r s))
    | _ => s)

/-- IRQ_MODERATION_EXPIRY: DELAY_US has passed since the first entry not yet announced was written (R354). -/
def execIrqModerationExpiry (ring : BitVec 12) (s : State) : Result :=
  let r := ring.toNat
  let x := getRing s r
  .next (if x.st == .enabled && x.ien && x.unannounced != 0 && x.firstAt + x.delay ≤ s.us then
      setRing r { x with unannounced := 0 } (sendMsix x.vector s)
    else s)

/-! ## RING_CMD (R330 to R333) -/

/-- Fields of the staged context (R330). -/
def stType (s : State) : Nat := nbits s.ringRegs.cfg.toNat 0 3
def stTakeover (s : State) : Bool := nbit s.ringRegs.cfg.toNat 3
def stSize (s : State) : Nat := nbits s.ringRegs.cfg.toNat 4 4
def stCqSize (s : State) : Nat := nbits s.ringRegs.cfg.toNat 8 4

/-- TYPE, SIZE and CQ_SIZE are legal for a ring (R327). -/
def stShapeOk (s : State) (r : Nat) : Bool :=
  if r = 0 then stType s == 4 && stSize s ≤ 6 && stCqSize s ≤ 6
  else 1 ≤ stType s && stType s ≤ 3 && stSize s ≤ 10

/-- Bytes of one entry of a ring type (R327). -/
def entryBytes (type : Nat) : Nat := if type = 2 then 32 else if type = 3 then 16 else 64

/-- Bases aligned to the larger of 4 KiB and the area's size. -/
def stAligned (s : State) (r : Nat) : Bool :=
  s.ringRegs.base.toNat % max 4096 (entryBytes (stType s) * 2 ^ (stSize s + 6)) == 0
    && (r != 0 || s.ringRegs.cqb.toNat % max 4096 (32 * 2 ^ (stCqSize s + 6)) == 0)

/-- The first failing condition of an ENABLE, as its error code (R331, R332); 0 when all hold. -/
def enableCode (s : State) (r : Nat) (tail : Option (List Byte)) : Nat :=
  let ty := stType s
  let cq := nbits s.ringRegs.link.toNat 0 12
  if !s.boot.ready then 6
  else if s.host.version == 0 then 5
  else if (getRing s r).st != .disabled then 1
  else if r != 0 && (getRing s 0).st != .enabled then 4
  else if !stShapeOk s r || !stAligned s r then 2
  else if (tail.map natOf) != some 0 then 3
  else if ty = 1 && !((getRing s cq).st == .enabled && (getRing s cq).type == 2) then 4
  else if stTakeover s && (!(ty == 2 || ty == 3) || (takeoverRing s ty).isSome) then 2
  else 0

/-- The context an ENABLE loads; entries due to the ring are kept (R331, R333). -/
def stagedRing (s : State) (x : Ring) : Ring :=
  let g := s.ringRegs
  { x with
    st := .enabled, error := 0, type := stType s, takeover := stTakeover s, k := stSize s + 6, cqk := stCqSize s + 6,
    group := nbits g.cfg.toNat 12 8, cq := nbits g.link.toNat 0 12, ien := nbit g.link.toNat 12,
    vector := nbits g.link.toNat 13 11, delay := nbits g.link.toNat 24 8, base := g.base.toNat, cqBase := g.cqb.toNat,
    idx := 0, cqTail := 0, pubHead := 0, unannounced := 0 }

/-- RING_CMD ENABLE on the selected ring (R331). -/
def ringEnable (s : State) : State :=
  let r := s.ringRegs.sel.toNat
  let (tail, s) := hostRead (s.db.tailCur.toNat + 4 * r) 4 s
  match enableCode s r tail with
  | 0 =>
    let s := writeDevIdx r (countHolds r (setRing r (stagedRing s (getRing s r)) s))
    if r = 0 then { s with host := { s.host with lock := true } } else s
  | code => modRing r (fun x => { x with error := BitVec.ofNat 4 code }) s

/-- RING_CMD DISABLE on the selected ring (R333). -/
def disableRing (r : Nat) (s : State) : State :=
  modRing r (fun x => { x with st := .disabled, error := 0, unannounced := 0 }) s

/-- RING_CMD READ: the selected ring's context in the staging registers (R330). -/
def ringRead (s : State) : State :=
  let x := getRing s s.ringRegs.sel.toNat
  let cfg := x.type + 8 * b2n x.takeover + 16 * (x.k - 6) + 256 * (x.cqk - 6) + 4096 * x.group
  let link := x.cq + 2 ^ 12 * b2n x.ien + 2 ^ 13 * x.vector + 2 ^ 24 * x.delay
  { s with ringRegs := { s.ringRegs with
      base := BitVec.ofNat 51 x.base, cqb := BitVec.ofNat 51 x.cqBase, cfg := BitVec.ofNat 20 cfg, link := BitVec.ofNat 32 link } }

/-- What a write of RING_CMD.OP does. -/
def ringCmd (op : Nat) (s : State) : State :=
  match op with
  | 1 => ringEnable s
  | 2 => disableRing s.ringRegs.sel.toNat s
  | 3 => ringRead s
  | _ => s

def execRingEnable (s : State) : Result := .next (if barLive s then ringCmd 1 s else s)
def execRingDisable (s : State) : Result := .next (if barLive s then ringCmd 2 s else s)
def execRingRead (s : State) : Result := .next (if barLive s then ringCmd 3 s else s)

/-! ## The host-interface reset (R322, R459) -/

/-- A due entry is discarded: a request's slot becomes FREE at that moment. -/
def discardDue (d : Due) (s : State) : State :=
  match d with
  | .completion _ (.slot i) _ => freeSlot i s
  | _ => s

/-- A slot that outlives the reset no longer reaches host memory; one that has only to write its end is FREE. -/
def cutSlot (i : Nat) (s : State) : State :=
  match getSlot s i with
  | none => s
  | some x =>
    let s := setSlot i { x with cut := true, recordsDue := 0, finalDue := false, pausers := [], aborters := [] } s
    if (x.st == .done || x.st == .aborted) && x.sampled.isEmpty then freeSlot i s else s

/-- Every ring is DISABLED and owes nothing; takeover deliveries are dropped. -/
def disableRings (s : State) : State :=
  { s with
    ply := { s.ply with dueC := [], dueS := [] }
    rings := tmap s.rings fun _ x => { x with st := .disabled, error := 0, due := [], waited := [], unannounced := 0 } }

/-- The registers of the host interface take their reset values, as do those of configuration space that an FLR resets (R317;
log entry 92); commands in hand end without a completion (R322). -/
def resetHostRegs (s : State) : State :=
  { s with
    ringRegs := {}, db := {}, irq := {}, adminWait := [],
    admin := s.admin.map fun c => { c with discard := true },
    host := { s.host with
      version := 0, lock := false, held := [], busMaster := false, memOn := false, bars := [0, 0], msixOn := false,
      msixAll := false, readSize := 2, readTimeout := 0, d3hot := false } }

/-- The host-interface reset. -/
def hostReset (s : State) : State :=
  let dues := (s.rings.flatMap fun r => r.2.due) ++ s.ply.dueC ++ s.ply.dueS
  let s := dues.foldl (fun s d => discardDue d s) (disableRings s)
  resetHostRegs ((liveSlots s).foldl (fun s i => cutSlot i s) s)

/-- The MSI-X structures return to the reset values of PCI Express (R507; log entry 6). -/
def msixReset (s : State) : State := { s with host := { s.host with msixMask := [], msixOff := [], pba := [] } }

/-- What PCI Express resets with the link but not by an FLR (R317; log entry 92); `sticky` with the fundamental reset only. -/
def linkReset (sticky : Bool) (s : State) : State :=
  let h := { s.host with payload := 0, aspmL1 := false, flrBusy := false }
  { s with host := if sticky then { h with aer := 0, aerMask := 0 } else h }

/-- The function answers configuration requests (R321). -/
def cfgLive (s : State) : Bool := s.power.on && s.boot.pcie && s.host.up && !s.host.flrBusy

/-- A Function Level Reset begins (R321, R322). It lasts until the next µs of module time (log entry 1). -/
def beginFlr (s : State) : State :=
  let s := msixReset (hostReset s)
  goOff mHost { s with host := { s.host with flrBusy := true } }

/-- FLR: a Function Level Reset of a function that is reached. -/
def execFlr (s : State) : Result := .next (if cfgLive s then beginFlr s else s)

/-- PERST_ASSERT: after PCIe readiness a host-interface reset; before it, only the port is held in reset (R459, R460). The
function leaves D3hot and an FLR, and the host's domain is on (R371). -/
def execPerstAssert (s : State) : Result :=
  .next (if !s.power.on then s
    else
      let s := linkReset true (if s.boot.pcie && s.host.up then msixReset (hostReset s) else s)
      goOn mHost { s with host := { s.host with perst := true, up := false, training := false } })

/-- PERST_DEASSERT: link training may begin (R462). After readiness the link comes up again. -/
def execPerstDeassert (s : State) : Result :=
  .next (if !s.power.on || !s.host.perst then s
    else { s with host := { s.host with perst := false, training := s.boot.booted || s.boot.failed, up := s.boot.pcie } })

/-- DL_DOWN: a loss of the data link while the function is in D0 (R320, R459). The link may train again at once. -/
def execDlDown (s : State) : Result :=
  .next (if s.host.up && s.boot.pcie then
      let s := linkReset false (msixReset (hostReset s))
      goOn mHost { s with host := { s.host with up := !s.host.perst } }
    else s)

/-- Once the device may issue requests again, its held writes are made in their order (R320). -/
def makeHeld (s : State) : State :=
  if !hostLive s then s
  else
    s.host.held.foldl (fun s w => match w with
      | .cell a b => wr (hostBase + a) [b] s
      | .message v => emitOut (.msix v) (bump .msixMessages 1 s)) { s with host := { s.host with held := [] } }

/-- The function enters D3hot: the host's domain goes off (R320, R371). -/
def enterD3 (s : State) : State := goOff mHost { s with host := { s.host with d3hot := true } }

/-- The function is in D0 again. -/
def leaveD3 (s : State) : State := goOn mHost (makeHeld { s with host := { s.host with d3hot := false } })

/-- D3HOT_ENTRY: the function enters D3hot, or Bus Master Enable clears (R320). -/
def execD3hotEntry (busMasterOnly : Bool) (s : State) : Result :=
  .next (if !s.host.up || s.host.flrBusy then s
    else if busMasterOnly then { s with host := { s.host with busMaster := false } }
    else enterD3 s)

/-- D0_RETURN: D0 with Bus Master Enable: the held writes are made in order (R320). -/
def execD0Return (s : State) : Result :=
  .next (if !s.host.up || s.host.flrBusy then s else leaveD3 { s with host := { s.host with busMaster := true } })

/-- A configuration request is answered with Configuration Request Retry Status: before PCIe readiness and during an FLR; in
test hold R321 does not apply (R321, R481). -/
def cfgRetries (s : State) : Bool :=
  s.power.on && !s.host.perst && !s.boot.testHold && (!s.boot.pcie || s.host.flrBusy)

/-- CONFIGURATION_REQUEST: the answer of Retry. A request that is served is a REGISTER_WRITE or a LATCHED_READ of configuration
space (log entry 92). -/
def execConfigurationRequest (s : State) : Result := .next (if cfgRetries s then answer .retry s else s)

/-! ## Configuration space (R317)

What the manual takes from PCI Express by name, at the offsets of its headers and capability structures, the capabilities one
after another from 0x40 (PRESUMED, log entry 92). -/

/-- The dword of configuration space at an offset. -/
def cfgWord (s : State) (off : Nat) : Nat :=
  let h := s.host
  match off with
  | 0x000 => 0x05121FA7                                   -- Device ID, Vendor ID
  | 0x004 => 2 * b2n h.memOn + 4 * b2n h.busMaster + 2 ^ 20 -- Command; Status with a capability list
  | 0x008 => 0x12000000                                   -- Class Code
  | 0x010 => (lgetD h.bars 0 0).toNat % 2 ^ 32 + 4        -- BAR0, 64 KiB, 64-bit
  | 0x014 => (lgetD h.bars 0 0).toNat / 2 ^ 32
  | 0x018 => (lgetD h.bars 1 0).toNat % 2 ^ 32 + 4        -- BAR2, 1 MiB, 64-bit
  | 0x01C => (lgetD h.bars 1 0).toNat / 2 ^ 32
  | 0x034 => 0x40
  | 0x040 => 0x00035001                                   -- power management
  | 0x044 => 3 * b2n h.d3hot + 8                          -- PMCSR; No_Soft_Reset
  | 0x050 => 0x7011 + 2 ^ 16 * 2047 + 2 ^ 30 * b2n h.msixAll + 2 ^ 31 * b2n h.msixOn  -- MSI-X
  | 0x054 => 0x80002
  | 0x058 => 0x88002
  | 0x070 => 0x00020010                                   -- PCI Express, an Endpoint
  | 0x074 => 2 + 2 ^ 5 + 2 ^ 15 + 2 ^ 28                  -- Max_Payload_Size 512, extended tags, FLR
  | 0x078 => 2 ^ 5 * h.payload.toNat + 2 ^ 8 + 2 ^ 12 * h.readSize.toNat  -- Relaxed Ordering and No Snoop off
  | 0x07C => 7 + 2 ^ 4 * 4 + 2 ^ 11                       -- 128 GT/s, x4, ASPM L1
  | 0x080 => 2 * b2n h.aspmL1
  | 0x094 => 0xF + 2 ^ 4 + 2 ^ 16 + 2 ^ 17                -- completion timeouts, 10-bit tags
  | 0x098 => h.readTimeout.toNat + 2 ^ 12
  | 0x100 => 0x00020001                                   -- AER
  | 0x104 => h.aer.toNat
  | 0x108 => h.aerMask.toNat
  | _ => 0

/-- A change of the function's own registers. -/
def setHost (f : HostFn → HostFn) (s : State) : State := { s with host := f s.host }

/-- A half of a base address register is written: the bits above its window's size are stored. -/
def barBase (i : Nat) (hi : Bool) (v : Nat) (s : State) : State :=
  let old := (lgetD s.host.bars i 0).toNat
  let size := if i = 0 then 0x10000 else 0x100000
  let new := if hi then v % 2 ^ 32 * 2 ^ 32 + old % 2 ^ 32 else old / 2 ^ 32 * 2 ^ 32 + v % 2 ^ 32 / size * size
  setHost (fun h => { h with bars := h.bars.set i (BitVec.ofNat 64 new) }) s

/-- Vectors that are pending and no longer masked send their messages (R354). -/
def sendPending (s : State) : State :=
  s.host.pba.foldl (fun s v =>
    if !s.host.msixOn || s.host.msixAll || tgetD s.host.msixMask v true then s
    else sendMsix v (setHost (fun h => { h with pba := h.pba.filter (· != v) }) s)) s

/-- The dword of configuration space at an offset is written. -/
def cfgWrite (off v : Nat) (s : State) : State :=
  match off with
  | 0x004 => makeHeld (setHost (fun h => { h with memOn := nbit v 1, busMaster := nbit v 2 }) s)
  | 0x010 => barBase 0 false v s
  | 0x014 => barBase 0 true v s
  | 0x018 => barBase 1 false v s
  | 0x01C => barBase 1 true v s
  | 0x044 => if v % 4 = 3 then enterD3 s else if v % 4 = 0 then leaveD3 s else s
  | 0x050 => sendPending (setHost (fun h => { h with msixAll := nbit v 30, msixOn := nbit v 31 }) s)
  | 0x078 =>
    let s := setHost (fun h => { h with
      payload := BitVec.ofNat 3 (min 2 (nbits v 5 3)), readSize := BitVec.ofNat 3 (min 5 (nbits v 12 3)) }) s
    if nbit v 15 then beginFlr s else s
  | 0x080 => setHost (fun h => { h with aspmL1 := v % 4 == 2 }) s
  | 0x098 => setHost (fun h => { h with readTimeout := BitVec.ofNat 4 v }) s
  | 0x104 => setHost (fun h => { h with aer := h.aer &&& ~~~(BitVec.ofNat 32 v) }) s
  | 0x108 => setHost (fun h => { h with aerMask := BitVec.ofNat 32 v }) s
  | _ => s

/-- An access to configuration space: one dword, answered with Retry or served (R321). -/
def cfgAccess (off : Nat) (eight : Bool) (f : State → State) (s : State) : State :=
  if cfgRetries s then answer .retry s
  else if !cfgLive s then s
  else if eight || off % 4 != 0 || 4096 ≤ off then answer (.unsupported mHost) s
  else f s

end Sys2Proof.Machine
end

