-- ==== Sys2Proof/Machine/Links.lean ====
section
/-! DEFINITION. Link ports: training (R378 to R383), sessions, acknowledgement, replay and credits (R386 to R390), the
loss of a port (R392, R421), and the sending side of fetches (R394, R396). -/
namespace Sys2Proof.Machine
open Sys2Proof

/-- Ports train after step 3 of start-up (R462, R472). -/
def linksOn (s : State) : Bool := s.power.on && s.boot.cores

/-- A port is enabled in LNK_CTRL (R398). -/
def portEnabled (s : State) (p : Nat) : Bool := nbit s.links.enable.toNat p

/-- Change a port; a change of STATE or REASON sets its bit of LNK_EVENT (R398), and one of STATE begins its limit (R380). -/
def changePort (p : Nat) (f : Port → Port) (s : State) : State :=
  let x := getPort s p
  let y := f x
  let s := setPort p (if x.st == y.st then y else { y with since := s.us }) s
  if x.st == y.st && x.reason == y.reason then s
  else { s with links := { s.links with event := s.links.event ||| BitVec.ofNat 18 (2 ^ p) } }

/-! ## Outstanding requests when a path changes (R394, R396) -/

/-- The ports that may carry a request: the two to its peer, or the allowed ones of its storage target; only those UP. -/
def fetchPaths (s : State) (f : Fetch) : List Nat :=
  if f.target then
    match f.cmd.bind (adminCmd s) with
    | some c => targetPorts s (fld c.d 0x20 8)
    | none => []
  else [f.port % 6, f.port % 6 + 6].filter fun q => (getPort s q).st == .up

/-- A transfer ends without its data: a FETCH_PEER move with DATA_LOST, a DEPLOY turns to its next source (R394). -/
def loseFetch (f : Fetch) (s : State) : State :=
  match f.mv, f.cmd with
  | some m, _ =>
    let s := { s with links := { s.links with fetches := s.links.fetches.filter fun g => g.mv != some m } }
    match s.moves.find? (·.id == m) with
    | some x => failMove x s
    | none => s
  | none, some c => deployGiveUp c f.target s
  | none, none => s

/-- Requests of a port that has left UP go by the other path, or their transfer ends. -/
def rerouteFetches (p : Nat) (s : State) : State :=
  let s := (s.links.fetches.filter (·.port == p)).foldl (fun s f =>
    if !s.links.fetches.contains f then s
    else
      match fetchPaths s f with
      | q :: _ =>
        let g := { f with port := q, sent := false, data := false, busyAt := none }
        { s with links := { s.links with fetches := s.links.fetches.map fun x => if x = f then g else x } }
      | [] => loseFetch f s) s
  pumpFetches s

/-! ## Leaving UP (R387, R392, R421) -/

/-- Panels whose part declares a strand channel on a port. -/
def portPanels (s : State) (p : Nat) : List Nat :=
  (s.panels.filter fun kv => kv.2.cast.any fun c => c.img.pat.channels.any fun ch => ch.port == p).map (·.1)

/-- A port goes DOWN with a reason. From UP it faults every panel with a strand channel on it, closes the panel's
channels on every port (R421), and turns its outstanding requests to other paths. `retry` is when it may start again by itself (R380). -/
def portDown (p : Nat) (reason : Nat) (retry : Option Nat) (s : State) : State :=
  let was := (getPort s p).st
  let s := changePort p (fun x => { x with
    st := .down, reason := BitVec.ofNat 4 reason, degraded := false, version := 0, seenHello := false, sentSeen := false,
    gotSeen := false, retryAt := retry, leftUp := if was == .up then some s.us else x.leftUp,
    resendq := [], prev := if was == .up then x.cur else x.prev }) s
  if was != .up then s
  else
    let s := bump (.retrains p) 1 s
    let s := modPort p (fun x => { x with send := tmap x.send fun ch c => if ch = 64 then c else { c with open_ := false } }) s
    let s := (portPanels s p).foldl (fun s q => faultPanel q stPanelDown (closeChannels q s)) s
    let s := rerouteFetches p s
    if p = 15 then syncPartner s else s

/-- Training begins, with the rack identity of this moment (R380, R398). -/
def beginTraining (p : Nat) (s : State) : State :=
  changePort p (fun x => { x with st := .electrical, retryAt := none, rack := s.links.rackId }) s

/-- A training step fails: DOWN with a reason, to start again 1 s later (R380). -/
def trainFail (p reason : Nat) (s : State) : State := portDown p reason (some (s.us + 1000000)) s

/-- SIGNAL_LOSS: a port that is UP loses its signal (R392). -/
def execSignalLoss (port : Fin 18) (s : State) : Result :=
  .next (if (getPort s port.val).st == .up then portDown port.val 1 none s else s)

/-- LINK_SILENCE_TIMEOUT: 16 resends of one SEQ, reason 9, or 10 ms without a good flit, whose reason the manual does not
state: a free value of its table (R387, R398; log entry 3). -/
def execLinkSilenceTimeout (port : Fin 18) (s : State) : Result :=
  let p := port.val
  let x := getPort s p
  .next (if x.st != .up then s
    else if x.replay.any (fun e => 16 ≤ e.2.2) then portDown p 9 none s
    else if x.lastGood + 10000 ≤ s.us then
      let (f, s) := freeNat s
      portDown p (f % 11) none s
    else s)

/-- A write of LNK_CTRL (R398): bits cleared take their ports DOWN with reason 10; reserved bits are ignored (R7). -/
def lnkCtrl (v : BitVec 32) (s : State) : State :=
  let old := s.links.enable.toNat
  let new := v.toNat % 2 ^ 18
  let s := { s with links := { s.links with enable := BitVec.ofNat 18 new } }
  (List.range 18).foldl (fun s p =>
    if nbit old p && !nbit new p then portDown p 10 none s
    else if !nbit old p && nbit new p then modPort p (fun x => { x with retryAt := none }) s
    else s) s

/-- A change of LNK_RACK_ID: ports held down for a mismatch start again at once (R380). -/
def rackIdChanged (s : State) : State :=
  (List.range 18).foldl (fun s p =>
    let x := getPort s p
    if x.st == .down && x.retryAt.isSome && 4 ≤ x.reason.toNat && x.reason.toNat ≤ 8 && portEnabled s p then
      beginTraining p s
    else s) s

/-! ## Training (R379, R380) -/

/-- SIGNAL_DETECT: an enabled DOWN port begins electrical training. With even parity of the address pins every port but
the storage ports stays down with reason 7 (R495). -/
def execSignalDetect (port : Fin 18) (s : State) : Result :=
  let p := port.val
  let x := getPort s p
  .next (if !linksOn s || !portEnabled s p || x.st != .down || x.retryAt.isSome then s
    else if s.boot.rackPos == 0xFF && p < 16 then changePort p (fun x => { x with reason := 7 }) s
    else beginTraining p s)

/-- EQUALISATION_DONE: four lanes, or two when lanes 0 and 1, else 2 and 3, are both good (R379). -/
def execEqualisationDone (port : Fin 18) (failed : BitVec 4) (s : State) : Result :=
  let p := port.val
  let f := failed.toNat
  .next (if (getPort s p).st != .electrical then s
    else if f = 0 then changePort p (fun x => { x with st := .align, degraded := false }) s
    else if f % 4 = 0 || f / 4 = 0 then changePort p (fun x => { x with st := .align, degraded := true }) s
    else trainFail p 2 s)

/-- ALIGN_LOCK: the port enters HELLO; after an earlier session its hellos carry RESUME (R380, R387). -/
def execAlignLock (port : Fin 18) (s : State) : Result :=
  let p := port.val
  .next (if (getPort s p).st == .align then
      changePort p (fun x => { x with st := .hello, seenHello := false, sentSeen := false, gotSeen := false,
                                      resumeTx := x.leftUp.isSome }) s
    else s)

/-- The limit of a training state in µs (R380). -/
def trainLimit : PortSt → Nat
  | .electrical => 100000
  | .align => 5000
  | _ => 1000

/-- TRAINING_TIMEOUT: a training state has reached its limit: reason 2, 3, or in HELLO one of 4 to 8, of which the manual
does not say which (R380; log entry 3). -/
def execTrainingTimeout (port : Fin 18) (s : State) : Result :=
  let p := port.val
  let x := getPort s p
  .next (if s.us < x.since + trainLimit x.st then s
    else match x.st with
    | .electrical => trainFail p 2 s
    | .align => trainFail p 3 s
    | .hello =>
      let (f, s) := freeNat s
      trainFail p (4 + f % 5) s
    | _ => s)

/-- TRAINING_RETRY: 1 s after a failure or a mismatch the port starts again (R380). -/
def execTrainingRetry (port : Fin 18) (s : State) : Result :=
  let p := port.val
  let x := getPort s p
  .next (if linksOn s && portEnabled s p && x.st == .down && x.retryAt.any (· ≤ s.us) then
      beginTraining p s
    else s)

/-! ## Flits (R384, R385) -/

/-- A side slot is well formed (R385). -/
def sideOk (b : Nat) : Bool := nbits b (8 * 0x40) 8 < 2 && nbits b (8 * 0x41) 8 ≤ 32 && nbits b (8 * 0x82) (8 * 126) == 0

/-- A received flit is free of error: CRC, reserved bits and values (R384, R385). -/
def flitOk (f : Flit) : Bool :=
  let kind := fld f 0 1
  let slots := fld f 1 1
  let body (i : Nat) : Nat := fld f (0xC + 256 * i) 256
  fld f 0x20C 4 == recCrc f 0x20C && 1 ≤ kind && kind ≤ 3 && slots < 16 && slots % 4 != 3 && slots / 4 != 3
    && fld f 6 1 ≤ 64 && fld f 7 1 ≤ 64 && fld f 8 1 < 2 && fld f 9 1 ≤ 64 && (kind == 1 || fld f 2 2 == 0)
    && (kind != 1 || ((slots % 4 != 2 || sideOk (body 0)) && (slots / 4 != 2 || sideOk (body 1))))

/-- NULL flits carry the acknowledgement and the credit returns (R384). -/
def sendNulls (p : Nat) : (n : Nat) → State → State
  | 0, s => s
  | k + 1, s => sendNulls p k (sendFlit p 2 0 0 0 0 0 s)

/-- What an acknowledgement lets go of: the replay buffer up to and with its SEQ (R386). -/
def dropAcked (ack : Nat) (l : List (BitVec 16 × Flit × Nat)) : List (BitVec 16 × Flit × Nat) :=
  if l.any (fun e => e.1.toNat == ack) then (l.dropWhile fun e => e.1.toNat != ack).tail else l

/-- A flit of the replay buffer is sent again with its SEQ, slots and body, and with the port's acknowledgement and credit
return of now (R384, R386). -/
def resendFlit (p : Nat) (e : BitVec 16 × Flit × Nat) (s : State) : State :=
  let f := e.2.1
  let (g, s) := stampFlit p 1 (fld f 1 1) e.1.toNat (fld f 6 1) (fld f 7 1) (fld f 0xC 512) s
  emitOut (.flit p g) s

/-- Every flit of the replay buffer is sent again, in order; each raises the replay counter (R386). -/
def resendAll (p : Nat) (s : State) : State :=
  let x := getPort s p
  let s := x.replay.foldl (fun s e => resendFlit p e s) s
  bump (.replays p) x.replay.length (modPort p (fun x => { x with replay := x.replay.map fun e => (e.1, e.2.1, e.2.2 + 1) }) s)

/-- Tiles sent on a link channel whose slots have all been freed at the far end have been checked there (R210; log entry
16): `left` slots are outstanding, and each newer tile holds its beats and a side slot of them. -/
def ackLinkTiles (d : Dest) (left : Nat) (l : List SentTile) : List SentTile :=
  (l.foldr (fun t (acc : List SentTile × Nat) =>
    if t.waiting.contains d then
      if left ≤ acc.2 then ({ t with waiting := t.waiting.filter (· != d) } :: acc.1, acc.2)
      else (t :: acc.1, acc.2 + t.beats.length + 1)
    else (t :: acc.1, acc.2)) ([], 0)).1

/-- The difference of a channel's CRN is new credits (R389). Through-routes into the channel go on. -/
def applyCrn (p ch crn : Nat) (s : State) : State :=
  let x := getPort s p
  match tget x.send ch with
  | none => s
  | some c =>
    let n := (crn + 65536 - c.lastCrn.toNat) % 65536
    if !c.open_ || n = 0 then s
    else
      let left := c.sent - n
      let c : SendCh := { c with credits := c.credits + n, lastCrn := BitVec.ofNat 16 crn, sent := left }
      let s := setPort p { x with send := tset x.send ch c } s
      if ch = 64 then s
      else
        let d := Dest.link p ch
        let mine := (s.units.filter fun u => u.2.outs.any fun o => o.2.dests.contains d).map (·.1)
        let s := mine.foldl (fun s u => modUnit u (fun x =>
          { x with outs := tmap x.outs fun _ o => { o with kept := ackLinkTiles d left o.kept } }) s) s
        pumpRoutes p (· == ch) (drainResends p s)

/-- ACK, NAK and credit return of a good flit (R386, R389). Room in the replay buffer lets what waits go on (R390). -/
def applyReturns (p : Nat) (f : Flit) (s : State) : State :=
  let ack := fld f 4 2
  let n := (getPort s p).replay.length
  let s := modPort p (fun x => { x with replay := dropAcked ack x.replay, acked := BitVec.ofNat 16 ack }) s
  let room : Bool := (getPort s p).replay.length < n
  let s := if nbit (fld f 8 1) 0 then resendAll p s else s
  let s := applyCrn p (fld f 9 1) (fld f 0xA 2) s
  let s := if room then pumpRoutes p (fun _ => true) (drainResends p s) else s
  drainService p (getPort s p).txq.length s

/-- The codewords of a flit are counted, and one in codewords without error ends the silence of its port (R387, R399). -/
def gotCodewords (p : Nat) (c : Fec) (s : State) : State :=
  let s := bump (.fecBad p) c.bad (bump (.fecCorrected p) c.corrected s)
  if c.lost then s else modPort p (fun x => { x with lastGood := s.us }) s

/-- A flit is discarded: the first such sets NAK in the next outgoing flit (R386). -/
def discardFlit (p : Nat) (s : State) : State :=
  if (getPort s p).nak then s
  else sendNulls p 1 (modPort p (fun x => { x with nak := true, nakDue := true }) s)

/-- NULL_FLIT: its ACK and credit return (R384); one received in error or in an uncorrectable codeword is discarded
(R386). -/
def execNullFlit (port : Fin 18) (r : RxFlit) (s : State) : Result :=
  let p := port.val
  .next (if (getPort s p).st != .up then s
    else
      let s := gotCodewords p r.fec s
      if r.fec.lost then discardFlit p s
      else if !flitOk r.flit then discardFlit p (bump (.flitErrors p) 1 s)
      else if fld r.flit 0 1 != 2 then s
      else applyReturns p r.flit s)

/-- NAK_REPEAT: the receiver repeats its NAK until the expected SEQ arrives (R386). -/
def execNakRepeat (port : Fin 18) (s : State) : Result :=
  let p := port.val
  .next (if (getPort s p).st == .up && (getPort s p).nak then
      sendNulls p 1 (modPort p (fun x => { x with nakDue := true }) s)
    else s)

/-! ## Hellos and sessions (R381 to R383, R387) -/

/-- The ROLE of a port (R15, R381). -/
def portRole (p : Nat) : Nat := if p < 12 then 1 else if p < 15 then 2 else if p = 15 then 4 else 3

/-- The stack that carries a port: three block ports each, then the others as the table of R15 allots them. -/
def portStack (p : Nat) : Nat :=
  if p < 12 then p / 3 else if p = 15 then 0 else if p < 15 then p - 11 else p - 14

/-- Send a hello (R381). -/
def sendHello (p : Nat) (s : State) : State :=
  let x := getPort s p
  let body : BitVec 4096 := recOf 4096 [(0, 2, 2), (2, 1, portRole p), (3, 1, p), (4, 1, s.boot.rackPos.toNat),
    (5, 1, b2n x.seenHello + 2 * b2n x.resumeTx), (6, 2, x.rxLast.toNat), (8, 8, x.rack.toNat),
    (0x10, 8, Config.serial.toNat)]
  sendFlit p 3 0 0 0 0 body.toNat s

/-- A byte of a hello's body (R381). -/
def helloFld (f : Flit) (off size : Nat) : Nat := fld f (0xC + off) size

/-- A hello's body has no reserved value, and every byte without a field is zero (R381). -/
def helloOk (f : Flit) : Bool :=
  let role := helloFld f 2 1
  flitOk f && fld f 0 1 == 3 && 1 ≤ role && role ≤ 5 && helloFld f 4 1 < 64
    && (if role = 5 then helloFld f 3 1 == 0xFF else helloFld f 3 1 < 18)
    && helloFld f 5 1 < 4 && helloFld f 0x18 488 == 0

/-- The rack position, or 0x40 + target number, that PEER reports (R398). -/
def helloPeer (f : Flit) : Nat := if helloFld f 2 1 = 5 then 0x40 + helloFld f 4 1 else helloFld f 4 1

/-- The first failing check of R382 and R383, as its reason; 0 when the peer is accepted. -/
def helloReason (s : State) (p : Nat) (f : Flit) : Nat :=
  let role := helloFld f 2 1
  let me := s.boot.rackPos.toNat
  let pos := helloFld f 4 1
  let rack := helloFld f 8 8
  let mine := (getPort s p).rack
  if !nbit (helloFld f 0 2) 1 then 4
  else if p < 16 && role != 5 && (mine == 0 || rack == 0) then 5
  else if p < 16 && role != 5 && rack != mine.toNat then 6
  else if role != (if portRole p = 3 then 5 else portRole p) then 8
  else if p < 12 && !((peerPortsAt me pos).zip (peerPortsAt pos me)).contains (p, helloFld f 3 1) then 7
  else if 12 ≤ p && p < 15 && (me = 0xFF || pos / 16 == me / 16) then 7
  else if p = 15 && (me = 0xFF || pos / 4 == me / 4) then 7
  else 0

/-- A new session: replay buffer, receive buffers and credits are discarded, SEQ restarts at 0, the channels are closed
(R387, R388); the service channel has its 256 credits (R389), toward a storage target the 576 or more it grants (R395). -/
def newSession (p : Nat) (s : State) : State :=
  let mine := s.panels.flatMap fun q => ((q.2.cast.map fun c => c.img.pat.channels).getD []).filter fun ch => ch.recv && ch.port == p
  let s := modPort p (fun x => { x with
    txSeq := 0, rxLast := 0xFFFF, acked := 0xFFFF, nak := false, nakDue := false, replay := [], recv := [], asm := none,
    txq := [], served := [], svcCrn := 0, crnDue := [], resendq := [], txMid := 0, skip := 0,
    send := [(64, { open_ := true, credits := if p < 16 then 256 else 576 + Config.targetCredits })] }) (bump (.sessionsNew p) 1 s)
  mine.foldl (fun s ch => sendService p (serviceHdr 0xB 0 0 ch.ch 0 0) [] s) s

/-- The session resumes: flits after the peer's LAST_RX are sent again (R387). -/
def resumeSession (p : Nat) (s : State) : State :=
  resendAll p (modPort p (fun x => { x with replay := dropAcked x.peerLast.toNat x.replay })
    (bump (.sessionsResumed p) 1 s))

/-- HELLO has ended: the port is UP (R381, R387). -/
def portUp (p : Nat) (s : State) : State :=
  let x := getPort s p
  let same := x.prev == x.cur && x.resumeTx && x.peerResume && x.leftUp.any fun t => s.us < t + 100000
  let s := changePort p (fun x => { x with st := .up, version := 1, lastGood := s.us }) s
  let s := if same then pumpRoutes p (fun _ => true) (resumeSession p s) else newSession p s
  let s := drainService p (getPort s p).txq.length s
  if p = 15 then syncPartner s else s

/-- Both ends have sent and received a hello with PEER_SEEN (R381). -/
def endHello (p : Nat) (s : State) : State :=
  let x := getPort s p
  if x.st == .hello && x.sentSeen && x.gotSeen then portUp p s else s

/-- HELLO_SEND: every 10 µs in HELLO (R381). -/
def execHelloSend (port : Fin 18) (s : State) : Result :=
  let p := port.val
  .next (if (getPort s p).st != .hello then s
    else endHello p (modPort p (fun x => { x with sentSeen := x.sentSeen || x.seenHello }) (sendHello p s)))

/-- HELLO: a received hello is checked (R382, R383). PEER and PEER_PORT hold a refused peer too (R398). -/
def execHello (port : Fin 18) (r : RxFlit) (s : State) : Result :=
  let p := port.val
  let x := getPort s p
  let f := r.flit
  let id : BitVec 64 × BitVec 8 := (BitVec.ofNat 64 (helloFld f 0x10 8), BitVec.ofNat 8 (helloFld f 3 1))
  .next (if x.st != .hello then s
    else
      let s := gotCodewords p r.fec s
      if r.fec.lost then s
      else if !helloOk f then bump (.flitErrors p) 1 s
      else
      let s := modPort p (fun x => { x with
        peer := BitVec.ofNat 8 (helloPeer f)
        peerPort := if helloFld f 2 1 = 5 then 0x1F else BitVec.ofNat 5 (helloFld f 3 1) }) s
      match helloReason s p f with
      | 0 =>
        endHello p (modPort p (fun x =>
          let again : Bool := x.seenHello && x.cur == some id
          { x with
            cur := some id, seenHello := true, sentSeen := x.sentSeen && again,
            gotSeen := (x.gotSeen && again) || nbit (helloFld f 5 1) 0,
            peerResume := nbit (helloFld f 5 1) 1, peerLast := BitVec.ofNat 16 (helloFld f 6 2) }) s)
      | no => trainFail p no s)

/-! ## Receiving slots (R385, R388, R389) -/

/-- A slot of a strand channel: kept until its entries enter the destination; discarded on a closed channel (R388). -/
def strandSlot (p ch ty : Nat) (b : Beat) (s : State) : State :=
  match tget (getPort s p).recv ch with
  | some c =>
    if c.open_ then
      let s := modRecv p ch (fun c => { c with slots := c.slots ++ [(ty, b)] }) s
      pumpRecv p ch (pumpFuel s p ch) s
    else bump (.closedDrops p) 1 s
  | none => bump (.closedDrops p) 1 s

/-- The data beats of a message that is discarded: those its header names, none where its LENGTH is no legal one (R393; log
entry 94). -/
def svcSkip (h : Rec64) : Nat :=
  let len := fld h 0x18 8
  if len % 4096 == 0 && len ≤ 0x4000000 then svcBeats h else 0

/-- A service message's header has a right CRC and no reserved value (R393). MAILBOX and LIFELINE come on the lifeline
port only. A module serves no READ_REQ. -/
def svcOk (p : Nat) (h : Rec64) : Bool :=
  let op := fld h 0 1
  let len := fld h 0x18 8
  recOk h && 1 ≤ op && op ≤ 0xB && op != 4 && fld h 1 1 ≤ 5 && fld h 0xC 4 == 0 && fld h 0x20 28 == 0
    && (op == 0xA || op == 0xB || (len % 4096 == 0 && len ≤ 0x4000000))
    && (p == 15 || (op != 8 && op != 9))

/-! ## Fetches: the requesting side (R394, R396) -/

/-- The outstanding request a reply answers. -/
def fetchOf (s : State) (p : Nat) (h : Rec64) (target : Bool) : Option Fetch :=
  s.links.fetches.find? fun f => f.sent && f.port == p && f.tag.toNat == fld h 2 2 && f.target == target

def dropFetch (f : Fetch) (s : State) : State :=
  { s with links := { s.links with fetches := s.links.fetches.filter (· != f) } }
def setFetch (f g : Fetch) (s : State) : State :=
  { s with links := { s.links with fetches := s.links.fetches.map fun x => if x = f then g else x } }

/-- Bytes of a request arrive: into the move's destination, or to the image's place in the catalogue. -/
def fetchBytes (f : Fetch) (l : List Byte) (s : State) : State :=
  match f.mv, f.cmd with
  | some m, _ =>
    match s.moves.find? (·.id == m) with
    | some x => setMove { x with got := x.got ++ l.zipIdx.map fun b => (x.dst + (f.off - x.src) + b.2, b.1) } s
    | none => s
  | none, some c => deployBytes c f.off l s
  | none, none => s

/-- FETCH_DATA (R394). Data that is not of the length asked for is a service error (log entry 25). -/
def gotFetchData (p : Nat) (h : Rec64) (bytes : List Byte) (s : State) : State :=
  match fetchOf s p h false with
  | none => s
  | some f =>
    if bytes.length = f.len && fld h 0x18 8 = f.len then pumpFetches (fetchBytes f bytes (dropFetch f s))
    else bump (.serviceErrors p) 1 s

/-- FETCH_REFUSE (R394): BUSY is asked again after 1 ms, up to 100 times; anything else ends the transfer. -/
def gotFetchRefuse (p : Nat) (h : Rec64) (s : State) : State :=
  match fetchOf s p h false with
  | none => s
  | some f =>
    if fld h 1 1 = 3 && f.retries < 100 then setFetch f { f with retries := f.retries + 1, busyAt := some s.us } s
    else pumpFetches (loseFetch f s)

/-- FETCH_BUSY_RETRY: 1 ms after BUSY the request is sent again (R394). -/
def execFetchBusyRetry (port : Fin 18) (tag : BitVec 16) (s : State) : Result :=
  .next (match s.links.fetches.find? fun f => f.sent && f.port == port.val && f.tag == tag && f.busyAt.isSome with
    | some f =>
      if f.busyAt.any (fun t => t + 1000 ≤ s.us) then
        sendService f.port (fetchMsg f) [] (setFetch f { f with busyAt := none } s)
      else s
    | none => s)

/-- READ_DATA: exactly LENGTH bytes of the object (R395, R396). -/
def gotReadData (p : Nat) (h : Rec64) (bytes : List Byte) (s : State) : State :=
  match fetchOf s p h true with
  | none => s
  | some f =>
    if bytes.length = f.len && fld h 0x18 8 = f.len && !f.data then setFetch f { f with data := true } (fetchBytes f bytes s)
    else bump (.serviceErrors p) 1 s

/-- READ_STATUS ends a read; other than OK after its data it ends the copy (R395, R396). -/
def gotReadStatus (p : Nat) (h : Rec64) (s : State) : State :=
  match fetchOf s p h true with
  | none => s
  | some f => pumpFetches (if fld h 1 1 = 0 && f.data then dropFetch f s else loseFetch f s)

/-! ## Fetches: the serving side (R394) -/

/-- Requests being served for all requesters. -/
def serving (s : State) : Nat := s.links.ports.foldl (fun a q => a + q.2.served.length) 0

/-- The 2 MiB bases a range touches. -/
def basesOf (a n : Nat) : List Nat := (upto (a / hankBytes) (cdiv (a % hankBytes + n) hankBytes)).map (· * hankBytes)

/-- What a FETCH_REQ reads: the device ranges of its bytes when they lie in one valid entry, else why not (1 NOT_HELD,
4 OUT_OF_RANGE). -/
def fetchSource (s : State) (key off len : Nat) : Nat × List (Nat × Nat) :=
  if key = 0 then
    let bs := basesOf off len
    let holds (l : List Nat) : Bool := bs.all fun b => l.contains b
    if s.catalogue.any fun e => e.valid && (holds e.pieces || holds e.staged) then (0, [(off, len)]) else (1, [])
  else
    match catFind s (BitVec.ofNat 32 key) (BitVec.ofNat 32 (key / 2 ^ 32)) with
    | none => (1, [])
    | some e =>
      let src := if e.staged.isEmpty then e.pieces else e.staged
      if e.length < off + len then (4, [])
      else (0, (hankPieces (len / hankBytes + 2) off len).map fun q =>
        (lgetD src (q.1 / hankBytes) 0 + q.1 % hankBytes, q.2))

/-- FETCH_REQ: served with FETCH_DATA or refused with FETCH_REFUSE (R394). -/
def serveFetch (p : Nat) (h : Rec64) (mediaError : Bool) (s : State) : State :=
  let len := fld h 0x18 8
  let tag := fld h 2 2
  let (no, rs) := fetchSource s (fld h 4 8) (fld h 0x10 8) len
  let t3 := rs.filter fun r => tierOf r.1 = 3
  let reason :=
    if no != 0 then no
    else if t3.any (fun r => !t3Readable s (stackOf r.1)) then 2
    else if 32 ≤ serving s then 3
    else if mediaError && !t3.isEmpty then 5
    else 0
  if reason = 0 then
    let l := rs.flatMap fun r => rd s r.1 r.2
    let s := rs.foldl (fun s r => cacheLooks none r.1 r.2 (countT3Reads r.1 r.2 s)) (bump (.fetchServed p) 1 s)
    let n := (getPort s p).txq.length + 1 + cdiv len 256
    let s := modPort p (fun x => { x with served := x.served ++ [n] }) s
    sendService p (serviceHdr 2 0 tag 0 0 len) l s
  else sendService p (serviceHdr 3 reason tag 0 0 0) [] (bump (.fetchRefused p) 1 s)

/-! ## Channels and resends -/

/-- CHANNEL_OPEN: a strand channel is open toward this module with its credits and CRN baseline (R388). -/
def gotOpen (p : Nat) (h : Rec64) (s : State) : State :=
  let ch := fld h 4 8 % 128
  if 64 ≤ ch then bump (.serviceErrors p) 1 s
  else
    let c : SendCh := { open_ := true, credits := fld h 0x18 8, lastCrn := BitVec.ofNat 16 (fld h 0x10 2) }
    pumpRoutes p (· == ch) (modPort p (fun x => { x with send := tset x.send ch c }) s)

/-- CHANNEL_CLOSE (R388). -/
def gotClose (p : Nat) (h : Rec64) (s : State) : State :=
  let ch := fld h 4 8 % 128
  if 64 ≤ ch then bump (.serviceErrors p) 1 s
  else modPort p (fun x => { x with send := tset x.send ch {}, resendq := x.resendq.filter (·.1 != ch) }) s

/-- RESEND_REQ: the sending unit of this module sends the tile again with FLAGS[2] set; at a through-route the request
travels on to the near hop (R210, R390; log entry 16). Beats without credit wait, and nothing newer passes them (R388). -/
def gotResend (p : Nat) (h : Rec64) (s : State) : State :=
  let ch := fld h 4 8 % 128
  let seq := fld h 0x10 8
  let d := Dest.link p ch
  match s.links.ports.findSome? fun q => (q.2.recv.find? fun r => r.2.dest == d).map fun r => (q.1, r.1) with
  | some (q, c) => sendService q (serviceHdr 7 0 0 c seq 0) [] s
  | none =>
    match s.units.findSome? fun ux =>
        (ux.2.outs.findSome? fun o => if o.2.dests.contains d then o.2.kept.find? fun t => fld t.hdr 0x18 8 == seq else none).map
          fun t => (ux.1, t) with
    | some (u, t) =>
      let es := t.beats.zipIdx.map fun b => (ch, Entry.beat b.1 (if b.2 = 0 then some (resentHdr t.hdr) else none))
      if (tgetD (getPort s p).send ch {}).open_ then
        drainResends p (modPort p (fun x => { x with resendq := x.resendq ++ es }) (bump (.resends u) 1 s))
      else s
    | none => s

/-! ## Messages as commands -/

/-- A service message that has arrived on a port: discarded when its header is bad or its OP another, and on a fenced
lifeline (R393, R416). -/
def svcCmd (p : Nat) (op : Nat) (m : Rec64) (f : State → State) (s : State) : State :=
  if (getPort s p).st != .up || (p = 15 && s.ply.fenced) then s
  else if !svcOk p m then bump (.serviceErrors p) 1 s
  else if fld m 0 1 = op then f s
  else s

def execChannelOpen (port : Fin 18) (m : Rec64) (s : State) : Result := .next (svcCmd port.val 0xA m (gotOpen port.val m) s)
def execChannelClose (port : Fin 18) (m : Rec64) (s : State) : Result := .next (svcCmd port.val 0xB m (gotClose port.val m) s)
def execFetchReq (port : Fin 18) (m : Rec64) (mediaError : Bool) (s : State) : Result :=
  .next (svcCmd port.val 1 m (serveFetch port.val m mediaError) s)
def execFetchData (port : Fin 18) (m : Rec64) (bytes : List Byte) (s : State) : Result :=
  .next (svcCmd port.val 2 m (gotFetchData port.val m bytes) s)
def execFetchRefuse (port : Fin 18) (m : Rec64) (s : State) : Result := .next (svcCmd port.val 3 m (gotFetchRefuse port.val m) s)
def execReadData (port : Fin 18) (m : Rec64) (bytes : List Byte) (s : State) : Result :=
  .next (svcCmd port.val 5 m (gotReadData port.val m bytes) s)
def execReadStatus (port : Fin 18) (m : Rec64) (s : State) : Result := .next (svcCmd port.val 6 m (gotReadStatus port.val m) s)
def execResendReq (port : Fin 18) (m : Rec64) (s : State) : Result := .next (svcCmd port.val 7 m (gotResend port.val m) s)

/-! ## Mailbox words from the partner (R365) -/

/-- A mailbox word of the partner enters the channel's queue on this side; one it may not write is counted (R362, R365, R368,
R372). -/
def gotMailWord (c : Nat) (w : BitVec 32) (s : State) : State :=
  if !chUsable s mPartner c then bump .unbound 1 s
  else
    let x := getChan s c
    let o := if c < 4 then chOwner c else chOther x mPartner
    if isOff s o then bump .domainOff 1 s
    else if 4 ≤ c && x.compat && x.lock != mPartner then lockRefusal mPartner c s
    else putWord c (c < 4 || o == x.a) { word := w, src := mPartner, dst := o } s

/-- The mailbox words of a MAILBOX message. -/
def gotMailbox (m : Rec64) (words : List (BitVec 32)) (s : State) : State :=
  words.foldl (fun s w => gotMailWord (fld m 4 8 % 64) w s) s

/-- MAILBOX: words of the ply partner arrive (R393). -/
def execMailbox (port : Fin 18) (m : Rec64) (words : List (BitVec 32)) (s : State) : Result :=
  .next (svcCmd port.val 8 m (gotMailbox m words) s)

end Sys2Proof.Machine
end

