-- ==== Sys2Proof/Machine/Ply.lean ====
section
/-! DEFINITION. The ply pair (R402 to R425): binding, the mirror, commitment, heartbeat, loss, takeover, handover. -/
namespace Sys2Proof.Machine
open Sys2Proof

/-! ## The mirror (R414) -/

def setMirror (i : Nat) (m : Mirror) (s : State) : State := { s with ply := { s.ply with mirror := tset s.ply.mirror i m } }
def modMirror (i : Nat) (f : Mirror → Mirror) (s : State) : State :=
  match tget s.ply.mirror i with
  | some m => setMirror i (f m) s
  | none => s

/-- The hanks of mirrored pages. -/
def pageHanks (l : List (Nat × Nat × Nat × Nat)) : List Nat := (l.map fun p => p.2.2.2 / hankBytes * hankBytes).eraseDups

/-- Free the hanks of a mirror entry. -/
def freeMirrorHanks (m : Mirror) (s : State) : State :=
  (pageHanks m.pages).foldl (fun s a => freeAt a s) (freeAt m.summary (freeAt m.tokenList s))

/-- A mirror entry is freed (R414). -/
def freeMirror (i : Nat) (s : State) : State :=
  match tget s.ply.mirror i with
  | some m => freeMirrorHanks m { s with ply := { s.ply with mirror := tdel s.ply.mirror i } }
  | none => s

/-- The whole mirror of the partner is freed (R405, R416). -/
def freeAllMirrors (s : State) : State :=
  let s := s.ply.mirror.foldl (fun s m => freeMirror m.1 s) s
  dropAlloc .mirror { s with ply := { s.ply with mcat := [], bulk := none, bulkGot := [], rxQ := [] } }

/-- Mirrored pages of page indices from `n` on are freed, with the hanks that hold no other (R413). -/
def trimMirror (n : Nat) (m : Mirror) (s : State) : Mirror × State :=
  let keep := m.pages.filter fun p => p.1 < n
  let gone := (pageHanks m.pages).filter fun a => !(pageHanks keep).contains a
  ({ m with pages := keep }, gone.foldl (fun s a => freeAt a s) s)

/-- Every position below COMMITTED and a summary that is held have come, and no record is missing (R410). -/
def Mirror.whole (m : Mirror) : Bool := !m.broken && m.committed ≤ m.have_ && (!nbit m.mflags.toNat 3 || m.summary != 0)

/-- A place for one more mirrored page: a free 64 KiB of the entry's page hanks that do not lie in T3 (R10). -/
def pageSpot (m : Mirror) : Option Nat :=
  ((pageHanks m.pages).filter (tierOf · != 3)).findSome? fun a => ((List.range 32).map fun n => a + n * 0x10000).find? fun x =>
    !(m.pages.any fun p => p.2.2.2 == x)

/-! ## Pair records -/

/-- A pair record: SLOT 0xFFFF and EPOCH zero (R409). -/
def pairRec (kind : Nat) (body : List (Nat × Nat × Nat)) : Rec64 := mirrorRec kind 0xFFFF 0 body

def sendBind (s : State) : State :=
  lifelineRecs [pairRec 0xA [(8, 1, s.boot.rackPos.toNat), (9, 1, s.ply.partner.toNat)]] [] s

/-- RESYNC for a slot of the partner: RESYNC records sent are counted (R410, R428). -/
def sendResync (i : Nat) (s : State) : State :=
  if lifelineOn s then lifelineRecs [mirrorRec 9 i 0 []] [] (bump .resyncs 1 s) else s

/-- A record is discarded: a mirror error, and RESYNC when its SLOT names one (R410). -/
def mirrorError (i : Nat) (s : State) : State :=
  let s := plyEvent 7 (bump .mirrorErrors 1 s)
  if i < 16384 then sendResync i (modMirror i (fun m => { m with broken := true }) s) else s

/-! ## Changes of state (R402) -/

/-- Requests handed over and not answered end with their CAUSE when the pair leaves BOUND (R420). -/
def endHanded (s : State) : State :=
  (liveSlots s).foldl (fun s i =>
    match (getSlot s i).bind (·.handed) with
    | some c => endNow i c (reasonOf c) (modSlot i (fun x => { x with handed := none }) s)
    | none => s) s

/-- Every token awaiting acknowledgement is committed (R25). -/
def commitEvery (s : State) : State := (liveSlots s).foldl (fun s i => commitAll i s) s

/-- The waiting PLY_BIND completes. -/
def bindDone (status : Nat) (s : State) : State :=
  match s.ply.bindCmd with
  | some id => adminDone id status 0 { s with ply := { s.ply with bindCmd := none } }
  | none => s

/-- The pair becomes UNBOUND: mirror freed, nothing owed. A PLY_BIND still waiting ends (log entry 26). -/
def unbind (code : Nat) (s : State) : State :=
  let s := freeAllMirrors (commitEvery s)
  let s := plyEvent code s
  bindDone stBad (syncPartner { s with ply := { s.ply with
    st := .unbound, fenced := false, partner := 0xFF, standby := 0, kvThreshold := 0, owner := none, unacked := [],
    outQ := [], sentSync := false, gotSync := false, syncLeft := 0, missed := 0, takeoverDue := false } })

/-- The waiting PLY_RELEASE completes. -/
def releaseDone (s : State) : State :=
  match s.ply.relCmd with
  | some id => adminDone id stDone 0 { s with ply := { s.ply with relCmd := none } }
  | none => s

/-- What acknowledgement and the partner's records let happen: SYNCING becomes BOUND once SYNC_DONE has gone both ways and
the partner has acknowledged everything sent up to it (R402, R404), RELEASING UNBOUND once it has acknowledged every record
(R405). -/
def pairSettle (s : State) : State :=
  match s.ply.st with
  | .syncing =>
    if s.ply.sentSync && s.ply.gotSync && s.ply.syncLeft == 0 then
      bindDone stDone (plyEvent 0 { s with ply := { s.ply with st := .bound } })
    else s
  | .releasing => if s.ply.unacked.isEmpty && s.ply.outQ.isEmpty then releaseDone (unbind 4 s) else s
  | _ => s

/-- BIND came from the named partner: SYNCING, with the catalogue, a snapshot of every GEN and RESUME, and SYNC_DONE
(R404). Its own BIND goes first, for a partner that bound later (log entry 26). -/
def enterSyncing (s : State) : State :=
  let s := { s with ply := { s.ply with st := .syncing }, slots := tmap s.slots fun _ x => { x with kvSkip := false } }
  let s := sendBind s
  let s := (s.catalogue.filter (·.valid)).foldl (fun s e => catalogueNote e false s) s
  let s := (liveSlots s).foldl (fun s i => if (getSlot s i).any (·.generates) then snapshot i s else s) s
  let s := lifelineRecs [pairRec 0xB []] [] s
  syncPartner { s with ply := { s.ply with sentSync := true, syncLeft := s.ply.unacked.length + s.ply.outQ.length } }

/-- RELEASING (R405): handed requests end as the pair leaves BOUND. -/
def enterReleasing (s : State) : State := endHanded { s with ply := { s.ply with st := .releasing } }

/-! ## Adoption (R417, R418, R420) -/

/-- A panel is eligible for a mirrored request (R406). -/
def eligible (s : State) (m : Mirror) (p : Nat) : Bool :=
  nbit s.ply.standby.toNat p &&
  match getPanel s p with
  | none => false
  | some y =>
    match y.cast with
    | none => false
    | some c =>
      y.gen && ((y.st == .ready && c.wversion == m.wversion) || (y.st == .swapping && c.admission == m.wversion))
        && c.model == m.model && c.img.pat.stepLink.isSome && m.prompt + m.maxNew ≤ limitOf s p
        && (match catFind s m.model m.wversion with
          | none => false
          | some e => (s.ply.mcat.find? fun k => k.1 == m.model && k.2.1 == m.wversion).any fun k =>
              k.2.2.2.toNat == imageDigest e.img)

/-- The lowest eligible panel. -/
def eligiblePanel (s : State) (m : Mirror) : Option Nat := (List.range 16).find? (eligible s m)

/-- FLAGS of the stream records of an adopted request (R306, R418). -/
def adoptFlags (m : Mirror) (final noToken : Bool) (reason : Nat) : Nat :=
  b2n final + 2 * b2n (nbit m.mflags.toNat 2) + 4 + 8 * b2n noToken + 16 * b2n (nbit m.mflags.toNat 1)
    + 256 * (if final then reason else 0)

/-- The mirrored generated tokens that a takeover streams: from PROMPT, as far as they have come. -/
def mirrorRecords (s : State) (m : Mirror) : List (BitVec 128) :=
  (upto m.prompt (min m.committed m.have_ - m.prompt)).map fun k =>
    streamRec m.reqId.toNat (rdNat s (m.tokenList + 4 * k) 4) k (adoptFlags m false false 0)
      (rdNat s (m.tokenList + 0x100000 + 2 * k) 2)

/-- The end record of an adopted request. -/
def mirrorEnd (m : Mirror) (reason : Nat) : BitVec 128 :=
  streamRec m.reqId.toNat 0xFFFFFFFF m.committed (adoptFlags m true true reason) 0xFC00

/-- end_adopted (R417): the mirrored records, an end record with reason 9 and then a completion without a slot. -/
def endAdopted (i status : Nat) (s : State) : State :=
  match tget s.ply.mirror i with
  | none => s
  | some m =>
    let recs := mirrorRecords s m
    let s := recs.foldl (fun s r => pushTakeover (.stream r none false) s) s
    let flags := b2n (nbit m.mflags.toNat 2) + 2 + 4 * b2n (nbit m.mflags.toNat 1) + 256 * 9
    let s := pushTakeover (.paused (mirrorEnd m 9) 0
      (complBody m.reqId.toNat 0xFFFF m.submitRing status m.opcode flags recs.length 0) .command []) s
    bump .adoptionsEnded 1 (freeMirror i s)

/-- Mirrored KV pages move into the page pool of the panel as pages 0 on of the slot (R417); the number of page indices
moved. A page header is as R224 states. A mirrored page that holds no datum leaves its page homeless (R189). -/
def adoptPages (p i : Nat) (m : Mirror) : (fuel : Nat) → (j : Nat) → State → Nat × State
  | 0, j, s => (j, s)
  | n + 1, j, s =>
    match kvOf s p with
    | none => (j, s)
    | some k =>
      match takePages p i j s with
      | (false, s) => (j, s)
      | (true, s) =>
        let s := (lgPairs k).foldl (fun s lg =>
          match getCast s p, m.pages.find? (fun q => q.1 == j && q.2.1 == lg.1 && q.2.2.1 == lg.2) with
          | some c, some q =>
            let pg := pageEntry s k (rootAddr c i) lg.1 lg.2 j
            match pageAddr c pg with
            | none => s
            | some a =>
              let l := rd s q.2.2.2 0x10000
              let (f, s) := nextTile p (stackOf a) s
              let s := if homeAll s q.2.2.2 0x10000 then s else makeHomeless a 0x10000 s
              let h : Rec64 := sealRec (recOf 512 [(0, 1, 1), (1, 1, k.kvfmt), (2, 1, 0xF), (4, 2, k.tp), (6, 2, 256),
                (8, 4, k.scale.toNat), (0xC, 2, stackOf a), (0xE, 1, 1), (0xF, 1, p),
                (0x10, 4, k.tensorBase.toNat + lg.1 * k.groups + lg.2), (0x14, 4, j), (0x18, 8, f % 2 ^ 64),
                (0x38, 4, crc32c l)])
              wr (pageHdrAddr c k pg) (recBytes h) (wr a l s)
          | _, _ => s) s
        adoptPages p i m n (j + 1) s

/-- Page indices of which every page of a panel's layers and groups is mirrored, from 0 on (R413). -/
def kvHeld (s : State) (p : Nat) (m : Mirror) : Nat :=
  match kvOf s p with
  | none => 0
  | some k =>
    let full (j : Nat) : Bool := (lgPairs k).all fun lg => m.pages.any fun q => q.1 == j && q.2.1 == lg.1 && q.2.2.1 == lg.2
    ((List.range (m.pages.length + 1)).takeWhile full).length

/-- The slot state of an ended or running mirror. -/
def mirrorSt (m : Mirror) : SlotSt :=
  if m.st = 6 then .done else if m.st = 7 then .aborted else if m.st = 4 then .paused else .queued

/-- One mirrored request is adopted into a slot (R417). PANEL of a request that has ended or is paused is not stated, nor
RING and STREAM_RING while no ring of the type is enabled with TAKEOVER set: free values (log entry 3). -/
def adoptInto (i slot p : Nat) (m : Mirror) (s : State) : State :=
  let recs := mirrorRecords s m
  let (r2, s) := freeNat s
  let (r3, s) := freeNat s
  let x : Slot :=
    { st := mirrorSt m, opcode := m.opcode, cls := 1, prio := m.prio, effective := m.prio, panel := p, homePanel := p,
      client := m.client, fallback := nbit m.mflags.toNat 2, pausePending := m.st == 5 || nbit m.mflags.toNat 4,
      noDeadline := nbit m.mflags.toNat 0, takeover := true, resumed := nbit m.mflags.toNat 1, committed := m.committed,
      prompt := m.prompt, maxNew := m.maxNew, deadline := m.deadline, acceptedAt := m.deadline - m.budget,
      stopSet := m.stopSet, reqId := m.reqId, model := m.model, wversion := m.wversion, served := m.wversion,
      seed := m.seed, positions := m.positions, tokenList := m.tokenList, summary := m.summary, status := m.status, reason := m.reason, submitRing := m.submitRing,
      ring := (takeoverRing s 2).getD (r2 % 16), streamRing := (takeoverRing s 3).getD (r3 % 16),
      budget := m.budget, promptReady := true, streamed := m.committed - m.prompt }
  let c := tgetD s.clients x.client {}
  let s := { s with clients := tset s.clients x.client { accepted := c.accepted + 1, inFlight := c.inFlight + 1 } }
  let s := bump .adopted 1 (setSlot slot x s)
  let s := recs.foldl (fun s r => pushStream slot r false s) s
  let s :=
    match x.st with
    | .done | .aborted => pushStream slot (mirrorEnd m m.reason) true (modSlot slot (fun x => { x with pausePending := false }) s)
    | .paused =>
      let flags := b2n x.fallback + 2 + 4 * b2n x.resumed + 256 * 6
      pushTakeover (.completion (complBody m.reqId.toNat slot m.submitRing stDoneTakeover 3 flags 0 0) .command [])
        (modSlot slot (fun x => { x with pausePending := false }) s)
    | _ =>
      match kvHeld s p m with
      | 0 => s
      | n =>
        let (j, s) := adoptPages p slot m n 0 s
        match getCast s p, kvOf s p with
        | some c, some k =>
          if j = 0 then s
          else
            let len := min (j * k.tp) (m.committed - 1)
            modSlot slot (fun x => { x with pageList := rootAddr c slot, length := len, fed := true })
              (writeRootPages (rootAddr c slot) j s)
        | _, _ => s
  let s := (pageHanks m.pages).foldl (fun s a => freeAt a s) s
  let s := { s with ply := { s.ply with mirror := tdel s.ply.mirror i } }
  snapshot slot s

/-- The panel of an adopted request: none needed when it has ended or is paused (R417). -/
def adoptPanel (s : State) (m : Mirror) : Option Nat :=
  if mirrorSt m == .queued then eligiblePanel s m else some (Config.freeValue s.freeCtr % 16)

/-- The mirrored pages of an entry that lie in T3: they come back by moves before they are taken over (R10, R202). -/
def farPages (m : Mirror) : List Nat := (pageHanks m.pages).filter (tierOf · = 3)

/-- What the adoption of an entry into a slot waits for: the return of its pages from T3, or the release of the pages that
an earlier request of the slot held (R202, R242). -/
def adoptWaits (i slot : Nat) (m : Mirror) (s : State) : Option State :=
  if mirrorSt m != .queued then none
  else if !(farPages m).isEmpty then
    some ((farPages m).foldl (fun s a => submitReturn (s.ply.owner.getD 0xFF) mirrorArea (i * 2 ^ 48 + a) a true s) s)
  else if s.panels.any (fun q => q.2.cast.any fun c => c.releases.any (·.slot == slot)) then some s
  else none

/-- One mirror entry at a takeover (R417): whether it was adopted, `none` while it waits. -/
def adoptOne (i : Nat) (s : State) : Option Bool × State :=
  match tget s.ply.mirror i with
  | none => (some false, s)
  | some m =>
    match firstGap s.slots 0 16384 with
    | none => (some false, endAdopted i stNoSlot s)
    | some slot =>
      if !m.whole then (some false, endAdopted i stPanelDown s)
      else
        match adoptPanel s m with
        | none => (some false, endAdopted i stPanelDown s)
        | some p =>
          match adoptWaits i slot m s with
          | some s => (none, s)
          | none => (some true, adoptInto i slot p m { s with freeCtr := s.freeCtr + 1 })

/-- LOST and PLY_RELEASE: the fence is lifted and the mirror freed, also one whose takeover is still due (R405). -/
def releaseLost (s : State) : State := unbind 4 s

/-- Mirror entries are taken over in ascending order, as far as none waits; whether all have been. -/
def takeoverAll : List Nat → State → Bool × State
  | [], s => (true, s)
  | i :: t, s =>
    match adoptOne i s with
    | (none, s) => (false, s)
    | (some ok, s) =>
      takeoverAll t { s with ply := { s.ply with
        adopted := s.ply.adopted + BitVec.ofNat 16 (b2n ok), ended := s.ply.ended + BitVec.ofNat 16 (b2n (!ok)) } }

/-- TAKEOVER: every mirror entry in ascending order (R417, R419); it goes on at the next TAKEOVER where one waits for its
pages. A PLY_RELEASE that was waiting then acts in LOST. -/
def execTakeover (s : State) : Result :=
  .next (if !s.ply.takeoverDue then s
    else
      match takeoverAll (s.ply.mirror.map (·.1)) s with
      | (false, s) => s
      | (true, s) =>
        let s := healthNotice (plyEvent 3 { s with ply := { s.ply with takeoverDue := false } })
        if s.ply.relCmd.isSome then releaseDone (releaseLost s) else s)

/-- HANDOVER at the partner: a takeover of one slot, answered (R420); `false` while its pages are waited for. A request that
cannot be adopted is refused. -/
def gotHandover (i : Nat) (s : State) : Bool × State :=
  let reply (ok : Bool) (s : State) : Bool × State := (true, lifelineRecs [mirrorRec 7 i 0 [(8, 1, b2n ok)]] [] s)
  match tget s.ply.mirror i with
  | none => reply false s
  | some m =>
    match firstGap s.slots 0 16384, adoptPanel s m with
    | some slot, some p =>
      if m.whole then
        match adoptWaits i slot m s with
        | some s => (false, s)
        | none =>
          let s := adoptInto i slot p m { s with freeCtr := s.freeCtr + 1 }
          reply true (plyEvent 6 { s with ply := { s.ply with adopted := 1, ended := 0 } })
      else reply false s
    | _, _ => reply false s

/-- HANDOVER_REPLY at the origin (R420). -/
def gotReply (i accepted : Nat) (s : State) : State :=
  match (getSlot s i).bind (·.handed) with
  | none => s
  | some cause =>
    let s := modSlot i (fun x => { x with handed := none }) s
    if accepted = 1 then plyEvent 5 (bump .handoversOut 1 (endNow i stDoneTakeover 10 s))
    else endNow i cause (reasonOf cause) (bump .handoversRefused 1 s)

/-! ## Receiving records (R409, R410) -/

def mrKind (r : Rec64) : Nat := fld r 0 1
def mrSlot (r : Rec64) : Nat := fld r 2 2
def mrEpoch (r : Rec64) : Nat := fld r 4 4

/-- The fields of each kind's body: offset and size. -/
def mrLayout : Nat → Option (List (Nat × Nat))
  | 1 => some [(8, 0x33)]
  | 2 => some [(8, 5), (0x10, 44)]
  | 3 => some [(8, 5), (0x10, 42)]
  | 4 => some [(8, 6), (0x10, 0x20)]
  | 5 => some [(8, 1), (0xC, 0xE)]
  | 6 => some [(8, 1)]
  | 7 => some [(8, 1)]
  | 8 => some [(8, 0x34)]
  | 0xA => some [(8, 2)]
  | 9 | 0xB | 0xC => some []
  | _ => none

/-- SLOT and EPOCH of a kind: pair and catalogue records carry 0xFFFF and zero; RESYNC and HANDOVER_REPLY name the
receiver's slot. -/
def mrHeadOk (r : Rec64) : Bool :=
  let k := mrKind r
  if k = 8 || k = 0xA || k = 0xB || k = 0xC then mrSlot r == 0xFFFF && mrEpoch r == 0
  else if k = 7 || k = 9 then mrSlot r < 16384 && mrEpoch r == 0
  else mrSlot r < 16384

/-- Values of a body are defined (R409). -/
def mrValuesOk (r : Rec64) : Bool :=
  match mrKind r with
  | 1 => (fld r 8 1 == 2 || fld r 8 1 == 4) && fld r 9 1 < 16 && fld r 0x38 2 < 32 && 1 ≤ fld r 0x3A 1 && fld r 0x3A 1 ≤ 7
  | 2 => 1 ≤ fld r 0xC 1 && fld r 0xC 1 ≤ 11 && fld r 8 4 + fld r 0xC 1 ≤ 262144
  | 3 => 1 ≤ fld r 0xC 1 && fld r 0xC 1 ≤ 7 && fld r 8 4 + fld r 0xC 1 ≤ 262144
  | 4 => fld r 8 1 ≤ 7 && fld r 0xB 1 < 16 && fld r 0xC 2 < 32
  | 5 => fld r 8 1 == 1 || fld r 8 1 == 2
  | 7 => fld r 8 1 ≤ 1
  | 8 => fld r 0x18 4 < 4
  | _ => true

/-- A record passes: CRC, reserved bytes, defined values. -/
def mrOk (r : Rec64) : Bool :=
  recOk r && fld r 1 1 == 0 && mrHeadOk r &&
  (match mrLayout (mrKind r) with
    | some fs => ((r.toNat % 2 ^ 480) >>> 64 <<< 64) ||| coverMask fs == coverMask fs
    | none => false) && mrValuesOk r

/-- The local deadline: now plus LEFT_US (R417). -/
def localDeadline (s : State) (left : Nat) : BitVec 32 := BitVec.ofNat 32 (s.us + left)

/-- OPEN (R410): applied at any epoch; a new entry takes a pinned token-list hank (R414). `false` while it waits. -/
def applyOpen (r : Rec64) (s : State) : Bool × State :=
  let i := mrSlot r
  let old := tgetD s.ply.mirror i {}
  let keep : Bool := nbit (fld r 0x38 2) 3
  let fill (tl : Nat) (s : State) : State :=
    let s := if keep then s else freeAt old.summary s
    setMirror i
      { old with
        broken := false, have_ := 0, epoch := BitVec.ofNat 32 (mrEpoch r), opcode := fld r 8 1,
        prio := BitVec.ofNat 4 (fld r 9 1), client := fld r 0xA 2, reqId := BitVec.ofNat 32 (fld r 0xC 4),
        model := BitVec.ofNat 32 (fld r 0x10 4), wversion := BitVec.ofNat 32 (fld r 0x14 4),
        seed := BitVec.ofNat 64 (fld r 0x18 8), maxNew := fld r 0x20 4, prompt := fld r 0x24 4, committed := fld r 0x28 4,
        budget := BitVec.ofNat 32 (fld r 0x2C 4), deadline := localDeadline s (fld r 0x30 4), stopSet := fld r 0x34 2,
        submitRing := fld r 0x36 2, mflags := BitVec.ofNat 16 (fld r 0x38 2), st := fld r 0x3A 1, status := 0, reason := 0,
        tokenList := tl, summary := if keep then old.summary else 0
        positions := if keep then old.positions else 0 } s
  if old.tokenList != 0 then (true, fill old.tokenList s)
  else
    match allocTry .mirror 2 s.ply.owner true s with
    | (.got k, s) => (true, fill (hankAddr k) s)
    | (_, s) => (false, s)

/-- TOKENS and GENERATED: token IDs, and for GENERATED log-probabilities and COMMITTED (R409, R414). -/
def applyTokens (r : Rec64) (gen : Bool) (s : State) : State :=
  match tget s.ply.mirror (mrSlot r) with
  | none => s
  | some m =>
    let a := fld r 8 4
    let n := fld r 0xC 1
    let w := if gen then 6 else 4
    let s := (List.range n).foldl (fun s k =>
      let s := wr (m.tokenList + 4 * (a + k)) (bytesOf 4 (fld r (0x10 + w * k) 4)) s
      if gen then wr (m.tokenList + 0x100000 + 2 * (a + k)) (bytesOf 2 (fld r (0x14 + w * k) 2)) s else s) s
    setMirror (mrSlot r)
      { m with have_ := max m.have_ (a + n), committed := if gen then max m.committed (a + n) else m.committed } s

/-- STATE: the entry's fields, or its freeing (R409, R414); pages above KV_PAGES are freed (R413). Tokens that GENERATED
records have brought stay: their commitment awaits this module's own acknowledgement (R411, R418). -/
def applyState (r : Rec64) (s : State) : State :=
  let i := mrSlot r
  match tget s.ply.mirror i with
  | none => s
  | some m =>
    if fld r 8 1 = 0 then freeMirror i s
    else
      let (m, s) := trimMirror (fld r 0x14 4) m s
      setMirror i
        { m with
          st := fld r 8 1, status := fld r 9 1, reason := fld r 0xA 1, prio := BitVec.ofNat 4 (fld r 0xB 1),
          mflags := BitVec.ofNat 16 (fld r 0xC 2), committed := max m.committed (fld r 0x10 4), kvPages := fld r 0x14 4,
          budget := BitVec.ofNat 32 (fld r 0x18 4), deadline := localDeadline s (fld r 0x1C 4), maxNew := fld r 0x20 4,
          stopSet := fld r 0x24 2, submitRing := fld r 0x26 2, model := BitVec.ofNat 32 (fld r 0x28 4),
          wversion := BitVec.ofNat 32 (fld r 0x2C 4) } s

/-- CATALOGUE: the mirror of the partner's catalogue (R406). -/
def applyCatalogue (r : Rec64) (s : State) : State :=
  let m := BitVec.ofNat 32 (fld r 8 4)
  let w := BitVec.ofNat 32 (fld r 0xC 4)
  let l := s.ply.mcat.filter fun k => !(k.1 == m && k.2.1 == w)
  let l := if fld r 0x18 4 = 1 then l ++ [(m, w, BitVec.ofNat 64 (fld r 0x10 8), BitVec.ofNat 256 (fld r 0x1C 32))] else l
  { s with ply := { s.ply with mcat := l } }

/-- BIND: from the named partner in BINDING (R403, R404). -/
def gotBind (r : Rec64) (s : State) : State :=
  if s.ply.st == .binding && fld r 8 1 == s.ply.partner.toNat && fld r 9 1 == s.boot.rackPos.toNat then enterSyncing s else s

/-- States in which the partner's slot and catalogue records are applied. -/
def takesRecords (s : State) : Bool := s.ply.st == .syncing || s.ply.st == .bound || s.ply.st == .releasing

/-- The slot kinds that keep the epoch rule: OPEN sets the epoch, the others follow it (R410). -/
def epochKind (k : Nat) : Bool := 1 ≤ k && k ≤ 6

/-- What a good record does, by its kind; `false` while a HANDOVER waits for its pages. In RELEASING no HANDOVER is acted on,
for nothing answers it (R402). -/
def recEffect (r : Rec64) (s : State) : Bool × State :=
  let i := mrSlot r
  match mrKind r with
  | 1 => applyOpen r s
  | 2 => (true, applyTokens r false s)
  | 3 => (true, applyTokens r true s)
  | 4 => (true, applyState r s)
  | 5 =>
    let b : BulkWait := { slot := i, what := fld r 8 1, bytes := fld r 0xC 4, dcrc := fld r 0x10 4,
                          page := fld r 0x14 4, layer := fld r 0x18 1, group := fld r 0x19 1 }
    (true, { s with ply := { s.ply with bulk := some b, bulkGot := [] } })
  | 6 =>
    if s.ply.st == .releasing then (true, s)
    else
      match gotHandover i s with
      | (true, s) => (true, s)
      | (false, s) => (false, modMirror i (fun m => { m with epoch := m.epoch - 1 }) s)
  | 7 => (true, gotReply i (fld r 8 1) s)
  | 8 => (true, applyCatalogue r s)
  | 9 => (true, snapshot i s)
  | 0xB => (true, pairSettle { s with ply := { s.ply with gotSync := true } })
  | _ => (true, if s.ply.st == .bound || s.ply.st == .syncing then enterReleasing s else s)

/-- Apply one record; `false` while it waits for a hank (R414) or for the pages of a HANDOVER. -/
def applyRec (r : Rec64) (s : State) : Bool × State :=
  let k := mrKind r
  let i := mrSlot r
  if k = 0 then (true, s)
  else if !mrOk r then (true, mirrorError i s)
  else if k = 0xA then (true, gotBind r s)
  else if !takesRecords s then (true, s)
  else
    -- a record message may not come between a BULK record and its bytes (R409)
    let s := match s.ply.bulk with
      | some b => mirrorError b.slot { s with ply := { s.ply with bulk := none, bulkGot := [] } }
      | none => s
    if epochKind k && k != 1 && (match tget s.ply.mirror i with
        | some m => (m.epoch + 1).toNat != mrEpoch r
        | none => true) then
      (true, mirrorError i s)
    else
      let s := if epochKind k && k != 1 then modMirror i (fun m => { m with epoch := BitVec.ofNat 32 (mrEpoch r) }) s else s
      recEffect r s

/-- Place bulk bytes that have all come (R409, R413, R414); `false` while a hank is waited for. -/
def placeBulk (b : BulkWait) (l : List Byte) (s : State) : Bool × State :=
  match tget s.ply.mirror b.slot with
  | none => (true, s)
  | some m =>
    if crc32c l != b.dcrc then (true, mirrorError b.slot s)
    else if b.what = 1 then
      let put (a : Nat) (s : State) : State :=
        touch a l.length (wr a l (setMirror b.slot { m with summary := a, positions := natOf ((l.drop 0xC).take 4) } s))
      if m.summary != 0 && tierOf m.summary != 3 then (true, put m.summary s)
      else
        match allocTry .mirror 2 s.ply.owner false s with
        | (.got k, s) => (true, put (hankAddr k) (freeAt m.summary s))
        | (_, s) => (false, s)
    else
      let others := m.pages.filter fun q => !(q.1 == b.page && q.2.1 == b.layer && q.2.2.1 == b.group)
      let put (a : Nat) (s : State) : State :=
        touch a l.length (wr a l (setMirror b.slot { m with pages := others ++ [(b.page, b.layer, b.group, a)] } s))
      let here := (m.pages.find? fun q => q.1 == b.page && q.2.1 == b.layer && q.2.2.1 == b.group).map (·.2.2.2)
      match here.filter (tierOf · != 3), pageSpot m with
      | some a, _ => (true, put a s)
      | none, some a => (true, put a s)
      | none, none =>
        match allocTry .mirror 2 s.ply.owner false s with
        | (.got k, s) => (true, put (hankAddr k) s)
        | (_, s) => (false, s)

/-- Bulk bytes arrive; when those announced have all come they are placed. -/
def feedBulk (l : List Byte) (s : State) : Bool × State :=
  match s.ply.bulk with
  | none => (true, s)
  | some b =>
    let got := s.ply.bulkGot ++ l
    let s := { s with ply := { s.ply with bulkGot := got } }
    if got.length < cdiv b.bytes 4096 * 4096 then (true, s)
    else
      match placeBulk b (got.take b.bytes) s with
      | (true, s) => (true, { s with ply := { s.ply with bulk := none, bulkGot := [] } })
      | (false, s) => (false, s)

/-- A change of the queue of data received. -/
def setRxQ (q : List (Option (BitVec 16) × Bool × List Byte)) (s : State) : State := { s with ply := { s.ply with rxQ := q } }

/-- The first message received has been wholly applied: a data message is acknowledged (R408). -/
def popRx (tag : Option (BitVec 16)) (s : State) : State :=
  let s := setRxQ s.ply.rxQ.tail s
  match tag with
  | some g => lifelineMsg false [] [] { s with ply := { s.ply with rxTag := g } }
  | none => s

/-- The queue with the first record of its first message taken. -/
def dropRec : List (Option (BitVec 16) × Bool × List Byte) → List (Option (BitVec 16) × Bool × List Byte)
  | (g, b, l) :: t => (g, b, l.drop 64) :: t
  | [] => []

/-- Apply what has been received, in order, as far as allocation allows; a data message wholly applied is acknowledged
(R408, R411, R414). -/
def pumpRx : (fuel : Nat) → State → State
  | 0, s => s
  | n + 1, s =>
    match s.ply.rxQ with
    | [] => s
    | (tag, bulk, l) :: t =>
      if bulk then
        match feedBulk l s with
        | (true, s) => pumpRx n (popRx tag s)
        | (false, s) => setRxQ ((tag, true, []) :: t) s
      else if l.isEmpty then pumpRx n (popRx tag s)
      else
        match applyRec (BitVec.ofNat 512 (natOf (l.take 64))) s with
        | (true, s) => pumpRx n (setRxQ (dropRec s.ply.rxQ) s)
        | (false, s) => s

/-- Enough steps to apply everything received. -/
def rxFuel (s : State) : Nat := s.ply.rxQ.foldl (fun a m => a + m.2.2.length / 64 + 2) 1

/-- Data of the partner arrives and is applied as far as possible. -/
def receive (tag : Option (BitVec 16)) (bulk : Bool) (l : List Byte) (s : State) : State :=
  let s := { s with ply := { s.ply with rxQ := s.ply.rxQ ++ [(tag, bulk, l)] } }
  pairSettle (pumpRx (rxFuel s) s)

/-! ## LIFELINE messages (R408, R411, R415) -/

/-- The pair exchanges messages. -/
def paired (s : State) : Bool := s.ply.st == .binding || takesRecords s

/-- An ACK covers every data message up to its TAG: tokens they carry are committed (R23, R411). -/
def gotAck (ack : Nat) (s : State) : State :=
  if !(s.ply.unacked.any fun u => u.tag.toNat == ack) then s
  else
    let upTo := s.ply.unacked.takeWhile fun u => u.tag.toNat != ack
    let last := (s.ply.unacked.drop upTo.length).take 1
    let toks := (upTo ++ last).flatMap (·.toks)
    let n := upTo.length + 1
    let s := { s with ply := { s.ply with unacked := s.ply.unacked.drop n, syncLeft := s.ply.syncLeft - n } }
    let s := toks.foldl (fun s t =>
      match getSlot s t.1 with
      | some x => if x.committed = t.2 && !x.sampled.isEmpty then commitOne t.1 s else s
      | none => s) s
    pairSettle (lifelineDrain s.ply.outQ.length s)

/-- A LIFELINE header is legal (R408). -/
def lifelineHdrOk (h : Rec64) : Bool :=
  let len := fld h 0x18 8
  fld h 0xA 2 == 0 && fld h 0x10 8 < 2 && (len == 0 || (4096 ≤ len && len ≤ 65536))

/-- The data of a message is the next in order; in BINDING any TAG may be the first (log entry 26). -/
def tagNext (s : State) (tag : BitVec 16) : Bool := s.ply.st == .binding || tag == s.ply.rxTag + BitVec.ofNat 16 ((s.ply.rxQ.filter (·.1.isSome)).length + 1)

/-- A LIFELINE message arrives: a beat, an acknowledgement, and perhaps data (R408, R415). -/
def gotLifeline (h : Rec64) (data : List Byte) (s : State) : State :=
  if !lifelineHdrOk h || data.length != fld h 0x18 8 then bump (.serviceErrors 15) 1 s
  else if !paired s then s
  else
    let s := { s with ply := { s.ply with beatAt := s.us, missed := 0 } }
    let s := gotAck (fld h 8 2) s
    if data.isEmpty || !paired s then s
    else
      let tag := BitVec.ofNat 16 (fld h 2 2)
      if tagNext s tag then receive (some tag) (nbit (fld h 0x10 8) 0) data s
      else plyEvent 7 (bump .mirrorErrors 1 s)

/-- LIFELINE: a message with its records, or its bulk bytes (R408). -/
def execLifeline (port : Fin 18) (m : Rec64) (records : List Rec64) (bulk : List Byte) (s : State) : Result :=
  .next (svcCmd port.val 9 m
    (gotLifeline m (if nbit (fld m 0x10 8) 0 then bulk else records.flatMap recBytes)) s)

/-- A mirror record that arrives by itself, on an unfenced lifeline. -/
def gotRec (kind : Nat) (r : Rec64) (bulk : List Byte) (s : State) : State :=
  if !paired s || s.ply.fenced || (getPort s 15).st != .up || mrKind r != kind then s
  else
    let s := receive none false (recBytes r) s
    if bulk.isEmpty then s else receive none true (pad4k bulk) s

def execBindRec (r : Rec64) (s : State) : Result := .next (gotRec 0xA r [] s)
def execSyncDone (r : Rec64) (s : State) : Result := .next (gotRec 0xB r [] s)
def execReleaseRec (r : Rec64) (s : State) : Result := .next (gotRec 0xC r [] s)
def execOpenRec (r : Rec64) (s : State) : Result := .next (gotRec 1 r [] s)
def execTokens (r : Rec64) (s : State) : Result := .next (gotRec 2 r [] s)
def execGenerated (r : Rec64) (s : State) : Result := .next (gotRec 3 r [] s)
def execStateRec (r : Rec64) (s : State) : Result := .next (gotRec 4 r [] s)
def execBulk (r : Rec64) (bytes : List Byte) (s : State) : Result := .next (gotRec 5 r bytes s)
def execCatalogueRec (r : Rec64) (s : State) : Result := .next (gotRec 8 r [] s)
def execResync (r : Rec64) (s : State) : Result := .next (gotRec 9 r [] s)
def execHandover (r : Rec64) (s : State) : Result := .next (gotRec 6 r [] s)
def execHandoverReply (r : Rec64) (s : State) : Result := .next (gotRec 7 r [] s)

/-! ## Heartbeat and loss (R415, R416) -/

/-- HEARTBEAT_SEND: a message with BEAT one higher (R415). Records that waited for a hank are tried again (R414). -/
def execHeartbeatSend (s : State) : Result :=
  .next (if !s.power.on || !paired s then s
    else
      let s := lifelineMsg false [] [] s
      pairSettle (pumpRx (rxFuel s) s))

/-- MISSED_BEAT: each 10 µs of module time that passes without a message counts one, from the last message on, or from
PLY_BIND on while none has come (R415). -/
def execMissedBeat (s : State) : Result :=
  .next (if !paired s || s.us < s.ply.beatAt + 10 then s
    else bump .missedBeats 1 { s with ply := { s.ply with missed := s.ply.missed + 1, beatAt := s.ply.beatAt + 10 } })

/-- LIFELINE messages that wait in port 15 are dropped; one of which the first beat has gone is sent to its end, for the
messages after it to be found (R416; log entry 95). The ends of fetches being served move up with it. -/
def dropLifeline (s : State) : State :=
  modPort 15 (fun x =>
    let keep := txKeep x.txMid true x.txq
    { x with
      txq := (x.txq.zip keep).filterMap fun b => if b.2 then some b.1 else none
      served := x.served.map fun n => ((keep.take n).filter (· == true)).length }) s

/-- PARTNER_LOST: after ten missed beats (R416). -/
def execPartnerLost (s : State) : Result :=
  .next (if !paired s || s.ply.missed < 10 then s
    else
      let was := s.ply.st
      let s := bump .partnersLost 1 (dropLifeline
        { s with ply := { s.ply with st := .lost, fenced := true, unacked := [], outQ := [], missed := 0 } })
      let s := endHanded (commitEvery s)
      let s := syncPartner (plyEvent 2 s)
      if was == .bound || was == .releasing then
        healthNotice { s with ply := { s.ply with
          takeoverDue := true, adopted := 0, ended := 0, rxQ := [], bulk := none, bulkGot := [] } }
      else bindDone stBad (freeAllMirrors s))

/-! ## PLY_BIND and PLY_RELEASE (R403, R405) -/

/-- The checks of R403 and the owner of the mirror hanks (R414). -/
def bindOwner (s : State) (d : Rec64) : Option (Option Nat) :=
  let st := fld d 0x10 2
  if !(moduleGroups s).isEmpty then some none
  else ((maskBits 16 st).find? fun p => (getPanel s p).isSome).map some

def bindOk (s : State) (d : Rec64) : Bool :=
  let p := dPanel d
  s.ply.st == .unbound && p < 64 && p != s.boot.rackPos.toNat && (getPort s 15).st == .up && (getPort s 15).peer.toNat == p
    && (takeoverRing s 2).isSome && (takeoverRing s 3).isSome && (bindOwner s d).isSome

def runPlyBind (id : Nat) (d : Rec64) (s : State) : State :=
  if !bindOk s d then adminDone id stBad 0 s
  else
    let s := { s with ply := { s.ply with
      st := .binding, partner := BitVec.ofNat 8 (dPanel d), standby := BitVec.ofNat 16 (fld d 0x10 2),
      kvThreshold := fld d 0xC 4, owner := (bindOwner s d).getD none, bindCmd := some id, bindAt := s.us, beatAt := s.us,
      missed := 0, sentSync := false, gotSync := false, syncLeft := 0, unacked := [], outQ := [] } }
    sendBind (syncPartner s)

/-- BIND_TIMEOUT: 10 s without a BIND naming this module (R403). -/
def execBindTimeout (s : State) : Result :=
  .next (if s.ply.st == .binding && s.ply.bindAt + 10000000 ≤ s.us then bindDone stBad (unbind 1 s) else s)

def runPlyRelease (id : Nat) (_d : Rec64) (s : State) : State :=
  match s.ply.st with
  | .bound =>
    let s := lifelineRecs [pairRec 0xC []] [] s
    pairSettle (enterReleasing { s with ply := { s.ply with relCmd := some id } })
  | .releasing => { s with ply := { s.ply with relCmd := some id } }
  | .lost => adminDone id stDone 0 (releaseLost s)
  | _ => adminDone id stBad 0 s

end Sys2Proof.Machine
end

