-- ==== Sys2Proof/Machine/Flits.lean ====
section
/-! DEFINITION. DATA flits (R386): their slots, and the service messages of channel 64 (R393) handed to their handlers. -/
namespace Sys2Proof.Machine
open Sys2Proof

/-- A whole service message goes to its handler; a fenced lifeline discards it (R393, R416). MAILBOX carries its word in
OFFSET (log entry 27). -/
def svcDispatch (p : Nat) (h : Rec64) (data : List Byte) (s : State) : State :=
  if p = 15 && s.ply.fenced then s
  else
    match fld h 0 1 with
    | 1 => serveFetch p h false s
    | 2 => gotFetchData p h data s
    | 3 => gotFetchRefuse p h s
    | 5 => gotReadData p h data s
    | 6 => gotReadStatus p h s
    | 7 => gotResend p h s
    | 8 => gotMailbox h [BitVec.ofNat 32 (fld h 0x10 4)] s
    | 9 => gotLifeline h data s
    | 0xA => gotOpen p h s
    | 0xB => gotClose p h s
    | _ => s

/-- A beat of the service channel: its slot is freed at once; a message is handled when its last beat has come. One with a
bad header is discarded with all its data beats, and counted once (R393). -/
def serviceSlot (p : Nat) (b : Beat) (s : State) : State :=
  let s := modPort p (fun x => { x with svcCrn := x.svcCrn + 1, crnDue := joinReturns 64 x.crnDue }) s
  let x := getPort s p
  match x.asm with
  | none =>
    let h : Rec64 := BitVec.ofNat 512 b.toNat
    if 0 < x.skip then setPort p { x with skip := x.skip - 1 } s
    else if b.toNat >>> 512 != 0 || !svcOk p h then
      bump (.serviceErrors p) 1 (setPort p { x with skip := svcSkip h } s)
    else if svcBeats h = 0 then svcDispatch p h [] s
    else setPort p { x with asm := some (h, []) } s
  | some (h, bs) =>
    let bs := bs ++ [b]
    if bs.length < svcBeats h then setPort p { x with asm := some (h, bs) } s
    else svcDispatch p h (bs.flatMap beatBytes) (setPort p { x with asm := none } s)

/-- One slot of a DATA flit: type 1 a beat, type 2 a side slot (R384, R385). A side slot means nothing on channel 64. -/
def slotIn (p ch ty : Nat) (b : Beat) (s : State) : State :=
  if ty = 0 then s
  else if ch < 64 then strandSlot p ch ty b s
  else if ty = 1 then serviceSlot p b s
  else bump (.serviceErrors p) 1 s

/-- DATA_FLIT: accepted in SEQ order, its slots in order, its ACK and credit return applied; or discarded (R386). -/
def execDataFlit (port : Fin 18) (f : Flit) (fec : Fec) (s : State) : Result :=
  let p := port.val
  let x := getPort s p
  .next (if x.st != .up then s
    else
      let s := gotCodewords p fec s
      if fec.lost then discardFlit p s
      else if !flitOk f then discardFlit p (bump (.flitErrors p) 1 s)
      else if fld f 0 1 != 1 then s
      else if fld f 2 2 != (x.rxLast + 1).toNat then discardFlit p s
      else
        let s := modPort p (fun x => { x with rxLast := BitVec.ofNat 16 (fld f 2 2), nak := false, nakDue := false }) s
        let s := applyReturns p f s
        let s := slotIn p (fld f 6 1) (fld f 1 1 % 4) (BitVec.ofNat 2048 (fld f 0xC 256)) s
        let s := slotIn p (fld f 7 1) (fld f 1 1 / 4) (BitVec.ofNat 2048 (fld f 0x10C 256)) s
        if (getPort s p).st == .up then sendNulls p (max 1 (getPort s p).crnDue.length) s else s)

end Sys2Proof.Machine
end

