-- ==== Sys2Proof/Machine/Power.lean ====
section
/-! DEFINITION. What a start clears and keeps (R459), input power (R431 to R434), the cap and the power loop (R440 to
R447), metering and sensors (R448 to R456), clock stretching (R438). -/
namespace Sys2Proof.Machine
open Sys2Proof

/-! ## What every start clears and keeps (R459) -/

/-- Counters held in non-volatile store (R458, R485). -/
def Ctr.lasting : Ctr → Bool
  | .inputLoss _ | .trips | .bankFallbacks | .fwUpdates _ | .catalogueLosses => true
  | _ => false

/-- Counters that a module reset does not clear but a power-on start does: none beyond those kept. -/
def keptCtrs (s : State) : List (Ctr × Nat) := s.ctrs.filter fun c => c.1.lasting

/-- T3 keeps what its end updates made durable; the journal is closed (R218). Module time starts anew, and with it the patrol
pass (R216, R220, R284). -/
def t3Restart (t : T3Stack) : T3Stack := { t with st := 0, closed := true, buffer := [], passEnd := 0, seen := [] }

/-- The free block of lowest erase count on a channel (R214). -/
def freshBlock (t : T3Stack) (ch : Nat) : Option Nat := (List.range 65536).find? (freshOk t ch)

/-- Where a stack's write buffer goes next: the lowest channel that has a free block, and the block's key. -/
def flushPlace (t : T3Stack) : Option (Nat × Nat) :=
  (List.range 8).findSome? fun ch => (freshBlock t ch).map fun b => (ch, blockKey ch b)

/-- The first pages of a stack's write buffer are written to one block; nothing when no block is free. -/
def flushBlock (st : Nat) (s : State) : State :=
  let t := (getStack s st).t3
  match flushPlace t with
  | none => s
  | some (ch, key) =>
    let s := cleanBlock st key true s
    if (getStack s st).t3.retired.contains key then s else programPages st ch key (t.buffer.take 4096) s

/-- The write buffer of a stack is written to NAND, block after block: on the lowest channel that has a free block; its
erases and programs succeed (R218 names no channel and no failure; DESIGN CHOICE, log entry 80). -/
def flushBuffer (st : Nat) : (fuel : Nat) → State → State
  | 0, s => s
  | n + 1, s => if (getStack s st).t3.buffer.isEmpty then s else flushBuffer st n (flushBlock st s)

/-- Every stack's write buffer is written to NAND (R218). -/
def flushBuffers (s : State) : State :=
  (List.range 4).foldl (fun s st => flushBuffer st ((getStack s st).t3.buffer.length) s) s

/-- The parts that every start keeps: fuses, boot flash, T3 and the catalogue, non-volatile counters (R459); beside them
the host's memory, which is not the module's, and the model's own queue and counters. A catalogue entry that was not
valid is no entry of the index, and its pages hold no datum. Module time starts at 0 (R284). -/
def restart (s : State) : State :=
  let s := flushBuffers s
  let s := (s.catalogue.filter (!·.valid)).foldl (fun s e => freePieces e s) s
  { pending := s.pending
    freeCtr := s.freeCtr
    nextId := s.nextId
    mem := s.mem.filter fun c => t3Base ≤ c.1
    home := rangeDel s.home 0 (t3Base / 4096)
    stackTbl := tmap s.stackTbl fun _ x => { t3 := t3Restart x.t3 }
    catalogue := (s.catalogue.filter (·.valid)).map fun e => { e with staged := [] }
    host := { perst := s.host.perst, bad := s.host.bad }
    outbox := s.outbox
    mbx := { off := if isOff s mRack then [0x10, 0x11, 0x12, 0x13, 0x30, 0x40, 0x50] else [0x10, 0x11, 0x12, 0x13, 0x30, 0x50] }
    nv := s.nv
    ctrs := keptCtrs s }

/-- The voltage in mV of a region core rail at an operating point: that of the region's fused table, within 0.55 to 0.85 V
(R435; log entry 76). -/
def coreMillivolts (region n : Nat) : Nat := min 850 (max 550 (Config.regionVoltage region n))

/-- The voltages of the 16 region core rails at an operating point. -/
def railMillivolts (n : Nat) : List Nat := (List.range 16).map fun r => coreMillivolts r n

/-- The region core rails go to the voltage of an operating point (R435, R437). -/
def setRails (n : Nat) (s : State) : State :=
  { s with power := { s.power with coreMv := (railMillivolts n).map (BitVec.ofNat 16) } }

/-- A firmware bank whose write was cut off: it fails R466 (R468). -/
def spoiltBank : FwImage := { header := [], body := [] }

/-- The bank that is not running. -/
def writeOther (img : FwImage) (s : State) : State :=
  if s.boot.bank then { s with nv := { s.nv with bankA := img } } else { s with nv := { s.nv with bankB := img } }

/-- The module reset: rails stay on, the region core rails at the N = 32 voltage; start-up begins at step 2; the gauge goes
on and module time starts at 0 (R284, R459, R462; log entry 28). The test access port is apart. A bank that was being
written is spoilt, as R468 says of an input loss. -/
def moduleReset (s : State) : State :=
  let s := if s.boot.updImg.isSome then writeOther spoiltBank s else s
  let r := restart s
  setRails 32 { r with
    mbx := { off := if s.tap.ir == 0x20 && !s.tap.trst then r.mbx.off.filter (· != mTest) else r.mbx.off }
    power := { on := s.power.on, pwrgd := s.power.pwrgd, present := s.power.present, overCurrents := s.power.overCurrents,
               latched := s.power.latched, clock := s.power.clock, gauge := s.power.gauge, busMv := s.power.busMv }
    boot := { testHold := s.boot.testHold, time0 := 0, rails := true }
    tap := s.tap }

/-! ## Input power (R431 to R434) -/

/-- Input loss: the hot-swap stage turns off, T1 and T2 are lost, everything stops (R432, R218). A bank that was being
written is spoilt (R468). -/
def inputLoss (cause : OffCause) (s : State) : State :=
  let s := if s.boot.updImg.isSome then writeOther spoiltBank s else s
  { restart s with
    power := { on := false, pwrgd := false, present := s.power.present, off := some cause, offAt := s.power.clock,
               openAt := s.power.openAt, overCurrents := s.power.overCurrents, latched := s.power.latched, clock := s.power.clock, busMv := 0 } }

/-- The counter of a cause (R458). -/
def lossCtr (n : Nat) (s : State) : State := bump (.inputLoss n) 1 s

/-- UNDER_VOLTAGE: below 36.0 V for 20 µs (R431). -/
def execUnderVoltage (millivolts microseconds : Nat) (s : State) : Result :=
  .next (if s.power.on && millivolts < 36000 && 20 ≤ microseconds then inputLoss .underVoltage (lossCtr 0 s) else s)

/-- OVER_VOLTAGE: above 54.0 V (R431). -/
def execOverVoltage (millivolts : Nat) (s : State) : Result :=
  .next (if s.power.on && 54000 < millivolts then inputLoss .overVoltage (lossCtr 1 s) else s)

/-- OVER_CURRENT: above 110 A for 100 µs, or above 150 A (R431). The third within 60 s latches (R433). -/
def execOverCurrent (milliamps microseconds : Nat) (s : State) : Result :=
  .next (if s.power.on && (150000 < milliamps || (110000 < milliamps && 100 ≤ microseconds)) then
      let l := (s.power.overCurrents.filter fun t => s.power.clock < t + 60000000) ++ [s.power.clock]
      let p : Power := { s.power with overCurrents := l, latched := s.power.latched || 3 ≤ l.length }
      inputLoss .overCurrent (lossCtr 2 { s with power := p })
    else s)

/-- PRESENCE_OPEN: the presence contacts open (R432, R434). -/
def execPresenceOpen (s : State) : Result :=
  let at_ := if s.power.present then s.power.clock else s.power.openAt
  let s := { s with power := { s.power with present := false, qualifying := false, openAt := at_ } }
  .next (if s.power.on then inputLoss .presence (lossCtr 3 s) else s)

/-- The wait of R433 has expired on the stage's clock: 100 ms after an under-voltage or over-voltage, 1 s after an
over-current that has not latched; the other causes wait for a removal. -/
def waitOver (p : Power) : Bool :=
  match p.off with
  | some .underVoltage | some .overVoltage => p.offAt + 100000 ≤ p.clock
  | some .overCurrent => !p.latched && p.offAt + 1000000 ≤ p.clock
  | _ => false

/-- INPUT_RESTART: the wait of R433 has expired, or the input has been removed for at least 1 s and reapplied: the insertion
sequence begins again. -/
def execInputRestart (removed : Bool) (s : State) : Result :=
  let p := s.power
  let ok := removed || waitOver p
  .next (if p.on || !p.present || !ok then s
    else { s with power := { p with qualifying := true, latched := p.latched && !removed } })

/-- Taking the module out and putting it back ends the wait of R433: at once, except after a trip and after an over-current,
which last until the contacts have been open for 1 s (log entry 96). -/
def removalEnds (p : Power) : Bool :=
  match p.off with
  | some .trip | some .overCurrent => p.openAt + 1000000 ≤ p.clock
  | _ => true

/-- The input is within 40.0 to 50.0 V (R431). -/
def inputNormal (millivolts : Nat) : Bool := 40000 ≤ millivolts && millivolts ≤ 50000

/-- INSERTION: the presence contacts close with input applied, and qualification begins when no wait of R433 stands; at
contacts already closed it is the input that comes within its range (R433, R434). -/
def execInsertion (millivolts : Nat) (s : State) : Result :=
  let p := s.power
  let free : Bool := if p.present then p.off == none || p.off == some .presence else removalEnds p
  .next (if p.on then s
    else { s with power := { p with
      present := true
      off := if free then some .presence else p.off
      latched := p.latched && !free
      qualifying := p.qualifying || (free && inputNormal millivolts) } })

/-- POWER_GOOD: a power-on start begins at time 0; TEST_HOLD# is sampled (R434, R459, R498). Module time and the gauge
start from zero (R448; log entry 28). -/
def execPowerGood (testHold : Bool) (s : State) : Result :=
  .next (if s.power.on || !s.power.qualifying then s
    else
      { restart s with
        power := { overCurrents := s.power.overCurrents, latched := s.power.latched, clock := s.power.clock }
        boot := { testHold := testHold }
        host := { bad := s.host.bad } })

/-! ## The cap and its limit (R440 to R446) -/

/-- A requested value normalised (R440). -/
def normCap (w : Nat) : Nat := if w = 0 || 3600 < w then 3600 else if w < 900 then 900 else w

/-- A requested value is clamped (R440). -/
def clamped (w : Nat) : Bool := 1 ≤ w && w ≤ 899

/-- The input-current limit, 90 A × the measured input voltage; before the first sample there is none (R443, R457). -/
def inputWatts (s : State) : Nat := if s.power.millivolts = 0 then 2 ^ 32 else 90 * s.power.millivolts.toNat / 1000

/-- The limit that the module obeys (R443). -/
def powerLimit (s : State) : Nat := min s.power.inForce.toNat (min (inputWatts s) s.power.thermalCap.toNat)

/-- The estimate at an operating point and a ceiling, at present activity and temperatures: what the activity counters give,
the leakage at the rails' voltages there, and the loop's trim (R442; log entry 12). -/
def estAt (s : State) (n l : Nat) : Nat :=
  ((Config.powerEstimate s.power.activity n l + Config.leakage (railMillivolts n) s.power.sensors : Nat) + s.power.trim).toNat

/-- The highest number of `[lo, lo + k]` that a predicate takes; `lo` when none does. -/
def highest (f : Nat → Bool) (lo : Nat) : (k : Nat) → Nat
  | 0 => lo
  | k + 1 => if f (lo + k + 1) then lo + k + 1 else highest f lo k

/-- The highest ceiling that meets a limit (R445). -/
def ceilFor (s : State) (n limit : Nat) : Nat := highest (fun l => estAt s n l ≤ limit) 0 64

/-- INPUT_LIMIT: the input-current limit is lower than both other terms (R457). -/
def refreshInput (s : State) : State :=
  let on : Bool := inputWatts s < min s.power.inForce.toNat s.power.thermalCap.toNat
  let rise : Bool := on && !s.power.inputLimit
  let ev := if rise then s.power.event ||| 8 else s.power.event
  let s := { s with power := { s.power with inputLimit := on, event := ev } }
  if rise then bump .inputLimits 1 s else s

/-- When the limit has fallen by more than 10 % below the estimate the emergency ceiling engages (R446). -/
def limitMoved (old : Nat) (s : State) : State :=
  let s := refreshInput s
  let new := powerLimit s
  if new < old && 10 * new < 9 * s.power.estimate then
    bump .emergencies 1 { s with power := { s.power with ceil := BitVec.ofNat 7 (ceilFor s s.power.n.toNat new) } }
  else s

/-- A clamped write (R441). -/
def clampEvent (w : Nat) (s : State) : State :=
  if clamped w then
    raiseCause 5 (bump .capClamps 1 { s with power := { s.power with event := s.power.event ||| 1 } })
  else s

/-- The cap in force is the lower of the two normalised values (R440). -/
def refreshCap (s : State) : State :=
  { s with power := { s.power with inForce := BitVec.ofNat 16 (min (normCap s.power.cap.toNat) (normCap s.power.rackCap.toNat)) } }

/-- The host's requested cap (R440). -/
def writeCap (w : Nat) (s : State) : State :=
  let old := powerLimit s
  limitMoved old (clampEvent (w % 65536) (refreshCap { s with power := { s.power with cap := BitVec.ofNat 16 w } }))

/-- The rack controller's requested cap (R440). -/
def writeRackCap (w : Nat) (s : State) : State :=
  let old := powerLimit s
  limitMoved old (clampEvent (w % 65536) (refreshCap { s with power := { s.power with rackCap := BitVec.ofNat 16 w } }))

/-! ## The loop (R442, R445, R447, R454) -/

/-- POWER_ESTIMATE_TICK: the estimate from the activity counters, with leakage and trim (R442). -/
def execPowerEstimateTick (activity : Nat) (s : State) : Result :=
  .next (if !s.power.on then s
    else
      let s := { s with power := { s.power with activity := activity } }
      { s with power := { s.power with estimate := estAt s s.power.n.toNat s.power.ceil.toNat } })

/-- The loop trims the estimate against the measured input power (R442). -/
def trimEstimate (s : State) : State :=
  let p := s.power
  { s with power := { p with trim := Config.powerTrim p.trim p.estimate p.watts.toNat } }

/-- The thermal cap at a tick (R454): 98 % of the estimate at or above 105.0 °C, 2 % of its value more at or below
100.0 °C, at most 3,600 W. Fractions of a watt are cut, a rise is at least 1 W (log entry 29). -/
def thermalTick (s : State) : State :=
  let p := s.power
  let t := p.junction.toInt
  if 1050 ≤ t then
    let s := { s with power := { p with
      thermalCap := BitVec.ofNat 16 (p.estimate * 98 / 100), thermal := true, throttled := true, event := p.event ||| 4 } }
    if p.throttled then s else bump .throttles 1 s
  else if t ≤ 1000 then
    let c := min 3600 (p.thermalCap.toNat + max 1 (p.thermalCap.toNat * 2 / 100))
    { s with power := { p with thermalCap := BitVec.ofNat 16 c, thermal := c < 3600, throttled := p.throttled && c < 3600 } }
  else s

/-- Step N toward `want` so that the estimate changes by at most 50 W (R445). -/
def stepN (s : State) (want : Nat) : Nat :=
  let n := s.power.n.toNat
  let e := estAt s n 64
  let near (m : Nat) : Bool := let f := estAt s m 64; f ≤ e + 50 && e ≤ f + 50
  if n ≤ want then highest near n (want - n)
  else (List.range (n - want)).foldl (fun best k => if near (n - 1 - k) then n - 1 - k else best) n

/-- The lag of a tick; non-zero at a second tick in a row it is an event (R447). -/
def lagTick (lag : Nat) (s : State) : State :=
  let k := if lag = 0 then 0 else s.power.lagTicks + 1
  let s := { s with power := { s.power with lag := BitVec.ofNat 16 lag, lagTicks := k } }
  if k = 2 then raiseCause 5 (bump .lagEvents 1 { s with power := { s.power with event := s.power.event ||| 2 } }) else s

/-- POWER_LOOP_TICK: every 50 µs of module time (R445); the estimate is trimmed (R442) and the region core rails follow N
(R437). -/
def execPowerLoopTick (s : State) : Result :=
  .next (if !s.power.on || s.us % 50 != 0 then s
    else
      let s := refreshInput (thermalTick (trimEstimate s))
      let limit := powerLimit s
      let want := highest (fun n => estAt s n 64 ≤ limit) 32 32
      let n := stepN s want
      let c := if estAt s n 64 ≤ limit then 64 else ceilFor s n limit
      let s := if s.boot.rails then setRails n s else s
      lagTick (estAt s n 64 - s.power.inForce.toNat)
        { s with power := { s.power with n := BitVec.ofNat 7 n, ceil := BitVec.ofNat 7 c } })

/-! ## Measurements (R448, R451, R456) -/

/-- GAUGE_SAMPLE: the measured energy is added, and the input fields and the intermediate bus follow (R435, R448, R457). -/
def execGaugeSample (millivolts watts : BitVec 16) (microjoules : Nat) (s : State) : Result :=
  .next (if !s.power.on then s
    else
      let old := powerLimit s
      let p := s.power
      limitMoved old { s with power := { p with
        gauge := p.gauge + BitVec.ofNat 64 microjoules, millivolts := millivolts, watts := watts
        busMv := BitVec.ofNat 16 (millivolts.toNat / 4) } })

/-- The highest of some temperatures (R451, R452). -/
def hottest : List (BitVec 16) → BitVec 16
  | [] => 0
  | [t] => t
  | t :: ts => let m := hottest ts; if m.toInt < t.toInt then t else m

/-- JUNCTION_SAMPLE: the sensors of every region and base die are read, and the hottest junction is the highest reading
(R451). -/
def execJunctionSample (readings : List (BitVec 16)) (s : State) : Result :=
  .next (if s.power.on then
      { s with power := { s.power with sensors := readings, junction := hottest readings } }
    else s)

/-- THERMAL_TRIP: 115.0 °C for 10 µs; the trip counter rises before the rails go off (R455). -/
def execThermalTrip (deciC : BitVec 16) (microseconds : Nat) (s : State) : Result :=
  .next (if s.power.on && 1150 ≤ deciC.toInt && 10 ≤ microseconds then inputLoss .trip (bump .trips 1 s) else s)

/-- COOLANT_SAMPLE: inlet, outlet and flow; an excursion is flagged and counted on entry (R456). -/
def execCoolantSample (inlet outlet flow : BitVec 16) (s : State) : Result :=
  .next (if !s.power.on then s
    else
      let p := s.power
      let bad : Bool := 400 < inlet.toInt || flow.toNat < 300
      let rise : Bool := bad && !p.coolant
      let ev := if rise then p.event ||| 16 else p.event
      let s := { s with power := { p with inlet := inlet, outlet := outlet, flow := flow, coolant := bad, event := ev } }
      if rise then bump .coolantExc 1 s else s)

/-- VOLTAGE_DROOP: the stretched cycles of one of the 80 cluster and router islands are counted (R436, R438). -/
def execVoltageDroop (island : BitVec 7) (cycles : Nat) (s : State) : Result :=
  .next (if s.power.on && island.toNat < 80 then bump (.stretched island.toNat) cycles s else s)

end Sys2Proof.Machine
end

