-- ==== Sys2Proof/Machine/Window.lean ====
section
/-! DEFINITION. The mailbox window as a master reads and writes it: every register of R363 and R370 by its offset
(offsets less 0x1_0000), in accesses of 4 and 8 bytes (R364, R507, R508). -/
namespace Sys2Proof.Machine
open Sys2Proof

/-! ## Registers of a channel -/

/-- Words in the outgoing queue of a master. A queue toward the ply partner stands on the partner's side, and what it
reports back is a free value (log entry 3). -/
def txCount (s : State) (m : BitVec 8) (c : Nat) : Nat × State :=
  let x := getChan s c
  if 4 ≤ c then
    if chOther x m == mPartner then (let (v, s) := freeNat s; (v % 17, s))
    else (if x.a == m then x.q1.length else x.q0.length, s)
  else (if m == chOwner c then x.q1.length else x.q0.length, s)

/-- A read of MBX_STATUS (R363). -/
def mbxStatus (m : BitVec 8) (c : Nat) (s : State) : State :=
  chanAccess m c true (fun s =>
    let x := getChan s c
    let (tx, s) := txCount s m c
    let off : Bool := c < 4 && m != chOwner c && isOff s (chOwner c)
    answer (.value m (BitVec.ofNat 64 (tx + 256 * (rxQueue s m c).length + 2 ^ 16 * b2n (x.txCol.contains m)
      + 2 ^ 17 * b2n (x.rxCol.contains m) + 2 ^ 18 * b2n off + 2 ^ 19 * b2n x.compat))) s) s

/-- A write of MBX_STATUS clears the sticky flags written as one (R6, R366). -/
def mbxStatusW (m : BitVec 8) (c v : Nat) (s : State) : State :=
  chanAccess m c false (fun s => modChan c (fun x =>
    { x with
      txCol := if nbit v 16 then x.txCol.filter (· != m) else x.txCol
      rxCol := if nbit v 17 then x.rxCol.filter (· != m) else x.rxCol }) s) s

/-- A read of MBX_DST: the owner's destination, zero for any other master and on a bound channel (R363). -/
def mbxDst (m : BitVec 8) (c : Nat) (s : State) : State :=
  chanAccess m c true (fun s => answer (.value m (if c < 4 && m == chOwner c then (getChan s c).dst.setWidth 64 else 0)) s) s

/-- A write of MBX_DST (R363). -/
def mbxDstW (m : BitVec 8) (c v : Nat) (s : State) : State :=
  chanAccess m c false (fun s => if c < 4 && m == chOwner c then modChan c (fun x => { x with dst := BitVec.ofNat 8 v }) s else s) s

/-- A read of MBX_CTRL (R363). -/
def mbxCtrlR (m : BitVec 8) (c : Nat) (s : State) : State :=
  chanAccess m c true (fun s => answer (.value m (if (getChan s c).compat then 1 else 0)) s) s

/-- A read of a write-only or reserved offset (R6, R323). -/
def zeroRead (m : BitVec 8) (s : State) : State := answer (.value m 0) s

/-! ## Shared registers (R370) -/

/-- MBX_BIND of a channel (R360). -/
def bindWord (s : State) (c : Nat) : Nat :=
  let x := getChan s c
  if c < 4 then (chOwner c).toNat + 2 ^ 16 else x.a.toNat + 256 * x.b.toNat + 2 ^ 16 * b2n x.valid

/-- MBX_BIND is the security core's to write until the table locks (R360, R512). -/
def bindWrite (m : BitVec 8) (c v : Nat) (s : State) : State :=
  if m == mSecurity && !s.mbx.locked && 4 ≤ c then
    modChan c (fun x => { x with a := BitVec.ofNat 8 v, b := BitVec.ofNat 8 (v / 256), valid := nbit v 16 }) s
  else s

/-- MBX_DB: doorbell bits written as one are cleared. -/
def dbClear (m : BitVec 8) (v : Nat) (s : State) : State :=
  { s with mbx := { s.mbx with db := tset s.mbx.db m.toNat (dbBits s m &&& ~~~(BitVec.ofNat 32 v)) } }

/-- MBX_DB_VEC: the host's. -/
def dbVecW (m : BitVec 8) (v : Nat) (s : State) : State :=
  if m == mHost then { s with mbx := { s.mbx with vec := BitVec.ofNat 11 v, vecEn := nbit v 31 } } else s

/-! ## Accesses by offset -/

/-- A 4-byte read at an offset of the window. -/
def winRead4 (m : BitVec 8) (off : Nat) (s : State) : State :=
  if off < 0x8000 then
    let c := off / 0x200
    match off % 0x200 with
    | 0x00 => chanAccess m c true (zeroRead m) s
    | 0x08 => mbxRx m c false s
    | 0x0C => mbxRxUpper m c s
    | 0x10 => mbxStatus m c s
    | 0x18 => mbxDst m c s
    | 0x20 => mbxCtrlR m c s
    | 0x28 => mbxLock m c s
    | _ => zeroRead m s
  else if off < 0x8100 then answer (.value m (BitVec.ofNat 64 (bindWord s ((off - 0x8000) / 4)))) s
  else
    let v : Nat := match off with
      | 0x8100 => (dbBits s m).toNat
      | 0x8104 => (dbMask s m).toNat
      | 0x8108 => if m == mHost then s.mbx.vec.toNat + 2 ^ 31 * b2n s.mbx.vecEn else 0
      | 0x810C => b2n s.mbx.locked
      | _ => 0
    answer (.value m (BitVec.ofNat 64 v)) s

/-- A 4-byte write at an offset of the window. -/
def winWrite4 (m : BitVec 8) (off v : Nat) (s : State) : State :=
  if off < 0x8000 then
    let c := off / 0x200
    match off % 0x200 with
    | 0x00 => mbxTx m c (BitVec.ofNat 32 v) s
    | 0x08 | 0x0C => chanAccess m c false id s
    | 0x10 => mbxStatusW m c v s
    | 0x18 => mbxDstW m c v s
    | 0x20 => mbxCtrl m c (BitVec.ofNat 32 v) s
    | 0x28 => mbxUnlock m c s
    | _ => s
  else if off < 0x8100 then bindWrite m ((off - 0x8000) / 4) v s
  else
    match off with
    | 0x8100 => dbClear m v s
    | 0x8104 => mbxMask m (BitVec.ofNat 32 v) s
    | 0x8108 => dbVecW m v s
    | _ => s

/-- Two halves of one answer: an abort or bus error of either half is the answer. -/
def joinReply (m : BitVec 8) (lo hi : Reply) : Reply :=
  match lo, hi with
  | .value _ a, .value _ b => .value m (a + (b <<< 32))
  | .value _ _, r => r
  | r, _ => r

/-- A read of 4 or 8 bytes. -/
def winRead (m : BitVec 8) (off : Nat) (eight : Bool) (s : State) : State :=
  if !eight then winRead4 m off s
  else if off < 0x8000 && off % 0x200 == 8 then mbxRx m (off / 0x200) true s
  else
    let s := winRead4 m off s
    let lo := s.bus
    let s := winRead4 m (off + 4) s
    answer (joinReply m lo s.bus) s

/-- A write of 4 or 8 bytes. -/
def winWrite (m : BitVec 8) (off : Nat) (eight : Bool) (v : Nat) (s : State) : State :=
  let s := winWrite4 m off (v % 2 ^ 32) s
  if eight then winWrite4 m (off + 4) (v / 2 ^ 32) s else s

end Sys2Proof.Machine
end

