-- ==== Sys2Proof/Machine/Regs.lean ====
section
/-! DEFINITION. The registers the host reads: the capability block (R324), the words of BAR0 (R505, R506), the MSI-X
structures (R317, R354), and reads of 64-bit registers with their latches (R508). -/
namespace Sys2Proof.Machine
open Sys2Proof

/-! ## The capability block (R324) -/

/-- Bytes 0x000 to 0x03F of the capability block; the rest are zero. -/
def capBlock (s : State) : List Byte :=
  recBytes (recOf 512
    [(0x00, 4, 0x47444B41), (0x04, 1, 1), (0x06, 2, 2), (0x08, 4, b2n s.boot.ready + 2 * b2n s.boot.failed), (0x0C, 2, 4096),
     (0x0E, 2, 2048), (0x10, 4, 16384), (0x14, 2, 4096), (0x16, 1, 16), (0x17, 1, 1), (0x18, 1, 64),
     (0x19, 1, s.boot.rackPos.toNat), (0x1A, 2, 512), (0x1C, 4, s.boot.fwVersion.toNat), (0x20, 8, Config.serial.toNat),
     (0x28, 8, s.us), (0x30, 8, 0x323135474B2D4441)])

/-! ## Register words -/

/-- POOL_T3_STATE (R220). -/
def t3StateWord (s : State) : Nat :=
  (List.range 4).foldl (fun a st => a + 16 ^ st * (getStack s st).t3.st.toNat) 0

/-- A port state's code (R398). -/
def PortSt.code : PortSt → Nat
  | .down => 0 | .electrical => 1 | .align => 2 | .hello => 3 | .up => 4

/-- LNK_STATUS of a port (R398). -/
def lnkStatus (s : State) (p : Nat) : Nat :=
  let x := getPort s p
  x.st.code + 8 * b2n x.degraded + 16 * x.reason.toNat + 256 * x.peer.toNat + 2 ^ 16 * x.peerPort.toNat
    + 2 ^ 24 * (if x.st == .up then x.version.toNat else 0)

/-- A pair state's code (R427). -/
def PlySt.code : PlySt → Nat
  | .unbound => 0 | .binding => 1 | .syncing => 2 | .bound => 3 | .releasing => 4 | .lost => 5

/-- A ring state's code (R330). -/
def RingSt.code : RingSt → Nat
  | .disabled => 0 | .enabled => 1 | .error => 2

/-- RING_STATUS of the selected ring (R330). -/
def ringStatus (s : State) : Nat :=
  let x := getRing s s.ringRegs.sel.toNat
  x.st.code + 16 * x.error.toNat

/-- PWR_STATUS (R441, R457). -/
def pwrStatus (s : State) : Nat :=
  let p := s.power
  p.inForce.toNat + 2 ^ 16 * b2n (clamped p.cap.toNat || clamped p.rackCap.toNat) + 2 ^ 17 * b2n (p.ceil.toNat < 64)
    + 2 ^ 18 * b2n p.thermal + 2 ^ 19 * b2n p.inputLimit + 2 ^ 20 * b2n p.coolant

/-- Units marked for darning. -/
def markedUnits (s : State) : List Nat := (s.units.filter fun u => u.2.marked).map (·.1)

/-- The highest step of R462 that has ended; 9 when READY (R484). -/
def startStep (s : State) : Nat :=
  let b := s.boot
  if b.ready then 9 else if b.pcie then 8 else if b.swatchDone then 7 else if b.catReady then 5 else if b.dramDone then 4
  else if b.cores then 3 else if b.booted then 2 else if b.rails then 1 else 0

/-- SEC_STATUS (R483). -/
def secStatus (s : State) : Nat :=
  let b := s.boot
  b2n b.bank + 2 * b2n b.secFallback + 4 * b.rootSlot.toNat + 16 * s.nv.revoked.toNat + 2 ^ 8 * (s.nv.svn % 128)
    + 2 ^ 16 * b.svnImage.toNat + 2 ^ 23 * b2n s.nv.select

/-- A 32-bit register of BAR0 by its offset (R506); a reserved offset and a write-only register read zero (R323, R6).
The 64-bit registers are apart. -/
def bar0Word (s : State) (off : Nat) : Nat :=
  match off with
  | 0x0000 => s.host.version.toNat + 2 ^ 31 * b2n s.host.lock
  | 0x1000 => s.ringRegs.sel.toNat
  | 0x1004 => s.ringRegs.base.toNat % 2 ^ 32
  | 0x1008 => s.ringRegs.base.toNat / 2 ^ 32
  | 0x100C => s.ringRegs.cqb.toNat % 2 ^ 32
  | 0x1010 => s.ringRegs.cqb.toNat / 2 ^ 32
  | 0x1014 => s.ringRegs.cfg.toNat
  | 0x1018 => s.ringRegs.link.toNat
  | 0x1020 => ringStatus s
  | 0x2000 => s.db.bitmap.toNat % 2 ^ 32
  | 0x2004 => s.db.bitmap.toNat / 2 ^ 32
  | 0x2008 => s.db.tail.toNat % 2 ^ 32
  | 0x200C => s.db.tail.toNat / 2 ^ 32
  | 0x2010 => s.db.devidx.toNat % 2 ^ 32
  | 0x2014 => s.db.devidx.toNat / 2 ^ 32
  | 0x2018 => s.db.interval.toNat + 256 * b2n s.db.enable
  | 0x3000 => s.irq.vector.toNat
  | 0x3004 => s.irq.cause.toNat
  | 0x3008 => s.irq.enable.toNat
  | 0x4000 => s.agingSteps.toNat + 256 * s.urgentUs.toNat
  | 0x5000 => s.epochUs.toNat
  | 0x5004 => t3StateWord s
  | 0x5008 => s.rdThreshold.toNat
  | 0x500C => s.patrolHours.toNat
  | 0x6000 => s.power.cap.toNat
  | 0x6004 => s.power.rackCap.toNat
  | 0x6008 => pwrStatus s
  | 0x600C => s.power.lag.toNat
  | 0x6010 => s.power.n.toNat + 256 * s.power.ceil.toNat
  | 0x6014 => s.power.thermalCap.toNat
  | 0x6020 => s.power.millivolts.toNat + 2 ^ 16 * s.power.watts.toNat
  | 0x6024 => s.power.junction.toNat + 2 ^ 16 * s.power.inlet.toNat
  | 0x6028 => s.power.outlet.toNat + 2 ^ 16 * s.power.flow.toNat
  | 0x602C => s.power.event.toNat
  | 0x7000 => s.links.enable.toNat
  | 0x7010 => s.links.event.toNat
  | 0x8000 => s.ply.st.code + 8 * b2n s.ply.fenced + 256 * s.ply.partner.toNat + 2 ^ 16 * s.ply.standby.toNat
  | 0x8004 => s.ply.events.toNat
  | 0x8008 => s.ply.adopted.toNat + 2 ^ 16 * s.ply.ended.toNat
  | 0x800C => min (2 ^ 32 - 1) (backlogBytes s / 1024)
  | 0x9000 => secStatus s
  | 0x9010 => s.boot.rcvLen.toNat
  | 0x9014 => s.boot.rcvState.toNat + 256 * s.boot.rcvCheck.toNat
  | 0xA000 => startStep s + 16 * s.boot.fail.toNat + 256 * min 255 s.boot.t1Retired.length
  | 0xA004 => s.boot.groupsOut.toNat
  | 0xA008 => (markedUnits s).length
  | 0xA00C => s.boot.readyMs.toNat
  | _ => if 0x7100 ≤ off && off < 0x7148 && off % 4 == 0 then lnkStatus s ((off - 0x7100) / 4) else 0

/-- A dword of the MSI-X table (R317, R507; log entry 6): vector control is dword 3 of an entry. -/
def msixWord (s : State) (i : Nat) : Nat :=
  if i % 4 = 3 then b2n (tgetD s.host.msixMask (i / 4) true) else (tgetD s.host.msixOff i 0).toNat

/-- A dword of the MSI-X pending bit array. -/
def pbaWord (s : State) (i : Nat) : Nat := s.host.pba.foldl (fun a v => if v / 32 = i then a + 2 ^ (v % 32) else a) 0

/-! ## 64-bit registers (R508) -/

/-- The 64-bit registers of a BAR but MBX_RX: `PWR_GAUGE`, `LNK_RACK_ID`, `SEC_RCV_ADDR`; MODULE_TIME. -/
def wideReg (s : State) (bar2 : Bool) (off : Nat) : Option Nat :=
  match bar2, off with
  | false, 0x6018 => some s.power.gauge.toNat
  | false, 0x7008 => some s.links.rackId.toNat
  | false, 0x9008 => some s.boot.rcvAddr.toNat
  | true, 0x0028 => some s.us
  | _, _ => none

/-- The key of a register's latch. -/
def latchKey (bar2 : Bool) (off : Nat) : Nat := off + 2 ^ 20 * b2n bar2

def getLatch (s : State) (k : Nat) : Option (BitVec 32) := (s.latches.find? (·.1 == k)).map (·.2)
def dropLatch (k : Nat) (s : State) : State := { s with latches := s.latches.filter (·.1 != k) }

/-- A value read by the host. -/
def hostValue (v : Nat) (s : State) : State := answer (.value mHost (BitVec.ofNat 64 v)) s

/-- A 4-byte read of BAR0 or BAR2. -/
def barRead4 (bar2 : Bool) (off : Nat) (s : State) : State :=
  let k := latchKey bar2 off
  match wideReg s bar2 off with
  | some v => hostValue (v % 2 ^ 32) { dropLatch k s with latches := (dropLatch k s).latches ++ [(k, BitVec.ofNat 32 (v >>> 32))] }
  | none =>
    match if 4 ≤ off then wideReg s bar2 (off - 4) else none with
    | some v =>
      match getLatch s (k - 4) with
      | some h => hostValue h.toNat (dropLatch (k - 4) s)
      | none => hostValue (v >>> 32) s
    | none =>
      if !bar2 then hostValue (bar0Word s off) s
      else if off < 0x40 then hostValue (natOf (((capBlock s).drop off).take 4)) s
      else if 0x10000 ≤ off && off < 0x20000 then winRead4 mHost (off - 0x10000) s
      else if 0x80000 ≤ off && off < 0x88000 then hostValue (msixWord s ((off - 0x80000) / 4)) s
      else if 0x88000 ≤ off && off < 0x88100 then hostValue (pbaWord s ((off - 0x88000) / 4)) s
      else hostValue 0 s

/-- A naturally aligned read of 4 or 8 bytes (R508). -/
def barRead (bar2 : Bool) (off : Nat) (eight : Bool) (s : State) : State :=
  if !eight then barRead4 bar2 off s
  else
    match wideReg s bar2 off with
    | some v => hostValue v s
    | none =>
      if bar2 && 0x10000 ≤ off && off < 0x20000 then winRead mHost (off - 0x10000) true s
      else
        let s := barRead4 bar2 off s
        let lo := s.bus
        let s := barRead4 bar2 (off + 4) s
        answer (joinReply mHost lo s.bus) s

/-- An offset lies in its BAR and is aligned to the access (R323). -/
def barAligned (bar2 : Bool) (off size : Nat) : Bool := off % size == 0 && off + size ≤ (if bar2 then 0x100000 else 0x10000)

/-- An access the function answers: served in D0, answered with Unsupported Request in D3hot and during an FLR, and not
reached otherwise (R321, R511); malformed ones are counted (R323). A posted write has no answer. -/
def barAccess (write bar2 : Bool) (off size : Nat) (f : State → State) (s : State) : State :=
  if barRefused s then (if write then s else answer (.unsupported mHost) s)
  else if !barLive s then s
  else if !((size == 4 || size == 8) && barAligned bar2 off size) then
    let s := bump .malformedBar 1 s
    if write then s else answer (.abort mHost) s
  else f s

/-- An access of a master inside the module to its mailbox window, at the offsets of BAR2 (R357, R363, R370). -/
def ownWindow (m : BitVec 8) (off : Nat) (eight : Bool) (f : State → State) (s : State) : State :=
  if ([0x10, 0x11, 0x12, 0x13, 0x20, 0x50] : List (BitVec 8)).contains m && 0x10000 ≤ off && off < 0x20000
      && off % (if eight then 8 else 4) == 0 then mbxAccess m f s
  else s

/-- LATCHED_READ: a read of 4 or 8 bytes of any register: by the host of a BAR or of configuration space, by a master inside
the module of its mailbox window (R317, R364, R508, R509). -/
def execLatchedRead (space : Space) (off : BitVec 20) (eight : Bool) (s : State) : Result :=
  let n := if eight then 8 else 4
  .next (match space with
    | .bar0 => barAccess false false off.toNat n (barRead false off.toNat eight) s
    | .bar2 => barAccess false true off.toNat n (barRead true off.toNat eight) s
    | .config => cfgAccess off.toNat eight (fun s => hostValue (cfgWord s off.toNat) s) s
    | .window m => ownWindow m off.toNat eight (winRead m (off.toNat - 0x10000) eight) s)

end Sys2Proof.Machine
end

