-- ==== Sys2Proof/Machine/Ecdsa.lean ====
section
/-! DEFINITION. ECDSA over P-521 with SHA-512, the signatures of R465 and R478: curve arithmetic, verification, and the
per-signature value of RFC 6979. The curve's constants are those of the standard that R465 names. -/
namespace Sys2Proof.Machine
open Sys2Proof

/-! ## The curve -/

/-- The field prime 2^521 − 1. -/
def ecP : Nat := 2 ^ 521 - 1
def ecB : Nat :=
  0x0051953EB9618E1C9A1F929A21A0B68540EEA2DA725B99B315F3B8B489918EF109E156193951EC7E937B1652C0BD3BB1BF073573DF883D2C34F1EF451FD46B503F00
/-- The order of the base point. -/
def ecN : Nat :=
  0x01FFFFFFFFFFFFFFFFFFFFFFFFFFFFFFFFFFFFFFFFFFFFFFFFFFFFFFFFFFFFFFFFFA51868783BF2F966B7FCC0148F709A5D03BB5C9B8899C47AEBB6FB71E91386409
def ecG : Nat × Nat :=
  (0x00C6858E06B70404E9CD9E3ECB662395B4429C648139053FB521F828AF606B4D3DBAA14B5E77EFE75928FE1DC127A2FFA8DE3348B3C1856A429BF97E7E31C2E5BD66,
   0x011839296A789A3BC0045C8A5FB42C7D1BD998F54449579B446817AFBD17273E662C97EE72995EF42640C550B9013FAD0761353C7086A272C24088BE94769FD16650)

/-- `b ^ e` modulo `m`, `k` bits of the exponent. -/
def powMod (m : Nat) : (k : Nat) → (b e : Nat) → Nat
  | 0, _, _ => 1
  | k + 1, b, e =>
    let r := powMod m k (b * b % m) (e / 2)
    if e % 2 = 1 then b * r % m else r

/-- The inverse modulo a prime of at most 521 bits. -/
def invMod (m a : Nat) : Nat := powMod m 521 (a % m) (m - 2)

/-- The sum of two points; `none` is the point at infinity. -/
def ecAdd : Option (Nat × Nat) → Option (Nat × Nat) → Option (Nat × Nat)
  | none, q => q
  | p, none => p
  | some (x1, y1), some (x2, y2) =>
    if x1 = x2 && (y1 + y2) % ecP = 0 then none
    else
      let l := if x1 = x2 then (3 * x1 * x1 + ecP - 3) * invMod ecP (2 * y1) % ecP
        else (y2 + ecP - y1) * invMod ecP (x2 + ecP - x1) % ecP
      let x := (l * l + 2 * ecP - x1 - x2) % ecP
      some (x, (l * (x1 + ecP - x) + ecP - y1) % ecP)

/-- A multiple of a point, `k` bits of the factor. -/
def ecMul : (k : Nat) → (n : Nat) → Option (Nat × Nat) → Option (Nat × Nat)
  | 0, _, _ => none
  | k + 1, n, p =>
    let r := ecMul k (n / 2) (ecAdd p p)
    if n % 2 = 1 then ecAdd p r else r

/-- A point of the curve other than infinity. -/
def ecOn (q : Nat × Nat) : Bool := q.1 < ecP && q.2 < ecP && q.2 * q.2 % ecP == (q.1 * q.1 * q.1 + (ecP - 3) * q.1 + ecB) % ecP

/-! ## Encodings (R465): big-endian byte strings -/

def natBE (l : List Byte) : Nat := l.foldl (fun a b => 256 * a + b.toNat) 0
def bytesBE (n v : Nat) : List Byte := (bytesOf n v).reverse

/-- A public key in the 133 bytes of R465: 0x04, X, Y. -/
def pubDecode (l : List Byte) : Option (Nat × Nat) :=
  let q := (natBE ((l.drop 1).take 66), natBE ((l.drop 67).take 66))
  if l.length = 133 && l.head? == some 4 && ecOn q then some q else none
def pubEncode (q : Nat × Nat) : List Byte := 4 :: (bytesBE 66 q.1 ++ bytesBE 66 q.2)

/-! ## Verifying and signing -/

/-- A signature (132 bytes) over a SHA-512 digest verifies under a public key (133 bytes). -/
def ecVerify (pub digest sig : List Byte) : Bool :=
  let r := natBE (sig.take 66)
  let t := natBE ((sig.drop 66).take 66)
  match pubDecode pub with
  | none => false
  | some q =>
    if sig.length != 132 || r = 0 || ecN ≤ r || t = 0 || ecN ≤ t then false
    else
      let w := invMod ecN t
      match ecAdd (ecMul 521 (natBE digest * w % ecN) (some ecG)) (ecMul 521 (r * w % ecN) (some q)) with
      | none => false
      | some p => p.1 % ecN == r

/-- HMAC with SHA-512. -/
def hmac512 (key msg : List Byte) : List Byte :=
  let k := if 128 < key.length then sha512 key else key
  let k := k ++ List.replicate (128 - k.length) 0
  sha512 (k.map (· ^^^ 0x5C) ++ sha512 (k.map (· ^^^ 0x36) ++ msg))

/-- The candidates of RFC 6979, at most `fuel` of them: the first from 1 to n − 1. -/
def rfcLoop : (fuel : Nat) → (k v : List Byte) → Nat
  | 0, _, _ => 1
  | f + 1, k, v =>
    let v1 := hmac512 k v
    let v2 := hmac512 k v1
    let t := natBE (v1 ++ v2) >>> 503
    if 0 < t && t < ecN then t
    else
      let k' := hmac512 k (v2 ++ [0])
      rfcLoop f k' (hmac512 k' v2)

/-- The per-signature value of RFC 6979 for a private key and a digest. -/
def rfcNonce (x : Nat) (digest : List Byte) : Nat :=
  let seed := bytesBE 66 x ++ bytesBE 66 (natBE digest % ecN)
  let v0 : List Byte := List.replicate 64 1
  let k1 := hmac512 (List.replicate 64 0) (v0 ++ [0] ++ seed)
  let v1 := hmac512 k1 v0
  let k2 := hmac512 k1 (v1 ++ [1] ++ seed)
  rfcLoop 64 k2 (hmac512 k2 v1)

/-- The 132-byte signature of a digest with a private key (R478). -/
def ecSign (x : Nat) (digest : List Byte) : List Byte :=
  let k := rfcNonce x digest
  let r := ((ecMul 521 k (some ecG)).map (·.1 % ecN)).getD 0
  bytesBE 66 r ++ bytesBE 66 (invMod ecN k * (natBE digest + r * x) % ecN)

/-- The identity public key (R477). -/
def identityPub : List Byte := pubEncode ((ecMul 521 Config.identityKey (some ecG)).getD (0, 0))

end Sys2Proof.Machine
end

