-- ==== Sys2Proof/Machine/Startup.lean ====
section
/-! DEFINITION. Start-up (R462 to R464), secure boot (R465 to R467), firmware update and recovery (R468, R469), memory
training (R470), T3 mounts (R471), the start-up swatch (R473, R474). -/
namespace Sys2Proof.Machine
open Sys2Proof

/-! ## Firmware images (R465, R466) -/

/-- `n` bytes at an offset of an image header, as a number. -/
def fwFld (i : FwImage) (off n : Nat) : Nat := natOf ((i.header.drop off).take n)

/-- `n` bytes at an offset of an image header. -/
def fwBytes (i : FwImage) (off n : Nat) : List Byte := (i.header.drop off).take n

def fwFlags (i : FwImage) : Nat := fwFld i 6 2
def fwVersionOf (i : FwImage) : Nat := fwFld i 8 4
def fwSvn (i : FwImage) : Nat := fwFld i 0xC 1
def fwSlot (i : FwImage) : Nat := fwFld i 0xD 1
def fwLength (i : FwImage) : Nat := fwFld i 0x10 8

/-- MAGIC, FORMAT and every reserved field are correct (check 1). -/
def fwFormOk (i : FwImage) : Bool :=
  i.header.length == 512 && fwFld i 0 4 == 0x57464B41 && fwFld i 4 2 == 1 && fwFlags i < 4 && fwFld i 0xE 2 == 0
    && fwFld i 0x18 8 == 0 && fwFld i 0xE5 27 == 0 && fwFld i 0x184 124 == 0

/-- The hash of a root key slot that is programmed and not revoked (R465). -/
def rootKey (revoked : BitVec 4) (slot : Nat) : Option (BitVec 512) :=
  if slot < 4 && !nbit revoked.toNat slot then Config.rootHash slot else none

/-- The first check of R466 that an image fails, 1 to 6; 0 when it passes. -/
def fwCheck (nv : NonVolatile) (i : FwImage) : Nat :=
  if !fwFormOk i then 1
  else
    match rootKey nv.revoked (fwSlot i) with
    | none => 2
    | some h =>
      if sha512 (fwBytes i 0x60 133) != recBytes h then 3
      else if !ecVerify (fwBytes i 0x60 133) (sha512 (fwBytes i 0 256)) (fwBytes i 0x100 132) then 4
      else if fwSvn i < nv.svn then 5
      else if i.body.length != fwLength i || sha512 i.body != fwBytes i 0x20 64 then 6
      else 0

/-- A boot flash bank. -/
def bankImg (nv : NonVolatile) (b : Bool) : FwImage := if b then nv.bankB else nv.bankA

/-- The image that runs. -/
def runningImg (s : State) : FwImage := bankImg s.nv s.boot.bank

/-! ## Steps 1 to 3 -/

/-- Start-up stops with a code (R464). -/
def failStart (code : Nat) (s : State) : State := { s with boot := { s.boot with failed := true, fail := BitVec.ofNat 4 code } }

/-- RAIL_SEQUENCE_DONE: step 1 ends, the region core rails at the N = 32 voltage (R462). -/
def execRailSequenceDone (s : State) : Result :=
  .next (if s.power.on && !s.boot.rails then setRails 32 { s with boot := { s.boot with rails := true } } else s)

/-- Run a bank's image: step 2 ends (R466). -/
def runBank (b fell : Bool) (s : State) : State :=
  let i := bankImg s.nv b
  let s := { s with boot := { s.boot with
    booted := true, bank := b, secFallback := fell, rootSlot := BitVec.ofNat 2 (fwSlot i),
    svnImage := BitVec.ofNat 7 (fwSvn i), fwVersion := BitVec.ofNat 32 (fwVersionOf i) } }
  if fell then bump .bankFallbacks 1 s else s

/-- BOOT_VERIFY_DONE: the bank of the bank-select record first, then the other (R466); with neither, start-up stops
(R464). PCIe link training may begin (R462). -/
def execBootVerifyDone (s : State) : Result :=
  .next (if !s.power.on || !s.boot.rails || s.boot.booted || s.boot.failed then s
    else
      let s := { s with host := { s.host with training := !s.host.perst } }
      let b := s.nv.select
      if fwCheck s.nv (bankImg s.nv b) = 0 then runBank b false s
      else if fwCheck s.nv (bankImg s.nv (!b)) = 0 then runBank (!b) true s
      else failStart (if (List.range 4).all fun k => (rootKey s.nv.revoked k).isNone then 2 else 1) s)

/-- The bindings generation-1 firmware writes (R361). -/
def bindings : List (Nat × BitVec 8 × BitVec 8) :=
  [(4, 0x01, 0x10), (5, 0x01, 0x11), (6, 0x01, 0x12), (7, 0x01, 0x13), (8, 0x01, 0x20), (9, 0x10, 0x30), (10, 0x20, 0x50),
   (11, 0x40, 0x10)]

/-- The binding table written (R360). -/
def writeBindings (s : State) : State :=
  bindings.foldl (fun s e => modChan e.1 (fun x => { x with a := e.2.1, b := e.2.2, valid := true }) s) s

/-- The rack position from the pins GA_B1 to GA_PAR, bit 6 to bit 0 (R495). -/
def geoPosition (ga : BitVec 7) : BitVec 8 :=
  if (maskBits 7 ga.toNat).length % 2 = 1 then BitVec.ofNat 8 (ga.toNat / 2) else 0xFF

/-- CORE_START_DONE: step 3 ends, or a core or the SRAM test has failed (R462, R464). Steps 4 to 7 begin outside test
hold (R481): every stack's T3 mount begins (R471). -/
def execCoreStartDone (coresOk sramOk : Bool) (ga : BitVec 7) (s : State) : Result :=
  .next (if !s.power.on || !s.boot.booted || s.boot.cores || s.boot.failed then s
    else if !coresOk then failStart 3 s
    else if !sramOk then failStart 4 s
    else
      let s := ([0x10, 0x11, 0x12, 0x13] : List (BitVec 8)).foldl (fun s m => goOn m s) s
      let s := writeBindings { s with boot := { s.boot with cores := true, rackPos := geoPosition ga } }
      if s.boot.testHold then s else (List.range 4).foldl (fun s st => setT3State st 1 s) s)

/-! ## Steps 4 and 7 -/

/-- DRAM_TRAINING_DONE: an attempt ends; `failed` are the groups with a channel that failed in it (R470). -/
def execDramTrainingDone (failed : BitVec 24) (s : State) : Result :=
  let b := s.boot
  .next (if !s.power.on || !b.cores || b.testHold || b.dramDone || b.failed then s
    else
      let bad := b.dramBad &&& failed
      let s := if b.dramTries = 0 then s else (maskBits 24 b.dramBad.toNat).foldl (fun s g => bump (.trainingRetries g) 1 s) s
      let last : Bool := bad == 0 || b.dramTries = 2
      let out := if last then bad else 0
      let s := { s with boot := { s.boot with dramTries := b.dramTries + 1, dramBad := bad, dramDone := last, groupsOut := out } }
      let s := bump .groupsOut (maskBits 24 out.toNat).length s
      if out == 0xFFFFFF then healthNotice (failStart 5 s) else s)

/-- T3_MOUNT_DONE: a stack's mount ends (R219, R471). The catalogue index is there once every stack's mount has
ended, and HEALTH is sent (R374). -/
def execT3MountDone (stack : BitVec 2) (ok : Bool) (s : State) : Result :=
  let st := stack.toNat
  .next (if (getStack s st).t3.st.toNat != 1 then s
    else
      let s := if ok then setT3State st (t3ByWear (getStack s st).t3.spare) (modT3 st (fun t => { t with closed := false }) s)
        else dropCatalogue st (loseT3Refs st (setT3State st 5 s))
      let ended := (List.range 4).all fun i => 2 ≤ (getStack s i).t3.st.toNat
      healthNotice { s with boot := { s.boot with catReady := s.boot.catReady || ended } })

/-- The units a failed unit, cluster part or region part marks (R473). -/
def swatchUnits (units : List (BitVec 9)) (clusters : List (BitVec 6)) (regions : List (BitVec 4)) : List Nat :=
  (units.map (·.toNat) ++ clusters.flatMap (fun c => upto (8 * c.toNat) 8)
    ++ regions.flatMap (fun r => upto (32 * r.toNat) 32)).foldl insNat []

/-- STARTUP_SWATCH_DONE: step 7 ends; failing units are marked and T1 hanks retired (R473, R474). -/
def execStartupSwatchDone (units : List (BitVec 9)) (clusters : List (BitVec 6)) (regions : List (BitVec 4))
    (t1Hanks : List Nat) (s : State) : Result :=
  let b := s.boot
  .next (if !s.power.on || !b.cores || b.testHold || b.swatchDone || b.failed then s
    else
      let us := swatchUnits units clusters regions
      let hs := (t1Hanks.filter (· < 768)).foldl insNat []
      let s := us.foldl (fun s u => modUnit u (fun x => { x with marked := true }) s) s
      bump .swatchFailures us.length { s with boot := { s.boot with swatchDone := true, t1Retired := hs } })

/-! ## Step 8 and READY -/

/-- PCIE_READINESS: link training has ended after step 3, or after start-up has stopped: the binding table locks and
configuration requests are answered (R360, R462, R464). -/
def execPcieReadiness (s : State) : Result :=
  .next (if s.power.on && (s.boot.cores || s.boot.failed) && !s.boot.testHold && !s.boot.pcie && s.host.training && !s.host.perst
    then
      { s with
        host := { s.host with training := false, up := true }
        boot := { s.boot with pcie := true }
        mbx := { s.mbx with locked := true } }
    else s)

/-- The fuses the security core updates when the image reaches READY (R467). -/
def updateFuses (s : State) : State :=
  let i := runningImg s
  let svn := if nbit (fwFlags i) 0 then max s.nv.svn (min 64 (fwSvn i)) else s.nv.svn
  let rev := if nbit (fwFlags i) 1 then s.nv.revoked ||| BitVec.ofNat 4 (2 ^ fwSlot i - 1) else s.nv.revoked
  { s with nv := { s.nv with svn := svn, revoked := rev } }

/-- READY_SET: the request-table mirror hank and the stop-set hank are allocated and pinned, READY is set, and HEALTH
is sent (R374, R463). -/
def execReadySet (s : State) : Result :=
  let b := s.boot
  .next (if !s.power.on || !b.pcie || !b.dramDone || !b.swatchDone || b.failed || b.ready then s
    else
      match lowestFree s 2 none, lowestFree s 1 none with
      | some k2, some k1 =>
        let s := takeHank k1 none true (takeHank k2 none true s)
        healthNotice (updateFuses { s with boot := { s.boot with
          ready := true, mirrorPinned := true, mirrorHank := hankAddr k2, stopBase := hankAddr k1,
          readyMs := BitVec.ofNat 32 ((s.us - b.time0) / 1000) } })
      | _, _ => s)

/-! ## Firmware update and recovery (R468, R469) -/

/-- An image of `len` bytes: header and body. -/
def fwOf (l : List Byte) : FwImage := { header := l.take 512, body := l.drop 512 }

/-- The image's length agrees with its header, and LENGTH is in its range (R465, R468). -/
def fwLenOk (i : FwImage) (len : Nat) : Bool :=
  512 ≤ len && len == 512 + fwLength i && 4096 ≤ fwLength i && fwLength i ≤ 33553920 && fwLength i % 4096 == 0

/-- A FW_UPDATE ends, counted by its status (R485). -/
def endUpdateFw (id status : Nat) (s : State) : State :=
  adminDone id status 0 (bump (.fwUpdates status) 1 { s with boot := { s.boot with updImg := none } })

/-- FW_UPDATE: the image is read and checked; then its bank is written (R468). -/
def runFwUpdate (id : Nat) (d : Rec64) (s : State) : State :=
  let len := fld d 0x18 4
  match adminRead id (fld d 0x10 8) len s with
  | (none, s) => endUpdateFw id stBad s
  | (some l, s) =>
    let i := fwOf l
    if fwLenOk i len && fwCheck s.nv i = 0 then { s with boot := { s.boot with updImg := some (id, i) } }
    else endUpdateFw id stBad s

/-- FW_BANK_WRITE_DONE: the write and its read-back end; a failed one leaves a bank that does not pass (R468). -/
def execFwBankWriteDone (ok : Bool) (s : State) : Result :=
  .next (match s.boot.updImg with
    | none => s
    | some (id, i) =>
      if ok then
        let s := writeOther i s
        endUpdateFw id stDone { s with nv := { s.nv with select := !s.boot.bank } }
      else endUpdateFw id stDataLost (writeOther spoiltBank s))

/-- SEC_RCV_CTRL written: while FAILED, LENGTH is set and GO starts the recovery, if none runs (R469, R483; log entry
54). -/
def rcvCtrl (v : Nat) (s : State) : State :=
  if !s.boot.failed then s
  else
    let s := { s with boot := { s.boot with rcvLen := BitVec.ofNat 26 v } }
    if !nbit v 31 || s.boot.rcvState == 1 then s
    else
      let len := s.boot.rcvLen.toNat
      let err (c : Nat) (s : State) : State :=
        { s with boot := { s.boot with rcvState := 3, rcvCheck := BitVec.ofNat 8 c } }
      match hostRead s.boot.rcvAddr.toNat len s with
      | (none, s) => err 0 s
      | (some l, s) =>
        let i := fwOf l
        if !fwLenOk i len then err 7 s
        else
          match fwCheck s.nv i with
          | 0 => { s with boot := { s.boot with rcvState := 1, rcvCheck := 0, rcvImg := some i } }
          | c => err c s

/-- RECOVERY_GO: a host write of SEC_RCV_CTRL with GO (R469). -/
def execRecoveryGo (v : BitVec 32) (s : State) : Result :=
  .next (if barLive s then rcvCtrl (v.toNat % 2 ^ 31 + 2 ^ 31) s else s)

/-- RECOVERY_DONE: the image stands in both banks, bank A is selected, and a module reset follows (R469). -/
def execRecoveryDone (s : State) : Result :=
  .next (match s.boot.rcvImg with
    | none => s
    | some i => moduleReset { s with nv := { s.nv with bankA := i, bankB := i, select := false } })

end Sys2Proof.Machine
end

