-- ==== Sys2Proof/Machine/Messages.lean ====
section
/-! DEFINITION. Management messages (R373 to R376): reassembly, replies, and what generation-1 firmware does with each
request of R374. -/
namespace Sys2Proof.Machine
open Sys2Proof

/-! ## Reassembly (R373, R376) -/

/-- Payload words of a header. -/
def hdrLen (w : BitVec 32) : Nat := nbits w.toNat 8 4
def hdrType (w : BitVec 32) : Nat := nbits w.toNat 0 8
def hdrSeq (w : BitVec 32) : BitVec 8 := BitVec.ofNat 8 (nbits w.toNat 16 8)

/-- The words of a sender that wait for a handler on a channel. -/
def wordsFrom (s : State) (h : BitVec 8) (c : Nat) (src : BitVec 8) : List (BitVec 32) :=
  ((rxQueue s h c).filter (·.src == src)).map (·.word)

/-- The oldest message of a sender, when all its words have come: header and payload. -/
def frontMsg (s : State) (h : BitVec 8) (c : Nat) (src : BitVec 8) : Option (BitVec 32 × List (BitVec 32)) :=
  match wordsFrom s h c src with
  | [] => none
  | w :: t => if t.length < hdrLen w then none else some (w, t.take (hdrLen w))

/-- The first `n` words of a sender leave a queue. -/
def dropWords (src : BitVec 8) : (n : Nat) → List MbxWord → List MbxWord
  | _, [] => []
  | n, w :: t =>
    if w.src == src then (match n with | 0 => w :: t | n + 1 => dropWords src n t) else w :: dropWords src n t

/-- Replace the queue toward a handler. -/
def setRxQueue (h : BitVec 8) (c : Nat) (f : List MbxWord → List MbxWord) (s : State) : State :=
  modChan c (fun x =>
    if (if 4 ≤ c then x.a == h else h == chOwner c) then { x with q0 := f x.q0 } else { x with q1 := f x.q1 }) s

/-- Words of whole messages at the front of a sender's words. -/
def wholeWords : (fuel : Nat) → List (BitVec 32) → Nat
  | 0, _ => 0
  | _, [] => 0
  | n + 1, w :: t => if t.length < hdrLen w then 0 else 1 + hdrLen w + wholeWords n (t.drop (hdrLen w))

/-- Keep the first `n` words of a sender. -/
def keepWords (src : BitVec 8) : (n : Nat) → List MbxWord → List MbxWord
  | _, [] => []
  | n, w :: t =>
    if w.src == src then (match n with | 0 => keepWords src 0 t | n + 1 => w :: keepWords src n t) else w :: keepWords src n t

/-- A handler that sees RX_COLLISION discards every partial message of the queue and clears the flag (R376). -/
def discardPartials (h : BitVec 8) (c : Nat) (s : State) : State :=
  if !(getChan s c).rxCol.contains h then s
  else
    let s := modChan c (fun x => { x with rxCol := x.rxCol.filter (· != h) }) s
    masters.foldl (fun s src =>
      let ws := wordsFrom s h c src
      let n := wholeWords 16 ws
      if n < ws.length then bump (.partials h.toNat) 1 (setRxQueue h c (keepWords src n) s) else s) s

/-! ## Replies -/

/-- Room toward a master in the queue a handler writes, and a lock that lets it write (R366, R368). -/
def replyRoom (s : State) (h : BitVec 8) (c : Nat) (dst : BitVec 8) (n : Nat) : Bool :=
  let x := getChan s c
  isOff s dst || (!x.compat || x.lock == 0 || x.lock == h)
    && (dst == mPartner || (if 4 ≤ c then (if x.a == h then x.q1.length else x.q0.length) else x.q1.length) + n ≤ 16)

/-- In COMPAT a handler takes the lock of a channel, when it is free, and releases it after what it writes (R368, R369). -/
def underLock (h : BitVec 8) (c : Nat) (f : State → State) (s : State) : State :=
  if (getChan s c).compat && (getChan s c).lock == 0 then
    modChan c (fun x => { x with lock := 0 }) (f (modChan c (fun x => { x with lock := h }) s))
  else f s

/-- Write a reply's words; toward a domain that is off they are dropped and counted (R375). -/
def sendReply (h : BitVec 8) (c : Nat) (dst : BitVec 8) (ws : List (BitVec 32)) (s : State) : State :=
  if isOff s dst then bump (.droppedReplies h.toNat) 1 s
  else
    underLock h c (fun s =>
      if dst == mPartner then ws.foldl (fun s w => toPartner h c w s) s
      else putWords c (4 ≤ c && dst == (getChan s c).a) h dst ws s) s

/-- A reply of this handler to this sender and SEQ within the last 100 ms (R375). -/
def answeredNow (s : State) (h src : BitVec 8) (seq : BitVec 8) : Option Answered :=
  s.mbx.answered.find? fun a => a.handler == h && a.src == src && a.seq == seq && s.us < a.at_.toNat + 100000

/-- Remember a reply. -/
def rememberReply (h src seq : BitVec 8) (ws : List (BitVec 32)) (s : State) : State :=
  let old := s.mbx.answered.filter fun a => s.us < a.at_.toNat + 100000 && !(a.handler == h && a.src == src && a.seq == seq)
  { s with mbx := { s.mbx with answered := old ++ [{ handler := h, src := src, seq := seq, at_ := s.now, words := ws }] } }

/-- Results of a reply (R373). -/
def rOk : Nat := 0
def rUnknown : Nat := 1
def rLength : Nat := 2
def rDenied : Nat := 3
def rBusy : Nat := 4

/-! ## Requests (R374) -/

/-- The channels on which a handler takes requests: the owner's privileged channel, and bound channels joined to it. -/
def handlesOn (s : State) (h : BitVec 8) (c : Nat) : Bool :=
  if c < 4 then chOwner c == h else chBinds s c && ((getChan s c).a == h || (getChan s c).b == h)

/-- The module's own handlers: the security core and the management cores; core 0 owns channel 1. -/
def ownHandler (s : State) (h : BitVec 8) : Bool :=
  s.power.on && s.boot.cores && !isOff s h && ([0x10, 0x11, 0x12, 0x13, 0x20] : List (BitVec 8)).contains h

/-- Types a handler serves, with the payload length and whether a sender may ask. -/
def msgRule (h : BitVec 8) (type : Nat) (src : BitVec 8) : Option (Nat × Bool) :=
  let hostOrRack : Bool := src == mHost || src == mRack
  match type with
  | 1 => some (0, true)
  | 2 => if h == mCore0 then some (1, hostOrRack) else none
  | 3 => if h == mCore0 then some (0, hostOrRack) else none
  | 4 => if h == mCore0 then some (2, src == mRack) else none
  | 8 => if h == mSecurity then some (1, hostOrRack) else none
  | 9 => if h == mSecurity then some (0, true) else none
  | _ => none

/-- The answer to a request: RESULT and reply payload; and the request's effect. -/
def serveMsg (h src : BitVec 8) (hd : BitVec 32) (pay : List (BitVec 32)) (s : State) : Nat × List (BitVec 32) × State :=
  match msgRule h (hdrType hd) src with
  | none => (rUnknown, [], s)
  | some (n, may) =>
    if !may then (rDenied, [], bump (.denied h.toNat) 1 s)
    else if pay.length != n then (rLength, [], s)
    else
      let word (v : Nat) : BitVec 32 := BitVec.ofNat 32 v
      let p0 := (lgetD pay 0 0).toNat
      match hdrType hd with
      | 1 => (rOk, [s.boot.fwVersion], s)
      | 2 =>
        let w := min 0xFFFF p0
        let s := if src == mHost then writeCap w s else writeRackCap w s
        (rOk, [word (s.power.inForce.toNat + 2 ^ 31 * b2n (clamped w))], s)
      | 3 =>
        (rOk, [word s.power.watts.toNat, word s.power.gauge.toNat, word (s.power.gauge.toNat >>> 32),
               word (s.power.junction.toNat + 2 ^ 16 * s.power.inlet.toNat), word s.power.outlet.toNat, word s.power.lag.toNat,
               word (t3StateWord s)], s)
      | 4 =>
        let id := BitVec.ofNat 64 (p0 + 2 ^ 32 * (lgetD pay 1 0).toNat)
        (rOk, [], if s.links.rackId == id then s else rackIdChanged { s with links := { s.links with rackId := id } })
      | 8 => if p0 = 0x52534554 then (rOk, [], s) else (rLength, [], s)
      | _ =>
        let hash := (sha512 identityPub).take 8
        (rOk, [word Config.serial.toNat, word (Config.serial.toNat >>> 32), word (natOf (hash.take 4)), word (natOf (hash.drop 4))], s)

/-- A reply goes out; RESET_MODULE's is followed by the module reset (R374, R375). -/
def finishMsg (x : Running) (s : State) : State :=
  let s := rememberReply x.handler x.src x.seq x.words (sendReply x.handler x.ch x.src x.words s)
  if x.resets then moduleReset s else s

/-- A SET_CAP or RESET_MODULE that waited for room for its reply ends when there is some. -/
def finishRunning (h src : BitVec 8) (s : State) : State :=
  (s.mbx.running.filter fun x => x.handler == h && x.src == src).foldl (fun s x =>
    if replyRoom s h x.ch src x.words.length then
      finishMsg x { s with mbx := { s.mbx with running := s.mbx.running.erase x } }
    else s) s

/-- A handler takes the oldest message of a sender and answers it, once there is room for the reply (R375). A request
repeated within 100 ms is answered again and not executed. SET_CAP and RESET_MODULE act at once, and run until their reply is
sent; while one of the same sender runs a request is answered with BUSY (log entry 56). -/
def takeMsg (h : BitVec 8) (c : Nat) (src : BitVec 8) (hd : BitVec 32) (pay : List (BitVec 32)) (s : State) : State :=
  let taken := setRxQueue h c (dropWords src (1 + pay.length)) s
  match answeredNow s h src (hdrSeq hd) with
  | some a => if replyRoom s h c src a.words.length then sendReply h c src a.words taken else s
  | none =>
    let busy : Bool := s.mbx.running.any fun x => x.handler == h && x.src == src
    let (r, ws, s') := if busy then (rBusy, [], taken) else serveMsg h src hd pay taken
    let long : Bool := r == rOk && (hdrType hd == 2 || hdrType hd == 8)
    let x : Running :=
      { handler := h, src := src, ch := c, seq := hdrSeq hd, resets := long && hdrType hd == 8
        words := msgHeader (hdrType hd % 128 + 128) ws.length (hdrSeq hd).toNat r :: ws }
    if replyRoom s h c src x.words.length then finishMsg x s'
    else if long then { s' with mbx := { s'.mbx with running := s'.mbx.running ++ [x] } }
    else s

/-- A message command: the handler's oldest message of this sender is of a type the command names. -/
def message (types : Nat → Bool) (h : BitVec 8) (c : Nat) (src : BitVec 8) (s : State) : Result :=
  .next (if !ownHandler s h || !handlesOn s h c then s
    else
      let s := discardPartials h c (finishRunning h src s)
      match frontMsg s h c src with
      | some (hd, pay) => if types (hdrType hd) then takeMsg h c src hd pay s else s
      | none => s)

/-- PING: a PING, or a message of a type this handler does not serve, which is answered with UNKNOWN_TYPE. -/
def execPing (handler : BitVec 8) (ch : BitVec 6) (src : BitVec 8) (s : State) : Result :=
  message (fun t => t == 1 || (msgRule handler t src).isNone) handler ch.toNat src s

/-- SET_CAP: the host's or the rack controller's requested cap (R440). -/
def execSetCap (ch : BitVec 6) (src : BitVec 8) (s : State) : Result := message (· == 2) mCore0 ch.toNat src s

/-- GET_TELEMETRY: the registers R457 names. -/
def execGetTelemetry (ch : BitVec 6) (src : BitVec 8) (s : State) : Result := message (· == 3) mCore0 ch.toNat src s

/-- SET_RACK_ID: used at the next link training (R19, R380). -/
def execSetRackId (ch : BitVec 6) (src : BitVec 8) (s : State) : Result := message (· == 4) mCore0 ch.toNat src s

/-- DRAIN_NOTICE: the rack controller writes the notice to the host's channel; its SEQ is its own, a free value (log
entry 3). -/
def execDrainNotice (src : BitVec 8) (ms : BitVec 32) (s : State) : Result :=
  .next (if src != mRack then s
    else
      mbxAccess mRack (fun s =>
        let (q, s) := freeNat s
        mbxTx mRack 3 ms (mbxTx mRack 3 (msgHeader 5 1 (q % 256) 0) s)) s)

/-- RESET_MODULE: the security core replies and the module reset begins. -/
def execResetModule (ch : BitVec 6) (src : BitVec 8) (s : State) : Result := message (· == 8) mSecurity ch.toNat src s

/-- GET_IDENTITY: SERIAL and the first 8 bytes of the hash of the identity key (R477). -/
def execGetIdentity (ch : BitVec 6) (src : BitVec 8) (s : State) : Result := message (· == 9) mSecurity ch.toNat src s

end Sys2Proof.Machine
end

