-- ==== Sys2Proof/Machine/Registers.lean ====
section
/-! DEFINITION. Host writes of registers (R6, R505 to R511): each register acts by its access code and its chapter's
rule. -/
namespace Sys2Proof.Machine
open Sys2Proof

/-- A value brought into a range. -/
def clampTo (lo hi v : Nat) : Nat := max lo (min hi v)

/-- CAP_DRV.VERSION: version 1 or 0, unless locked (R326, R512). -/
def writeCapDrv (v : Nat) (s : State) : State :=
  if s.host.lock then s
  else { s with host := { s.host with version := if v % 16 = 1 then 1 else 0 } }

/-- The low half of a two-part host address: bits [31:12] (R330, R334). -/
def putLo (a : BitVec 51) (v : Nat) : BitVec 51 := BitVec.ofNat 51 (a.toNat / 2 ^ 32 * 2 ^ 32 + v % 2 ^ 32 / 4096 * 4096)

/-- The high half: bits [50:32]. -/
def putHi (a : BitVec 51) (v : Nat) : BitVec 51 := BitVec.ofNat 51 (v % 2 ^ 19 * 2 ^ 32 + a.toNat % 2 ^ 32)

/-- A change of the RING_ staging registers; no ring is affected (R333). -/
def setRingRegs (f : RingRegs → RingRegs) (s : State) : State := { s with ringRegs := f s.ringRegs }

/-- The DB_ addresses come into effect: at the start of a poll, and at once while polling is off (R334). -/
def loadDb (s : State) : State :=
  { s with db := { s.db with bitmapCur := s.db.bitmap, tailCur := s.db.tail, devidxCur := s.db.devidx } }

/-- A change of a DB_ register. -/
def setDb (f : DbRegs → DbRegs) (s : State) : State :=
  let s := { s with db := f s.db }
  if s.db.enable then s else loadDb s

/-- W1C: bits written as one are cleared (R6). -/
def w1c {w : Nat} (x : BitVec w) (v : Nat) : BitVec w := x &&& ~~~(BitVec.ofNat w v)

/-- SEC_RCV_ADDR, a half of it, while FAILED (R483, R508). -/
def writeRcvAddr (hi : Bool) (v : Nat) (s : State) : State :=
  if !s.boot.failed then s
  else
    let a := s.boot.rcvAddr.setWidth 51
    { s with boot := { s.boot with rcvAddr := (if hi then putHi a v else putLo a v).setWidth 64 } }

/-- A 4-byte write of a register of BAR0. -/
def bar0Write (off v : Nat) (s : State) : State :=
  match off with
  | 0x0000 => writeCapDrv v s
  | 0x1000 => setRingRegs (fun r => { r with sel := BitVec.ofNat 12 v }) s
  | 0x1004 => setRingRegs (fun r => { r with base := putLo r.base v }) s
  | 0x1008 => setRingRegs (fun r => { r with base := putHi r.base v }) s
  | 0x100C => setRingRegs (fun r => { r with cqb := putLo r.cqb v }) s
  | 0x1010 => setRingRegs (fun r => { r with cqb := putHi r.cqb v }) s
  | 0x1014 => setRingRegs (fun r => { r with cfg := BitVec.ofNat 20 v }) s
  | 0x1018 => setRingRegs (fun r => { r with link := BitVec.ofNat 32 v }) s
  | 0x101C => ringCmd (v % 4) s
  | 0x2000 => setDb (fun d => { d with bitmap := putLo d.bitmap v }) s
  | 0x2004 => setDb (fun d => { d with bitmap := putHi d.bitmap v }) s
  | 0x2008 => setDb (fun d => { d with tail := putLo d.tail v }) s
  | 0x200C => setDb (fun d => { d with tail := putHi d.tail v }) s
  | 0x2010 => setDb (fun d => { d with devidx := putLo d.devidx v }) s
  | 0x2014 => setDb (fun d => { d with devidx := putHi d.devidx v }) s
  | 0x2018 => setDb (fun d => { d with interval := BitVec.ofNat 7 (clampTo 1 64 (v % 128)), enable := nbit v 8 }) s
  | 0x3000 => { s with irq := { s.irq with vector := BitVec.ofNat 11 v } }
  | 0x3004 => { s with irq := { s.irq with cause := w1c s.irq.cause v } }
  | 0x3008 => { s with irq := { s.irq with enable := BitVec.ofNat 6 v } }
  | 0x4000 => { s with agingSteps := BitVec.ofNat 6 (clampTo 1 63 (v % 64)), urgentUs := BitVec.ofNat 16 (v / 256) }
  | 0x5000 => { s with epochUs := BitVec.ofNat 20 (clampTo 10 1000000 (v % 2 ^ 20)) }
  | 0x5008 => { s with rdThreshold := BitVec.ofNat 16 (clampTo 10 1000 (v % 2 ^ 16)) }
  | 0x500C => { s with patrolHours := BitVec.ofNat 16 (clampTo 1 720 (v % 2 ^ 16)) }
  | 0x6000 => writeCap (v % 2 ^ 16) s
  | 0x602C => { s with power := { s.power with event := w1c s.power.event v } }
  | 0x7000 => lnkCtrl (BitVec.ofNat 32 v) s
  | 0x7010 => { s with links := { s.links with event := w1c s.links.event v } }
  | 0x8004 => { s with ply := { s.ply with events := w1c s.ply.events v } }
  | 0x9008 => writeRcvAddr false v s
  | 0x900C => writeRcvAddr true v s
  | 0x9010 => rcvCtrl v s
  | _ => s

/-- A write of a dword of the MSI-X table: unmasking a vector with its pending bit set sends its message (R354). -/
def msixWrite (i v : Nat) (s : State) : State :=
  if i % 4 = 3 then
    let vec := i / 4
    let s := { s with host := { s.host with msixMask := tset s.host.msixMask vec (nbit v 0) } }
    if !nbit v 0 && s.host.pba.contains vec then
      sendMsix vec { s with host := { s.host with pba := s.host.pba.filter (· != vec) } }
    else s
  else { s with host := { s.host with msixOff := tset s.host.msixOff i (BitVec.ofNat 32 v) } }

/-- A 4-byte write of BAR0 or BAR2. -/
def barWrite4 (bar2 : Bool) (off v : Nat) (s : State) : State :=
  if !bar2 then bar0Write off v s
  else if 0x10000 ≤ off && off < 0x20000 then winWrite4 mHost (off - 0x10000) v s
  else if 0x80000 ≤ off && off < 0x88000 then msixWrite ((off - 0x80000) / 4) v s
  else s

/-- A naturally aligned write of 4 or 8 bytes: the lower half first (R508). -/
def barWrite (bar2 : Bool) (off : Nat) (eight : Bool) (v : Nat) (s : State) : State :=
  let s := barWrite4 bar2 off (v % 2 ^ 32) s
  if eight then barWrite4 bar2 (off + 4) (v / 2 ^ 32) s else s

/-- REGISTER_WRITE: a write of 4 or 8 bytes: by the host at an offset of a BAR or of configuration space, by a master inside the
module in its mailbox window (R6, R317, R323, R363, R370, R509). -/
def execRegisterWrite (space : Space) (off : BitVec 20) (eight : Bool) (v : BitVec 64) (s : State) : Result :=
  let n := if eight then 8 else 4
  .next (match space with
    | .bar0 => barAccess true false off.toNat n (barWrite false off.toNat eight v.toNat) s
    | .bar2 => barAccess true true off.toNat n (barWrite true off.toNat eight v.toNat) s
    | .config => cfgAccess off.toNat eight (cfgWrite off.toNat v.toNat) s
    | .window m => ownWindow m off.toNat eight (winWrite m (off.toNat - 0x10000) eight v.toNat) s)

/-- CAP_DRV_WRITE (R326). -/
def execCapDrvWrite (v : BitVec 32) (s : State) : Result := .next (barAccess true false 0 4 (writeCapDrv v.toNat) s)

/-- PWR_CAP_WRITE (R440, R441). -/
def execPwrCapWrite (v : BitVec 32) (s : State) : Result := .next (barAccess true false 0x6000 4 (writeCap (v.toNat % 2 ^ 16)) s)

/-- LNK_CTRL_WRITE (R398). -/
def execLnkCtrlWrite (v : BitVec 32) (s : State) : Result := .next (barAccess true false 0x7000 4 (lnkCtrl v) s)

/-- BAR_ACCESS_MALFORMED: an access that is not 4 or 8 bytes, naturally aligned (R323). A well-formed one is not this
event. -/
def execBarAccessMalformed (write bar2 : Bool) (off : BitVec 20) (size : Nat) (s : State) : Result :=
  .next (barAccess write bar2 off.toNat size id s)

end Sys2Proof.Machine
end

