-- ==== Sys2Proof/Machine/AdminInfo.lean ====
section
/-! DEFINITION. What admin commands report: IDENTIFY (R347), COUNTERS (R429, R430), ATTEST (R478). -/
namespace Sys2Proof.Machine
open Sys2Proof

/-! ## IDENTIFY (R347) -/

/-- A panel state's code. -/
def PanelSt.code : PanelSt → Nat
  | .empty => 0 | .casting => 1 | .ready => 2 | .swapping => 3 | .binding => 4 | .faulted => 5

/-- Bytes laid out from fields (offset, size, value) in a block of zeros. -/
def block (n : Nat) (fs : List (Nat × Nat × Nat)) : List Byte := recBytes (recOf (8 * n) fs)

/-- A mask of numbers. -/
def bitsMask (l : List Nat) : Nat := l.foldl (fun a i => a ||| 2 ^ i) 0

/-- Valid entries of the catalogue; none before the index has been read (R471). -/
def catEntries (s : State) : List CatEntry := if s.boot.catReady then s.catalogue.filter (·.valid) else []

/-- CNS 0, the module page. -/
def modulePage (s : State) : List Byte :=
  let cl := s.panels.foldl (fun a p => a ||| p.2.clusters.toNat) 0
  let gr := s.panels.foldl (fun a p => a ||| p.2.groups.toNat) 0
  capBlock s ++ block (4096 - 64)
    [(0x00, 4, t3StateWord s), (0x08, 64, bitsMask (markedUnits s)), (0x48, 8, 2 ^ 64 - 1 - cl), (0x50, 4, 2 ^ 24 - 1 - gr),
     (0x54, 2, (catEntries s).length), (0x56, 2, if s.ply.st == .bound then s.ply.partner.toNat else 0xFFFF),
     (0x58, 4, bitsMask ((List.range 18).filter fun p => (getPort s p).st == .up))]

/-- An entry of CNS 1, the panel table. -/
def panelEntry (s : State) (p : Nat) : List Byte :=
  match getPanel s p with
  | none => block 64 [(0, 1, 0xFF)]
  | some x =>
    block 64 ([(0, 1, x.st.code), (1, 1, b2n x.gen), (2, 1, x.fallback), (4, 4, x.margin.toNat), (8, 8, x.clusters.toNat),
        (0x10, 4, x.groups.toNat), (0x14, 8, x.ways.toNat)]
      ++ (match x.cast with
        | some c => [(0x1C, 4, c.model.toNat), (0x20, 4, c.wversion.toNat), (0x24, 4, c.admission.toNat)]
        | none => []))

/-- CNS 2, the catalogue. -/
def catalogueTable (s : State) : List Byte :=
  let l := catEntries s
  l.flatMap (fun e => block 32 [(0, 4, e.model.toNat), (4, 4, e.wversion.toNat), (8, 8, e.length),
    (0x10, 1, 1 + 2 * b2n (!e.staged.isEmpty))]) ++ List.replicate (32 * (1024 - l.length)) 0

def runIdentify (id : Nat) (d : Rec64) (s : State) : State :=
  let out := match fld d 8 1 with
    | 0 => modulePage s
    | 1 => (List.range 16).flatMap (panelEntry s)
    | _ => catalogueTable s
  adminOut id (fld d 0x10 8) (fld d 0x18 4) out s

/-! ## COUNTERS (R429): the counters of a scope in the order of the manual's tables -/

/-- The completion statuses of R349, ascending. -/
def statuses : List Nat := [0x00, 0x01, 0x02, 0x03, 0x04, 0x10, 0x11, 0x20, 0x21, 0x22, 0x23, 0x30, 0x31, 0x40]

/-- Keys of the work lists: 16 of each of 64 clusters, then 16 of each of 16 regions. -/
def listKeys : List Nat := List.range 1280

/-- A counter kept for each member of a set. -/
def each {α : Type} (l : List α) (c : α → Ctr) (s : State) : List Nat := l.map fun m => ctrGet s.ctrs (c m)

/-- Counters of one member. -/
def ones1 (l : List Ctr) (s : State) : List Nat := l.map (ctrGet s.ctrs)

/-- SELECT 0: the module. -/
def moduleCtrs (s : State) : List Nat :=
  let ports := List.range 18
  let rings := List.range 4096
  let chans := List.range 64
  let ms := masters.map (·.toNat)
  each listKeys .claimsServed s ++ each listKeys .requeued s ++ each listKeys .rejectedStores s ++ each listKeys .epochs s
    ++ each statuses .deploys s ++ ones1 [.noSlot, .sweepEndings] s
    ++ each rings .accepted s ++ rings.flatMap (fun r => each statuses (.immediate r) s) ++ each rings .fullHolds s
    ++ ones1 [.ringErrors, .hostReadErrors, .malformedBar, .msixMessages, .polls] s
    ++ each chans .collisions s ++ each chans .lockRefusals s ++ ones1 [.unbound, .domainOff] s
    ++ each ms .denied s ++ each ms .droppedReplies s ++ each ms .partials s
    ++ each ports .fecCorrected s ++ each ports .fecBad s ++ each ports .flitErrors s ++ each ports .replays s
    ++ each ports .retrains s ++ each ports .sessionsResumed s ++ each ports .sessionsNew s ++ each ports .closedDrops s
    ++ each ports .serviceErrors s ++ each ports .fetchServed s ++ each ports .fetchRefused s ++ each ports .creditWait s
    ++ ones1 [.missedBeats, .partnersLost, .mirrorErrors, .resyncs, .adopted, .adoptionsEnded, .handoversOut,
        .handoversRefused, .kvMirrorSkips, .commitHeld] s
    ++ ones1 [.capClamps, .emergencies, .lagEvents, .throttles, .inputLimits, .coolantExc] s
    ++ each (List.range 4) .inputLoss s ++ ones1 [.trips] s ++ each (List.range 80) .stretched s
    ++ ones1 [.bankFallbacks] s ++ each statuses .fwUpdates s ++ each (List.range 24) .trainingRetries s
    ++ ones1 [.groupsOut, .catalogueLosses, .swatchFailures, .testRefused, .smbusErrors] s

/-- Highest and lowest erase count of a stack's blocks; a block never erased counts 0 (R214). -/
def eraseRange (t : T3Stack) : List Nat :=
  let ns := t.erases.map (·.2.toNat)
  [ns.foldl max 0, if t.erases.length < t3Blocks then 0 else ns.foldl min 65535]

/-- SELECT 1: a stack. -/
def stackCtrs (st : Nat) (s : State) : List Nat :=
  let t := (getStack s st).t3
  let ps := List.range 16
  ones1 [.lostRecords st, .reservedAddr st, .noHome st, .memCrc st, .reRequests st, .reMoves st, .dataLost st, .evictions st,
      .returns st, .allocWaits st] s
    ++ each ps (fun p => .cacheHits p st) s ++ each ps (fun p => .cacheMisses p st) s
    ++ ones1 [.t3Corrected st, .t3Uncorrectable st, .retiredBlocks st, .readDisturb st, .patrol st] s
    ++ eraseRange t ++ [t.spare] ++ ones1 [.lazyCopies st] s

/-- The expert counters of a panel: by layer and expert, then by layer (R263). -/
def expertCtrs (p : Nat) (c : Cast) (s : State) : List Nat :=
  let ls := c.img.pat.experts.zipIdx
  let le := ls.flatMap fun q => (List.range q.1.experts).map fun e => (q.2, e)
  let ly := ls.map (·.2)
  each le (fun q => .rowsKept p q.1 q.2) s ++ each le (fun q => .drops p q.1 q.2) s
    ++ each le (fun q => .emptySteps p q.1 q.2) s ++ each ly (.forced p) s ++ each ly (.nonFinite p) s
    ++ each ly (.noExpert p) s ++ each ly (.rejectedRoute p) s ++ each ly (.dispatchWaits p) s

/-- SELECT 2: a panel. -/
def panelCtrs (p : Nat) (s : State) : List Nat :=
  let c := getCast s p
  ones1 [.spillHigh p, .mappingFaults p] s
    ++ [(c.map (·.pagesTaken.length)).getD 0]
    ++ ones1 [.pageWaits p, .walks p, .blocksDelivered p, .blocksSkipped p, .pagesRead p, .sanitised p, .kvRebuilds p,
        .rejectedKv p] s
    ++ (match c with | some c => expertCtrs p c s | none => [])
    ++ each statuses (.castOns p) s ++ ones1 [.spareSubst p, .swapsDone p, .swapsFailed p, .versionChanged p] s
    ++ each statuses (.completions p) s
    ++ ones1 [.steps p, .preemptions p, .urgent p, .fallbacks p, .noFallback p, .malformed p, .discardedRuns p] s
    ++ [(c.map (·.tau.toNat)).getD 0] ++ ones1 [.fieldSwatchFail p] s

/-- SELECT 3: a unit. -/
def unitCtrs (u : Nat) (s : State) : List Nat :=
  let x := getUnit s u
  ones1 [.droppedStitches u, .unchecked16 u, .depthOverflow u, .narrowSat u, .samplerDegenerate u, .bankConflict u] s
    ++ [b2n x.marked, b2n x.halted] ++ each (List.range 8) (.spills u) s ++ ones1 [.busy u] s
    ++ each (List.range 12) (.stall u) s ++ ones1 [.strandCrc u, .resends u] s

/-- The mapping-fault record of a panel (R143); all zero when it holds none. -/
def faultBytes (p : Nat) (s : State) : List Byte :=
  match (getPanel s p).bind (·.fault) with
  | none => List.replicate 32 0
  | some r => block 32 [(0, 2, r.unit), (2, 1, r.resource), (3, 1, b2n r.atCastOn + 2 * b2n r.more), (4, 2, r.address),
      (6, 1, p), (8, 8, r.value.toNat), (0x10, 8, r.limit.toNat), (0x18, 8, r.time.toNat)]

/-- Fields of a slot that R282 gives no fixed value: offset, size and bits. -/
def slotFields : List (Nat × Nat × Nat) :=
  [(1, 1, 8), (2, 1, 2), (3, 1, 8), (4, 1, 8), (5, 1, 8), (6, 2, 12), (8, 4, 8), (0xC, 4, 32), (0x10, 4, 32), (0x14, 4, 32),
   (0x18, 4, 32), (0x1C, 4, 32), (0x20, 4, 32), (0x24, 2, 16), (0x26, 2, 16), (0x28, 2, 16), (0x2C, 4, 32), (0x30, 4, 32),
   (0x34, 4, 32), (0x38, 8, 64), (0x40, 8, 64), (0x48, 8, 64), (0x50, 8, 64), (0x58, 4, 32), (0x5C, 1, 8), (0x5D, 1, 8),
   (0x60, 4, 32)]

/-- The 128 bytes of a slot (R282). Of a FREE slot STATE and the zero fields are stated: the other fields are free values
(log entry 3). -/
def slotBytes (i : Nat) (s : State) : List Byte × State :=
  match getSlot s i with
  | none =>
    let (v, s) := freeNat s
    let b := block 124 (slotFields.map fun f => (f.1, f.2.1, v / 2 ^ (8 * f.1) % 2 ^ f.2.2))
    (b ++ bytesOf 4 (crc32c b), s)
  | some x =>
    let flags := b2n x.fallback + 2 * b2n x.pausePending + 4 * b2n x.abortPending + 8 * b2n x.noDeadline + 16 * b2n x.urgent
      + 32 * b2n x.takeover + 64 * b2n x.retryPending + 128 * b2n x.resumed
    let b := block 124
      [(0, 1, x.st.code), (1, 1, x.opcode), (2, 1, x.cls), (3, 1, x.prio.toNat + 16 * x.effective.toNat), (4, 1, x.panel),
       (5, 1, x.homePanel), (6, 2, x.client), (8, 4, flags), (0xC, 4, x.length), (0x10, 4, x.committed), (0x14, 4, x.prompt),
       (0x18, 4, x.maxNew), (0x1C, 4, x.deadline.toNat), (0x20, 4, x.acceptedAt.toNat), (0x24, 2, x.stopSet), (0x26, 2, x.ring),
       (0x28, 2, x.streamRing), (0x2C, 4, x.reqId.toNat), (0x30, 4, x.model.toNat), (0x34, 4, x.wversion.toNat),
       (0x38, 8, x.seed.toNat), (0x40, 8, x.pageList), (0x48, 8, x.tokenList), (0x50, 8, x.summary),
       (0x58, 4, x.mirrorEpoch.toNat), (0x5C, 1, x.status), (0x5D, 1, x.reason), (0x60, 4, x.lastStep.toNat)]
    (b ++ bytesOf 4 (crc32c b), s)

/-- The shadow of a slot (R342); of a FREE slot a free value (log entry 3). -/
def shadowBytes (i : Nat) (s : State) : List Byte × State :=
  match getSlot s i with
  | none => (let (v, s) := freeNat s; (bytesOf 64 v, s))
  | some x => (recBytes x.shadow, s)

/-- The datapath log of a stack: 256 records of 16 bytes (R91). -/
def logBytes (st : Nat) (s : State) : List Byte :=
  let l := (getStack s st).log
  l.flatMap (fun r => block 16 [(0, 2, r.unit), (2, 1, r.band), (3, 1, r.flags.toNat), (4, 2, r.column), (6, 1, r.attempt),
    (8, 8, r.time.toNat)]) ++ List.replicate (16 * (256 - l.length)) 0

/-- The accepted and in-flight counts of the 4,096 clients (R314). -/
def clientBytes (s : State) : List Byte :=
  (List.range 4096).flatMap fun c =>
    let x := tgetD s.clients c {}
    bytesOf 4 x.accepted.toNat ++ bytesOf 4 x.inFlight

/-- The data of COUNTERS: VALUES, and the bytes after the header. For SELECT 4 to 6 VALUES is not stated: a free value
(log entry 3). -/
def countersData (sel idx : Nat) (s : State) : Nat × List Byte × State :=
  let vals (l : List Nat) (more : List Byte) : Nat × List Byte × State := (l.length, l.flatMap (bytesOf 8) ++ more, s)
  match sel with
  | 0 => vals (moduleCtrs s) []
  | 1 => vals (stackCtrs idx s) []
  | 2 => vals (panelCtrs idx s) (faultBytes idx s)
  | 3 =>
    let x := getUnit s idx
    vals (unitCtrs idx s) ((List.range 1161).map fun i => (tgetD x.sites i 0).setWidth 8)
  | 4 =>
    let (a, s) := slotBytes idx s
    let (b, s) := shadowBytes idx s
    let (v, s) := freeNat s
    (v, a ++ b, s)
  | 5 => (let (v, s) := freeNat s; (v, logBytes idx s, s))
  | _ => (let (v, s) := freeNat s; (v, clientBytes s, s))

def runCounters (id : Nat) (d : Rec64) (s : State) : State :=
  let sel := fld d 8 1
  let idx := fld d 0xA 2
  let (v, data, s) := countersData sel idx s
  let hdr := sealRec (recOf 512 [(0, 1, 1), (1, 1, sel), (2, 2, idx), (4, 4, v), (8, 8, s.us)])
  adminOut id (fld d 0x10 8) (fld d 0x18 4) (recBytes hdr ++ data) s

/-! ## ATTEST (R478) -/

/-- A panel record of the report. -/
def attestPanel (s : State) (p : Nat) : List Byte :=
  match getPanel s p with
  | none => block 144 [(0, 1, p), (1, 1, 0xFF)]
  | some x =>
    block 144 ([(0, 1, p), (1, 1, x.st.code)] ++
      (match x.cast with
        | none => []
        | some c =>
          let i := c.swapTo.getD c.img
          let w := if c.swapTo.isSome then ihWversion i else c.wversion.toNat
          [(4, 4, c.model.toNat), (8, 4, w), (0x10, 64, ihPhash i), (0x50, 64, ihWhash i)]))

/-- A catalogue record of the report. -/
def attestEntry (e : CatEntry) : List Byte :=
  block 144 [(0, 1, 0xFF), (4, 4, e.model.toNat), (8, 4, e.wversion.toNat), (0xC, 4, e.length / 4096),
    (0x10, 64, ihPhash e.img), (0x50, 64, ihWhash e.img)]

/-- Insert an entry by ascending MODEL, then WVERSION. -/
def insEntry (e : CatEntry) : List CatEntry → List CatEntry
  | [] => [e]
  | f :: t =>
    if e.model.toNat * 2 ^ 32 + e.wversion.toNat ≤ f.model.toNat * 2 ^ 32 + f.wversion.toNat then e :: f :: t
    else f :: insEntry e t

/-- The certificate chain, at most 4,096 bytes (R477). -/
def chain : List Byte := Config.certChain.take 4096

/-- The report without signature and chain. -/
def attestBody (nonce : List Byte) (s : State) : List Byte :=
  let es := (catEntries s).foldr insEntry []
  let img := runningImg s
  block 0x20 [(0, 4, 0x54535441), (4, 2, 1), (6, 2, es.length), (8, 8, Config.serial.toNat), (0x10, 8, s.us),
      (0x18, 4, s.boot.fwVersion.toNat), (0x1C, 1, s.nv.svn), (0x1D, 1, b2n s.boot.bank), (0x1E, 1, s.boot.rootSlot.toNat)]
    ++ nonce ++ sha512 (img.header ++ img.body)
    ++ block 0x20 [(0, 2, chain.length), (2, 2, (markedUnits s).length)]
    ++ (List.range 16).flatMap (attestPanel s) ++ es.flatMap attestEntry

def runAttest (id : Nat) (d : Rec64) (s : State) : State :=
  match adminRead id (fld d 0x10 8) 64 s with
  | (none, s) => adminDone id stBad 0 s
  | (some nonce, s) =>
    let b := attestBody nonce s
    adminOut id (fld d 0x18 8) (fld d 0x20 4) (b ++ ecSign Config.identityKey (sha512 b) ++ chain) s

end Sys2Proof.Machine
end

