-- ==== Sys2Proof/Machine/AdminRun.lean ====
section
/-! DEFINITION. Admin commands on ring 0 (R343, R344): their taking in ring order, the commands that other files do not
own (MOVE, PIN, UNPIN, SCHED_LOAD, SET_FALLBACK), and the poll that reads the rings (R335). -/
namespace Sys2Proof.Machine
open Sys2Proof

/-! ## MOVE, PIN and UNPIN -/

/-- The move descriptor at a host address, as the device would read it. -/
def moveAt (s : State) (a : Nat) : Rec64 := BitVec.ofNat 512 (rdNat s (hostBase + a) 64)

/-- A command that reads host memory when it is taken waits while the device may issue no request (R320). -/
def hostWaits (s : State) (d : Rec64) : Bool :=
  !hostLive s && ([0x88, 0x8B, 0x8E, 0x91] : List Nat).contains (dOp d)

/-- An admin MOVE whose engine's queue is full stays in its ring (R193). -/
def moveHeld (s : State) (d : Rec64) : Bool :=
  let m := moveAt s (fld d 0x10 8)
  dOp d == 0x88 && moveOk s m && moveQueueFull s (moveEngine m)

def runMove (id : Nat) (d : Rec64) (s : State) : State :=
  match adminRead id (fld d 0x10 8) 64 s with
  | (none, s) => adminDone id stBad 0 s
  | (some l, s) =>
    let m : Rec64 := BitVec.ofNat 512 (natOf l)
    if moveOk s m then submitMove m (.admin id) s else adminDone id stBad 0 s

def runPin (id : Nat) (d : Rec64) (s : State) : State :=
  match pinRange d with
  | none => adminDone id stBad 0 s
  | some ks =>
    if homeAll s (fld d 0x10 8) (fld d 0x18 8) && ks.all (fun k => hostPins s k < 254) then
      adminDone id stDone 0 (ks.foldl (fun s k => setHostPins k (hostPins s k + 1) s) s)
    else adminDone id stBad 0 s

def runUnpin (id : Nat) (d : Rec64) (s : State) : State :=
  match pinRange d with
  | none => adminDone id stBad 0 s
  | some ks =>
    if ks.all (fun k => 0 < hostPins s k) then
      adminDone id stDone 0 (ks.foldl (fun s k => setHostPins k (hostPins s k - 1) s) s)
    else adminDone id stBad 0 s

/-! ## SCHED_LOAD (R294, R295, R302) -/

/-- An entry of a schedule as read. -/
def schedEnt (l : List Byte) : SchedEnt :=
  { start := natOf (l.take 4), length := natOf ((l.drop 4).take 4), panel := natOf ((l.drop 8).take 1), group := natOf ((l.drop 9).take 1) }

/-- Entries in ascending START_US. -/
def ascending : List SchedEnt → Bool
  | a :: b :: t => a.start ≤ b.start && ascending (b :: t)
  | _ => true

/-- The schedule that a header and its entries lay down, when every field is legal (R295). -/
def schedOf (h : Rec64) (entries : List (List Byte)) : Option Schedule :=
  let es := entries.map schedEnt
  let period := fld h 4 4
  let apart (a b : SchedEnt) : Bool := a.panel != b.panel || a.start + a.length ≤ b.start || b.start + b.length ≤ a.start
  let good : Bool := recOk h && fld h 0 1 == 1 && fld h 1 1 == 0 && fld h 8 52 == 0 && fld h 2 2 ≤ 256 && 100 ≤ period
    && period ≤ 100000 && es.all (fun e => 1 ≤ e.length && e.panel < 16 && e.start + e.length ≤ period)
    && (entries.all fun l => natOf (l.drop 10) == 0) && ascending es && allPairs apart es
  if good then some { period := period, entries := es } else none

/-- Read a schedule: header, then as many entries as it names. -/
def readSched (id a : Nat) (s : State) : Option Schedule × State :=
  match adminRead id a 64 s with
  | (none, s) => (none, s)
  | (some l, s) =>
    let h : Rec64 := BitVec.ofNat 512 (natOf l)
    let n := fld h 2 2
    if !recOk h || 256 < n || 2 ^ 51 < a + 64 + 16 * n then (none, s)
    else if n = 0 then (schedOf h [], s)
    else
      match adminRead id (a + 64) (16 * n) s with
      | (none, s) => (none, s)
      | (some b, s) => (schedOf h (chunks 16 n b), s)

/-- A stop-set entry is legal (R302). -/
def stopSetOk (l : List Byte) : Bool :=
  let at_ (off n : Nat) : Nat := natOf ((l.drop off).take n)
  let seqs := at_ 1 1
  at_ 0x3FC 4 == crc32c (l.take 0x3FC) && at_ 0 1 ≤ 32 && seqs ≤ 8 && at_ 2 2 == 0 && at_ 0xC 52 == 0 && at_ 0x2C0 316 == 0
    && (List.range seqs).all fun k => 1 ≤ at_ (4 + k) 1 && at_ (4 + k) 1 ≤ 16

/-- An accepted schedule: it replaces the running one at its next period boundary, or starts at once (R295). -/
def applySched (x : Schedule) (s : State) : State :=
  let new := if x.entries.isEmpty then none else some x
  match s.sched with
  | some _ => { s with schedNext := some new }
  | none => match new with
    | some y => { s with sched := some y, schedStart := s.now, schedNext := none }
    | none => s

/-- The schedule that SCHED_LOAD names, when FLAGS bit 0 asks for one; `none` when it is not well formed (R295). -/
def schedNamed (id : Nat) (d : Rec64) (s : State) : Option (Option Schedule) × State :=
  if nbit (dFlags d) 0 then
    match readSched id (fld d 0x10 8) s with
    | (some x, s) => (some (some x), s)
    | (none, s) => (none, s)
  else (some none, s)

/-- The stop sets that SCHED_LOAD names, when FLAGS bit 1 asks for them; `none` when one is not well formed (R302). -/
def stopsNamed (id : Nat) (d : Rec64) (s : State) : Option (List Byte) × State :=
  if nbit (dFlags d) 1 then
    let n := fld d 0xA 2
    match adminRead id (fld d 0x18 8) (1024 * n) s with
    | (some b, s) => (if (chunks 1024 n b).all stopSetOk then some b else none, s)
    | (none, s) => (none, s)
  else (some [], s)

/-- SCHED_LOAD takes effect: stop sets stored, schedule applied. -/
def putSched (d : Rec64) (x : Option Schedule) (b : List Byte) (s : State) : State :=
  let s := if nbit (dFlags d) 1 then wr (s.boot.stopBase + 1024 * fld d 8 2) b s else s
  match x with
  | some y => applySched y s
  | none => s

def runSchedLoad (id : Nat) (d : Rec64) (s : State) : State :=
  match schedNamed id d s with
  | (none, s) => adminDone id stBad 0 s
  | (some x, s) =>
    match stopsNamed id d s with
    | (none, s) => adminDone id stBad 0 s
    | (some b, s) => adminDone id stDone 0 (putSched d x b s)

/-- SCHEDULE_PERIOD_BOUNDARY: a period of the running schedule ends (R295). -/
def execSchedulePeriodBoundary (s : State) : Result :=
  .next (match s.sched with
    | none => s
    | some x =>
      let t := s.schedStart.toNat + x.period
      if s.us < t then s
      else
        let s := { s with schedStart := BitVec.ofNat 64 t }
        match s.schedNext with
        | some y => { s with sched := y, schedNext := none }
        | none => s)

/-! ## SET_FALLBACK (R299) -/

/-- A panel may be a fallback: READY or SWAPPING, with a step link, named for GEN traffic. -/
def fallbackOk (s : State) (f : Nat) : Bool :=
  (getPanel s f).any fun y => (y.st == .ready || y.st == .swapping) && y.gen && y.cast.any fun c => c.img.pat.stepLink.isSome

def runSetFallback (id : Nat) (d : Rec64) (s : State) : State :=
  let p := dPanel d
  let f := fld d 9 1
  if (getPanel s p).isNone || f = p || (f != 0xFF && !fallbackOk s f) then adminDone id stBad 0 s
  else adminDone id stDone 0 (modPanel p (fun x => { x with fallback := f, margin := BitVec.ofNat 32 (fld d 0xC 4) }) s)

/-! ## Taking commands (R343) -/

/-- Begin a taken command, by its opcode (R344). -/
def beginAdmin (id : Nat) (d : Rec64) (s : State) : State :=
  match dOp d with
  | 0x00 => adminDone id stDone 0 s
  | 0x80 => runIdentify id d s
  | 0x81 => runPanelCreate id d s
  | 0x82 => runPanelDestroy id d s
  | 0x83 => runCastOn id d s
  | 0x84 => runBindOff id d s
  | 0x85 => runDeploy id d s
  | 0x86 => runUndeploy id d s
  | 0x87 => runSwapWeights id d s
  | 0x88 => runMove id d s
  | 0x89 => runPin id d s
  | 0x8A => runUnpin id d s
  | 0x8B => runSchedLoad id d s
  | 0x8C => runPlyBind id d s
  | 0x8D => runPlyRelease id d s
  | 0x8E => runAttest id d s
  | 0x8F => runSwatch id d s
  | 0x90 => runCounters id d s
  | 0x91 => runFwUpdate id d s
  | 0x92 => runSetFallback id d s
  | _ => s

/-- Take waiting commands in ring order, up to the first that conflicts with a running one or must wait (R343). -/
def retake : (fuel : Nat) → State → State
  | 0, s => s
  | n + 1, s =>
    match s.adminWait with
    | [] => s
    | d :: t =>
      if !adminTakes s d || moveHeld s d || hostWaits s d then s
      else
        let id := s.nextId
        retake n (beginAdmin id d
          { s with nextId := id + 1, adminWait := t, admin := s.admin ++ [{ id := id, d := d }] })

/-- Take what can be taken. -/
def retakeAll (s : State) : State := retake s.adminWait.length s

/-- Ring 0 is read: the function may issue requests and ring 0 is ENABLED. -/
def readsAdmin (s : State) : Bool := hostLive s && (getRing s 0).st == .enabled

/-- The counters of R281 of a DEPLOY or a CAST_ON that completes at its checks. -/
def countRefused (d : Rec64) (status : Nat) (s : State) : State :=
  if dOp d = 0x85 then bump (.deploys status) 1 s
  else if dOp d = 0x83 && dPanel d < 16 then bump (.castOns (dPanel d) status) 1 s
  else s

/-- A descriptor of ring 0: completed at once when a check of R339 fails, else waiting to be taken. -/
def acceptAdmin (d : Rec64) (s : State) : State :=
  match adminCheck s d with
  | some status => pushAdmin d status 0 (countRefused d status (bump (.immediate 0 status) 1 s))
  | none => retakeAll (bump (.accepted 0) 1 { s with adminWait := s.adminWait ++ [d] })

/-- An admin descriptor of one opcode, as it is read from ring 0. -/
def adminAs (op : Nat) (d : Rec64) (s : State) : State :=
  if readsAdmin s then acceptAdmin (setFld d 0 1 op) s else s

def execIdentify (d : Rec64) (s : State) : Result := .next (adminAs 0x80 d s)
def execPanelCreate (d : Rec64) (s : State) : Result := .next (adminAs 0x81 d s)
def execPanelDestroy (d : Rec64) (s : State) : Result := .next (adminAs 0x82 d s)
def execCastOn (d : Rec64) (s : State) : Result := .next (adminAs 0x83 d s)
def execBindOff (d : Rec64) (s : State) : Result := .next (adminAs 0x84 d s)
def execDeploy (d : Rec64) (s : State) : Result := .next (adminAs 0x85 d s)
def execUndeploy (d : Rec64) (s : State) : Result := .next (adminAs 0x86 d s)
def execSwapWeights (d : Rec64) (s : State) : Result := .next (adminAs 0x87 d s)
def execMove (d : Rec64) (s : State) : Result := .next (adminAs 0x88 d s)
def execPin (d : Rec64) (s : State) : Result := .next (adminAs 0x89 d s)
def execUnpin (d : Rec64) (s : State) : Result := .next (adminAs 0x8A d s)
def execSchedLoad (d : Rec64) (s : State) : Result := .next (adminAs 0x8B d s)
def execPlyBind (d : Rec64) (s : State) : Result := .next (adminAs 0x8C d s)
def execPlyRelease (d : Rec64) (s : State) : Result := .next (adminAs 0x8D d s)
def execAttest (d : Rec64) (s : State) : Result := .next (adminAs 0x8E d s)
def execSwatch (d : Rec64) (s : State) : Result := .next (adminAs 0x8F d s)
def execCounters (d : Rec64) (s : State) : Result := .next (adminAs 0x90 d s)
def execFwUpdate (d : Rec64) (s : State) : Result := .next (adminAs 0x91 d s)
def execSetFallback (d : Rec64) (s : State) : Result := .next (adminAs 0x92 d s)

/-- NOP: on a SUBMIT ring, or on ring 0 (R338). -/
def execNop (ring : BitVec 12) (d : Rec64) (s : State) : Result :=
  .next (if ring = 0 then adminAs 0 d s else submitAs 0 ring d s)

/-! ## The poll (R335) -/

/-- A ring the poll reads descriptors of. -/
def polledType (x : Ring) (r : Nat) : Bool := x.st == .enabled && (if r = 0 then x.type == 4 else x.type == 1)

/-- The device index after one more descriptor: 16 bits for ring 0, else 32 (R330). -/
def nextIdx (r : Nat) (x : Ring) : BitVec 32 := if r = 0 then BitVec.ofNat 32 ((x.idx.toNat + 1) % 65536) else x.idx + 1

/-- A descriptor read whole is accepted: an admin command from ring 0, a request from another. -/
def takeDesc (r : Nat) (d : Rec64) (s : State) : State :=
  modRing r (fun x => { x with idx := nextIdx r x }) (if r = 0 then acceptAdmin d s else submitRequest r d s)

/-- Read descriptors one after another: each read whole is accepted; a failed read puts the ring into ERROR (R319). -/
def readDescs (r : Nat) : (n : Nat) → State → State
  | 0, s => s
  | n + 1, s =>
    match hostRead ((getRing s r).base + 64 * ((getRing s r).idx.toNat % 2 ^ (getRing s r).k)) 64 s with
    | (none, s) => ringError r 8 s
    | (some l, s) => readDescs r n (takeDesc r (BitVec.ofNat 512 (natOf l)) s)

/-- A DISABLE of a ring is the command that comes next: it arrives while the poll reads (R333; log entry 93). -/
def disableComes (s : State) (r : Nat) : Bool :=
  barLive s && s.ringRegs.sel.toNat == r && (match s.pending.head? with
    | some .ringDisable => true
    | some (.registerWrite .bar0 off _ v) => off == 0x101C && v.toNat % 4 == 2
    | _ => false)

/-- The descriptors a poll reads of a ring: all, or, when a DISABLE arrives, those read whole before it takes effect, a free
value (R333). -/
def pollCount (r n : Nat) (s : State) : Nat × State :=
  if disableComes s r then (let (v, s) := freeNat s; (v % (n + 1), s)) else (n, s)

/-- One ring of the poll whose bit is set: its tail word, then at most 64 descriptors. -/
def pollRing (r : Nat) (s : State) : State :=
  let x := getRing s r
  match hostRead (s.db.tailCur.toNat + 4 * r) 4 s with
  | (none, s) => s
  | (some w, s) =>
    let t := natOf w
    let new := if r = 0 then (t % 65536 + 65536 - x.idx.toNat % 65536) % 65536 else (t + 2 ^ 32 - x.idx.toNat) % 2 ^ 32
    if 2 ^ x.k < new then ringError r 7 s
    else
      let (n, s) := pollCount r (min new 64) s
      writeDevIdx r (readDescs r n s)

/-- The head word of a ring with held entries (R335, R351). -/
def pollHead (r : Nat) (s : State) : State :=
  match hostRead (s.db.tailCur.toNat + 4 * r) 4 s with
  | (none, s) => s
  | (some w, s) =>
    let x := getRing s r
    let h := if r = 0 then natOf w / 65536 else natOf w
    let out := if r = 0 then (x.cqTail.toNat + 65536 - h) % 65536 else (x.idx.toNat + 2 ^ 32 - h) % 2 ^ 32
    if 2 ^ (if r = 0 then x.cqk else x.k) < out then ringError r 7 s
    else setRing r { x with pubHead := BitVec.ofNat 32 h } s

/-- A ring the device writes that has entries waiting. -/
def hasHeld (s : State) (r : Nat) (x : Ring) : Bool :=
  x.st == .enabled && (r = 0 || x.type == 2 || x.type == 3) && !(dueTo s r (r != 0 && x.type == 3)).isEmpty

/-- The rings of a table, from ring `start` on and round. -/
def fromStart (l : List Nat) (start : Nat) : List Nat := l.filter (start ≤ ·) ++ l.filter (· < start)

/-- One poll. -/
def pollOnce (s : State) : State :=
  let s := loadDb (bump .polls 1 s)
  let start := s.host.pollStart
  let s := { s with host := { s.host with lastPoll := some s.us, pollStart := (start + 1) % 4096 } }
  let s : State :=
    match hostRead s.db.bitmapCur.toNat 512 s with
    | (none, s) => s
    | (some m, s) =>
      (fromStart (s.rings.map (·.1)) start).foldl (fun s r =>
        if nbit (lgetD m (r / 8) 0).toNat (r % 8) && polledType (getRing s r) r then pollRing r s else s) s
  let s := ((s.rings.filter fun r => hasHeld s r.1 r.2).map (·.1)).foldl (fun s r => pollHead r s) s
  retakeAll s

/-- POLL: one poll each INTERVAL_US while polling is on and the function may issue requests (R320, R335). -/
def execPoll (s : State) : Result :=
  let due : Bool := match s.host.lastPoll with
    | some t => t + s.db.interval.toNat ≤ s.us
    | none => true
  .next (if s.db.enable && hostLive s && due then pollOnce s else s)

end Sys2Proof.Machine
end

