-- ==== Sys2Proof/Machine/Clock.lean ====
section
/-! DEFINITION. What the block does when no command waits: a µs passes (log entry 1). -/
namespace Sys2Proof.Machine
open Sys2Proof

/-- An FLR in progress ends (R321). -/
def endFlr (s : State) : State :=
  if s.host.flrBusy then goOn mHost { s with host := { s.host with flrBusy := false } } else s

/-- An UP port with no DATA flit to send sends NULL flits, enough to carry each credit return once (R384, R389). -/
def dueNulls (s : State) : State :=
  (List.range 18).foldl (fun s p =>
    let x := getPort s p
    if x.st == .up then sendNulls p (max 1 x.crnDue.length) s else s) s

/-- The channels of a port on which a sender of the module itself waits for credit: the service channel, and those of
through-routes (R389, R390). -/
def creditWaits (s : State) (p : Nat) : List Nat :=
  let x := getPort s p
  let bare (ch : Nat) : Bool := let c := tgetD x.send ch {}; c.open_ && c.credits == 0
  let routes := s.links.ports.flatMap fun q => q.2.recv.filterMap fun r =>
    match r.2.dest with
    | .link p' ch => if p' = p && !r.2.slots.isEmpty then some ch else none
    | .strand _ _ => none
  ((if x.txq.isEmpty then [] else [64]) ++ routes ++ x.resendq.map Prod.fst).eraseDups.filter bare

/-- Credit-wait counts of the module's own senders, one for each µs (R399; log entry 94). -/
def countCreditWaits (s : State) : State :=
  (List.range 18).foldl (fun s p =>
    let n := if (getPort s p).st == .up then (creditWaits s p).length else 0
    if n = 0 then s else bump (.creditWait p) n s) s

/-- One µs of module time passes (R284): the hot-swap stage's own time goes on without power (R433). -/
def tick (s : State) : State :=
  let s := { s with power := { s.power with clock := s.power.clock + 1 } }
  if s.power.on then retakeAll (dueNulls (countCreditWaits (endFlr { s with now := s.now + 1 }))) else s

end Sys2Proof.Machine
end

