-- ==== Sys2Proof/Machine/Tap.lean ====
section
/-! DEFINITION. The test access port (R479 to R482) and the management bus (R496, R497). -/
namespace Sys2Proof.Machine
open Sys2Proof

/-! ## Test access port -/

/-- The identification register (R479): version 0x1, part 0x0512, manufacturer field 0x267. -/
def idcodeValue : BitVec 32 := 0x105124CF

/-- Test access follows the instruction register and TRST# (R371, R482). -/
def syncTap (s : State) : State :=
  if s.tap.ir == 0x20 && !s.tap.trst then goOn mTest s else if isOff s mTest then s else goOff mTest s

/-- An instruction is loaded, unless TRST# holds the port in Test-Logic-Reset. Outside test hold the pins are functional;
in test hold they stay under the control of the cells (R481). -/
def loadIr (ir : BitVec 8) (dr : TapDr) (s : State) : State :=
  if !s.power.on || s.tap.trst then s else syncTap { s with tap := { s.tap with ir := ir, dr := dr } }

/-- One of the five instructions of R481: it takes effect in test hold; elsewhere it acts as BYPASS and is counted. -/
def testOnly (ir : BitVec 8) (dr : TapDr) (drive : PinDrive) (s : State) : State :=
  if !s.power.on || s.tap.trst then s
  else if s.boot.testHold then
    let s := loadIr ir dr s
    { s with tap := { s.tap with drive := drive } }
  else bump .testRefused 1 (loadIr ir .bypass s)

/-- IDCODE selects the identification register. -/
def execIdcode (s : State) : Result := .next (loadIr 0x01 .idcode s)

/-- SAMPLE/PRELOAD: the boundary cells take what the pins carry (R480). -/
def execSamplePreload (cells : List Bool) (s : State) : Result :=
  .next (if !s.power.on || s.tap.trst || cells.length != 11264 then s
    else
      let s := loadIr 0x02 .boundary s
      { s with tap := { s.tap with cells := cells } })

def execExtest (s : State) : Result := .next (testOnly 0x03 .boundary .extest s)
def execClamp (s : State) : Result := .next (testOnly 0x04 .bypass .clamped s)
def execHighz (s : State) : Result := .next (testOnly 0x05 .bypass .floating s)
def execExtestPulse (s : State) : Result := .next (testOnly 0x06 .boundary .pulse s)
def execExtestTrain (s : State) : Result := .next (testOnly 0x07 .boundary .train s)

/-- MBXACC connects the data register to master 0x50 (R482). -/
def execMbxacc (s : State) : Result := .next (loadIr 0x20 .mailbox s)

/-- Codes with an instruction of their own (R479). -/
def tapCodes : List (BitVec 8) := [0x01, 0x02, 0x03, 0x04, 0x05, 0x06, 0x07, 0x20]

/-- BYPASS: 0xFF and every code without an instruction. -/
def execBypass (code : BitVec 8) (s : State) : Result := .next (if tapCodes.contains code then s else loadIr code .bypass s)

/-- TEST_LOGIC_RESET: IDCODE is loaded and test access ends; `trst` is the TRST# pin from now on (R479, R482). -/
def execTestLogicReset (trst : Bool) (s : State) : Result :=
  .next (if s.power.on then syncTap { s with tap := { s.tap with ir := 0x01, dr := .idcode, trst := trst } } else s)

/-! ## Management bus -/

/-- The module acknowledges its address: step 3 has ended and MGMT_PRSNT# is asserted (R496). -/
def busAnswers (s : State) : Bool := s.power.on && s.boot.cores && !isOff s mRack

/-- An invalid transaction is counted (R497). -/
def busError (s : State) : State := bump .smbusErrors 1 s

/-- SMBUS_BLOCK_WRITE: command 0xA0. `count` is the byte count, OFFSET included; `data` the bytes after OFFSET. -/
def execSmbusBlockWrite (count : BitVec 8) (off : BitVec 16) (data : BitVec 64) (pecOk : Bool) (s : State) : Result :=
  let n := count.toNat - 2
  .next (if !busAnswers s then answer .nack s
    else if !pecOk then answer .nack (busError s)
    else if !(count == 6 || count == 10) || off.toNat % n != 0 then busError s
    else winWrite mRack off.toNat (n == 8) (data.toNat % 256 ^ n) s)

/-- SMBUS_PROCESS_CALL: command 0xA1. -/
def execSmbusProcessCall (count : BitVec 8) (off : BitVec 16) (size : BitVec 8) (s : State) : Result :=
  let n := size.toNat
  .next (if !busAnswers s then answer .nack s
    else if count != 3 || !(n == 4 || n == 8) || off.toNat % n != 0 then answer (.value mRack (BitVec.allOnes 64)) (busError s)
    else winRead mRack off.toNat (n == 8) s)

end Sys2Proof.Machine
end

