-- ==== Sys2Proof/Machine/Dispatch.lean ====
section
/-! DEFINITION. The meaning of every command: one arm for each constructor of `Instr`. -/
namespace Sys2Proof.Machine
open Sys2Proof

/-- A command's effect on everything but the queue. -/
def exec (i : Instr) (s : State) : Host.Outcome State Fault Refusal :=
  match i with
  | .nopInstruction u => Sys2Proof.Machine.execNopInstruction u s
  | .halt u => Sys2Proof.Machine.execHalt u s
  | .jump u target => Sys2Proof.Machine.execJump u target s
  | .loop u out target ctr mark => Sys2Proof.Machine.execLoop u out target ctr mark s
  | .brm u inp target type keep argm arg => Sys2Proof.Machine.execBrm u inp target type keep argm arg s
  | .semWait u sem => Sys2Proof.Machine.execSemWait u sem s
  | .semSignal u sem route => Sys2Proof.Machine.execSemSignal u sem route s
  | .barrier u inp out id => Sys2Proof.Machine.execBarrier u inp out id s
  | .claim u ctr region list target => Sys2Proof.Machine.execClaim u ctr region list target s
  | .doneTile u ctr region list => Sys2Proof.Machine.execDoneTile u ctr region list s
  | .prob u ctr seg => Sys2Proof.Machine.execProb u ctr seg s
  | .mwait u tag => Sys2Proof.Machine.execMwait u tag s
  | .cset u ctr part apply value => Sys2Proof.Machine.execCset u ctr part apply value s
  | .cadd u ctr imm => Sys2Proof.Machine.execCadd u ctr imm s
  | .cload u ctr actr toBound => Sys2Proof.Machine.execCload u ctr actr toBound s
  | .cstep u ctr => Sys2Proof.Machine.execCstep u ctr s
  | .plane u inp actr cell p => Sys2Proof.Machine.execPlane u inp actr cell p s
  | .pass u inp shape m1 actr afmt wfmt keep add p upsets => Sys2Proof.Machine.execPass u inp shape m1 actr afmt wfmt keep add p upsets s
  | .accin u inp actr rows1 p => Sys2Proof.Machine.execAccin u inp actr rows1 p s
  | .drain u out dctr dest seg ofmt tensor act bias bctr rows1 p => Sys2Proof.Machine.execDrain u out dctr dest seg ofmt tensor act bias bctr rows1 p s
  | .vop u vfn a b c d rows1 fmt => Sys2Proof.Machine.execVop u vfn a b c d rows1 fmt s
  | .vred u max chain a d rows1 => Sys2Proof.Machine.execVred u max chain a d rows1 s
  | .vsmax u sc st po n1 final => Sys2Proof.Machine.execVsmax u sc st po n1 final s
  | .vtopk u a d w k1 rows1 first finish p => Sys2Proof.Machine.execVtopk u a d w k1 rows1 first finish p s
  | .vsample u a d sd t n draw => Sys2Proof.Machine.execVsample u a d sd t n draw s
  | .vrand u d sd t draw rows1 => Sys2Proof.Machine.execVrand u d sd t draw rows1 s
  | .load u lctr seg octr beats1 verify => Sys2Proof.Machine.execLoad u lctr seg octr beats1 verify s
  | .store u lctr seg octr beats1 => Sys2Proof.Machine.execStore u lctr seg octr beats1 s
  | .send u out lctr beats1 => Sys2Proof.Machine.execSend u out lctr beats1 s
  | .recv u inp lctr beats1 mka => Sys2Proof.Machine.execRecv u inp lctr beats1 mka s
  | .fwd u inp out beats1 mka => Sys2Proof.Machine.execFwd u inp out beats1 mka s
  | .mark u out marker => Sys2Proof.Machine.execMark u out marker s
  | .steer u data ctl out0 out1 beats count1 => Sys2Proof.Machine.execSteer u data ctl out0 out1 beats count1 s
  | .merge u in0 in1 ctl out beats count1 => Sys2Proof.Machine.execMerge u in0 in1 ctl out beats count1 s
  | .stepFire u engine => Sys2Proof.Machine.execStepFire u engine s
  | .spillReturn u strand => Sys2Proof.Machine.execSpillReturn u strand s
  | .passCheckOutcome u bufB => Sys2Proof.Machine.execPassCheckOutcome u bufB s
  | .replayIssue u upsets => Sys2Proof.Machine.execReplayIssue u upsets s
  | .passCommit u bufB => Sys2Proof.Machine.execPassCommit u bufB s
  | .tileDrainStart u => Sys2Proof.Machine.execTileDrainStart u s
  | .semaphoreSignalArrive u sem => Sys2Proof.Machine.execSemaphoreSignalArrive u sem s
  | .barrierRelease panel => Sys2Proof.Machine.execBarrierRelease panel s
  | .countBeatStore region idx list word => Sys2Proof.Machine.execCountBeatStore region idx list word s
  | .claimServe region idx => Sys2Proof.Machine.execClaimServe region idx s
  | .epochApply region idx list => Sys2Proof.Machine.execEpochApply region idx list s
  | .reducerSlotReady region entry slot => Sys2Proof.Machine.execReducerSlotReady region entry slot s
  | .reducerResultWrite region entry => Sys2Proof.Machine.execReducerResultWrite region entry s
  | .move d => Sys2Proof.Machine.execMove d s
  | .moveQueueStore u stack beat => Sys2Proof.Machine.execMoveQueueStore u stack beat s
  | .moveStart stack id badPages => Sys2Proof.Machine.execMoveStart stack id badPages s
  | .moveEndUpdate stack move => Sys2Proof.Machine.execMoveEndUpdate stack move s
  | .reRequest u addr peer => Sys2Proof.Machine.execReRequest u addr peer s
  | .tileResend u strand => Sys2Proof.Machine.execTileResend u strand s
  | .poolEpochBoundary => Sys2Proof.Machine.execPoolEpochBoundary s
  | .allocWake tier2 => Sys2Proof.Machine.execAllocWake tier2 s
  | .backgroundEviction stack => Sys2Proof.Machine.execBackgroundEviction stack s
  | .wearLevelRelocation stack channel fresh => Sys2Proof.Machine.execWearLevelRelocation stack channel fresh s
  | .readDisturbRelocation stack channel block fresh => Sys2Proof.Machine.execReadDisturbRelocation stack channel block fresh s
  | .patrolRead stack page channel block fresh corrected read => Sys2Proof.Machine.execPatrolRead stack page channel block fresh corrected read s
  | .t3MountDone stack ok => Sys2Proof.Machine.execT3MountDone stack ok s
  | .walk panel stack c => Sys2Proof.Machine.execWalk panel stack c s
  | .walkEntryPut panel ring => Sys2Proof.Machine.execWalkEntryPut panel ring s
  | .append panel stack c => Sys2Proof.Machine.execAppend panel stack c s
  | .pageTakeResume panel => Sys2Proof.Machine.execPageTakeResume panel s
  | .dispatch panel stack c => Sys2Proof.Machine.execDispatch panel stack c s
  | .dispatchResume panel layer => Sys2Proof.Machine.execDispatchResume panel layer s
  | .bundleAnnounce panel stack layer source step => Sys2Proof.Machine.execBundleAnnounce panel stack layer source step s
  | .arrive panel stack c => Sys2Proof.Machine.execArrive panel stack c s
  | .expertReturnWrite panel stack layer => Sys2Proof.Machine.execExpertReturnWrite panel stack layer s
  | .ret panel stack c => Sys2Proof.Machine.execRet panel stack c s
  | .identify d => Sys2Proof.Machine.execIdentify d s
  | .panelCreate d => Sys2Proof.Machine.execPanelCreate d s
  | .panelDestroy d => Sys2Proof.Machine.execPanelDestroy d s
  | .castOn d => Sys2Proof.Machine.execCastOn d s
  | .castOnCopyDone panel ok => Sys2Proof.Machine.execCastOnCopyDone panel ok s
  | .bindOff d => Sys2Proof.Machine.execBindOff d s
  | .bindOffDrainLimit panel => Sys2Proof.Machine.execBindOffDrainLimit panel s
  | .bindOffTeardown panel => Sys2Proof.Machine.execBindOffTeardown panel s
  | .deploy d => Sys2Proof.Machine.execDeploy d s
  | .deployCopyDone model wversion img => Sys2Proof.Machine.execDeployCopyDone model wversion img s
  | .undeploy d => Sys2Proof.Machine.execUndeploy d s
  | .swapWeights d => Sys2Proof.Machine.execSwapWeights d s
  | .versionMarkerPlace panel => Sys2Proof.Machine.execVersionMarkerPlace panel s
  | .swapLayerCopyDone panel layer => Sys2Proof.Machine.execSwapLayerCopyDone panel layer s
  | .swapTimeout panel => Sys2Proof.Machine.execSwapTimeout panel s
  | .pin d => Sys2Proof.Machine.execPin d s
  | .unpin d => Sys2Proof.Machine.execUnpin d s
  | .schedLoad d => Sys2Proof.Machine.execSchedLoad d s
  | .schedulePeriodBoundary => Sys2Proof.Machine.execSchedulePeriodBoundary s
  | .setFallback d => Sys2Proof.Machine.execSetFallback d s
  | .attest d => Sys2Proof.Machine.execAttest d s
  | .swatch d => Sys2Proof.Machine.execSwatch d s
  | .swatchTestsDone panel fails => Sys2Proof.Machine.execSwatchTestsDone panel fails s
  | .counters d => Sys2Proof.Machine.execCounters d s
  | .fwUpdate d => Sys2Proof.Machine.execFwUpdate d s
  | .nop ring d => Sys2Proof.Machine.execNop ring d s
  | .run ring d => Sys2Proof.Machine.execRun ring d s
  | .gen ring d => Sys2Proof.Machine.execGen ring d s
  | .pause ring d => Sys2Proof.Machine.execPause ring d s
  | .resume ring d => Sys2Proof.Machine.execResume ring d s
  | .abort ring d => Sys2Proof.Machine.execAbort ring d s
  | .promptReadDone read => Sys2Proof.Machine.execPromptReadDone read s
  | .stepBufferWrite panel => Sys2Proof.Machine.execStepBufferWrite panel s
  | .runStart start => Sys2Proof.Machine.execRunStart start s
  | .runResult panel => Sys2Proof.Machine.execRunResult panel s
  | .tokenBoundary panel => Sys2Proof.Machine.execTokenBoundary panel s
  | .fallback slot => Sys2Proof.Machine.execFallback slot s
  | .sweep => Sys2Proof.Machine.execSweep s
  | .summaryResult slot => Sys2Proof.Machine.execSummaryResult slot s
  | .streamRecordWrite ring => Sys2Proof.Machine.execStreamRecordWrite ring s
  | .completionEntryWrite ring => Sys2Proof.Machine.execCompletionEntryWrite ring s
  | .poll => Sys2Proof.Machine.execPoll s
  | .ringEnable => Sys2Proof.Machine.execRingEnable s
  | .ringDisable => Sys2Proof.Machine.execRingDisable s
  | .ringRead => Sys2Proof.Machine.execRingRead s
  | .capDrvWrite v => Sys2Proof.Machine.execCapDrvWrite v s
  | .irqModerationExpiry ring => Sys2Proof.Machine.execIrqModerationExpiry ring s
  | .flr => Sys2Proof.Machine.execFlr s
  | .perstAssert => Sys2Proof.Machine.execPerstAssert s
  | .perstDeassert => Sys2Proof.Machine.execPerstDeassert s
  | .dlDown => Sys2Proof.Machine.execDlDown s
  | .d3hotEntry busMasterOnly => Sys2Proof.Machine.execD3hotEntry busMasterOnly s
  | .d0Return => Sys2Proof.Machine.execD0Return s
  | .barAccessMalformed write bar2 off size => Sys2Proof.Machine.execBarAccessMalformed write bar2 off size s
  | .registerWrite space off eight v => Sys2Proof.Machine.execRegisterWrite space off eight v s
  | .latchedRead space off eight => Sys2Proof.Machine.execLatchedRead space off eight s
  | .pwrCapWrite v => Sys2Proof.Machine.execPwrCapWrite v s
  | .lnkCtrlWrite v => Sys2Proof.Machine.execLnkCtrlWrite v s
  | .recoveryGo v => Sys2Proof.Machine.execRecoveryGo v s
  | .recoveryDone => Sys2Proof.Machine.execRecoveryDone s
  | .mbxTxWrite master ch word => Sys2Proof.Machine.execMbxTxWrite master ch word s
  | .mbxRxRead master ch part => Sys2Proof.Machine.execMbxRxRead master ch part s
  | .mbxLockRead master ch => Sys2Proof.Machine.execMbxLockRead master ch s
  | .mbxLockWrite master ch v => Sys2Proof.Machine.execMbxLockWrite master ch v s
  | .mbxCtrlWrite master ch v => Sys2Proof.Machine.execMbxCtrlWrite master ch v s
  | .mbxDbMaskWrite master v => Sys2Proof.Machine.execMbxDbMaskWrite master v s
  | .domainOff master => Sys2Proof.Machine.execDomainOff master s
  | .domainOn master => Sys2Proof.Machine.execDomainOn master s
  | .ping handler ch src => Sys2Proof.Machine.execPing handler ch src s
  | .setCap ch src => Sys2Proof.Machine.execSetCap ch src s
  | .getTelemetry ch src => Sys2Proof.Machine.execGetTelemetry ch src s
  | .setRackId ch src => Sys2Proof.Machine.execSetRackId ch src s
  | .drainNotice src ms => Sys2Proof.Machine.execDrainNotice src ms s
  | .resetModule ch src => Sys2Proof.Machine.execResetModule ch src s
  | .getIdentity ch src => Sys2Proof.Machine.execGetIdentity ch src s
  | .smbusBlockWrite count off data pecOk => Sys2Proof.Machine.execSmbusBlockWrite count off data pecOk s
  | .smbusProcessCall count off size => Sys2Proof.Machine.execSmbusProcessCall count off size s
  | .signalDetect port => Sys2Proof.Machine.execSignalDetect port s
  | .equalisationDone port failed => Sys2Proof.Machine.execEqualisationDone port failed s
  | .alignLock port => Sys2Proof.Machine.execAlignLock port s
  | .trainingTimeout port => Sys2Proof.Machine.execTrainingTimeout port s
  | .trainingRetry port => Sys2Proof.Machine.execTrainingRetry port s
  | .hello port r => Sys2Proof.Machine.execHello port r s
  | .helloSend port => Sys2Proof.Machine.execHelloSend port s
  | .dataFlit port f fec => Sys2Proof.Machine.execDataFlit port f fec s
  | .nullFlit port r => Sys2Proof.Machine.execNullFlit port r s
  | .nakRepeat port => Sys2Proof.Machine.execNakRepeat port s
  | .linkSilenceTimeout port => Sys2Proof.Machine.execLinkSilenceTimeout port s
  | .channelOpen port m => Sys2Proof.Machine.execChannelOpen port m s
  | .channelClose port m => Sys2Proof.Machine.execChannelClose port m s
  | .fetchReq port m mediaError => Sys2Proof.Machine.execFetchReq port m mediaError s
  | .fetchData port m bytes => Sys2Proof.Machine.execFetchData port m bytes s
  | .fetchRefuse port m => Sys2Proof.Machine.execFetchRefuse port m s
  | .fetchBusyRetry port tag => Sys2Proof.Machine.execFetchBusyRetry port tag s
  | .readData port m bytes => Sys2Proof.Machine.execReadData port m bytes s
  | .readStatus port m => Sys2Proof.Machine.execReadStatus port m s
  | .resendReq port m => Sys2Proof.Machine.execResendReq port m s
  | .mailbox port m words => Sys2Proof.Machine.execMailbox port m words s
  | .lifeline port m records bulk => Sys2Proof.Machine.execLifeline port m records bulk s
  | .heartbeatSend => Sys2Proof.Machine.execHeartbeatSend s
  | .missedBeat => Sys2Proof.Machine.execMissedBeat s
  | .partnerLost => Sys2Proof.Machine.execPartnerLost s
  | .takeover => Sys2Proof.Machine.execTakeover s
  | .plyBind d => Sys2Proof.Machine.execPlyBind d s
  | .bindTimeout => Sys2Proof.Machine.execBindTimeout s
  | .plyRelease d => Sys2Proof.Machine.execPlyRelease d s
  | .bindRec r => Sys2Proof.Machine.execBindRec r s
  | .syncDone r => Sys2Proof.Machine.execSyncDone r s
  | .releaseRec r => Sys2Proof.Machine.execReleaseRec r s
  | .openRec r => Sys2Proof.Machine.execOpenRec r s
  | .tokens r => Sys2Proof.Machine.execTokens r s
  | .generated r => Sys2Proof.Machine.execGenerated r s
  | .stateRec r => Sys2Proof.Machine.execStateRec r s
  | .bulk r bytes => Sys2Proof.Machine.execBulk r bytes s
  | .catalogueRec r => Sys2Proof.Machine.execCatalogueRec r s
  | .resync r => Sys2Proof.Machine.execResync r s
  | .handover r => Sys2Proof.Machine.execHandover r s
  | .handoverReply r => Sys2Proof.Machine.execHandoverReply r s
  | .underVoltage millivolts microseconds => Sys2Proof.Machine.execUnderVoltage millivolts microseconds s
  | .overVoltage millivolts => Sys2Proof.Machine.execOverVoltage millivolts s
  | .overCurrent milliamps microseconds => Sys2Proof.Machine.execOverCurrent milliamps microseconds s
  | .presenceOpen => Sys2Proof.Machine.execPresenceOpen s
  | .inputRestart removed => Sys2Proof.Machine.execInputRestart removed s
  | .powerGood testHold => Sys2Proof.Machine.execPowerGood testHold s
  | .powerEstimateTick activity => Sys2Proof.Machine.execPowerEstimateTick activity s
  | .powerLoopTick => Sys2Proof.Machine.execPowerLoopTick s
  | .gaugeSample millivolts watts microjoules => Sys2Proof.Machine.execGaugeSample millivolts watts microjoules s
  | .junctionSample readings => Sys2Proof.Machine.execJunctionSample readings s
  | .thermalTrip deciC microseconds => Sys2Proof.Machine.execThermalTrip deciC microseconds s
  | .coolantSample inlet outlet flow => Sys2Proof.Machine.execCoolantSample inlet outlet flow s
  | .railSequenceDone => Sys2Proof.Machine.execRailSequenceDone s
  | .bootVerifyDone => Sys2Proof.Machine.execBootVerifyDone s
  | .coreStartDone coresOk sramOk ga => Sys2Proof.Machine.execCoreStartDone coresOk sramOk ga s
  | .dramTrainingDone failed => Sys2Proof.Machine.execDramTrainingDone failed s
  | .startupSwatchDone units clusters regions t1Hanks => Sys2Proof.Machine.execStartupSwatchDone units clusters regions t1Hanks s
  | .pcieReadiness => Sys2Proof.Machine.execPcieReadiness s
  | .readySet => Sys2Proof.Machine.execReadySet s
  | .idcode => Sys2Proof.Machine.execIdcode s
  | .samplePreload cells => Sys2Proof.Machine.execSamplePreload cells s
  | .extest => Sys2Proof.Machine.execExtest s
  | .clamp => Sys2Proof.Machine.execClamp s
  | .highz => Sys2Proof.Machine.execHighz s
  | .extestPulse => Sys2Proof.Machine.execExtestPulse s
  | .extestTrain => Sys2Proof.Machine.execExtestTrain s
  | .mbxacc => Sys2Proof.Machine.execMbxacc s
  | .bypass code => Sys2Proof.Machine.execBypass code s
  | .insertion millivolts => Sys2Proof.Machine.execInsertion millivolts s
  | .signalLoss port => Sys2Proof.Machine.execSignalLoss port s
  | .nandProgramDone stack channel block pages ok => Sys2Proof.Machine.execNandProgramDone stack channel block pages ok s
  | .fwBankWriteDone ok => Sys2Proof.Machine.execFwBankWriteDone ok s
  | .voltageDroop island cycles => Sys2Proof.Machine.execVoltageDroop island cycles s
  | .configurationRequest => Sys2Proof.Machine.execConfigurationRequest s
  | .testLogicReset trst => Sys2Proof.Machine.execTestLogicReset trst s

end Sys2Proof.Machine
end

