-- ==== Sys2Proof/Safety.lean ====
section
/-! DEFINITION. What counts as a safe state and a safe step, and the terms the statements use. -/
namespace Sys2Proof.Safety
open Sys2Proof Machine

/-- The device bytes are in their one canonical form: addresses rising, no byte that an unlisted address reads as. -/
abbrev MemOk (s : State) : Prop := Memory.wf s.mem = true

/-- A step is safe when it answers a next state. -/
def Runs (s : State) : Prop := ∃ t, step s = .next t

/-- The present limits that a register field stays within (R220, R315, R334, R457). -/
abbrev FieldsOk (s : State) : Prop :=
  1 ≤ s.db.interval.toNat ∧ s.db.interval.toNat ≤ 64 ∧ 1 ≤ s.agingSteps.toNat ∧ 10 ≤ s.epochUs.toNat ∧
    s.epochUs.toNat ≤ 1000000 ∧ 10 ≤ s.rdThreshold.toNat ∧ s.rdThreshold.toNat ≤ 1000 ∧ 1 ≤ s.patrolHours.toNat ∧
    s.patrolHours.toNat ≤ 720 ∧ (s.host.version = 0 ∨ s.host.version = 1)

/-- A unit can take an instruction now: it holds it, and waits at no BARRIER or CLAIM (R107; log entry 10). -/
def canIssue (i : Instr) (u : Nat) (s : State) : Bool := holds i u s && (getUnit s u).wait == .none

/-- A unit can take an instruction now, and another word follows it in the program store (R107, R110; log entry 10). -/
abbrev Ready (i : Instr) (u : Nat) (s : State) : Prop :=
  canIssue i u s = true ∧ (getUnit s u).pc + 1 < (getUnit s u).program.length

/-- What a command of unit `u` leaves: the state `t`, with the cycle that found `s` judged, the instruction that the
sequencer holds making progress (R144, R145). -/
def judged (u : Nat) (s t : State) : State := tally u s (t, [])

/-- The same when that instruction waits under stall causes `l`. -/
def stalled (u : Nat) (l : List Nat) (s t : State) : State := tally u s (t, l)

/-- Unit `u` holds `x` but for its instruction address, which becomes `pc`; the cycle is judged; all else is as
before. -/
def unitAt (u pc : Nat) (x : KUnit) (s : State) : State := judged u s (setUnit u { x with pc := pc } s)

/-- The same with the next instruction address. -/
def unitNext (u : Nat) (x : KUnit) (s : State) : State := unitAt u ((getUnit s u).pc + 1) x s

/-- The same where the instruction has changed more than its unit: `t` is what else it leaves. -/
def unitThen (u : Nat) (x : KUnit) (s t : State) : State := judged u s (setUnit u { x with pc := (getUnit s u).pc + 1 } t)

/-- A counter with another value. -/
def withValue (c : RowCtr) (v : BitVec 32) : RowCtr := { c with value := v }

/-- VALUE + STEP as a signed integer. -/
def stepSum (c : RowCtr) : Int := c.value.toNat + c.step.toInt

/-- A step passes BOUND in the direction of the sign of STEP (R118). -/
abbrev Passes (c : RowCtr) : Prop :=
  (0 < c.step.toInt ∧ (c.bound.toNat : Int) < stepSum c) ∨ (c.step.toInt < 0 ∧ stepSum c < c.bound.toNat)

/-- A unit after one step of counter `n`, without the chain it may start (R118): VALUE + STEP; one that passes BOUND
goes back to BASE under the wrap setting and stays as it is under the hold setting. -/
abbrev Stepped (n : Nat) (x y : KUnit) : Prop :=
  let c := getCtr x n
  (¬ Passes c → y = setCtr n (withValue c (c.value + c.step)) x) ∧
    (Passes c → y = if c.overMode = 0 then setCtr n (withValue c c.base) x else x)

/-- A unit after each of its AUTO counters among `ns` has stepped once (R118, R119). -/
def autoUnit (ns : List Nat) (x : KUnit) : KUnit :=
  ns.eraseDups.foldl (fun x n => if (getCtr x n).auto_ then (stepCtr 16 n x).1 else x) x

/-- None of those steps is one that a checked counter refuses (R118). -/
abbrev AutoOk (ns : List Nat) (x : KUnit) : Prop :=
  (ns.eraseDups.foldl (fun (a : KUnit × Bool) n =>
    if (getCtr a.1 n).auto_ then ((stepCtr 16 n a.1).1, a.2 && (stepCtr 16 n a.1).2.2.isNone) else a) (x, true)).2 = true

/-- An aligned range inside the local store (R102). -/
abbrev LocalOk (a n align : Nat) : Prop := a % align = 0 ∧ a + n ≤ 0x80000

/-- What an access of unit `u` leaves: its record of a reissued access cleared, ages of the hanks, read-cache lines and
counts; everything else as before (R190, R198, R199). -/
abbrev Touched (u : Nat) (s t : State) : Prop :=
  t = { s with units := t.units, hanks := t.hanks, stackTbl := t.stackTbl, ctrs := t.ctrs } ∧
    ∀ v, getUnit t v = if v = u then { getUnit s u with lastNoHome := none } else getUnit s v

/-- A DISPATCH has run at a source all of whose homes are in this part: each token's choices are gated from its scores,
each expert's first CAP choices stand in a bundle for their home, and the step is open (R247, R248, R252, R254). -/
def Dispatched (p : Nat) (c : Cast) (d : ExpertDecl) (layer source step tokens : Nat) (s t : State) : Prop :=
  let scores (k : Nat) := words32 (areaRead s c (lgetD d.scoreArea source 0) (4 * d.experts * k) (4 * d.experts)) d.experts
  let row (k : Nat) := areaRead s c (lgetD d.rowArea source 0) (k * rowOf d d.xfmt) (rowOf d d.xfmt)
  let choices := (List.range tokens).map fun k => (gate d (scores k)).1.map fun e => (e.2, gateWeight e.1)
  let seg := dispatchSeg d row choices
  let opened : SrcStep :=
    { layer := layer, source := source, step := step, returns := [], experts := []
      choices := choices.map fun l => l.map fun ch => (ch.1, BitVec.ofNat 32 ch.2)
      sentDrop := (List.range d.experts).flatMap fun e => (choicesOf choices e).drop d.cap }
  t = { s with panels := t.panels, mem := t.mem, hanks := t.hanks, ctrs := t.ctrs } ∧
    ∃ q, getCast t p = some { c with
      dieSeq := q
      srcSteps := c.srcSteps ++ [opened]
      inbox := c.inbox ++ (homeStacks d).map fun h =>
        { layer := layer, source := source, step := step, stack := h.2, part := h.1, ret := false, announced := false
          segs := ((List.range d.experts).filter fun e => (homedAt d h.1 h.2).contains e).map seg } }

/-- An admin descriptor of opcode `op` is read from ring 0, passes every check, and nothing ahead of it or in its way
holds it (R335, R338, R339, R343). -/
abbrev Taken (op : Nat) (d : Rec64) (s : State) : Prop :=
  readsAdmin s = true ∧ s.adminWait = [] ∧ (s.admin.all fun c => c.id != s.nextId) = true ∧
    adminCheck s (setFld d 0 1 op) = none ∧ adminTakes s (setFld d 0 1 op) = true ∧ moveHeld s (setFld d 0 1 op) = false

/-- The module with that command counted and running. -/
def running (op : Nat) (d : Rec64) (s : State) : State :=
  { bump (.accepted 0) 1 s with
    nextId := s.nextId + 1, admin := s.admin ++ [{ id := s.nextId, d := setFld d 0 1 op }] }

/-- The command of `s` ends from state `t`: it runs no longer, and its completion, with its REQ_ID, opcode, status and
result, is due on ring 0 (R343, R348). -/
def ended (op : Nat) (d : Rec64) (status result : Nat) (s t : State) : State :=
  pushDue 0 (.completion (complBody (fld d 4 4) 0xFFFF 0 status op 0 0 result) .command []) { t with admin := s.admin }

/-- Steps 2 to 4 of a cast-on of entry `e` on panel `p` pass from `s`: the declared units have units to stand for them,
nothing overflows, and every area has its hanks; `t` holds the loaded pattern, its units still stopped (R272, R275). -/
def CastLoads (p : Nat) (x : Panel) (e : CatEntry) (s t : State) : Prop :=
  ∃ (pl : List (Nat × Nat)) (base n : Nat) (a : Option AreaNeed) (ar : Tbl AreaInst) (s1 s2 : State),
    let i := e.img
    let c0 := withEntry
      { model := e.model, wversion := e.wversion, admission := e.wversion, img := i, cmap := castMap x, place := pl }
    let c := { c0 with
      dirBase := base, areas := ar, tau := BitVec.ofNat 32 i.pat.stepNs
      rings := ((i.pat.kv.map (·.rings)).getD []).map fun r => (r.ring, {}) }
    placeAll (clearSites p s) i 0 (castMap x) = some pl ∧ takeDirectory p i (clearSites p s) = (.got base, s1) ∧
      takeAreas p (areaNeeds c0.cmap i e.wversion) [] s1 = (.got n, a, ar, s2) ∧ castOverflow s2 c0 = none ∧
      t = bump (.spareSubst p) pl.length (castChannels p c (castWrite p c
        (modPanel p (fun x => { x with cast := some c, fault := none, mapFault := false }) s2)))

/-- A descriptor of opcode `op`, read from SUBMIT ring `ring`, passes every check that holds it (R339). -/
abbrev Accepted (op ring : Nat) (d : Rec64) (s : State) : Prop :=
  readsSubmit s ring = true ∧ fld d 0 1 = op ∧ setFld d 0 1 op = d ∧ requestCheck s d = none ∧
    ((op = 1 ∨ op = 2 ∨ op = 4) → panelCheck s d = none)

/-- The deadline fields of a request accepted now with a budget of `b` µs (R284). -/
def timed (b : Nat) (s : State) (x : Slot) : Slot :=
  { x with
    budget := BitVec.ofNat 32 b, noDeadline := b == 0, acceptedAt := s.now.setWidth 32, lastStep := s.now.setWidth 32
    deadline := if b = 0 then 0 else BitVec.ofNat 32 (s.now.toNat + b) }

/-- A good mirror record of a kind arrives on an open lifeline with nothing of the partner's waiting (R408, R410). -/
abbrev Hears (kind : Nat) (r : Rec64) (s : State) : Prop :=
  paired s = true ∧ s.ply.fenced = false ∧ (getPort s 15).st = .up ∧ fld r 0 1 = kind ∧ mrOk r = true ∧ s.ply.rxQ = [] ∧
    s.ply.bulk = none

/-- The record stands alone in the queue of what has come. -/
def arrived (r : Rec64) (s : State) : State := setRxQ [(none, false, recBytes r)] s

/-- What has come is applied: the queue is empty, and the pair goes on as the acknowledgements allow (R404, R405). -/
def settled (s : State) : State := pairSettle (setRxQ [] s)

/-- Mirror entry `m` of a record's slot, whose EPOCH is the next; and the state with that epoch (R410). -/
abbrev Follows (r : Rec64) (m : Mirror) (s : State) : Prop :=
  takesRecords s = true ∧ tget s.ply.mirror (fld r 2 2) = some m ∧ (m.epoch + 1).toNat = fld r 4 4

def followed (r : Rec64) (m : Mirror) (s : State) : State :=
  setMirror (fld r 2 2) { m with epoch := BitVec.ofNat 32 (fld r 4 4) } (arrived r s)

/-- States reached from `s`: steps, and commands sent at any time between them. -/
inductive After (s : State) : State → Prop where
  | start : After s s
  | sent {t : State} (queue : List Instr) : After s t → After s { t with pending := queue }
  | stepped {t u : State} : After s t → step t = .next u → After s u

/-- Fuses that refuse an image: its security version is below theirs, or its root slot is revoked (R466). -/
abbrev FusedOut (nv : NonVolatile) (i : FwImage) : Prop :=
  fwSvn i < nv.svn ∨ (fwSlot i < 4 ∧ nv.revoked.getLsbD (fwSlot i) = true)

/-- What a start leaves of the state `s` before it (R218, R459): no work, no panel, no slot and no ring; nothing in T1 and
T2; T3, the valid catalogue entries and the counters in non-volatile store. -/
def Restarted (s t : State) : Prop :=
  (t.units = [] ∧ t.signals = [] ∧ t.lists = [] ∧ t.claims = [] ∧ t.reducers = [] ∧ t.hanks = [] ∧ t.hostPins = [] ∧
    t.moves = [] ∧ t.panels = [] ∧ t.slots = [] ∧ t.clients = [] ∧ t.sched = none ∧ t.rings = [] ∧ t.admin = [] ∧
    t.adminWait = [] ∧ t.links = {} ∧ t.ply = {}) ∧
  (∀ c ∈ t.mem, t3Base ≤ c.1) ∧ rangeAny t.home 0 (t3Base / 4096) = false ∧
  ((∀ e ∈ s.catalogue, e.valid = true) → ∀ a, t3Base ≤ a → rd t a 1 = rd s a 1) ∧
  t.catalogue = (s.catalogue.filter (·.valid)).map (fun e => { e with staged := [] }) ∧
  t.ctrs = s.ctrs.filter (fun c => c.1.lasting)

/-- The module is off for a cause, loss counter `n` one higher, and `p` is what its input power circuit keeps (R432, R433,
R458, R468). -/
def TurnedOff (cause : OffCause) (n : Ctr) (p : Power) (s t : State) : Prop :=
  Restarted (bump n 1 s) t ∧
  t.power = { on := false, pwrgd := false, present := p.present, off := some cause, overCurrents := p.overCurrents
              latched := p.latched, offAt := p.clock, openAt := p.openAt, clock := p.clock, busMv := 0 } ∧
  t.nv = (if s.boot.updImg.isSome then (writeOther spoiltBank s).nv else s.nv)

/-- READY can be set: power, every step before it ended, and two free hanks (R462, R463). -/
abbrev MayBeReady (s : State) : Prop :=
  s.power.on = true ∧ s.boot.pcie = true ∧ s.boot.dramDone = true ∧ s.boot.swatchDone = true ∧ s.boot.failed = false ∧
    s.boot.ready = false ∧ lowestFree s 1 none ≠ none ∧ lowestFree s 2 none ≠ none

end Sys2Proof.Safety
end

