-- ==== Sys2Proof/Certificates/Slice0/Obligations.lean ====
section
/-! DEFINITION. The statements for the provers: what each command does, and what every step keeps. -/
open Sys2Proof Machine Safety

/-- NOP, CSET, CADD and CLOAD complete with exactly their effect on the row counters. Rules:
04_unit_programs_and_strands.md R107, 04_unit_programs_and_strands.md R108, 04_unit_programs_and_strands.md R114,
04_unit_programs_and_strands.md R117, 04_unit_programs_and_strands.md R118, 04_unit_programs_and_strands.md R119,
03_knit_unit_datapath.md R102. -/
def Obligations.CounterInstructionsComplete : Prop :=
  ∀ (u : BitVec 9) (s : State),
    (Ready (.nopInstruction u) u.toNat s → exec (.nopInstruction u) s = .next (unitNext u.toNat (getUnit s u.toNat) s)) ∧
    (∀ (n : BitVec 4) (part : BitVec 2) (apply : Bool) (v : BitVec 32), Ready (.cset u n part apply v) u.toNat s →
      let c := getCtr (getUnit s u.toNat) n.toNat
      exec (.cset u n part apply v) s = .next (unitNext u.toNat (setCtr n.toNat
        { base := if part = 0 then v else c.base
          step := if part = 1 then v else c.step
          bound := if part = 2 then v else c.bound
          mode := if part = 3 then v.setWidth 4 else c.mode
          value := if apply then (if part = 0 then v else c.base) else c.value } (getUnit s u.toNat)) s)) ∧
    (∀ (n : BitVec 4) (imm : BitVec 32), Ready (.cadd u n imm) u.toNat s →
      let c := getCtr (getUnit s u.toNat) n.toNat
      let t : Int := c.value.toNat + imm.toInt
      (c.overMode = 2 → imm ≠ 0 → 0 ≤ t ∧ t < 4294967296 ∧ (0 < imm.toInt → t ≤ c.bound.toNat) ∧
        (imm.toInt < 0 → (c.bound.toNat : Int) ≤ t)) →
      exec (.cadd u n imm) s =
        .next (unitNext u.toNat (setCtr n.toNat (withValue c (c.value + imm)) (getUnit s u.toNat)) s)) ∧
    (∀ (n a : BitVec 4) (toBound : Bool), Ready (.cload u n a toBound) u.toNat s →
      let x := getUnit s u.toNat
      let c := getCtr x n.toNat
      let addr := ctrVal x a.toNat
      let v := BitVec.ofNat 32 (natOf (lsRead x addr 4))
      let x' := setCtr n.toNat (if toBound then { c with bound := v } else { c with value := v }) x
      addr % 4 = 0 → addr + 4 ≤ 0x80000 → hazard x x.issued [(addr, 4)] [] [] [] = false →
      ((getCtr x' a.toNat).auto_ = false → exec (.cload u n a toBound) s = .next (unitNext u.toNat x' s)) ∧
      ((getCtr x' a.toNat).auto_ = true → ¬ (Passes (getCtr x' a.toNat) ∧ (getCtr x' a.toNat).overMode = 2) →
        ¬ (Passes (getCtr x' a.toNat) ∧ (getCtr x' a.toNat).chain = true ∧ a.toNat < 15) →
        ∃ y, Stepped a.toNat x' y ∧ exec (.cload u n a toBound) s = .next (unitNext u.toNat y s)))

/-- HALT, JUMP, LOOP, CSTEP and BRM complete with exactly their effect on the sequencer, the counters and the
strand. Rules: 04_unit_programs_and_strands.md R107, 04_unit_programs_and_strands.md R111,
04_unit_programs_and_strands.md R118, 04_unit_programs_and_strands.md R119, 04_unit_programs_and_strands.md R120,
04_unit_programs_and_strands.md R130. -/
def Obligations.BranchInstructionsComplete : Prop :=
  ∀ (u : BitVec 9) (s : State),
    (canIssue (.halt u) u.toNat s = true →
      exec (.halt u) s = .next (judged u.toNat s (setUnit u.toNat { getUnit s u.toNat with run := .ended } s))) ∧
    (∀ a : BitVec 10, canIssue (.jump u a) u.toNat s = true → a.toNat < (getUnit s u.toNat).program.length →
      exec (.jump u a) s = .next (unitAt u.toNat a.toNat (getUnit s u.toNat) s)) ∧
    (∀ (out : BitVec 8) (a : BitVec 10) (n : BitVec 4) (mark : Bool), Ready (.loop u out a n mark) u.toNat s →
      let x := getUnit s u.toNat
      let c := getCtr x n.toNat
      a.toNat < x.program.length → c.overMode ≠ 2 → ¬ (Passes c ∧ c.chain = true ∧ n.toNat < 15) →
      (mark = true → x.strandQ.length < 4) →
      ∃ y, Stepped n.toNat x y ∧ exec (.loop u out a n mark) s = .next (
        if Passes c then unitNext u.toNat (if mark then
          { y with strandQ := y.strandQ ++ [newOp y (.mark out (BitVec.ofNat 16 (0x1000 + n.toNat)))], issued := y.issued + 1 }
          else y) s
        else unitAt u.toNat a.toNat y s)) ∧
    (∀ n : BitVec 4, Ready (.cstep u n) u.toNat s →
      let x := getUnit s u.toNat
      let c := getCtr x n.toNat
      ¬ (Passes c ∧ c.overMode = 2) →
      (¬ (Passes c ∧ c.chain = true ∧ n.toNat < 15) →
        ∃ y, Stepped n.toNat x y ∧ exec (.cstep u n) s = .next (unitNext u.toNat y s)) ∧
      (Passes c → c.chain = true → n.toNat < 15 →
        ∀ y, Stepped n.toNat x y →
        let d := getCtr y (n.toNat + 1)
        ¬ (Passes d ∧ d.overMode = 2) → ¬ (Passes d ∧ d.chain = true ∧ n.toNat + 1 < 15) →
        ∃ z, Stepped (n.toNat + 1) y z ∧ exec (.cstep u n) s = .next (unitNext u.toNat z s))) ∧
    (∀ (inp : BitVec 8) (a : BitVec 10) (type : BitVec 4) (keep argm : Bool) (arg : BitVec 12) (m : BitVec 16),
      let i := Ready (.brm u inp a type keep argm arg) u.toNat s
      let x := getUnit s u.toNat
      let q := getIn x (maskOne inp)
      let hit := m.toNat / 4096 = type.toNat ∧ (argm = true → m.toNat % 4096 = arg.toNat)
      i → a.toNat < x.program.length → headOf q = .marker m → markerReserved m = false →
      (keep = true → exec (.brm u inp a type keep argm arg) s =
        .next (if hit then unitAt u.toNat a.toNat x s else unitNext u.toNat x s)) ∧
      (keep = false → q.fromLink = none →
        let y := setIn (maskOne inp) { q with queue := q.queue.tail } x
        exec (.brm u inp a type keep argm arg) s =
          .next (if hit then unitAt u.toNat a.toNat y s else unitNext u.toNat y s)) ∧
      (keep = false → exec (.brm u inp a type keep argm arg) s =
        .next (judged u.toNat s (if hit then goTo u.toNat a.toNat (takeHead u.toNat (maskOne inp) s)
          else retire u.toNat (takeHead u.toNat (maskOne inp) s)))))

/-- SEM_WAIT, SEM_SIGNAL, MWAIT and an arriving signal complete with exactly their effect. Rules:
04_unit_programs_and_strands.md R107, 04_unit_programs_and_strands.md R140, 05_laying_out_models.md R148,
05_laying_out_models.md R152, 06_memory_tiers.md R197, 06_memory_tiers.md R209. -/
def Obligations.SemaphoreInstructionsComplete : Prop :=
  ∀ (u : BitVec 9) (s : State),
    (∀ n : BitVec 5, Ready (.semWait u n) u.toNat s →
      let x := getUnit s u.toNat
      semOf x n.toNat ≠ 0 →
      ∃ r k, (∀ e, e ∈ r → e ∈ x.retained) ∧ (x.segs = [] → r = x.retained ∧ k = x.retCount) ∧ exec (.semWait u n) s =
        .next (unitNext u.toNat
          { x with sems := tset x.sems n.toNat (semOf x n.toNat - 1), retained := r, retCount := k } s)) ∧
    (∀ (n : BitVec 5) (o : BitVec 3), Ready (.semSignal u n o) u.toNat s →
      let x := getUnit s u.toNat
      let w := getOut x o.toNat
      let refs : List SemRef := w.dests.filterMap fun d => match d with
        | .strand v _ => some { unit := v, sem := n.toNat }
        | .link _ _ => none
      let s' := { s with signals := s.signals ++ refs }
      devPending x = false →
      (w.device = false → exec (.semSignal u n o) s = .next (unitThen u.toNat x s s')) ∧
      (w.device = true → exec (.semSignal u n o) s =
        .next (judged u.toNat s (retire u.toNat (deviceSignal u.toNat n.toNat s'))))) ∧
    (∀ tag : BitVec 16, Ready (.mwait u tag) u.toNat s → tag ∉ (getUnit s u.toNat).moveTags →
      (∀ o ∈ (getUnit s u.toNat).moveQ, devWrites (getUnit s u.toNat) o.op = []) →
      exec (.mwait u tag) s = .next (unitNext u.toNat (getUnit s u.toNat) s)) ∧
    (∀ n : BitVec 5,
      let x := getUnit s u.toNat
      let r : SemRef := { unit := u.toNat, sem := n.toNat }
      let s' := { s with signals := s.signals.erase r }
      r ∈ s.signals →
      (x.halted = true → exec (.semaphoreSignalArrive u n) s = .next s') ∧
      (x.halted = false → (semOf x n.toNat).toNat < 255 → exec (.semaphoreSignalArrive u n) s =
        .next (setUnit u.toNat { x with sems := tset x.sems n.toNat (semOf x n.toNat + 1) } s')))

/-- BARRIER, CLAIM and DONE_TILE complete with exactly their effect on the unit, its claim and its list. Rules:
04_unit_programs_and_strands.md R107, 04_unit_programs_and_strands.md R140, 05_laying_out_models.md R164,
05_laying_out_models.md R167, 05_laying_out_models.md R168, 05_laying_out_models.md R150. -/
def Obligations.BarriersAndClaimsWait : Prop :=
  ∀ (u : BitVec 9) (s : State),
    (∀ (inp out : BitVec 8) (id : BitVec 12), canIssue (.barrier u inp out id) u.toNat s = true →
      let t := setUnit u.toNat { getUnit s u.toNat with wait := .barrier id.toNat inp out false } s
      barrierMarker (getUnit t u.toNat) = none →
      (∀ p, panelOf s u.toNat = some p → allArrived t p id.toNat = true ∨
        ∃ v ∈ barrierUnits t p, (getUnit t v).halted = false ∧ barrierId (getUnit t v) = none) →
      exec (.barrier u inp out id) s = .next (stalled u.toNat [4] s t)) ∧
    (∀ (n : BitVec 4) (region : Bool) (l : BitVec 4) (a : BitVec 10),
      let k := unitList u.toNat region l.toNat
      let c := counterOf k
      canIssue (.claim u n region l a) u.toNat s = true → devPending (getUnit s u.toNat) = false →
      (listOf s u.toNat k).isSome = true →
      exec (.claim u n region l a) s =
        .next (judged u.toNat s { setUnit u.toNat { getUnit s u.toNat with wait := .claim k n.toNat a.toNat } s with
          claims := tset s.claims c (tgetD s.claims c [] ++ [{ unit := u.toNat, list := k, due := true }]) })) ∧
    (∀ (n : BitVec 4) (region : Bool) (l : BitVec 4) (w : WorkList),
      let k := unitList u.toNat region l.toNat
      let c := counterOf k
      let x := getUnit s u.toNat
      Ready (.doneTile u n region l) u.toNat s → devPending x = false → listOf s u.toNat k = some w →
      tget w.held u.toNat = some (ctrVal x n.toNat) →
      exec (.doneTile u n region l) s = .next (unitThen u.toNat x s { s with
        lists := tset s.lists k { w with held := tdel w.held u.toNat }
        claims := tset s.claims c ((tgetD s.claims c []).map fun q => if q.list = k then { q with due := true } else q) }))

/-- A barrier that is ready completes in every unit that waits at it. Rules: 04_unit_programs_and_strands.md R140,
05_laying_out_models.md R152, 05_laying_out_models.md R154, 09_model_lifecycle.md R279. -/
def Obligations.BarrierReleaseCompletes : Prop :=
  ∀ (panel : BitVec 4) (s : State) (id : Nat),
    let us := barrierUnits s panel.toNat
    badBarrier s panel.toNat = none → barrierReached s panel.toNat = some id →
    exec (.barrierRelease panel) s =
        .next (us.foldl (fun t u => if barrierHere t u then judged u t (barrierFinish u t) else t)
          (us.foldl (fun t u => modUnit u barrierMet t) s)) ∧
      ((∀ u ∈ us, ∀ k inp out b, (getUnit s u).wait = .barrier k inp out b → inp = 0 ∧ out = 0 ∧ b = false ∧
          (getUnit s u).run = .running ∧ (getUnit s u).pc + 1 < (getUnit s u).program.length) →
        ∃ t, exec (.barrierRelease panel) s = .next t ∧ t = { s with units := t.units, ctrs := t.ctrs } ∧
          ∀ u, getUnit t u = if u ∈ us ∧ (barrierId (getUnit s u)).isSome then
              { getUnit s u with wait := .none, pc := (getUnit s u).pc + 1, cycle := (getUnit s u).cycle + 1 }
            else getUnit s u)

/-- A store to a count beat is applied, rejected or parked, and a drained list takes its pending epoch. Rules:
05_laying_out_models.md R164, 05_laying_out_models.md R165, 05_laying_out_models.md R167, 05_laying_out_models.md
R170. -/
def Obligations.WorkListStoresAndEpochs : Prop :=
  ∀ (s : State) (region : Bool) (i : BitVec 6) (l : BitVec 4) (x : WorkList),
    let k := listKey region i.toNat l.toNat
    let c := counterOf k
    let woken (t : State) := tset t.claims c ((tgetD t.claims c []).map fun q => if q.list = k then { q with due := true } else q)
    let begun (x : WorkList) (w : BitVec 64) (t : State) : State := bump (.epochs k) 1 { t with
      claims := woken t
      lists := tset t.lists k { x with
        next := 0, count := BitVec.ofNat 24 w.toNat, final := w.getLsbD 31, epoch := BitVec.ofNat 16 (w.toNat / 2 ^ 32)
        parked := none } }
    tget s.lists k = some x →
    (∀ w : BitVec 64,
      let put (x : WorkList) (m : State) : State :=
        let count := w.toNat % 2 ^ 24
        let bad := w.toNat / 2 ^ 24 % 2 ^ 7 ≠ 0 ∨ w.toNat / 2 ^ 48 ≠ 0
        let same := w.toNat / 2 ^ 32 % 2 ^ 16 = x.epoch.toNat
        let lower := count < x.count.toNat ∨ (x.final = true ∧ w.getLsbD 31 = false)
        if bad ∨ (same ∧ lower) then bump (.rejectedStores k) 1 m
        else if same then { m with
          claims := woken m
          lists := tset m.lists k { x with count := BitVec.ofNat 24 count, final := x.final || w.getLsbD 31 } }
        else if x.drained then begun x w m
        else { (if x.parked.isSome then bump (.rejectedStores k) 1 m else m) with
          lists := tset m.lists k { x with parked := some w } }
      let m := wr x.beat (bytesOf 8 w.toNat) s
      ((x.parked = none ∨ x.drained = false) → exec (.countBeatStore region i l w) s = .next (put x m)) ∧
      (∀ v y, x.parked = some v → x.drained = true → tget (begun x v m).lists k = some y →
        exec (.countBeatStore region i l w) s = .next (put y (begun x v m)))) ∧
    (∀ w : BitVec 64, x.parked = some w → x.drained = true → exec (.epochApply region i l) s = .next (begun x w s))

/-- A work counter serves the pending claim of its lowest unit: an index, EMPTY or WAIT. Rules:
04_unit_programs_and_strands.md R140, 05_laying_out_models.md R166, 05_laying_out_models.md R167,
05_laying_out_models.md R168, 05_laying_out_models.md R170. -/
def Obligations.ClaimServeCompletes : Prop :=
  ∀ (s : State) (region : Bool) (i : BitVec 6) (q : Claim),
    let c := if region then 64 + i.toNat else i.toNat
    nextClaim s c = some q →
    let k := q.list
    let s1 := applyParked k (completeIdx q.unit k s)
    let rest := (tgetD s1.claims (counterOf k) []).filter (·.unit != q.unit)
    let x := getUnit s q.unit
    ∀ (l : WorkList) (n target : Nat), tget s1.lists k = some l → x.wait = .claim k n target → x.run = .running →
      x.pc + 1 < x.program.length → target < x.program.length →
      let free := { x with wait := .none }
      let given (v : Nat) (l' : WorkList) : State :=
        unitThen q.unit (setCtr n (withValue (getCtr x n) (BitVec.ofNat 32 v)) free) s (bump (.claimsServed k) 1 { s1 with
          claims := tset s1.claims (counterOf k) rest, lists := tset s1.lists k { l' with held := tset l.held q.unit v } })
      (∀ v t, l.requeue = v :: t → exec (.claimServe region i) s = .next (given v { l with requeue := t })) ∧
      (l.requeue = [] → l.next < l.count.toNat →
        exec (.claimServe region i) s = .next (given l.next { l with next := l.next + 1 })) ∧
      (l.requeue = [] → l.count.toNat ≤ l.next → l.drained = true → exec (.claimServe region i) s =
        .next (judged q.unit s (setUnit q.unit { free with pc := target } { s1 with
          claims := tset s1.claims (counterOf k) rest }))) ∧
      (l.requeue = [] → l.count.toNat ≤ l.next → l.drained = false → exec (.claimServe region i) s =
        .next (stalled q.unit [11] s { s1 with
          claims := tset s1.claims (counterOf k) (rest ++ [{ q with due := false }]) }))

/-- PROB of a good problem instruction loads the problem register and the counters its mask names. Rules:
04_unit_programs_and_strands.md R107, 05_laying_out_models.md R160, 05_laying_out_models.md R161,
05_laying_out_models.md R162, 05_laying_out_models.md R163, 04_unit_programs_and_strands.md R115, 06_memory_tiers.md
R198. -/
def Obligations.ProblemLoadCompletes : Prop :=
  ∀ (u : BitVec 9) (ctr seg : BitVec 4) (s s1 : State) (ps : List (Nat × Nat)),
    let x := getUnit s u.toNat
    let i := ctrVal x ctr.toNat
    let n := ((tget x.segs seg.toNat).map (·.len)).getD 0 / 64
    let r : Rec64 := BitVec.ofNat 512 (natOf (readPieces ps s1))
    Ready (.prob u ctr seg) u.toNat s → i < n → x.heldAt = [] →
    hazard x x.issued [] [] (segRange x seg.toNat (64 * i) 64) [] = false →
    unitAccess u.toNat x.pc seg.toNat (64 * i) 64 false s = .go ps s1 →
    recOk r = true → probFault r (x.tensors.foldl (fun n t => max n (t.1 + 1)) 0) i n = none →
    ∃ y, exec (.prob u ctr seg) s = .next (unitThen u.toNat y s s1) ∧
      y = { x with problem := some r, recover := none, lastNoHome := none, ctrs := y.ctrs } ∧
      (∀ k < 16, getCtr y k = if 8 ≤ k ∧ (pbCmask r).testBit (k - 8) then
          { getCtr x k with value := BitVec.ofNat 32 (fld r (0x10 + 4 * (k - 8)) 4) } else getCtr x k) ∧
      Touched u.toNat s s1

/-- PLANE and PASS are handed to the array engine with their operands read, and an idle engine begins at once.
Rules: 03_knit_unit_datapath.md R61, 03_knit_unit_datapath.md R66, 03_knit_unit_datapath.md R71,
03_knit_unit_datapath.md R72, 04_unit_programs_and_strands.md R107, 04_unit_programs_and_strands.md R108,
04_unit_programs_and_strands.md R115, 04_unit_programs_and_strands.md R119, 04_unit_programs_and_strands.md R128,
05_laying_out_models.md R163, 03_knit_unit_datapath.md R75, 03_knit_unit_datapath.md R68. -/
def Obligations.ArrayInstructionsComplete : Prop :=
  ∀ (u : BitVec 9) (s : State) (inp : BitVec 8) (a : BitVec 4) (p : Bool),
    let x := getUnit s u.toNat
    let r := x.problem.getD 0
    let addr := ctrVal x a.toNat
    let joined (op : EngOp) (x' : KUnit) : KUnit := { x' with arrQ := x.arrQ ++ [newOp x op], issued := x.issued + 1 }
    (p = true → x.problem.isSome = true) → x.arrQ.length < 4 →
    (∀ cell : BitVec 2, Ready (.plane u inp a cell p) u.toNat s →
      let c := if p then (cellMode (pbAfmt r) (pbWfmt r)).getD 0 else cell.toNat
      let n := if c = 2 then 8192 else 16384
      (inp ≠ 0 → exec (.plane u inp a cell p) s =
        .next (unitNext u.toNat (joined (.plane (some (maskOne inp)) addr c []) x) s)) ∧
      (inp = 0 → LocalOk addr n 256 → AutoOk [a.toNat] x →
        (x.arrQ ≠ [] → exec (.plane u inp a cell p) s =
          .next (unitNext u.toNat (joined (.plane none addr c []) (autoUnit [a.toNat] x)) s)) ∧
        (x.arrQ = [] → hazard x x.issued [(addr, n)] [] [] [] = false → exec (.plane u inp a cell p) s =
          .next (unitNext u.toNat { autoUnit [a.toNat] x with
            issued := x.issued + 1, shadow := { cell := BitVec.ofNat 2 c, bytes := lsRead x addr n }, shadowFull := true } s)))) ∧
    (∀ (shape : BitVec 3) (m1 : BitVec 8) (af wf : BitVec 4) (keep add : Bool) (ups : List Upset),
      let i := Instr.pass u inp shape m1 a af wf keep add p ups
      let sh := if p then pbShape r % 8 else shape.toNat
      let m := if p then pbM r else m1.toNat + 1
      let fa := if p then pbAfmt r else af.toNat
      let fw := if p then pbWfmt r else wf.toNat
      let kp := if p then (pbFlags r).testBit 0 else keep
      let ad := if p then (pbFlags r).testBit 1 else add
      let op (q : Option Nat) : EngOp := .pass q addr sh m fa fw kp ad [] ups
      let n := m * (if sh = 4 ∨ sh = 5 then 512 else 128)
      let x' := { autoUnit [a.toNat] x with issue16 := sh == 2 }
      let lv := s.power.ceil.toNat
      let k := passCycles m
      Ready i u.toNat s →
      (inp ≠ 0 → exec i s = .next (unitNext u.toNat (joined (op (some (maskOne inp))) { x with issue16 := sh == 2 }) s)) ∧
      (inp = 0 → LocalOk addr n 256 → AutoOk [a.toNat] x →
        (x.arrQ ≠ [] → exec i s = .next (unitNext u.toNat (joined (op none) x') s)) ∧
        (x.arrQ = [] → hazard x x.issued [(addr, n)] [] [] [] = false → withheld s u.toNat = false →
          (kp = true ∨ x.shadowFull = true) → x.passes.length < 2 →
          (∀ q ∈ x.passes, q.st ≠ .failed ∧ q.bufB = x.lastBufB) →
          let pl := if kp then x.active else x.shadow
          let q : PassRec :=
            { seq := x.issued, pc := x.pc, bufB := !x.lastBufB, shape := sh, m := m, afmt := fa, wfmt := fw, add := ad
              acts := lsRead x addr n, plane := pl, entries := [], upsets := ups, attempts := 0, st := .issued }
          exec i s = .next (unitThen u.toNat { countIssue lv k x' with
            issued := x.issued + 1, active := pl, shadow := if kp then x.shadow else x.active
            shadowFull := x.shadowFull && kp, lastBufB := !x.lastBufB, lastReplay := false
            passes := x.passes ++ [{ q with entries := passEntries q }] } s (countHeld u.toNat (heldCycles lv k x') s)))))

/-- ACCIN adds an ACC96 tile entry by entry, and DRAIN joins the output queue with its operands read. Rules:
02_number_formats.md R40, 02_number_formats.md R42, 02_number_formats.md R43, 02_number_formats.md R45,
03_knit_unit_datapath.md R73, 03_knit_unit_datapath.md R78, 03_knit_unit_datapath.md R79,
04_unit_programs_and_strands.md R107, 04_unit_programs_and_strands.md R115, 04_unit_programs_and_strands.md R119,
05_laying_out_models.md R163. -/
def Obligations.AccumulateAndDrainComplete : Prop :=
  ∀ (u : BitVec 9) (s : State) (p : Bool),
    let x := getUnit s u.toNat
    let r := x.problem.getD 0
    (p = true → x.problem.isSome = true) →
    (∀ (inp : BitVec 8) (a : BitVec 4) (rows1 : BitVec 8),
      let i := Instr.accin u inp a rows1 p
      let rows := if p then pbRows r else rows1.toNat + 1
      let addr := ctrVal x a.toNat
      let y (q : Option Nat) := { x with issued := x.issued + 1, arrQ := x.arrQ ++ [newOp x (.accin q addr rows [] none)] }
      Ready i u.toNat s → x.arrQ.length < 4 →
      (inp ≠ 0 → exec i s = .next (unitNext u.toNat (y (some (maskOne inp))) s)) ∧
      (inp = 0 → LocalOk addr (rows * 1536) 256 → AutoOk [a.toNat] x →
        (x.arrQ ≠ [] → exec i s = .next (unitNext u.toNat (autoUnit [a.toNat] (y none)) s)) ∧
        (∀ h : HdrEnt, x.arrQ = [] → x.passes = [] → drainAhead x x.issued = false →
          hazard x x.issued [(addr, rows * 1536)] [] [] [] = false → x.hdrFile.find? (fun e => e.addr == addr) = some h →
          x.depth.toNat + fld h.hdr 8 4 ≤ (if x.accFloat then 2 ^ 20 else 2 ^ 24) →
          ∃ acc, exec i s = .next (unitNext u.toNat { autoUnit [a.toNat] x with
              issued := x.issued + 1, acc := acc, depth := x.depth + BitVec.ofNat 32 (fld h.hdr 8 4) } s) ∧
            ∀ k, tgetD acc k 0 = if 128 * rows ≤ k then getAcc x k else
              let e : BitVec 96 := BitVec.ofNat 96 (natOf (((lsRead x addr (rows * 1536)).drop (12 * k)).take 12))
              mkAcc (accSum (getAcc x k) + accSum e) (combSpecial (accSpecial (getAcc x k)) (accSpecial e))
                (accOvf (getAcc x k) || accOvf e)))) ∧
    (∀ (out : BitVec 8) (d : BitVec 4) (dest : BitVec 2) (seg f : BitVec 4) (ti : BitVec 8) (act : BitVec 4) (bias : Bool)
        (b : BitVec 4) (rows1 : BitVec 8),
      let i := Instr.drain u out d dest seg f ti act bias b rows1 p
      let fmt := if p then pbOfmt r else f.toNat
      let t := if p then pbTensor r else ti.toNat
      let rows := if p then pbRows r else rows1.toNat + 1
      let useBias := (if p then (pbFlags r).testBit 2 else bias) && fmt != 11
      let cols := if x.issue16 then 64 else 128
      let n := 256 * cdiv (rows * (cols * fmtBits fmt / 8)) 256
      let ba := ctrVal x b.toNat
      let da := ctrVal x d.toNat
      let autos := (if dest = 1 then [] else [d.toNat]) ++ (if useBias then [b.toNat] else [])
      Ready i u.toNat s → x.outQ.length < 4 →
      (dest = 0 → LocalOk da n 256) → (useBias = true → LocalOk ba (4 * cols) 256) → AutoOk autos x →
      exec i s = .next (unitNext u.toNat { autoUnit autos x with
        issued := x.issued + 1
        outQ := x.outQ ++ [newOp x (.drain out da dest.toNat seg.toNat fmt t (if p then pbAct r else act.toNat)
          (if useBias then some ba else none) rows)] } s))

/-- VOP writes its function of every lane, and VRED its running reduction. Rules: 03_knit_unit_datapath.md R92,
03_knit_unit_datapath.md R94, 03_knit_unit_datapath.md R102, 04_unit_programs_and_strands.md R107,
04_unit_programs_and_strands.md R108, 04_unit_programs_and_strands.md R109, 04_unit_programs_and_strands.md R115,
04_unit_programs_and_strands.md R116, 04_unit_programs_and_strands.md R119. -/
def Obligations.VectorLanesComplete : Prop :=
  ∀ (u : BitVec 9) (s : State) (a d : BitVec 4) (rows1 : BitVec 8),
    let x := getUnit s u.toNat
    let n := 128 * (rows1.toNat + 1)
    let word (q : BitVec 4) (k : Nat) : Nat := natOf (lsRead x (ctrVal x q.toNat + 4 * k) 4)
    let lv := s.power.ceil.toNat
    let held (op : EngOp) : State := countHeld u.toNat (heldCycles lv (vecCycles op) x) s
    let put (op : EngOp) (autos : List Nat) (l : List Byte) : KUnit :=
      { countIssue lv (vecCycles op) (autoUnit autos (lsWrite (ctrVal x d.toNat) l x)) with issued := x.issued + 1 }
    let free (op : EngOp) : Prop :=
      x.vecQ = [] ∧ hazard x x.issued (opReads op) (opWrites op) [] [] = false ∧ withheld s u.toNat = false
    let waits (autos : List Nat) (op : EngOp) : State :=
      unitNext u.toNat { autoUnit autos x with issued := x.issued + 1, vecQ := x.vecQ ++ [newOp x op] } s
    x.vecQ.length < 4 →
    (∀ (f : BitVec 6) (b c : BitVec 4) (fmt : BitVec 4),
      let i := Instr.vop u f a b c d rows1 fmt
      let B := vopB f.toNat
      let C := vopC f.toNat
      let autos := [a.toNat] ++ (if B then [b.toNat] else []) ++ (if C then [c.toNat] else []) ++ [d.toNat]
      let bytes := n * fmtBits fmt.toNat / 8
      let op := EngOp.vop f.toNat fmt.toNat (rows1.toNat + 1) (ctrVal x a.toNat) (ctrVal x b.toNat) (ctrVal x c.toNat)
        (ctrVal x d.toNat)
      Ready i u.toNat s → AutoOk autos x →
      LocalOk (ctrVal x a.toNat) (if f = 0x0A then bytes else 4 * n) 256 →
      (B = true → LocalOk (ctrVal x b.toNat) (4 * n) 256) →
      (C = true → LocalOk (ctrVal x c.toNat) (4 * n) 256) →
      LocalOk (ctrVal x d.toNat) (if f = 0x0B then bytes else 4 * n) 256 →
      (x.vecQ ≠ [] → exec i s = .next (waits autos op)) ∧
      (free op → f ≠ 0x0A → f ≠ 0x0B → exec i s = .next (unitThen u.toNat (put op autos (wordBytes ((List.range n).map fun k =>
        vopLane f.toNat fmt.toNat (word a k) (word b k) (word c k)))) s (held op))) ∧
      (free op → f = 0x0A → fmt ≠ 11 → exec i s = .next (unitThen u.toNat (put op autos (wordBytes ((List.range n).map fun k =>
        widen fmt.toNat (elemAt fmt.toNat (lsRead x (ctrVal x a.toNat) bytes) k)))) s (held op))) ∧
      (free op → f = 0x0B → fmt ≠ 11 →
        let r := (List.range n).map fun k => narrow fmt.toNat (word a k)
        exec i s = .next (unitThen u.toNat (put op autos (packElems fmt.toNat (r.map (·.1)))) s
          (bump (.narrowSat u.toNat) (r.filter (·.2)).length (held op)))) ∧
      (free op → f = 0x0A ∨ f = 0x0B → fmt = 11 → ∃ l : List Nat, l.length = n ∧
        exec i s = .next (unitThen u.toNat (put op autos (if f = 0x0A then wordBytes (l.map (· % 2 ^ 32)) else l.flatMap (bytesOf 12))) s (held op)))) ∧
    (∀ max chain : Bool,
      let i := Instr.vred u max chain a d rows1
      let op := EngOp.vred max chain (ctrVal x a.toNat) (ctrVal x d.toNat) (rows1.toNat + 1)
      let row (j : Nat) : List Nat := (List.range 128).map fun k => word a (128 * j + k)
      Ready i u.toNat s → AutoOk [a.toNat, d.toNat] x → LocalOk (ctrVal x a.toNat) (4 * n) 256 →
      LocalOk (ctrVal x d.toNat) 4 4 →
      (x.vecQ ≠ [] → exec i s = .next (waits [a.toNat, d.toNat] op)) ∧
      (free op → exec i s = .next (unitThen u.toNat (put op [a.toNat, d.toNat] (bytesOf 4
        (vredVal max (if chain then some (word d 0) else none) ((List.range (rows1.toNat + 1)).map row)))) s (held op))))

/-- VSMAX, VTOPK, VSAMPLE and VRAND complete with their rules of softmax, selection and keyed draws. Rules:
03_knit_unit_datapath.md R97, 03_knit_unit_datapath.md R98, 03_knit_unit_datapath.md R99, 03_knit_unit_datapath.md
R100, 03_knit_unit_datapath.md R101, 03_knit_unit_datapath.md R102, 04_unit_programs_and_strands.md R107,
04_unit_programs_and_strands.md R109, 04_unit_programs_and_strands.md R115, 04_unit_programs_and_strands.md R119,
05_laying_out_models.md R163. -/
def Obligations.VectorUnitsComplete : Prop :=
  ∀ (u : BitVec 9) (s : State) (a d w : BitVec 4),
    let x := getUnit s u.toNat
    let A := ctrVal x a.toNat
    let D := ctrVal x d.toNat
    let W := ctrVal x w.toNat
    let words (at_ n : Nat) : List Nat := (List.range n).map fun k => natOf (lsRead x (at_ + 4 * k) 4)
    let lv := s.power.ceil.toNat
    let held (op : EngOp) : State := countHeld u.toNat (heldCycles lv (vecCycles op) x) s
    let put (op : EngOp) (autos : List Nat) (y : KUnit) : KUnit :=
      { countIssue lv (vecCycles op) (autoUnit autos y) with issued := x.issued + 1 }
    let free (op : EngOp) : Prop :=
      x.vecQ = [] ∧ hazard x x.issued (opReads op) (opWrites op) [] [] = false ∧ withheld s u.toNat = false
    let waits (autos : List Nat) (op : EngOp) : State :=
      unitNext u.toNat { autoUnit autos x with issued := x.issued + 1, vecQ := x.vecQ ++ [newOp x op] } s
    x.vecQ.length < 4 →
    (∀ (n1 : BitVec 7) (final : Bool),
      let i := Instr.vsmax u a w d n1 final
      let n := n1.toNat + 1
      let r := softmaxBlock (natOf (lsRead x W 4)) (natOf (lsRead x (W + 4) 4)) (words A n)
      let out := wordBytes ([r.1, r.2.1, r.2.2.1] ++ (if final then [frecip r.2.1] else []))
      Ready i u.toNat s → AutoOk [a.toNat, w.toNat, d.toNat] x → LocalOk A (4 * n) 256 →
      LocalOk W (if final then 16 else 12) 4 → LocalOk D (4 * n) 256 →
      let op := EngOp.vsmax A W D n final
      (x.vecQ ≠ [] → exec i s = .next (waits [a.toNat, w.toNat, d.toNat] op)) ∧
      (free op → exec i s = .next (unitThen u.toNat (put op [a.toNat, w.toNat, d.toNat] (lsWrite D (wordBytes r.2.2.2) (lsWrite W out x))) s (held op)))) ∧
    (∀ (k1 : BitVec 12) (rows1 : BitVec 8) (first finish p : Bool),
      let i := Instr.vtopk u a d w k1 rows1 first finish p
      let r := x.problem.getD 0
      let k := if p then pbTopk r else k1.toNat + 1
      let rows := if p then pbRows r else rows1.toNat + 1
      let best := pairBytes (topk k (if first then [] else pairsOf (lsRead x W (8 * k)) k)
        (pairsOf (lsRead x A (1024 * rows)) (128 * rows)))
      let autos := [a.toNat, w.toNat] ++ (if finish then [d.toNat] else [])
      Ready i u.toNat s → (p = true → x.problem.isSome = true) → AutoOk autos x → LocalOk A (1024 * rows) 256 →
      LocalOk W (8 * k) 256 → (finish = true → LocalOk D (8 * k) 256) →
      let op := EngOp.vtopk A D W k rows first finish
      (x.vecQ ≠ [] → exec i s = .next (waits autos op)) ∧
      (free op → exec i s = .next (unitThen u.toNat (put op autos (if finish then lsWrite D best (lsWrite W best x) else lsWrite W best x)) s (held op)))) ∧
    (∀ (t n : BitVec 4) (draw : BitVec 16),
      let i := Instr.vsample u a d w t n draw
      let c := ctrVal x n.toNat
      let r := sample (words A c) (uniform32 (keyedRandom (natOf (lsRead x W 8)) (ctrVal x t.toNat) draw.toNat 0))
      Ready i u.toNat s → AutoOk [a.toNat, d.toNat, w.toNat] x → LocalOk A (4 * c) 256 → LocalOk W 8 8 →
      LocalOk D 4 4 →
      let op := EngOp.vsample A D W c (ctrVal x t.toNat) draw.toNat
      (x.vecQ ≠ [] → exec i s = .next (waits [a.toNat, d.toNat, w.toNat] op)) ∧
      (free op → exec i s = .next (unitThen u.toNat (put op [a.toNat, d.toNat, w.toNat] (lsWrite D (bytesOf 4 r.1) x)) s
        (if r.2 then bump (.samplerDegenerate u.toNat) 1 (held op) else held op)))) ∧
    (∀ (t : BitVec 4) (draw : BitVec 16) (rows1 : BitVec 8),
      let i := Instr.vrand u d w t draw rows1
      let n := 128 * (rows1.toNat + 1)
      Ready i u.toNat s → AutoOk [d.toNat, w.toNat] x → LocalOk W 8 8 → LocalOk D (4 * n) 256 →
      let op := EngOp.vrand D W (ctrVal x t.toNat) draw.toNat (rows1.toNat + 1)
      (x.vecQ ≠ [] → exec i s = .next (waits [d.toNat, w.toNat] op)) ∧
      (free op → exec i s = .next (unitThen u.toNat (put op [d.toNat, w.toNat] (lsWrite D (wordBytes ((List.range n).map fun lane =>
        uniform32 (keyedRandom (natOf (lsRead x W 8)) (ctrVal x t.toNat) draw.toNat lane))) x)) s (held op))))

/-- LOAD and STORE move their beats between the local store and the device ranges of their segment. Rules:
04_unit_programs_and_strands.md R107, 04_unit_programs_and_strands.md R115, 04_unit_programs_and_strands.md R119,
05_laying_out_models.md R165, 05_laying_out_models.md R174, 06_memory_tiers.md R190, 06_memory_tiers.md R193,
06_memory_tiers.md R195, 06_memory_tiers.md R197, 06_memory_tiers.md R204, 06_memory_tiers.md R207,
06_memory_tiers.md R209. -/
def Obligations.LoadAndStoreComplete : Prop :=
  ∀ (u : BitVec 9) (l seg o : BitVec 4) (beats1 : BitVec 8) (s s1 : State) (ps : List (Nat × Nat)),
    let x := getUnit s u.toNat
    let a := ctrVal x l.toNat
    let off := ctrVal x o.toNat
    let beats := beats1.toNat + 1
    let n := 256 * beats
    let tile := (tget x.segs seg.toNat).bind (·.tile)
    let y (op : EngOp) : KUnit :=
      { autoUnit [l.toNat, o.toNat] x with issued := x.issued + 1, moveQ := x.moveQ ++ [newOp x op], pc := x.pc + 1 }
    AutoOk [l.toNat, o.toNat] x → LocalOk a n 256 → x.moveQ.length < 4 → x.heldAt = [] →
    (∀ verify : Bool,
      let i := Instr.load u l seg o beats1 verify
      let op := EngOp.load a seg.toNat off beats verify
      let sq := setUnit u.toNat (y op) s
      Ready i u.toNat s →
      (x.moveQ ≠ [] → exec i s = .next (judged u.toNat s sq)) ∧
      (x.moveQ = [] → hazard x x.issued [] [(a, n)] (segRange x seg.toNat off n) [] = false →
        unitAccess u.toNat x.pc seg.toNat off n false sq = .go ps s1 →
        let loaded := { lsWrite a (readPieces ps s1) (y op) with moveQ := [], recover := none, lastNoHome := none }
        Touched u.toNat sq s1 ∧
        (verify = false ∨ tile = none → exec i s = .next (judged u.toNat s (setUnit u.toNat loaded s1))) ∧
        (∀ (p : Nat) (c : Cast) (t : TileDecl) (hs : List Rec64), verify = true → tile = some t →
          panelOf s u.toNat = some p → getCast s p = some c → off % (256 * t.tb) = 0 → n % (256 * t.tb) = 0 →
          checkTiles s1 c t (off / (256 * t.tb)) (n / (256 * t.tb)) (readPieces ps s1) [] = .inl hs →
          exec i s = .next (judged u.toNat s (setUnit u.toNat { loaded with
            hdrFile := (hs.zipIdx.foldl (fun y h => hdrFilePut (a + 256 * t.tb * h.2) h.1 y) x).hdrFile } s1))))) ∧
    (let i := Instr.store u l seg o beats1
      let op := EngOp.store a seg.toNat off beats
      let sq := setUnit u.toNat (y op) s
      let bytes := lsRead x a n
      let covers (r : Nat × Nat) (b len : Nat) : Prop := r.1 ≤ b ∧ b + len ≤ r.1 + r.2
      Ready i u.toNat s →
      (x.moveQ ≠ [] → exec i s = .next (judged u.toNat s sq)) ∧
      (x.moveQ = [] → hazard x x.issued [(a, n)] [] [] (segRange x seg.toNat off n) = false →
        unitAccess u.toNat x.pc seg.toNat off n true sq = .go ps s1 →
        (∀ p c, panelOf s u.toNat = some p → getCast s p = some c → ∀ q ∈ queueBeats c, ∀ r ∈ ps, ¬ covers r q.2.2 256) →
        let m := match (panelOf s u.toNat).bind (getCast s), tile with
          | some c, some t => storeHdrs u.toNat (newOp x op) a off n c t bytes s1
          | _, _ => s1
        Touched u.toNat sq s1 ∧
        ∃ t, exec i s = .next (judged u.toNat s (setUnit u.toNat { getUnit m u.toNat with moveQ := [] } t)) ∧
          t = { writePieces ps bytes m with reducers := t.reducers, lists := t.lists, claims := t.claims, ctrs := t.ctrs } ∧
          (MemOk s → ∀ b, (∀ r ∈ ps, b < r.1 ∨ r.1 + r.2 ≤ b) → memGet t.mem b = memGet m.mem b) ∧
          ((∀ kl ∈ s.lists, ∀ r ∈ ps, ¬ covers r kl.2.beat 8) → (∀ kr ∈ s.reducers, ∀ r ∈ ps, newlyStored r.1 r.2 kr.2 = []) →
            t = writePieces ps bytes m)))

/-- SEND, RECV, FWD, MARK, STEER and MERGE are handed to their engine with their operands read. Rules:
04_unit_programs_and_strands.md R107, 04_unit_programs_and_strands.md R108, 04_unit_programs_and_strands.md R115,
04_unit_programs_and_strands.md R119, 04_unit_programs_and_strands.md R122, 04_unit_programs_and_strands.md R123,
04_unit_programs_and_strands.md R126, 04_unit_programs_and_strands.md R129, 04_unit_programs_and_strands.md R131,
04_unit_programs_and_strands.md R133, 06_memory_tiers.md R204, 06_memory_tiers.md R205. -/
def Obligations.StrandInstructionsQueue : Prop :=
  ∀ (u : BitVec 9) (s : State),
    let x := getUnit s u.toNat
    let moved (autos : List Nat) (op : EngOp) : Result :=
      .next (unitNext u.toNat { autoUnit autos x with issued := x.issued + 1, moveQ := x.moveQ ++ [newOp x op] } s)
    (x.moveQ.length < 4 →
      (∀ (out : BitVec 8) (l : BitVec 4) (beats1 : BitVec 8),
        let i := Instr.send u out l beats1
        let a := ctrVal x l.toNat
        let n := beats1.toNat + 1
        Ready i u.toNat s → LocalOk a (256 * n) 256 → AutoOk [l.toNat] x →
        exec i s = moved [l.toNat] (.send out a n true)) ∧
      (∀ (inp : BitVec 8) (l : BitVec 4) (beats1 : BitVec 8) (mka : BitVec 2),
        let i := Instr.recv u inp l beats1 mka
        let a := ctrVal x l.toNat
        let n := beats1.toNat + 1
        Ready i u.toNat s → LocalOk a (256 * n) 256 → AutoOk [l.toNat] x →
        exec i s = moved [l.toNat] (.recv (maskOne inp) a n mka.toNat)) ∧
      (∀ (inp out : BitVec 8) (beats1 : BitVec 8) (mka : BitVec 2), Ready (.fwd u inp out beats1 mka) u.toNat s →
        exec (.fwd u inp out beats1 mka) s = moved [] (.fwd (maskOne inp) out (beats1.toNat + 1) mka.toNat))) ∧
    (x.strandQ.length < 4 →
      let q (op : EngOp) : Result :=
        .next (unitNext u.toNat { x with issued := x.issued + 1, strandQ := x.strandQ ++ [newOp x op] } s)
      (∀ (out : BitVec 8) (m : BitVec 16), Ready (.mark u out m) u.toNat s → exec (.mark u out m) s = q (.mark out m)) ∧
      ∀ (a b c d : BitVec 3) (beats n1 : BitVec 8),
        (Ready (.steer u a b c d beats n1) u.toNat s → exec (.steer u a b c d beats n1) s =
          q (.steer a.toNat b.toNat c.toNat d.toNat beats.toNat (n1.toNat + 1) none)) ∧
        (Ready (.merge u a b c d beats n1) u.toNat s → exec (.merge u a b c d beats n1) s =
          q (.merge a.toNat b.toNat c.toNat d.toNat beats.toNat (n1.toNat + 1) none)))

/-- A step of each engine moves its one entry, and a spilled entry returns to its queue. Rules:
04_unit_programs_and_strands.md R107, 04_unit_programs_and_strands.md R122, 04_unit_programs_and_strands.md R123,
04_unit_programs_and_strands.md R128, 04_unit_programs_and_strands.md R129, 04_unit_programs_and_strands.md R136,
04_unit_programs_and_strands.md R137, 04_unit_programs_and_strands.md R138, 04_unit_programs_and_strands.md R140,
06_memory_tiers.md R210. -/
def Obligations.EngineStepsComplete : Prop :=
  ∀ (u : BitVec 9) (s : State),
    let x := getUnit s u.toNat
    let lv := s.power.ceil.toNat
    (x.halted = false → x.run ≠ .stopped →
      (∀ (o : QOp) (i a left mka : Nat) (rest : List QOp) (b : Beat) (h : Option Rec64) (t : List Entry),
        let q := getIn x i
        x.moveQ = o :: rest → o.op = .recv i a left mka → opHazard x o = false → q.queue = .beat b h :: t → q.arr = none →
        q.fromLink = none → 0 < left →
        exec (.stepFire u 0) s = .next (judged u.toNat s (setUnit u.toNat
          { setIn i { q with queue := t } (lsWrite a (beatBytes b) x) with
            moveQ := (if left = 1 then [] else [{ o with op := .recv i (a + 256) (left - 1) mka }]) ++ rest } s))) ∧
      (∀ (o : QOp) (a left : Nat) (out : BitVec 8) (first : Bool) (rest : List QOp),
        let beat (h : Option Rec64) : Entry := .beat (beatOf (lsRead x a 256)) h
        let rest' := if left ≤ 1 then none else some (EngOp.send out (a + 256) (left - 1) false)
        let sent (h : Option Rec64) : State := putOuts u.toNat out (beat h) s
        x.moveQ = o :: rest → o.op = .send out a left first → opHazard x o = false →
        (∀ h, (first = false → h = none) → (first = true → ∃ k, h = some k ∧ hdrFileFind x a left = some k) →
          outsRoom s u.toNat out (beat h) = true →
          exec (.stepFire u 0) s = .next (judged u.toNat s (setMoveQ u.toNat rest' (sent h)))) ∧
        (first = true → hdrFileFind x a left = none → ∃ f r sc t k : Nat,
          let h := mkTileHdr (1 + f % 12) 0xF 0 (1 + r % 256) left (sc % 2 ^ 32) u.toNat 0 ((panelOf s u.toNat).getD 0)
            (t % 2 ^ 32) (k % 2 ^ 32) x.tileCount.toNat (lsRead x a (256 * left))
          outsRoom s u.toNat out (beat (some h)) = true →
          exec (.stepFire u 0) s =
            .next (judged u.toNat s (setMoveQ u.toNat rest' (countTile u.toNat (sent (some h))))))) ∧
      (∀ (o : QOp) (w v i : Nat) (out : BitVec 8) (m : BitVec 16) (rest : List QOp),
        let y := getUnit s v
        let q := getIn y i
        x.strandQ = o :: rest → o.op = .mark out m → outList out = [w] → (getOut x w).dests = [.strand v i] → v ≠ u.toNat →
        y.halted = false → q.spilled = [] → q.arr = none → q.marks < 16 →
        ∃ t, exec (.stepFire u 1) s = .next (judged u.toNat s t) ∧ t = { s with units := t.units } ∧
          getUnit t u.toNat = { x with strandQ := rest, outs := (getUnit t u.toNat).outs } ∧
          getOut (getUnit t u.toNat) = getOut x ∧
          getUnit t v = setIn i { q with queue := q.queue ++ [.marker m] } y ∧
          ∀ w, w ≠ u.toNat → w ≠ v → getUnit t w = getUnit s w) ∧
      (∀ (o : QOp) (out : BitVec 8) (b : Beat) (h : Option Rec64) (l : List (Beat × Option Rec64)) (rest : List QOp),
        x.outQ = o :: rest → o.op = .emit out ((b, h) :: l) → opHazard x o = false →
        outsRoom s u.toNat out (.beat b h) = true →
        let t := putOuts u.toNat out (.beat b h) s
        let more := (getUnit t u.toNat).outQ.tail
        exec (.stepFire u 2) s = .next (judged u.toNat s (setUnit u.toNat
          { getUnit t u.toNat with outQ := if l = [] then more else { o with op := .emit out l } :: more } t))) ∧
      (∀ (o : QOp) (i a c : Nat) (got : List Beat) (rest : List QOp) (b : Beat) (h : Option Rec64) (t : List Entry),
        let q := getIn x i
        x.arrQ = o :: rest → o.op = .plane (some i) a c got → got.length < (if c = 2 then 32 else 64) →
        q.queue = .beat b h :: t → q.arr = none → q.fromLink = none →
        exec (.stepFire u 3) s = .next (judged u.toNat s (setUnit u.toNat
          { setIn i { q with queue := t } x with arrQ := { o with op := .plane (some i) a c (got ++ [b]) } :: rest } s))) ∧
      (∀ (o : QOp) (rest : List QOp), x.vecQ = o :: rest → opHazard x o = false → withheld s u.toNat = false →
        exec (.stepFire u 4) s =
          .next (judged u.toNat s (vecEffect u.toNat o.op (setUnit u.toNat { countIssue lv (vecCycles o.op) x with vecQ := rest }
            (countHeld u.toNat (heldCycles lv (vecCycles o.op) x) s)))))) ∧
    (∀ (i : BitVec 3) (e : Entry) (t : List Entry),
      let q := getIn x i.toNat
      q.spilled = e :: t → q.laneRoom e.isBeat = true → x.halted = false →
      let r := setUnit u.toNat (setIn i.toNat { q with
        queue := q.queue ++ [e], spilled := t, spillOff := if t = [] then 0 else (q.spillOff + 1) % 16 } x) s
      exec (.spillReturn u i) s = .next (match panelOf s u.toNat with
        | some p => modCast p (fun c => { c with spillUsed := spillInUse r p }) r
        | none => r))

/-- A drain to the local store writes its payload, its header and its histogram once its passes have committed.
Rules: 02_number_formats.md R49, 02_number_formats.md R50, 02_number_formats.md R56, 02_number_formats.md R58,
02_number_formats.md R59, 03_knit_unit_datapath.md R78, 03_knit_unit_datapath.md R79, 06_memory_tiers.md R204,
06_memory_tiers.md R205, 06_memory_tiers.md R209. -/
def Obligations.TileDrainCompletes : Prop :=
  ∀ (u : BitVec 9) (s : State) (o : QOp) (out : BitVec 8) (addr seg fmt ti act rows p : Nat) (bias : Option Nat)
    (rest : List QOp) (t : Tensor) (ps : List (Nat × Nat)),
    let x := getUnit s u.toNat
    let cols := tileCols x.acc16
    let b := bias.map fun a => words32 (lsRead x a (4 * cols)) cols
    let g := histUse (getCast s p) x ti t
    let r := drainPayload x ti g t fmt act b rows
    let lv := s.power.ceil.toNat
    let k := vecCycles o.op
    let ovf := !x.acc16 && (tileEntries x rows cols).any fun e => accOvf e.2
    x.outQ = o :: rest → o.op = .drain out addr 0 seg fmt ti act bias rows → x.halted = false → x.run ≠ .stopped →
    opHazard x o = false → drainReady x o.num = true → (k = 0 ∨ withheld s u.toNat = false) →
    tget x.tensors ti = some t → panelOf s u.toNat = some p → histReach p fmt g t s = .go ps s → r.1 ≠ [] → r.1.length ≤ 65536 →
    ∃ v : Nat,
      let h := mkTileHdr fmt x.accShape.toNat (b2n (fmt == 11) + 2 * b2n ovf)
        (min 256 (max 1 (min rows (cdiv r.1.length (drainRow x.acc16 fmt))))) (r.1.length / 256)
        (if fmt = 11 then x.depth.toNat else t.scale.toNat) u.toNat 0 p t.ident.toNat (v % 2 ^ 32) x.tileCount.toNat r.1
      let y := { hdrFilePut addr h (lsWrite addr r.1 r.2) with outQ := rest, tileCount := x.tileCount + 1 }
      let d := setUnit u.toNat (countIssue lv k y) (countHeld u.toNat (heldCycles lv k x) s)
      exec (.tileDrainStart u) s = .next (judged u.toNat s (if fmt = 11 then d else writeHist u.toNat fmt g t d))

/-- A pass is checked, replayed after a mismatch and committed once, in the order of the rules. Rules:
03_knit_unit_datapath.md R70, 03_knit_unit_datapath.md R73, 03_knit_unit_datapath.md R74, 03_knit_unit_datapath.md
R76, 03_knit_unit_datapath.md R84, 03_knit_unit_datapath.md R85, 03_knit_unit_datapath.md R87,
03_knit_unit_datapath.md R88, 03_knit_unit_datapath.md R90, 02_number_formats.md R40, 02_number_formats.md R42,
02_number_formats.md R43. -/
def Obligations.PassChecksReplaysAndCommits : Prop :=
  ∀ (u : BitVec 9) (bufB : Bool) (s : State) (p : PassRec),
    let x := getUnit s u.toNat
    let become (q' : PassRec) : List PassRec := x.passes.map fun q => if q.seq = p.seq then q' else q
    (x.passes.find? (fun p => p.bufB == bufB && p.st == .issued) = some p → (∀ q ∈ x.passes, q.seq = p.seq → q = p) →
      let r := passCheck p
      let s1 := if r.unchecked = 0 then s else bump (.unchecked16 u.toNat) r.unchecked s
      (r.band = none → r.cols = [] → exec (.passCheckOutcome u bufB) s =
        .next (setUnit u.toNat { x with passes := become { p with st := .equal } } s1)) ∧
      ((r.band ≠ none ∨ r.cols ≠ []) → p.attempts < 3 → (getStack s (unitStack u.toNat)).log.length < 253 →
        ∃ t, exec (.passCheckOutcome u bufB) s = .next t ∧
          t = { bump (.droppedStitches u.toNat) 1 s1 with units := t.units, stackTbl := t.stackTbl } ∧
          getUnit t u.toNat = { x with
            passes := become { p with st := .failed, entries := [] }
            sites := (getUnit t u.toNat).sites, marked := (getUnit t u.toNat).marked } ∧
          (∀ v, v ≠ u.toNat → getUnit t v = getUnit s v) ∧
          (getStack t (unitStack u.toNat)).log.length =
            (getStack s (unitStack u.toNat)).log.length + (mismatchSites r).length)) ∧
    (∀ ups : List Upset, withheld s u.toNat = false →
      x.passes.find? (fun p => p.st == .failed) = some p → (∀ q ∈ x.passes, q.seq = p.seq → q = p) →
      let q := { p with st := .issued, attempts := p.attempts + 1, upsets := ups }
      let lv := s.power.ceil.toNat
      let k := passCycles p.m
      exec (.replayIssue u ups) s = .next (judged u.toNat s (setUnit u.toNat
        { countIssue lv k x with passes := become { q with entries := passEntries q }, lastBufB := p.bufB, lastReplay := true }
        (countHeld u.toNat (heldCycles lv k x) s)))) ∧
    (x.passes.find? (fun p => p.bufB == bufB && p.st == .equal) = some p → mayCommit x p = true → drainAhead x p.seq = false →
      (p.shape ≠ 2 → p.add = true → x.depth.toNat + shapeK p.shape ≤ (if isFloatOp p.afmt then 2 ^ 20 else 2 ^ 24)) →
      ∃ acc, exec (.passCommit u bufB) s = .next (judged u.toNat s (setUnit u.toNat { x with
          passes := x.passes.filter (fun q => q.seq != p.seq), acc := acc, accShape := BitVec.ofNat 4 p.shape
          depth := if p.shape = 2 then x.depth else if p.add then x.depth + BitVec.ofNat 32 (shapeK p.shape)
            else BitVec.ofNat 32 (shapeK p.shape)
          accFloat := isFloatOp p.afmt || p.shape == 2
          acc16 := p.shape == 2 } s)) ∧
        ((p.entries.map (·.1)).Nodup →
          ∀ k, tgetD acc k 0 = match tget p.entries k with
            | none => getAcc x k
            | some e =>
              let old := getAcc x k
              if p.shape = 2 then
                BitVec.ofNat 96 (if p.add then fadd (old.toNat % 2 ^ 32) e.sum.toNat else e.sum.toNat)
              else if p.add then
                mkAcc (accSum old + toBits 88 e.sum.toInt) (combSpecial (accSpecial old) e.special.toNat) (accOvf old)
              else mkAcc (toBits 88 e.sum.toInt) e.special.toNat false))

/-- A resent tile takes its place, and an ordered reducer adds its partials in ascending order. Rules:
02_number_formats.md R47, 04_unit_programs_and_strands.md R123, 05_laying_out_models.md R173,
05_laying_out_models.md R174, 05_laying_out_models.md R175, 06_memory_tiers.md R204, 06_memory_tiers.md R205,
06_memory_tiers.md R207, 06_memory_tiers.md R210. -/
def Obligations.ResendsAndReducersComplete : Prop :=
  ∀ s : State,
    (∀ (u : BitVec 9) (i : BitVec 3) (h : Rec64),
      let x := getUnit s u.toNat
      let q := getIn x i.toNat
      ((q.queue ++ q.spilled).findSome? fun e => match e with | .hole h _ => some h | _ => none) = some h →
      (∀ v : Nat × SentTile, q.fromLink = none → hasHole q.queue = true → keptFor s (.strand u.toNat i.toNat) = some v →
        let hdr := resentHdr v.2.hdr
        tilePasses hdr (v.2.beats.flatMap beatBytes) = true →
        exec (.tileResend u i) s = .next (ackTile (.strand u.toNat i.toNat) hdr 0
          (setUnit u.toNat (setIn i.toNat { q with queue := fillFirst hdr v.2.beats q.queue, resent := none } x)
            (bump (.resends v.1) 1 s)))) ∧
      (∀ p ch, q.fromLink = some (p, ch) → (getPort s p).st = .up →
        exec (.tileResend u i) s = .next (sendService p (serviceHdr 7 0 0 ch (fld h 0x18 8) 0) [] s))) ∧
    (∀ (region entry : BitVec 4) (slot : BitVec 8) (r : Reducer),
      let key := 16 * region.toNat + entry.toNat
      let k := slot.toNat
      let r1 := { r with stored := r.stored.filter (· != k), ready := insNat r.ready k }
      let words (j : Nat) : List Nat := (List.range r.elems).map fun e => natOf (rd s (lgetD r.slots k 0 + 4 * e + j) 4)
      let sums := if r.sum = [] then words 0 else (r.sum.zip (words 0)).map fun e => fadd e.1.toNat e.2
      let r2 := { r1 with
        nextPart := k + 1, sum := sums.map (BitVec.ofNat 32), ready := r1.ready.filter (· != k), done := k + 1 = r.parts }
      tget s.reducers key = some r → k ∈ r.stored →
      ((r.nextPart ≠ k → r.nextPart ∉ r.ready → exec (.reducerSlotReady region entry slot) s =
          .next { s with reducers := tset s.reducers key r1 }) ∧
        (∀ ps s1, r.nextPart = k → k < r.parts → partialOk s r k = true → (k + 1 = r.parts ∨ k + 1 ∉ r1.ready) →
          engineRanges r.panel (slotRanges r k) false { s with reducers := tset s.reducers key r1 } = .go ps s1 →
          let t := { s with hanks := s1.hanks, reducers := tset s.reducers key r2 }
          exec (.reducerSlotReady region entry slot) s = .next (if k + 1 = r.parts then sendSignals r.empties t else t)))) ∧
    (∀ (region entry : BitVec 4) (r : Reducer) (ps : List (Nat × Nat)) (s1 : State),
      let key := 16 * region.toNat + entry.toNat
      let die := region.toNat / 4
      tget s.reducers key = some r → r.done = true → 0 ∉ r.ready → engineRanges r.panel (outRanges r) true s = .go ps s1 →
      let payload := r.sum.flatMap fun w => bytesOf 4 w.toNat
      let h0 : Rec64 := BitVec.ofNat 512 (natOf (rd s (lgetD r.hdrs 0 0) 64))
      let q := ((getCast s r.panel).map fun c => tgetD c.dieSeq die 0).getD 0
      s1 = { s with hanks := s1.hanks } ∧ ∃ i : Nat,
        let h := mkTileHdr 10 (fld h0 2 1) 0 (fld h0 4 2) (payload.length / 256) 0x3F800000 die 1 r.panel
          r.tensor.toNat (i % 2 ^ 32) q payload
        exec (.reducerResultWrite region entry) s = .next (sendSignals r.fulls
          { wr r.outHdr (recBytes h) (wr r.out payload
              (modCast r.panel (fun c => { c with dieSeq := tset c.dieSeq die (q + 1) }) s1)) with
            reducers := tset s.reducers key { r with nextPart := 0, sum := [], done := false } }))

/-- A move is queued by a store, started by its engine, and ended with its bytes at their new place. Rules:
06_memory_tiers.md R191, 06_memory_tiers.md R192, 06_memory_tiers.md R193, 06_memory_tiers.md R194,
06_memory_tiers.md R195, 06_memory_tiers.md R196, 06_memory_tiers.md R197, 06_memory_tiers.md R200,
06_memory_tiers.md R516. -/
def Obligations.MovesCompleteStepByStep : Prop :=
  ∀ s : State,
    (∀ (u : BitVec 9) (st : BitVec 2) (beat : Beat) (p b : Nat) (c : Cast) (d : Rec64),
      let x := getUnit s u.toNat
      panelOf s u.toNat = some p → getCast s p = some c → x.run ≠ .stopped → x.run ≠ .idle → x.halted = false →
      (queueBeats c).find? (fun q => q.1 == .move && q.2.1 == st.toNat) = some (.move, st.toNat, b) →
      (queueBeats c).filter (fun q => q.2.2 == b) = [(.move, st.toNat, b)] →
      moveQueueFull s (moveEngine d) = false → beatSlots beat = [d] → moveOk s d = true →
      unitMoveRangeOk s p d = true → (∀ kl ∈ s.lists, ¬ (b ≤ kl.2.beat ∧ kl.2.beat + 8 ≤ b + 256)) →
      (∀ kr ∈ s.reducers, newlyStored b 256 kr.2 = []) →
      exec (.moveQueueStore u st beat) s =
        .next { setUnit u.toNat { x with moveTags := x.moveTags ++ [BitVec.ofNat 16 (mvTag d)] } (wr b (recBytes beat) s) with
          nextId := s.nextId + 1
          moves := s.moves ++ [{ id := s.nextId, stack := moveEngine d, kind := mvKind d, alloc := mvAlloc d,
                                 pin := mvPin d, tag := BitVec.ofNat 16 (mvTag d), panel := mvPanel d, dtier := mvDtier d,
                                 src := mvSrc d, dst := mvDst d, len := mvLen d, peer := mvPeer d, by_ := .unit u.toNat,
                                 pool := false, placed := !mvAlloc d }] }) ∧
    (∀ (st : BitVec 2) (bad : List Nat) (m : MoveRec),
      let source := if m.kind = 1 then some (stackOf m.src) else none
      nextMove s st.toNat = some m → m.kind ≠ 4 →
      (m.kind ≠ 2 → (if m.pool then homeAny s m.src m.len else homeAll s m.src m.len) = true) →
      (∀ a ∈ [m.src] ++ (if m.placed then [m.dst] else []), tierOf a = 3 →
        (getStack s (stackOf a)).t3.st ≠ 5) →
      let bad' := bad.filter fun p => m.src ≤ 4096 * p && 4096 * p < m.src + m.len && tierOf m.src == 3
      let started (m : MoveRec) (s : State) : State := markTransit m true (setMove m s)
      (m.placed = true →
        exec (.moveStart st m.id bad) s =
          .next (started { m with running := true, bad := if m.bad = [] then bad' else m.bad } s)) ∧
      (∀ (a : Nat) (s1 : State), m.placed = false →
        (m.dtier = 3 → ∀ k, source = some k → (getStack s k).t3.st ≠ 5) →
        allocRange (.move m.id) m.dtier m.len (domainOwner m.panel) m.pin source s = (.got a, s1) →
        engineFree s (stackOf a) = true → (m.pin = true → ∀ k ∈ hanksOf a m.len, hostPins s k < 254) →
        exec (.moveStart st m.id bad) s =
          .next (started { m with dst := a, placed := true, stack := stackOf a, held := false, running := true, bad := bad' } s1))) ∧
    (∀ (st : BitVec 2) (ended : MoveEnd) (m : MoveRec),
      s.moves.find? (fun m => m.id == ended.id && m.running && m.stack == st.toNat) = some m → m.kind = 1 → m.bad = [] →
      m.pin = false → m.alloc = false → (tierOf m.src = 1 ∨ tierOf m.src = 2) → (tierOf m.dst = 1 ∨ tierOf m.dst = 2) →
      (∀ c, m.by_ ≠ .admin c) → heldOn m s = [] → (m.pool = true → homeAll s m.src m.len = true) →
      (∀ p ∈ s.panels, ∀ c, p.2.cast = some c → ∀ e ∈ c.poolHanks, ¬ (m.src ≤ e.2 ∧ e.2 < m.src + m.len)) →
      ∃ t, exec (.moveEndUpdate st ended) s = .next t ∧
        t.mem = memClear (memCopy s.mem m.src m.dst m.len) m.src m.len ∧
        t.home = rangeDel (rangeAdd s.home (pageLo m.dst) (pageHi m.dst m.len)) (pageLo m.src) (pageHi m.src m.len) ∧
        t.moves = s.moves.filter (·.id != m.id) ∧
        t = { s with mem := t.mem, home := t.home, moves := t.moves, hanks := t.hanks, allocs := t.allocs, stackTbl := t.stackTbl
                     panels := t.panels, catalogue := t.catalogue, slots := t.slots, ply := t.ply, ctrs := t.ctrs
                     units := t.units })

/-- A recovery takes the retained copy, an epoch ages the hanks, and a short reserve evicts the oldest hank. Rules:
06_memory_tiers.md R190, 06_memory_tiers.md R198, 06_memory_tiers.md R199, 06_memory_tiers.md R200,
06_memory_tiers.md R201, 06_memory_tiers.md R202, 06_memory_tiers.md R208, 06_memory_tiers.md R209,
07_attention_and_kv.md R226. -/
def Obligations.RecoveryAndPoolComplete : Prop :=
  ∀ s : State,
    (∀ (u : BitVec 9) (addr : BitVec 52) (p : Nat) (c : Cast) (area off : Nat) (t : TileDecl) (i : Nat)
        (v : Nat × Rec64 × List Byte) (peer : List (Nat × List Byte)),
      let a := addr.toNat
      let y := segTile area off t i
      let w := areaPut c area y.off (v.2.2.take y.len)
        (areaPut c t.hdrArea (tileHdrOff t i) (recBytes v.2.1) (bump (.reRequests (stackOf a)) 1 s))
      panelOf s u.toNat = some p → getCast s p = some c → (getUnit s u.toNat).recover = some a →
      segTileAt (getUnit s u.toNat) c a = some y → findRetained s a = some v → recoveryReturns c y s = none →
      tilePasses (tileHdrAt w c t i) (areaRead w c area y.off y.len) = true → hdrBeats (tileHdrAt w c t i) = t.tb →
      exec (.reRequest u addr peer) s = .next (setUnit u.toNat { getUnit s u.toNat with recover := none } w)) ∧
    (let aged := tmap s.hanks fun _ h => { h with age := BitVec.ofNat 16 (min 65535 (h.age.toNat + 1)) };
      let due := s.nextEpoch ≤ s.now.toNat
      (¬ due → exec .poolEpochBoundary s = .next s) ∧
      (due → (∀ p ∈ s.panels, ∀ c, getCast s p.1 = some c → freePoolHanks c = []) →
        exec .poolEpochBoundary s = .next { s with nextEpoch := s.nextEpoch + s.epochUs.toNat, hanks := aged }) ∧
      (∀ (p : Nat) (x : Panel) (c : Cast) (e : Nat × Nat), due → s.panels = [(p, x)] → x.cast = some c →
        freePoolHanks c = [e] → tierOf e.2 = 2 →
        exec .poolEpochBoundary s = .next { s with
          nextEpoch := s.nextEpoch + s.epochUs.toNat
          panels := [(p, { x with cast := some { c with
            poolHanks := tdel c.poolHanks e.1, lostPages := c.lostPages.filter fun pg => pg / 32 != e.1 } })]
          mem := memPuts s.mem (c.dirBase + 16384 * 256 + 8 * e.1) (bytesOf 8 0)
          hanks := tdel aged (hankOf e.2)
          home := rangeDel s.home (pageLo (hankAddr (hankOf e.2))) (pageHi (hankAddr (hankOf e.2)) hankBytes) })) ∧
    (∀ (st : BitVec 2) (k : Nat),
      let evict := { s with
        nextId := s.nextId + 1
        hanks := match tget s.hanks k with
          | some h => tset s.hanks k { h with transit := true }
          | none => s.hanks
        moves := s.moves ++ [{ id := s.nextId, stack := hankStack k, kind := 1, alloc := true, pin := false, tag := 0,
                               panel := ((tget s.hanks k).bind (·.owner)).getD 0xFF, dtier := if k < 768 then 2 else 3,
                               src := hankAddr k, dst := 0, len := hankBytes, peer := 0, by_ := .evict k, pool := true }] }
      let t1 (r : Nat) := oldestOf s fun k _ => k < 768 && k / 48 == r
      let t2 (o : Option Nat) := oldestOf s fun k _ =>
        768 ≤ k && hankGroup k / 6 == st.toNat && groupOwner s (hankGroup k) == o
      let takes (k : Nat) : Prop := t3Writable s (hankStack k) = true ∧ (t3Free s (hankStack k) 1).isSome = true
      let noT1 (hi : Nat) : Prop := ∀ q, 4 * st.toNat ≤ q → q < hi → shortRegion s q = true → t1 q = none
      (∀ r, 4 * st.toNat ≤ r → r < 4 * st.toNat + 4 → shortRegion s r = true → t1 r = some k → noT1 r →
        exec (.backgroundEviction st) s = .next evict) ∧
      (∀ (o : Option Nat) (before after : List (Option Nat)), noT1 (4 * st.toNat + 4) →
        stackOwners s st.toNat = before ++ o :: after → freeT2 s st.toNat o < 64 → t2 o = some k → takes k →
        (∀ q ∈ before, freeT2 s st.toNat q < 64 → ∀ j, t2 q = some j → ¬ takes j) →
        exec (.backgroundEviction st) s = .next evict))

/-- The translation layer levels wear, relocates disturbed blocks, patrols, programs its buffer and mounts. Rules:
06_memory_tiers.md R212, 06_memory_tiers.md R213, 06_memory_tiers.md R214, 06_memory_tiers.md R215,
06_memory_tiers.md R216, 06_memory_tiers.md R217, 06_memory_tiers.md R219, 06_memory_tiers.md R220,
16_startup_and_security.md R471. -/
def Obligations.FlashLayerCompletes : Prop :=
  ∀ (s : State) (st : BitVec 2),
    let t := (getStack s st.toNat).t3
    let with_ (t' : T3Stack) (s : State) : State :=
      { s with stackTbl := tset s.stackTbl st.toNat { getStack s st.toNat with t3 := t' } }
    let erased (k : Nat) (t : T3Stack) : T3Stack := { t with
      erases := tset t.erases k (BitVec.ofNat 16 ((tgetD t.erases k 0).toNat + 1)), reads := tdel t.reads k
      written := tdel t.written k }
    let clean (k : Nat) : T3Stack := if tgetD t.written k 0 = 0 then t else erased k t
    let moved (old new : Nat) : T3Stack := erased old { clean new with
      place := t.place.map fun e => if e.2 = old then (e.1, new) else e
      written := tset (clean new).written new (cdiv (t.place.filter fun e => e.2 == old).length 4)
      openBlk := t.openBlk.filter fun e => e.2 != old }
    (∀ (ch : BitVec 3) (fresh : BitVec 16) (b n : Nat),
      let new := blockKey ch.toNat fresh.toNat
      let young (k : Nat) : Prop := (tgetD (clean new).erases k 0).toNat + 1 < 3000
      t3Readable s st.toNat = true → freshOk t ch.toNat fresh.toNat = true → new ∉ t.retired →
      (tgetD t.written new 0 ≠ 0 → (tgetD t.erases new 0).toNat + 1 < 3000) →
      (lowestBlock t ch.toNat = some (b, n) → n + 150 < (chanErases t ch.toNat).foldl (fun a e => max a e.2) 0 → young b →
        exec (.wearLevelRelocation st ch ⟨fresh, true⟩) s = .next (with_ (moved b new) s)) ∧
      (∀ block : BitVec 16, let k := blockKey ch.toNat block.toNat
        s.rdThreshold.toNat * 1000 ≤ (tgetD t.reads k 0).toNat → young k →
        exec (.readDisturbRelocation st ch block ⟨fresh, true⟩) s =
          .next (bump (.readDisturb st.toNat) 1 (with_ (moved k new) s)))) ∧
    (∀ (page : BitVec 31) (ch : BitVec 3) (block : BitVec 16) (fresh : FreshBlock) (corrected : Nat),
      let pg := t3First st.toNat + page.toNat
      let q := if s.now.toNat < t.passEnd then s
        else with_ { t with passEnd := s.now.toNat + s.patrolHours.toNat * 3600000000, seen := [] } s
      t3Readable s st.toNat = true → page.toNat < t3Pages → tget t.place pg = some (blockKey ch.toNat block.toNat) →
      rangeAny (getStack q st.toNat).t3.seen pg (pg + 1) = false → corrected ≤ 48 →
      exec (.patrolRead st page ch block fresh corrected .good) s = .next (
        let r := modT3 st.toNat (fun t => { t with seen := rangeAdd t.seen pg (pg + 1) }) (countT3Reads (4096 * pg) 4096 q)
        if 0 < corrected then bump (.t3Corrected st.toNat) 1 r else r)) ∧
    (∀ (ch : BitVec 3) (block : BitVec 16) (pages : List Nat) (ok : Bool),
      let k := blockKey ch.toNat block.toNat
      let n := cdiv pages.length 4
      pages ≠ [] → n ≤ 1024 → (∀ p ∈ pages, p ∈ t.buffer) → k ∉ t.retired →
      ((tget t.openBlk ch.toNat = some k ∧ tgetD t.written k 0 + n ≤ 1024) ∨
        (freshOk t ch.toNat block.toNat = true ∧ tgetD t.written k 0 = 0)) →
      exec (.nandProgramDone st ch ⟨block, ok⟩ pages true) s = .next (with_ { t with
        buffer := (t.buffer.filter fun p => !pages.contains p), place := (pages.foldl (fun m p => tset m p k) t.place)
        written := tset t.written k (tgetD t.written k 0 + n), openBlk := tset t.openBlk ch.toNat k } s) ∧
      exec (.nandProgramDone st ch ⟨block, ok⟩ pages false) s = .next (
        let r := bump (.retiredBlocks st.toNat) 1
          (with_ { t with retired := insNat t.retired k, spare := t.spare - 1 } s)
        if t3Readable s st.toNat then setT3State st.toNat (t3ByWear (t.spare - 1)) r else r)) ∧
    (t.st = 1 →
      let r := setT3State st.toNat (t3ByWear t.spare) (with_ { t with closed := false } s)
      let ended := (List.range 4).all fun i => 2 ≤ (getStack r i).t3.st.toNat
      exec (.t3MountDone st true) s = .next { r with boot := { r.boot with catReady := r.boot.catReady || ended } })

/-- An accepted walk waits for its ring, its entries are written in order, and appended rows are scattered. Rules:
07_attention_and_kv.md R224, 07_attention_and_kv.md R226, 07_attention_and_kv.md R228, 07_attention_and_kv.md R229,
07_attention_and_kv.md R230, 07_attention_and_kv.md R231, 07_attention_and_kv.md R232, 07_attention_and_kv.md R239,
07_attention_and_kv.md R240, 07_attention_and_kv.md R245, 06_memory_tiers.md R207. -/
def Obligations.KeyValueCommandsComplete : Prop :=
  ∀ (s : State) (panel : BitVec 4) (c : Cast) (k : KvDecl),
    let p := panel.toNat
    getCast s p = some c → c.img.pat.kv = some k →
    (∀ (st : BitVec 2) (d : Rec64),
      let s0 := { s with posted := s.posted.erase (p, st.toNat, d) }
      (kvOk s0 p 1 k d = true →
        let lo := if k.window = 0 then 0 else kvFirst d + 1 - min (kvFirst d + 1) k.window
        let first := lo / 128
        let blocks := (kvFirst d + kvCount d - 1) / 128 + 1 - first
        let r := tgetD c.rings (kvRing d) {}
        exec (.walk panel st d) s = .next (modCast p (fun c => { c with
          rings := tset c.rings (kvRing d) { r with todo := r.todo ++
            (.record blocks first (kvFirst d) (kvSlot d) :: (List.range blocks).map fun i =>
              .block (first + i) (kvFirst d) (kvSlot d) (kvLayer d) (kvGroup d) (first + i == first)) } })
          (bump (.blocksSkipped p) first (bump (.walks p) 1 s0)))) ∧
      (kvOk s0 p 2 k d = true →
        exec (.append panel st d) s = .next (modCast p (fun c => { c with appends := c.appends ++ [(st.toNat, d)] }) s0))) ∧
    (∀ (ring : BitVec 4) (r : RingDecl) (e : WalkEnt) (rest : List WalkEnt) (ps : List (Nat × Nat)) (s1 : State),
      let w := tgetD c.rings r.ring {}
      let slot := w.put % r.slots
      let done (t : State) : State := sendSignals (r.fulls.map (physSem c))
        (modCast p (fun c => { c with rings := tset c.rings r.ring { put := w.put + 1, todo := rest } }) t)
      k.rings.find? (fun r => r.ring == ring.toNat) = some r → w.todo = e :: rest → ringRoom s c r w.put = true →
      areasAccess p (ringReads r) (ringWrites k r slot) s = .go ps s1 →
      (∀ blocks first n sl, e = .record blocks first n sl →
        exec (.walkEntryPut panel ring) s = .next (runReleases p (done (areaWrite c r.area (r.off + slot * ringSlotBytes k)
          (beatBytes (recOf 2048 [(0, 4, blocks), (4, 4, first), (8, 4, n), (0xC, 2, sl)])) s1)))) ∧
      (∀ (b n sl l g : Nat) (first : Bool), e = .block b n sl l g first →
        let root := rootAddr c sl
        let pages := (blockPages k b n).map fun j => pageEntry s1 k root l g j
        walkLive s1 p c sl = true →
        (∀ pg ∈ pages, pageInT3 s1 c pg = false ∧ pageOk s1 c k pg = true) →
        exec (.walkEntryPut panel ring) s = .next (runReleases p (done (bump (.blocksDelivered p) 1
          (putTiles p (stackOf (areaAddrD c r.area r.off)) c k r slot ((k.tensorBase.toNat + l * k.groups + g) % 2 ^ 32)
            (blockTiles s1 c k pages b n) (readBlock p c k root l g b n first pages s1))))))) ∧
    (∀ (sc : Scatter) (x : Slot) (s1 : State), c.scatters = [sc] → getSlot s sc.slot = some x → x.rebuild = false →
      sc.next + 1 = x.length + sc.rows → sc.next < x.committed → sc.taken = true → pagesReady p sc k s = .ready s1 →
      exec (.pageTakeResume panel) s = .next (scatterEnd p { sc with next := sc.next + 1, waited := false, taken := false }
        (modCast p (fun c => { c with scatters := [] }) (scatterPos p sc k x.length sc.next s1))))

/-- Accepted route commands dispatch, announce, arrive and return, and a complete home step writes its returns.
Rules: 08_experts.md R247, 08_experts.md R248, 08_experts.md R250, 08_experts.md R251, 08_experts.md R252,
08_experts.md R254, 08_experts.md R255, 08_experts.md R256, 08_experts.md R257, 08_experts.md R258, 08_experts.md
R259. -/
def Obligations.ExpertCommandsComplete : Prop :=
  ∀ (s : State) (panel : BitVec 4) (st : BitVec 2),
    let p := panel.toNat
    (∀ (r : Rec64) (c : Cast) (d : ExpertDecl),
      let taken (kind : Nat) (s : State) : State := remember p kind st.toNat r (unpost p st.toNat r s)
      let l := rcLayer r
      getCast s p = some c → expertLayer c l = some d →
      (routeOk c 1 st.toNat r = true →
        (mayOpen c l (rcStep r) = false → exec (.dispatch panel st r) s = .next (bump (.dispatchWaits p l) 1
          (modCast p (fun x => { x with waitDispatch := x.waitDispatch ++ [(st.toNat, r)] }) (taken 1 s)))) ∧
        (∀ (ps : List (Nat × Nat)) (s1 s2 : State) (c1 : Cast), mayOpen c l (rcStep r) = true →
          (∀ h ∈ d.homes, h.part = c.img.pat.selfPart) →
          areasAccess p (dispatchReads d (rcSource r) (rcTokens r)) [] s = .go ps s1 →
          checkAreas p (dispatchReads d (rcSource r) (rcTokens r)) (taken 1 s1) = (true, s2) →
          getCast (taken 1 s1) p = some c1 → getCast s2 p = some c1 → expertLayer c1 l = some d →
          c1.img.pat.selfPart = c.img.pat.selfPart →
          ∃ t, exec (.dispatch panel st r) s = .next t ∧
            Dispatched p c1 d l (rcSource r) (rcStep r) (rcTokens r) s2 t)) ∧
      (∀ (ps : List (Nat × Nat)) (s1 s2 : State) (c1 : Cast) (nb : Bundle),
        let area := (atStack d.inboxArea st.toNat).getD 0
        let off := inboxOff d (rcSource r) (rcStep r)
        let n := (homedAt d c.img.pat.selfPart st.toNat).length
        let b : Bundle :=
          { layer := l, source := rcSource r, step := rcStep r, stack := st.toNat, part := rcPart r, ret := false
            announced := true, segs := readSlot s2 c d false area off n }
        let s3 := modCast p (fun x => { x with inbox := x.inbox ++ [b] }) s2
        let h := homeStepOf c1 l st.toNat (rcStep r)
        routeOk c 2 st.toNat r = true → areasAccess p (inboxReads d st.toNat (rcSource r) (rcStep r)) [] s = .go ps s1 →
        checkSlot c d false area off n off 0 (taken 2 s1) = (true, s2) →
        getCast s3 p = some c1 → expertLayer c1 l = some d → h.done < d.sources →
        ((nextBundle c1 l st.toNat (rcStep r) h = none ∨
            (homeBusy c1 d l st.toNat (rcStep r) = true ∧ stepEmpty c1 d l st.toNat (rcStep r) = false)) →
          exec (.arrive panel st r) s = .next (putHomeStep p h s3)) ∧
        (let q := takeBundle p l st.toNat (rcStep r) c1 d nb h s3;
          nextBundle c1 l st.toNat (rcStep r) h = some nb → homeBusy c1 d l st.toNat (rcStep r) = false →
          (q.1.done = d.sources ∨ nextBundle c1 l st.toNat (rcStep r) q.1 = none) →
          exec (.arrive panel st r) s = .next (putHomeStep p q.1 q.2))) ∧
      (∀ (ps : List (Nat × Nat)) (s1 s2 : State) (c1 : Cast) (y : SrcStep) (home : Nat),
        let area := lgetD d.retArea (rcSource r) 0
        let off := homeOff d true (rcPart r) home (rcStep r)
        let n := (homedAt d (rcPart r) home).length
        let segs := readSlot s2 c d true area off n
        routeOk c 3 st.toNat r = true → (homeStacks d).filter (fun h => h.1 == rcPart r) = [(rcPart r, home)] →
        areasAccess p (returnReads d (rcPart r) (rcSource r) (rcStep r)) [] s = .go ps s1 →
        checkSlot c d true area off n off 0 (taken 3 s1) = (true, s2) →
        getCast s2 p = some c1 → expertLayer c1 l = some d →
        c1.srcSteps.find? (fun y => y.layer == l && y.source == rcSource r && y.step == rcStep r) = some y →
        (∃ e < d.experts, e ∉ y.experts ++ segs.map (·.expert)) →
        exec (.ret panel st r) s = .next (modCast p (fun x => { x with srcSteps := x.srcSteps.map (fun y =>
          if y.layer == l && y.source == rcSource r && y.step == rcStep r then
            { y with returns := y.returns ++ segs, experts := y.experts ++ segs.map (·.expert) } else y) }) s2))) ∧
    (∀ (layer : BitVec 6) (c : Cast) (d : ExpertDecl), getCast s p = some c → expertLayer c layer.toNat = some d →
      (∀ (w : Nat × Rec64) (ps : List (Nat × Nat)) (s1 s2 : State) (c1 : Cast),
        let reads := dispatchReads d (rcSource w.2) (rcTokens w.2)
        let taken (s : State) : State := modCast p (fun x => { x with waitDispatch := x.waitDispatch.erase w }) s
        c.waitDispatch.find? (fun w => rcLayer w.2 == layer.toNat && mayOpen c (rcLayer w.2) (rcStep w.2)) = some w →
        (∀ h ∈ d.homes, h.part = c.img.pat.selfPart) →
        areasAccess p reads [] s = .go ps s1 → checkAreas p reads (taken s1) = (true, s2) →
        getCast (taken s1) p = some c1 → getCast s2 p = some c1 → expertLayer c1 layer.toNat = some d →
        c1.img.pat.selfPart = c.img.pat.selfPart →
        ∃ t, exec (.dispatchResume panel layer) s = .next t ∧
          Dispatched p c1 d layer.toNat (rcSource w.2) (rcStep w.2) (rcTokens w.2) s2 t) ∧
      (∀ (source : BitVec 6) (step : BitVec 16) (ps : List (Nat × Nat)) (s1 s2 : State) (c1 : Cast) (nb : Bundle),
        let is (b : Bundle) : Bool := !b.announced && !b.ret && b.layer == layer.toNat && b.stack == st.toNat
          && b.source == source.toNat && b.step == step.toNat
        let area := (atStack d.inboxArea st.toNat).getD 0
        let off := inboxOff d source.toNat step.toNat
        let n := (homedAt d c.img.pat.selfPart st.toNat).length
        let g := readSlot s2 c d false area off n
        let s3 := modCast p (fun x => { x with
          inbox := x.inbox.map fun b => if is b then { b with announced := true, segs := g } else b }) s2
        let h := homeStepOf c1 layer.toNat st.toNat step.toNat
        c.inbox.any is = true → areasAccess p (inboxReads d st.toNat source.toNat step.toNat) [] s = .go ps s1 →
        checkSlot c d false area off n off 0 s1 = (true, s2) →
        getCast s3 p = some c1 → expertLayer c1 layer.toNat = some d → h.done < d.sources →
        ((nextBundle c1 layer.toNat st.toNat step.toNat h = none ∨
            (homeBusy c1 d layer.toNat st.toNat step.toNat = true ∧ stepEmpty c1 d layer.toNat st.toNat step.toNat = false)) →
          exec (.bundleAnnounce panel st layer source step) s = .next (putHomeStep p h s3)) ∧
        (let q := takeBundle p layer.toNat st.toNat step.toNat c1 d nb h s3;
          nextBundle c1 layer.toNat st.toNat step.toNat h = some nb →
          homeBusy c1 d layer.toNat st.toNat step.toNat = false →
          (q.1.done = d.sources ∨ nextBundle c1 layer.toNat st.toNat step.toNat q.1 = none) →
          exec (.bundleAnnounce panel st layer source step) s = .next (putHomeStep p q.1 q.2))) ∧
      (∀ (h : HomeStep) (ps : List (Nat × Nat)) (s1 s2 : State),
        let mine (b : Bundle) : Bool := !b.ret && b.layer == layer.toNat && b.stack == st.toNat && b.step == h.step
        let me := c.img.pat.selfPart
        let s3 := modCast p (fun x => { x with
          homeSteps := x.homeSteps.filter fun y => !(y.layer == layer.toNat && y.stack == st.toNat && y.step == h.step)
          inbox := x.inbox.filter fun b => !mine b }) s2
        c.homeSteps.find? (fun h => h.layer == layer.toNat && h.stack == st.toNat && homeReady s c d h) = some h →
        areasAccess p (resultReads d me h) [] s = .go ps s1 → checkAreas p (resultReads d me h) s1 = (true, s2) →
        let t := (c.inbox.filter mine).foldl (fun t b =>
          let segs := b.segs.map (returnSeg s2 c d me st.toNat h b)
          if lgetD d.sourcePart b.source 0 = me then
            let a := lgetD d.retArea b.source 0
            let off := homeOff d true me st.toNat h.step
            takeReturnSlot p layer.toNat b.source h.step c d (me, st.toNat)
              (writeSlot p st.toNat c d true a off layer.toNat b.source h.step segs t)
          else writeSlot p st.toNat c d true ((atStack d.backArea st.toNat).getD 0)
            ((2 * b.source + h.step % 2) * bundleSlot d true) layer.toNat b.source h.step segs t) s3
        exec (.expertReturnWrite panel st layer) s = .next (homeGoAll p layer.toNat st.toNat (
          if (c.inbox.filter mine).any (fun b => lgetD d.sourcePart b.source 0 != me) then
            sendSignals (((atStack d.homeExchange st.toNat).getD []).map (physSem c)) t else t))))

/-- NOP, IDENTIFY, COUNTERS and ATTEST end DONE with their report in the host buffer and its length as result.
Rules: 11_host_interface.md R338, 11_host_interface.md R339, 11_host_interface.md R343, 11_host_interface.md R344,
11_host_interface.md R346, 11_host_interface.md R347, 14_ply_pair.md R429, 14_ply_pair.md R430,
16_startup_and_security.md R477, 16_startup_and_security.md R478, 11_host_interface.md R348. -/
def Obligations.AdminReportsComplete : Prop :=
  ∀ (d : Rec64) (s : State),
    let out (op : Nat) (buf len : Nat) (l : List Byte) (t : State) : State :=
      if len < l.length then ended op d 0x20 l.length s t else ended op d 0 l.length s (hostWrite buf l t)
    (Taken 0 d s → exec (.nop 0 d) s = .next (ended 0 d 0 0 s (running 0 d s))) ∧
    (Taken 0x80 d s → exec (.identify d) s = .next (out 0x80 (fld d 0x10 8) (fld d 0x18 4)
      (match fld d 8 1 with
        | 0 => modulePage (running 0x80 d s)
        | 1 => (List.range 16).flatMap (panelEntry (running 0x80 d s))
        | _ => catalogueTable (running 0x80 d s)) (running 0x80 d s))) ∧
    (Taken 0x90 d s →
      let r := countersData (fld d 8 1) (fld d 0xA 2) (running 0x90 d s)
      let h := sealRec (recOf 512 [(0, 1, 1), (1, 1, fld d 8 1), (2, 2, fld d 0xA 2), (4, 4, r.1), (8, 8, s.now.toNat)])
      exec (.counters d) s = .next (out 0x90 (fld d 0x10 8) (fld d 0x18 4) (recBytes h ++ r.2.1) r.2.2)) ∧
    (Taken 0x8E d s → hostBad s (fld d 0x10 8) 64 = false →
      let b := attestBody (rd s (hostBase + fld d 0x10 8) 64) (running 0x8E d s)
      exec (.attest d) s = .next (out 0x8E (fld d 0x18 8) (fld d 0x20 4)
        (b ++ ecSign Config.identityKey (sha512 b) ++ chain) (running 0x8E d s)))

/-- PANEL_CREATE, PANEL_DESTROY, MOVE, PIN, UNPIN, SCHED_LOAD and SET_FALLBACK have their effect and end. Rules:
06_memory_tiers.md R188, 06_memory_tiers.md R191, 06_memory_tiers.md R192, 06_memory_tiers.md R203, 10_serving.md
R295, 10_serving.md R299, 10_serving.md R302, 11_host_interface.md R343, 11_host_interface.md R344,
11_host_interface.md R345, 11_host_interface.md R348. -/
def Obligations.PanelAndPoolCommandsComplete : Prop :=
  ∀ (d : Rec64) (s : State),
    let p := fld d 8 1
    (Taken 0x81 d s → (getPanel s p).isNone = true → fld d 0x10 8 ≠ 0 →
      (∀ q ∈ s.panels, q.2.clusters.toNat &&& fld d 0x10 8 = 0 ∧ q.2.groups.toNat &&& fld d 0x18 3 = 0 ∧
        q.2.ways.toNat &&& fld d 0x1C 8 = 0) →
      s.boot.groupsOut.toNat &&& fld d 0x18 3 = 0 → (s.ply.st = .unbound ∨ fld d 0x18 3 = 0) →
      exec (.panelCreate d) s = .next (ended 0x81 d 0 p s (setPanel p
        { gen := (fld d 2 2).testBit 0, clusters := BitVec.ofNat 64 (fld d 0x10 8), groups := BitVec.ofNat 24 (fld d 0x18 3)
          ways := BitVec.ofNat 64 (fld d 0x1C 8) } (running 0x81 d s)))) ∧
    (∀ x : Panel, Taken 0x82 d s → getPanel s p = some x → x.st = .empty → (s.ply.st = .unbound ∨ s.ply.owner ≠ some p) →
      let t := cacheDrop (fun st c => x.ways.toNat.testBit (16 * st + c.way)) { running 0x82 d s with panels := tdel s.panels p }
      exec (.panelDestroy d) s = .next (ended 0x82 d 0 0 s { t with
        panels := tmap t.panels fun _ y => if y.fallback = p then { y with fallback := 0xFF } else y })) ∧
    (let m : Rec64 := BitVec.ofNat 512 (natOf (rd s (hostBase + fld d 0x10 8) 64));
      Taken 0x88 d s → hostBad s (fld d 0x10 8) 64 = false → moveOk s m = true →
      exec (.move d) s = .next { running 0x88 d s with
        nextId := s.nextId + 2
        moves := s.moves ++ [{ id := s.nextId + 1, stack := moveEngine m, kind := mvKind m, alloc := mvAlloc m,
                               pin := mvPin m, tag := BitVec.ofNat 16 (mvTag m), panel := mvPanel m, dtier := mvDtier m,
                               src := mvSrc m, dst := mvDst m, len := mvLen m, peer := mvPeer m,
                               by_ := .admin s.nextId, pool := false, placed := !mvAlloc m }] }) ∧
    (∀ ks : List Nat, pinRange d = some ks →
      (Taken 0x89 d s → homeAll s (fld d 0x10 8) (fld d 0x18 8) = true →
        (∀ k ∈ ks, (tget s.hanks k).isSome = true ∧ hostPins s k < 254) →
        exec (.pin d) s = .next (ended 0x89 d 0 0 s
          (ks.foldl (fun s k => setHostPins k (hostPins s k + 1) s) (running 0x89 d s)))) ∧
      (Taken 0x8A d s → (∀ k ∈ ks, 0 < hostPins s k) →
        exec (.unpin d) s = .next (ended 0x8A d 0 0 s
          (ks.foldl (fun s k => setHostPins k (hostPins s k - 1) s) (running 0x8A d s))))) ∧
    (Taken 0x92 d s → (getPanel s p).isSome = true → fld d 9 1 ≠ p → (fld d 9 1 = 0xFF ∨ fallbackOk s (fld d 9 1) = true) →
      exec (.setFallback d) s = .next (ended 0x92 d 0 0 s (modPanel p (fun x =>
        { x with fallback := fld d 9 1, margin := BitVec.ofNat 32 (fld d 0xC 4) }) (running 0x92 d s)))) ∧
    (∀ (x : Option Schedule) (b : List Byte), Taken 0x8B d s →
      schedNamed s.nextId (setFld d 0 1 0x8B) (running 0x8B d s) = (some x, running 0x8B d s) →
      stopsNamed s.nextId (setFld d 0 1 0x8B) (running 0x8B d s) = (some b, running 0x8B d s) →
      let t := if (fld d 2 2).testBit 1 then wr (s.boot.stopBase + 1024 * fld d 8 2) b (running 0x8B d s)
        else running 0x8B d s
      exec (.schedLoad d) s = .next (ended 0x8B d 0 0 s (match x with
        | none => t
        | some y =>
          let new := if y.entries = [] then none else some y
          if s.sched.isSome then { t with schedNext := some new }
          else if y.entries = [] then t else { t with sched := some y, schedStart := s.now, schedNext := none }))) ∧
    (∀ x : Schedule, s.sched = some x → s.schedStart.toNat + x.period ≤ s.now.toNat →
      let t := { s with schedStart := BitVec.ofNat 64 (s.schedStart.toNat + x.period) }
      exec .schedulePeriodBoundary s = .next (match s.schedNext with
        | some y => { t with sched := y, schedNext := none }
        | none => t))

/-- DEPLOY, UNDEPLOY and CAST_ON, the ends of their copies, and a cast-on woken by a freed hank. Rules:
06_memory_tiers.md R200, 09_model_lifecycle.md R269, 09_model_lifecycle.md R270, 09_model_lifecycle.md R271,
09_model_lifecycle.md R272, 09_model_lifecycle.md R273, 09_model_lifecycle.md R274, 09_model_lifecycle.md R275,
09_model_lifecycle.md R281, 13_links_and_rack.md R394, 13_links_and_rack.md R396, 14_ply_pair.md R411. -/
def Obligations.CatalogueAndCastOnComplete : Prop :=
  ∀ s : State,
    (∀ (d : Rec64) (ps : List Nat) (t : State),
      let m := BitVec.ofNat 32 (fld d 0xC 4)
      let w := BitVec.ofNat 32 (fld d 0x10 4)
      let len := fld d 0x18 8
      let key := fld d 0xC 4 + fld d 0x10 4 * 2 ^ 32
      let u := { t with catalogue := t.catalogue ++
        [{ model := m, wversion := w, length := len, valid := false, img := default, pieces := ps, staged := [] }] }
      let up := (peerPorts u (fld d 8 1)).filter fun p => (getPort u p).st == .up
      Taken 0x85 d s → (∀ e ∈ s.catalogue, e.model ≠ m ∨ e.wversion ≠ w) → s.catalogue.length < 1024 → len ≠ 0 →
      len % 4096 = 0 → len ≤ 2 ^ 36 → reservePieces s.nextId (cdiv len 0x200000) 0 [] (running 0x85 d s) = (some ps, t) →
      ((fld d 2 2).testBit 1 = true → up ≠ [] →
        exec (.deploy d) s =
          .next (sendFetches (fetchPieces key 0 len up none (some s.nextId) false 0x4000000 (cdiv len 0x4000000) 0) u)) ∧
      ((fld d 2 2).testBit 1 = false → (fld d 2 2).testBit 2 = true → targetPorts u (fld d 0x20 8) ≠ [] →
        exec (.deploy d) s =
          .next (sendFetches (fetchPieces (fld d 0x20 8 % 2 ^ 48) 0 len (targetPorts u (fld d 0x20 8)) none (some s.nextId)
            true 0x400000 (cdiv len 0x400000) 0) u))) ∧
    (∀ (m w : BitVec 32) (img : Option Image) (c : AdminCmd) (e : CatEntry),
      let mine (x : CatEntry) : Bool := x.model == m && x.wversion == w
      let closed (s : State) : State := { s with
        links := { s.links with fetches := s.links.fetches.filter fun f => f.cmd != some c.id }
        moves := s.moves.filter (·.by_ != .deploy c.id) }
      adminOf s 0x85 (fun d => dModel d == m && dWver d == w) = some c → adminCmd s c.id = some c →
      (img = none →
        exec (.deployCopyDone m w img) s = .next (adminDone c.id 0x31 0 (bump (.deploys 0x31) 1
          ((s.catalogue.filter fun x => mine x && !x.valid).foldl (fun s x => freePieces x s)
            { closed s with catalogue := s.catalogue.filter fun x => !(mine x && !x.valid) })))) ∧
      (∀ i : Image, img = some i → s.catalogue.find? (fun x => mine x && !x.valid) = some e →
        (s.links.fetches.any fun f => f.cmd == some c.id) = false → imageAgrees i (fun o n => pieceRead s e.pieces o n) = true →
        imageOk i = true → ihModel i = m.toNat → ihWversion i = w.toNat → ihLength i = e.length →
        (ihWeightsOnly i = true → ∃ x ∈ s.catalogue, x.valid = true ∧ x.model = m ∧ ihPhash x.img = ihPhash i) →
        ((fld c.d 2 2).testBit 0 = false ∨ moduleGroups s = []) → (fillEntry e s).1 = e.length / 4096 →
        let e' := { e with valid := true, img := i, staged := [], filled := e.length / 4096 }
        let v := catalogueNote e' false
          { (fillEntry e s).2 with catalogue := s.catalogue.map fun x => if mine x then e' else x }
        exec (.deployCopyDone m w img) s = .next (adminDone c.id 0 0 (bump (.deploys 0) 1 (closed v))))) ∧
    (∀ (d : Rec64) (e : CatEntry),
      let m := BitVec.ofNat 32 (fld d 0xC 4)
      let w := BitVec.ofNat 32 (fld d 0x10 4)
      Taken 0x86 d s → catFind s m w = some e → keyInUse s m w = false →
      let t := freePieces e { running 0x86 d s with
        catalogue := s.catalogue.filter fun x => !(x.model == m && x.wversion == w) }
      exec (.undeploy d) s = .next (ended 0x86 d 0 0 s (catalogueNote e true (e.staged.foldl (fun s a => freeAt a s) t)))) ∧
    (∀ (d : Rec64) (x : Panel) (e : CatEntry) (t : State),
      let p := fld d 8 1
      Taken 0x83 d s → getPanel s p = some x → x.st = .empty →
      catFind s (BitVec.ofNat 32 (fld d 0xC 4)) (BitVec.ofNat 32 (fld d 0x10 4)) = some e →
      let q := modPanel p (fun x => { x with
        st := .casting, castCmd := some s.nextId, swatching := false, drained := false, fault := none, mapFault := false })
        (running 0x83 d s)
      let b := catCount p e 0 4096 q
      returnStaged e 0 4096 q = none → castPanelOk b x e.img = true → CastLoads p x e b t → exec (.castOn d) s = .next t) ∧
    (∀ tier2 : Bool,
      let can (m : MoveRec) : Bool := moveReady s m && !m.placed && m.dtier == (if tier2 then 2 else 1) &&
        (lowestFree s (if tier2 then 2 else 1) (domainOwner m.panel)).isSome
      (∀ m, (moveOrder s).find? can = some m → exec (.allocWake tier2) s = .next (startMove m [] s)) ∧
      (∀ (p : Nat) (x : Panel) (c : AdminCmd) (e : CatEntry) (t : State), (moveOrder s).find? can = none →
        s.panels = [(p, x)] → x.st = .casting → x.swatching = false → x.cast = none → x.castCmd = some c.id →
        adminCmd s c.id = some c → fld c.d 0 1 = 0x83 →
        catFind s (BitVec.ofNat 32 (fld c.d 0xC 4)) (BitVec.ofNat 32 (fld c.d 0x10 4)) = some e →
        s.allocs.any (·.who == .cast p) = true → CastLoads p x e s t →
        exec (.allocWake tier2) s = .next t)) ∧
    (∀ (panel : BitVec 4) (x : Panel) (c : Cast) (cmd : AdminCmd) (e : CatEntry),
      let p := panel.toNat
      getPanel s p = some x → x.cast = some c → x.castCmd = some cmd.id → adminCmd s cmd.id = some cmd →
      fld cmd.d 0 1 = 0x83 → x.st = .casting → catFind s c.model c.wversion = some e →
      (∀ q ∈ extents c.img, q.place < 4 → copyWaits p c e q s = none ∧ extentGone s c q.id = false) →
      let filled := (extents c.img).foldl (fun s q =>
        if q.place < 4 then catCount p e q.off q.len (areaWrite c q.id 0 (catRead s e q.off q.len) s) else s) s
      let ready := linkPrologue p (startUnits p (modPanel p (fun x => { x with st := .ready, castCmd := none }) (openChannels p filled)))
      exec (.castOnCopyDone panel true) s = .next (adminDone cmd.id 0 0 (bump (.castOns p 0) 1
        (modPanel p (fun x => { x with castCmd := none }) ready))))

/-- BIND_OFF closes a panel, its drain limit ends what is in flight, and the teardown unloads the pattern. Rules:
09_model_lifecycle.md R274, 09_model_lifecycle.md R277, 09_model_lifecycle.md R280, 10_serving.md R292,
06_memory_tiers.md R200, 07_attention_and_kv.md R242, 04_unit_programs_and_strands.md R136, 13_links_and_rack.md
R387, 14_ply_pair.md R421. -/
def Obligations.BindOffComplete : Prop :=
  ∀ s : State,
    (∀ (d : Rec64) (x : Panel),
      let p := fld d 8 1
      Taken 0x84 d s → getPanel s p = some x →
      (x.st = .ready → exec (.bindOff d) s = .next (placeStop p (setPanel p { x with
        castCmd := some s.nextId, drained := false, st := .binding, closedAt := s.now.toNat
        cast := x.cast.map fun c => { c with stopDue := true } }
        (running 0x84 d s)))) ∧
      (x.st = .faulted → exec (.bindOff d) s = .next (setPanel p { x with castCmd := some s.nextId, drained := false }
        (running 0x84 d s))) ∧
      (x.st = .swapping → exec (.bindOff d) s = .next (modPanel p (fun x =>
        { x with castCmd := some s.nextId, drained := false }) (faultPanel p 0x40 (running 0x84 d s))))) ∧
    (∀ (panel : BitVec 4) (x : Panel) (cmd : AdminCmd),
      let p := panel.toNat
      let t := placeStop p (setPanel p { x with drained := true } s)
      let late := x.closedAt + fld cmd.d 0xC 4 ≤ s.now.toNat
      getPanel s p = some x → x.st = .binding → x.drained = false → x.castCmd = some cmd.id → adminCmd s cmd.id = some cmd →
      fld cmd.d 0 1 = 0x84 →
      (late → exec (.bindOffDrainLimit panel) s = .next ((slotsOf t p [.prefill, .decode]).foldl (fun s i =>
        if inStep s p i then s else endSlot i 0x11 s) t)) ∧
      (¬ late → exec (.bindOffDrainLimit panel) s = .next s)) ∧
    (∀ (panel : BitVec 4) (x : Panel) (cmd : AdminCmd),
      let p := panel.toNat
      getPanel s p = some x → x.castCmd = some cmd.id → adminCmd s cmd.id = some cmd → fld cmd.d 0 1 = 0x84 →
      (x.st = .faulted ∨ (x.st = .binding ∧ slotsOf s p [.prefill, .decode, .summarising] = [])) →
      let ended_ := endPanel p inFlightSts 0x40 (closeChannels p (stopPanelUnits p s))
      let released := (ended_.slots.filter fun x => x.2.panel == p && x.2.pageList != 0).foldl (fun s x => releasePages x.1 s)
        ended_
      let gone := (((getCast released p).map (·.releases)).getD []).foldl (fun s r => releaseNow p r s) released
      let freed := match getCast gone p with
        | some c => freeCast c gone
        | none => gone
      let quiet := dropAllocs p (dropGoneMoves p (panelUnits s p) (dropPanelWork p freed))
      let blank := (panelUnits s p).foldl (fun s u => if (tget s.units u).isSome then modUnit u blankUnit s else s) quiet
      exec (.bindOffTeardown panel) s = .next (adminDone cmd.id 0 0 (clearFallbacks p (modPanel p (fun x =>
        { x with st := .empty, cast := none, castCmd := none, mapFault := false, drained := false }) blank))))

/-- SWAP_WEIGHTS admits the new version, each layer is copied at its barrier, and the swap ends or fails. Rules:
09_model_lifecycle.md R264, 09_model_lifecycle.md R278, 09_model_lifecycle.md R279, 09_model_lifecycle.md R280,
09_model_lifecycle.md R281. -/
def Obligations.WeightSwapCompletes : Prop :=
  ∀ s : State,
    (∀ (d : Rec64) (x : Panel) (c : Cast) (e : CatEntry),
      let p := fld d 8 1
      Taken 0x87 d s → getPanel s p = some x → x.st = .ready → x.cast = some c →
      catFind s (BitVec.ofNat 32 (fld d 0xC 4)) (BitVec.ofNat 32 (fld d 0x10 4)) = some e → c.model = e.model →
      ihPhash c.img = ihPhash e.img → c.wversion ≠ e.wversion → swapExtentsOk c.img e.img = true →
      exec (.swapWeights d) s = .next (setPanel p { x with
        st := .swapping, castCmd := some s.nextId
        cast := some { c with
          admission := e.wversion, swapTo := some e.img, swapCmd := s.nextId, swapAt := s.now.toNat, swapped := []
          markerDue := true } }
        (running 0x87 d s))) ∧
    (∀ (panel : BitVec 4) (x : Panel) (c : Cast), getPanel s panel.toNat = some x → x.st = .swapping → x.cast = some c →
      let p := panel.toNat
      let u := c.ventry.1
      let i := c.ventry.2
      (c.markerDue = true → (∀ j ∈ slotsOf s p [.queued], ∀ q, getSlot s j = some q → q.served = c.admission) →
        ((getIn (getUnit s u) i).laneRoom false = true ∨ (getIn (getUnit s u) i).spillEn = true) →
        exec (.versionMarkerPlace panel) s = .next (swapFinish p (modCast p (fun c => { c with markerDue := false })
          (deviceMarker u i (BitVec.ofNat 16 (0x8000 + c.admission.toNat % 4096)) s)))) ∧
      (∀ (layer : BitVec 10) (i : Image) (w : SwapDecl) (e : CatEntry),
        let n := layer.toNat
        let mine := layerExtents i n w
        c.markerDue = false → c.swapTo = some i → c.img.pat.swaps[n]? = some w → catFind s c.model c.admission = some e →
        n ∉ c.swapped → allArrived s p w.barrier = true → (∀ q ∈ mine, copyWaits p c e q s = none) →
        exec (.swapLayerCopyDone panel layer) s = .next (swapFinish p (modCast p (fun c => { c with
          swapped := c.swapped ++ [n] }) (copyLayer p c e mine s)))) ∧
      (∀ i : Image, c.markerDue = false → c.swapTo = some i → c.img.pat.swaps.length ≤ c.swapped.length →
        swapFinish p s = adminDone c.swapCmd 0 0 (bump (.swapsDone p) 1 (setPanel p { x with
          st := .ready, castCmd := none
          cast := some { c with
            wversion := c.admission, img := { i with pat := c.img.pat }, swapTo := none } } s))) ∧
      ((c.markerDue = true ∨ c.swapTo = none ∨ c.swapped.length < c.img.pat.swaps.length) → swapFinish p s = s) ∧
      (∀ a : AdminCmd, adminCmd s c.swapCmd = some a → exec (.swapTimeout panel) s = .next (
        if c.swapAt + 1000 * fld a.d 0xA 2 ≤ s.now.toNat then
          modPanel p (fun x => { x with castCmd := none }) (faultPanel p 0x40 s) else s)))

/-- SWATCH holds a READY panel, and its tests mark failing units, substitute spares and restart the panel. Rules:
03_knit_unit_datapath.md R90, 09_model_lifecycle.md R272, 16_startup_and_security.md R475,
16_startup_and_security.md R476, 11_host_interface.md R346. -/
def Obligations.SwatchCompletes : Prop :=
  ∀ s : State,
    (∀ (d : Rec64) (x : Panel),
      let p := fld d 8 1
      Taken 0x8F d s → getPanel s p = some x → x.st = .ready → 64 + 16 * (panelUnits s p).length ≤ fld d 0x18 4 →
      exec (.swatch d) s = .next (setPanel p { x with st := .casting, castCmd := some s.nextId, swatching := true }
        (running 0x8F d s))) ∧
    (∀ (panel : BitVec 4) (fails : List SwatchResult) (x : Panel) (c : Cast) (cmd : AdminCmd),
      let p := panel.toNat
      let us := (panelUnits s p).map fun u =>
        (u, (getUnit s u).marked, fails.find? fun f => f.unit.toNat == u && 1 ≤ f.test && f.test ≤ 11)
      let bad := us.filter (·.2.2.isSome)
      let t := clearSites p (bump (.fieldSwatchFail p) bad.length
        (bad.foldl (fun s q => modUnit q.1 (fun x => { x with marked := true }) s) s))
      getPanel s p = some x → x.st = .casting → x.swatching = true → x.cast = some c → x.castCmd = some cmd.id →
      adminCmd s cmd.id = some cmd → fld cmd.d 0 1 = 0x8F → slotsOf s p [.prefill, .decode, .summarising] = [] →
      (∀ pl, placeAll t c.img 0 (castMap x) = some pl →
        let c' := withEntry { c with
          place := pl, spillUsed := 0, runEmpty := 0, stepEmpty := 0, runFull := 0, stepFull := 0, runBuf := 0, runOut := 0
          stepBuf := 0, stepOut := 0, runs := [], step := none, rings := (tmap c.rings fun _ _ => {}), inbox := []
          srcSteps := [], homeSteps := [], seen := [], waitDispatch := [], flush := false, dieSeq := [] }
        let loaded := feedChannels c' (castWrite p c' (modPanel p (fun x => { x with cast := some c', swatching := false }) t))
        let clear := (panelUnits loaded p).foldl (fun s u => modUnit u (fun x => { x with store := [], hdrFile := [] }) s) loaded
        exec (.swatchTestsDone panel fails) s = .next (adminOut cmd.id (fld cmd.d 0x10 8) (fld cmd.d 0x18 4)
          (swatchReport p s.now.toNat us) (linkPrologue p (startUnits p (modPanel p (fun x => { x with st := .ready, castCmd := none })
            (bump (.spareSubst p) pl.length clear)))))) ∧
      (placeAll t c.img 0 (castMap x) = none →
        exec (.swatchTestsDone panel fails) s = .next (adminDone cmd.id 0x40 0
          (modPanel p (fun x => { x with castCmd := none, swatching := false }) (bindTeardown p t)))))

/-- NOP, RUN, GEN, PAUSE, RESUME and ABORT from a SUBMIT ring, and the reading of a prompt. Rules: 10_serving.md
R283, 10_serving.md R284, 10_serving.md R286, 10_serving.md R309, 10_serving.md R310, 10_serving.md R311,
10_serving.md R313, 10_serving.md R314, 11_host_interface.md R338, 11_host_interface.md R339, 11_host_interface.md
R340, 11_host_interface.md R341. -/
def Obligations.RequestsComplete : Prop :=
  ∀ s : State,
    (∀ (ring : BitVec 12) (d : Rec64),
      let r := ring.toNat
      let t := bump (.accepted r) 1 s
      let waits (op : Nat) : Waiter :=
        { ring := r, cq := (getRing s r).cq, reqId := BitVec.ofNat 32 (fld d 4 4), opcode := op, status := 0 }
      let done (op : Nat) : State := pushPlain (getRing s r).cq r (fld d 4 4) op 0 0 t
      (ring ≠ 0 → Accepted 0 r d s → exec (.nop ring d) s = .next (done 0)) ∧
      (∀ (i : Nat) (img : Image) (adm model : BitVec 32), firstGap s.slots 0 16384 = some i →
        panelImg s (fld d 8 1) = some (img, adm, model) →
        let c := tgetD s.clients (fld d 0xA 2) {}
        let x : Slot := timed (fld d 0xC 4) s {
          prio := BitVec.ofNat 4 (fld d 9 1), effective := BitVec.ofNat 4 (fld d 9 1), panel := fld d 8 1, homePanel := fld d 8 1
          client := fld d 0xA 2, ring := (getRing s r).cq, reqId := BitVec.ofNat 32 (fld d 4 4)
          model := BitVec.ofNat 32 (fld d 0x10 4)
          wversion := (if fld d 0x14 4 = 0 then adm else BitVec.ofNat 32 (fld d 0x14 4)), shadow := d, submitRing := r
          group := (getRing s r).group, served := adm }
        let run := { x with opcode := 1, cls := fld d 2 2 }
        let gen := { x with
          opcode := 2, cls := 1, committed := fld d 0x28 4, prompt := fld d 0x28 4, maxNew := fld d 0x2C 4
          stopSet := fld d 0x30 2, streamRing := fld d 0x32 2, seed := BitVec.ofNat 64 (fld d 0x18 8) }
        let u := { t with clients := tset s.clients (fld d 0xA 2) { accepted := c.accepted + 1, inFlight := c.inFlight + 1 } }
        (Accepted 1 r d s → exec (.run ring d) s = .next (setSlot i run u)) ∧
        (Accepted 2 r d s → exec (.gen ring d) s = .next (openSlot i (allocTokenList i (setSlot i gen u))))) ∧
      (∀ x : Slot, let i := fld d 8 2
        getSlot s i = some x →
        (Accepted 3 r d s → exec (.pause ring d) s = .next (slotChanged i (setSlot i { x with
          pausePending := true, pausers := x.pausers ++ [waits 3] } t))) ∧
        (∀ (img : Image) (adm model : BitVec 32), Accepted 4 r d s → panelImg s (fld d 0xA 1) = some (img, adm, model) →
          let n := fld d 0x28 4 + x.positions
          let pr : BitVec 4 := BitVec.ofNat 4 (fld d 0xB 1)
          exec (.resume ring d) s = .next (openSlot i (allocTokenList i (setSlot i (timed (fld d 0xC 4) s { x with
            st := .queued, opcode := 4, cls := 1, prio := pr, effective := pr, panel := fld d 0xA 1, homePanel := fld d 0xA 1
            served := adm, fallback := false, pausePending := false, urgent := false, takeover := false
            retryPending := false, resumed := true, length := 0, fed := false, committed := n, prompt := n
            maxNew := fld d 0x2C 4, stopSet := fld d 0x14 2, ring := (getRing s r).cq, streamRing := fld d 0x16 2
            seed := BitVec.ofNat 64 (fld d 0x18 8), shadow := d, submitRing := r, group := (getRing s r).group, status := 0
            reason := 0, promptReady := false, sampled := [], stopAt := none, streamed := 0, fallbackDue := false
            rebuild := false, kvSkip := false, cut := false }) t)))) ∧
        (Accepted 5 r d s →
          let y := { x with aborters := x.aborters ++ [{ waits 5 with retry := (fld d 2 2).testBit 0 }] }
          ((x.st = .done ∨ x.st = .aborted) → exec (.abort ring d) s = .next (done 5)) ∧
          (x.st ≠ .done → x.st ≠ .aborted →
            ((fld d 2 2).testBit 0 = false →
              exec (.abort ring d) s = .next (slotChanged i (setSlot i { y with abortPending := true } t))) ∧
            ((fld d 2 2).testBit 0 = true →
              let y := { y with retryTo := fld d 0xA 1 }
              (x.st = .queued → exec (.abort ring d) s = .next (retarget false i (setSlot i y t))) ∧
              (x.st ≠ .queued →
                exec (.abort ring d) s = .next (slotChanged i (setSlot i { y with retryPending := true } t)))))))) ∧
    (∀ (slot : BitVec 14) (x : Slot) (img : Image) (adm model : BitVec 32),
      let i := slot.toNat
      let n := fld x.shadow 0x28 4
      let b := rd s (hostBase + fld x.shadow 0x20 8) (4 * n)
      getSlot s i = some x → (x.opcode = 2 ∨ x.opcode = 4) → x.st = .queued → x.promptReady = false → x.tokenList ≠ 0 →
      x.cut = false → hostBad s (fld x.shadow 0x20 8) (4 * n) = false → panelImg s x.panel = some (img, adm, model) →
      (∀ k < n, natOf ((b.drop (4 * k)).take 4) < img.pat.vocab) →
      exec (.promptReadDone { slot := slot }) s = .next (openTokens i (setSlot i { x with promptReady := true }
        (touch x.tokenList hankBytes (wr (x.tokenList + 4 * (x.prompt - n)) b (wr x.tokenList (List.replicate (4 * (x.prompt - n)) 0xFF) s))))))

/-- A step buffer is written, and a token boundary takes the results, settles the requests and writes the next.
Rules: 10_serving.md R289, 10_serving.md R290, 10_serving.md R291, 10_serving.md R292, 10_serving.md R297,
10_serving.md R303, 10_serving.md R305, 10_serving.md R517, 10_serving.md R518, 05_laying_out_models.md R148,
07_attention_and_kv.md R239, 07_attention_and_kv.md R240. -/
def Obligations.StepsComplete : Prop :=
  ∀ (s : State) (panel : BitVec 4) (y : Panel) (c : Cast) (lk : LinkDecl),
    let p := panel.toNat
    getPanel s p = some y → y.cast = some c → c.img.pat.stepLink = some lk →
    (c.step = none → stepWaits s p y c = true → exec (.stepBufferWrite panel) s = .next (writeStep p (step5 p s))) ∧
    ((c.step.isSome = true ∨ stepWaits s p y c = false) → exec (.stepBufferWrite panel) s = .next s) ∧
    (let cands := (candidates s p y c).1
      let take := cands.take c.img.pat.batch
      let gen := take.map fun e => (e.1, e.2, recordOf c.img.pat.chunk e.2)
      let all := gen ++ ((summaryCands s p c).take (c.img.pat.batch - take.length)).map fun e => (e.1, e.2, (4, 0, 0))
      let paused := (cands.drop c.img.pat.batch).filter fun e => e.2.st == .prefill || e.2.st == .decode
      ∀ (ps : List (Nat × Nat)) (s1 : State),
      c.step = none → lk.fulls.length ≤ c.stepEmpty → y.serves = true → (cands ≠ [] ∨ summaryCands s p c ≠ []) →
      c.flush = false → areasAccess p [] [(lk.inArea, lk.inOff + c.stepBuf * lk.inBytes, lk.inBytes)] s = .go ps s1 →
      getCast s1 p = some c →
      let t := gen.foldl (fun s e => chosen e.1 e.2.2.1 s) s1
      let b := stepBody t all (256 * cdiv (64 * (1 + all.length)) 256)
      let read := gen.foldl (fun s e => if e.2.2.1 = 5 then s else touch e.2.1.tokenList hankBytes s) t
      let sent := areaWrite c lk.inArea (lk.inOff + c.stepBuf * lk.inBytes)
        (padBeats (recBytes (bufferHdr 2 all.length c.stepNo) ++ b.1) ++ b.2) read
      let inFlight := modCast p (fun c => { c with
        step := some (c.stepNo, all.map fun e =>
          { kind := e.2.2.1, slot := e.1, first := e.2.2.2.1, count := e.2.2.2.2, removed := false })
        stepNo := (c.stepNo + 1) % 2 ^ 32, stepEmpty := c.stepEmpty - lk.fulls.length
        stepBuf := (c.stepBuf + 1) % max 1 lk.depth }) sent
      writeStep p s = sendSignals (lk.fulls.map (physSem c)) (bump .commitHeld (min 1 (candidates s p y c).2)
        (bump (.preemptions p) paused.length (bump (.steps p) 1 inFlight)))) ∧
    ((c.step.isSome = true ∨ c.stepEmpty < lk.fulls.length ∨ y.serves = false) → writeStep p s = s) ∧
    (∀ (n : Nat) (srs : List StepRec) (ps : List (Nat × Nat)) (s1 : State),
      c.step = some (n, srs) → y.serves = true → lk.outWriters.length ≤ c.stepFull →
      areasAccess p [(lk.outArea, lk.outOff + c.stepOut * lk.outBytes, 16 * srs.length)] [] s = .go ps s1 →
      getCast s1 p = some c →
      let res := (stepResults s1 c lk srs).filter fun r => !r.1.removed
      let good := bySlot (res.filter fun r => resultOk c.img.pat.vocab n r.1 r.2)
      let tok (r : StepRec × List Byte) : Nat := natOf ((r.2.drop 4).take 4)
      let dec := good.filter fun r => r.1.kind = 3
      let taken := sendSignals (lk.outWriters.map (physSem c)) (modCast p (fun c => { c with
        step := none, stepFull := c.stepFull - lk.outWriters.length, stepOut := (c.stepOut + 1) % max 1 lk.depth }) s1)
      let timed_ := if srs.any (·.kind == 3) then
        modCast p (fun c => { c with tau := nextTau taken c, lastDecode := some s.now.toNat }) taken else taken
      let seen := res.foldl (fun s r => modSlot r.1.slot (fun x => { x with lastStep := s.now.setWidth 32 }) s) timed_
      let bad := (res.filter fun r => !resultOk c.img.pat.vocab n r.1 r.2).foldl
        (fun s r => bump (.malformed p) 1 (endSlot r.1.slot 0x20 s)) seen
      let sampled_ := dec.foldl (fun s r =>
        sampleToken r.1.slot (r.1.first + 1) (tok r) (natOf ((r.2.drop 8).take 4)) s) bad
      let stopped := dec.foldl (fun s r => stopToken r.1.slot (tok r) s) sampled_
      let rows := runScatters p (modCast p (fun c => { c with appends := [] })
        ((good.filter fun r => r.1.kind != 4).foldl (fun s r => scatterRecord p y.drained r.1 s) stopped))
      let noted := (good.filter fun r => r.1.kind = 4).foldl
        (fun s r => modSlot r.1.slot (fun x => { x with sumReady := true }) s) rows
      exec (.tokenBoundary panel) s = .next (writeStep p (step5 p noted)))

/-- Runs start and give results, the sweep ends what is due, requests fall back, and summaries pause them. Rules:
10_serving.md R285, 10_serving.md R289, 10_serving.md R296, 10_serving.md R300, 10_serving.md R301, 10_serving.md
R305, 10_serving.md R310, 11_host_interface.md R341, 10_serving.md R293, 10_serving.md R297. -/
def Obligations.RunsAndSweepsComplete : Prop :=
  ∀ s : State,
    (∀ (panel : BitVec 4) (y : Panel) (c : Cast) (lk : LinkDecl),
      let p := panel.toNat
      getPanel s p = some y → y.cast = some c → c.img.pat.runLink = some lk →
      (∀ (i : Nat) (x : Slot), (runCands s p c 0 ++ runCands s p c 2).head? = some (i, x) →
        ∀ (ps : List (Nat × Nat)) (s1 : State),
        (y.st = .ready ∨ y.st = .swapping) → lk.fulls.length ≤ c.runEmpty → x.cut = false → hostLive s = true →
        areasAccess p [] [(lk.inArea, lk.inOff + c.runBuf * lk.inBytes, lk.inBytes)] s = .go ps s1 →
        let at_ := fld x.shadow 0x18 8
        let n := fld x.shadow 0x20 4
        let run (fail : Option ReadFail) := exec (.runStart { panel := panel, fail := fail }) s
        (∀ f, run (some f) = .next (endSlot i 0x20 (readFailed (some f) s1))) ∧
        (hostBad s1 at_ n = true →
          run none = .next (endSlot i 0x20 (readFailed ((readReqs s1 at_ n).findSome? (reqFail s1)) s1))) ∧
        (hostBad s1 at_ n = false → ∃ v : Nat,
          let data := rd s1 (hostBase + at_) n
          let head := padBeats (recBytes (bufferHdr 1 1 v) ++ recBytes (dispatchRec 1 i 0 0 256 x))
          let off := lk.inOff + c.runBuf * lk.inBytes
          let put := tileHeaders p (stackOf (areaAddrD c lk.inArea off)) c lk.inArea (off + 256) data.length 0 0
            (areaWrite c lk.inArea off (head ++ data) s1)
          run none = .next (sendSignals (lk.fulls.map (physSem c))
            (modSlot i (fun x => { x with st := .prefill }) (modCast p (fun c => { c with
              runs := c.runs ++ [some i], runEmpty := c.runEmpty - lk.fulls.length
              runBuf := (c.runBuf + 1) % max 1 lk.depth }) put))))) ∧
      (∀ (r : Option Nat) (rest : List (Option Nat)) (ps : List (Nat × Nat)) (s1 : State),
        let off := lk.outOff + c.runOut * lk.outBytes
        let taken (s : State) : State := sendSignals (lk.outWriters.map (physSem c)) (modCast p (fun c => { c with
          runs := rest, runFull := c.runFull - lk.outWriters.length, runOut := (c.runOut + 1) % max 1 lk.depth }) s)
        c.runs = r :: rest → y.serves = true → lk.outWriters.length ≤ c.runFull →
        areasAccess p ((lk.outArea, off, lk.payOut) :: resultRecords c lk) [] s = .go ps s1 → getCast s1 p = some c →
        (r = none → exec (.runResult panel) s = .next (bump (.discardedRuns p) 1 (taken s1))) ∧
        (∀ (i : Nat) (x : Slot), r = some i → getSlot s1 i = some x → x.cut = false →
          (x.st ≠ .prefill → exec (.runResult panel) s = .next (bump (.discardedRuns p) 1 (taken s1))) ∧
          (x.st = .prefill → reached x s1 = true →
            exec (.runResult panel) s = .next (bump (.discardedRuns p) 1 (endSlot i 0x10 (taken s1)))) ∧
          (∀ s2, x.st = .prefill → reached x s1 = false → resultTiles p c lk s1 = (true, s2) → getCast s2 p = some c →
            let hist := fld x.shadow 0x30 8
            let out := areaRead s2 c lk.outArea off lk.payOut
            let hs := (resultRecords c lk).flatMap fun r => areaRead s2 c r.1 r.2.1 r.2.2
            let given : Bool := hist != 0 && !hs.isEmpty
            let told := if given then hostWrite hist hs (hostWrite (fld x.shadow 0x28 8) out (taken s2))
              else hostWrite (fld x.shadow 0x28 8) out (taken s2)
            exec (.runResult panel) s = .next (endSlot i 0
              (modSlot i (fun x => { x with outBytes := lk.payOut, histWritten := given }) told)))))) ∧
    ((s.now.toNat % 100 = 0 →
        let swept := (liveSlots s).foldl (fun s i => sweepSlot i s) s
        exec .sweep s = .next (ageAll (sendSummaries ((liveSlots swept).foldl (fun s i =>
          if (getSlot s i).any fun x => inStep s x.panel i then s else monitorSlot i s) swept)))) ∧
      (s.now.toNat % 100 ≠ 0 → exec .sweep s = .next s)) ∧
    (∀ (slot : BitVec 14) (x : Slot), let i := slot.toNat
      getSlot s i = some x →
      (∀ (f : Nat) (cf : Cast), x.fallbackDue = true → x.sampled = [] → (x.st = .prefill ∨ x.st = .decode) →
        fallbackPanel s x (x.tokens + remaining s x) = some f → getCast s f = some cf →
        exec (.fallback slot) s = .next (slotChanged i (modSlot i (fun x =>
          { x with fallback := true, fallbackDue := false, panel := f, served := cf.admission, rebuild := false, st := .queued })
          (bump (.fallbacks x.panel) 1 (leavePanel true i s))))) ∧
      (∀ c, x.st = .summarising → x.sumReady = true → tierOf x.summary ≠ 3 → x.sumLost = false → getCast s x.panel = some c →
        (let t := touch x.summary 64 s
        (summaryOk t x c.img.pat.summaryBytes = true → exec (.summaryResult slot) s = .next (pauseSlot i t)) ∧
        (summaryOk t x c.img.pat.summaryBytes = false → exec (.summaryResult slot) s = .next (endSlot i 0x20 t)))))

/-- A due stream record or completion is written to its ring when there is room, held when not, and announced.
Rules: 10_serving.md R287, 10_serving.md R306, 11_host_interface.md R329, 11_host_interface.md R348,
11_host_interface.md R350, 11_host_interface.md R351, 11_host_interface.md R352, 11_host_interface.md R354,
14_ply_pair.md R418, 10_serving.md R286. -/
def Obligations.RingEntriesComplete : Prop :=
  ∀ (s : State) (ring : BitVec 12),
    let r := ring.toNat
    let x := getRing s r
    let told (t : State) : State :=
      if x.ien then
        if x.delay = 0 then sendMsix x.vector t
        else modRing r (fun x => { x with
          unannounced := x.unannounced + 1, firstAt := if x.unannounced = 0 then s.now.toNat else x.firstAt }) t
      else t
    let waits (stream takes : Bool) : List Due := (dueTo s r stream).drop (if takes then entryRoom s r else 0)
    let waiting : List Due := waits true (x.type = 3) ++
      (if x.st = .enabled then waits false ((x.type = 2 ∧ r ≠ 0) ∨ (x.type = 4 ∧ r = 0)) else [])
    let new : List Due := x.waited.foldl (fun l d => l.erase d) waiting
    let held : State := if new = [] then s
      else bump (.fullHolds r) new.length (setRing r { x with waited := x.waited ++ new } s)
    (∀ (d : Due) (rest : List Due), dueTo s r true = d :: rest →
      ((x.type ≠ 3 ∨ entryRoom s r = 0) → exec (.streamRecordWrite ring) s = .next held) ∧
      (x.type = 3 → entryRoom s r ≠ 0 →
        let put := hostWrite (x.base + 16 * (x.idx.toNat % 2 ^ x.k)) (recBytes d.record) (dropDue r d s)
        let next := modRing r (fun x => { x with idx := x.idx + 1 }) put
        exec (.streamRecordWrite ring) s = .next (streamWritten r d (told (writeDevIdx r next))))) ∧
    (∀ (body : BitVec 224) (owner : DueFor) (ws : List Waiter) (rest : List Due),
      dueTo s r false = .completion body owner ws :: rest →
      let mine : Prop := (x.type = 2 ∧ r ≠ 0) ∨ (x.type = 4 ∧ r = 0)
      ((¬ mine ∨ entryRoom s r = 0) → exec (.completionEntryWrite ring) s = .next held) ∧
      (mine → entryRoom s r ≠ 0 →
        let n := if r = 0 then x.cqTail.toNat % 65536 else x.idx.toNat
        let k := if r = 0 then x.cqk else x.k
        let a := (if r = 0 then x.cqBase else x.base) + 32 * (n % 2 ^ k)
        let put := hostWrite (a + 0x1C) (bytesOf 4 ((n / 2 ^ k + 1) % 2))
          (hostWrite a (recBytes (setFld body 0x18 4 (s.now.toNat % 2 ^ 32))) (dropDue r (.completion body owner ws) s))
        let next := modRing r (fun x => if r = 0 then { x with
            cqTail := BitVec.ofNat 32 ((n + 1) % 65536) }
          else { x with idx := x.idx + 1 }) put
        exec (.completionEntryWrite ring) s = .next (complWritten body owner ws (told (writeDevIdx r next))))) ∧
    (x.st = .enabled → x.ien = true → x.unannounced ≠ 0 → x.firstAt + x.delay ≤ s.now.toNat →
      exec (.irqModerationExpiry ring) s = .next (setRing r { x with unannounced := 0 } (sendMsix x.vector s)))

/-- RING_CMD enables, disables and reads the selected ring, and one poll reads the rings the bitmap names. Rules:
11_host_interface.md R319, 11_host_interface.md R327, 11_host_interface.md R330, 11_host_interface.md R331,
11_host_interface.md R332, 11_host_interface.md R333, 11_host_interface.md R334, 11_host_interface.md R335,
11_host_interface.md R343. -/
def Obligations.RingsAndPollComplete : Prop :=
  ∀ s : State,
    (barLive s = true →
      let r := s.ringRegs.sel.toNat
      let ty := stType s
      let cq := nbits s.ringRegs.link.toNat 0 12
      let tail := s.db.tailCur.toNat + 4 * r
      let allowed : Prop := s.boot.ready = true ∧ s.host.version ≠ 0 ∧ (getRing s r).st = .disabled ∧
        (r = 0 ∨ (getRing s 0).st = .enabled) ∧ stShapeOk s r = true ∧ stAligned s r = true ∧
        hostBad s tail 4 = false ∧ rdNat s (hostBase + tail) 4 = 0 ∧
        (ty = 1 → (getRing s cq).st = .enabled ∧ (getRing s cq).type = 2) ∧
        (stTakeover s = true → (ty = 2 ∨ ty = 3) ∧ takeoverRing s ty = none)
      (allowed →
        let t := writeDevIdx r (countHolds r (setRing r (stagedRing s (getRing s r)) s))
        exec .ringEnable s = .next (if r = 0 then { t with host := { t.host with lock := true } } else t)) ∧
      (¬ allowed → ∃ code, 1 ≤ code ∧ code ≤ 6 ∧ exec .ringEnable s = .next (modRing r (fun x => { x with error := BitVec.ofNat 4 code })
        (if hostBad s tail 4 then readFailed ((readReqs s tail 4).findSome? (reqFail s)) s else s))) ∧
      exec .ringDisable s = .next (modRing r (fun x => { x with st := .disabled, error := 0, unannounced := 0 }) s) ∧
      exec .ringRead s = .next (
        let x := getRing s r
        { s with ringRegs := { s.ringRegs with
            base := BitVec.ofNat 51 x.base
            cqb := BitVec.ofNat 51 x.cqBase
            cfg := BitVec.ofNat 20 (x.type + 8 * b2n x.takeover + 16 * (x.k - 6) + 256 * (x.cqk - 6) + 4096 * x.group)
            link := BitVec.ofNat 32 (x.cq + 2 ^ 12 * b2n x.ien + 2 ^ 13 * x.vector + 2 ^ 24 * x.delay) } })) ∧
    (s.db.enable = true → hostLive s = true → (∀ t, s.host.lastPoll = some t → t + s.db.interval.toNat ≤ s.now.toNat) →
      hostBad s s.db.bitmap.toNat 512 = false →
      let b := { bump .polls 1 s with
        db := { s.db with bitmapCur := s.db.bitmap, tailCur := s.db.tail, devidxCur := s.db.devidx }
        host := { s.host with lastPoll := some s.now.toNat, pollStart := (s.host.pollStart + 1) % 4096 } }
      let bits := rd s (hostBase + s.db.bitmap.toNat) 512
      let read := (fromStart (s.rings.map (·.1)) s.host.pollStart).foldl (fun s r =>
        if nbit (lgetD bits (r / 8) 0).toNat (r % 8) && polledType (getRing s r) r then pollRing r s else s) b
      exec .poll s = .next (retakeAll (((read.rings.filter fun r => hasHeld read r.1 r.2).map (·.1)).foldl
        (fun s r => pollHead r s) read)))

/-- FLR, PERST#, link loss, D3hot, D0 and configuration requests change the host interface and nothing beside it.
Rules: 11_host_interface.md R320, 11_host_interface.md R321, 11_host_interface.md R322, 12_mailboxes.md R371,
16_startup_and_security.md R459, 16_startup_and_security.md R460, 16_startup_and_security.md R462,
16_startup_and_security.md R481, 18_setup_register_map.md R507, 18_setup_register_map.md R511. -/
def Obligations.HostLinkEventsComplete : Prop :=
  ∀ s : State,
    let fresh (t : State) : State := { hostReset t with
      host := { (hostReset t).host with msixMask := [], msixOff := [], pba := [] } }
    let linkGone (sticky : Bool) (t : State) : State := { t with host := { t.host with
      payload := 0, aspmL1 := false, flrBusy := false
      aer := if sticky then 0 else t.host.aer, aerMask := if sticky then 0 else t.host.aerMask } }
    let reached : Prop := s.power.on = true ∧ s.boot.pcie = true ∧ s.host.up = true
    (reached → s.host.flrBusy = false →
      exec .flr s = .next (goOff 1 { fresh s with host := { (fresh s).host with flrBusy := true } })) ∧
    (s.power.on = true →
      (∀ t : State, ((s.boot.pcie = true ∧ s.host.up = true ∧ t = linkGone true (fresh s)) ∨
          ((s.boot.pcie = false ∨ s.host.up = false) ∧ t = linkGone true s)) →
        exec .perstAssert s = .next (goOn 1 { t with host := { t.host with perst := true, up := false, training := false } })) ∧
      (s.host.perst = true → exec .perstDeassert s = .next { s with host :=
        { s.host with perst := false, training := (s.boot.booted || s.boot.failed), up := s.boot.pcie } }) ∧
      (s.host.perst = false → s.boot.testHold = false → (s.boot.pcie = false ∨ s.host.flrBusy = true) →
        exec .configurationRequest s = .next { s with bus := .retry })) ∧
    (s.host.up = true → s.boot.pcie = true →
      let t := linkGone false (fresh s)
      exec .dlDown s = .next (goOn 1 { t with host := { t.host with up := !t.host.perst } })) ∧
    (s.host.up = true → s.host.flrBusy = false →
      exec (.d3hotEntry true) s = .next { s with host := { s.host with busMaster := false } } ∧
      exec (.d3hotEntry false) s = .next (goOff 1 { s with host := { s.host with d3hot := true } }) ∧
      exec .d0Return s = .next (goOn 1 (s.host.held.foldl (fun t w => match w with
          | .cell a b => wr (hostBase + a) [b] t
          | .message v => emitOut (.msix v) (bump .msixMessages 1 t))
        { s with host := { s.host with d3hot := false, busMaster := true, held := [] } }))) ∧
    (let t := hostReset s;
      t.ringRegs = {} ∧ t.db = {} ∧ t.irq = {} ∧ t.adminWait = [] ∧ t.host.version = 0 ∧ t.host.lock = false ∧
        t.host.held = [] ∧ t.host.busMaster = false ∧ t.host.memOn = false ∧ t.host.bars = [0, 0] ∧ t.host.msixOn = false ∧
        t.host.d3hot = false ∧ (∀ c ∈ t.admin, c.discard = true) ∧
        ∀ r ∈ t.rings, r.2.st = .disabled ∧ r.2.due = [] ∧ r.2.waited = [])

/-- Register writes act by their access codes and ranges, 64-bit reads latch, malformed accesses are counted. Rules:
00_scope.md R6, 11_host_interface.md R317, 11_host_interface.md R321, 11_host_interface.md R323,
11_host_interface.md R326, 11_host_interface.md R330, 11_host_interface.md R334, 11_host_interface.md R355,
06_memory_tiers.md R220, 18_setup_register_map.md R508, 18_setup_register_map.md R509, 18_setup_register_map.md
R511. -/
def Obligations.RegisterAccessesComplete : Prop :=
  ∀ s : State,
    (barLive s = true →
      (∀ v : BitVec 32, exec (.capDrvWrite v) s = .next (if s.host.lock then s else
        { s with host := { s.host with version := if v.toNat % 16 = 1 then 1 else 0 } })) ∧
      (∀ (off : BitVec 20) (v : BitVec 64), off.toNat % 8 = 0 → off.toNat + 8 ≤ 0x10000 →
        exec (.registerWrite .bar0 off true v) s =
          .next (barWrite4 false (off.toNat + 4) (v.toNat / 2 ^ 32) (barWrite4 false off.toNat (v.toNat % 2 ^ 32) s))) ∧
      (∀ v : BitVec 64,
        let w := v.toNat % 2 ^ 32
        let put (off : BitVec 20) : Result := exec (.registerWrite .bar0 off false v) s
        let fresh (d : DbRegs) : DbRegs :=
          if d.enable then d else { d with bitmapCur := d.bitmap, tailCur := d.tail, devidxCur := d.devidx }
        put 0x1000 = .next { s with ringRegs := { s.ringRegs with sel := BitVec.ofNat 12 w } } ∧
        put 0x1014 = .next { s with ringRegs := { s.ringRegs with cfg := BitVec.ofNat 20 w } } ∧
        put 0x1018 = .next { s with ringRegs := { s.ringRegs with link := BitVec.ofNat 32 w } } ∧
        put 0x2008 = .next { s with db := fresh { s.db with
          tail := BitVec.ofNat 51 (s.db.tail.toNat / 2 ^ 32 * 2 ^ 32 + w / 4096 * 4096) } } ∧
        put 0x2018 = .next { s with db := fresh { s.db with
          interval := BitVec.ofNat 7 (max 1 (min 64 (w % 128))), enable := w.testBit 8 } } ∧
        put 0x3000 = .next { s with irq := { s.irq with vector := BitVec.ofNat 11 w } } ∧
        put 0x3004 = .next { s with irq := { s.irq with cause := s.irq.cause &&& ~~~(BitVec.ofNat 6 w) } } ∧
        put 0x3008 = .next { s with irq := { s.irq with enable := BitVec.ofNat 6 w } } ∧
        put 0x4000 = .next { s with
          agingSteps := BitVec.ofNat 6 (max 1 (w % 64)), urgentUs := BitVec.ofNat 16 (w / 256) } ∧
        put 0x5000 = .next { s with epochUs := BitVec.ofNat 20 (max 10 (min 1000000 (w % 2 ^ 20))) } ∧
        put 0x5008 = .next { s with rdThreshold := BitVec.ofNat 16 (max 10 (min 1000 (w % 2 ^ 16))) } ∧
        put 0x500C = .next { s with patrolHours := BitVec.ofNat 16 (max 1 (min 720 (w % 2 ^ 16))) } ∧
        put 0x602C = .next { s with power := { s.power with event := s.power.event &&& ~~~(BitVec.ofNat _ w) } } ∧
        put 0x7010 = .next { s with links := { s.links with event := s.links.event &&& ~~~(BitVec.ofNat 18 w) } } ∧
        put 0x8004 = .next { s with ply := { s.ply with events := s.ply.events &&& ~~~(BitVec.ofNat 8 w) } } ∧
        (∀ off : BitVec 20, off = 0x1020 ∨ off = 0x5004 ∨ off = 0x6004 ∨ off = 0x6008 ∨ off = 0x8000 ∨ off = 0x9000 ∨ off = 0xA000 →
          put off = .next s)) ∧
      (∀ (bar2 : Bool) (off : BitVec 20) (v : Nat), let space : Space := if bar2 then .bar2 else .bar0
        wideReg s bar2 off.toNat = some v → off.toNat % 8 = 0 →
        off.toNat + 8 ≤ (if bar2 then 0x100000 else 0x10000) →
        let k := latchKey bar2 off.toNat
        exec (.latchedRead space off false) s = .next { s with
          bus := .value 1 (BitVec.ofNat 64 (v % 2 ^ 32))
          latches := s.latches.filter (·.1 != k) ++ [(k, BitVec.ofNat 32 (v >>> 32))] } ∧
        exec (.latchedRead space off true) s = .next { s with bus := .value 1 (BitVec.ofNat 64 v) } ∧
        (∀ h, getLatch s k = some h → exec (.latchedRead space (off + 4) false) s = .next { s with
          bus := .value 1 (h.setWidth 64), latches := s.latches.filter (·.1 != k) })) ∧
      (∀ off : BitVec 20, off.toNat % 4 = 0 → off.toNat + 4 ≤ 0x10000 → wideReg s false off.toNat = none →
        wideReg s false (off.toNat - 4) = none →
        exec (.latchedRead .bar0 off false) s = .next { s with bus := .value 1 (BitVec.ofNat 64 (bar0Word s off.toNat)) }) ∧
      (∀ (bar2 : Bool) (off : BitVec 20) (size : Nat),
        ((size ≠ 4 ∧ size ≠ 8) ∨ off.toNat % size ≠ 0 ∨ (if bar2 then 0x100000 else 0x10000) < off.toNat + size) →
        exec (.barAccessMalformed true bar2 off size) s = .next (bump .malformedBar 1 s) ∧
        exec (.barAccessMalformed false bar2 off size) s = .next { bump .malformedBar 1 s with bus := .abort 1 })) ∧
    (barRefused s = true → ∀ (bar2 eight : Bool) (off : BitVec 20) (v : BitVec 64),
      let space : Space := if bar2 then .bar2 else .bar0
      exec (.registerWrite space off eight v) s = .next s ∧
      exec (.latchedRead space off eight) s = .next { s with bus := .unsupported 1 }) ∧
    (∀ (eight : Bool) (off : BitVec 20) (v : BitVec 64),
      let serves : Prop := s.power.on = true ∧ s.boot.pcie = true ∧ s.host.up = true ∧ s.host.flrBusy = false
      let dword : Prop := eight = false ∧ off.toNat % 4 = 0 ∧ off.toNat < 4096
      (cfgRetries s = true → exec (.registerWrite .config off eight v) s = .next { s with bus := .retry } ∧
        exec (.latchedRead .config off eight) s = .next { s with bus := .retry }) ∧
      (serves → dword → exec (.registerWrite .config off eight v) s = .next (cfgWrite off.toNat v.toNat s) ∧
        exec (.latchedRead .config off eight) s = .next { s with bus := .value 1 (BitVec.ofNat 64 (cfgWord s off.toNat)) }) ∧
      (serves → ¬ dword → exec (.registerWrite .config off eight v) s = .next { s with bus := .unsupported 1 } ∧
        exec (.latchedRead .config off eight) s = .next { s with bus := .unsupported 1 }) ∧
      (∀ m : BitVec 8, m ∈ [0x10, 0x11, 0x12, 0x13, 0x20, (0x50 : BitVec 8)] → s.power.on = true → s.boot.booted = true →
        isOff s m = false → 0x10000 ≤ off.toNat → off.toNat < 0x20000 → off.toNat % (if eight then 8 else 4) = 0 →
        exec (.registerWrite (.window m) off eight v) s = .next (winWrite m (off.toNat - 0x10000) eight v.toNat s) ∧
        exec (.latchedRead (.window m) off eight) s = .next (winRead m (off.toNat - 0x10000) eight s)))

/-- Mailbox words go in and out in order, the lock and COMPAT act, doorbells and domains follow. Rules:
12_mailboxes.md R359, 12_mailboxes.md R362, 12_mailboxes.md R363, 12_mailboxes.md R364, 12_mailboxes.md R365,
12_mailboxes.md R366, 12_mailboxes.md R367, 12_mailboxes.md R368, 12_mailboxes.md R369, 12_mailboxes.md R370,
12_mailboxes.md R371, 12_mailboxes.md R372. -/
def Obligations.MailboxesComplete : Prop :=
  ∀ (s : State) (m : BitVec 8),
    let may : Prop := (m = 1 ∧ barLive s = true) ∨
      (m ≠ 1 ∧ s.power.on = true ∧ s.boot.booted = true ∧ m ∈ masters ∧ isOff s m = false)
    let cross (c : Nat) (w : BitVec 32) : State := sendService 15 (serviceHdr 8 0 0 c w.toNat 0) []
      (let x := getChan s c
        let col := if Config.freeValue s.freeCtr % 2 = 1 then flagSet x.txCol m else x.txCol
        setChan c { x with txCol := col } { s with freeCtr := s.freeCtr + 1 })
    (may →
      (∀ ch : BitVec 6, let c := ch.toNat
        let x := getChan s c
        let o := if x.a = m then x.b else x.a
        4 ≤ c → chUsable s m c = true → isOff s o = false →
        (∀ w : BitVec 32,
          (x.compat = true → x.lock ≠ m → exec (.mbxTxWrite m ch w) s = .next (bump (.lockRefusals c) 1
            (setChan c { x with txCol := flagSet x.txCol m } s))) ∧
          ((x.compat = false ∨ x.lock = m) → o ≠ 0x30 →
            exec (.mbxTxWrite m ch w) s = .next (putWord c (o == x.a) { word := w, src := m, dst := o } s)) ∧
          ((x.compat = false ∨ x.lock = m) → o = 0x30 → exec (.mbxTxWrite m ch w) s = .next (cross c w))) ∧
        (let q := if x.a = m then x.q0 else x.q1
          let v := match q with
            | [] => 0
            | w :: _ => w.word.toNat + 2 ^ 32 * w.src.toNat + 2 ^ 40
          let y := if x.a = m then { x with q0 := x.q0.tail } else { x with q1 := x.q1.tail }
          exec (.mbxRxRead m ch .whole) s = .next { setChan c y s with bus := .value m (BitVec.ofNat 64 v) } ∧
          exec (.mbxRxRead m ch .lower) s = .next { setChan c { y with
            latch := y.latch.filter (·.1 != m) ++ [(m, BitVec.ofNat 32 (v >>> 32))] } s with
            bus := .value m (BitVec.ofNat 64 (v % 2 ^ 32)) } ∧
          (∀ h : BitVec 32, (x.latch.find? (·.1 == m)).map (·.2) = some h → exec (.mbxRxRead m ch .upper) s = .next {
            setChan c { x with latch := x.latch.filter (·.1 != m) } s with bus := .value m (h.setWidth 64) })) ∧
        (x.compat = true →
          ((x.lock = 0 ∨ x.lock = m) →
            exec (.mbxLockRead m ch) s = .next { setChan c { x with lock := m } s with bus := .value m 0 }) ∧
          (x.lock ≠ 0 → x.lock ≠ m → exec (.mbxLockRead m ch) s = .next { s with bus := .value m (x.lock.setWidth 64) })) ∧
        (∀ v, x.lock = m → exec (.mbxLockWrite m ch v) s = .next (setChan c { x with lock := 0 } s)) ∧
        (∀ v : BitVec 32, exec (.mbxCtrlWrite m ch v) s = .next (setChan c { x with
          compat := v.getLsbD 0, lock := if v.getLsbD 0 then x.lock else 0 } s))) ∧
      (∀ (ch : BitVec 6) (w : BitVec 32), let c := ch.toNat
        let x := getChan s c
        (c < 4 → chUsable s m c = true → m ≠ chOwner c → isOff s (chOwner c) = false →
          exec (.mbxTxWrite m ch w) s = .next (putWord c true { word := w, src := m, dst := chOwner c } s)) ∧
        (c < 4 → chUsable s m c = true → m = chOwner c → isOff s m = false → x.dst ∈ masters → x.dst ≠ m →
          isOff s x.dst = false → exec (.mbxTxWrite m ch w) s = .next
            (if x.dst = 0x30 then cross c w else putWord c false { word := w, src := m, dst := x.dst } s)) ∧
        (chUsable s m c = false → exec (.mbxTxWrite m ch w) s = .next (bump .unbound 1 s) ∧
          exec (.mbxRxRead m ch .whole) s = .next { bump .unbound 1 s with bus := .value m 0 })) ∧
      (∀ v : BitVec 32, let t := { s with mbx := { s.mbx with mask := tset s.mbx.mask m.toNat v } }
        exec (.mbxDbMaskWrite m v) s =
          .next (if dbMask s m &&& ~~~v &&& dbBits s m = 0 then t else interruptMaster m t))) ∧
    (∀ (c : Nat) (first : Bool) (w : MbxWord),
      let x := getChan s c
      let q := if first then x.q0 else x.q1
      let with_ (l : List MbxWord) : Chan := if first then { x with q0 := l } else { x with q1 := l }
      (q.length < 16 → putWord c first w s = ringBell w.dst c (setChan c (with_ (q ++ [w])) s)) ∧
      (∀ last, 16 ≤ q.length → q.getLast? = some last → putWord c first w s = ringBell w.dst c (bump (.collisions c) 1
        (setChan c { with_ (q.dropLast ++ [w]) with
          txCol := flagSet (flagSet x.txCol w.src) last.src, rxCol := ((queueTo c first x).foldl flagSet x.rxCol) } s)))) ∧
    (s.power.on = true → m ∈ masters →
      (domainByState s m ≠ some false → exec (.domainOff m) s = .next { s with mbx := { s.mbx with
        off := flagSet s.mbx.off m, chans := tmap s.mbx.chans (chanOff m) } }) ∧
      (domainByState s m ≠ some true → isOff s m = true →
        let t := { s with mbx := { s.mbx with off := s.mbx.off.filter (· != m) } }
        let rung := (upto 4 60).foldl (fun s c =>
          if chBinds s c && ((getChan s c).a == m || (getChan s c).b == m) then ringBell (chOther (getChan s c) m) c s else s) t
        exec (.domainOn m) s = .next (if m = 0x10 then plyNotices rung else rung)))

/-- A whole message is taken, carried out and answered, and one that may not be served is refused. Rules:
12_mailboxes.md R373, 12_mailboxes.md R374, 12_mailboxes.md R375, 12_mailboxes.md R376, 15_power_and_thermal.md
R440, 15_power_and_thermal.md R457, 16_startup_and_security.md R477, 16_startup_and_security.md R459,
12_mailboxes.md R358. -/
def Obligations.MessagesComplete : Prop :=
  ∀ (s : State) (ch : BitVec 6) (src : BitVec 8) (hd : BitVec 32) (pay : List (BitVec 32)),
    let c := ch.toNat
    let gone (h : BitVec 8) : State := setRxQueue h c (dropWords src (1 + pay.length)) s
    let runs (h : BitVec 8) : List Running := s.mbx.running.filter fun x => x.handler == h && x.src == src
    let waits (h : BitVec 8) (type len : Nat) : Prop :=
      ownHandler s h = true ∧ handlesOn s h c = true ∧ h ∉ (getChan s c).rxCol ∧ frontMsg s h c src = some (hd, pay) ∧
        hd.toNat % 256 = type ∧ pay.length = len ∧ answeredNow s h src (hdrSeq hd) = none
    let ready (h : BitVec 8) (type len : Nat) : Prop := waits h type len ∧ runs h = []
    let reply (h : BitVec 8) (ws : List (BitVec 32)) (t : State) : State :=
      let l := msgHeader (hd.toNat % 256 + 128) ws.length (hdrSeq hd).toNat 0 :: ws
      rememberReply h src (hdrSeq hd) l (sendReply h c src l t)
    let room (h : BitVec 8) (n : Nat) : Prop := replyRoom s h c src (n + 1) = true
    let fromBoth : Prop := src = 0x01 ∨ src = 0x40
    (∀ h, ready h 1 0 → room h 1 → exec (.ping h ch src) s = .next (reply h [s.boot.fwVersion] (gone h))) ∧
    (∀ h type, ready h type pay.length → msgRule h type src = none → room h 0 →
      let l := [msgHeader (type % 128 + 128) 0 (hdrSeq hd).toNat 1]
      exec (.ping h ch src) s = .next (rememberReply h src (hdrSeq hd) l (sendReply h c src l (gone h)))) ∧
    (ready 0x10 2 1 → fromBoth →
      let w := min 0xFFFF (pay.headD 0).toNat
      let t := if src = 0x01 then writeCap w (gone 0x10) else writeRackCap w (gone 0x10)
      let words := [BitVec.ofNat 32 (t.power.inForce.toNat + 2 ^ 31 * b2n (clamped w))]
      (room 0x10 1 → exec (.setCap ch src) s = .next (reply 0x10 words t)) ∧
      (¬ room 0x10 1 → exec (.setCap ch src) s = .next { t with mbx := { t.mbx with running := t.mbx.running ++
        [{ handler := 0x10, src := src, ch := c, seq := hdrSeq hd, resets := false
           words := msgHeader 130 1 (hdrSeq hd).toNat 0 :: words }] } })) ∧
    (∀ h x, waits h 1 0 → runs h = [x] → replyRoom s h x.ch src x.words.length = false → room h 0 →
      let l := [msgHeader 129 0 (hdrSeq hd).toNat 4]
      exec (.ping h ch src) s = .next (rememberReply h src (hdrSeq hd) l (sendReply h c src l (gone h)))) ∧
    (ready 0x10 3 0 → fromBoth → room 0x10 7 →
      let p := s.power
      exec (.getTelemetry ch src) s = .next (reply 0x10
        [BitVec.ofNat 32 p.watts.toNat, BitVec.ofNat 32 p.gauge.toNat, BitVec.ofNat 32 (p.gauge.toNat >>> 32),
         BitVec.ofNat 32 (p.junction.toNat + 2 ^ 16 * p.inlet.toNat), BitVec.ofNat 32 p.outlet.toNat,
         BitVec.ofNat 32 p.lag.toNat, BitVec.ofNat 32 (t3StateWord s)] (gone 0x10))) ∧
    (ready 0x10 4 2 → src = 0x40 → room 0x10 0 →
      let id := (lgetD pay 0 0).toNat + 2 ^ 32 * (lgetD pay 1 0).toNat
      exec (.setRackId ch src) s = .next (reply 0x10 [] (if s.links.rackId = BitVec.ofNat 64 id then gone 0x10
        else rackIdChanged { gone 0x10 with links := { s.links with rackId := BitVec.ofNat 64 id } }))) ∧
    (ready 0x20 8 1 → fromBoth → room 0x20 0 → pay.headD 0 = 0x52534554 →
      exec (.resetModule ch src) s = .next (moduleReset (reply 0x20 [] (gone 0x20)))) ∧
    (ready 0x20 9 0 → room 0x20 4 →
      let hash := (sha512 identityPub).take 8
      let n := Config.serial.toNat
      exec (.getIdentity ch src) s = .next (reply 0x20 [BitVec.ofNat 32 n, BitVec.ofNat 32 (n >>> 32),
        BitVec.ofNat 32 (natOf (hash.take 4)), BitVec.ofNat 32 (natOf (hash.drop 4))] (gone 0x20))) ∧
    (∀ ms : BitVec 32, s.power.on = true → s.boot.booted = true → isOff s 0x40 = false →
      let q := Config.freeValue s.freeCtr % 256
      exec (.drainNotice 0x40 ms) s = .next (mbxTx 0x40 3 ms (mbxTx 0x40 3 (BitVec.ofNat 32 (5 + 256 + 65536 * q))
        { s with freeCtr := s.freeCtr + 1 }))) ∧
    (ready 0x10 2 1 → src ≠ 0x01 → src ≠ 0x40 → room 0x10 0 →
      let l := [msgHeader 130 0 (hdrSeq hd).toNat 3]
      exec (.setCap ch src) s = .next (rememberReply 0x10 src (hdrSeq hd) l
        (sendReply 0x10 c src l (bump (.denied 0x10) 1 (gone 0x10)))))

/-- Test access instructions select their registers, those of test hold drive the pins, and bus transactions act.
Rules: 12_mailboxes.md R371, 16_startup_and_security.md R479, 16_startup_and_security.md R480,
16_startup_and_security.md R481, 16_startup_and_security.md R482, 17_module_hardware.md R496, 17_module_hardware.md
R497, 17_module_hardware.md R498. -/
def Obligations.TestAccessComplete : Prop :=
  ∀ s : State,
    let load (ir : BitVec 8) (dr : TapDr) (t : State) : State :=
      let u := { t with tap := { t.tap with ir := ir, dr := dr } }
      if ir = 0x20 ∧ u.tap.trst = false then goOn 0x50 u else if isOff u 0x50 then u else goOff 0x50 u
    let drive (ir : BitVec 8) (dr : TapDr) (d : PinDrive) : Result := .next (
      if s.boot.testHold then { load ir dr s with tap := { (load ir dr s).tap with drive := d } }
      else bump .testRefused 1 (load ir .bypass s))
    (s.power.on = true → s.tap.trst = false →
      exec .idcode s = .next (load 0x01 .idcode s) ∧
      exec .mbxacc s = .next (load 0x20 .mailbox s) ∧
      (∀ code : BitVec 8, code ∉ tapCodes → exec (.bypass code) s = .next (load code .bypass s)) ∧
      (∀ cells : List Bool, cells.length = 11264 → exec (.samplePreload cells) s =
        .next { load 0x02 .boundary s with tap := { (load 0x02 .boundary s).tap with cells := cells } }) ∧
      exec .extest s = drive 0x03 .boundary .extest ∧
      exec .clamp s = drive 0x04 .bypass .clamped ∧
      exec .highz s = drive 0x05 .bypass .floating ∧
      exec .extestPulse s = drive 0x06 .boundary .pulse ∧
      exec .extestTrain s = drive 0x07 .boundary .train) ∧
    (s.power.on = true → ∀ trst : Bool,
      exec (.testLogicReset trst) s = .next (load 0x01 .idcode { s with tap := { s.tap with trst := trst } })) ∧
    (∀ (off : BitVec 16) (data : BitVec 64) (count size : BitVec 8),
      let on : Prop := s.power.on = true ∧ s.boot.cores = true ∧ isOff s 0x40 = false
      (on → count = 6 → off.toNat % 4 = 0 →
        exec (.smbusBlockWrite count off data true) s = .next (winWrite4 0x40 off.toNat (data.toNat % 2 ^ 32) s)) ∧
      (on → count = 10 → off.toNat % 8 = 0 →
        exec (.smbusBlockWrite count off data true) s =
          .next (winWrite4 0x40 (off.toNat + 4) (data.toNat / 2 ^ 32) (winWrite4 0x40 off.toNat (data.toNat % 2 ^ 32) s))) ∧
      (on → exec (.smbusBlockWrite count off data false) s = .next { bump .smbusErrors 1 s with bus := .nack }) ∧
      (on → ((count ≠ 6 ∧ count ≠ 10) ∨ (count = 6 ∧ off.toNat % 4 ≠ 0) ∨ (count = 10 ∧ off.toNat % 8 ≠ 0)) →
        exec (.smbusBlockWrite count off data true) s = .next (bump .smbusErrors 1 s)) ∧
      (on → count = 3 → size = 4 → off.toNat % 4 = 0 →
        exec (.smbusProcessCall count off size) s = .next (winRead4 0x40 off.toNat s)) ∧
      (on → count = 3 → size = 8 → off.toNat % 8 = 0 → off.toNat % 0x200 = 8 → off.toNat < 0x8000 →
        exec (.smbusProcessCall count off size) s = .next (mbxRx 0x40 (off.toNat / 0x200) true s)) ∧
      (on → count = 3 → size = 8 → off.toNat % 8 = 0 → (off.toNat % 0x200 ≠ 8 ∨ 0x8000 ≤ off.toNat) →
        let lo := winRead4 0x40 off.toNat s
        let hi := winRead4 0x40 (off.toNat + 4) lo
        exec (.smbusProcessCall count off size) s = .next { hi with bus := joinReply 0x40 lo.bus hi.bus }) ∧
      (on → (count ≠ 3 ∨ (size ≠ 4 ∧ size ≠ 8) ∨ (size = 4 ∧ off.toNat % 4 ≠ 0) ∨ (size = 8 ∧ off.toNat % 8 ≠ 0)) → exec (.smbusProcessCall count off size) s =
        .next { bump .smbusErrors 1 s with bus := .value 0x40 (BitVec.allOnes 64) }) ∧
      (¬ on → exec (.smbusBlockWrite count off data true) s = .next { s with bus := .nack } ∧
        exec (.smbusProcessCall count off size) s = .next { s with bus := .nack })) ∧
    (alertLow s = true ↔ s.power.on = true ∧ s.boot.cores = true ∧
      ∃ i : Fin 32, (dbBits s 0x40).getLsbD i.val = true ∧ (dbMask s 0x40).getLsbD i.val = false)

/-- The steps of start-up run in order and leave what they establish, or stop start-up with a code. Rules:
12_mailboxes.md R360, 12_mailboxes.md R361, 16_startup_and_security.md R462, 16_startup_and_security.md R463,
16_startup_and_security.md R464, 16_startup_and_security.md R466, 16_startup_and_security.md R467,
16_startup_and_security.md R470, 16_startup_and_security.md R471, 16_startup_and_security.md R473, 12_mailboxes.md
R374, 17_module_hardware.md R495. -/
def Obligations.StartUpComplete : Prop :=
  ∀ s : State, s.power.on = true →
    (s.boot.rails = false → exec .railSequenceDone s = .next { s with
      boot := { s.boot with rails := true }
      power := { s.power with coreMv := (List.range 16).map fun r => BitVec.ofNat 16 (coreMillivolts r 32) } }) ∧
    (s.boot.rails = true → s.boot.booted = false → s.boot.failed = false →
      let t := { s with host := { s.host with training := !s.host.perst } }
      let first := bankImg s.nv s.nv.select
      let other := bankImg s.nv (!s.nv.select)
      let run (b : Bool) (i : FwImage) (fell : Bool) : State := { t with boot := { s.boot with
        booted := true, bank := b, secFallback := fell, rootSlot := BitVec.ofNat 2 (fwFld i 0xD 1)
        svnImage := BitVec.ofNat 7 (fwFld i 0xC 1), fwVersion := BitVec.ofNat 32 (fwFld i 8 4) } }
      exec .bootVerifyDone s = .next (
        if fwCheck s.nv first = 0 then run s.nv.select first false
        else if fwCheck s.nv other = 0 then bump .bankFallbacks 1 (run (!s.nv.select) other true)
        else { t with boot := { s.boot with
          failed := true
          fail := if (List.range 4).all fun k => (rootKey s.nv.revoked k).isNone then 2 else 1 } })) ∧
    (s.boot.booted = true → s.boot.cores = false → s.boot.failed = false → ∀ (sram : Bool) (ga : BitVec 7),
      exec (.coreStartDone false sram ga) s = .next { s with boot := { s.boot with failed := true, fail := 3 } } ∧
      exec (.coreStartDone true false ga) s = .next { s with boot := { s.boot with failed := true, fail := 4 } } ∧
      (let on := ([0x10, 0x11, 0x12, 0x13] : List (BitVec 8)).foldl (fun s m => goOn m s) s
        let t := writeBindings { on with boot := { on.boot with cores := true, rackPos := geoPosition ga } }
        exec (.coreStartDone true true ga) s =
          .next (if s.boot.testHold then t else (List.range 4).foldl (fun s st => setT3State st 1 s) t))) ∧
    (s.boot.cores = true → s.boot.testHold = false → s.boot.failed = false →
      (∀ failed : BitVec 24, s.boot.dramDone = false →
        let bad := s.boot.dramBad &&& failed
        let retried := if s.boot.dramTries = 0 then s else
          (maskBits 24 s.boot.dramBad.toNat).foldl (fun s g => bump (.trainingRetries g) 1 s) s
        let last := bad == 0 || s.boot.dramTries == 2
        let out : BitVec 24 := if last then bad else 0
        let t := bump .groupsOut (maskBits 24 out.toNat).length { retried with boot := { s.boot with
          dramTries := s.boot.dramTries + 1, dramBad := bad, dramDone := last, groupsOut := out } }
        exec (.dramTrainingDone failed) s =
          .next (if out = 0xFFFFFF then healthNotice { t with boot := { t.boot with failed := true, fail := 5 } } else t)) ∧
      (∀ (units : List (BitVec 9)) (clusters : List (BitVec 6)) (regions : List (BitVec 4)) (hanks : List Nat),
        s.boot.swatchDone = false →
        let us := swatchUnits units clusters regions
        let t := us.foldl (fun s u => modUnit u (fun x => { x with marked := true }) s) s
        exec (.startupSwatchDone units clusters regions hanks) s = .next (bump .swatchFailures us.length { t with
          boot := { t.boot with swatchDone := true, t1Retired := (hanks.filter (· < 768)).foldl insNat [] } }))) ∧
    ((s.boot.cores = true ∨ s.boot.failed = true) → s.boot.testHold = false → s.boot.pcie = false → s.host.training = true →
      s.host.perst = false → exec .pcieReadiness s = .next { s with
        host := { s.host with training := false, up := true }
        boot := { s.boot with pcie := true }
        mbx := { s.mbx with locked := true } }) ∧
    (∀ k1 k2 : Nat, s.boot.pcie = true → s.boot.dramDone = true → s.boot.swatchDone = true → s.boot.failed = false →
      s.boot.ready = false → lowestFree s 2 none = some k2 → lowestFree s 1 none = some k1 →
      exec .readySet s = .next (healthNotice (updateFuses (let t := takeHank k1 none true (takeHank k2 none true s); { t with boot := { t.boot with
        ready := true, mirrorPinned := true, mirrorHank := hankAddr k2, stopBase := hankAddr k1
        readyMs := BitVec.ofNat 32 ((s.now.toNat - s.boot.time0) / 1000) } })))) ∧
    (isOff s 0x10 = false → isOff s 0x40 = false →
      let t3 := (List.range 4).any fun st => (getStack s st).t3.st.toNat < 2 || (getStack s st).t3.st.toNat == 5
      let flags := b2n s.boot.ready + 2 * b2n s.boot.failed + 4 * b2n s.ply.takeoverDue + 8 * b2n t3
      let marked := (s.units.filter fun u => u.2.marked).length
      healthNotice s = putWords 2 true 0x10 0x40 [msgHeader 6 2 (Config.freeValue s.freeCtr % 256) 0, BitVec.ofNat 32 flags,
        BitVec.ofNat 32 marked] { s with freeCtr := s.freeCtr + 1 })

/-- FW_UPDATE checks an image and its write selects the other bank, and recovery writes both banks. Rules:
16_startup_and_security.md R465, 16_startup_and_security.md R466, 16_startup_and_security.md R468,
16_startup_and_security.md R469, 16_startup_and_security.md R459, 16_startup_and_security.md R483,
16_startup_and_security.md R485. -/
def Obligations.FirmwareComplete : Prop :=
  ∀ s : State,
    (∀ d : Rec64, Taken 0x91 d s →
      let a := fld d 0x10 8
      let n := fld d 0x18 4
      let i := fwOf (rd s (hostBase + a) n)
      let read := if hostBad s a n then readFailed ((readReqs s a n).findSome? (reqFail s)) (running 0x91 d s) else running 0x91 d s
      exec (.fwUpdate d) s = .next (
        if hostBad s a n = false ∧ fwLenOk i n = true ∧ fwCheck s.nv i = 0 then
          { running 0x91 d s with boot := { s.boot with updImg := some (s.nextId, i) } }
        else ended 0x91 d 0x20 0 s (bump (.fwUpdates 0x20) 1 { read with boot := { s.boot with updImg := none } }))) ∧
    (∀ (id : Nat) (i : FwImage), s.boot.updImg = some (id, i) →
      let put (i : FwImage) (nv : NonVolatile) : NonVolatile :=
        if s.boot.bank then { nv with bankA := i } else { nv with bankB := i }
      let done (status : Nat) (nv : NonVolatile) : State := adminDone id status 0 (bump (.fwUpdates status) 1
        { s with nv := nv, boot := { s.boot with updImg := none } })
      exec (.fwBankWriteDone true) s = .next (done 0 { put i s.nv with select := !s.boot.bank }) ∧
      exec (.fwBankWriteDone false) s = .next (done 0x31 (put spoiltBank s.nv))) ∧
    (∀ v : BitVec 32, barLive s = true → s.boot.failed = true →
      let n := v.toNat % 2 ^ 26
      let a := s.boot.rcvAddr.toNat
      let i := fwOf (rd s (hostBase + a) n)
      let t := { s with boot := { s.boot with rcvLen := BitVec.ofNat 26 n } }
      let bad (c : Nat) (t : State) : State := { t with boot := { t.boot with rcvState := 3, rcvCheck := BitVec.ofNat 8 c } }
      exec (.recoveryGo v) s = .next (
        if s.boot.rcvState = 1 then t
        else if hostBad s a n then bad 0 (readFailed ((readReqs s a n).findSome? (reqFail s)) t)
        else if fwLenOk i n = false then bad 7 t
        else if fwCheck s.nv i ≠ 0 then bad (fwCheck s.nv i) t
        else { t with boot := { t.boot with rcvState := 1, rcvCheck := 0, rcvImg := some i } })) ∧
    (∀ i : FwImage, s.boot.rcvImg = some i →
      exec .recoveryDone s = .next (moduleReset { s with nv := { s.nv with bankA := i, bankB := i, select := false } })) ∧
    (∀ i : FwImage,
      (i.header.length ≠ 512 ∨ fwFld i 0 4 ≠ 0x57464B41 ∨ fwFld i 4 2 ≠ 1 ∨ rootKey s.nv.revoked (fwFld i 0xD 1) = none ∨
        fwFld i 0xC 1 < s.nv.svn ∨ i.body.length ≠ fwFld i 0x10 8 ∨ sha512 i.body ≠ (i.header.drop 0x20).take 64) →
      1 ≤ fwCheck s.nv i ∧ fwCheck s.nv i ≤ 6)

/-- Under-voltage, over-voltage, over-current, open presence contacts and the thermal trip turn the module off.
Rules: 06_memory_tiers.md R218, 15_power_and_thermal.md R431, 15_power_and_thermal.md R432, 15_power_and_thermal.md
R433, 15_power_and_thermal.md R434, 15_power_and_thermal.md R455, 15_power_and_thermal.md R458,
16_startup_and_security.md R459, 16_startup_and_security.md R468. -/
def Obligations.InputLossesTurnTheModuleOff : Prop :=
  ∀ s : State, s.power.on = true →
    (∀ mv us : Nat,
      (mv < 36000 → 20 ≤ us →
        ∃ t, exec (.underVoltage mv us) s = .next t ∧ TurnedOff .underVoltage (.inputLoss 0) s.power s t) ∧
      ((36000 ≤ mv ∨ us < 20) → exec (.underVoltage mv us) s = .next s) ∧
      (54000 < mv →
        ∃ t, exec (.overVoltage mv) s = .next t ∧ TurnedOff .overVoltage (.inputLoss 1) s.power s t) ∧
      (mv ≤ 54000 → exec (.overVoltage mv) s = .next s)) ∧
    (∀ ma us : Nat,
      (150000 < ma ∨ (110000 < ma ∧ 100 ≤ us) →
        let l := (s.power.overCurrents.filter fun t => s.power.clock < t + 60000000) ++ [s.power.clock]
        ∃ t, exec (.overCurrent ma us) s = .next t ∧ TurnedOff .overCurrent (.inputLoss 2)
          { s.power with overCurrents := l, latched := s.power.latched || 3 ≤ l.length } s t) ∧
      ((ma ≤ 110000 ∨ (ma ≤ 150000 ∧ us < 100)) → exec (.overCurrent ma us) s = .next s)) ∧
    (∃ t, exec .presenceOpen s = .next t ∧
      TurnedOff .presence (.inputLoss 3) { s.power with
        present := false, openAt := if s.power.present then s.power.clock else s.power.openAt } s t) ∧
    (∀ (c : BitVec 16) (us : Nat),
      (1150 ≤ c.toInt → 10 ≤ us → ∃ t, exec (.thermalTrip c us) s = .next t ∧ TurnedOff .trip .trips s.power s t) ∧
      ((c.toInt < 1150 ∨ us < 10) → exec (.thermalTrip c us) s = .next s))

/-- Insertion and an input restart qualify the input again, and power-good is a power-on start. Rules: 10_serving.md
R284, 15_power_and_thermal.md R431, 15_power_and_thermal.md R433, 15_power_and_thermal.md R434,
15_power_and_thermal.md R435, 15_power_and_thermal.md R448, 16_startup_and_security.md R459,
16_startup_and_security.md R462, 17_module_hardware.md R498. -/
def Obligations.InputReturnsBringTheModuleBack : Prop :=
  ∀ s : State,
    (s.power.on = false →
      (∀ mv : Nat,
        let free : Prop := (s.power.present = true ∧ (s.power.off = none ∨ s.power.off = some .presence)) ∨
          (s.power.present = false ∧ ((s.power.off ≠ some .trip ∧ s.power.off ≠ some .overCurrent) ∨
            s.power.openAt + 1000000 ≤ s.power.clock))
        (free → exec (.insertion mv) s = .next { s with power := { s.power with
          present := true, off := some .presence, latched := false
          qualifying := s.power.qualifying || (40000 ≤ mv && mv ≤ 50000) } }) ∧
        (¬ free → exec (.insertion mv) s = .next { s with power := { s.power with present := true } })) ∧
      (s.power.present = true →
        let waited : Prop :=
          ((s.power.off = some .underVoltage ∨ s.power.off = some .overVoltage) ∧ s.power.offAt + 100000 ≤ s.power.clock) ∨
          (s.power.off = some .overCurrent ∧ s.power.latched = false ∧ s.power.offAt + 1000000 ≤ s.power.clock)
        exec (.inputRestart true) s = .next { s with power := { s.power with qualifying := true, latched := false } } ∧
        (waited → exec (.inputRestart false) s = .next { s with power := { s.power with qualifying := true } }) ∧
        (¬ waited → exec (.inputRestart false) s = .next s)) ∧
      (s.power.present = false → ∀ removed : Bool, exec (.inputRestart removed) s = .next s) ∧
      (s.power.qualifying = true → ∀ hold : Bool, ∃ t, exec (.powerGood hold) s = .next t ∧ Restarted s t ∧
        t.now = 0 ∧ t.nv = s.nv ∧ t.boot = { testHold := hold } ∧ t.tap = {} ∧ t.db = {} ∧ t.ringRegs = {} ∧
        t.power = { overCurrents := s.power.overCurrents, latched := s.power.latched, clock := s.power.clock }) ∧
      (s.power.qualifying = false → ∀ hold : Bool, exec (.powerGood hold) s = .next s)) ∧
    (s.power.on = true → ∀ (mv : Nat) (b : Bool), exec (.insertion mv) s = .next s ∧ exec (.inputRestart b) s = .next s ∧
      exec (.powerGood b) s = .next s)

/-- Caps, the estimate, the 50 µs loop, samples and droops set the power registers they name. Rules:
15_power_and_thermal.md R440, 15_power_and_thermal.md R441, 15_power_and_thermal.md R442, 15_power_and_thermal.md
R435, 15_power_and_thermal.md R445, 15_power_and_thermal.md R446, 15_power_and_thermal.md R447,
15_power_and_thermal.md R448, 15_power_and_thermal.md R451, 15_power_and_thermal.md R454, 15_power_and_thermal.md
R456, 15_power_and_thermal.md R438. -/
def Obligations.PowerLoopCompletes : Prop :=
  ∀ s : State,
    (barLive s = true → ∀ v : BitVec 32,
      let w := v.toNat % 65536
      let norm (w : Nat) : Nat := if w = 0 ∨ 3600 < w then 3600 else if w < 900 then 900 else w
      let t := { s with power := { s.power with
        cap := BitVec.ofNat 16 w, inForce := BitVec.ofNat 16 (min (norm w) (norm s.power.rackCap.toNat)) } }
      let u := if 1 ≤ w ∧ w ≤ 899 then
        raiseCause 5 (bump .capClamps 1 { t with power := { t.power with event := t.power.event ||| 1 } }) else t
      exec (.pwrCapWrite v) s = .next (limitMoved (powerLimit s) u)) ∧
    (∀ old : Nat,
      let t := refreshInput s
      let new := powerLimit t
      limitMoved old s = if new < old ∧ 10 * new < 9 * t.power.estimate then
        bump .emergencies 1 { t with power := { t.power with ceil := BitVec.ofNat 7 (ceilFor t t.power.n.toNat new) } } else t) ∧
    (s.power.on = true →
      (∀ a : Nat, exec (.powerEstimateTick a) s = .next { s with power := { s.power with
        activity := a
        estimate := (((Config.powerEstimate a s.power.n.toNat s.power.ceil.toNat : Nat) : Int) +
          Config.leakage ((List.range 16).map fun r => coreMillivolts r s.power.n.toNat) s.power.sensors + s.power.trim).toNat } }) ∧
      (s.now.toNat % 50 = 0 →
        let t := refreshInput (thermalTick { s with power := { s.power with
          trim := Config.powerTrim s.power.trim s.power.estimate s.power.watts.toNat } })
        let limit := powerLimit t
        let n := stepN t (highest (fun n => estAt t n 64 ≤ limit) 32 32)
        let c := if estAt t n 64 ≤ limit then 64 else ceilFor t n limit
        let lag := estAt t n 64 - t.power.inForce.toNat
        let k := if lag = 0 then 0 else t.power.lagTicks + 1
        let u := { t with power := { t.power with
          n := BitVec.ofNat 7 n, ceil := BitVec.ofNat 7 c, lag := BitVec.ofNat 16 lag, lagTicks := k
          coreMv := if t.boot.rails then (List.range 16).map fun r => BitVec.ofNat 16 (coreMillivolts r n) else t.power.coreMv } }
        exec .powerLoopTick s = .next (if k = 2 then
          raiseCause 5 (bump .lagEvents 1 { u with power := { u.power with event := u.power.event ||| 2 } }) else u)) ∧
      (s.now.toNat % 50 ≠ 0 → exec .powerLoopTick s = .next s) ∧
      (∀ (mv w : BitVec 16) (uj : Nat), exec (.gaugeSample mv w uj) s = .next (limitMoved (powerLimit s)
        { s with power := { s.power with
          gauge := s.power.gauge + BitVec.ofNat 64 uj, millivolts := mv, watts := w, busMv := BitVec.ofNat 16 (mv.toNat / 4) } })) ∧
      (∀ l : List (BitVec 16),
        exec (.junctionSample l) s = .next { s with power := { s.power with sensors := l, junction := hottest l } } ∧
        (l ≠ [] → hottest l ∈ l ∧ ∀ c ∈ l, c.toInt ≤ (hottest l).toInt)) ∧
      (∀ i o f : BitVec 16,
        let bad := 400 < i.toInt || f.toNat < 300
        let rise := bad && !s.power.coolant
        let t := { s with power := { s.power with
          inlet := i, outlet := o, flow := f, coolant := bad, event := if rise then s.power.event ||| 16 else s.power.event } }
        exec (.coolantSample i o f) s = .next (if rise then bump .coolantExc 1 t else t)) ∧
      (∀ (i : BitVec 7) (n : Nat),
        (i.toNat < 80 → exec (.voltageDroop i n) s = .next (bump (.stretched i.toNat) n s)) ∧
        (80 ≤ i.toNat → exec (.voltageDroop i n) s = .next s))) ∧
    (∀ r n : Nat, 550 ≤ coreMillivolts r n ∧ coreMillivolts r n ≤ 850) ∧
    (let p := s.power;
      (1050 ≤ p.junction.toInt → thermalTick s = (let t := { s with power := { p with
          thermalCap := BitVec.ofNat 16 (p.estimate * 98 / 100), thermal := true, throttled := true, event := p.event ||| 4 } }
        if p.throttled then t else bump .throttles 1 t)) ∧
      (p.junction.toInt ≤ 1000 → thermalTick s =
        (let c := min 3600 (p.thermalCap.toNat + max 1 (p.thermalCap.toNat * 2 / 100));
          { s with power := { p with
            thermalCap := BitVec.ofNat 16 c, thermal := c < 3600, throttled := p.throttled && c < 3600 } })) ∧
      (1000 < p.junction.toInt → p.junction.toInt < 1050 → thermalTick s = s))

/-- A port trains step by step to UP, fails with its reason, and leaves UP with what that ends. Rules:
13_links_and_rack.md R379, 13_links_and_rack.md R380, 13_links_and_rack.md R381, 13_links_and_rack.md R382,
13_links_and_rack.md R383, 13_links_and_rack.md R387, 13_links_and_rack.md R388, 13_links_and_rack.md R389,
13_links_and_rack.md R392, 13_links_and_rack.md R398, 14_ply_pair.md R421, 17_module_hardware.md R495. -/
def Obligations.PortTrainingCompletes : Prop :=
  ∀ (s : State) (port : Fin 18),
    let p := port.val
    let x := getPort s p
    let failed (reason : BitVec 4) (t : State) : State := changePort p (fun x => { x with
      st := .down, reason := reason, degraded := false, version := 0, seenHello := false, sentSeen := false, gotSeen := false
      retryAt := some (s.now.toNat + 1000000), resendq := [] }) t
    let begun (t : State) : State := changePort p (fun x => { x with st := .electrical, retryAt := none, rack := t.links.rackId }) t
    (s.power.on = true → s.boot.cores = true → s.links.enable.getLsbD p = true → x.st = .down →
      (x.retryAt = none → (s.boot.rackPos ≠ 0xFF ∨ 16 ≤ p) →
        exec (.signalDetect port) s = .next (begun s)) ∧
      (x.retryAt = none → s.boot.rackPos = 0xFF → p < 16 →
        exec (.signalDetect port) s = .next (changePort p (fun x => { x with reason := 7 }) s)) ∧
      (∀ t, x.retryAt = some t → t ≤ s.now.toNat → exec (.trainingRetry port) s =
        .next (begun s))) ∧
    (x.st = .electrical → ∀ f : BitVec 4,
      let aligned (d : Bool) : Result := .next (changePort p (fun x => { x with st := .align, degraded := d }) s)
      (f = 0 → exec (.equalisationDone port f) s = aligned false) ∧
      (f ≠ 0 → (f.toNat % 4 = 0 ∨ f.toNat / 4 = 0) → exec (.equalisationDone port f) s = aligned true) ∧
      (f.toNat % 4 ≠ 0 → f.toNat / 4 ≠ 0 → exec (.equalisationDone port f) s = .next (failed 2 s))) ∧
    (x.st = .align → exec (.alignLock port) s = .next (changePort p (fun x => { x with
      st := .hello, seenHello := false, sentSeen := false, gotSeen := false, resumeTx := x.leftUp.isSome }) s)) ∧
    ((x.st = .electrical → x.since + 100000 ≤ s.now.toNat → exec (.trainingTimeout port) s = .next (failed 2 s)) ∧
      (x.st = .align → x.since + 5000 ≤ s.now.toNat → exec (.trainingTimeout port) s = .next (failed 3 s)) ∧
      (x.st = .hello → x.since + 1000 ≤ s.now.toNat → exec (.trainingTimeout port) s = .next (failed (BitVec.ofNat 4 (4 + Config.freeValue s.freeCtr % 5))
        { s with freeCtr := s.freeCtr + 1 }))) ∧
    (x.st = .hello →
      (exec (.helloSend port) s = .next (endHello p (modPort p (fun x => { x with sentSeen := x.sentSeen || x.seenHello })
        (sendHello p s)))) ∧
      (∀ (f : Flit) (c : Fec),
        let counted := bump (.fecBad p) c.bad (bump (.fecCorrected p) c.corrected s)
        let heard := modPort p (fun x => { x with lastGood := s.now.toNat }) counted
        let id : BitVec 64 × BitVec 8 := (BitVec.ofNat 64 (helloFld f 0x10 8), BitVec.ofNat 8 (helloFld f 3 1))
        let known := modPort p (fun x => { x with
          peer := BitVec.ofNat 8 (helloPeer f)
          peerPort := if helloFld f 2 1 = 5 then 0x1F else BitVec.ofNat 5 (helloFld f 3 1) }) heard
        let again := x.seenHello && x.cur == some id
        let reason := helloReason known p f
        (c.lost = true → exec (.hello port { flit := f, fec := c }) s = .next counted) ∧
        (c.lost = false → helloOk f = false → exec (.hello port { flit := f, fec := c }) s = .next (bump (.flitErrors p) 1 heard)) ∧
        (c.lost = false → helloOk f = true → reason = 0 → exec (.hello port { flit := f, fec := c }) s =
          .next (endHello p (modPort p (fun x => { x with
            cur := some id, seenHello := true, sentSeen := x.sentSeen && again
            gotSeen := (x.gotSeen && again) || nbit (helloFld f 5 1) 0, peerResume := nbit (helloFld f 5 1) 1
            peerLast := BitVec.ofNat 16 (helloFld f 6 2) }) known))) ∧
        (c.lost = false → helloOk f = true → reason ≠ 0 → exec (.hello port { flit := f, fec := c }) s =
          .next (failed (BitVec.ofNat 4 reason) known))) ∧
      ((x.sentSeen = false ∨ x.gotSeen = false) → endHello p s = s) ∧
      (x.sentSeen = true → x.gotSeen = true →
        let up := changePort p (fun x => { x with st := .up, version := 1, lastGood := s.now.toNat }) s
        let kept := x.prev == x.cur && x.resumeTx && x.peerResume && x.leftUp.any fun t => s.now.toNat < t + 100000
        let t := if kept then pumpRoutes p (fun _ => true) (resumeSession p up) else newSession p up
        let u := drainService p (getPort t p).txq.length t
        endHello p s = if p = 15 then syncPartner u else u)) ∧
    (x.st = .up →
      (exec (.signalLoss port) s = .next (portDown p 1 none s)) ∧
      ((∃ e ∈ x.replay, 16 ≤ e.2.2) → exec (.linkSilenceTimeout port) s = .next (portDown p 9 none s)) ∧
      ((∀ e ∈ x.replay, e.2.2 < 16) → x.lastGood + 10000 ≤ s.now.toNat → exec (.linkSilenceTimeout port) s =
        .next (portDown p (Config.freeValue s.freeCtr % 11) none { s with freeCtr := s.freeCtr + 1 })) ∧
      (∀ reason : Nat,
        let low := bump (.retrains p) 1 (changePort p (fun x => { x with
          st := .down, reason := BitVec.ofNat 4 reason, degraded := false, version := 0, seenHello := false, sentSeen := false
          gotSeen := false, retryAt := none, resendq := [], leftUp := some s.now.toNat, prev := x.cur }) s)
        let shut := modPort p (fun x => { x with
          send := tmap x.send fun ch c => if ch = 64 then c else { c with open_ := false } }) low
        let t := rerouteFetches p ((portPanels shut p).foldl (fun s q => faultPanel q 0x40 (closeChannels q s)) shut)
        portDown p reason none s = if p = 15 then syncPartner t else t)) ∧
    (barLive s = true → ∀ v : BitVec 32,
      exec (.lnkCtrlWrite v) s = .next ((List.range 18).foldl (fun t q =>
        if s.links.enable.getLsbD q && !v.getLsbD q then portDown q 10 none t
        else if !s.links.enable.getLsbD q && v.getLsbD q then modPort q (fun x => { x with retryAt := none }) t
        else t) { s with links := { s.links with enable := v.setWidth 18 } }))

/-- A good flit is accepted in order with its slots, a bad one discarded with NAK, and channels open and close.
Rules: 13_links_and_rack.md R384, 13_links_and_rack.md R385, 13_links_and_rack.md R386, 13_links_and_rack.md R388,
13_links_and_rack.md R389, 13_links_and_rack.md R393, 14_ply_pair.md R416. -/
def Obligations.FlitsComplete : Prop :=
  ∀ (s : State) (port : Fin 18), (getPort s port.val).st = .up →
    let p := port.val
    let x := getPort s p
    let nak (t : State) : State := if x.nak then t else sendNulls p 1 (modPort p (fun x => { x with nak := true, nakDue := true }) t)
    (∀ (f : Flit) (c : Fec),
      let counted := bump (.fecBad p) c.bad (bump (.fecCorrected p) c.corrected s)
      let heard := modPort p (fun x => { x with lastGood := s.now.toNat }) counted
      let null : Instr := .nullFlit port { flit := f, fec := c }
      (c.lost = true → exec (.dataFlit port f c) s = .next (nak counted) ∧ exec null s = .next (nak counted)) ∧
      (c.lost = false → flitOk f = false →
        exec (.dataFlit port f c) s = .next (nak (bump (.flitErrors p) 1 heard)) ∧
        exec null s = .next (nak (bump (.flitErrors p) 1 heard))) ∧
      (c.lost = false → flitOk f = true → fld f 0 1 = 1 → fld f 2 2 ≠ (x.rxLast + 1).toNat →
        exec (.dataFlit port f c) s = .next (nak heard)) ∧
      (c.lost = false → flitOk f = true → fld f 0 1 = 1 → fld f 2 2 = (x.rxLast + 1).toNat →
        let t := applyReturns p f (modPort p (fun x => { x with
          rxLast := BitVec.ofNat 16 (fld f 2 2), nak := false, nakDue := false }) heard)
        let u := slotIn p (fld f 7 1) (fld f 1 1 / 4) (BitVec.ofNat 2048 (fld f 0x10C 256))
          (slotIn p (fld f 6 1) (fld f 1 1 % 4) (BitVec.ofNat 2048 (fld f 0xC 256)) t)
        exec (.dataFlit port f c) s =
          .next (if (getPort u p).st = .up then sendNulls p (max 1 (getPort u p).crnDue.length) u else u)) ∧
      (c.lost = false → flitOk f = true → fld f 0 1 = 2 → exec null s = .next (applyReturns p f heard)) ∧
      (let got := modPort p (fun x => { x with
          replay := dropAcked (fld f 4 2) x.replay, acked := BitVec.ofNat 16 (fld f 4 2) }) s
        let again := if nbit (fld f 8 1) 0 then resendAll p got else got
        let paid := applyCrn p (fld f 9 1) (fld f 0xA 2) again
        let gone := if (getPort got p).replay.length < x.replay.length then pumpRoutes p (fun _ => true) (drainResends p paid)
          else paid
        applyReturns p f s = drainService p (getPort gone p).txq.length gone)) ∧
    (x.nak = true → exec (.nakRepeat port) s = .next (sendNulls p 1 (modPort p (fun x => { x with nakDue := true }) s))) ∧
    ((p = 15 → s.ply.fenced = false) → ∀ m : Rec64,
      let ch := fld m 4 8 % 128
      (svcOk p m = false → exec (.channelOpen port m) s = .next (bump (.serviceErrors p) 1 s) ∧
        exec (.channelClose port m) s = .next (bump (.serviceErrors p) 1 s)) ∧
      (svcOk p m = true → fld m 0 1 = 0xA → ch < 64 → exec (.channelOpen port m) s = 
        .next (let c : SendCh := { open_ := true, credits := fld m 0x18 8, lastCrn := BitVec.ofNat 16 (fld m 0x10 2) }
          pumpRoutes p (fun c => c == ch) (setPort p { x with send := tset x.send ch c } s))) ∧
      (svcOk p m = true → fld m 0 1 = 0xB → ch < 64 →
        exec (.channelClose port m) s = .next (setPort p { x with
          send := tset x.send ch {}, resendq := x.resendq.filter (·.1 != ch) } s)))

/-- Fetch and read requests are served or refused, their answers placed, and resends go out. Rules:
06_memory_tiers.md R210, 06_memory_tiers.md R211, 13_links_and_rack.md R390, 13_links_and_rack.md R393,
13_links_and_rack.md R394, 13_links_and_rack.md R395, 13_links_and_rack.md R396. -/
def Obligations.FetchesComplete : Prop :=
  ∀ (s : State) (port : Fin 18) (m : Rec64), (getPort s port.val).st = .up → (port.val = 15 → s.ply.fenced = false) →
    svcOk port.val m = true →
    let p := port.val
    let len := fld m 0x18 8
    (fld m 0 1 = 1 → ∀ media : Bool,
      let src := fetchSource s (fld m 4 8) (fld m 0x10 8) len
      let t3 := src.2.filter fun r => tierOf r.1 = 3
      let reason := if src.1 ≠ 0 then src.1 else if t3.any (fun r => !t3Readable s (stackOf r.1)) then 2
        else if 32 ≤ serving s then 3 else if media && !t3.isEmpty then 5 else 0
      let read := src.2.foldl (fun s r => cacheLooks none r.1 r.2 (countT3Reads r.1 r.2 s)) (bump (.fetchServed p) 1 s)
      exec (.fetchReq port m media) s = .next (if reason = 0 then
          sendService p (serviceHdr 2 0 (fld m 2 2) 0 0 len) (src.2.flatMap fun r => rd s r.1 r.2)
            (modPort p (fun x => { x with served := x.served ++ [x.txq.length + 1 + cdiv len 256] }) read)
        else sendService p (serviceHdr 3 reason (fld m 2 2) 0 0 0) [] (bump (.fetchRefused p) 1 s))) ∧
    (∀ f : Fetch, fetchOf s p m false = some f →
      (fld m 0 1 = 2 → ∀ bytes : List Byte, exec (.fetchData port m bytes) s = .next (
        if bytes.length = f.len ∧ len = f.len then pumpFetches (fetchBytes f bytes (dropFetch f s))
        else bump (.serviceErrors p) 1 s)) ∧
      (fld m 0 1 = 3 → exec (.fetchRefuse port m) s = .next (
        if fld m 1 1 = 3 ∧ f.retries < 100 then setFetch f { f with retries := f.retries + 1, busyAt := some s.now.toNat } s
        else pumpFetches (loseFetch f s)))) ∧
    (∀ (tag : BitVec 16) (f : Fetch) (t : Nat),
      (s.links.fetches.find? fun f => f.sent && f.port == p && f.tag == tag && f.busyAt.isSome) = some f → f.busyAt = some t →
      t + 1000 ≤ s.now.toNat → exec (.fetchBusyRetry port tag) s =
        .next (sendService f.port (fetchMsg f) [] (setFetch f { f with busyAt := none } s))) ∧
    (∀ f : Fetch, fetchOf s p m true = some f →
      (fld m 0 1 = 5 → ∀ bytes : List Byte, exec (.readData port m bytes) s = .next (
        if bytes.length = f.len ∧ len = f.len ∧ f.data = false then setFetch f { f with data := true } (fetchBytes f bytes s)
        else bump (.serviceErrors p) 1 s)) ∧
      (fld m 0 1 = 6 → exec (.readStatus port m) s = .next (pumpFetches (
        if fld m 1 1 = 0 ∧ f.data = true then dropFetch f s else loseFetch f s)))) ∧
    (fld m 0 1 = 7 → ∀ (u o : Nat) (x : KUnit) (out : OutStrand) (t : SentTile),
      let d := Dest.link p (fld m 4 8 % 128)
      (∀ q ∈ s.links.ports, ∀ r ∈ q.2.recv, r.2.dest ≠ d) → s.units = [(u, x)] → x.outs = [(o, out)] → d ∈ out.dests →
      out.kept.find? (fun t => fld t.hdr 0x18 8 == fld m 0x10 8) = some t →
      let open_ := (tgetD (getPort s p).send (fld m 4 8 % 128) {}).open_
      let again := t.beats.zipIdx.map fun b => (fld m 4 8 % 128, Entry.beat b.1 (if b.2 = 0 then some (resentHdr t.hdr) else none))
      (open_ = false → exec (.resendReq port m) s = .next s) ∧
      (open_ = true → exec (.resendReq port m) s = .next (drainResends p (modPort p (fun x => { x with
        resendq := x.resendq ++ again }) (bump (.resends u) 1 s))))) ∧
    (fld m 0 1 = 8 → ∀ words : List (BitVec 32),
      let c := fld m 4 8 % 64
      let x := getChan s c
      let o := if c < 4 then chOwner c else if x.a = 0x30 then x.b else x.a
      let each (f : BitVec 32 → State → State) : Result := .next (words.foldl (fun s w => f w s) s)
      let refused : Prop := 4 ≤ c ∧ x.compat = true ∧ x.lock ≠ 0x30
      (chUsable s 0x30 c = true → isOff s o = false → ¬ refused → exec (.mailbox port m words) s =
        each fun w s => putWord c (c < 4 || o == x.a) { word := w, src := 0x30, dst := o } s) ∧
      (chUsable s 0x30 c = true → isOff s o = false → refused → exec (.mailbox port m words) s =
        each fun _ s => bump (.lockRefusals c) 1 (modChan c (fun x => { x with txCol := flagSet x.txCol 0x30 }) s)) ∧
      (chUsable s 0x30 c = true → isOff s o = true → exec (.mailbox port m words) s = each fun _ s => bump .domainOff 1 s) ∧
      (chUsable s 0x30 c = false → exec (.mailbox port m words) s = each fun _ s => bump .unbound 1 s))

/-- The pair binds, beats, loses its partner, takes over and releases, by commands and by time. Rules:
14_ply_pair.md R402, 14_ply_pair.md R403, 14_ply_pair.md R404, 14_ply_pair.md R405, 14_ply_pair.md R408,
14_ply_pair.md R411, 14_ply_pair.md R415, 14_ply_pair.md R416, 14_ply_pair.md R417, 14_ply_pair.md R419,
12_mailboxes.md R371, 14_ply_pair.md R414. -/
def Obligations.PairCommandsComplete : Prop :=
  ∀ s : State,
    let gone (t : State) : State := syncPartner (plyEvent 2 t)
    (∀ d : Rec64, Taken 0x8C d s →
      let p := fld d 8 1
      let c := { running 0x8C d s with ply := { s.ply with
        st := .binding, partner := BitVec.ofNat 8 p, standby := BitVec.ofNat 16 (fld d 0x10 2), kvThreshold := fld d 0xC 4
        owner := (bindOwner s d).getD none, bindCmd := some s.nextId, bindAt := s.now.toNat
        beatAt := s.now.toNat, missed := 0, sentSync := false, gotSync := false, syncLeft := 0, unacked := [], outQ := [] } }
      s.ply.st = .unbound → p < 64 → p ≠ s.boot.rackPos.toNat → (getPort s 15).st = .up → (getPort s 15).peer.toNat = p →
      (takeoverRing s 2).isSome = true → (takeoverRing s 3).isSome = true → (bindOwner s d).isSome = true →
      exec (.plyBind d) s = .next (sendBind (syncPartner c))) ∧
    (s.ply.st = .binding → s.ply.bindAt + 10000000 ≤ s.now.toNat →
      exec .bindTimeout s = .next (bindDone 0x20 (unbind 1 s))) ∧
    (paired s = true →
      (s.power.on = true → let t := lifelineMsg false [] [] s
        exec .heartbeatSend s = .next (pairSettle (pumpRx (rxFuel t) t))) ∧
      (s.ply.beatAt + 10 ≤ s.now.toNat → exec .missedBeat s = .next (bump .missedBeats 1
        { s with ply := { s.ply with missed := s.ply.missed + 1, beatAt := s.ply.beatAt + 10 } })) ∧
      (s.now.toNat < s.ply.beatAt + 10 → exec .missedBeat s = .next s) ∧
      (10 ≤ s.ply.missed →
        let t := endHanded (commitEvery (bump .partnersLost 1 (dropLifeline { s with ply := { s.ply with
          st := .lost, fenced := true, unacked := [], outQ := [], missed := 0 } })))
        exec .partnerLost s = .next (if s.ply.st = .bound ∨ s.ply.st = .releasing then
            healthNotice { gone t with ply := { (gone t).ply with
              takeoverDue := true, adopted := 0, ended := 0, rxQ := [], bulk := none, bulkGot := [] } }
          else bindDone 0x20 (freeAllMirrors (gone t)))) ∧
      ((getPort s 15).st = .up → s.ply.fenced = false → ∀ (m : Rec64) (recs : List Rec64) (bulk : List Byte),
        svcOk 15 m = true → fld m 0 1 = 9 → lifelineHdrOk m = true →
        let data := if nbit (fld m 0x10 8) 0 then bulk else recs.flatMap recBytes
        let t := gotAck (fld m 8 2) { s with ply := { s.ply with beatAt := s.now.toNat, missed := 0 } }
        let tag := BitVec.ofNat 16 (fld m 2 2)
        data.length = fld m 0x18 8 →
        (data = [] → exec (.lifeline 15 m recs bulk) s = .next t) ∧
        (data ≠ [] → paired t = true → exec (.lifeline 15 m recs bulk) s = .next (
          if tagNext t tag then receive (some tag) (nbit (fld m 0x10 8) 0) data t
          else plyEvent 7 (bump .mirrorErrors 1 t))))) ∧
    (s.ply.takeoverDue = true →
      let one (r : Bool × State) (e : Nat × Mirror) : Bool × State :=
        if r.1 = false then r
        else match adoptOne e.1 r.2 with
          | (none, u) => (false, u)
          | (some ok, u) => (true, { u with ply := { u.ply with
              adopted := u.ply.adopted + (if ok then 1 else 0), ended := u.ply.ended + (if ok then 0 else 1) } })
      let r := s.ply.mirror.foldl one (true, s)
      let t := healthNotice (plyEvent 3 { r.2 with ply := { r.2.ply with takeoverDue := false } })
      exec .takeover s = .next (if r.1 = false then r.2 else if t.ply.relCmd.isSome then releaseDone (unbind 4 t) else t)) ∧
    (∀ d : Rec64, Taken 0x8D d s →
      let r := running 0x8D d s
      (s.ply.st = .bound →
        let t := lifelineRecs [pairRec 0xC []] [] r
        exec (.plyRelease d) s = .next (pairSettle (endHanded { t with
          ply := { t.ply with relCmd := some s.nextId, st := .releasing } }))) ∧
      (s.ply.st = .releasing → exec (.plyRelease d) s = .next { r with ply := { s.ply with relCmd := some s.nextId } }) ∧
      (s.ply.st = .lost →
        exec (.plyRelease d) s = .next (adminDone s.nextId 0 0 (unbind 4 r))))

/-- Each record of the partner changes the mirror, the pair, or a request handed over, as its kind says. Rules:
14_ply_pair.md R404, 14_ply_pair.md R405, 14_ply_pair.md R406, 14_ply_pair.md R409, 14_ply_pair.md R410,
14_ply_pair.md R413, 14_ply_pair.md R414, 14_ply_pair.md R417, 14_ply_pair.md R420. -/
def Obligations.MirrorRecordsComplete : Prop :=
  ∀ (s : State) (r : Rec64),
    let i := fld r 2 2
    let q := arrived r s
    (Hears 0xA r s → s.ply.st = .binding → fld r 8 1 = s.ply.partner.toNat → fld r 9 1 = s.boot.rackPos.toNat →
      exec (.bindRec r) s = .next (settled (enterSyncing q))) ∧
    (takesRecords s = true →
      (Hears 0xB r s → exec (.syncDone r) s = .next (settled (pairSettle { q with ply := { q.ply with gotSync := true } }))) ∧
      (Hears 0xC r s → (s.ply.st = .bound ∨ s.ply.st = .syncing) → exec (.releaseRec r) s = .next (settled (enterReleasing q))) ∧
      (Hears 8 r s →
        let m := BitVec.ofNat 32 (fld r 8 4)
        let w := BitVec.ofNat 32 (fld r 0xC 4)
        let l := s.ply.mcat.filter fun k => !(k.1 == m && k.2.1 == w)
        let l := if fld r 0x18 4 = 1 then l ++ [(m, w, BitVec.ofNat 64 (fld r 0x10 8), BitVec.ofNat 256 (fld r 0x1C 32))] else l
        exec (.catalogueRec r) s = .next (settled { q with ply := { q.ply with mcat := l } })) ∧
      (Hears 9 r s → exec (.resync r) s = .next (settled (snapshot i q))) ∧
      (∀ (k : Nat) (t : State), Hears 1 r s → tget s.ply.mirror i = none → allocTry .mirror 2 s.ply.owner true q = (.got k, t) →
        exec (.openRec r) s = .next (settled (setMirror i { ({} : Mirror) with
          broken := false, have_ := 0, epoch := BitVec.ofNat 32 (fld r 4 4), opcode := fld r 8 1
          prio := BitVec.ofNat 4 (fld r 9 1), client := fld r 0xA 2, reqId := BitVec.ofNat 32 (fld r 0xC 4)
          model := BitVec.ofNat 32 (fld r 0x10 4), wversion := BitVec.ofNat 32 (fld r 0x14 4)
          seed := BitVec.ofNat 64 (fld r 0x18 8), maxNew := fld r 0x20 4, prompt := fld r 0x24 4, committed := fld r 0x28 4
          budget := BitVec.ofNat 32 (fld r 0x2C 4), deadline := BitVec.ofNat 32 (s.now.toNat + fld r 0x30 4)
          stopSet := fld r 0x34 2, submitRing := fld r 0x36 2, mflags := BitVec.ofNat 16 (fld r 0x38 2), st := fld r 0x3A 1
          status := 0, reason := 0, tokenList := hankAddr k, summary := 0 } t))) ∧
      (∀ cause : Nat, Hears 7 r s → (getSlot s i).bind (·.handed) = some cause →
        let t := modSlot i (fun x => { x with handed := none }) q
        exec (.handoverReply r) s = .next (settled (
          if fld r 8 1 = 1 then plyEvent 5 (bump .handoversOut 1 (endNow i 3 10 t))
          else endNow i cause (reasonOf cause) (bump .handoversRefused 1 t))))) ∧
    (∀ m : Mirror, Follows r m s →
      let t := followed r m s
      let m := { m with epoch := BitVec.ofNat 32 (fld r 4 4) }
      let a := fld r 8 4
      let n := fld r 0xC 1
      (Hears 2 r s → exec (.tokens r) s = .next (settled (setMirror i { m with have_ := max m.have_ (a + n) }
        ((List.range n).foldl (fun s k => wr (m.tokenList + 4 * (a + k)) (bytesOf 4 (fld r (0x10 + 4 * k) 4)) s) t)))) ∧
      (Hears 3 r s → exec (.generated r) s = .next (settled (setMirror i
        { m with have_ := max m.have_ (a + n), committed := max m.committed (a + n) }
        ((List.range n).foldl (fun s k => wr (m.tokenList + 0x100000 + 2 * (a + k)) (bytesOf 2 (fld r (0x14 + 6 * k) 2))
          (wr (m.tokenList + 4 * (a + k)) (bytesOf 4 (fld r (0x10 + 6 * k) 4)) s)) t)))) ∧
      (Hears 4 r s →
        (fld r 8 1 = 0 → exec (.stateRec r) s = .next (settled (freeMirror i t))) ∧
        (fld r 8 1 ≠ 0 → exec (.stateRec r) s = .next (settled (
          let v := trimMirror (fld r 0x14 4) m t
          setMirror i { v.1 with
            st := fld r 8 1, status := fld r 9 1, reason := fld r 0xA 1, prio := BitVec.ofNat 4 (fld r 0xB 1)
            mflags := BitVec.ofNat 16 (fld r 0xC 2), committed := max m.committed (fld r 0x10 4), kvPages := fld r 0x14 4
            budget := BitVec.ofNat 32 (fld r 0x18 4), deadline := BitVec.ofNat 32 (s.now.toNat + fld r 0x1C 4)
            maxNew := fld r 0x20 4, stopSet := fld r 0x24 2, submitRing := fld r 0x26 2
            model := BitVec.ofNat 32 (fld r 0x28 4), wversion := BitVec.ofNat 32 (fld r 0x2C 4) } v.2)))) ∧
      (∀ (bytes : List Byte) (u : State), Hears 5 r s → bytes ≠ [] → bytes.length = fld r 0xC 4 →
        let b : BulkWait := { slot := i, what := fld r 8 1, bytes := fld r 0xC 4, dcrc := fld r 0x10 4, page := fld r 0x14 4, layer := fld r 0x18 1, group := fld r 0x19 1 }
        let w := settled { t with ply := { t.ply with bulk := some b, bulkGot := [] } }
        placeBulk b bytes { w with ply := { w.ply with bulkGot := pad4k bytes, rxQ := [(none, true, pad4k bytes)] } } = (true, u) →
        exec (.bulk r bytes) s = .next (settled { u with ply := { u.ply with bulk := none, bulkGot := [] } })) ∧
      (Hears 6 r s →
        let reply (ok : Nat) (s : State) : State := lifelineRecs [mirrorRec 7 i 0 [(8, 1, ok)]] [] s
        (s.ply.st = .releasing → exec (.handover r) s = .next (settled t)) ∧
        (∀ slot p : Nat, s.ply.st ≠ .releasing → firstGap s.slots 0 16384 = some slot → adoptPanel t m = some p → m.whole = true →
          (adoptWaits i slot m t = none →
            let v := adoptInto i slot p m { t with freeCtr := s.freeCtr + 1 }
            exec (.handover r) s =
              .next (settled (reply 1 (plyEvent 6 { v with ply := { v.ply with adopted := 1, ended := 0 } })))) ∧
          (∀ u : State, adoptWaits i slot m t = some u →
            exec (.handover r) s = .next (pairSettle (modMirror i (fun m => { m with epoch := m.epoch - 1 }) u)))) ∧
        (s.ply.st ≠ .releasing → (firstGap s.slots 0 16384 = none ∨ adoptPanel t m = none ∨ m.whole = false) →
          exec (.handover r) s = .next (settled (reply 0 t))))) ∧
    (∀ (b : BulkWait) (l : List Byte) (m : Mirror), tget s.ply.mirror b.slot = some m → crc32c l = b.dcrc →
      (b.what = 1 → m.summary ≠ 0 → tierOf m.summary ≠ 3 → placeBulk b l s = (true, touch m.summary l.length (wr m.summary l
        (setMirror b.slot { m with positions := natOf ((l.drop 0xC).take 4) } s)))) ∧
      (∀ at_ : Nat, b.what ≠ 1 → pageSpot m = some at_ →
        (∀ e ∈ m.pages, ¬ (e.1 = b.page ∧ e.2.1 = b.layer ∧ e.2.2.1 = b.group)) →
        placeBulk b l s = (true, touch at_ l.length (wr at_ l (setMirror b.slot { m with
          pages := m.pages ++ [(b.page, b.layer, b.group, at_)] } s)))))

/-- A step runs the command at the front of the queue. Rules: 11_host_interface.md R335, 11_host_interface.md R343.
-/
def Obligations.StepRunsFront : Prop :=
  ∀ (c : Instr) (rest : List Instr) (s : State), step { s with pending := c :: rest } = exec c { s with pending := rest }

/-- On an empty queue a step is one microsecond of module time. Rules: 10_serving.md R284, 11_host_interface.md
R321, 13_links_and_rack.md R384, 13_links_and_rack.md R389, 13_links_and_rack.md R399, 15_power_and_thermal.md R433.
-/
def Obligations.IdleStepPassesTime : Prop :=
  ∀ s : State, s.pending = [] →
    (s.power.on = false → step s = .next { s with power := { s.power with clock := s.power.clock + 1 } }) ∧
    (s.power.on = true → step s = .next (retakeAll (dueNulls (countCreditWaits (endFlr
      { s with now := s.now + 1, power := { s.power with clock := s.power.clock + 1 } }))))) ∧
    (∀ t : State, dueNulls t = (List.range 18).foldl (fun t p =>
      if (getPort t p).st = .up then sendNulls p (max 1 (getPort t p).crnDue.length) t else t) t)

/-- READY raises the fuse SVN and revokes lower root slots; fuses never go back, and an image they refuse never runs
again. Rules: R467. -/
def Obligations.FusesNeverGoBack : Prop :=
  (∀ s : State, MayBeReady s →
    let i := runningImg s
    ∃ t, exec .readySet s = .next t ∧ t.boot.ready = true ∧
      (nbit (fwFlags i) 0 = true → s.nv.svn < fwSvn i → fwSvn i ≤ 64 → t.nv.svn = fwSvn i) ∧
      ((nbit (fwFlags i) 0 = false ∨ fwSvn i ≤ s.nv.svn) → t.nv.svn = s.nv.svn) ∧
      (nbit (fwFlags i) 1 = true → ∀ k : Nat, k < 4 →
        t.nv.revoked.getLsbD k = (s.nv.revoked.getLsbD k || decide (k < fwSlot i))) ∧
      (nbit (fwFlags i) 1 = false → t.nv.revoked = s.nv.revoked)) ∧
    (∀ s t : State, After s t →
      s.nv.svn ≤ t.nv.svn ∧ (∀ k : Nat, s.nv.revoked.getLsbD k = true → t.nv.revoked.getLsbD k = true) ∧
      ∀ i : FwImage, FusedOut s.nv i → fwCheck t.nv i ≠ 0 ∧
        ∀ u : State, t.boot.booted = false → exec .bootVerifyDone t = .next u → u.boot.booted = true → runningImg u ≠ i)

/-- Every step keeps the device memory in its canonical form. Rules: 00_scope.md R4, 06_memory_tiers.md R179. -/
def Obligations.MemoryStaysCanonical : Prop :=
  ∀ s t : State, MemOk s → step s = .next t → MemOk t

/-- Every step keeps the register fields that have a range within it. Rules: 00_scope.md R7, 06_memory_tiers.md
R220, 10_serving.md R315, 11_host_interface.md R326, 11_host_interface.md R334. -/
def Obligations.RegisterLimitsStay : Prop :=
  ∀ s t : State, FieldsOk s → step s = .next t → FieldsOk t

/-- A step takes exactly the front command off the queue. Rules: 11_host_interface.md R335, 11_host_interface.md
R343. -/
def Obligations.QueueGivesItsFront : Prop :=
  ∀ s t : State, step s = .next t → t.pending = s.pending.tail

/-- Every command completes in every state. Rules: 00_scope.md R2, 11_host_interface.md R335, 11_host_interface.md
R343. -/
def Obligations.EveryCommandCompletes : Prop :=
  ∀ s : State, ∃ t : State, step s = .next t

/-- The reset state meets the invariants that every step keeps. Rules: 00_scope.md R7, 06_memory_tiers.md R220,
10_serving.md R315, 11_host_interface.md R334. -/
def Obligations.ResetMeetsInvariants : Prop :=
  MemOk State.reset ∧ FieldsOk State.reset ∧ State.reset.pending = []

/-- The reset state has the values the manual gives. Rules: 04_unit_programs_and_strands.md R117, 06_memory_tiers.md
R220, 10_serving.md R315, 11_host_interface.md R326, 11_host_interface.md R334, 11_host_interface.md R355,
13_links_and_rack.md R398, 14_ply_pair.md R427, 15_power_and_thermal.md R457. -/
def Obligations.ResetValuesAsStated : Prop :=
  let s := State.reset
  s.power.inForce = 3600 ∧ s.links.enable = 0x3FFFF ∧ s.agingSteps = 16 ∧ s.urgentUs = 2000 ∧ s.epochUs = 1000 ∧
    s.rdThreshold = 200 ∧ s.patrolHours = 72 ∧ s.ply.partner = 0xFF ∧ s.db.interval = 2 ∧ s.db.enable = false ∧
    s.irq.cause = 0 ∧ s.irq.enable = 0 ∧ s.host.version = 0 ∧ s.boot.ready = false ∧ s.boot.failed = false ∧
    (∀ r : Nat, (getRing s r).st = .disabled) ∧ (∀ u n : Nat, getCtr (getUnit s u) n = {}) ∧
    (∀ i : Nat, getSlot s i = none) ∧ (∀ p : Nat, (getPort s p).st = .down)

/-- A budget sets a deadline in module time, and a deadline is reached by two's-complement comparison. Rules: R284.
-/
def Obligations.DeadlineArithmetic : Prop :=
  (∀ a b : BitVec 32, before32 a.toNat b.toNat = true ↔ (a - b).toInt < 0) ∧
    (∀ (s : State) (d : Rec64), dOp d = 1 ∨ dOp d = 2 ∨ dOp d = 4 → requestCheck s d = none → fld d 0xC 4 < 2 ^ 31) ∧
    (∀ (b : Nat) (s : State) (x : Slot),
      let y := setBudget b s x
      y.acceptedAt = s.now.setWidth 32 ∧ (b = 0 → y.noDeadline = true) ∧
        (b ≠ 0 → y.noDeadline = false ∧ y.deadline = y.acceptedAt + BitVec.ofNat 32 b)) ∧
    (∀ (s : State) (x : Slot), reached x s = true ↔ x.noDeadline = false ∧ ¬ (s.now.setWidth 32 - x.deadline).toInt < 0)

/-- Ports are allotted to stacks and roles as the table gives them, and the pins give the rack position. Rules: R15.
-/
def Obligations.PortsAndPositions : Prop :=
  (∀ p : Fin 18,
      portStack p.val = ([0, 0, 0, 1, 1, 1, 2, 2, 2, 3, 3, 3, 1, 2, 3, 0, 2, 3] : List Nat).getD p.val 0 ∧
      portRole p.val = (if p.val < 12 then 1 else if p.val < 15 then 2 else if p.val = 15 then 4 else 3)) ∧
    (∀ k : Fin 4, ((List.range 12).filter (portStack · == k.val)).length = 3 ∧
      ((List.range 18).filter (portStack · == k.val)).length = (if k.val < 2 then 4 else 5)) ∧
    (∀ (b t p : Fin 4) (odd : Bool),
      let v := 16 * b.val + 4 * t.val + p.val
      let ga := BitVec.ofNat 7 (2 * v + if odd then 1 else 0)
      (maskBits 7 ga.toNat).length % 2 = 1 → (geoPosition ga).toNat = v)
end

