-- ==== Sys2Proof/Laws/Memory.lean ====
section
/-! SUPPORT. The laws of device memory: a read after a write, and that every operation keeps the canonical form. -/
namespace Sys2Proof.Laws
open Sys2Proof Machine

/-- A list in canonical form from an address on is so from every lower address on. -/
theorem memWfFrom_mono {lo lo' : Nat} (hl : lo' ≤ lo) : ∀ {m : Mem}, memWfFrom lo m = true → memWfFrom lo' m = true
  | [], _ => rfl
  | (k, v) :: t, h => by
    simp only [memWfFrom, Bool.and_eq_true, decide_eq_true_eq] at h ⊢
    exact ⟨⟨Nat.le_trans hl h.1.1, h.1.2⟩, h.2⟩

/-- An address below a canonical list reads as a byte nothing has written. -/
theorem memGet_below {a lo : Nat} (hl : a < lo) : ∀ {m : Mem}, memWfFrom lo m = true → memGet m a = emptyByte
  | [], _ => rfl
  | (k, v) :: t, h => by
    simp only [memWfFrom, Bool.and_eq_true, decide_eq_true_eq] at h
    have : a < k := Nat.lt_of_lt_of_le hl h.1.1
    simp [memGet, this, Nat.ne_of_lt this]

/-- Writing a byte keeps the canonical form. -/
theorem memPut_wfFrom {lo a : Nat} {b : Byte} (hl : lo ≤ a) :
    ∀ {m : Mem}, memWfFrom lo m = true → memWfFrom lo (memPut m a b) = true
  | [], _ => by
    unfold memPut; split
    · rfl
    · rename_i hb; simp [memWfFrom, hl, hb]
  | (k, v) :: t, h => by
    have h' := h
    simp only [memWfFrom, Bool.and_eq_true, decide_eq_true_eq] at h'
    unfold memPut
    split
    · subst a
      split
      · exact memWfFrom_mono (by omega) h'.2
      · rename_i hb; simp [memWfFrom, hl, hb, h'.2]
    · split
      · rename_i hne hlt
        split
        · exact h
        · rename_i hb
          simp only [memWfFrom, Bool.and_eq_true, decide_eq_true_eq, bne_iff_ne]
          exact ⟨⟨hl, hb⟩, ⟨by omega, by simpa using h'.1.2⟩, h'.2⟩
      · rename_i hne hlt
        simp only [memWfFrom, Bool.and_eq_true, decide_eq_true_eq]
        exact ⟨h'.1, memPut_wfFrom (by omega) h'.2⟩

/-- Writing a byte keeps the canonical form of memory. -/
theorem memPut_wf {m : Mem} {a : Nat} {b : Byte} (h : Memory.wf m = true) : Memory.wf (memPut m a b) = true :=
  memPut_wfFrom (Nat.zero_le a) h

theorem memPuts_wf : ∀ {l : List Byte} {m : Mem} {a : Nat}, Memory.wf m = true → Memory.wf (memPuts m a l) = true
  | [], _, _, h => h
  | _ :: _, _, _, h => by unfold memPuts; exact memPuts_wf (memPut_wf h)

theorem memPutCells_wf : ∀ {l : List (Nat × Byte)} {m : Mem}, Memory.wf m = true → Memory.wf (memPutCells m l) = true
  | [], _, h => h
  | _ :: _, _, h => by unfold memPutCells; exact memPutCells_wf (memPut_wf h)

/-- Leaving cells out keeps the canonical form. -/
theorem filter_wfFrom (p : Nat × Byte → Bool) :
    ∀ {m : Mem} {lo : Nat}, memWfFrom lo m = true → memWfFrom lo (m.filter p) = true
  | [], _, _ => rfl
  | (k, v) :: t, lo, h => by
    simp only [memWfFrom, Bool.and_eq_true, decide_eq_true_eq] at h
    rw [List.filter_cons]
    split
    · simp only [memWfFrom, Bool.and_eq_true, decide_eq_true_eq]
      exact ⟨h.1, filter_wfFrom p h.2⟩
    · exact memWfFrom_mono (by omega) (filter_wfFrom p h.2)

theorem filter_wf {m : Mem} (p : Nat × Byte → Bool) (h : Memory.wf m = true) : Memory.wf (m.filter p) = true :=
  filter_wfFrom p h

theorem memClear_wf {m : Mem} {a n : Nat} (h : Memory.wf m = true) : Memory.wf (memClear m a n) = true := filter_wf _ h

theorem memCopy_wf {m : Mem} {src dst n : Nat} (h : Memory.wf m = true) : Memory.wf (memCopy m src dst n) = true :=
  memPutCells_wf (memClear_wf h)

/-- A canonical list followed by one that starts no lower than every address of it is canonical. -/
theorem append_wfFrom {l₂ : Mem} {b : Nat} (h₂ : memWfFrom b l₂ = true) :
    ∀ {l₁ : Mem} {lo : Nat}, lo ≤ b → memWfFrom lo l₁ = true → (∀ c ∈ l₁, c.1 < b) → memWfFrom lo (l₁ ++ l₂) = true
  | [], _, hb, _, _ => memWfFrom_mono hb h₂
  | (k, v) :: t, lo, _, h, hc => by
    simp only [memWfFrom, Bool.and_eq_true, decide_eq_true_eq, List.cons_append] at h ⊢
    have hk : k < b := hc (k, v) (List.mem_cons_self ..)
    exact ⟨h.1, append_wfFrom h₂ (by omega) h.2 fun c m => hc c (List.mem_cons_of_mem _ m)⟩

/-- The cells that lie no lower than an address are canonical from it on. -/
theorem filter_above_wfFrom {b : Nat} (p : Nat × Byte → Bool) (hp : ∀ c, p c = true → b ≤ c.1) :
    ∀ {m : Mem} {lo : Nat}, memWfFrom lo m = true → memWfFrom b (m.filter p) = true
  | [], _, _ => rfl
  | (k, v) :: t, lo, h => by
    simp only [memWfFrom, Bool.and_eq_true, decide_eq_true_eq] at h
    rw [List.filter_cons]
    split
    · rename_i hk
      have := hp _ hk
      simp only [memWfFrom, Bool.and_eq_true, decide_eq_true_eq]
      exact ⟨⟨this, h.1.2⟩, filter_wfFrom p h.2⟩
    · exact filter_above_wfFrom p hp h.2

/-- A run of equal bytes is canonical. -/
theorem run_wfFrom {b : Byte} (hb : b ≠ emptyByte) (a : Nat) :
    ∀ (n k : Nat), memWfFrom (a + k) ((List.range' k n).map fun i => (a + i, b)) = true
  | 0, _ => rfl
  | n + 1, k => by
    simp only [List.range'_succ, List.map_cons, memWfFrom, Bool.and_eq_true, decide_eq_true_eq, bne_iff_ne]
    exact ⟨⟨Nat.le_refl _, hb⟩, by rw [Nat.add_assoc]; exact run_wfFrom hb a n (k + 1)⟩

theorem memFill_wf {m : Mem} {a n : Nat} {b : Byte} (h : Memory.wf m = true) : Memory.wf (memFill m a n b) = true := by
  have hi : memWfFrom (a + n) (m.filter fun c => a + n ≤ c.1) = true :=
    filter_above_wfFrom _ (fun c hc => of_decide_eq_true hc) h
  have mid : memWfFrom a ((if b = emptyByte then [] else (List.range n).map fun i => (a + i, b)) ++
      m.filter fun c => a + n ≤ c.1) = true := by
    refine append_wfFrom hi (Nat.le_add_right a n) ?_ ?_
    · split
      · rfl
      · rename_i hb
        rw [List.range_eq_range']
        exact run_wfFrom hb a n 0
    · intro c hc
      split at hc
      · exact absurd hc List.not_mem_nil
      · simp only [List.mem_map, List.mem_range] at hc
        obtain ⟨i, hi, rfl⟩ := hc
        exact Nat.add_lt_add_left hi a
  unfold memFill Memory.wf
  rw [List.append_assoc]
  exact append_wfFrom mid (Nat.zero_le a) (filter_wf _ h) fun c hc => of_decide_eq_true (List.mem_filter.mp hc).2

/-- A read after a write of one byte: the byte written at its address, the byte before elsewhere. -/
theorem memGet_memPut {b : Byte} {a x : Nat} :
    ∀ {m : Mem} {lo : Nat}, memWfFrom lo m = true → memGet (memPut m a b) x = if x = a then b else memGet m x
  | [], _, _ => by
    unfold memPut
    split <;> rename_i hb <;> by_cases hx : x = a <;> simp [memGet, hx, hb]
  | (k, v) :: t, lo, h => by
    simp only [memWfFrom, Bool.and_eq_true, decide_eq_true_eq] at h
    have below : ∀ y, y ≤ k → memGet t y = emptyByte := fun y hy => memGet_below (Nat.lt_succ_of_le hy) h.2
    have ih := memGet_memPut (b := b) (a := a) (x := x) h.2
    unfold memPut
    split
    · subst a
      split
      · rename_i hb
        by_cases hx : x = k
        · simp [hx, hb, below k (Nat.le_refl k)]
        · by_cases hlt : x < k
          · simp [memGet, hx, hlt, below x (Nat.le_of_lt hlt)]
          · simp [memGet, hx, hlt]
      · by_cases hx : x = k <;> simp [memGet, hx]
    · rename_i hne
      split
      · rename_i hlt
        split
        · rename_i hb
          by_cases hx : x = a
          · subst x; simp [memGet, hne, hlt, hb]
          · simp [hx]
        · by_cases hx : x = a
          · simp [memGet, hx]
          · simp only [memGet, hx, if_false]
            by_cases h1 : x < a
            · have h2 : x < k := Nat.lt_trans h1 hlt
              simp [h1, h2, Nat.ne_of_lt h2]
            · simp [h1]
      · rename_i hge
        simp only [memGet]
        by_cases hxk : x = k
        · have : x ≠ a := fun e => hne (e.symm.trans hxk)
          simp [hxk] at this ⊢
          intro e; exact absurd e this
        · by_cases hlt : x < k
          · have : x ≠ a := by omega
            simp [hxk, hlt, this]
          · simp only [hxk, hlt, if_false]; exact ih

/-- A read after a write of a run of bytes: inside the run the byte written, outside the byte before. -/
theorem memGet_memPuts : ∀ {l : List Byte} {m : Mem} {a x : Nat}, Memory.wf m = true →
    memGet (memPuts m a l) x = if h : a ≤ x ∧ x < a + l.length then l[x - a]'(by omega) else memGet m x
  | [], m, a, x, _ => by simp [memPuts]
  | b :: l, m, a, x, h => by
    rw [memPuts, memGet_memPuts (memPut_wf h), memGet_memPut h]
    by_cases hx : x = a
    · subst x; simp
    · by_cases hr : a + 1 ≤ x ∧ x < a + 1 + l.length
      · have h2 : a ≤ x ∧ x < a + (b :: l).length := by simp; omega
        simp only [hr, h2, and_self, dite_true]
        have e : x - a = (x - (a + 1)) + 1 := by omega
        simp [e]
      · have h2 : ¬ (a ≤ x ∧ x < a + (b :: l).length) := by simp; omega
        rw [dif_neg hr, dif_neg h2, if_neg hx]

/-- Bytes outside the stored run are unchanged. -/
theorem wr_outside {s : State} {a x : Nat} {l : List Byte} (h : Memory.wf s.mem = true)
    (hx : x < a ∨ a + l.length ≤ x) : memGet (wr a l s).mem x = memGet s.mem x := by
  have : ¬ (a ≤ x ∧ x < a + l.length) := by omega
  rw [wr, memGet_memPuts h, dif_neg this]

/-- The bytes stored read back. -/
theorem rd_wr {s : State} {a : Nat} {l : List Byte} (h : Memory.wf s.mem = true) : rd (wr a l s) a l.length = l := by
  refine List.ext_getElem (by simp [rd, memGets]) fun i h₁ h₂ => ?_
  simp only [rd, memGets, wr, List.getElem_map, List.getElem_range]
  rw [memGet_memPuts h, dif_pos ⟨by omega, by omega⟩]
  simp

/-- Memory is canonical right after reset. -/
theorem reset_mem_wf : Memory.wf State.reset.mem = true := rfl

end Sys2Proof.Laws
end

