-- ==== Sys2Proof/Laws/HostMemory.lean ====
section
/-! SUPPORT. What a read of host memory answers: however its requests are split, the bytes of its range (R318). -/
namespace Sys2Proof.Laws
open Sys2Proof Machine

theorem rd_append (s : State) (a m n : Nat) : rd s a (m + n) = rd s a m ++ rd s (a + m) n := by
  simp [rd, memGets, List.range_add, Nat.add_assoc]

/-- The requests of a transfer cover its range, in order. -/
theorem hostReqs_read (s : State) (most : Nat) :
    ∀ n a : Nat, (hostReqs most n a n).flatMap (fun r => rd s (hostBase + r.addr) r.len) = rd s (hostBase + a) n := by
  suffices h : ∀ f n a : Nat, n ≤ f →
      (hostReqs most f a n).flatMap (fun r => rd s (hostBase + r.addr) r.len) = rd s (hostBase + a) n from
    fun n a => h n n a (Nat.le_refl n)
  intro f
  induction f with
  | zero => intro n a h; obtain rfl : n = 0 := by omega
            simp [hostReqs, rd, memGets]
  | succ f ih =>
    intro n a h
    unfold hostReqs
    split
    · rename_i h0; simp [h0, rd, memGets]
    · simp only [List.flatMap_cons]
      rw [ih _ _ (by omega), ← Nat.add_assoc, ← rd_append]
      congr 1; omega

/-- A read of host memory that does not fail answers the bytes of its range. -/
theorem hostRead_good {s : State} {a n : Nat} (h : hostBad s a n = false) :
    hostRead a n s = (some (rd s (hostBase + a) n), s) := by
  simp [hostRead, h, readReqs, hostReqs_read]

/-- A read of host memory that fails is reported and counted. -/
theorem hostRead_bad {s : State} {a n : Nat} (h : hostBad s a n = true) :
    hostRead a n s = (none, readFailed ((readReqs s a n).findSome? (reqFail s)) s) := by
  simp [hostRead, h]

end Sys2Proof.Laws
end

