-- ==== Sys2Proof/Laws/Kept.lean ====
section
/-! SUPPORT. What every operation keeps: the queue, the fuses, the canonical form of memory, the limits of the registers.
The relation itself; the files KeptOps to KeptHost give one lemma for each operation and each meaning. -/
namespace Sys2Proof.Laws
open Sys2Proof Machine Safety

/-- The register fields whose written values are brought into a range. -/
def limits (s : State) : DbRegs × BitVec 6 × BitVec 20 × BitVec 16 × BitVec 16 × BitVec 4 :=
  (s.db, s.agingSteps, s.epochUs, s.rdThreshold, s.patrolHours, s.host.version)

/-- What every operation keeps on its way from `s` to `t`: the queue, fuses that never go back, the canonical form of
memory, and the limits of the registers. -/
structure Kept (s t : State) : Prop where
  pending : t.pending = s.pending
  svn : s.nv.svn ≤ t.nv.svn
  revoked : s.nv.revoked &&& t.nv.revoked = s.nv.revoked
  mem : MemOk s → MemOk t
  fields : FieldsOk s → FieldsOk t

theorem Kept.refl (s : State) : Kept s s := ⟨rfl, Nat.le_refl _, by simp, id, id⟩

theorem Kept.trans {a b c : State} (h : Kept a b) (k : Kept b c) : Kept a c := by
  refine ⟨k.pending.trans h.pending, Nat.le_trans h.svn k.svn, ?_, fun m => k.mem (h.mem m), fun m => k.fields (h.fields m)⟩
  rw [← h.revoked, BitVec.and_assoc, k.revoked]

theorem Kept.upd {a t u : State} (h : Kept a t) (hp : u.pending = t.pending) (hn : u.nv = t.nv) (hm : u.mem = t.mem)
    (hf : limits u = limits t) : Kept a u := by
  refine h.trans ⟨hp, Nat.le_of_eq (by rw [hn]), by rw [hn]; exact BitVec.and_self, ?_, ?_⟩
  · unfold MemOk; rw [hm]; exact id
  · simp only [limits, Prod.mk.injEq] at hf
    obtain ⟨h1, h2, h3, h4, h5, h6⟩ := hf
    unfold FieldsOk; rw [h1, h2, h3, h4, h5, h6]; exact id

theorem Kept.foldl {α : Type} {a : State} {g : State → α → State} {l : List α} {i : State} (h : Kept a i)
    (hs : ∀ t x, Kept a t → Kept a (g t x)) : Kept a (l.foldl g i) := by
  induction l generalizing i with
  | nil => exact h
  | cons x l ih => exact ih (hs _ _ h)

theorem Kept.foldl2 {α β : Type} {a : State} {g : β × State → α → β × State} {l : List α} {i : β × State}
    (h : Kept a i.2) (hs : ∀ t x, Kept a t.2 → Kept a (g t x).2) : Kept a (l.foldl g i).2 := by
  induction l generalizing i with
  | nil => exact h
  | cons x l ih => exact ih (hs _ _ h)

theorem Kept.mems {a t u : State} (h : Kept a t) (hp : u.pending = t.pending) (hn : u.nv = t.nv)
    (hf : limits u = limits t) (hm : MemOk t → MemOk u) : Kept a u := by
  refine h.trans ⟨hp, Nat.le_of_eq (by rw [hn]), by rw [hn]; exact BitVec.and_self, hm, ?_⟩
  · simp only [limits, Prod.mk.injEq] at hf
    obtain ⟨h1, h2, h3, h4, h5, h6⟩ := hf
    unfold FieldsOk; rw [h1, h2, h3, h4, h5, h6]; exact id

/-- Parts of an answer: the state behind a value, ahead of one, or that an access leaves. -/
theorem Kept.snd {α : Type} {a t : State} {v : α} {x : α × State} (k : Kept a x.2) (e : x = (v, t)) : Kept a t := by
  subst e; exact k

theorem Kept.snd2 {α β : Type} {a t : State} {v : α} {w : β} {x : α × β × State} (k : Kept a x.2.2) (e : x = (v, w, t)) :
    Kept a t := by
  subst e; exact k

theorem Kept.snd3 {α β γ : Type} {a t : State} {v : α} {w : β} {y : γ} {x : α × β × γ × State} (k : Kept a x.2.2.2)
    (e : x = (v, w, y, t)) : Kept a t := by
  subst e; exact k

theorem Kept.fst {α : Type} {a t : State} {v : α} {x : State × α} (k : Kept a x.1) (e : x = (t, v)) : Kept a t := by
  subst e; exact k

theorem Kept.eqSnd {α : Type} {a : State} {x y : α × State} (k : Kept a x.2) (e : x = y) : Kept a y.2 := e ▸ k

theorem Kept.eqFst {α : Type} {a : State} {x y : State × α} (k : Kept a x.1) (e : x = y) : Kept a y.1 := e ▸ k

/-- The state an access leaves. -/
def accSt : Access → State
  | .go _ s => s
  | .wait f => f.1
  | .lost s => s
  | .fault s => s

theorem accSt_go {ps : List (Nat × Nat)} {s : State} : accSt (.go ps s) = s := rfl
theorem accSt_wait {f : Fired} : accSt (.wait f) = f.1 := rfl
theorem accSt_lost {s : State} : accSt (.lost s) = s := rfl
theorem accSt_fault {s : State} : accSt (.fault s) = s := rfl

theorem Kept.go {a t : State} {x : Access} {ps : List (Nat × Nat)} (k : Kept a (accSt x)) (e : x = .go ps t) : Kept a t := by
  subst e; exact k

theorem Kept.wait {a : State} {x : Access} {f : Fired} (k : Kept a (accSt x)) (e : x = .wait f) : Kept a f.1 := by
  subst e; exact k

theorem Kept.lost {a t : State} {x : Access} (k : Kept a (accSt x)) (e : x = .lost t) : Kept a t := by subst e; exact k

theorem Kept.fault {a t : State} {x : Access} (k : Kept a (accSt x)) (e : x = .fault t) : Kept a t := by subst e; exact k

theorem Kept.eqAcc {a : State} {x y : Access} (k : Kept a (accSt x)) (e : x = y) : Kept a (accSt y) := e ▸ k

theorem Kept.sndGo {α : Type} {a t : State} {v : α} {x : α × Access} {ps : List (Nat × Nat)} (k : Kept a (accSt x.2))
    (e : x = (v, .go ps t)) : Kept a t := by
  subst e; exact k

theorem Kept.sndAcc {α : Type} {a : State} {v : α} {y : Access} {x : α × Access} (k : Kept a (accSt x.2)) (e : x = (v, y)) :
    Kept a (accSt y) := by
  subst e; exact k

/-- The state a turn of pages leaves. -/
def turnSt : PageTurn → State
  | .ready s => s
  | .wait s => s
  | .gone s => s

theorem turnSt_ready {s : State} : turnSt (.ready s) = s := rfl
theorem turnSt_wait {s : State} : turnSt (.wait s) = s := rfl
theorem turnSt_gone {s : State} : turnSt (.gone s) = s := rfl

theorem Kept.turn {a t : State} {x : PageTurn} (k : Kept a (turnSt x)) (e : x = .ready t ∨ x = .wait t ∨ x = .gone t) :
    Kept a t := by
  rcases e with e | e | e <;> (subst e; exact k)

/-- An optional answer's state. -/
theorem Kept.ofSome {a t u : State} (k : Kept a t) (e : some t = some u) : Kept a u := by cases e; exact k

theorem Kept.ofNone {a u : State} (e : (none : Option State) = some u) : Kept a u := by cases e

theorem Kept.ofFind {α : Type} {a u : State} {l : List α} {f : α → Option State} (h : ∀ x t, f x = some t → Kept a t)
    (e : l.findSome? f = some u) : Kept a u := by
  obtain ⟨x, -, hx⟩ := List.exists_of_findSome?_eq_some e
  exact h x u hx

theorem Kept.getD {a t : State} {x : Option State} (h : Kept a t) (hx : ∀ u, x = some u → Kept a u) : Kept a (x.getD t) := by
  cases x with
  | none => exact h
  | some u => exact hx u rfl

theorem Kept.put {a t : State} {now' : BitVec 64} {freeCtr' : Nat} {home' : List (Nat × Nat)} {units' : Tbl KUnit}
    {signals' : List SemRef} {lists' : Tbl WorkList} {posted' : List (Nat × Nat × Rec64)} {claims' : Tbl (List
    Claim)} {reducers' : Tbl Reducer} {hanks' : Tbl Hank} {hostPins' : Tbl Nat} {allocs' : List AllocWait}
    {nextEpoch' : Nat} {moves' : List MoveRec} {nextId' : Nat} {stackTbl' : Tbl Stack} {panels' : Tbl Panel}
    {catalogue' : List CatEntry} {slots' : Tbl Slot} {clients' : Tbl Client} {sched' : Option Schedule} {schedNext'
    : Option (Option Schedule)} {schedStart' : BitVec 64} {rings' : Tbl Ring} {ringRegs' : RingRegs} {irq' :
    IrqRegs} {urgentUs' : BitVec 16} {host' : HostFn} {admin' : List AdminCmd} {adminWait' : List Rec64} {latches' :
    List (Nat × BitVec 32)} {bus' : Reply} {outbox' : List Out} {mbx' : Mbx} {links' : Links} {ply' : Ply} {power' :
    Power} {boot' : Boot} {tap' : Tap} {ctrs' : List (Ctr × Nat)} (h : Kept a t) (hv : host'.version =
    t.host.version) : Kept a ⟨t.pending, now', freeCtr', t.mem, home', units', signals', lists', posted', claims',
    reducers', hanks', hostPins', allocs', nextEpoch', moves', nextId', stackTbl', panels', catalogue', slots',
    clients', sched', schedNext', schedStart', rings', ringRegs', t.db, irq', t.agingSteps, urgentUs', t.epochUs,
    t.rdThreshold, t.patrolHours, host', admin', adminWait', latches', bus', outbox', mbx', links', ply', power',
    boot', t.nv, tap', ctrs'⟩ :=
  h.upd rfl rfl rfl (by simp only [limits, hv])

theorem Kept.putMem {a t : State} {now' : BitVec 64} {freeCtr' : Nat} {mem' : Mem} {home' : List (Nat × Nat)}
    {units' : Tbl KUnit} {signals' : List SemRef} {lists' : Tbl WorkList} {posted' : List (Nat × Nat × Rec64)}
    {claims' : Tbl (List Claim)} {reducers' : Tbl Reducer} {hanks' : Tbl Hank} {hostPins' : Tbl Nat} {allocs' : List
    AllocWait} {nextEpoch' : Nat} {moves' : List MoveRec} {nextId' : Nat} {stackTbl' : Tbl Stack} {panels' : Tbl
    Panel} {catalogue' : List CatEntry} {slots' : Tbl Slot} {clients' : Tbl Client} {sched' : Option Schedule}
    {schedNext' : Option (Option Schedule)} {schedStart' : BitVec 64} {rings' : Tbl Ring} {ringRegs' : RingRegs}
    {irq' : IrqRegs} {urgentUs' : BitVec 16} {host' : HostFn} {admin' : List AdminCmd} {adminWait' : List Rec64}
    {latches' : List (Nat × BitVec 32)} {bus' : Reply} {outbox' : List Out} {mbx' : Mbx} {links' : Links} {ply' :
    Ply} {power' : Power} {boot' : Boot} {tap' : Tap} {ctrs' : List (Ctr × Nat)} (h : Kept a t) (hv : host'.version
    = t.host.version) (hm : MemOk t → Memory.wf mem' = true) : Kept a ⟨t.pending, now', freeCtr', mem', home',
    units', signals', lists', posted', claims', reducers', hanks', hostPins', allocs', nextEpoch', moves', nextId',
    stackTbl', panels', catalogue', slots', clients', sched', schedNext', schedStart', rings', ringRegs', t.db,
    irq', t.agingSteps, urgentUs', t.epochUs, t.rdThreshold, t.patrolHours, host', admin', adminWait', latches',
    bus', outbox', mbx', links', ply', power', boot', t.nv, tap', ctrs'⟩ :=
  h.mems rfl rfl (by simp only [limits, hv]) hm

end Sys2Proof.Laws
end

