-- ==== Sys2Proof/Laws/KeptOps.lean ====
section
/-! SUPPORT. What the shared operations keep (Kept). -/
namespace Sys2Proof.Laws
open Sys2Proof Machine Safety

/-! ## Flags -/

theorem bump_kept {s0 : State} {c : Ctr} {n : Nat} {s : State} (h : Kept s0 s) : Kept s0 (bump c n s) := by
  unfold bump
  repeat' (first
    | with_reducible assumption | (fail_if_no_progress with_reducible (refine Kept.put ?_ rfl)))

theorem highWater_kept {s0 : State} {c : Ctr} {n : Nat} {s : State} (h : Kept s0 s) : Kept s0 (highWater c n s) := by
  unfold highWater
  repeat' (first
    | with_reducible assumption | (fail_if_no_progress with_reducible (refine Kept.put ?_ rfl)) | split)

theorem clearCtrs_kept {s0 : State} {p : Ctr → Bool} {s : State} (h : Kept s0 s) : Kept s0 (clearCtrs p s) := by
  unfold clearCtrs
  repeat' (first
    | with_reducible assumption | (fail_if_no_progress with_reducible (refine Kept.put ?_ rfl)))

theorem freeNat_kept {s0 s : State} (h : Kept s0 s) : Kept s0 ((freeNat s).2) := by
  unfold freeNat
  repeat' (first
    | with_reducible assumption | (fail_if_no_progress with_reducible (refine Kept.put ?_ rfl)))

theorem emitOut_kept {s0 : State} {o : Out} {s : State} (h : Kept s0 s) : Kept s0 (emitOut o s) := by
  unfold emitOut
  repeat' (first
    | with_reducible assumption | (fail_if_no_progress with_reducible (refine Kept.put ?_ rfl)))

theorem answer_kept {s0 : State} {r : Reply} {s : State} (h : Kept s0 s) : Kept s0 (answer r s) := by
  unfold answer
  repeat' (first
    | with_reducible assumption | (fail_if_no_progress with_reducible (refine Kept.put ?_ rfl)))

/-! ## Ops -/

theorem wr_kept {s0 s : State} {a : Nat} {l : List Byte} (h : Kept s0 s) : Kept s0 (wr a l s) :=
  Kept.putMem h rfl memPuts_wf

theorem clearRange_kept {s0 : State} {a n : Nat} {s : State} (h : Kept s0 s) : Kept s0 (clearRange a n s) := by
  unfold clearRange
  repeat' (first
    | with_reducible assumption | (fail_if_no_progress with_reducible (refine Kept.putMem ?_ rfl (fun m => ?_)))
    | exact memPutCells_wf (memClear_wf m) | exact memClear_wf m)

theorem fillRange_kept {s0 : State} {a n : Nat} {b : Byte} {s : State} (h : Kept s0 s) :
    Kept s0 (fillRange a n b s) := by
  unfold fillRange
  repeat' (first
    | with_reducible assumption | (fail_if_no_progress with_reducible (refine Kept.putMem ?_ rfl (fun m => ?_)))
    | exact memPutCells_wf (memClear_wf m) | exact memClear_wf m | exact memCopy_wf m | exact memFill_wf m)

theorem putCells_kept {s0 : State} {l : List (Nat × Byte)} {s : State} (h : Kept s0 s) : Kept s0 (putCells l s) := by
  unfold putCells
  repeat' (first
    | with_reducible assumption | (fail_if_no_progress with_reducible (refine Kept.putMem ?_ rfl (fun m => ?_)))
    | exact memPutCells_wf (memClear_wf m) | exact memClear_wf m | exact memCopy_wf m | exact memFill_wf m
    | exact memPutCells_wf m)

theorem copyRange_kept {s0 : State} {src dst n : Nat} {s : State} (h : Kept s0 s) :
    Kept s0 (copyRange src dst n s) := by
  unfold copyRange
  repeat' (first
    | with_reducible assumption | (fail_if_no_progress with_reducible (refine Kept.putMem ?_ rfl (fun m => ?_)))
    | exact memPutCells_wf (memClear_wf m))

theorem makeHome_kept {s0 : State} {a n : Nat} {s : State} (h : Kept s0 s) : Kept s0 (makeHome a n s) := by
  unfold makeHome
  repeat' (first
    | with_reducible assumption | (fail_if_no_progress with_reducible (refine Kept.put ?_ rfl)))

theorem makeHomeless_kept {s0 : State} {a n : Nat} {s : State} (h : Kept s0 s) : Kept s0 (makeHomeless a n s) := by
  unfold makeHomeless
  repeat' (first
    | with_reducible assumption | (fail_if_no_progress with_reducible (refine Kept.put ?_ rfl)))

theorem setHostPins_kept {s0 : State} {k n : Nat} {s : State} (h : Kept s0 s) : Kept s0 (setHostPins k n s) := by
  unfold setHostPins
  repeat' (first
    | with_reducible assumption | (fail_if_no_progress with_reducible (refine Kept.put ?_ rfl)))

theorem takeHank_kept {s0 : State} {k : Nat} {o : Option Nat} {pin : Bool} {s : State} (h : Kept s0 s) :
    Kept s0 (takeHank k o pin s) := by
  unfold takeHank
  repeat' (first
    | with_reducible assumption | with_reducible refine makeHome_kept ?_
    | (fail_if_no_progress with_reducible (refine Kept.put ?_ rfl)))

theorem freeHank_kept {s0 : State} {k : Nat} {s : State} (h : Kept s0 s) : Kept s0 (freeHank k s) := by
  unfold freeHank
  repeat' (first
    | with_reducible assumption | with_reducible refine makeHomeless_kept ?_
    | (fail_if_no_progress with_reducible (refine Kept.put ?_ rfl)))

theorem modHank_kept {s0 : State} {k : Nat} {f : Hank → Hank} {s : State} (h : Kept s0 s) :
    Kept s0 (modHank k f s) := by
  unfold modHank
  repeat' (first
    | with_reducible assumption | (fail_if_no_progress with_reducible (refine Kept.put ?_ rfl)) | split)

theorem devPin_kept {s0 : State} {k : Nat} {s : State} (h : Kept s0 s) : Kept s0 (devPin k s) := by
  unfold devPin
  repeat' (first
    | with_reducible assumption | with_reducible refine modHank_kept ?_)

theorem devUnpin_kept {s0 : State} {k : Nat} {s : State} (h : Kept s0 s) : Kept s0 (devUnpin k s) := by
  unfold devUnpin
  repeat' (first
    | with_reducible assumption | with_reducible refine modHank_kept ?_)

theorem touch_kept {s0 : State} {a n : Nat} {s : State} (h : Kept s0 s) : Kept s0 (touch a n s) := by
  unfold touch
  repeat' (first
    | with_reducible assumption | with_reducible refine modHank_kept ?_
    | with_reducible (refine Kept.foldl ?_ (fun _ _ _ => ?_)) | split)

theorem syncHanks_kept {s0 : State} {a n : Nat} {o : Option Nat} {s : State} (h : Kept s0 s) :
    Kept s0 (syncHanks a n o s) := by
  unfold syncHanks
  repeat' (first
    | with_reducible assumption | with_reducible (refine Kept.foldl ?_ (fun _ _ _ => ?_))
    | (fail_if_no_progress with_reducible (refine Kept.put ?_ rfl)) | split | (dsimp only))

theorem setStack_kept {s0 : State} {st : Nat} {x : Stack} {s : State} (h : Kept s0 s) :
    Kept s0 (setStack st x s) := by
  unfold setStack
  repeat' (first
    | with_reducible assumption | (fail_if_no_progress with_reducible (refine Kept.put ?_ rfl)))

theorem modStack_kept {s0 : State} {st : Nat} {f : Stack → Stack} {s : State} (h : Kept s0 s) :
    Kept s0 (modStack st f s) := by
  unfold modStack
  repeat' (first
    | with_reducible assumption | with_reducible refine setStack_kept ?_)

theorem modT3_kept {s0 : State} {st : Nat} {f : T3Stack → T3Stack} {s : State} (h : Kept s0 s) :
    Kept s0 (modT3 st f s) := by
  unfold modT3
  repeat' (first
    | with_reducible assumption | with_reducible refine modStack_kept ?_)

theorem releaseT3_kept {s0 : State} {a n : Nat} {s : State} (h : Kept s0 s) : Kept s0 (releaseT3 a n s) := by
  unfold releaseT3
  repeat' (first
    | with_reducible assumption | with_reducible refine modT3_kept ?_)

theorem sendMsix_kept {s0 : State} {vec : Nat} {s : State} (h : Kept s0 s) : Kept s0 (sendMsix vec s) := by
  unfold sendMsix
  repeat' (first
    | with_reducible assumption | with_reducible refine bump_kept ?_ | with_reducible refine emitOut_kept ?_
    | (fail_if_no_progress with_reducible (refine Kept.put ?_ rfl)) | split)

theorem raiseCause_kept {s0 : State} {bit : Nat} {s : State} (h : Kept s0 s) : Kept s0 (raiseCause bit s) := by
  unfold raiseCause
  repeat' (first
    | with_reducible assumption | with_reducible refine sendMsix_kept ?_
    | (fail_if_no_progress with_reducible (refine Kept.put ?_ rfl)) | split | (dsimp only))

theorem setT3State_kept {s0 : State} {st v : Nat} {s : State} (h : Kept s0 s) : Kept s0 (setT3State st v s) := by
  unfold setT3State
  repeat' (first
    | with_reducible assumption | with_reducible refine modT3_kept ?_ | with_reducible refine raiseCause_kept ?_
    | split)

theorem submitEvict_kept {s0 : State} {k : Nat} {s : State} (h : Kept s0 s) : Kept s0 (submitEvict k s) := by
  unfold submitEvict
  repeat' (first
    | with_reducible assumption | with_reducible refine modHank_kept ?_
    | (fail_if_no_progress with_reducible (refine Kept.put ?_ rfl)))

theorem submitReturn_kept {s0 : State} {p area hank t3 : Nat} {tier2 : Bool} {s : State} (h : Kept s0 s) :
    Kept s0 (submitReturn p area hank t3 tier2 s) := by
  unfold submitReturn
  repeat' (first
    | with_reducible assumption | (fail_if_no_progress with_reducible (refine Kept.put ?_ rfl)) | split)

theorem setAlloc_kept {s0 : State} {a : AllocWait} {s : State} (h : Kept s0 s) : Kept s0 (setAlloc a s) := by
  unfold setAlloc
  repeat' (first
    | with_reducible assumption | (fail_if_no_progress with_reducible (refine Kept.put ?_ rfl)))

theorem dropAlloc_kept {s0 : State} {who : Taker} {s : State} (h : Kept s0 s) : Kept s0 (dropAlloc who s) := by
  unfold dropAlloc
  repeat' (first
    | with_reducible assumption | (fail_if_no_progress with_reducible (refine Kept.put ?_ rfl)))

theorem countWait_kept {s0 : State} {who : Taker} {st : Nat} {s : State} (h : Kept s0 s) :
    Kept s0 (countWait who st s) := by
  unfold countWait
  repeat' (first
    | with_reducible assumption | with_reducible refine bump_kept ?_ | with_reducible refine setAlloc_kept ?_
    | split | (dsimp only))

theorem evictFor_kept {s0 : State} {who : Taker} {v : Nat} {s : State} (h : Kept s0 s) :
    Kept s0 ((evictFor who v s).2) := by
  unfold evictFor
  repeat' (first
    | with_reducible assumption | with_reducible refine countWait_kept ?_ | with_reducible refine setAlloc_kept ?_
    | with_reducible refine submitEvict_kept ?_ | split)

theorem allocBy_kept {s0 : State} {who : Taker} {free victim o : Option Nat} {pin coming : Bool} {s : State} (h :
    Kept s0 s) : Kept s0 ((allocBy who free victim o pin coming s).2) := by
  unfold allocBy
  repeat' (first
    | with_reducible assumption | with_reducible refine countWait_kept ?_
    | with_reducible refine dropAlloc_kept ?_ | with_reducible refine evictFor_kept ?_
    | with_reducible refine takeHank_kept ?_ | split)

theorem allocTry_kept {s0 : State} {who : Taker} {tier : Nat} {o : Option Nat} {pin : Bool} {s : State} (h :
    Kept s0 s) : Kept s0 ((allocTry who tier o pin s).2) := by
  unfold allocTry
  repeat' (first
    | with_reducible assumption | with_reducible refine allocBy_kept ?_)

theorem allocSpill_kept {s0 : State} {who : Taker} {o : Option Nat} {s : State} (h : Kept s0 s) :
    Kept s0 ((allocSpill who o s).2) := by
  unfold allocSpill
  repeat' (first
    | with_reducible assumption | with_reducible refine allocTry_kept ?_ | split)

theorem lookCtr_kept {s0 : State} {c : Nat → Ctr} {p : Option Nat} {s : State} (h : Kept s0 s) :
    Kept s0 (lookCtr c p s) := by
  unfold lookCtr
  repeat' (first
    | with_reducible assumption | with_reducible refine Kept.snd ?_ (by assumption)
    | with_reducible refine Kept.fst ?_ (by assumption) | with_reducible refine Kept.snd2 ?_ (by assumption)
    | with_reducible refine Kept.snd3 ?_ (by assumption) | with_reducible refine Kept.eqSnd ?_ (by assumption)
    | with_reducible refine Kept.eqFst ?_ (by assumption) | with_reducible refine bump_kept ?_
    | with_reducible (refine Kept.foldl ?_ (fun _ _ _ => ?_))
    | with_reducible (refine Kept.foldl2 ?_ (fun _ _ _ => ?_))
    | (fail_if_no_progress with_reducible (refine Kept.put ?_ rfl)) | split | (dsimp only))

theorem cacheLook_kept {s0 : State} {p : Option Nat} {mask a : Nat} {s : State} (h : Kept s0 s) :
    Kept s0 (cacheLook p mask a s) := by
  unfold cacheLook
  repeat' (first
    | with_reducible assumption | with_reducible refine Kept.snd ?_ (by assumption)
    | with_reducible refine Kept.fst ?_ (by assumption) | with_reducible refine Kept.snd2 ?_ (by assumption)
    | with_reducible refine Kept.snd3 ?_ (by assumption) | with_reducible refine Kept.eqSnd ?_ (by assumption)
    | with_reducible refine Kept.eqFst ?_ (by assumption) | with_reducible refine lookCtr_kept ?_
    | with_reducible refine setStack_kept ?_ | with_reducible (refine Kept.foldl ?_ (fun _ _ _ => ?_))
    | with_reducible (refine Kept.foldl2 ?_ (fun _ _ _ => ?_))
    | (fail_if_no_progress with_reducible (refine Kept.put ?_ rfl)) | split | (dsimp only))

theorem cacheReads_kept {s0 : State} {p a n : Nat} {s : State} (h : Kept s0 s) : Kept s0 (cacheReads p a n s) := by
  unfold cacheReads
  repeat' (first
    | with_reducible assumption | with_reducible refine cacheLook_kept ?_
    | with_reducible (refine Kept.foldl ?_ (fun _ _ _ => ?_)) | split)

theorem cacheLooks_kept {s0 : State} {p : Option Nat} {a n : Nat} {s : State} (h : Kept s0 s) :
    Kept s0 (cacheLooks p a n s) := by
  unfold cacheLooks
  repeat' (first
    | with_reducible assumption | with_reducible refine Kept.snd ?_ (by assumption)
    | with_reducible refine Kept.fst ?_ (by assumption) | with_reducible refine Kept.snd2 ?_ (by assumption)
    | with_reducible refine Kept.snd3 ?_ (by assumption) | with_reducible refine Kept.eqSnd ?_ (by assumption)
    | with_reducible refine Kept.eqFst ?_ (by assumption) | with_reducible refine cacheLook_kept ?_
    | with_reducible (refine Kept.foldl ?_ (fun _ _ _ => ?_))
    | with_reducible (refine Kept.foldl2 ?_ (fun _ _ _ => ?_))
    | (fail_if_no_progress with_reducible (refine Kept.put ?_ rfl)) | split | (dsimp only))

theorem cacheDrop_kept {s0 : State} {f : Nat → CacheLine → Bool} {s : State} (h : Kept s0 s) :
    Kept s0 (cacheDrop f s) := by
  unfold cacheDrop
  repeat' (first
    | with_reducible assumption | (fail_if_no_progress with_reducible (refine Kept.put ?_ rfl)))

theorem setUnit_kept {s0 : State} {u : Nat} {x : KUnit} {s : State} (h : Kept s0 s) : Kept s0 (setUnit u x s) := by
  unfold setUnit
  repeat' (first
    | with_reducible assumption | (fail_if_no_progress with_reducible (refine Kept.put ?_ rfl)))

theorem modUnit_kept {s0 : State} {u : Nat} {f : KUnit → KUnit} {s : State} (h : Kept s0 s) :
    Kept s0 (modUnit u f s) := by
  unfold modUnit
  repeat' (first
    | with_reducible assumption | with_reducible refine setUnit_kept ?_)

theorem setPanel_kept {s0 : State} {p : Nat} {x : Panel} {s : State} (h : Kept s0 s) : Kept s0 (setPanel p x s) := by
  unfold setPanel
  repeat' (first
    | with_reducible assumption | (fail_if_no_progress with_reducible (refine Kept.put ?_ rfl)))

theorem modPanel_kept {s0 : State} {p : Nat} {f : Panel → Panel} {s : State} (h : Kept s0 s) :
    Kept s0 (modPanel p f s) := by
  unfold modPanel
  repeat' (first
    | with_reducible assumption | with_reducible refine setPanel_kept ?_ | split)

theorem modCast_kept {s0 : State} {p : Nat} {f : Cast → Cast} {s : State} (h : Kept s0 s) :
    Kept s0 (modCast p f s) := by
  unfold modCast
  repeat' (first
    | with_reducible assumption | with_reducible refine modPanel_kept ?_)

theorem sendSignals_kept {s0 : State} {l : List SemRef} {s : State} (h : Kept s0 s) : Kept s0 (sendSignals l s) := by
  unfold sendSignals
  repeat' (first
    | with_reducible assumption | (fail_if_no_progress with_reducible (refine Kept.put ?_ rfl)))

theorem putBytes_kept {s0 : State} {a : Nat} {l : List Byte} {s : State} (h : Kept s0 s) :
    Kept s0 (putBytes a l s) := by
  unfold putBytes
  repeat' (first
    | with_reducible assumption | with_reducible refine Kept.snd ?_ (by assumption)
    | with_reducible refine Kept.fst ?_ (by assumption) | with_reducible refine Kept.snd2 ?_ (by assumption)
    | with_reducible refine Kept.snd3 ?_ (by assumption) | with_reducible refine Kept.eqSnd ?_ (by assumption)
    | with_reducible refine Kept.eqFst ?_ (by assumption) | with_reducible refine bump_kept ?_
    | with_reducible refine wr_kept ?_ | with_reducible (refine Kept.foldl ?_ (fun _ _ _ => ?_))
    | with_reducible (refine Kept.foldl2 ?_ (fun _ _ _ => ?_))
    | (fail_if_no_progress with_reducible (refine Kept.put ?_ rfl)) | split | (dsimp only))

theorem areaPut_kept {s0 : State} {c : Cast} {id off : Nat} {l : List Byte} {s : State} (h : Kept s0 s) :
    Kept s0 (areaPut c id off l s) := by
  unfold areaPut
  repeat' (first
    | with_reducible assumption | with_reducible refine Kept.snd ?_ (by assumption)
    | with_reducible refine Kept.fst ?_ (by assumption) | with_reducible refine Kept.snd2 ?_ (by assumption)
    | with_reducible refine Kept.snd3 ?_ (by assumption) | with_reducible refine Kept.eqSnd ?_ (by assumption)
    | with_reducible refine Kept.eqFst ?_ (by assumption) | with_reducible refine putBytes_kept ?_
    | with_reducible (refine Kept.foldl ?_ (fun _ _ _ => ?_))
    | with_reducible (refine Kept.foldl2 ?_ (fun _ _ _ => ?_))
    | (fail_if_no_progress with_reducible (refine Kept.put ?_ rfl)) | split | (dsimp only))

theorem areaWrite_kept {s0 : State} {c : Cast} {id off : Nat} {l : List Byte} {s : State} (h : Kept s0 s) :
    Kept s0 (areaWrite c id off l s) := by
  unfold areaWrite
  repeat' (first
    | with_reducible assumption | with_reducible refine Kept.snd ?_ (by assumption)
    | with_reducible refine Kept.fst ?_ (by assumption) | with_reducible refine Kept.snd2 ?_ (by assumption)
    | with_reducible refine Kept.snd3 ?_ (by assumption) | with_reducible refine Kept.eqSnd ?_ (by assumption)
    | with_reducible refine Kept.eqFst ?_ (by assumption) | with_reducible refine areaPut_kept ?_
    | with_reducible refine touch_kept ?_ | with_reducible (refine Kept.foldl ?_ (fun _ _ _ => ?_))
    | with_reducible (refine Kept.foldl2 ?_ (fun _ _ _ => ?_))
    | (fail_if_no_progress with_reducible (refine Kept.put ?_ rfl)) | split | (dsimp only))

/-! ## LinkOps -/

theorem setPort_kept {s0 : State} {p : Nat} {x : Port} {s : State} (h : Kept s0 s) : Kept s0 (setPort p x s) := by
  unfold setPort
  repeat' (first
    | with_reducible assumption | (fail_if_no_progress with_reducible (refine Kept.put ?_ rfl)))

theorem modPort_kept {s0 : State} {p : Nat} {f : Port → Port} {s : State} (h : Kept s0 s) :
    Kept s0 (modPort p f s) := by
  unfold modPort
  repeat' (first
    | with_reducible assumption | with_reducible refine setPort_kept ?_)

theorem stampFlit_kept {s0 : State} {p kind slots seq ch0 ch1 body : Nat} {s : State} (h : Kept s0 s) :
    Kept s0 ((stampFlit p kind slots seq ch0 ch1 body s).2) := by
  unfold stampFlit
  repeat' (first
    | with_reducible assumption | with_reducible refine Kept.snd ?_ (by assumption)
    | with_reducible refine Kept.fst ?_ (by assumption) | with_reducible refine Kept.snd2 ?_ (by assumption)
    | with_reducible refine Kept.snd3 ?_ (by assumption) | with_reducible refine Kept.eqSnd ?_ (by assumption)
    | with_reducible refine Kept.eqFst ?_ (by assumption) | with_reducible refine setPort_kept ?_
    | with_reducible (refine Kept.foldl ?_ (fun _ _ _ => ?_))
    | with_reducible (refine Kept.foldl2 ?_ (fun _ _ _ => ?_))
    | (fail_if_no_progress with_reducible (refine Kept.put ?_ rfl)) | split | (dsimp only))

theorem sendFlit_kept {s0 : State} {p kind slots seq ch0 ch1 body : Nat} {s : State} (h : Kept s0 s) :
    Kept s0 (sendFlit p kind slots seq ch0 ch1 body s) := by
  unfold sendFlit
  repeat' (first
    | with_reducible assumption | with_reducible refine Kept.snd ?_ (by assumption)
    | with_reducible refine Kept.fst ?_ (by assumption) | with_reducible refine Kept.snd2 ?_ (by assumption)
    | with_reducible refine Kept.snd3 ?_ (by assumption) | with_reducible refine Kept.eqSnd ?_ (by assumption)
    | with_reducible refine Kept.eqFst ?_ (by assumption) | with_reducible refine emitOut_kept ?_
    | with_reducible refine modPort_kept ?_ | with_reducible refine stampFlit_kept ?_
    | with_reducible (refine Kept.foldl ?_ (fun _ _ _ => ?_))
    | with_reducible (refine Kept.foldl2 ?_ (fun _ _ _ => ?_))
    | (fail_if_no_progress with_reducible (refine Kept.put ?_ rfl)) | split | (dsimp only))

theorem sendSlot_kept {s0 : State} {p ch ty : Nat} {b : Beat} {s : State} (h : Kept s0 s) :
    Kept s0 (sendSlot p ch ty b s) := by
  unfold sendSlot
  repeat' (first
    | with_reducible assumption | with_reducible refine sendFlit_kept ?_ | with_reducible refine setPort_kept ?_)

theorem drainService_kept {s0 : State} {p fuel : Nat} {x2 : State} (h : Kept s0 x2) :
    Kept s0 (drainService p fuel x2) := by
  fun_induction drainService p fuel x2 <;> (repeat' (first
    | with_reducible assumption | with_reducible refine sendSlot_kept ?_ | with_reducible refine setPort_kept ?_
    | with_reducible apply_assumption -exfalso))

theorem sendService_kept {s0 : State} {p : Nat} {x1 : Rec64} {data : List Byte} {s : State} (h : Kept s0 s) :
    Kept s0 (sendService p x1 data s) := by
  unfold sendService
  repeat' (first
    | with_reducible assumption | with_reducible refine drainService_kept ?_
    | with_reducible refine modPort_kept ?_)

theorem lifelineMsg_kept {s0 : State} {bulk : Bool} {data : List Byte} {toks : List (Nat × Nat)} {s : State} (h :
    Kept s0 s) : Kept s0 (lifelineMsg bulk data toks s) := by
  unfold lifelineMsg
  repeat' (first
    | with_reducible assumption | with_reducible refine sendService_kept ?_
    | (fail_if_no_progress with_reducible (refine Kept.put ?_ rfl)))

theorem lifelineDrain_kept {s0 : State} {fuel : Nat} {x1 : State} (h : Kept s0 x1) :
    Kept s0 (lifelineDrain fuel x1) := by
  fun_induction lifelineDrain fuel x1 <;> (repeat' (first
    | with_reducible assumption | with_reducible refine lifelineMsg_kept ?_
    | (fail_if_no_progress with_reducible (refine Kept.put ?_ rfl)) | with_reducible apply_assumption -exfalso))

theorem lifelineRecs_kept {s0 : State} {recs : List Rec64} {toks : List (Nat × Nat)} {s : State} (h :
    Kept s0 s) : Kept s0 (lifelineRecs recs toks s) := by
  unfold lifelineRecs
  repeat' (first
    | with_reducible assumption | with_reducible refine lifelineDrain_kept ?_
    | (fail_if_no_progress with_reducible (refine Kept.put ?_ rfl)) | split)

theorem lifelineBulk_kept {s0 : State} {bytes : List Byte} {s : State} (h : Kept s0 s) :
    Kept s0 (lifelineBulk bytes s) := by
  unfold lifelineBulk
  repeat' (first
    | with_reducible assumption | with_reducible refine lifelineDrain_kept ?_
    | (fail_if_no_progress with_reducible (refine Kept.put ?_ rfl)) | split)

theorem setSlot_kept {s0 : State} {i : Nat} {x : Slot} {s : State} (h : Kept s0 s) : Kept s0 (setSlot i x s) := by
  unfold setSlot
  repeat' (first
    | with_reducible assumption | (fail_if_no_progress with_reducible (refine Kept.put ?_ rfl)))

theorem modSlot_kept {s0 : State} {i : Nat} {f : Slot → Slot} {s : State} (h : Kept s0 s) :
    Kept s0 (modSlot i f s) := by
  unfold modSlot
  repeat' (first
    | with_reducible assumption | with_reducible refine setSlot_kept ?_ | split)

theorem slotRecs_kept {s0 : State} {i : Nat} {bodies : List (Nat × List (Nat × Nat × Nat))}
    {toks : List (Nat × Nat)} {s : State} (h : Kept s0 s) : Kept s0 (slotRecs i bodies toks s) := by
  unfold slotRecs
  repeat' (first
    | with_reducible assumption | with_reducible refine lifelineRecs_kept ?_
    | with_reducible refine setSlot_kept ?_ | split)

theorem slotChanged_kept {s0 : State} {i : Nat} {s : State} (h : Kept s0 s) : Kept s0 (slotChanged i s) := by
  unfold slotChanged
  repeat' (first
    | with_reducible assumption | with_reducible refine slotRecs_kept ?_ | split)

theorem openSlot_kept {s0 : State} {i : Nat} {s : State} (h : Kept s0 s) : Kept s0 (openSlot i s) := by
  unfold openSlot
  repeat' (first
    | with_reducible assumption | with_reducible refine slotRecs_kept ?_ | split)

theorem openTokens_kept {s0 : State} {i : Nat} {s : State} (h : Kept s0 s) : Kept s0 (openTokens i s) := by
  unfold openTokens
  repeat' (first
    | with_reducible assumption | with_reducible refine slotRecs_kept ?_ | split)

theorem sendBulk_kept {s0 : State} {i what page layer group : Nat} {bytes : List Byte} {s : State} (h :
    Kept s0 s) : Kept s0 (sendBulk i what page layer group bytes s) := by
  unfold sendBulk
  repeat' (first
    | with_reducible assumption | with_reducible refine lifelineBulk_kept ?_
    | with_reducible refine slotRecs_kept ?_ | split)

theorem returnSummary_kept {s0 : State} {i : Nat} {s : State} (h : Kept s0 s) : Kept s0 (returnSummary i s) := by
  unfold returnSummary
  repeat' (first
    | with_reducible assumption | with_reducible refine submitReturn_kept ?_ | split)

theorem sendSummary_kept {s0 : State} {i : Nat} {s : State} (h : Kept s0 s) : Kept s0 (sendSummary i s) := by
  unfold sendSummary
  repeat' (first
    | with_reducible assumption | with_reducible refine returnSummary_kept ?_
    | with_reducible refine sendBulk_kept ?_ | with_reducible refine setSlot_kept ?_
    | with_reducible refine touch_kept ?_ | split)

theorem snapshot_kept {s0 : State} {i : Nat} {s : State} (h : Kept s0 s) : Kept s0 (snapshot i s) := by
  unfold snapshot
  repeat' (first
    | with_reducible assumption | with_reducible refine Kept.snd ?_ (by assumption)
    | with_reducible refine Kept.fst ?_ (by assumption) | with_reducible refine Kept.snd2 ?_ (by assumption)
    | with_reducible refine Kept.snd3 ?_ (by assumption) | with_reducible refine Kept.eqSnd ?_ (by assumption)
    | with_reducible refine Kept.eqFst ?_ (by assumption) | with_reducible refine modSlot_kept ?_
    | with_reducible refine sendSummary_kept ?_ | with_reducible refine slotRecs_kept ?_
    | with_reducible (refine Kept.foldl ?_ (fun _ _ _ => ?_))
    | with_reducible (refine Kept.foldl2 ?_ (fun _ _ _ => ?_))
    | (fail_if_no_progress with_reducible (refine Kept.put ?_ rfl)) | split | (dsimp only))

/-! ## Requests -/

theorem hostWrite_kept {s0 : State} {a : Nat} {l : List Byte} {s : State} (h : Kept s0 s) : Kept s0
    (hostWrite a l s) := by
  unfold hostWrite
  repeat' (first
    | with_reducible assumption | with_reducible refine Kept.snd ?_ (by assumption)
    | with_reducible refine Kept.fst ?_ (by assumption) | with_reducible refine Kept.snd2 ?_ (by assumption)
    | with_reducible refine Kept.snd3 ?_ (by assumption) | with_reducible refine Kept.eqSnd ?_ (by assumption)
    | with_reducible refine Kept.eqFst ?_ (by assumption) | with_reducible refine wr_kept ?_
    | with_reducible (refine Kept.foldl ?_ (fun _ _ _ => ?_))
    | with_reducible (refine Kept.foldl2 ?_ (fun _ _ _ => ?_))
    | (fail_if_no_progress with_reducible (refine Kept.put ?_ rfl)) | split | (dsimp only))

theorem readFailed_kept {s0 : State} {f : Option ReadFail} {s : State} (h : Kept s0 s) :
    Kept s0 (readFailed f s) := by
  unfold readFailed
  repeat' (first
    | with_reducible assumption | with_reducible refine Kept.snd ?_ (by assumption)
    | with_reducible refine Kept.fst ?_ (by assumption) | with_reducible refine Kept.snd2 ?_ (by assumption)
    | with_reducible refine Kept.snd3 ?_ (by assumption) | with_reducible refine Kept.eqSnd ?_ (by assumption)
    | with_reducible refine Kept.eqFst ?_ (by assumption) | with_reducible refine bump_kept ?_
    | with_reducible (refine Kept.foldl ?_ (fun _ _ _ => ?_))
    | with_reducible (refine Kept.foldl2 ?_ (fun _ _ _ => ?_))
    | (fail_if_no_progress with_reducible (refine Kept.put ?_ rfl)) | split | (dsimp only))

theorem hostRead_kept {s0 : State} {a n : Nat} {s : State} (h : Kept s0 s) : Kept s0 ((hostRead a n s).2) := by
  unfold hostRead
  repeat' (first
    | with_reducible assumption | with_reducible refine readFailed_kept ?_ | split)

theorem hostReadAs_kept {s0 : State} {f : Option ReadFail} {a n : Nat} {s : State} (h : Kept s0 s) :
    Kept s0 ((hostReadAs f a n s).2) := by
  unfold hostReadAs
  repeat' (first
    | with_reducible assumption | with_reducible refine Kept.snd ?_ (by assumption)
    | with_reducible refine Kept.fst ?_ (by assumption) | with_reducible refine Kept.snd2 ?_ (by assumption)
    | with_reducible refine Kept.snd3 ?_ (by assumption) | with_reducible refine Kept.eqSnd ?_ (by assumption)
    | with_reducible refine Kept.eqFst ?_ (by assumption) | with_reducible refine hostRead_kept ?_
    | with_reducible refine readFailed_kept ?_ | with_reducible (refine Kept.foldl ?_ (fun _ _ _ => ?_))
    | with_reducible (refine Kept.foldl2 ?_ (fun _ _ _ => ?_))
    | (fail_if_no_progress with_reducible (refine Kept.put ?_ rfl)) | split | (dsimp only))

theorem setRing_kept {s0 : State} {r : Nat} {x : Ring} {s : State} (h : Kept s0 s) : Kept s0 (setRing r x s) := by
  unfold setRing
  repeat' (first
    | with_reducible assumption | (fail_if_no_progress with_reducible (refine Kept.put ?_ rfl)))

theorem modRing_kept {s0 : State} {r : Nat} {f : Ring → Ring} {s : State} (h : Kept s0 s) :
    Kept s0 (modRing r f s) := by
  unfold modRing
  repeat' (first
    | with_reducible assumption | with_reducible refine setRing_kept ?_)

theorem ringError_kept {s0 : State} {r code : Nat} {s : State} (h : Kept s0 s) : Kept s0 (ringError r code s) := by
  unfold ringError
  repeat' (first
    | with_reducible assumption | with_reducible refine bump_kept ?_ | with_reducible refine modRing_kept ?_
    | with_reducible refine raiseCause_kept ?_)

theorem writeDevIdx_kept {s0 : State} {r : Nat} {s : State} (h : Kept s0 s) : Kept s0 (writeDevIdx r s) := by
  unfold writeDevIdx
  repeat' (first
    | with_reducible assumption | with_reducible refine hostWrite_kept ?_)

theorem countHolds_kept {s0 : State} {r : Nat} {s : State} (h : Kept s0 s) : Kept s0 (countHolds r s) := by
  unfold countHolds
  repeat' (first
    | with_reducible assumption | with_reducible refine Kept.snd ?_ (by assumption)
    | with_reducible refine Kept.fst ?_ (by assumption) | with_reducible refine Kept.snd2 ?_ (by assumption)
    | with_reducible refine Kept.snd3 ?_ (by assumption) | with_reducible refine Kept.eqSnd ?_ (by assumption)
    | with_reducible refine Kept.eqFst ?_ (by assumption) | with_reducible refine bump_kept ?_
    | with_reducible refine modRing_kept ?_ | with_reducible (refine Kept.foldl ?_ (fun _ _ _ => ?_))
    | with_reducible (refine Kept.foldl2 ?_ (fun _ _ _ => ?_))
    | (fail_if_no_progress with_reducible (refine Kept.put ?_ rfl)) | split | (dsimp only))

theorem pushDue_kept {s0 : State} {r : Nat} {d : Due} {s : State} (h : Kept s0 s) : Kept s0 (pushDue r d s) := by
  unfold pushDue
  repeat' (first
    | with_reducible assumption | with_reducible refine countHolds_kept ?_ | with_reducible refine modRing_kept ?_)

theorem pushTakeover_kept {s0 : State} {d : Due} {s : State} (h : Kept s0 s) : Kept s0 (pushTakeover d s) := by
  unfold pushTakeover
  repeat' (first
    | with_reducible assumption | with_reducible refine Kept.snd ?_ (by assumption)
    | with_reducible refine Kept.fst ?_ (by assumption) | with_reducible refine Kept.snd2 ?_ (by assumption)
    | with_reducible refine Kept.snd3 ?_ (by assumption) | with_reducible refine Kept.eqSnd ?_ (by assumption)
    | with_reducible refine Kept.eqFst ?_ (by assumption) | with_reducible refine countHolds_kept ?_
    | with_reducible (refine Kept.foldl ?_ (fun _ _ _ => ?_))
    | with_reducible (refine Kept.foldl2 ?_ (fun _ _ _ => ?_))
    | (fail_if_no_progress with_reducible (refine Kept.put ?_ rfl)) | split | (dsimp only))

theorem pushPlain_kept {s0 : State} {cq submit reqId opcode status result : Nat} {s : State} (h : Kept s0 s) :
    Kept s0 (pushPlain cq submit reqId opcode status result s) := by
  unfold pushPlain
  repeat' (first
    | with_reducible assumption | with_reducible refine pushDue_kept ?_)

theorem pushWaiters_kept {s0 : State} {ws : List Waiter} {s : State} (h : Kept s0 s) :
    Kept s0 (pushWaiters ws s) := by
  unfold pushWaiters
  repeat' (first
    | with_reducible assumption | with_reducible refine pushDue_kept ?_
    | with_reducible (refine Kept.foldl ?_ (fun _ _ _ => ?_)))

theorem pushAdmin_kept {s0 : State} {d : Rec64} {status result : Nat} {s : State} (h : Kept s0 s) :
    Kept s0 (pushAdmin d status result s) := by
  unfold pushAdmin
  repeat' (first
    | with_reducible assumption | with_reducible refine pushPlain_kept ?_)

theorem adminDone_kept {s0 : State} {id status result : Nat} {s : State} (h : Kept s0 s) :
    Kept s0 (adminDone id status result s) := by
  unfold adminDone
  repeat' (first
    | with_reducible assumption | with_reducible refine pushAdmin_kept ?_
    | (fail_if_no_progress with_reducible (refine Kept.put ?_ rfl)) | split)

theorem pushStream_kept {s0 : State} {i : Nat} {rec : BitVec 128} {final : Bool} {s : State} (h : Kept s0 s) :
    Kept s0 (pushStream i rec final s) := by
  unfold pushStream
  repeat' (first
    | with_reducible assumption | with_reducible refine pushDue_kept ?_
    | with_reducible refine pushTakeover_kept ?_ | with_reducible refine setSlot_kept ?_
    | (fail_if_no_progress with_reducible (refine Kept.put ?_ rfl)) | split)

theorem writeRootPages_kept {s0 : State} {root pages : Nat} {s : State} (h : Kept s0 s) :
    Kept s0 (writeRootPages root pages s) := by
  unfold writeRootPages
  repeat' (first
    | with_reducible assumption | with_reducible refine wr_kept ?_)

theorem releaseNow_kept {s0 : State} {p : Nat} {r : PageRelease} {s : State} (h : Kept s0 s) :
    Kept s0 (releaseNow p r s) := by
  unfold releaseNow
  repeat' (first
    | with_reducible assumption | with_reducible refine Kept.snd ?_ (by assumption)
    | with_reducible refine Kept.fst ?_ (by assumption) | with_reducible refine Kept.snd2 ?_ (by assumption)
    | with_reducible refine Kept.snd3 ?_ (by assumption) | with_reducible refine Kept.eqSnd ?_ (by assumption)
    | with_reducible refine Kept.eqFst ?_ (by assumption) | with_reducible refine freeHank_kept ?_
    | with_reducible refine modCast_kept ?_ | with_reducible refine wr_kept ?_
    | with_reducible refine writeRootPages_kept ?_ | with_reducible (refine Kept.foldl ?_ (fun _ _ _ => ?_))
    | with_reducible (refine Kept.foldl2 ?_ (fun _ _ _ => ?_))
    | (fail_if_no_progress with_reducible (refine Kept.put ?_ rfl)) | split | (dsimp only))

theorem runReleases_kept {s0 : State} {p : Nat} {s : State} (h : Kept s0 s) : Kept s0 (runReleases p s) := by
  unfold runReleases
  repeat' (first
    | with_reducible assumption | with_reducible refine Kept.snd ?_ (by assumption)
    | with_reducible refine Kept.fst ?_ (by assumption) | with_reducible refine Kept.snd2 ?_ (by assumption)
    | with_reducible refine Kept.snd3 ?_ (by assumption) | with_reducible refine Kept.eqSnd ?_ (by assumption)
    | with_reducible refine Kept.eqFst ?_ (by assumption) | with_reducible refine modCast_kept ?_
    | with_reducible refine releaseNow_kept ?_ | with_reducible (refine Kept.foldl ?_ (fun _ _ _ => ?_))
    | with_reducible (refine Kept.foldl2 ?_ (fun _ _ _ => ?_))
    | (fail_if_no_progress with_reducible (refine Kept.put ?_ rfl)) | split | (dsimp only))

theorem releaseDue_kept {s0 : State} {p : Nat} {r : PageRelease} {s : State} (h : Kept s0 s) :
    Kept s0 (releaseDue p r s) := by
  unfold releaseDue
  repeat' (first
    | with_reducible assumption | with_reducible refine Kept.snd ?_ (by assumption)
    | with_reducible refine Kept.fst ?_ (by assumption) | with_reducible refine Kept.snd2 ?_ (by assumption)
    | with_reducible refine Kept.snd3 ?_ (by assumption) | with_reducible refine Kept.eqSnd ?_ (by assumption)
    | with_reducible refine Kept.eqFst ?_ (by assumption) | with_reducible refine modCast_kept ?_
    | with_reducible refine runReleases_kept ?_ | with_reducible (refine Kept.foldl ?_ (fun _ _ _ => ?_))
    | with_reducible (refine Kept.foldl2 ?_ (fun _ _ _ => ?_))
    | (fail_if_no_progress with_reducible (refine Kept.put ?_ rfl)) | split | (dsimp only))

theorem releasePages_kept {s0 : State} {i : Nat} {s : State} (h : Kept s0 s) : Kept s0 (releasePages i s) := by
  unfold releasePages
  repeat' (first
    | with_reducible assumption | with_reducible refine releaseDue_kept ?_ | with_reducible refine setSlot_kept ?_
    | with_reducible (refine Kept.foldl ?_ (fun _ _ _ => ?_)) | split | (dsimp only))

theorem trimPages_kept {s0 : State} {i len : Nat} {s : State} (h : Kept s0 s) : Kept s0 (trimPages i len s) := by
  unfold trimPages
  repeat' (first
    | with_reducible assumption | with_reducible refine releaseDue_kept ?_ | with_reducible refine setSlot_kept ?_
    | with_reducible (refine Kept.foldl ?_ (fun _ _ _ => ?_)) | split | (dsimp only))

theorem freeAt_kept {s0 : State} {a : Nat} {s : State} (h : Kept s0 s) : Kept s0 (freeAt a s) := by
  unfold freeAt
  repeat' (first
    | with_reducible assumption | with_reducible refine freeHank_kept ?_
    | with_reducible refine makeHomeless_kept ?_ | with_reducible refine releaseT3_kept ?_ | split)

theorem dropTokenList_kept {s0 : State} {i : Nat} {s : State} (h : Kept s0 s) : Kept s0 (dropTokenList i s) := by
  unfold dropTokenList
  repeat' (first
    | with_reducible assumption | with_reducible refine dropAlloc_kept ?_ | with_reducible refine freeAt_kept ?_
    | with_reducible refine setSlot_kept ?_ | split)

theorem dropSummary_kept {s0 : State} {i : Nat} {s : State} (h : Kept s0 s) : Kept s0 (dropSummary i s) := by
  unfold dropSummary
  repeat' (first
    | with_reducible assumption | with_reducible refine dropAlloc_kept ?_ | with_reducible refine freeAt_kept ?_
    | with_reducible refine setSlot_kept ?_ | split)

theorem dropToks_kept {s0 : State} {i : Nat} {s : State} (h : Kept s0 s) : Kept s0 (dropToks i s) := by
  unfold dropToks
  repeat' (first
    | with_reducible assumption | (fail_if_no_progress with_reducible (refine Kept.put ?_ rfl)))

theorem freeSlot_kept {s0 : State} {i : Nat} {s : State} (h : Kept s0 s) : Kept s0 (freeSlot i s) := by
  unfold freeSlot
  repeat' (first
    | with_reducible assumption | with_reducible refine dropSummary_kept ?_
    | with_reducible refine dropTokenList_kept ?_ | with_reducible refine dropToks_kept ?_
    | with_reducible refine releasePages_kept ?_ | with_reducible refine slotRecs_kept ?_
    | (fail_if_no_progress with_reducible (refine Kept.put ?_ rfl)) | split)

theorem pushSlotCompl_kept {s0 : State} {i : Nat} {s : State} (h : Kept s0 s) : Kept s0 (pushSlotCompl i s) := by
  unfold pushSlotCompl
  repeat' (first
    | with_reducible assumption | with_reducible refine freeSlot_kept ?_ | with_reducible refine pushDue_kept ?_
    | with_reducible refine pushTakeover_kept ?_ | with_reducible refine pushWaiters_kept ?_
    | with_reducible refine setSlot_kept ?_ | (fail_if_no_progress with_reducible (refine Kept.put ?_ rfl))
    | split)

theorem leaveWork_kept {s0 : State} {i : Nat} {s : State} (h : Kept s0 s) : Kept s0 (leaveWork i s) := by
  unfold leaveWork
  repeat' (first
    | with_reducible assumption | with_reducible refine dropAlloc_kept ?_ | with_reducible refine modCast_kept ?_
    | split)

theorem endNow_kept {s0 : State} {i status reason : Nat} {s : State} (h : Kept s0 s) :
    Kept s0 (endNow i status reason s) := by
  unfold endNow
  repeat' (first
    | with_reducible assumption | with_reducible refine bump_kept ?_ | with_reducible refine dropSummary_kept ?_
    | with_reducible refine dropToks_kept ?_ | with_reducible refine leaveWork_kept ?_
    | with_reducible refine pushSlotCompl_kept ?_ | with_reducible refine pushStream_kept ?_
    | with_reducible refine releasePages_kept ?_ | with_reducible refine setSlot_kept ?_
    | with_reducible refine slotChanged_kept ?_ | split | (dsimp only))

theorem endSlot_kept {s0 : State} {i status : Nat} {s : State} (h : Kept s0 s) : Kept s0 (endSlot i status s) := by
  unfold endSlot
  repeat' (first
    | with_reducible assumption | with_reducible refine endNow_kept ?_ | with_reducible refine leaveWork_kept ?_
    | with_reducible refine setSlot_kept ?_ | with_reducible refine slotRecs_kept ?_ | split)

theorem endPanel_kept {s0 : State} {p : Nat} {sts : List SlotSt} {status : Nat} {s : State} (h : Kept s0 s) :
    Kept s0 (endPanel p sts status s) := by
  unfold endPanel
  repeat' (first
    | with_reducible assumption | with_reducible refine endSlot_kept ?_
    | with_reducible (refine Kept.foldl ?_ (fun _ _ _ => ?_)))

theorem commitOne_kept {s0 : State} {i : Nat} {s : State} (h : Kept s0 s) : Kept s0 (commitOne i s) := by
  unfold commitOne
  repeat' (first
    | with_reducible assumption | with_reducible refine pushSlotCompl_kept ?_
    | with_reducible refine pushStream_kept ?_ | with_reducible refine setSlot_kept ?_ | split | (dsimp only))

theorem commitAll_kept {s0 : State} {i : Nat} {s : State} (h : Kept s0 s) : Kept s0 (commitAll i s) := by
  unfold commitAll
  repeat' (first
    | with_reducible assumption | with_reducible refine commitOne_kept ?_
    | with_reducible (refine Kept.foldl ?_ (fun _ _ _ => ?_)) | split)

theorem stopSlot_kept {s0 : State} {i reason status : Nat} {s : State} (h : Kept s0 s) :
    Kept s0 (stopSlot i reason status s) := by
  unfold stopSlot
  repeat' (first
    | with_reducible assumption | with_reducible refine dropSummary_kept ?_
    | with_reducible refine leaveWork_kept ?_ | with_reducible refine releasePages_kept ?_
    | with_reducible refine setSlot_kept ?_ | with_reducible refine slotChanged_kept ?_ | split)

theorem frog_kept {s0 : State} {i : Nat} {s : State} (h : Kept s0 s) : Kept s0 (frog i s) := by
  unfold frog
  repeat' (first
    | with_reducible assumption | with_reducible refine dropToks_kept ?_ | with_reducible refine leaveWork_kept ?_
    | with_reducible refine modCast_kept ?_ | with_reducible refine setSlot_kept ?_
    | with_reducible refine slotChanged_kept ?_ | with_reducible refine trimPages_kept ?_ | split)

theorem stopPanelUnits_kept {s0 : State} {p : Nat} {s : State} (h : Kept s0 s) : Kept s0 (stopPanelUnits p s) := by
  unfold stopPanelUnits
  repeat' (first
    | with_reducible assumption | with_reducible refine modCast_kept ?_ | with_reducible refine modUnit_kept ?_
    | with_reducible (refine Kept.foldl ?_ (fun _ _ _ => ?_)) | split)

theorem failSwap_kept {s0 : State} {p : Nat} {s : State} (h : Kept s0 s) : Kept s0 (failSwap p s) := by
  unfold failSwap
  repeat' (first
    | with_reducible assumption | with_reducible refine adminDone_kept ?_ | with_reducible refine bump_kept ?_
    | with_reducible refine modCast_kept ?_ | split)

theorem closeChannels_kept {s0 : State} {p : Nat} {s : State} (h : Kept s0 s) : Kept s0 (closeChannels p s) := by
  unfold closeChannels
  repeat' (first
    | with_reducible assumption | with_reducible refine modPort_kept ?_
    | with_reducible refine sendService_kept ?_ | with_reducible (refine Kept.foldl ?_ (fun _ _ _ => ?_)) | split)

theorem faultPanel_kept {s0 : State} {p status : Nat} {s : State} (h : Kept s0 s) :
    Kept s0 (faultPanel p status s) := by
  unfold faultPanel
  repeat' (first
    | with_reducible assumption | with_reducible refine endPanel_kept ?_ | with_reducible refine failSwap_kept ?_
    | with_reducible refine modPanel_kept ?_ | with_reducible refine runReleases_kept ?_
    | with_reducible refine stopPanelUnits_kept ?_ | split)

theorem recordFault_kept {s0 : State} {p : Nat} {r : FaultRec} {s : State} (h : Kept s0 s) :
    Kept s0 (recordFault p r s) := by
  unfold recordFault
  repeat' (first
    | with_reducible assumption | with_reducible refine bump_kept ?_ | with_reducible refine modPanel_kept ?_
    | with_reducible refine raiseCause_kept ?_)

theorem mappingFaultAt_kept {s0 : State} {u pc res : Nat} {value : Int} {limit : Nat} {s : State} (h :
    Kept s0 s) : Kept s0 (mappingFaultAt u pc res value limit s) := by
  unfold mappingFaultAt
  repeat' (first
    | with_reducible assumption | with_reducible refine faultPanel_kept ?_
    | with_reducible refine recordFault_kept ?_ | split)

theorem mappingFault_kept {s0 : State} {u res : Nat} {value : Int} {limit : Nat} {s : State} (h : Kept s0 s) :
    Kept s0 (mappingFault u res value limit s) := by
  unfold mappingFault
  repeat' (first
    | with_reducible assumption | with_reducible refine mappingFaultAt_kept ?_)

theorem dataLost_kept {s0 : State} {st : Nat} {s : State} (h : Kept s0 s) : Kept s0 (dataLost st s) := by
  unfold dataLost
  repeat' (first
    | with_reducible assumption | with_reducible refine bump_kept ?_ | with_reducible refine raiseCause_kept ?_)

end Sys2Proof.Laws
end

