-- ==== Sys2Proof/Laws/KeptUnits.lean ====
section
/-! SUPPORT. What the operations and meanings of the knit units keep (Kept). -/
namespace Sys2Proof.Laws
open Sys2Proof Machine Safety

/-! ## UnitOps -/

theorem goTo_kept {s0 : State} {u a : Nat} {s : State} (h : Kept s0 s) : Kept s0 (goTo u a s) := by
  unfold goTo
  repeat' (first
    | with_reducible assumption | with_reducible refine mappingFaultAt_kept ?_
    | with_reducible refine setUnit_kept ?_ | split | (dsimp only))

theorem retire_kept {s0 : State} {u : Nat} {s : State} (h : Kept s0 s) : Kept s0 (retire u s) := by
  unfold retire
  repeat' (first
    | with_reducible assumption | with_reducible refine goTo_kept ?_)

theorem stall_kept {s0 : State} {u cause : Nat} {s : State} (h : Kept s0 s) : Kept s0 (stall u cause s) := by
  unfold stall
  repeat' (first
    | with_reducible assumption | with_reducible refine bump_kept ?_)

theorem doStep_kept {s0 : State} {u n : Nat} {s : State} (h : Kept s0 s) : Kept s0 ((doStep u n s).2.2) := by
  unfold doStep
  repeat' (first
    | with_reducible assumption | with_reducible refine mappingFault_kept ?_
    | with_reducible refine setUnit_kept ?_ | split)

theorem autoStep_kept {s0 : State} {u : Nat} {ns : List Nat} {s : State} (h : Kept s0 s) :
    Kept s0 (autoStep u ns s) := by
  unfold autoStep
  repeat' (first
    | with_reducible assumption | with_reducible refine doStep_kept ?_
    | with_reducible (refine Kept.foldl ?_ (fun _ _ _ => ?_)) | split)

theorem lsFault_kept {s0 : State} {u addr : Nat} {s : State} (h : Kept s0 s) : Kept s0 (lsFault u addr s) := by
  unfold lsFault
  repeat' (first
    | with_reducible assumption | with_reducible refine mappingFault_kept ?_)

theorem logRec_kept {s0 : State} {st : Nat} {r : LogRec} {s : State} (h : Kept s0 s) : Kept s0 (logRec st r s) := by
  unfold logRec
  repeat' (first
    | with_reducible assumption | with_reducible refine bump_kept ?_ | with_reducible refine setStack_kept ?_
    | split | (dsimp only))

theorem wakeClaims_kept {s0 : State} {key : Nat} {s : State} (h : Kept s0 s) : Kept s0 (wakeClaims key s) := by
  unfold wakeClaims
  repeat' (first
    | with_reducible assumption | (fail_if_no_progress with_reducible (refine Kept.put ?_ rfl)))

theorem requeueHeld_kept {s0 : State} {u key : Nat} {s : State} (h : Kept s0 s) : Kept s0 (requeueHeld u key s) := by
  unfold requeueHeld
  repeat' (first
    | with_reducible assumption | with_reducible refine bump_kept ?_ | with_reducible refine wakeClaims_kept ?_
    | (fail_if_no_progress with_reducible (refine Kept.put ?_ rfl)) | split)

theorem returnCredit_kept {s0 : State} {p ch : Nat} {s : State} (h : Kept s0 s) : Kept s0 (returnCredit p ch s) := by
  unfold returnCredit
  repeat' (first
    | with_reducible assumption | with_reducible refine modPort_kept ?_)

theorem modRecv_kept {s0 : State} {p ch : Nat} {f : RecvCh → RecvCh} {s : State} (h : Kept s0 s) :
    Kept s0 (modRecv p ch f s) := by
  unfold modRecv
  repeat' (first
    | with_reducible assumption | with_reducible refine modPort_kept ?_)

theorem freeRecvSlot_kept {s0 : State} {p ch : Nat} {f : RecvCh → RecvCh} {s : State} (h : Kept s0 s) :
    Kept s0 (freeRecvSlot p ch f s) := by
  unfold freeRecvSlot
  repeat' (first
    | with_reducible assumption | with_reducible refine modRecv_kept ?_
    | with_reducible refine returnCredit_kept ?_)

theorem discardFeeds_kept {s0 : State} {u : Nat} {s : State} (h : Kept s0 s) : Kept s0 (discardFeeds u s) := by
  unfold discardFeeds
  repeat' (first
    | with_reducible assumption | with_reducible refine freeRecvSlot_kept ?_
    | with_reducible (refine Kept.foldl ?_ (fun _ _ _ => ?_)))

theorem barrierClash_kept {s0 : State} {p : Nat} {s : State} (h : Kept s0 s) : Kept s0 (barrierClash p s) := by
  unfold barrierClash
  repeat' (first
    | with_reducible assumption | with_reducible refine mappingFault_kept ?_ | split | (dsimp only))

theorem haltUnit_kept {s0 : State} {u : Nat} {recs : List LogRec} {s : State} (h : Kept s0 s) : Kept s0
    (haltUnit u recs s) := by
  unfold haltUnit
  repeat' (first
    | with_reducible assumption | with_reducible refine barrierClash_kept ?_
    | with_reducible refine discardFeeds_kept ?_ | with_reducible refine faultPanel_kept ?_
    | with_reducible refine logRec_kept ?_ | with_reducible refine modUnit_kept ?_
    | with_reducible refine requeueHeld_kept ?_ | with_reducible (refine Kept.foldl ?_ (fun _ _ _ => ?_))
    | (fail_if_no_progress with_reducible (refine Kept.put ?_ rfl)) | split | (dsimp only))

theorem ackTile_kept {s0 : State} {d : Dest} {x1 : Rec64} {skip : Nat} {s : State} (h : Kept s0 s) :
    Kept s0 (ackTile d x1 skip s) := by
  unfold ackTile
  repeat' (first
    | with_reducible assumption | (fail_if_no_progress with_reducible (refine Kept.put ?_ rfl)))

theorem copyHalt_kept {s0 : State} {u : Nat} {s : State} (h : Kept s0 s) : Kept s0 (copyHalt u s) := by
  unfold copyHalt
  repeat' (first
    | with_reducible assumption | with_reducible refine freeNat_kept ?_ | with_reducible refine haltUnit_kept ?_)

theorem fillHole_kept {s0 : State} {u i : Nat} {x2 : Rec64} {bs : List Beat} {s : State} (h : Kept s0 s) :
    Kept s0 (fillHole u i x2 bs s) := by
  unfold fillHole
  repeat' (first
    | with_reducible assumption | with_reducible refine ackTile_kept ?_ | with_reducible refine bump_kept ?_
    | with_reducible refine copyHalt_kept ?_ | with_reducible refine setUnit_kept ?_ | split | (dsimp only))

theorem failArriving_kept {s0 : State} {u i : Nat} {x2 : Rec64} {bs : List Beat} {s : State} (h : Kept s0 s) :
    Kept s0 (failArriving u i x2 bs s) := by
  unfold failArriving
  repeat' (first
    | with_reducible assumption | with_reducible refine bump_kept ?_ | with_reducible refine setUnit_kept ?_)

theorem checkArrived_kept {s0 : State} {u i : Nat} {s : State} (h : Kept s0 s) : Kept s0 (checkArrived u i s) := by
  unfold checkArrived
  repeat' (first
    | with_reducible assumption | with_reducible refine ackTile_kept ?_
    | with_reducible refine failArriving_kept ?_ | with_reducible refine setUnit_kept ?_ | split | (dsimp only))

theorem cutShort_kept {s0 : State} {u i : Nat} {x2 : Entry} {s : State} (h : Kept s0 s) :
    Kept s0 (cutShort u i x2 s) := by
  unfold cutShort
  repeat' (first
    | with_reducible assumption | with_reducible refine failArriving_kept ?_ | split)

theorem enter_kept {s0 : State} {u i : Nat} {x2 : Entry} {s : State} (h : Kept s0 s) : Kept s0 (enter u i x2 s) := by
  unfold enter
  repeat' (first
    | with_reducible assumption | with_reducible refine bump_kept ?_ | with_reducible refine checkArrived_kept ?_
    | with_reducible refine highWater_kept ?_ | with_reducible refine mappingFault_kept ?_
    | with_reducible refine modCast_kept ?_ | with_reducible refine setUnit_kept ?_ | split | (dsimp only))

theorem deliver_kept {s0 : State} {u i : Nat} {x2 : Entry} {s : State} (h : Kept s0 s) :
    Kept s0 (deliver u i x2 s) := by
  unfold deliver
  repeat' (first
    | with_reducible assumption | with_reducible refine cutShort_kept ?_ | with_reducible refine enter_kept ?_
    | with_reducible refine fillHole_kept ?_ | with_reducible refine setUnit_kept ?_ | split | (dsimp only))

theorem sendLink_kept {s0 : State} {p ch : Nat} {x2 : Entry} {s : State} (h : Kept s0 s) :
    Kept s0 (sendLink p ch x2 s) := by
  unfold sendLink
  repeat' (first
    | with_reducible assumption | with_reducible refine sendSlot_kept ?_ | split)

theorem sendTo_kept {s0 : State} {x0 : Entry} {d : Dest} {s : State} (h : Kept s0 s) : Kept s0 (sendTo x0 d s) := by
  unfold sendTo
  repeat' (first
    | with_reducible assumption | with_reducible refine deliver_kept ?_ | with_reducible refine sendLink_kept ?_
    | split)

theorem putOut_kept {s0 : State} {u o : Nat} {x2 : Entry} {s : State} (h : Kept s0 s) :
    Kept s0 (putOut u o x2 s) := by
  unfold putOut
  repeat' (first
    | with_reducible assumption | with_reducible refine sendTo_kept ?_ | with_reducible refine setUnit_kept ?_
    | with_reducible (refine Kept.foldl ?_ (fun _ _ _ => ?_)))

theorem stallOuts_kept {s0 : State} {u : Nat} {m : BitVec 8} {x2 : Entry} {s : State} (h : Kept s0 s) :
    Kept s0 ((stallOuts u m x2 s).1) := by
  unfold stallOuts
  repeat' (first
    | with_reducible assumption | with_reducible refine bump_kept ?_
    | with_reducible (refine Kept.foldl ?_ (fun _ _ _ => ?_)))

theorem putOuts_kept {s0 : State} {u : Nat} {m : BitVec 8} {x2 : Entry} {s : State} (h : Kept s0 s) :
    Kept s0 (putOuts u m x2 s) := by
  unfold putOuts
  repeat' (first
    | with_reducible assumption | with_reducible refine putOut_kept ?_
    | with_reducible (refine Kept.foldl ?_ (fun _ _ _ => ?_)))

theorem pumpRecv_kept {s0 : State} {p ch fuel : Nat} {x3 : State} (h : Kept s0 x3) :
    Kept s0 (pumpRecv p ch fuel x3) := by
  fun_induction pumpRecv p ch fuel x3 <;> (repeat' (first
    | with_reducible assumption | with_reducible refine deliver_kept ?_
    | with_reducible refine freeRecvSlot_kept ?_ | with_reducible refine modRecv_kept ?_
    | with_reducible refine sendSlot_kept ?_ | with_reducible apply_assumption -exfalso))

theorem pumpRoutes_kept {s0 : State} {p : Nat} {test : Nat → Bool} {s : State} (h : Kept s0 s) :
    Kept s0 (pumpRoutes p test s) := by
  unfold pumpRoutes
  repeat' (first
    | with_reducible assumption | with_reducible refine Kept.snd ?_ (by assumption)
    | with_reducible refine Kept.fst ?_ (by assumption) | with_reducible refine Kept.snd2 ?_ (by assumption)
    | with_reducible refine Kept.snd3 ?_ (by assumption) | with_reducible refine Kept.eqSnd ?_ (by assumption)
    | with_reducible refine Kept.eqFst ?_ (by assumption) | with_reducible refine pumpRecv_kept ?_
    | with_reducible (refine Kept.foldl ?_ (fun _ _ _ => ?_))
    | with_reducible (refine Kept.foldl2 ?_ (fun _ _ _ => ?_))
    | (fail_if_no_progress with_reducible (refine Kept.put ?_ rfl)) | split | (dsimp only))

theorem drainResends_kept {s0 : State} {p : Nat} {s : State} (h : Kept s0 s) : Kept s0 (drainResends p s) := by
  unfold drainResends
  repeat' (first
    | with_reducible assumption | with_reducible refine Kept.snd ?_ (by assumption)
    | with_reducible refine Kept.fst ?_ (by assumption) | with_reducible refine Kept.snd2 ?_ (by assumption)
    | with_reducible refine Kept.snd3 ?_ (by assumption) | with_reducible refine Kept.eqSnd ?_ (by assumption)
    | with_reducible refine Kept.eqFst ?_ (by assumption) | with_reducible refine sendLink_kept ?_
    | with_reducible refine setPort_kept ?_ | with_reducible (refine Kept.foldl ?_ (fun _ _ _ => ?_))
    | with_reducible (refine Kept.foldl2 ?_ (fun _ _ _ => ?_))
    | (fail_if_no_progress with_reducible (refine Kept.put ?_ rfl)) | split | (dsimp only))

theorem takeHead_kept {s0 : State} {u i : Nat} {s : State} (h : Kept s0 s) : Kept s0 (takeHead u i s) := by
  unfold takeHead
  repeat' (first
    | with_reducible assumption | with_reducible refine modUnit_kept ?_ | with_reducible refine pumpRecv_kept ?_
    | split | (dsimp only))

theorem deviceMarker_kept {s0 : State} {u i : Nat} {m : BitVec 16} {s : State} (h : Kept s0 s) :
    Kept s0 (deviceMarker u i m s) := by
  unfold deviceMarker
  repeat' (first
    | with_reducible assumption | with_reducible refine deliver_kept ?_)

theorem signalArrive_kept {s0 : State} {u n : Nat} {s : State} (h : Kept s0 s) : Kept s0 (signalArrive u n s) := by
  unfold signalArrive
  repeat' (first
    | with_reducible assumption | with_reducible refine mappingFault_kept ?_
    | with_reducible refine setUnit_kept ?_ | split | (dsimp only))

/-! ## Moves -/

theorem countT3Reads_kept {s0 : State} {a n : Nat} {s : State} (h : Kept s0 s) : Kept s0 (countT3Reads a n s) := by
  unfold countT3Reads
  repeat' (first
    | with_reducible assumption | with_reducible refine modT3_kept ?_ | split)

theorem returnStaged_kept {s0 : State} {x0 : CatEntry} {off n : Nat} {s : State} {out : State} (h : Kept s0 s)
    (e : returnStaged x0 off n s = some out) : Kept s0 out := by
  unfold returnStaged at e
  repeat' (first | (cases e; done) | (split at e) | (dsimp only at e))
  all_goals first
    | (injection e with e; subst e)
    | obtain ⟨_, _, rfl⟩ := Option.map_eq_some_iff.mp e
    | skip
  all_goals repeat' (first
    | with_reducible assumption | with_reducible refine Kept.snd ?_ (by assumption)
    | with_reducible refine Kept.fst ?_ (by assumption) | with_reducible refine Kept.snd2 ?_ (by assumption)
    | with_reducible refine Kept.snd3 ?_ (by assumption) | with_reducible refine Kept.eqSnd ?_ (by assumption)
    | with_reducible refine Kept.eqFst ?_ (by assumption) | with_reducible refine submitReturn_kept ?_
    | with_reducible (refine Kept.foldl ?_ (fun _ _ _ => ?_))
    | with_reducible (refine Kept.foldl2 ?_ (fun _ _ _ => ?_))
    | (fail_if_no_progress with_reducible (refine Kept.put ?_ rfl)) | split | (dsimp only))

theorem countCorrected_kept {s0 : State} {st pages : Nat} {s : State} (h : Kept s0 s) :
    Kept s0 (countCorrected st pages s) := by
  unfold countCorrected
  repeat' (first
    | with_reducible assumption | with_reducible refine Kept.snd ?_ (by assumption)
    | with_reducible refine Kept.fst ?_ (by assumption) | with_reducible refine Kept.snd2 ?_ (by assumption)
    | with_reducible refine Kept.snd3 ?_ (by assumption) | with_reducible refine Kept.eqSnd ?_ (by assumption)
    | with_reducible refine Kept.eqFst ?_ (by assumption) | with_reducible refine bump_kept ?_
    | with_reducible refine freeNat_kept ?_ | with_reducible (refine Kept.foldl ?_ (fun _ _ _ => ?_))
    | with_reducible (refine Kept.foldl2 ?_ (fun _ _ _ => ?_))
    | (fail_if_no_progress with_reducible (refine Kept.put ?_ rfl)) | split | (dsimp only))

theorem catCount_kept {s0 : State} {p : Nat} {x1 : CatEntry} {off n : Nat} {s : State} (h : Kept s0 s) :
    Kept s0 (catCount p x1 off n s) := by
  unfold catCount
  repeat' (first
    | with_reducible assumption | with_reducible refine Kept.snd ?_ (by assumption)
    | with_reducible refine Kept.fst ?_ (by assumption) | with_reducible refine Kept.snd2 ?_ (by assumption)
    | with_reducible refine Kept.snd3 ?_ (by assumption) | with_reducible refine Kept.eqSnd ?_ (by assumption)
    | with_reducible refine Kept.eqFst ?_ (by assumption) | with_reducible refine cacheLooks_kept ?_
    | with_reducible refine countCorrected_kept ?_ | with_reducible refine countT3Reads_kept ?_
    | with_reducible refine touch_kept ?_ | with_reducible (refine Kept.foldl ?_ (fun _ _ _ => ?_))
    | with_reducible (refine Kept.foldl2 ?_ (fun _ _ _ => ?_))
    | (fail_if_no_progress with_reducible (refine Kept.put ?_ rfl)) | split | (dsimp only))

theorem catFailed_kept {s0 : State} {x0 : CatEntry} {s : State} (h : Kept s0 s) : Kept s0 (catFailed x0 s) := by
  unfold catFailed
  repeat' (first
    | with_reducible assumption | with_reducible refine Kept.snd ?_ (by assumption)
    | with_reducible refine Kept.fst ?_ (by assumption) | with_reducible refine Kept.snd2 ?_ (by assumption)
    | with_reducible refine Kept.snd3 ?_ (by assumption) | with_reducible refine Kept.eqSnd ?_ (by assumption)
    | with_reducible refine Kept.eqFst ?_ (by assumption) | with_reducible refine bump_kept ?_
    | with_reducible refine freeNat_kept ?_ | with_reducible (refine Kept.foldl ?_ (fun _ _ _ => ?_))
    | with_reducible (refine Kept.foldl2 ?_ (fun _ _ _ => ?_))
    | (fail_if_no_progress with_reducible (refine Kept.put ?_ rfl)) | split | (dsimp only))

theorem Source_count_kept {s0 : State} {off n : Nat} {x2 : Source} {x3 : State} (h : Kept s0 x3) :
    Kept s0 (Source.count off n x2 x3) := by
  unfold Source.count
  repeat' (first
    | with_reducible assumption | with_reducible refine Kept.snd ?_ (by assumption)
    | with_reducible refine Kept.fst ?_ (by assumption) | with_reducible refine Kept.snd2 ?_ (by assumption)
    | with_reducible refine Kept.snd3 ?_ (by assumption) | with_reducible refine Kept.eqSnd ?_ (by assumption)
    | with_reducible refine Kept.eqFst ?_ (by assumption) | with_reducible refine countT3Reads_kept ?_
    | with_reducible (refine Kept.foldl ?_ (fun _ _ _ => ?_))
    | with_reducible (refine Kept.foldl2 ?_ (fun _ _ _ => ?_))
    | (fail_if_no_progress with_reducible (refine Kept.put ?_ rfl)) | split | (dsimp only))

theorem trySources_kept {s0 : State} {st : Nat} {x : ImageAt} {off n : Nat} {bad : List Nat}
    {use : Source → State → State} {good : State → Bool} {x7 : List Source} {x8 : State} (h : Kept s0 x8)
    (huse : ∀ y0 t, Kept s0 t → Kept s0 ((use y0 t))) : Kept s0 ((trySources st x off n bad use good x7 x8).2) := by
  fun_induction trySources st x off n bad use good x7 x8 <;> (repeat' (first
    | with_reducible assumption | with_reducible refine huse _ _ ?_
    | with_reducible refine Kept.snd ?_ (by assumption) | with_reducible refine Kept.fst ?_ (by assumption)
    | with_reducible refine Kept.snd2 ?_ (by assumption) | with_reducible refine Kept.snd3 ?_ (by assumption)
    | with_reducible refine Kept.eqSnd ?_ (by assumption) | with_reducible refine Kept.eqFst ?_ (by assumption)
    | with_reducible refine Source_count_kept ?_ | with_reducible refine bump_kept ?_
    | with_reducible (refine Kept.foldl ?_ (fun _ _ _ => ?_))
    | with_reducible (refine Kept.foldl2 ?_ (fun _ _ _ => ?_))
    | (fail_if_no_progress with_reducible (refine Kept.put ?_ rfl)) | with_reducible apply_assumption -exfalso
    | split | (dsimp only)))

theorem rewriteRefs_kept {s0 : State} {src len dst : Nat} {s : State} (h : Kept s0 s) :
    Kept s0 (rewriteRefs src len dst s) := by
  unfold rewriteRefs
  repeat' (first
    | with_reducible assumption | with_reducible refine wr_kept ?_
    | with_reducible (refine Kept.foldl ?_ (fun _ _ _ => ?_))
    | (fail_if_no_progress with_reducible (refine Kept.put ?_ rfl)) | split)

theorem loseStaged_kept {s0 : State} {a n : Nat} {s : State} (h : Kept s0 s) : Kept s0 (loseStaged a n s) := by
  unfold loseStaged
  repeat' (first
    | with_reducible assumption | with_reducible refine freeAt_kept ?_
    | with_reducible (refine Kept.foldl ?_ (fun _ _ _ => ?_))
    | (fail_if_no_progress with_reducible (refine Kept.put ?_ rfl)) | split | (dsimp only))

theorem loseMirrors_kept {s0 : State} {a n : Nat} {s : State} (h : Kept s0 s) : Kept s0 (loseMirrors a n s) := by
  unfold loseMirrors
  repeat' (first
    | with_reducible assumption | with_reducible refine Kept.snd ?_ (by assumption)
    | with_reducible refine Kept.fst ?_ (by assumption) | with_reducible refine Kept.snd2 ?_ (by assumption)
    | with_reducible refine Kept.snd3 ?_ (by assumption) | with_reducible refine Kept.eqSnd ?_ (by assumption)
    | with_reducible refine Kept.eqFst ?_ (by assumption) | with_reducible refine freeAt_kept ?_
    | with_reducible (refine Kept.foldl ?_ (fun _ _ _ => ?_))
    | with_reducible (refine Kept.foldl2 ?_ (fun _ _ _ => ?_))
    | (fail_if_no_progress with_reducible (refine Kept.put ?_ rfl)) | split | (dsimp only))

theorem loseRange_kept {s0 : State} {a n : Nat} {s : State} (h : Kept s0 s) : Kept s0 (loseRange a n s) := by
  unfold loseRange
  repeat' (first
    | with_reducible assumption | with_reducible refine loseMirrors_kept ?_
    | with_reducible refine loseStaged_kept ?_ | with_reducible refine makeHomeless_kept ?_
    | with_reducible refine releaseT3_kept ?_ | with_reducible refine syncHanks_kept ?_
    | (fail_if_no_progress with_reducible (refine Kept.put ?_ rfl)) | split)

theorem takeRun_kept {s0 : State} {k n : Nat} {o : Option Nat} {s : State} (h : Kept s0 s) :
    Kept s0 (takeRun k n o s) := by
  unfold takeRun
  repeat' (first
    | with_reducible assumption | with_reducible refine takeHank_kept ?_
    | with_reducible (refine Kept.foldl ?_ (fun _ _ _ => ?_)))

theorem allocRun_kept {s0 : State} {who : Taker} {tier n : Nat} {o : Option Nat} {pin : Bool} {s : State} (h :
    Kept s0 s) : Kept s0 ((allocRun who tier n o pin s).2) := by
  unfold allocRun
  repeat' (first
    | with_reducible assumption | with_reducible refine countWait_kept ?_
    | with_reducible refine dropAlloc_kept ?_ | with_reducible refine evictFor_kept ?_
    | with_reducible refine takeRun_kept ?_ | split)

theorem allocHanks_kept {s0 : State} {who : Taker} {tier n : Nat} {o : Option Nat} {pin : Bool}
    {srcStack : Option Nat} {s : State} (h : Kept s0 s) : Kept s0 ((allocHanks who tier n o pin srcStack s).2) := by
  unfold allocHanks
  repeat' (first
    | with_reducible assumption | with_reducible refine Kept.snd ?_ (by assumption)
    | with_reducible refine Kept.fst ?_ (by assumption) | with_reducible refine Kept.snd2 ?_ (by assumption)
    | with_reducible refine Kept.snd3 ?_ (by assumption) | with_reducible refine Kept.eqSnd ?_ (by assumption)
    | with_reducible refine Kept.eqFst ?_ (by assumption) | with_reducible refine allocRun_kept ?_
    | with_reducible refine allocTry_kept ?_ | with_reducible refine modHank_kept ?_ | split)

theorem allocRange_kept {s0 : State} {who : Taker} {tier len : Nat} {o : Option Nat} {pin : Bool}
    {srcStack : Option Nat} {s : State} (h : Kept s0 s) : Kept s0 ((allocRange who tier len o pin srcStack s).2) := by
  unfold allocRange
  repeat' (first
    | with_reducible assumption | with_reducible refine allocHanks_kept ?_)

theorem submitMove_kept {s0 : State} {d : Rec64} {by_ : Submitter} {s : State} (h : Kept s0 s) :
    Kept s0 (submitMove d by_ s) := by
  unfold submitMove
  repeat' (first
    | with_reducible assumption | (fail_if_no_progress with_reducible (refine Kept.put ?_ rfl)))

theorem setMove_kept {s0 : State} {m : MoveRec} {s : State} (h : Kept s0 s) : Kept s0 (setMove m s) := by
  unfold setMove
  repeat' (first
    | with_reducible assumption | (fail_if_no_progress with_reducible (refine Kept.put ?_ rfl)))

theorem dropMove_kept {s0 : State} {id : Nat} {s : State} (h : Kept s0 s) : Kept s0 (dropMove id s) := by
  unfold dropMove
  repeat' (first
    | with_reducible assumption | (fail_if_no_progress with_reducible (refine Kept.put ?_ rfl)))

theorem markTransit_kept {s0 : State} {m : MoveRec} {on : Bool} {s : State} (h : Kept s0 s) :
    Kept s0 (markTransit m on s) := by
  unfold markTransit
  repeat' (first
    | with_reducible assumption | with_reducible refine modHank_kept ?_
    | with_reducible (refine Kept.foldl ?_ (fun _ _ _ => ?_)) | split)

theorem untag_kept {s0 : State} {u : Nat} {t : BitVec 16} {s : State} (h : Kept s0 s) : Kept s0 (untag u t s) := by
  unfold untag
  repeat' (first
    | with_reducible assumption | with_reducible refine modUnit_kept ?_)

theorem dropHeld_kept {s0 : State} {m : MoveRec} {s : State} (h : Kept s0 s) : Kept s0 (dropHeld m s) := by
  unfold dropHeld
  repeat' (first
    | with_reducible assumption | with_reducible refine Kept.snd ?_ (by assumption)
    | with_reducible refine Kept.fst ?_ (by assumption) | with_reducible refine Kept.snd2 ?_ (by assumption)
    | with_reducible refine Kept.snd3 ?_ (by assumption) | with_reducible refine Kept.eqSnd ?_ (by assumption)
    | with_reducible refine Kept.eqFst ?_ (by assumption)
    | with_reducible (refine Kept.foldl ?_ (fun _ _ _ => ?_))
    | with_reducible (refine Kept.foldl2 ?_ (fun _ _ _ => ?_))
    | (fail_if_no_progress with_reducible (refine Kept.put ?_ rfl)) | split | (dsimp only))

theorem endMove_kept {s0 : State} {m : MoveRec} {status result : Nat} {s : State} (h : Kept s0 s) :
    Kept s0 (endMove m status result s) := by
  unfold endMove
  repeat' (first
    | with_reducible assumption | with_reducible refine adminDone_kept ?_ | with_reducible refine bump_kept ?_
    | with_reducible refine dropAlloc_kept ?_ | with_reducible refine dropHeld_kept ?_
    | with_reducible refine dropMove_kept ?_ | with_reducible refine mappingFault_kept ?_
    | with_reducible refine markTransit_kept ?_ | with_reducible refine untag_kept ?_ | split)

theorem freeDest_kept {s0 : State} {m : MoveRec} {s : State} (h : Kept s0 s) : Kept s0 (freeDest m s) := by
  unfold freeDest
  repeat' (first
    | with_reducible assumption | with_reducible refine freeHank_kept ?_
    | with_reducible (refine Kept.foldl ?_ (fun _ _ _ => ?_)) | split)

theorem failMove_kept {s0 : State} {m : MoveRec} {s : State} (h : Kept s0 s) : Kept s0 (failMove m s) := by
  unfold failMove
  repeat' (first
    | with_reducible assumption | with_reducible refine endMove_kept ?_ | with_reducible refine freeDest_kept ?_
    | with_reducible refine releaseT3_kept ?_ | split)

theorem loseMove_kept {s0 : State} {m : MoveRec} {s : State} (h : Kept s0 s) : Kept s0 (loseMove m s) := by
  unfold loseMove
  repeat' (first
    | with_reducible assumption | with_reducible refine dataLost_kept ?_ | with_reducible refine failMove_kept ?_
    | with_reducible refine loseRange_kept ?_ | with_reducible (refine Kept.foldl ?_ (fun _ _ _ => ?_)))

theorem sendNextFetch_kept {s0 s : State} (h : Kept s0 s) : Kept s0 (sendNextFetch s) := by
  unfold sendNextFetch
  repeat' (first
    | with_reducible assumption | with_reducible refine sendService_kept ?_
    | (fail_if_no_progress with_reducible (refine Kept.put ?_ rfl)) | split)

theorem pumpFetches_kept {s0 s : State} (h : Kept s0 s) : Kept s0 (pumpFetches s) := by
  unfold pumpFetches
  repeat' (first
    | with_reducible assumption | with_reducible refine sendNextFetch_kept ?_
    | with_reducible (refine Kept.foldl ?_ (fun _ _ _ => ?_)))

theorem sendFetches_kept {s0 : State} {fs : List Fetch} {s : State} (h : Kept s0 s) : Kept s0 (sendFetches fs s) := by
  unfold sendFetches
  repeat' (first
    | with_reducible assumption | with_reducible refine pumpFetches_kept ?_
    | (fail_if_no_progress with_reducible (refine Kept.put ?_ rfl)))

theorem runMoveRec_kept {s0 : State} {m : MoveRec} {s : State} (h : Kept s0 s) : Kept s0 (runMoveRec m s) := by
  unfold runMoveRec
  repeat' (first
    | with_reducible assumption | with_reducible refine failMove_kept ?_
    | with_reducible refine markTransit_kept ?_ | with_reducible refine sendFetches_kept ?_
    | with_reducible refine setMove_kept ?_ | split | (dsimp only))

theorem placeMove_kept {s0 : State} {m : MoveRec} {a : Nat} {bad : List Nat} {w s : State} (hw : Kept s0 w)
    (h : Kept s0 s) : Kept s0 (placeMove m a bad w s) := by
  unfold placeMove
  repeat' (first
    | with_reducible assumption
    | with_reducible refine endMove_kept ?_
    | with_reducible refine setMove_kept ?_
    | with_reducible refine runMoveRec_kept ?_
    | split
    | (dsimp only))

theorem startMove_kept {s0 : State} {m : MoveRec} {badPages : List Nat} {s : State} (h : Kept s0 s) :
    Kept s0 (startMove m badPages s) := by
  unfold startMove
  repeat' (first
    | with_reducible assumption | with_reducible refine Kept.snd ?_ (by assumption)
    | with_reducible refine Kept.fst ?_ (by assumption) | with_reducible refine Kept.snd2 ?_ (by assumption)
    | with_reducible refine Kept.snd3 ?_ (by assumption) | with_reducible refine Kept.eqSnd ?_ (by assumption)
    | with_reducible refine Kept.eqFst ?_ (by assumption) | with_reducible refine allocRange_kept ?_
    | with_reducible refine endMove_kept ?_ | with_reducible refine failMove_kept ?_
    | with_reducible refine freeDest_kept ?_ | with_reducible refine loseMove_kept ?_
    | with_reducible refine placeMove_kept ?_ ?_ | with_reducible refine runMoveRec_kept ?_
    | with_reducible refine setMove_kept ?_ | split | (dsimp only))

theorem bufferPages_kept {s0 : State} {a n : Nat} {s : State} (h : Kept s0 s) : Kept s0 (bufferPages a n s) := by
  unfold bufferPages
  repeat' (first
    | with_reducible assumption | with_reducible refine modT3_kept ?_)

theorem fillBuffer_kept {s0 : State} {m : MoveRec} {s : State} (h : Kept s0 s) : Kept s0 ((fillBuffer m s).2.2) := by
  unfold fillBuffer
  repeat' (first
    | with_reducible assumption | with_reducible refine bufferPages_kept ?_
    | with_reducible refine setMove_kept ?_ | split)

theorem copyMove_kept {s0 : State} {m : MoveRec} {s : State} (h : Kept s0 s) : Kept s0 (copyMove m s) := by
  unfold copyMove
  repeat' (first
    | with_reducible assumption | with_reducible refine clearRange_kept ?_
    | with_reducible refine copyRange_kept ?_ | with_reducible refine hostWrite_kept ?_
    | with_reducible refine putCells_kept ?_ | split)

theorem fillTail_kept {s0 : State} {dst len span : Nat} {s : State} (h : Kept s0 s) :
    Kept s0 (fillTail dst len span s) := by
  unfold fillTail
  repeat' (first
    | with_reducible assumption | with_reducible refine freeNat_kept ?_ | with_reducible refine wr_kept ?_ | split)

theorem destHome_kept {s0 : State} {m : MoveRec} {span : Nat} {s : State} (h : Kept s0 s) :
    Kept s0 (destHome m span s) := by
  unfold destHome
  repeat' (first
    | with_reducible assumption | with_reducible refine makeHome_kept ?_
    | with_reducible refine makeHomeless_kept ?_ | with_reducible (refine Kept.foldl ?_ (fun _ _ _ => ?_)) | split)

theorem answerHeld_kept {s0 : State} {m : MoveRec} {s : State} (h : Kept s0 s) : Kept s0 (answerHeld m s) := by
  unfold answerHeld
  repeat' (first
    | with_reducible assumption | with_reducible refine Kept.snd ?_ (by assumption)
    | with_reducible refine Kept.fst ?_ (by assumption) | with_reducible refine Kept.snd2 ?_ (by assumption)
    | with_reducible refine Kept.snd3 ?_ (by assumption) | with_reducible refine Kept.eqSnd ?_ (by assumption)
    | with_reducible refine Kept.eqFst ?_ (by assumption) | with_reducible refine bump_kept ?_
    | with_reducible refine endSlot_kept ?_ | with_reducible (refine Kept.foldl ?_ (fun _ _ _ => ?_))
    | with_reducible (refine Kept.foldl2 ?_ (fun _ _ _ => ?_))
    | (fail_if_no_progress with_reducible (refine Kept.put ?_ rfl)) | split | (dsimp only))

theorem finishMove_kept {s0 : State} {m : MoveRec} {s : State} (h : Kept s0 s) : Kept s0 (finishMove m s) := by
  unfold finishMove
  repeat' (first
    | with_reducible assumption | with_reducible refine answerHeld_kept ?_
    | with_reducible refine cacheDrop_kept ?_ | with_reducible refine cacheLooks_kept ?_
    | with_reducible refine clearRange_kept ?_ | with_reducible refine copyMove_kept ?_
    | with_reducible refine countT3Reads_kept ?_ | with_reducible refine destHome_kept ?_
    | with_reducible refine endMove_kept ?_ | with_reducible refine fillTail_kept ?_
    | with_reducible refine makeHomeless_kept ?_ | with_reducible refine releaseT3_kept ?_
    | with_reducible refine rewriteRefs_kept ?_ | with_reducible refine setHostPins_kept ?_
    | with_reducible refine syncHanks_kept ?_ | with_reducible (refine Kept.foldl ?_ (fun _ _ _ => ?_)) | split)

theorem rewriteT3_kept {s0 : State} {a : Nat} {l : List Byte} {s : State} (h : Kept s0 s) :
    Kept s0 (rewriteT3 a l s) := by
  unfold rewriteT3
  repeat' (first
    | with_reducible assumption | with_reducible refine bufferPages_kept ?_
    | with_reducible refine releaseT3_kept ?_ | with_reducible refine wr_kept ?_ | split)

theorem recoveryWaits_kept {s0 : State} {page : Nat} {s : State} {out : State} (h : Kept s0 s)
    (e : recoveryWaits page s = some out) : Kept s0 out := by
  unfold recoveryWaits at e
  repeat' (first | (cases e; done) | (split at e) | (dsimp only at e))
  all_goals first
    | (injection e with e; subst e)
    | obtain ⟨_, _, rfl⟩ := Option.map_eq_some_iff.mp e
    | skip
  all_goals repeat' (first
    | with_reducible assumption | with_reducible refine Kept.snd ?_ (by assumption)
    | with_reducible refine Kept.fst ?_ (by assumption) | with_reducible refine Kept.snd2 ?_ (by assumption)
    | with_reducible refine Kept.snd3 ?_ (by assumption) | with_reducible refine Kept.eqSnd ?_ (by assumption)
    | with_reducible refine Kept.eqFst ?_ (by assumption)
    | with_reducible refine returnStaged_kept ?_ (by assumption)
    | with_reducible refine Kept.getD ?_ (fun _ _ => ?_)
    | with_reducible refine Kept.ofFind (fun _ _ _ => ?_) (by assumption)
    | with_reducible (refine Kept.foldl ?_ (fun _ _ _ => ?_))
    | with_reducible (refine Kept.foldl2 ?_ (fun _ _ _ => ?_))
    | (fail_if_no_progress with_reducible (refine Kept.put ?_ rfl)) | split | (dsimp only))

theorem recoverPage_kept {s0 : State} {page : Nat} {bad : List Nat} {peer : Option (List Byte)} {s : State} (h :
    Kept s0 s) : Kept s0 ((recoverPage page bad peer s).2) := by
  unfold recoverPage
  repeat' (first
    | with_reducible assumption | with_reducible refine Kept.snd ?_ (by assumption)
    | with_reducible refine Kept.fst ?_ (by assumption) | with_reducible refine Kept.snd2 ?_ (by assumption)
    | with_reducible refine Kept.snd3 ?_ (by assumption) | with_reducible refine Kept.eqSnd ?_ (by assumption)
    | with_reducible refine Kept.eqFst ?_ (by assumption) | with_reducible refine rewriteT3_kept ?_
    | with_reducible refine trySources_kept ?_ (fun _ _ _ => ?_)
    | with_reducible (refine Kept.foldl ?_ (fun _ _ _ => ?_))
    | with_reducible (refine Kept.foldl2 ?_ (fun _ _ _ => ?_))
    | (fail_if_no_progress with_reducible (refine Kept.put ?_ rfl)) | split | (dsimp only))

theorem retireBlock_kept {s0 : State} {st key : Nat} {s : State} (h : Kept s0 s) :
    Kept s0 (retireBlock st key s) := by
  unfold retireBlock
  repeat' (first
    | with_reducible assumption | with_reducible refine bump_kept ?_ | with_reducible refine modT3_kept ?_
    | with_reducible refine setT3State_kept ?_ | split | (dsimp only))

theorem pageBad_kept {s0 : State} {page : Nat} {s : State} (h : Kept s0 s) : Kept s0 (pageBad page s) := by
  unfold pageBad
  repeat' (first
    | with_reducible assumption | with_reducible refine bump_kept ?_ | with_reducible refine retireBlock_kept ?_
    | split | (dsimp only))

theorem recoverPages_kept {s0 : State} {peers : List (Nat × List Byte)} {bad x2 lost : List Nat} {x4 : State}
    (h : Kept s0 x4) : Kept s0 ((recoverPages peers bad x2 lost x4).2.2) := by
  fun_induction recoverPages peers bad x2 lost x4 <;> (repeat' (first
    | with_reducible assumption | with_reducible refine Kept.snd ?_ (by assumption)
    | with_reducible refine Kept.fst ?_ (by assumption) | with_reducible refine Kept.snd2 ?_ (by assumption)
    | with_reducible refine Kept.snd3 ?_ (by assumption) | with_reducible refine Kept.eqSnd ?_ (by assumption)
    | with_reducible refine Kept.eqFst ?_ (by assumption) | with_reducible refine pageBad_kept ?_
    | with_reducible refine recoverPage_kept ?_ | with_reducible refine recoveryWaits_kept ?_ (by assumption)
    | with_reducible refine Kept.getD ?_ (fun _ _ => ?_)
    | with_reducible refine Kept.ofFind (fun _ _ _ => ?_) (by assumption)
    | with_reducible (refine Kept.foldl ?_ (fun _ _ _ => ?_))
    | with_reducible (refine Kept.foldl2 ?_ (fun _ _ _ => ?_))
    | (fail_if_no_progress with_reducible (refine Kept.put ?_ rfl)) | with_reducible apply_assumption -exfalso
    | split | (dsimp only)))

theorem endReadable_kept {s0 : State} {m : MoveRec} {s : State} (h : Kept s0 s) : Kept s0 (endReadable m s) := by
  unfold endReadable
  repeat' (first
    | with_reducible assumption | with_reducible refine Kept.snd ?_ (by assumption)
    | with_reducible refine Kept.fst ?_ (by assumption) | with_reducible refine Kept.snd2 ?_ (by assumption)
    | with_reducible refine Kept.snd3 ?_ (by assumption) | with_reducible refine Kept.eqSnd ?_ (by assumption)
    | with_reducible refine Kept.eqFst ?_ (by assumption) | with_reducible refine fillBuffer_kept ?_
    | with_reducible refine finishMove_kept ?_ | split)

theorem endUpdate_kept {s0 : State} {m : MoveRec} {corrected : Nat} {peers : List (Nat × List Byte)} {s : State}
    (h : Kept s0 s) : Kept s0 (endUpdate m corrected peers s) := by
  unfold endUpdate
  repeat' (first
    | with_reducible assumption | with_reducible refine Kept.snd ?_ (by assumption)
    | with_reducible refine Kept.fst ?_ (by assumption) | with_reducible refine Kept.snd2 ?_ (by assumption)
    | with_reducible refine Kept.snd3 ?_ (by assumption) | with_reducible refine Kept.eqSnd ?_ (by assumption)
    | with_reducible refine Kept.eqFst ?_ (by assumption) | with_reducible refine bump_kept ?_
    | with_reducible refine endReadable_kept ?_ | with_reducible refine failMove_kept ?_
    | with_reducible refine loseMove_kept ?_ | with_reducible refine readFailed_kept ?_
    | with_reducible refine recoverPages_kept ?_ | with_reducible refine setMove_kept ?_ | split | (dsimp only))

theorem unitMove_kept {s0 : State} {u : Nat} {d : Rec64} {s : State} (h : Kept s0 s) : Kept s0 (unitMove u d s) := by
  unfold unitMove
  repeat' (first
    | with_reducible assumption | with_reducible refine mappingFault_kept ?_
    | with_reducible refine modUnit_kept ?_ | with_reducible refine submitMove_kept ?_ | split)

/-! ## Access -/

theorem takeT2_kept {s0 : State} {who : Taker} {p n : Nat} {x3 : List Nat} {x4 : State} (h : Kept s0 x4) :
    Kept s0 ((takeT2 who p n x3 x4).2) := by
  fun_induction takeT2 who p n x3 x4 <;> (repeat' (first
    | with_reducible assumption | with_reducible refine Kept.snd ?_ (by assumption)
    | with_reducible refine Kept.fst ?_ (by assumption) | with_reducible refine Kept.snd2 ?_ (by assumption)
    | with_reducible refine Kept.snd3 ?_ (by assumption) | with_reducible refine Kept.eqSnd ?_ (by assumption)
    | with_reducible refine Kept.eqFst ?_ (by assumption) | with_reducible refine allocTry_kept ?_
    | with_reducible refine freeHank_kept ?_ | with_reducible (refine Kept.foldl ?_ (fun _ _ _ => ?_))
    | with_reducible apply_assumption -exfalso))

theorem lazyCopy_kept {s0 : State} {p id : Nat} {s : State} (h : Kept s0 s) : Kept s0 (lazyCopy p id s) := by
  unfold lazyCopy
  repeat' (first
    | with_reducible assumption | with_reducible refine Kept.snd ?_ (by assumption)
    | with_reducible refine Kept.fst ?_ (by assumption) | with_reducible refine Kept.snd2 ?_ (by assumption)
    | with_reducible refine Kept.snd3 ?_ (by assumption) | with_reducible refine Kept.eqSnd ?_ (by assumption)
    | with_reducible refine Kept.eqFst ?_ (by assumption) | with_reducible refine areaWrite_kept ?_
    | with_reducible refine bump_kept ?_ | with_reducible refine catCount_kept ?_
    | with_reducible refine modCast_kept ?_ | with_reducible refine returnStaged_kept ?_ (by assumption)
    | with_reducible refine Kept.getD ?_ (fun _ _ => ?_)
    | with_reducible refine Kept.ofFind (fun _ _ _ => ?_) (by assumption) | with_reducible refine takeT2_kept ?_
    | split)

theorem segFault_kept {s0 : State} {u pc : Nat} {c : Cast} {sg : Seg} {off : Nat} {s : State} (h : Kept s0 s) :
    Kept s0 (segFault u pc c sg off s) := by
  unfold segFault
  repeat' (first
    | with_reducible assumption | with_reducible refine mappingFaultAt_kept ?_)

theorem noSegment_kept {s0 : State} {u pc : Nat} {s : State} (h : Kept s0 s) : Kept s0 (noSegment u pc s) := by
  unfold noSegment
  repeat' (first
    | with_reducible assumption | with_reducible refine freeNat_kept ?_
    | with_reducible refine mappingFaultAt_kept ?_)

theorem endWork_kept {s0 : State} {p status : Nat} {s : State} (h : Kept s0 s) : Kept s0 (endWork p status s) := by
  unfold endWork
  repeat' (first
    | with_reducible assumption | with_reducible refine endSlot_kept ?_
    | with_reducible (refine Kept.foldl ?_ (fun _ _ _ => ?_)))

theorem lostForPanel_kept {s0 : State} {p : Nat} {s : State} (h : Kept s0 s) : Kept s0 (lostForPanel p s) := by
  unfold lostForPanel
  repeat' (first
    | with_reducible assumption | with_reducible refine endWork_kept ?_)

theorem followPieces_kept {s0 : State} {p : Nat} {c : Cast} {id : Nat} {x3 x4 : List (Nat × Nat)} {x5 : State}
    (h : Kept s0 x5) : Kept s0 (accSt (followPieces p c id x3 x4 x5)) := by
  fun_induction followPieces p c id x3 x4 x5 <;> (repeat' (first
    | with_reducible assumption | with_reducible refine lazyCopy_kept ?_
    | with_reducible refine lostForPanel_kept ?_ | with_reducible refine submitReturn_kept ?_
    | with_reducible apply_assumption -exfalso | (dsimp only [accSt_go, accSt_wait, accSt_lost, accSt_fault])))

theorem followTile_kept {s0 : State} {p : Nat} {c : Cast} {sg : Seg} {off n : Nat} {s : State} (h : Kept s0 s) :
    Kept s0 (accSt ((followTile p c sg off n s).2)) := by
  unfold followTile
  repeat' (first
    | with_reducible assumption | with_reducible refine followPieces_kept ?_
    | with_reducible refine Kept.go ?_ (by assumption) | with_reducible refine Kept.wait ?_ (by assumption)
    | with_reducible refine Kept.lost ?_ (by assumption) | with_reducible refine Kept.fault ?_ (by assumption)
    | with_reducible refine Kept.eqAcc ?_ (by assumption) | with_reducible refine Kept.sndGo ?_ (by assumption)
    | with_reducible refine Kept.sndAcc ?_ (by assumption)
    | (dsimp only [accSt_go, accSt_wait, accSt_lost, accSt_fault]) | split)

theorem unitAccess_kept {s0 : State} {u pc sgi off n : Nat} {write : Bool} {s : State} (h : Kept s0 s) :
    Kept s0 (accSt (unitAccess u pc sgi off n write s)) := by
  unfold unitAccess
  repeat' (first
    | with_reducible assumption | with_reducible refine bump_kept ?_ | with_reducible refine cacheReads_kept ?_
    | with_reducible refine followTile_kept ?_ | with_reducible refine mappingFaultAt_kept ?_
    | with_reducible refine modUnit_kept ?_ | with_reducible refine noSegment_kept ?_
    | with_reducible refine segFault_kept ?_ | with_reducible refine touch_kept ?_
    | with_reducible refine Kept.go ?_ (by assumption) | with_reducible refine Kept.wait ?_ (by assumption)
    | with_reducible refine Kept.lost ?_ (by assumption) | with_reducible refine Kept.fault ?_ (by assumption)
    | with_reducible refine Kept.eqAcc ?_ (by assumption) | with_reducible refine Kept.sndGo ?_ (by assumption)
    | with_reducible refine Kept.sndAcc ?_ (by assumption)
    | with_reducible (refine Kept.foldl ?_ (fun _ _ _ => ?_))
    | (dsimp only [accSt_go, accSt_wait, accSt_lost, accSt_fault]) | split)

theorem noHomeFor_kept {s0 : State} {p a : Nat} {s : State} (h : Kept s0 s) : Kept s0 (noHomeFor p a s) := by
  unfold noHomeFor
  repeat' (first
    | with_reducible assumption | with_reducible refine bump_kept ?_ | with_reducible refine endWork_kept ?_)

theorem followAreas_kept {s0 : State} {p : Nat} {c : Cast} {x2 : List (Nat × Nat × Nat)} {x3 : List (Nat × Nat)}
    {x4 : State} (h : Kept s0 x4) : Kept s0 (accSt (followAreas p c x2 x3 x4)) := by
  fun_induction followAreas p c x2 x3 x4 <;> (repeat' (first
    | with_reducible assumption | with_reducible refine followPieces_kept ?_
    | with_reducible refine Kept.go ?_ (by assumption) | with_reducible refine Kept.wait ?_ (by assumption)
    | with_reducible refine Kept.lost ?_ (by assumption) | with_reducible refine Kept.fault ?_ (by assumption)
    | with_reducible refine Kept.eqAcc ?_ (by assumption) | with_reducible refine Kept.sndGo ?_ (by assumption)
    | with_reducible refine Kept.sndAcc ?_ (by assumption) | with_reducible apply_assumption -exfalso))

theorem holdWrite_kept {s0 : State} {p a : Nat} {slots : List Nat} {s : State} (h : Kept s0 s) : Kept s0
    (holdWrite p a slots s) := by
  unfold holdWrite
  repeat' (first
    | with_reducible assumption | with_reducible refine Kept.snd ?_ (by assumption)
    | with_reducible refine Kept.fst ?_ (by assumption) | with_reducible refine Kept.snd2 ?_ (by assumption)
    | with_reducible refine Kept.snd3 ?_ (by assumption) | with_reducible refine Kept.eqSnd ?_ (by assumption)
    | with_reducible refine Kept.eqFst ?_ (by assumption) | with_reducible refine modCast_kept ?_
    | with_reducible (refine Kept.foldl ?_ (fun _ _ _ => ?_))
    | with_reducible (refine Kept.foldl2 ?_ (fun _ _ _ => ?_))
    | (fail_if_no_progress with_reducible (refine Kept.put ?_ rfl)) | split | (dsimp only))

theorem engineRanges_kept {s0 : State} {p : Nat} {ps : List (Nat × Nat)} {write : Bool} {s : State} (h :
    Kept s0 s) : Kept s0 (accSt (engineRanges p ps write s)) := by
  unfold engineRanges
  repeat' (first
    | with_reducible assumption | with_reducible refine cacheLooks_kept ?_
    | with_reducible refine holdWrite_kept ?_ | with_reducible refine noHomeFor_kept ?_
    | with_reducible refine touch_kept ?_ | with_reducible (refine Kept.foldl ?_ (fun _ _ _ => ?_))
    | (dsimp only [accSt_go, accSt_wait, accSt_lost, accSt_fault]) | split)

theorem engineAccess_kept {s0 : State} {p : Nat} {c : Cast} {rs : List (Nat × Nat × Nat)} {write : Bool}
    {s : State} (h : Kept s0 s) : Kept s0 (accSt (engineAccess p c rs write s)) := by
  unfold engineAccess
  repeat' (first
    | with_reducible assumption | with_reducible refine engineRanges_kept ?_
    | with_reducible refine followAreas_kept ?_ | with_reducible refine Kept.go ?_ (by assumption)
    | with_reducible refine Kept.wait ?_ (by assumption) | with_reducible refine Kept.lost ?_ (by assumption)
    | with_reducible refine Kept.fault ?_ (by assumption) | with_reducible refine Kept.eqAcc ?_ (by assumption)
    | with_reducible refine Kept.sndGo ?_ (by assumption) | with_reducible refine Kept.sndAcc ?_ (by assumption)
    | (dsimp only [accSt_go, accSt_wait, accSt_lost, accSt_fault]) | split)

theorem areasAccess_kept {s0 : State} {p : Nat} {reads writes : List (Nat × Nat × Nat)} {s : State} (h :
    Kept s0 s) : Kept s0 (accSt (areasAccess p reads writes s)) := by
  unfold areasAccess
  repeat' (first
    | with_reducible assumption | with_reducible refine engineAccess_kept ?_
    | with_reducible refine Kept.go ?_ (by assumption) | with_reducible refine Kept.wait ?_ (by assumption)
    | with_reducible refine Kept.lost ?_ (by assumption) | with_reducible refine Kept.fault ?_ (by assumption)
    | with_reducible refine Kept.eqAcc ?_ (by assumption) | with_reducible refine Kept.sndGo ?_ (by assumption)
    | with_reducible refine Kept.sndAcc ?_ (by assumption)
    | (dsimp only [accSt_go, accSt_wait, accSt_lost, accSt_fault]) | split)

theorem withAreas_kept {s0 : State} {p : Nat} {reads writes : List (Nat × Nat × Nat)} {f : State → State}
    {s : State} (h : Kept s0 s) (hf : ∀ t, Kept s0 t → Kept s0 ((f  t))) :
    Kept s0 (withAreas p reads writes f s) := by
  unfold withAreas
  repeat' (first
    | with_reducible assumption | with_reducible refine hf _ ?_ | with_reducible refine areasAccess_kept ?_
    | with_reducible refine Kept.go ?_ (by assumption) | with_reducible refine Kept.wait ?_ (by assumption)
    | with_reducible refine Kept.lost ?_ (by assumption) | with_reducible refine Kept.fault ?_ (by assumption)
    | with_reducible refine Kept.eqAcc ?_ (by assumption) | with_reducible refine Kept.sndGo ?_ (by assumption)
    | with_reducible refine Kept.sndAcc ?_ (by assumption)
    | (dsimp only [accSt_go, accSt_wait, accSt_lost, accSt_fault]) | split)

theorem nextTile_kept {s0 : State} {p die : Nat} {s : State} (h : Kept s0 s) : Kept s0 ((nextTile p die s).2) := by
  unfold nextTile
  repeat' (first
    | with_reducible assumption | with_reducible refine modCast_kept ?_)

theorem writePieces_kept {s0 : State} {ps : List (Nat × Nat)} {l : List Byte} {s : State} (h : Kept s0 s) :
    Kept s0 (writePieces ps l s) := by
  unfold writePieces
  repeat' (first
    | with_reducible assumption | with_reducible refine wr_kept ?_
    | with_reducible (refine Kept.foldl2 ?_ (fun _ _ _ => ?_)))

theorem startEpoch_kept {s0 : State} {key : Nat} {w : BitVec 64} {s : State} (h : Kept s0 s) :
    Kept s0 (startEpoch key w s) := by
  unfold startEpoch
  repeat' (first
    | with_reducible assumption | with_reducible refine bump_kept ?_ | with_reducible refine wakeClaims_kept ?_
    | (fail_if_no_progress with_reducible (refine Kept.put ?_ rfl)) | split)

theorem applyParked_kept {s0 : State} {key : Nat} {s : State} (h : Kept s0 s) : Kept s0 (applyParked key s) := by
  unfold applyParked
  repeat' (first
    | with_reducible assumption | with_reducible refine startEpoch_kept ?_ | split)

theorem countStore_kept {s0 : State} {key : Nat} {w : BitVec 64} {s : State} (h : Kept s0 s) :
    Kept s0 (countStore key w s) := by
  unfold countStore
  repeat' (first
    | with_reducible assumption | with_reducible refine applyParked_kept ?_ | with_reducible refine bump_kept ?_
    | with_reducible refine startEpoch_kept ?_ | with_reducible refine wakeClaims_kept ?_
    | (fail_if_no_progress with_reducible (refine Kept.put ?_ rfl)) | split | (dsimp only))

theorem slotStored_kept {s0 : State} {a n : Nat} {s : State} (h : Kept s0 s) : Kept s0 (slotStored a n s) := by
  unfold slotStored
  repeat' (first
    | with_reducible assumption | (fail_if_no_progress with_reducible (refine Kept.put ?_ rfl)))

theorem snoop_kept {s0 : State} {u a : Nat} {l : List Byte} {s : State} (h : Kept s0 s) :
    Kept s0 (snoop u a l s) := by
  unfold snoop
  repeat' (first
    | with_reducible assumption | with_reducible refine countStore_kept ?_
    | with_reducible refine slotStored_kept ?_ | with_reducible refine unitMove_kept ?_
    | with_reducible (refine Kept.foldl ?_ (fun _ _ _ => ?_))
    | (fail_if_no_progress with_reducible (refine Kept.put ?_ rfl)) | split | (dsimp only))

theorem unitStore_kept {s0 : State} {u : Nat} {ps : List (Nat × Nat)} {l : List Byte} {s : State} (h :
    Kept s0 s) : Kept s0 (unitStore u ps l s) := by
  unfold unitStore
  repeat' (first
    | with_reducible assumption | with_reducible refine snoop_kept ?_ | with_reducible refine writePieces_kept ?_
    | with_reducible (refine Kept.foldl2 ?_ (fun _ _ _ => ?_)))

theorem putTileHdr_kept {s0 : State} {c : Cast} {t : TileDecl} {i : Nat} {x3 : Rec64} {s : State} (h :
    Kept s0 s) : Kept s0 (putTileHdr c t i x3 s) := by
  unfold putTileHdr
  repeat' (first
    | with_reducible assumption | with_reducible refine areaWrite_kept ?_)

theorem startRecover_kept {s0 : State} {u addr : Nat} {s : State} (h : Kept s0 s) :
    Kept s0 ((startRecover u addr s).1) := by
  unfold startRecover
  repeat' (first
    | with_reducible assumption | with_reducible refine bump_kept ?_ | with_reducible refine setUnit_kept ?_
    | split | (dsimp only))

theorem rewriteTile_kept {s0 : State} {c : Cast} {x : TilePlace} {x2 : Rec64} {l : List Byte} {s : State} (h :
    Kept s0 s) : Kept s0 (rewriteTile c x x2 l s) := by
  unfold rewriteTile
  repeat' (first
    | with_reducible assumption | with_reducible refine Kept.snd ?_ (by assumption)
    | with_reducible refine Kept.fst ?_ (by assumption) | with_reducible refine Kept.snd2 ?_ (by assumption)
    | with_reducible refine Kept.snd3 ?_ (by assumption) | with_reducible refine Kept.eqSnd ?_ (by assumption)
    | with_reducible refine Kept.eqFst ?_ (by assumption) | with_reducible refine areaPut_kept ?_
    | with_reducible refine bump_kept ?_ | with_reducible (refine Kept.foldl ?_ (fun _ _ _ => ?_))
    | with_reducible (refine Kept.foldl2 ?_ (fun _ _ _ => ?_))
    | (fail_if_no_progress with_reducible (refine Kept.put ?_ rfl)) | split | (dsimp only))

theorem loseTile_kept {s0 : State} {c : Cast} {x : TilePlace} {s : State} (h : Kept s0 s) :
    Kept s0 (loseTile c x s) := by
  unfold loseTile
  repeat' (first
    | with_reducible assumption | with_reducible refine Kept.snd ?_ (by assumption)
    | with_reducible refine Kept.fst ?_ (by assumption) | with_reducible refine Kept.snd2 ?_ (by assumption)
    | with_reducible refine Kept.snd3 ?_ (by assumption) | with_reducible refine Kept.eqSnd ?_ (by assumption)
    | with_reducible refine Kept.eqFst ?_ (by assumption) | with_reducible refine dataLost_kept ?_
    | with_reducible refine loseRange_kept ?_ | with_reducible (refine Kept.foldl ?_ (fun _ _ _ => ?_))
    | with_reducible (refine Kept.foldl2 ?_ (fun _ _ _ => ?_))
    | (fail_if_no_progress with_reducible (refine Kept.put ?_ rfl)) | split | (dsimp only))

theorem engineTile_kept {s0 : State} {c : Cast} {x : TilePlace} {s : State} (h : Kept s0 s) :
    Kept s0 ((engineTile c x s).2) := by
  unfold engineTile
  repeat' (first
    | with_reducible assumption | with_reducible refine bump_kept ?_ | with_reducible refine rewriteTile_kept ?_
    | split | (dsimp only))

theorem engineTiles_kept {s0 : State} {c : Cast} {x1 : List TilePlace} {x2 : State} (h : Kept s0 x2) :
    Kept s0 ((engineTiles c x1 x2).2) := by
  fun_induction engineTiles c x1 x2 <;> (repeat' (first
    | with_reducible assumption | with_reducible refine Kept.snd ?_ (by assumption)
    | with_reducible refine Kept.fst ?_ (by assumption) | with_reducible refine Kept.snd2 ?_ (by assumption)
    | with_reducible refine Kept.snd3 ?_ (by assumption) | with_reducible refine Kept.eqSnd ?_ (by assumption)
    | with_reducible refine Kept.eqFst ?_ (by assumption) | with_reducible refine engineTile_kept ?_
    | with_reducible refine loseTile_kept ?_ | with_reducible (refine Kept.foldl2 ?_ (fun _ _ _ => ?_))
    | with_reducible apply_assumption -exfalso | split | (dsimp only)))

theorem removePages_kept {s0 : State} {c : Cast} {x : ImageAt} {src : Source} {s : State} {r : Nat × Nat × Nat}
    (h : Kept s0 s) : Kept s0 (removePages c x src s r) := by
  unfold removePages
  repeat' (first
    | with_reducible assumption | with_reducible refine Kept.snd ?_ (by assumption)
    | with_reducible refine Kept.fst ?_ (by assumption) | with_reducible refine Kept.snd2 ?_ (by assumption)
    | with_reducible refine Kept.snd3 ?_ (by assumption) | with_reducible refine Kept.eqSnd ?_ (by assumption)
    | with_reducible refine Kept.eqFst ?_ (by assumption) | with_reducible refine areaPut_kept ?_
    | with_reducible (refine Kept.foldl ?_ (fun _ _ _ => ?_))
    | with_reducible (refine Kept.foldl2 ?_ (fun _ _ _ => ?_))
    | (fail_if_no_progress with_reducible (refine Kept.put ?_ rfl)) | split | (dsimp only))

theorem recoverBy_kept {s0 : State} {c : Cast} {x : TilePlace} {peer : List (Nat × List Byte)} {s : State} (h :
    Kept s0 s) : Kept s0 ((recoverBy c x peer s).2) := by
  unfold recoverBy
  repeat' (first
    | with_reducible assumption | with_reducible refine Kept.snd ?_ (by assumption)
    | with_reducible refine Kept.fst ?_ (by assumption) | with_reducible refine Kept.snd2 ?_ (by assumption)
    | with_reducible refine Kept.snd3 ?_ (by assumption) | with_reducible refine Kept.eqSnd ?_ (by assumption)
    | with_reducible refine Kept.eqFst ?_ (by assumption) | with_reducible refine removePages_kept ?_
    | with_reducible refine rewriteTile_kept ?_ | with_reducible refine trySources_kept ?_ (fun _ _ _ => ?_)
    | with_reducible (refine Kept.foldl ?_ (fun _ _ _ => ?_))
    | with_reducible (refine Kept.foldl2 ?_ (fun _ _ _ => ?_))
    | (fail_if_no_progress with_reducible (refine Kept.put ?_ rfl)) | split | (dsimp only))

theorem recoveryReturns_kept {s0 : State} {c : Cast} {x : TilePlace} {s : State} {out : State} (h : Kept s0 s)
    (e : recoveryReturns c x s = some out) : Kept s0 out := by
  unfold recoveryReturns at e
  repeat' (first | (cases e; done) | (split at e) | (dsimp only at e))
  all_goals first
    | (injection e with e; subst e)
    | obtain ⟨_, _, rfl⟩ := Option.map_eq_some_iff.mp e
    | skip
  all_goals repeat' (first
    | with_reducible assumption | with_reducible refine Kept.snd ?_ (by assumption)
    | with_reducible refine Kept.fst ?_ (by assumption) | with_reducible refine Kept.snd2 ?_ (by assumption)
    | with_reducible refine Kept.snd3 ?_ (by assumption) | with_reducible refine Kept.eqSnd ?_ (by assumption)
    | with_reducible refine Kept.eqFst ?_ (by assumption)
    | with_reducible refine returnStaged_kept ?_ (by assumption)
    | with_reducible refine Kept.getD ?_ (fun _ _ => ?_)
    | with_reducible refine Kept.ofFind (fun _ _ _ => ?_) (by assumption)
    | with_reducible (refine Kept.foldl ?_ (fun _ _ _ => ?_))
    | with_reducible (refine Kept.foldl2 ?_ (fun _ _ _ => ?_))
    | (fail_if_no_progress with_reducible (refine Kept.put ?_ rfl)) | split | (dsimp only))

theorem recoverTile_kept {s0 : State} {u p : Nat} {c : Cast} {x : TilePlace} {peer : List (Nat × List Byte)}
    {s : State} (h : Kept s0 s) : Kept s0 (recoverTile u p c x peer s) := by
  unfold recoverTile
  repeat' (first
    | with_reducible assumption | with_reducible refine Kept.snd ?_ (by assumption)
    | with_reducible refine Kept.fst ?_ (by assumption) | with_reducible refine Kept.snd2 ?_ (by assumption)
    | with_reducible refine Kept.snd3 ?_ (by assumption) | with_reducible refine Kept.eqSnd ?_ (by assumption)
    | with_reducible refine Kept.eqFst ?_ (by assumption) | with_reducible refine loseTile_kept ?_
    | with_reducible refine lostForPanel_kept ?_ | with_reducible refine modUnit_kept ?_
    | with_reducible refine recoverBy_kept ?_ | with_reducible refine recoveryReturns_kept ?_ (by assumption)
    | with_reducible refine Kept.getD ?_ (fun _ _ => ?_)
    | with_reducible refine Kept.ofFind (fun _ _ _ => ?_) (by assumption)
    | with_reducible (refine Kept.foldl ?_ (fun _ _ _ => ?_))
    | with_reducible (refine Kept.foldl2 ?_ (fun _ _ _ => ?_))
    | (fail_if_no_progress with_reducible (refine Kept.put ?_ rfl)) | split | (dsimp only))

/-! ## Control -/

theorem haltStep_kept {s0 : State} {u : Nat} {s : State} (h : Kept s0 s) : Kept s0 ((haltStep u s).1) := by
  unfold haltStep
  repeat' (first
    | with_reducible assumption | with_reducible refine modUnit_kept ?_)

theorem loopStep_kept {s0 : State} {u ctr target : Nat} {x3 : BitVec 8} {mark : Bool} {s : State} (h :
    Kept s0 s) : Kept s0 ((loopStep u ctr target x3 mark s).1) := by
  unfold loopStep
  repeat' (first
    | with_reducible assumption | with_reducible refine Kept.snd ?_ (by assumption)
    | with_reducible refine Kept.fst ?_ (by assumption) | with_reducible refine Kept.snd2 ?_ (by assumption)
    | with_reducible refine Kept.snd3 ?_ (by assumption) | with_reducible refine Kept.eqSnd ?_ (by assumption)
    | with_reducible refine Kept.eqFst ?_ (by assumption) | with_reducible refine doStep_kept ?_
    | with_reducible refine goTo_kept ?_ | with_reducible refine modUnit_kept ?_
    | with_reducible refine retire_kept ?_ | split | (dsimp only))

theorem markerFault_kept {s0 : State} {u : Nat} {m : BitVec 16} {s : State} (h : Kept s0 s) :
    Kept s0 (markerFault u m s) := by
  unfold markerFault
  repeat' (first
    | with_reducible assumption | with_reducible refine mappingFault_kept ?_)

theorem beatFault_kept {s0 : State} {u : Nat} {s : State} (h : Kept s0 s) : Kept s0 (beatFault u s) := by
  unfold beatFault
  repeat' (first
    | with_reducible assumption | with_reducible refine freeNat_kept ?_
    | with_reducible refine mappingFault_kept ?_)

theorem brmStep_kept {s0 : State} {u i target type : Nat} {keep argm : Bool} {arg : Nat} {s : State} (h :
    Kept s0 s) : Kept s0 ((brmStep u i target type keep argm arg s).1) := by
  unfold brmStep
  repeat' (first
    | with_reducible assumption | with_reducible refine beatFault_kept ?_ | with_reducible refine goTo_kept ?_
    | with_reducible refine markerFault_kept ?_ | with_reducible refine retire_kept ?_
    | with_reducible refine takeHead_kept ?_ | split | (dsimp only))

theorem semWaitStep_kept {s0 : State} {u sem : Nat} {s : State} (h : Kept s0 s) :
    Kept s0 ((semWaitStep u sem s).1) := by
  unfold semWaitStep
  repeat' (first
    | with_reducible assumption | with_reducible refine retire_kept ?_ | with_reducible refine setUnit_kept ?_
    | split | (dsimp only))

theorem deviceSignal_kept {s0 : State} {u sem : Nat} {s : State} (h : Kept s0 s) :
    Kept s0 (deviceSignal u sem s) := by
  unfold deviceSignal
  repeat' (first
    | with_reducible assumption | with_reducible refine mappingFault_kept ?_
    | with_reducible refine modCast_kept ?_ | split | (dsimp only))

theorem semSignalStep_kept {s0 : State} {u sem route : Nat} {s : State} (h : Kept s0 s) :
    Kept s0 ((semSignalStep u sem route s).1) := by
  unfold semSignalStep
  repeat' (first
    | with_reducible assumption | with_reducible refine deviceSignal_kept ?_
    | with_reducible refine retire_kept ?_ | with_reducible refine sendSignals_kept ?_ | split | (dsimp only))

theorem execSemaphoreSignalArrive_kept {s0 : State} {u : BitVec 9} {sem : BitVec 5} {s : State} {out : State}
    (h : Kept s0 s) (e : execSemaphoreSignalArrive u sem s = .next out) : Kept s0 out := by
  unfold execSemaphoreSignalArrive at e
  injection e with e
  subst e
  repeat' (first
    | with_reducible assumption | with_reducible refine signalArrive_kept ?_
    | (fail_if_no_progress with_reducible (refine Kept.put ?_ rfl)) | split)

theorem barrierStep_kept {s0 : State} {u id : Nat} {inp x3 : BitVec 8} {s : State} (h : Kept s0 s) :
    Kept s0 ((barrierStep u id inp x3 s).1) := by
  unfold barrierStep
  repeat' (first
    | with_reducible assumption | with_reducible refine barrierClash_kept ?_
    | with_reducible refine markerFault_kept ?_ | with_reducible refine modUnit_kept ?_ | split | (dsimp only))

theorem barrierFinish_kept {s0 : State} {u : Nat} {s : State} (h : Kept s0 s) : Kept s0 (barrierFinish u s) := by
  unfold barrierFinish
  repeat' (first
    | with_reducible assumption | with_reducible refine modUnit_kept ?_ | with_reducible refine putOuts_kept ?_
    | with_reducible refine retire_kept ?_ | with_reducible refine takeHead_kept ?_
    | with_reducible (refine Kept.foldl ?_ (fun _ _ _ => ?_)) | split)

theorem meetBarrier_kept {s0 : State} {p : Nat} {s : State} (h : Kept s0 s) : Kept s0 (meetBarrier p s) := by
  unfold meetBarrier
  repeat' (first
    | with_reducible assumption | with_reducible refine modUnit_kept ?_
    | with_reducible (refine Kept.foldl ?_ (fun _ _ _ => ?_)) | split)

theorem completeIdx_kept {s0 : State} {u key : Nat} {s : State} (h : Kept s0 s) : Kept s0 (completeIdx u key s) := by
  unfold completeIdx
  repeat' (first
    | with_reducible assumption | with_reducible refine wakeClaims_kept ?_
    | (fail_if_no_progress with_reducible (refine Kept.put ?_ rfl)) | split)

theorem noList_kept {s0 : State} {u : Nat} {s : State} (h : Kept s0 s) : Kept s0 (noList u s) := by
  unfold noList
  repeat' (first
    | with_reducible assumption | with_reducible refine freeNat_kept ?_
    | with_reducible refine mappingFault_kept ?_)

theorem claimStep_kept {s0 : State} {u ctr key target : Nat} {s : State} (h : Kept s0 s) :
    Kept s0 ((claimStep u ctr key target s).1) := by
  unfold claimStep
  repeat' (first
    | with_reducible assumption | with_reducible refine modUnit_kept ?_ | with_reducible refine noList_kept ?_
    | (fail_if_no_progress with_reducible (refine Kept.put ?_ rfl)) | split)

theorem doneTileStep_kept {s0 : State} {u ctr key : Nat} {s : State} (h : Kept s0 s) :
    Kept s0 ((doneTileStep u ctr key s).1) := by
  unfold doneTileStep
  repeat' (first
    | with_reducible assumption | with_reducible refine completeIdx_kept ?_
    | with_reducible refine mappingFault_kept ?_ | with_reducible refine noList_kept ?_
    | with_reducible refine retire_kept ?_ | split | (dsimp only))

theorem claimAnswer_kept {s0 : State} {u : Nat} {idx : Option Nat} {s : State} (h : Kept s0 s) :
    Kept s0 (claimAnswer u idx s) := by
  unfold claimAnswer
  repeat' (first
    | with_reducible assumption | with_reducible refine goTo_kept ?_ | with_reducible refine modUnit_kept ?_
    | with_reducible refine retire_kept ?_ | split)

theorem serveClaim_kept {s0 : State} {c : Claim} {s : State} (h : Kept s0 s) : Kept s0 ((serveClaim c s).1) := by
  unfold serveClaim
  repeat' (first
    | with_reducible assumption | with_reducible refine applyParked_kept ?_ | with_reducible refine bump_kept ?_
    | with_reducible refine claimAnswer_kept ?_ | with_reducible refine completeIdx_kept ?_
    | (fail_if_no_progress with_reducible (refine Kept.put ?_ rfl)) | split | (dsimp only))

theorem execCountBeatStore_kept {s0 : State} {region : Bool} {idx : BitVec 6} {list : BitVec 4} {word : BitVec 64}
    {s : State} {out : State} (h : Kept s0 s) (e : execCountBeatStore region idx list word s = .next out) :
    Kept s0 out := by
  unfold execCountBeatStore at e
  injection e with e
  subst e
  repeat' (first
    | with_reducible assumption | with_reducible refine countStore_kept ?_ | with_reducible refine wr_kept ?_
    | split)

theorem execEpochApply_kept {s0 : State} {region : Bool} {idx : BitVec 6} {list : BitVec 4} {s : State}
    {out : State} (h : Kept s0 s) (e : execEpochApply region idx list s = .next out) : Kept s0 out := by
  unfold execEpochApply at e
  injection e with e
  subst e
  repeat' (first
    | with_reducible assumption | with_reducible refine applyParked_kept ?_)

theorem probStep_kept {s0 : State} {u ctr seg : Nat} {s : State} (h : Kept s0 s) :
    Kept s0 ((probStep u ctr seg s).1) := by
  unfold probStep
  repeat' (first
    | with_reducible assumption | with_reducible refine mappingFault_kept ?_
    | with_reducible refine modUnit_kept ?_ | with_reducible refine retire_kept ?_
    | with_reducible refine startRecover_kept ?_ | with_reducible refine unitAccess_kept ?_
    | with_reducible refine Kept.go ?_ (by assumption) | with_reducible refine Kept.wait ?_ (by assumption)
    | with_reducible refine Kept.lost ?_ (by assumption) | with_reducible refine Kept.fault ?_ (by assumption)
    | with_reducible refine Kept.eqAcc ?_ (by assumption) | with_reducible refine Kept.sndGo ?_ (by assumption)
    | with_reducible refine Kept.sndAcc ?_ (by assumption)
    | (dsimp only [accSt_go, accSt_wait, accSt_lost, accSt_fault]) | split)

theorem noProblem_kept {s0 : State} {u : Nat} {s : State} (h : Kept s0 s) : Kept s0 (noProblem u s) := by
  unfold noProblem
  repeat' (first
    | with_reducible assumption | with_reducible refine freeNat_kept ?_
    | with_reducible refine mappingFault_kept ?_)

theorem mwaitStep_kept {s0 : State} {u : Nat} {tag : BitVec 16} {s : State} (h : Kept s0 s) :
    Kept s0 ((mwaitStep u tag s).1) := by
  unfold mwaitStep
  repeat' (first
    | with_reducible assumption | with_reducible refine retire_kept ?_ | split | (dsimp only))

theorem csetStep_kept {s0 : State} {u ctr part : Nat} {apply : Bool} {v : BitVec 32} {s : State} (h :
    Kept s0 s) : Kept s0 ((csetStep u ctr part apply v s).1) := by
  unfold csetStep
  repeat' (first
    | with_reducible assumption | with_reducible refine modUnit_kept ?_ | with_reducible refine retire_kept ?_)

theorem caddStep_kept {s0 : State} {u ctr : Nat} {imm : BitVec 32} {s : State} (h : Kept s0 s) :
    Kept s0 ((caddStep u ctr imm s).1) := by
  unfold caddStep
  repeat' (first
    | with_reducible assumption | with_reducible refine mappingFault_kept ?_
    | with_reducible refine retire_kept ?_ | with_reducible refine setUnit_kept ?_ | split | (dsimp only))

theorem cloadStep_kept {s0 : State} {u ctr actr : Nat} {toBound : Bool} {s : State} (h : Kept s0 s) :
    Kept s0 ((cloadStep u ctr actr toBound s).1) := by
  unfold cloadStep
  repeat' (first
    | with_reducible assumption | with_reducible refine autoStep_kept ?_ | with_reducible refine lsFault_kept ?_
    | with_reducible refine retire_kept ?_ | with_reducible refine setUnit_kept ?_ | split | (dsimp only))

theorem cstepStep_kept {s0 : State} {u ctr : Nat} {s : State} (h : Kept s0 s) : Kept s0 ((cstepStep u ctr s).1) := by
  unfold cstepStep
  repeat' (first
    | with_reducible assumption | with_reducible refine Kept.snd ?_ (by assumption)
    | with_reducible refine Kept.fst ?_ (by assumption) | with_reducible refine Kept.snd2 ?_ (by assumption)
    | with_reducible refine Kept.snd3 ?_ (by assumption) | with_reducible refine Kept.eqSnd ?_ (by assumption)
    | with_reducible refine Kept.eqFst ?_ (by assumption) | with_reducible refine doStep_kept ?_
    | with_reducible refine retire_kept ?_ | split)

/-! ## Array -/

theorem passFails_kept {s0 : State} {u : Nat} {p : PassRec} {r : CheckRes} {s : State} (h : Kept s0 s) :
    Kept s0 (passFails u p r s) := by
  unfold passFails
  repeat' (first
    | with_reducible assumption | with_reducible refine bump_kept ?_ | with_reducible refine haltUnit_kept ?_
    | with_reducible refine logRec_kept ?_ | with_reducible refine modUnit_kept ?_
    | with_reducible refine setUnit_kept ?_ | with_reducible (refine Kept.foldl ?_ (fun _ _ _ => ?_)) | split
    | (dsimp only))

theorem execPassCheckOutcome_kept {s0 : State} {u : BitVec 9} {bufB : Bool} {s : State} {out : State} (h :
    Kept s0 s) (e : execPassCheckOutcome u bufB s = .next out) : Kept s0 out := by
  unfold execPassCheckOutcome at e
  injection e with e
  subst e
  repeat' (first
    | with_reducible assumption | with_reducible refine bump_kept ?_ | with_reducible refine modUnit_kept ?_
    | with_reducible refine passFails_kept ?_ | split | (dsimp only))

theorem addDepth_kept {s0 : State} {u d : Nat} {float : Bool} {s : State} (h : Kept s0 s) :
    Kept s0 (addDepth u d float s) := by
  unfold addDepth
  repeat' (first
    | with_reducible assumption | with_reducible refine bump_kept ?_ | with_reducible refine modUnit_kept ?_
    | with_reducible refine setUnit_kept ?_ | split | (dsimp only))

theorem commitReplace_kept {s0 : State} {u : Nat} {p : PassRec} {s : State} (h : Kept s0 s) :
    Kept s0 (commitReplace u p s) := by
  unfold commitReplace
  repeat' (first
    | with_reducible assumption | with_reducible refine setUnit_kept ?_)

theorem commitAdd_kept {s0 : State} {u : Nat} {p : PassRec} {s : State} (h : Kept s0 s) :
    Kept s0 (commitAdd u p s) := by
  unfold commitAdd
  repeat' (first
    | with_reducible assumption | with_reducible refine addDepth_kept ?_ | with_reducible refine setUnit_kept ?_
    | split)

theorem countHeld_kept {s0 : State} {u n : Nat} {s : State} (h : Kept s0 s) : Kept s0 (countHeld u n s) := by
  unfold countHeld
  repeat' (first
    | with_reducible assumption | with_reducible refine Kept.snd ?_ (by assumption)
    | with_reducible refine Kept.fst ?_ (by assumption) | with_reducible refine Kept.snd2 ?_ (by assumption)
    | with_reducible refine Kept.snd3 ?_ (by assumption) | with_reducible refine Kept.eqSnd ?_ (by assumption)
    | with_reducible refine Kept.eqFst ?_ (by assumption) | with_reducible refine bump_kept ?_
    | with_reducible (refine Kept.foldl ?_ (fun _ _ _ => ?_))
    | with_reducible (refine Kept.foldl2 ?_ (fun _ _ _ => ?_))
    | (fail_if_no_progress with_reducible (refine Kept.put ?_ rfl)) | split | (dsimp only))

theorem payIssue_kept {s0 : State} {u n : Nat} {s : State} (h : Kept s0 s) : Kept s0 (payIssue u n s) := by
  unfold payIssue
  repeat' (first
    | with_reducible assumption | with_reducible refine Kept.snd ?_ (by assumption)
    | with_reducible refine Kept.fst ?_ (by assumption) | with_reducible refine Kept.snd2 ?_ (by assumption)
    | with_reducible refine Kept.snd3 ?_ (by assumption) | with_reducible refine Kept.eqSnd ?_ (by assumption)
    | with_reducible refine Kept.eqFst ?_ (by assumption) | with_reducible refine countHeld_kept ?_
    | with_reducible refine setUnit_kept ?_ | with_reducible (refine Kept.foldl ?_ (fun _ _ _ => ?_))
    | with_reducible (refine Kept.foldl2 ?_ (fun _ _ _ => ?_))
    | (fail_if_no_progress with_reducible (refine Kept.put ?_ rfl)) | split | (dsimp only))

theorem commitStep_kept {s0 : State} {u : Nat} {bufB : Bool} {s : State} (h : Kept s0 s) :
    Kept s0 (commitStep u bufB s) := by
  unfold commitStep
  repeat' (first
    | with_reducible assumption | with_reducible refine commitAdd_kept ?_
    | with_reducible refine commitReplace_kept ?_ | with_reducible refine modUnit_kept ?_ | split | (dsimp only))

theorem replayStep_kept {s0 : State} {u : Nat} {upsets : List Upset} {s : State} (h : Kept s0 s) :
    Kept s0 (replayStep u upsets s) := by
  unfold replayStep
  repeat' (first
    | with_reducible assumption | with_reducible refine countHeld_kept ?_ | with_reducible refine setUnit_kept ?_
    | split | (dsimp only))

theorem markerFaultAt_kept {s0 : State} {u pc : Nat} {m : BitVec 16} {s : State} (h : Kept s0 s) :
    Kept s0 (markerFaultAt u pc m s) := by
  unfold markerFaultAt
  repeat' (first
    | with_reducible assumption | with_reducible refine mappingFaultAt_kept ?_)

theorem setArrOp_kept {s0 : State} {u : Nat} {op : EngOp} {s : State} (h : Kept s0 s) :
    Kept s0 (setArrOp u op s) := by
  unfold setArrOp
  repeat' (first
    | with_reducible assumption | with_reducible refine modUnit_kept ?_)

theorem popArr_kept {s0 : State} {u : Nat} {s : State} (h : Kept s0 s) : Kept s0 (popArr u s) := by
  unfold popArr
  repeat' (first
    | with_reducible assumption | with_reducible refine modUnit_kept ?_)

theorem gatherStep_kept {s0 : State} {u pc i : Nat} {put : Beat → Option Rec64 → EngOp} {s : State} (h :
    Kept s0 s) : Kept s0 ((gatherStep u pc i put s).1) := by
  unfold gatherStep
  repeat' (first
    | with_reducible assumption | with_reducible refine markerFaultAt_kept ?_
    | with_reducible refine setArrOp_kept ?_ | with_reducible refine takeHead_kept ?_ | split | (dsimp only))

theorem loadPlane_kept {s0 : State} {u cell : Nat} {bytes : List Byte} {s : State} (h : Kept s0 s) :
    Kept s0 (loadPlane u cell bytes s) := by
  unfold loadPlane
  repeat' (first
    | with_reducible assumption | with_reducible refine modUnit_kept ?_ | with_reducible refine popArr_kept ?_)

theorem issuePass_kept {s0 : State} {u : Nat} {q : QOp} {sh m afmt wfmt : Nat} {keep add : Bool} {acts : List Byte}
    {ups : List Upset} {s : State} (h : Kept s0 s) :
    Kept s0 ((issuePass u q sh m afmt wfmt keep add acts ups s).1) := by
  unfold issuePass
  repeat' (first
    | with_reducible assumption | with_reducible refine countHeld_kept ?_ | with_reducible refine popArr_kept ?_
    | with_reducible refine setUnit_kept ?_ | split | (dsimp only))

theorem accumulateIn_kept {s0 : State} {u rows : Nat} {bytes : List Byte} {depth : Nat} {s : State} (h :
    Kept s0 s) : Kept s0 (accumulateIn u rows bytes depth s) := by
  unfold accumulateIn
  repeat' (first
    | with_reducible assumption | with_reducible refine addDepth_kept ?_ | with_reducible refine popArr_kept ?_
    | with_reducible refine setUnit_kept ?_)

theorem accinStep_kept {s0 : State} {u num rows : Nat} {key : List Nat} {bytes : List Byte} {x5 : Option Rec64}
    {s : State} (h : Kept s0 s) : Kept s0 ((accinStep u num rows key bytes x5 s).1) := by
  unfold accinStep
  repeat' (first
    | with_reducible assumption | with_reducible refine Kept.snd ?_ (by assumption)
    | with_reducible refine Kept.fst ?_ (by assumption) | with_reducible refine Kept.snd2 ?_ (by assumption)
    | with_reducible refine Kept.snd3 ?_ (by assumption) | with_reducible refine Kept.eqSnd ?_ (by assumption)
    | with_reducible refine Kept.eqFst ?_ (by assumption) | with_reducible refine accumulateIn_kept ?_ | split
    | (dsimp only))

theorem arrayOp_kept {s0 : State} {u : Nat} {q : QOp} {s : State} (h : Kept s0 s) : Kept s0 ((arrayOp u q s).1) := by
  unfold arrayOp
  repeat' (first
    | with_reducible assumption | with_reducible refine Kept.snd ?_ (by assumption)
    | with_reducible refine Kept.fst ?_ (by assumption) | with_reducible refine Kept.snd2 ?_ (by assumption)
    | with_reducible refine Kept.snd3 ?_ (by assumption) | with_reducible refine Kept.eqSnd ?_ (by assumption)
    | with_reducible refine Kept.eqFst ?_ (by assumption) | with_reducible refine accinStep_kept ?_
    | with_reducible refine gatherStep_kept ?_ | with_reducible refine issuePass_kept ?_
    | with_reducible refine loadPlane_kept ?_ | with_reducible (refine Kept.foldl ?_ (fun _ _ _ => ?_))
    | with_reducible (refine Kept.foldl2 ?_ (fun _ _ _ => ?_))
    | (fail_if_no_progress with_reducible (refine Kept.put ?_ rfl)) | split | (dsimp only))

theorem arrayStep_kept {s0 : State} {u : Nat} {s : State} (h : Kept s0 s) : Kept s0 ((arrayStep u s).1) := by
  unfold arrayStep
  repeat' (first
    | with_reducible assumption | with_reducible refine arrayOp_kept ?_ | split | (dsimp only))

theorem pushArr_kept {s0 : State} {u : Nat} {op : EngOp} {autos : List Nat} {s : State} (h : Kept s0 s) :
    Kept s0 ((pushArr u op autos s).1) := by
  unfold pushArr
  repeat' (first
    | with_reducible assumption | with_reducible refine arrayStep_kept ?_ | with_reducible refine autoStep_kept ?_
    | with_reducible refine retire_kept ?_ | with_reducible refine setUnit_kept ?_ | split | (dsimp only))

theorem planeIssue_kept {s0 : State} {u : Nat} {inp : BitVec 8} {actr cell : Nat} {p : Bool} {s : State} (h :
    Kept s0 s) : Kept s0 ((planeIssue u inp actr cell p s).1) := by
  unfold planeIssue
  repeat' (first
    | with_reducible assumption | with_reducible refine lsFault_kept ?_ | with_reducible refine noProblem_kept ?_
    | with_reducible refine pushArr_kept ?_ | split | (dsimp only))

theorem passIssue_kept {s0 : State} {u : Nat} {inp : BitVec 8} {sh m actr af wf : Nat} {keep add p : Bool}
    {ups : List Upset} {s : State} (h : Kept s0 s) :
    Kept s0 ((passIssue u inp sh m actr af wf keep add p ups s).1) := by
  unfold passIssue
  repeat' (first
    | with_reducible assumption | with_reducible refine lsFault_kept ?_ | with_reducible refine noProblem_kept ?_
    | with_reducible refine pushArr_kept ?_ | with_reducible refine setUnit_kept ?_ | split | (dsimp only))

theorem accinIssue_kept {s0 : State} {u : Nat} {inp : BitVec 8} {actr rows : Nat} {p : Bool} {s : State} (h :
    Kept s0 s) : Kept s0 ((accinIssue u inp actr rows p s).1) := by
  unfold accinIssue
  repeat' (first
    | with_reducible assumption | with_reducible refine lsFault_kept ?_ | with_reducible refine noProblem_kept ?_
    | with_reducible refine pushArr_kept ?_ | split | (dsimp only))

/-! ## Output -/

theorem clearHist_kept {s0 : State} {p : Nat} {ident : BitVec 32} {g : Nat} {s : State} (h : Kept s0 s) :
    Kept s0 (clearHist p ident g s) := by
  unfold clearHist
  repeat' (first
    | with_reducible assumption | with_reducible refine modUnit_kept ?_
    | with_reducible (refine Kept.foldl ?_ (fun _ _ _ => ?_)) | split)

theorem histReach_kept {s0 : State} {p ofmt g : Nat} {t : Tensor} {s : State} (h : Kept s0 s) : Kept s0 (accSt
    (histReach p ofmt g t s)) := by
  unfold histReach
  repeat' (first
    | with_reducible assumption | with_reducible refine followPieces_kept ?_
    | (dsimp only [accSt_go, accSt_wait, accSt_lost, accSt_fault]) | split)

theorem writeHist_kept {s0 : State} {u fmt g : Nat} {t : Tensor} {s : State} (h : Kept s0 s) :
    Kept s0 (writeHist u fmt g t s) := by
  unfold writeHist
  repeat' (first
    | with_reducible assumption | with_reducible refine areaWrite_kept ?_
    | with_reducible refine clearHist_kept ?_ | with_reducible refine modCast_kept ?_ | split | (dsimp only))

theorem drainPieces_kept {s0 : State} {u panel tb ofmt rows rowBytes : Nat} {key : List Nat} {t : Tensor}
    {first : Option Nat} {payload : List Byte} {s : State} (h : Kept s0 s) :
    Kept s0 ((drainPieces u panel tb ofmt rows rowBytes key t first payload s).2) := by
  unfold drainPieces
  repeat' (first
    | with_reducible assumption | with_reducible refine setUnit_kept ?_
    | with_reducible (refine Kept.foldl2 ?_ (fun _ _ _ => ?_)))

theorem popOut_kept {s0 : State} {u : Nat} {s : State} (h : Kept s0 s) : Kept s0 (popOut u s) := by
  unfold popOut
  repeat' (first
    | with_reducible assumption | with_reducible refine modUnit_kept ?_)

theorem drainLocal_kept {s0 : State} {u addr : Nat} {ps : List Piece} {s : State} (h : Kept s0 s) :
    Kept s0 (drainLocal u addr ps s) := by
  unfold drainLocal
  repeat' (first
    | with_reducible assumption | with_reducible refine modUnit_kept ?_ | with_reducible refine popOut_kept ?_
    | with_reducible (refine Kept.foldl2 ?_ (fun _ _ _ => ?_)))

theorem drainStrands_kept {s0 : State} {u : Nat} {x1 : BitVec 8} {ps : List Piece} {s : State} (h : Kept s0 s) :
    Kept s0 (drainStrands u x1 ps s) := by
  unfold drainStrands
  repeat' (first
    | with_reducible assumption | with_reducible refine modUnit_kept ?_)

theorem retainTile_kept {s0 : State} {u sgi i : Nat} {t : TileDecl} {len home : Nat} {p : Piece} {s : State} (h :
    Kept s0 s) : Kept s0 (retainTile u sgi i t len home p s) := by
  unfold retainTile
  repeat' (first
    | with_reducible assumption | with_reducible refine modUnit_kept ?_ | split)

theorem drainHeaders_kept {s0 : State} {u sgi : Nat} {c : Cast} {sg : Seg} {off : Nat} {ps : List Piece}
    {s : State} (h : Kept s0 s) : Kept s0 (drainHeaders u sgi c sg off ps s) := by
  unfold drainHeaders
  repeat' (first
    | with_reducible assumption | with_reducible refine putTileHdr_kept ?_
    | with_reducible refine retainTile_kept ?_ | with_reducible (refine Kept.foldl ?_ (fun _ _ _ => ?_)) | split)

theorem drainSegment_kept {s0 : State} {u : Nat} {q : QOp} {off sgi ofmt rows g : Nat} {t : Tensor}
    {payload : List Byte} {x' : KUnit} {panel : Nat} {s : State} (h : Kept s0 s) :
    Kept s0 ((drainSegment u q off sgi ofmt rows g t payload x' panel s).1) := by
  unfold drainSegment
  repeat' (first
    | with_reducible assumption | with_reducible refine drainHeaders_kept ?_
    | with_reducible refine drainPieces_kept ?_ | with_reducible refine modUnit_kept ?_
    | with_reducible refine noSegment_kept ?_ | with_reducible refine popOut_kept ?_
    | with_reducible refine unitAccess_kept ?_ | with_reducible refine unitStore_kept ?_
    | with_reducible refine writeHist_kept ?_ | with_reducible refine Kept.go ?_ (by assumption)
    | with_reducible refine Kept.wait ?_ (by assumption) | with_reducible refine Kept.lost ?_ (by assumption)
    | with_reducible refine Kept.fault ?_ (by assumption) | with_reducible refine Kept.eqAcc ?_ (by assumption)
    | with_reducible refine Kept.sndGo ?_ (by assumption) | with_reducible refine Kept.sndAcc ?_ (by assumption)
    | (dsimp only [accSt_go, accSt_wait, accSt_lost, accSt_fault]) | split)

theorem drainOp_kept {s0 : State} {u : Nat} {q : QOp} {s : State} (h : Kept s0 s) : Kept s0 ((drainOp u q s).1) := by
  unfold drainOp
  repeat' (first
    | with_reducible assumption | with_reducible refine drainLocal_kept ?_
    | with_reducible refine drainPieces_kept ?_ | with_reducible refine drainSegment_kept ?_
    | with_reducible refine drainStrands_kept ?_ | with_reducible refine histReach_kept ?_
    | with_reducible refine payIssue_kept ?_ | with_reducible refine popOut_kept ?_
    | with_reducible refine setUnit_kept ?_ | with_reducible refine writeHist_kept ?_
    | with_reducible refine Kept.go ?_ (by assumption) | with_reducible refine Kept.wait ?_ (by assumption)
    | with_reducible refine Kept.lost ?_ (by assumption) | with_reducible refine Kept.fault ?_ (by assumption)
    | with_reducible refine Kept.eqAcc ?_ (by assumption) | with_reducible refine Kept.sndGo ?_ (by assumption)
    | with_reducible refine Kept.sndAcc ?_ (by assumption)
    | (dsimp only [accSt_go, accSt_wait, accSt_lost, accSt_fault]) | split)

theorem emitOp_kept {s0 : State} {u : Nat} {q : QOp} {s : State} (h : Kept s0 s) : Kept s0 ((emitOp u q s).1) := by
  unfold emitOp
  repeat' (first
    | with_reducible assumption | with_reducible refine modUnit_kept ?_ | with_reducible refine popOut_kept ?_
    | with_reducible refine putOuts_kept ?_ | with_reducible refine stallOuts_kept ?_ | split | (dsimp only))

theorem outputStep_kept {s0 : State} {u : Nat} {s : State} (h : Kept s0 s) : Kept s0 ((outputStep u s).1) := by
  unfold outputStep
  repeat' (first
    | with_reducible assumption | with_reducible refine drainOp_kept ?_ | with_reducible refine emitOp_kept ?_
    | split | (dsimp only))

theorem drainIssue_kept {s0 : State} {u : Nat} {x1 : BitVec 8} {dctr dest seg ofmt ti act : Nat} {bias : Bool}
    {bctr rows : Nat} {p : Bool} {s : State} (h : Kept s0 s) :
    Kept s0 ((drainIssue u x1 dctr dest seg ofmt ti act bias bctr rows p s).1) := by
  unfold drainIssue
  repeat' (first
    | with_reducible assumption | with_reducible refine autoStep_kept ?_ | with_reducible refine lsFault_kept ?_
    | with_reducible refine noProblem_kept ?_ | with_reducible refine retire_kept ?_
    | with_reducible refine setUnit_kept ?_ | (extract_lets) | split)

/-! ## Vector -/

theorem pushVec_kept {s0 : State} {u : Nat} {op : EngOp} {ranges : List (Nat × Nat × Nat)} {autos : List Nat}
    {s : State} (h : Kept s0 s) : Kept s0 ((pushVec u op ranges autos s).1) := by
  unfold pushVec
  repeat' (first
    | with_reducible assumption | with_reducible refine autoStep_kept ?_ | with_reducible refine lsFault_kept ?_
    | with_reducible refine retire_kept ?_ | with_reducible refine setUnit_kept ?_ | split | (dsimp only))

theorem lsPut_kept {s0 : State} {u addr : Nat} {l : List Byte} {s : State} (h : Kept s0 s) :
    Kept s0 (lsPut u addr l s) := by
  unfold lsPut
  repeat' (first
    | with_reducible assumption | with_reducible refine modUnit_kept ?_)

theorem vopBytes_kept {s0 : State} {u f fmt n a b c : Nat} {s : State} (h : Kept s0 s) :
    Kept s0 ((vopBytes u f fmt n a b c s).2) := by
  unfold vopBytes
  repeat' (first
    | with_reducible assumption | with_reducible refine bump_kept ?_ | split)

theorem vopStep_kept {s0 : State} {u f a b c d rows fmt : Nat} {s : State} (h : Kept s0 s) :
    Kept s0 ((vopStep u f a b c d rows fmt s).1) := by
  unfold vopStep
  repeat' (first
    | with_reducible assumption | with_reducible refine pushVec_kept ?_)

theorem vopEffect_kept {s0 : State} {u f fmt rows a b c d : Nat} {s : State} (h : Kept s0 s) :
    Kept s0 (vopEffect u f fmt rows a b c d s) := by
  unfold vopEffect
  repeat' (first
    | with_reducible assumption | with_reducible refine lsPut_kept ?_ | with_reducible refine vopBytes_kept ?_)

theorem vredStep_kept {s0 : State} {u : Nat} {max_ chain : Bool} {a d rows : Nat} {s : State} (h : Kept s0 s) :
    Kept s0 ((vredStep u max_ chain a d rows s).1) := by
  unfold vredStep
  repeat' (first
    | with_reducible assumption | with_reducible refine pushVec_kept ?_)

theorem vredEffect_kept {s0 : State} {u : Nat} {max_ chain : Bool} {a d rows : Nat} {s : State} (h : Kept s0 s) :
    Kept s0 (vredEffect u max_ chain a d rows s) := by
  unfold vredEffect
  repeat' (first
    | with_reducible assumption | with_reducible refine lsPut_kept ?_)

theorem vsmaxStep_kept {s0 : State} {u sc st po n : Nat} {final : Bool} {s : State} (h : Kept s0 s) :
    Kept s0 ((vsmaxStep u sc st po n final s).1) := by
  unfold vsmaxStep
  repeat' (first
    | with_reducible assumption | with_reducible refine pushVec_kept ?_)

theorem vsmaxEffect_kept {s0 : State} {u sc st po n : Nat} {final : Bool} {s : State} (h : Kept s0 s) :
    Kept s0 (vsmaxEffect u sc st po n final s) := by
  unfold vsmaxEffect
  repeat' (first
    | with_reducible assumption | with_reducible refine lsPut_kept ?_)

theorem vtopkStep_kept {s0 : State} {u a d w k rows : Nat} {first finish p : Bool} {s : State} (h : Kept s0 s) :
    Kept s0 ((vtopkStep u a d w k rows first finish p s).1) := by
  unfold vtopkStep
  repeat' (first
    | with_reducible assumption | with_reducible refine noProblem_kept ?_ | with_reducible refine pushVec_kept ?_
    | split | (dsimp only))

theorem vtopkEffect_kept {s0 : State} {u a d w k rows : Nat} {first finish : Bool} {s : State} (h : Kept s0 s) :
    Kept s0 (vtopkEffect u a d w k rows first finish s) := by
  unfold vtopkEffect
  repeat' (first
    | with_reducible assumption | with_reducible refine lsPut_kept ?_ | split)

theorem vsampleStep_kept {s0 : State} {u a d sd t n draw : Nat} {s : State} (h : Kept s0 s) :
    Kept s0 ((vsampleStep u a d sd t n draw s).1) := by
  unfold vsampleStep
  repeat' (first
    | with_reducible assumption | with_reducible refine pushVec_kept ?_)

theorem vsampleEffect_kept {s0 : State} {u a d sd n t draw : Nat} {s : State} (h : Kept s0 s) :
    Kept s0 (vsampleEffect u a d sd n t draw s) := by
  unfold vsampleEffect
  repeat' (first
    | with_reducible assumption | with_reducible refine bump_kept ?_ | with_reducible refine lsPut_kept ?_ | split
    | (dsimp only))

theorem vrandStep_kept {s0 : State} {u d sd t draw rows : Nat} {s : State} (h : Kept s0 s) :
    Kept s0 ((vrandStep u d sd t draw rows s).1) := by
  unfold vrandStep
  repeat' (first
    | with_reducible assumption | with_reducible refine pushVec_kept ?_)

theorem vrandEffect_kept {s0 : State} {u d sd t draw rows : Nat} {s : State} (h : Kept s0 s) :
    Kept s0 (vrandEffect u d sd t draw rows s) := by
  unfold vrandEffect
  repeat' (first
    | with_reducible assumption | with_reducible refine lsPut_kept ?_)

theorem vecEffect_kept {s0 : State} {u : Nat} {op : EngOp} {s : State} (h : Kept s0 s) :
    Kept s0 (vecEffect u op s) := by
  unfold vecEffect
  repeat' (first
    | with_reducible assumption | with_reducible refine vopEffect_kept ?_
    | with_reducible refine vrandEffect_kept ?_ | with_reducible refine vredEffect_kept ?_
    | with_reducible refine vsampleEffect_kept ?_ | with_reducible refine vsmaxEffect_kept ?_
    | with_reducible refine vtopkEffect_kept ?_ | split)

theorem vectorStep_kept {s0 : State} {u : Nat} {s : State} (h : Kept s0 s) : Kept s0 ((vectorStep u s).1) := by
  unfold vectorStep
  repeat' (first
    | with_reducible assumption | with_reducible refine modUnit_kept ?_ | with_reducible refine payIssue_kept ?_
    | with_reducible refine vecEffect_kept ?_ | split | (dsimp only))

theorem vecRun_kept {s0 : State} {u : Nat} {f : State → Fired} {s : State} (h : Kept s0 s)
    (hf : ∀ t, Kept s0 t → Kept s0 ((f  t).1)) : Kept s0 ((vecRun u f s).1) := by
  unfold vecRun
  repeat' (first
    | with_reducible assumption | with_reducible refine hf _ ?_ | with_reducible refine vectorStep_kept ?_ | split
    | (dsimp only))

/-! ## Engines -/

theorem countTile_kept {s0 : State} {u : Nat} {s : State} (h : Kept s0 s) : Kept s0 (countTile u s) := by
  unfold countTile
  repeat' (first
    | with_reducible assumption | with_reducible refine modUnit_kept ?_)

theorem setMoveQ_kept {s0 : State} {u : Nat} {op : Option EngOp} {s : State} (h : Kept s0 s) :
    Kept s0 (setMoveQ u op s) := by
  unfold setMoveQ
  repeat' (first
    | with_reducible assumption | with_reducible refine modUnit_kept ?_)

theorem loadDone_kept {s0 : State} {u a : Nat} {bytes : List Byte} {s : State} (h : Kept s0 s) :
    Kept s0 (loadDone u a bytes s) := by
  unfold loadDone
  repeat' (first
    | with_reducible assumption | with_reducible refine modUnit_kept ?_ | with_reducible refine setMoveQ_kept ?_)

theorem loadTiles_kept {s0 : State} {u a off n : Nat} {c : Cast} {sg : Seg} {t : TileDecl} {bytes : List Byte}
    {s : State} (h : Kept s0 s) : Kept s0 ((loadTiles u a off n c sg t bytes s).1) := by
  unfold loadTiles
  repeat' (first
    | with_reducible assumption | with_reducible refine loadDone_kept ?_ | with_reducible refine modUnit_kept ?_
    | with_reducible refine startRecover_kept ?_ | with_reducible (refine Kept.foldl ?_ (fun _ _ _ => ?_)) | split)

theorem loadOp_kept {s0 : State} {u : Nat} {q : QOp} {a sgi off beats : Nat} {verify : Bool} {s : State} (h :
    Kept s0 s) : Kept s0 ((loadOp u q a sgi off beats verify s).1) := by
  unfold loadOp
  repeat' (first
    | with_reducible assumption | with_reducible refine loadDone_kept ?_ | with_reducible refine loadTiles_kept ?_
    | with_reducible refine segFault_kept ?_ | with_reducible refine setMoveQ_kept ?_
    | with_reducible refine unitAccess_kept ?_ | with_reducible refine Kept.go ?_ (by assumption)
    | with_reducible refine Kept.wait ?_ (by assumption) | with_reducible refine Kept.lost ?_ (by assumption)
    | with_reducible refine Kept.fault ?_ (by assumption) | with_reducible refine Kept.eqAcc ?_ (by assumption)
    | with_reducible refine Kept.sndGo ?_ (by assumption) | with_reducible refine Kept.sndAcc ?_ (by assumption)
    | (dsimp only [accSt_go, accSt_wait, accSt_lost, accSt_fault]) | split)

theorem storeHdrs_kept {s0 : State} {u : Nat} {q : QOp} {a off n : Nat} {c : Cast} {t : TileDecl}
    {bytes : List Byte} {s : State} (h : Kept s0 s) : Kept s0 (storeHdrs u q a off n c t bytes s) := by
  unfold storeHdrs
  repeat' (first
    | with_reducible assumption | with_reducible refine countTile_kept ?_
    | with_reducible refine putTileHdr_kept ?_ | with_reducible (refine Kept.foldl ?_ (fun _ _ _ => ?_)) | split)

theorem storeOp_kept {s0 : State} {u : Nat} {q : QOp} {a sgi off beats : Nat} {s : State} (h : Kept s0 s) :
    Kept s0 ((storeOp u q a sgi off beats s).1) := by
  unfold storeOp
  repeat' (first
    | with_reducible assumption | with_reducible refine setMoveQ_kept ?_ | with_reducible refine storeHdrs_kept ?_
    | with_reducible refine unitAccess_kept ?_ | with_reducible refine unitStore_kept ?_
    | with_reducible refine Kept.go ?_ (by assumption) | with_reducible refine Kept.wait ?_ (by assumption)
    | with_reducible refine Kept.lost ?_ (by assumption) | with_reducible refine Kept.fault ?_ (by assumption)
    | with_reducible refine Kept.eqAcc ?_ (by assumption) | with_reducible refine Kept.sndGo ?_ (by assumption)
    | with_reducible refine Kept.sndAcc ?_ (by assumption)
    | (dsimp only [accSt_go, accSt_wait, accSt_lost, accSt_fault]) | split)

theorem putIfRoom_kept {s0 : State} {u : Nat} {m : BitVec 8} {x2 : Entry} {f : State → State} {s : State} (h :
    Kept s0 s) (hf : ∀ t, Kept s0 t → Kept s0 ((f  t))) : Kept s0 ((putIfRoom u m x2 f s).1) := by
  unfold putIfRoom
  repeat' (first
    | with_reducible assumption | with_reducible refine hf _ ?_ | with_reducible refine putOuts_kept ?_
    | with_reducible refine stallOuts_kept ?_ | split)

theorem sendOp_kept {s0 : State} {u : Nat} {q : QOp} {x2 : BitVec 8} {a left : Nat} {first : Bool} {s : State}
    (h : Kept s0 s) : Kept s0 ((sendOp u q x2 a left first s).1) := by
  unfold sendOp
  repeat' (first
    | with_reducible assumption | with_reducible refine countTile_kept ?_
    | with_reducible refine putIfRoom_kept ?_ (fun _ _ => ?_) | with_reducible refine setMoveQ_kept ?_ | split)

theorem heldMove_kept {s0 : State} {u i : Nat} {s : State} (h : Kept s0 s) : Kept s0 ((heldMove u i s).1) := by
  unfold heldMove
  repeat' (first
    | with_reducible assumption | with_reducible refine Kept.snd ?_ (by assumption)
    | with_reducible refine Kept.fst ?_ (by assumption) | with_reducible refine Kept.snd2 ?_ (by assumption)
    | with_reducible refine Kept.snd3 ?_ (by assumption) | with_reducible refine Kept.eqSnd ?_ (by assumption)
    | with_reducible refine Kept.eqFst ?_ (by assumption) | with_reducible refine setMoveQ_kept ?_
    | with_reducible (refine Kept.foldl ?_ (fun _ _ _ => ?_))
    | with_reducible (refine Kept.foldl2 ?_ (fun _ _ _ => ?_))
    | (fail_if_no_progress with_reducible (refine Kept.put ?_ rfl)) | split | (dsimp only))

theorem recvOp_kept {s0 : State} {u pc i a left mka : Nat} {s : State} (h : Kept s0 s) :
    Kept s0 ((recvOp u pc i a left mka s).1) := by
  unfold recvOp
  repeat' (first
    | with_reducible assumption | with_reducible refine markerFaultAt_kept ?_
    | with_reducible refine modUnit_kept ?_ | with_reducible refine setMoveQ_kept ?_
    | with_reducible refine takeHead_kept ?_ | split | (dsimp only))

theorem fwdOp_kept {s0 : State} {u pc i : Nat} {x3 : BitVec 8} {left mka : Nat} {s : State} (h : Kept s0 s) :
    Kept s0 ((fwdOp u pc i x3 left mka s).1) := by
  unfold fwdOp
  repeat' (first
    | with_reducible assumption | with_reducible refine markerFaultAt_kept ?_
    | with_reducible refine putIfRoom_kept ?_ (fun _ _ => ?_) | with_reducible refine setMoveQ_kept ?_
    | with_reducible refine takeHead_kept ?_ | split | (dsimp only))

theorem moveOp_kept {s0 : State} {u : Nat} {q : QOp} {s : State} (h : Kept s0 s) : Kept s0 ((moveOp u q s).1) := by
  unfold moveOp
  repeat' (first
    | with_reducible assumption | with_reducible refine fwdOp_kept ?_ | with_reducible refine heldMove_kept ?_
    | with_reducible refine loadOp_kept ?_ | with_reducible refine recvOp_kept ?_
    | with_reducible refine sendOp_kept ?_ | with_reducible refine storeOp_kept ?_ | split)

theorem moveStep_kept {s0 : State} {u : Nat} {s : State} (h : Kept s0 s) : Kept s0 ((moveStep u s).1) := by
  unfold moveStep
  repeat' (first
    | with_reducible assumption | with_reducible refine moveOp_kept ?_ | split | (dsimp only))

theorem pushMove_kept {s0 : State} {u : Nat} {op : EngOp} {range : Option (Nat × Nat)} {autos : List Nat}
    {s : State} (h : Kept s0 s) : Kept s0 ((pushMove u op range autos s).1) := by
  unfold pushMove
  repeat' (first
    | with_reducible assumption | with_reducible refine autoStep_kept ?_ | with_reducible refine lsFault_kept ?_
    | with_reducible refine moveStep_kept ?_ | with_reducible refine retire_kept ?_
    | with_reducible refine setUnit_kept ?_ | split | (dsimp only))

theorem loadIssue_kept {s0 : State} {u l sgi o beats : Nat} {verify : Bool} {s : State} (h : Kept s0 s) :
    Kept s0 ((loadIssue u l sgi o beats verify s).1) := by
  unfold loadIssue
  repeat' (first
    | with_reducible assumption | with_reducible refine pushMove_kept ?_)

theorem storeIssue_kept {s0 : State} {u l sgi o beats : Nat} {s : State} (h : Kept s0 s) :
    Kept s0 ((storeIssue u l sgi o beats s).1) := by
  unfold storeIssue
  repeat' (first
    | with_reducible assumption | with_reducible refine pushMove_kept ?_)

theorem sendIssue_kept {s0 : State} {u : Nat} {x1 : BitVec 8} {l beats : Nat} {s : State} (h : Kept s0 s) :
    Kept s0 ((sendIssue u x1 l beats s).1) := by
  unfold sendIssue
  repeat' (first
    | with_reducible assumption | with_reducible refine pushMove_kept ?_)

theorem recvIssue_kept {s0 : State} {u : Nat} {inp : BitVec 8} {l beats mka : Nat} {s : State} (h : Kept s0 s) :
    Kept s0 ((recvIssue u inp l beats mka s).1) := by
  unfold recvIssue
  repeat' (first
    | with_reducible assumption | with_reducible refine pushMove_kept ?_)

theorem fwdIssue_kept {s0 : State} {u : Nat} {inp x2 : BitVec 8} {beats mka : Nat} {s : State} (h : Kept s0 s) :
    Kept s0 ((fwdIssue u inp x2 beats mka s).1) := by
  unfold fwdIssue
  repeat' (first
    | with_reducible assumption | with_reducible refine pushMove_kept ?_)

theorem setStrandQ_kept {s0 : State} {u : Nat} {op : Option EngOp} {s : State} (h : Kept s0 s) :
    Kept s0 (setStrandQ u op s) := by
  unfold setStrandQ
  repeat' (first
    | with_reducible assumption | with_reducible refine modUnit_kept ?_)

theorem pushStrand_kept {s0 : State} {u : Nat} {op : EngOp} {s : State} (h : Kept s0 s) :
    Kept s0 ((pushStrand u op s).1) := by
  unfold pushStrand
  repeat' (first
    | with_reducible assumption | with_reducible refine retire_kept ?_ | with_reducible refine setUnit_kept ?_
    | split | (dsimp only))

theorem heldStrand_kept {s0 : State} {u i : Nat} {s : State} (h : Kept s0 s) : Kept s0 ((heldStrand u i s).1) := by
  unfold heldStrand
  repeat' (first
    | with_reducible assumption | with_reducible refine Kept.snd ?_ (by assumption)
    | with_reducible refine Kept.fst ?_ (by assumption) | with_reducible refine Kept.snd2 ?_ (by assumption)
    | with_reducible refine Kept.snd3 ?_ (by assumption) | with_reducible refine Kept.eqSnd ?_ (by assumption)
    | with_reducible refine Kept.eqFst ?_ (by assumption) | with_reducible refine setStrandQ_kept ?_
    | with_reducible (refine Kept.foldl ?_ (fun _ _ _ => ?_))
    | with_reducible (refine Kept.foldl2 ?_ (fun _ _ _ => ?_))
    | (fail_if_no_progress with_reducible (refine Kept.put ?_ rfl)) | split | (dsimp only))

theorem SteerOp_spread_kept {s0 : State} {o : SteerOp} {u strand : Nat} {m : BitVec 16} {s : State} (h :
    Kept s0 s) : Kept s0 ((SteerOp.spread o u strand m s).1) := by
  unfold SteerOp.spread
  repeat' (first
    | with_reducible assumption | with_reducible refine putIfRoom_kept ?_ (fun _ _ => ?_)
    | with_reducible refine takeHead_kept ?_)

theorem SteerOp_dataMarker_kept {s0 : State} {o : SteerOp} {u : Nat} {side first : Bool} {m : BitVec 16}
    {s : State} (h : Kept s0 s) : Kept s0 ((SteerOp.dataMarker o u side first m s).1) := by
  unfold SteerOp.dataMarker
  repeat' (first
    | with_reducible assumption | with_reducible refine putIfRoom_kept ?_ (fun _ _ => ?_)
    | with_reducible refine setStrandQ_kept ?_ | with_reducible refine takeHead_kept ?_ | split)

theorem SteerOp_dataBeat_kept {s0 : State} {o : SteerOp} {u : Nat} {side : Bool} {done : Nat} {b : Beat}
    {x5 : Option Rec64} {s : State} (h : Kept s0 s) : Kept s0 ((SteerOp.dataBeat o u side done b x5 s).1) := by
  unfold SteerOp.dataBeat
  repeat' (first
    | with_reducible assumption | with_reducible refine putIfRoom_kept ?_ (fun _ _ => ?_)
    | with_reducible refine setStrandQ_kept ?_ | with_reducible refine takeHead_kept ?_ | split)

theorem SteerOp_item_kept {s0 : State} {o : SteerOp} {u : Nat} {side : Bool} {cur : Option Nat} {s : State} (h :
    Kept s0 s) : Kept s0 ((SteerOp.item o u side cur s).1) := by
  unfold SteerOp.item
  repeat' (first
    | with_reducible assumption | with_reducible refine SteerOp_dataBeat_kept ?_
    | with_reducible refine SteerOp_dataMarker_kept ?_ | with_reducible refine SteerOp_spread_kept ?_
    | with_reducible refine markerFaultAt_kept ?_ | split | (dsimp only))

theorem SteerOp_idle_kept {s0 : State} {o : SteerOp} {u : Nat} {s : State} (h : Kept s0 s) :
    Kept s0 ((SteerOp.idle o u s).1) := by
  unfold SteerOp.idle
  repeat' (first
    | with_reducible assumption | with_reducible refine SteerOp_spread_kept ?_
    | with_reducible refine markerFaultAt_kept ?_ | split | (dsimp only))

theorem steerStep_kept {s0 : State} {u : Nat} {o : SteerOp} {cur : Option (Bool × Nat)} {s : State} (h :
    Kept s0 s) : Kept s0 ((steerStep u o cur s).1) := by
  unfold steerStep
  repeat' (first
    | with_reducible assumption | with_reducible refine SteerOp_idle_kept ?_
    | with_reducible refine SteerOp_item_kept ?_ | with_reducible refine SteerOp_spread_kept ?_
    | with_reducible refine markerFaultAt_kept ?_ | split | (dsimp only))

theorem mergeJoin_kept {s0 : State} {u pc in0 in1 x4 : Nat} {a b : BitVec 16} {s : State} (h : Kept s0 s) :
    Kept s0 ((mergeJoin u pc in0 in1 x4 a b s).1) := by
  unfold mergeJoin
  repeat' (first
    | with_reducible assumption | with_reducible refine markerFaultAt_kept ?_
    | with_reducible refine putIfRoom_kept ?_ (fun _ _ => ?_) | with_reducible refine takeHead_kept ?_ | split)

theorem eatSelect_kept {s0 : State} {u c : Nat} {first : Bool} {s : State} (h : Kept s0 s) :
    Kept s0 (eatSelect u c first s) := by
  unfold eatSelect
  repeat' (first
    | with_reducible assumption | with_reducible refine takeHead_kept ?_ | split)

theorem mergeWait_kept {s0 s : State} {u pc me other out : Nat} {m : BitVec 16} (h : Kept s0 s) :
    Kept s0 (mergeWait u pc me other out m s).1 := by
  unfold mergeWait
  generalize headOf (getIn (getUnit s u) other) = e
  cases e with
  | marker k =>
    with_reducible dsimp only
    by_cases h1 : markerReserved k = true
    · rw [if_pos h1]; exact markerFaultAt_kept h
    rw [if_neg h1]
    by_cases h2 : markerBroadcast k = true
    · rw [if_pos h2]; exact mergeJoin_kept h
    rw [if_neg h2]; exact h
  | _ => with_reducible exact h

theorem mergeTake_kept {s0 : State} {u pc in0 in1 c x5 beats items : Nat} {sel : Bool} {done : Nat} {first : Bool}
    {s : State} (h : Kept s0 s) : Kept s0 ((mergeTake u pc in0 in1 c x5 beats items sel done first s).1) := by
  unfold mergeTake
  repeat' (first
    | with_reducible assumption | with_reducible refine eatSelect_kept ?_
    | with_reducible refine markerFaultAt_kept ?_ | with_reducible refine mergeWait_kept ?_
    | with_reducible refine putIfRoom_kept ?_ (fun _ _ => ?_) | with_reducible refine setStrandQ_kept ?_
    | with_reducible refine takeHead_kept ?_ | split | (dsimp only))

theorem mergeIdle_kept {s0 : State} {u pc in0 in1 c x5 beats items : Nat} {s : State} (h : Kept s0 s) :
    Kept s0 ((mergeIdle u pc in0 in1 c x5 beats items s).1) := by
  unfold mergeIdle
  repeat' (first
    | with_reducible assumption | with_reducible refine markerFaultAt_kept ?_
    | with_reducible refine mergeJoin_kept ?_ | with_reducible refine mergeTake_kept ?_
    | with_reducible refine putIfRoom_kept ?_ (fun _ _ => ?_) | with_reducible refine takeHead_kept ?_ | split
    | (dsimp only))

theorem strandOp_kept {s0 : State} {u : Nat} {q : QOp} {s : State} (h : Kept s0 s) :
    Kept s0 ((strandOp u q s).1) := by
  unfold strandOp
  repeat' (first
    | with_reducible assumption | with_reducible refine heldStrand_kept ?_
    | with_reducible refine mergeIdle_kept ?_ | with_reducible refine mergeTake_kept ?_
    | with_reducible refine putIfRoom_kept ?_ (fun _ _ => ?_) | with_reducible refine setStrandQ_kept ?_
    | with_reducible refine steerStep_kept ?_ | split)

theorem strandStep_kept {s0 : State} {u : Nat} {s : State} (h : Kept s0 s) : Kept s0 ((strandStep u s).1) := by
  unfold strandStep
  repeat' (first
    | with_reducible assumption | with_reducible refine strandOp_kept ?_ | split | (dsimp only))

theorem execSpillReturn_kept {s0 : State} {u : BitVec 9} {strand : BitVec 3} {s : State} {out : State} (h :
    Kept s0 s) (e : execSpillReturn u strand s = .next out) : Kept s0 out := by
  unfold execSpillReturn at e
  injection e with e
  subst e
  repeat' (first
    | with_reducible assumption | with_reducible refine modCast_kept ?_ | with_reducible refine setUnit_kept ?_
    | split | (dsimp only))

theorem execTileResend_kept {s0 : State} {u : BitVec 9} {strand : BitVec 3} {s : State} {out : State} (h :
    Kept s0 s) (e : execTileResend u strand s = .next out) : Kept s0 out := by
  unfold execTileResend at e
  injection e with e
  subst e
  repeat' (first
    | with_reducible assumption | with_reducible refine bump_kept ?_ | with_reducible refine fillHole_kept ?_
    | with_reducible refine sendService_kept ?_ | split)

theorem recheckPartial_kept {s0 : State} {r : Reducer} {j : Nat} {s : State} (h : Kept s0 s) :
    Kept s0 (recheckPartial r j s) := by
  unfold recheckPartial
  repeat' (first
    | with_reducible assumption | with_reducible refine bump_kept ?_ | with_reducible refine wr_kept ?_ | split
    | (dsimp only))

theorem setReducer_kept {s0 : State} {key : Nat} {r : Reducer} {s : State} (h : Kept s0 s) :
    Kept s0 (setReducer key r s) := by
  unfold setReducer
  repeat' (first
    | with_reducible assumption | (fail_if_no_progress with_reducible (refine Kept.put ?_ rfl)))

theorem reduceReady_kept {s0 : State} {key fuel : Nat} {x2 : State} (h : Kept s0 x2) :
    Kept s0 (reduceReady key fuel x2) := by
  fun_induction reduceReady key fuel x2 <;> (repeat' (first
    | with_reducible assumption | with_reducible refine dataLost_kept ?_
    | with_reducible refine engineRanges_kept ?_ | with_reducible refine loseRange_kept ?_
    | with_reducible refine lostForPanel_kept ?_ | with_reducible refine recheckPartial_kept ?_
    | with_reducible refine sendSignals_kept ?_ | with_reducible refine setReducer_kept ?_
    | with_reducible refine Kept.go ?_ (by assumption) | with_reducible refine Kept.wait ?_ (by assumption)
    | with_reducible refine Kept.lost ?_ (by assumption) | with_reducible refine Kept.fault ?_ (by assumption)
    | with_reducible refine Kept.eqAcc ?_ (by assumption) | with_reducible refine Kept.sndGo ?_ (by assumption)
    | with_reducible refine Kept.sndAcc ?_ (by assumption) | with_reducible apply_assumption -exfalso
    | (dsimp only [accSt_go, accSt_wait, accSt_lost, accSt_fault]) | split))

theorem execReducerSlotReady_kept {s0 : State} {region entry : BitVec 4} {slot : BitVec 8} {s : State}
    {out : State} (h : Kept s0 s) (e : execReducerSlotReady region entry slot s = .next out) : Kept s0 out := by
  unfold execReducerSlotReady at e
  injection e with e
  subst e
  repeat' (first
    | with_reducible assumption | with_reducible refine reduceReady_kept ?_
    | with_reducible refine setReducer_kept ?_ | split)

theorem putResult_kept {s0 : State} {key : Nat} {r : Reducer} {s : State} (h : Kept s0 s) :
    Kept s0 (putResult key r s) := by
  unfold putResult
  repeat' (first
    | with_reducible assumption | with_reducible refine nextTile_kept ?_ | with_reducible refine wr_kept ?_)

theorem execReducerResultWrite_kept {s0 : State} {region entry : BitVec 4} {s : State} {out : State} (h :
    Kept s0 s) (e : execReducerResultWrite region entry s = .next out) : Kept s0 out := by
  unfold execReducerResultWrite at e
  injection e with e
  subst e
  repeat' (first
    | with_reducible assumption | with_reducible refine engineRanges_kept ?_
    | with_reducible refine putResult_kept ?_ | with_reducible refine reduceReady_kept ?_
    | with_reducible refine sendSignals_kept ?_ | with_reducible refine setReducer_kept ?_
    | with_reducible refine Kept.go ?_ (by assumption) | with_reducible refine Kept.wait ?_ (by assumption)
    | with_reducible refine Kept.lost ?_ (by assumption) | with_reducible refine Kept.fault ?_ (by assumption)
    | with_reducible refine Kept.eqAcc ?_ (by assumption) | with_reducible refine Kept.sndGo ?_ (by assumption)
    | with_reducible refine Kept.sndAcc ?_ (by assumption)
    | (dsimp only [accSt_go, accSt_wait, accSt_lost, accSt_fault]) | split)

/-! ## Units -/

theorem countLost_kept {s0 : State} {u : Nat} {x1 s : State} (h : Kept s0 s) : Kept s0 (countLost u x1 s) := by
  unfold countLost
  repeat' (first
    | with_reducible assumption | with_reducible refine Kept.snd ?_ (by assumption)
    | with_reducible refine Kept.fst ?_ (by assumption) | with_reducible refine Kept.snd2 ?_ (by assumption)
    | with_reducible refine Kept.snd3 ?_ (by assumption) | with_reducible refine Kept.eqSnd ?_ (by assumption)
    | with_reducible refine Kept.eqFst ?_ (by assumption) | with_reducible refine bump_kept ?_
    | with_reducible (refine Kept.foldl ?_ (fun _ _ _ => ?_))
    | with_reducible (refine Kept.foldl2 ?_ (fun _ _ _ => ?_))
    | (fail_if_no_progress with_reducible (refine Kept.put ?_ rfl)) | split | (dsimp only))

theorem tally_kept {s0 : State} {u : Nat} {x1 : State} {f : Fired} (h : Kept s0 x1) (hf : Kept s0 f.1) :
    Kept s0 (tally u x1 f) := by
  unfold tally
  repeat' (first
    | with_reducible assumption | with_reducible refine bump_kept ?_ | with_reducible refine countLost_kept ?_
    | with_reducible refine modUnit_kept ?_ | with_reducible refine stall_kept ?_ | split | (dsimp only))

theorem issue_kept {s0 : State} {i : Instr} {u : BitVec 9} {f : Nat → State → Fired} {s : State} (h : Kept s0 s)
    (hf : ∀ y0 t, Kept s0 t → Kept s0 ((f y0 t).1)) : Kept s0 (issue i u f s) := by
  unfold issue
  repeat' (first
    | with_reducible assumption | with_reducible refine hf _ _ ?_ | with_reducible refine tally_kept ?_ ?_ | split
    | (dsimp only))

theorem execNopInstruction_kept {s0 : State} {u : BitVec 9} {s : State} {out : State} (h : Kept s0 s)
    (e : execNopInstruction u s = .next out) : Kept s0 out := by
  unfold execNopInstruction at e
  injection e with e
  subst e
  repeat' (first
    | with_reducible assumption | with_reducible refine issue_kept ?_ (fun _ _ _ => ?_)
    | with_reducible refine retire_kept ?_)

theorem execHalt_kept {s0 : State} {u : BitVec 9} {s : State} {out : State} (h : Kept s0 s)
    (e : execHalt u s = .next out) : Kept s0 out := by
  unfold execHalt at e
  injection e with e
  subst e
  repeat' (first
    | with_reducible assumption | with_reducible refine haltStep_kept ?_
    | with_reducible refine issue_kept ?_ (fun _ _ _ => ?_))

theorem execJump_kept {s0 : State} {u : BitVec 9} {target : BitVec 10} {s : State} {out : State} (h : Kept s0 s)
    (e : execJump u target s = .next out) : Kept s0 out := by
  unfold execJump at e
  injection e with e
  subst e
  repeat' (first
    | with_reducible assumption | with_reducible refine goTo_kept ?_
    | with_reducible refine issue_kept ?_ (fun _ _ _ => ?_))

theorem execLoop_kept {s0 : State} {u : BitVec 9} {x1 : BitVec 8} {target : BitVec 10} {ctr : BitVec 4}
    {mark : Bool} {s : State} {out : State} (h : Kept s0 s) (e : execLoop u x1 target ctr mark s = .next out) :
    Kept s0 out := by
  unfold execLoop at e
  injection e with e
  subst e
  repeat' (first
    | with_reducible assumption | with_reducible refine issue_kept ?_ (fun _ _ _ => ?_)
    | with_reducible refine loopStep_kept ?_)

theorem execBrm_kept {s0 : State} {u : BitVec 9} {inp : BitVec 8} {target : BitVec 10} {type : BitVec 4}
    {keep argm : Bool} {arg : BitVec 12} {s : State} {out : State} (h : Kept s0 s)
    (e : execBrm u inp target type keep argm arg s = .next out) : Kept s0 out := by
  unfold execBrm at e
  injection e with e
  subst e
  repeat' (first
    | with_reducible assumption | with_reducible refine brmStep_kept ?_
    | with_reducible refine issue_kept ?_ (fun _ _ _ => ?_))

theorem execSemWait_kept {s0 : State} {u : BitVec 9} {sem : BitVec 5} {s : State} {out : State} (h : Kept s0 s)
    (e : execSemWait u sem s = .next out) : Kept s0 out := by
  unfold execSemWait at e
  injection e with e
  subst e
  repeat' (first
    | with_reducible assumption | with_reducible refine issue_kept ?_ (fun _ _ _ => ?_)
    | with_reducible refine semWaitStep_kept ?_)

theorem execSemSignal_kept {s0 : State} {u : BitVec 9} {sem : BitVec 5} {route : BitVec 3} {s : State}
    {out : State} (h : Kept s0 s) (e : execSemSignal u sem route s = .next out) : Kept s0 out := by
  unfold execSemSignal at e
  injection e with e
  subst e
  repeat' (first
    | with_reducible assumption | with_reducible refine issue_kept ?_ (fun _ _ _ => ?_)
    | with_reducible refine semSignalStep_kept ?_)

theorem execBarrier_kept {s0 : State} {u : BitVec 9} {inp x2 : BitVec 8} {id : BitVec 12} {s : State} {out : State}
    (h : Kept s0 s) (e : execBarrier u inp x2 id s = .next out) : Kept s0 out := by
  unfold execBarrier at e
  injection e with e
  subst e
  repeat' (first
    | with_reducible assumption | with_reducible refine barrierStep_kept ?_
    | with_reducible refine issue_kept ?_ (fun _ _ _ => ?_))

theorem execClaim_kept {s0 : State} {u : BitVec 9} {ctr : BitVec 4} {region : Bool} {list : BitVec 4}
    {target : BitVec 10} {s : State} {out : State} (h : Kept s0 s)
    (e : execClaim u ctr region list target s = .next out) : Kept s0 out := by
  unfold execClaim at e
  injection e with e
  subst e
  repeat' (first
    | with_reducible assumption | with_reducible refine claimStep_kept ?_
    | with_reducible refine issue_kept ?_ (fun _ _ _ => ?_))

theorem execDoneTile_kept {s0 : State} {u : BitVec 9} {ctr : BitVec 4} {region : Bool} {list : BitVec 4} {s : State}
    {out : State} (h : Kept s0 s) (e : execDoneTile u ctr region list s = .next out) : Kept s0 out := by
  unfold execDoneTile at e
  injection e with e
  subst e
  repeat' (first
    | with_reducible assumption | with_reducible refine doneTileStep_kept ?_
    | with_reducible refine issue_kept ?_ (fun _ _ _ => ?_))

theorem execProb_kept {s0 : State} {u : BitVec 9} {ctr seg : BitVec 4} {s : State} {out : State} (h : Kept s0 s)
    (e : execProb u ctr seg s = .next out) : Kept s0 out := by
  unfold execProb at e
  injection e with e
  subst e
  repeat' (first
    | with_reducible assumption | with_reducible refine issue_kept ?_ (fun _ _ _ => ?_)
    | with_reducible refine probStep_kept ?_)

theorem execMwait_kept {s0 : State} {u : BitVec 9} {tag : BitVec 16} {s : State} {out : State} (h : Kept s0 s)
    (e : execMwait u tag s = .next out) : Kept s0 out := by
  unfold execMwait at e
  injection e with e
  subst e
  repeat' (first
    | with_reducible assumption | with_reducible refine issue_kept ?_ (fun _ _ _ => ?_)
    | with_reducible refine mwaitStep_kept ?_)

theorem execCset_kept {s0 : State} {u : BitVec 9} {ctr : BitVec 4} {part : BitVec 2} {apply : Bool}
    {value : BitVec 32} {s : State} {out : State} (h : Kept s0 s)
    (e : execCset u ctr part apply value s = .next out) : Kept s0 out := by
  unfold execCset at e
  injection e with e
  subst e
  repeat' (first
    | with_reducible assumption | with_reducible refine csetStep_kept ?_
    | with_reducible refine issue_kept ?_ (fun _ _ _ => ?_))

theorem execCadd_kept {s0 : State} {u : BitVec 9} {ctr : BitVec 4} {imm : BitVec 32} {s : State} {out : State}
    (h : Kept s0 s) (e : execCadd u ctr imm s = .next out) : Kept s0 out := by
  unfold execCadd at e
  injection e with e
  subst e
  repeat' (first
    | with_reducible assumption | with_reducible refine caddStep_kept ?_
    | with_reducible refine issue_kept ?_ (fun _ _ _ => ?_))

theorem execCload_kept {s0 : State} {u : BitVec 9} {ctr actr : BitVec 4} {toBound : Bool} {s : State} {out : State}
    (h : Kept s0 s) (e : execCload u ctr actr toBound s = .next out) : Kept s0 out := by
  unfold execCload at e
  injection e with e
  subst e
  repeat' (first
    | with_reducible assumption | with_reducible refine cloadStep_kept ?_
    | with_reducible refine issue_kept ?_ (fun _ _ _ => ?_))

theorem execCstep_kept {s0 : State} {u : BitVec 9} {ctr : BitVec 4} {s : State} {out : State} (h : Kept s0 s)
    (e : execCstep u ctr s = .next out) : Kept s0 out := by
  unfold execCstep at e
  injection e with e
  subst e
  repeat' (first
    | with_reducible assumption | with_reducible refine cstepStep_kept ?_
    | with_reducible refine issue_kept ?_ (fun _ _ _ => ?_))

theorem execBarrierRelease_kept {s0 : State} {panel : BitVec 4} {s : State} {out : State} (h : Kept s0 s)
    (e : execBarrierRelease panel s = .next out) : Kept s0 out := by
  unfold execBarrierRelease at e
  injection e with e
  subst e
  repeat' (first
    | with_reducible assumption | with_reducible refine barrierClash_kept ?_
    | with_reducible refine barrierFinish_kept ?_ | with_reducible refine markerFault_kept ?_
    | with_reducible refine meetBarrier_kept ?_ | with_reducible refine tally_kept ?_ ?_
    | with_reducible (refine Kept.foldl ?_ (fun _ _ _ => ?_)) | split)

theorem execClaimServe_kept {s0 : State} {region : Bool} {idx : BitVec 6} {s : State} {out : State} (h :
    Kept s0 s) (e : execClaimServe region idx s = .next out) : Kept s0 out := by
  unfold execClaimServe at e
  injection e with e
  subst e
  repeat' (first
    | with_reducible assumption | with_reducible refine serveClaim_kept ?_
    | with_reducible refine tally_kept ?_ ?_ | split)

theorem execPlane_kept {s0 : State} {u : BitVec 9} {inp : BitVec 8} {actr : BitVec 4} {cell : BitVec 2} {p : Bool}
    {s : State} {out : State} (h : Kept s0 s) (e : execPlane u inp actr cell p s = .next out) : Kept s0 out := by
  unfold execPlane at e
  injection e with e
  subst e
  repeat' (first
    | with_reducible assumption | with_reducible refine issue_kept ?_ (fun _ _ _ => ?_)
    | with_reducible refine planeIssue_kept ?_)

theorem execPass_kept {s0 : State} {u : BitVec 9} {inp : BitVec 8} {shape : BitVec 3} {m1 : BitVec 8}
    {actr afmt wfmt : BitVec 4} {keep add p : Bool} {upsets : List Upset} {s : State} {out : State} (h :
    Kept s0 s) (e : execPass u inp shape m1 actr afmt wfmt keep add p upsets s = .next out) : Kept s0 out := by
  unfold execPass at e
  injection e with e
  subst e
  repeat' (first
    | with_reducible assumption | with_reducible refine issue_kept ?_ (fun _ _ _ => ?_)
    | with_reducible refine passIssue_kept ?_)

theorem execAccin_kept {s0 : State} {u : BitVec 9} {inp : BitVec 8} {actr : BitVec 4} {rows1 : BitVec 8} {p : Bool}
    {s : State} {out : State} (h : Kept s0 s) (e : execAccin u inp actr rows1 p s = .next out) : Kept s0 out := by
  unfold execAccin at e
  injection e with e
  subst e
  repeat' (first
    | with_reducible assumption | with_reducible refine accinIssue_kept ?_
    | with_reducible refine issue_kept ?_ (fun _ _ _ => ?_))

theorem execDrain_kept {s0 : State} {u : BitVec 9} {x1 : BitVec 8} {dctr : BitVec 4} {dest : BitVec 2}
    {seg ofmt : BitVec 4} {tensor : BitVec 8} {act : BitVec 4} {bias : Bool} {bctr : BitVec 4} {rows1 : BitVec 8}
    {p : Bool} {s : State} {out : State} (h : Kept s0 s)
    (e : execDrain u x1 dctr dest seg ofmt tensor act bias bctr rows1 p s = .next out) : Kept s0 out := by
  unfold execDrain at e
  injection e with e
  subst e
  repeat' (first
    | with_reducible assumption | with_reducible refine drainIssue_kept ?_
    | with_reducible refine issue_kept ?_ (fun _ _ _ => ?_))

theorem execPassCommit_kept {s0 : State} {u : BitVec 9} {bufB : Bool} {s : State} {out : State} (h : Kept s0 s)
    (e : execPassCommit u bufB s = .next out) : Kept s0 out := by
  unfold execPassCommit at e
  injection e with e
  subst e
  repeat' (first
    | with_reducible assumption | with_reducible refine commitStep_kept ?_
    | with_reducible refine tally_kept ?_ ?_)

theorem execReplayIssue_kept {s0 : State} {u : BitVec 9} {upsets : List Upset} {s : State} {out : State} (h :
    Kept s0 s) (e : execReplayIssue u upsets s = .next out) : Kept s0 out := by
  unfold execReplayIssue at e
  injection e with e
  subst e
  repeat' (first
    | with_reducible assumption | with_reducible refine replayStep_kept ?_
    | with_reducible refine tally_kept ?_ ?_)

theorem execTileDrainStart_kept {s0 : State} {u : BitVec 9} {s : State} {out : State} (h : Kept s0 s)
    (e : execTileDrainStart u s = .next out) : Kept s0 out := by
  unfold execTileDrainStart at e
  injection e with e
  subst e
  repeat' (first
    | with_reducible assumption | with_reducible refine outputStep_kept ?_
    | with_reducible refine tally_kept ?_ ?_)

theorem execVop_kept {s0 : State} {u : BitVec 9} {vfn : BitVec 6} {a b c d : BitVec 4} {rows1 : BitVec 8}
    {fmt : BitVec 4} {s : State} {out : State} (h : Kept s0 s)
    (e : execVop u vfn a b c d rows1 fmt s = .next out) : Kept s0 out := by
  unfold execVop at e
  injection e with e
  subst e
  repeat' (first
    | with_reducible assumption | with_reducible refine issue_kept ?_ (fun _ _ _ => ?_)
    | with_reducible refine vecRun_kept ?_ (fun _ _ => ?_) | with_reducible refine vopStep_kept ?_)

theorem execVred_kept {s0 : State} {u : BitVec 9} {max chain : Bool} {a d : BitVec 4} {rows1 : BitVec 8} {s : State}
    {out : State} (h : Kept s0 s) (e : execVred u max chain a d rows1 s = .next out) : Kept s0 out := by
  unfold execVred at e
  injection e with e
  subst e
  repeat' (first
    | with_reducible assumption | with_reducible refine issue_kept ?_ (fun _ _ _ => ?_)
    | with_reducible refine vecRun_kept ?_ (fun _ _ => ?_) | with_reducible refine vredStep_kept ?_)

theorem execVsmax_kept {s0 : State} {u : BitVec 9} {sc st po : BitVec 4} {n1 : BitVec 7} {final : Bool} {s : State}
    {out : State} (h : Kept s0 s) (e : execVsmax u sc st po n1 final s = .next out) : Kept s0 out := by
  unfold execVsmax at e
  injection e with e
  subst e
  repeat' (first
    | with_reducible assumption | with_reducible refine issue_kept ?_ (fun _ _ _ => ?_)
    | with_reducible refine vecRun_kept ?_ (fun _ _ => ?_) | with_reducible refine vsmaxStep_kept ?_)

theorem execVtopk_kept {s0 : State} {u : BitVec 9} {a d w : BitVec 4} {k1 : BitVec 12} {rows1 : BitVec 8}
    {first finish p : Bool} {s : State} {out : State} (h : Kept s0 s)
    (e : execVtopk u a d w k1 rows1 first finish p s = .next out) : Kept s0 out := by
  unfold execVtopk at e
  injection e with e
  subst e
  repeat' (first
    | with_reducible assumption | with_reducible refine issue_kept ?_ (fun _ _ _ => ?_)
    | with_reducible refine vecRun_kept ?_ (fun _ _ => ?_) | with_reducible refine vtopkStep_kept ?_)

theorem execVsample_kept {s0 : State} {u : BitVec 9} {a d sd t n : BitVec 4} {draw : BitVec 16} {s : State}
    {out : State} (h : Kept s0 s) (e : execVsample u a d sd t n draw s = .next out) : Kept s0 out := by
  unfold execVsample at e
  injection e with e
  subst e
  repeat' (first
    | with_reducible assumption | with_reducible refine issue_kept ?_ (fun _ _ _ => ?_)
    | with_reducible refine vecRun_kept ?_ (fun _ _ => ?_) | with_reducible refine vsampleStep_kept ?_)

theorem execVrand_kept {s0 : State} {u : BitVec 9} {d sd t : BitVec 4} {draw : BitVec 16} {rows1 : BitVec 8}
    {s : State} {out : State} (h : Kept s0 s) (e : execVrand u d sd t draw rows1 s = .next out) : Kept s0 out := by
  unfold execVrand at e
  injection e with e
  subst e
  repeat' (first
    | with_reducible assumption | with_reducible refine issue_kept ?_ (fun _ _ _ => ?_)
    | with_reducible refine vecRun_kept ?_ (fun _ _ => ?_) | with_reducible refine vrandStep_kept ?_)

theorem execLoad_kept {s0 : State} {u : BitVec 9} {lctr seg octr : BitVec 4} {beats1 : BitVec 8} {verify : Bool}
    {s : State} {out : State} (h : Kept s0 s) (e : execLoad u lctr seg octr beats1 verify s = .next out) :
    Kept s0 out := by
  unfold execLoad at e
  injection e with e
  subst e
  repeat' (first
    | with_reducible assumption | with_reducible refine issue_kept ?_ (fun _ _ _ => ?_)
    | with_reducible refine loadIssue_kept ?_)

theorem execStore_kept {s0 : State} {u : BitVec 9} {lctr seg octr : BitVec 4} {beats1 : BitVec 8} {s : State}
    {out : State} (h : Kept s0 s) (e : execStore u lctr seg octr beats1 s = .next out) : Kept s0 out := by
  unfold execStore at e
  injection e with e
  subst e
  repeat' (first
    | with_reducible assumption | with_reducible refine issue_kept ?_ (fun _ _ _ => ?_)
    | with_reducible refine storeIssue_kept ?_)

theorem execSend_kept {s0 : State} {u : BitVec 9} {x1 : BitVec 8} {lctr : BitVec 4} {beats1 : BitVec 8} {s : State}
    {out : State} (h : Kept s0 s) (e : execSend u x1 lctr beats1 s = .next out) : Kept s0 out := by
  unfold execSend at e
  injection e with e
  subst e
  repeat' (first
    | with_reducible assumption | with_reducible refine issue_kept ?_ (fun _ _ _ => ?_)
    | with_reducible refine sendIssue_kept ?_)

theorem execRecv_kept {s0 : State} {u : BitVec 9} {inp : BitVec 8} {lctr : BitVec 4} {beats1 : BitVec 8}
    {mka : BitVec 2} {s : State} {out : State} (h : Kept s0 s)
    (e : execRecv u inp lctr beats1 mka s = .next out) : Kept s0 out := by
  unfold execRecv at e
  injection e with e
  subst e
  repeat' (first
    | with_reducible assumption | with_reducible refine issue_kept ?_ (fun _ _ _ => ?_)
    | with_reducible refine recvIssue_kept ?_)

theorem execFwd_kept {s0 : State} {u : BitVec 9} {inp x2 beats1 : BitVec 8} {mka : BitVec 2} {s : State}
    {out : State} (h : Kept s0 s) (e : execFwd u inp x2 beats1 mka s = .next out) : Kept s0 out := by
  unfold execFwd at e
  injection e with e
  subst e
  repeat' (first
    | with_reducible assumption | with_reducible refine fwdIssue_kept ?_
    | with_reducible refine issue_kept ?_ (fun _ _ _ => ?_))

theorem execMark_kept {s0 : State} {u : BitVec 9} {x1 : BitVec 8} {marker : BitVec 16} {s : State} {out : State}
    (h : Kept s0 s) (e : execMark u x1 marker s = .next out) : Kept s0 out := by
  unfold execMark at e
  injection e with e
  subst e
  repeat' (first
    | with_reducible assumption | with_reducible refine issue_kept ?_ (fun _ _ _ => ?_)
    | with_reducible refine pushStrand_kept ?_)

theorem execSteer_kept {s0 : State} {u : BitVec 9} {data ctl out0 out1 : BitVec 3} {beats count1 : BitVec 8}
    {s : State} {out : State} (h : Kept s0 s) (e : execSteer u data ctl out0 out1 beats count1 s = .next out) :
    Kept s0 out := by
  unfold execSteer at e
  injection e with e
  subst e
  repeat' (first
    | with_reducible assumption | with_reducible refine issue_kept ?_ (fun _ _ _ => ?_)
    | with_reducible refine pushStrand_kept ?_)

theorem execMerge_kept {s0 : State} {u : BitVec 9} {in0 in1 ctl x4 : BitVec 3} {beats count1 : BitVec 8} {s : State}
    {out : State} (h : Kept s0 s) (e : execMerge u in0 in1 ctl x4 beats count1 s = .next out) : Kept s0 out := by
  unfold execMerge at e
  injection e with e
  subst e
  repeat' (first
    | with_reducible assumption | with_reducible refine issue_kept ?_ (fun _ _ _ => ?_)
    | with_reducible refine pushStrand_kept ?_)

theorem execStepFire_kept {s0 : State} {u : BitVec 9} {engine : BitVec 3} {s : State} {out : State} (h :
    Kept s0 s) (e : execStepFire u engine s = .next out) : Kept s0 out := by
  unfold execStepFire at e
  injection e with e
  subst e
  repeat' (first
    | with_reducible assumption | with_reducible refine arrayStep_kept ?_ | with_reducible refine moveStep_kept ?_
    | with_reducible refine outputStep_kept ?_ | with_reducible refine strandStep_kept ?_
    | with_reducible refine tally_kept ?_ ?_ | with_reducible refine vectorStep_kept ?_ | split)

end Sys2Proof.Laws
end

