-- ==== Sys2Proof/Laws/KeptTiers.lean ====
section
/-! SUPPORT. What the operations and meanings of moves, tiers, KV, experts and the life cycle keep (Kept). -/
namespace Sys2Proof.Laws
open Sys2Proof Machine Safety

/-! ## Tiers -/

theorem execMoveQueueStore_kept {s0 : State} {u : BitVec 9} {stack : BitVec 2} {beat : Beat} {s : State}
    {out : State} (h : Kept s0 s) (e : execMoveQueueStore u stack beat s = .next out) : Kept s0 out := by
  unfold execMoveQueueStore at e
  injection e with e
  subst e
  repeat' (first
    | with_reducible assumption | with_reducible refine unitStore_kept ?_ | split)

theorem execMoveStart_kept {s0 : State} {stack : BitVec 2} {id : Nat} {badPages : List Nat} {s : State}
    {out : State} (h : Kept s0 s) (e : execMoveStart stack id badPages s = .next out) : Kept s0 out := by
  unfold execMoveStart at e
  injection e with e
  subst e
  repeat' (first
    | with_reducible assumption | with_reducible refine startMove_kept ?_ | split)

theorem execMoveEndUpdate_kept {s0 : State} {stack : BitVec 2} {move : MoveEnd} {s : State} {out : State} (h :
    Kept s0 s) (e : execMoveEndUpdate stack move s = .next out) : Kept s0 out := by
  unfold execMoveEndUpdate at e
  injection e with e
  subst e
  repeat' (first
    | with_reducible assumption | with_reducible refine endUpdate_kept ?_ | split)

theorem execReRequest_kept {s0 : State} {u : BitVec 9} {addr : BitVec 52} {peer : List (Nat × List Byte)}
    {s : State} {out : State} (h : Kept s0 s) (e : execReRequest u addr peer s = .next out) : Kept s0 out := by
  unfold execReRequest at e
  injection e with e
  subst e
  repeat' (first
    | with_reducible assumption | with_reducible refine recoverTile_kept ?_ | split)

theorem sweepPool_kept {s0 : State} {p : Nat} {s : State} (h : Kept s0 s) : Kept s0 (sweepPool p s) := by
  unfold sweepPool
  repeat' (first
    | with_reducible assumption | with_reducible refine freeAt_kept ?_ | with_reducible refine modCast_kept ?_
    | with_reducible refine wr_kept ?_ | with_reducible (refine Kept.foldl ?_ (fun _ _ _ => ?_)) | split)

theorem execPoolEpochBoundary_kept {s0 s : State} {out : State} (h : Kept s0 s)
    (e : execPoolEpochBoundary s = .next out) : Kept s0 out := by
  unfold execPoolEpochBoundary at e
  split at e
  all_goals (first | (injection e with e; subst e) | cases e)
  all_goals repeat' (first
    | with_reducible assumption | with_reducible refine sweepPool_kept ?_
    | with_reducible (refine Kept.foldl ?_ (fun _ _ _ => ?_))
    | (fail_if_no_progress with_reducible (refine Kept.put ?_ rfl)))

theorem execBackgroundEviction_kept {s0 : State} {stack : BitVec 2} {s : State} {out : State} (h : Kept s0 s)
    (e : execBackgroundEviction stack s = .next out) : Kept s0 out := by
  unfold execBackgroundEviction at e
  injection e with e
  subst e
  repeat' (first
    | with_reducible assumption | with_reducible refine submitEvict_kept ?_ | split)

theorem eraseBlock_kept {s0 : State} {st key : Nat} {ok : Bool} {s : State} (h : Kept s0 s) :
    Kept s0 (eraseBlock st key ok s) := by
  unfold eraseBlock
  repeat' (first
    | with_reducible assumption | with_reducible refine modT3_kept ?_ | with_reducible refine retireBlock_kept ?_
    | split | (dsimp only))

theorem cleanBlock_kept {s0 : State} {st key : Nat} {ok : Bool} {s : State} (h : Kept s0 s) :
    Kept s0 (cleanBlock st key ok s) := by
  unfold cleanBlock
  repeat' (first
    | with_reducible assumption | with_reducible refine eraseBlock_kept ?_ | split)

theorem relocate_kept {s0 : State} {st old new : Nat} {eraseOk : Bool} {count : State → State} {s : State} (h :
    Kept s0 s) (hcount : ∀ t, Kept s0 t → Kept s0 ((count  t))) : Kept s0 (relocate st old new eraseOk count s) := by
  unfold relocate
  repeat' (first
    | with_reducible assumption | with_reducible refine hcount _ ?_ | with_reducible refine cleanBlock_kept ?_
    | with_reducible refine eraseBlock_kept ?_ | with_reducible refine modT3_kept ?_ | split | (dsimp only))

theorem execWearLevelRelocation_kept {s0 : State} {stack : BitVec 2} {channel : BitVec 3} {fresh : FreshBlock}
    {s : State} {out : State} (h : Kept s0 s) (e : execWearLevelRelocation stack channel fresh s = .next out) :
    Kept s0 out := by
  unfold execWearLevelRelocation at e
  injection e with e
  subst e
  repeat' (first
    | with_reducible assumption | with_reducible refine relocate_kept ?_ (fun _ _ => ?_) | split
    | (dsimp only [id]))

theorem execReadDisturbRelocation_kept {s0 : State} {stack : BitVec 2} {channel : BitVec 3} {block : BitVec 16}
    {fresh : FreshBlock} {s : State} {out : State} (h : Kept s0 s)
    (e : execReadDisturbRelocation stack channel block fresh s = .next out) : Kept s0 out := by
  unfold execReadDisturbRelocation at e
  injection e with e
  subst e
  repeat' (first
    | with_reducible assumption | with_reducible refine bump_kept ?_
    | with_reducible refine relocate_kept ?_ (fun _ _ => ?_) | split)

theorem patrolPass_kept {s0 : State} {st : Nat} {s : State} (h : Kept s0 s) : Kept s0 (patrolPass st s) := by
  unfold patrolPass
  repeat' (first
    | with_reducible assumption | with_reducible refine modT3_kept ?_ | split)

theorem patrolBad_kept {s0 : State} {pg : Nat} {peer : Option (List Byte)} {s : State} (h : Kept s0 s) :
    Kept s0 (patrolBad pg peer s) := by
  unfold patrolBad
  repeat' (first
    | with_reducible assumption | with_reducible refine Kept.snd ?_ (by assumption)
    | with_reducible refine Kept.fst ?_ (by assumption) | with_reducible refine Kept.snd2 ?_ (by assumption)
    | with_reducible refine Kept.snd3 ?_ (by assumption) | with_reducible refine Kept.eqSnd ?_ (by assumption)
    | with_reducible refine Kept.eqFst ?_ (by assumption) | with_reducible refine dataLost_kept ?_
    | with_reducible refine loseRange_kept ?_ | with_reducible refine pageBad_kept ?_
    | with_reducible refine recoverPage_kept ?_ | with_reducible (refine Kept.foldl ?_ (fun _ _ _ => ?_))
    | with_reducible (refine Kept.foldl2 ?_ (fun _ _ _ => ?_))
    | (fail_if_no_progress with_reducible (refine Kept.put ?_ rfl)) | split | (dsimp only))

theorem execPatrolRead_kept {s0 : State} {stack : BitVec 2} {page : BitVec 31} {channel : BitVec 3}
    {block : BitVec 16} {fresh : FreshBlock} {corrected : Nat} {read : PageRead} {s : State} {out : State} (h :
    Kept s0 s) (e : execPatrolRead stack page channel block fresh corrected read s = .next out) : Kept s0 out := by
  unfold execPatrolRead at e
  injection e with e
  subst e
  repeat' (first
    | with_reducible assumption | with_reducible refine bump_kept ?_ | with_reducible refine countT3Reads_kept ?_
    | with_reducible refine modT3_kept ?_ | with_reducible refine patrolBad_kept ?_
    | with_reducible refine patrolPass_kept ?_ | with_reducible refine recoveryWaits_kept ?_ (by assumption)
    | with_reducible refine Kept.getD ?_ (fun _ _ => ?_)
    | with_reducible refine Kept.ofFind (fun _ _ _ => ?_) (by assumption)
    | with_reducible refine relocate_kept ?_ (fun _ _ => ?_) | split | (dsimp only) | (cases ‹none = some _›))

theorem programPages_kept {s0 : State} {st ch key : Nat} {pages : List Nat} {s : State} (h : Kept s0 s) :
    Kept s0 (programPages st ch key pages s) := by
  unfold programPages
  repeat' (first
    | with_reducible assumption | with_reducible refine modT3_kept ?_)

theorem execNandProgramDone_kept {s0 : State} {stack : BitVec 2} {channel : BitVec 3} {block : FreshBlock}
    {pages : List Nat} {ok : Bool} {s : State} {out : State} (h : Kept s0 s)
    (e : execNandProgramDone stack channel block pages ok s = .next out) : Kept s0 out := by
  unfold execNandProgramDone at e
  injection e with e
  subst e
  repeat' (first
    | with_reducible assumption | with_reducible refine cleanBlock_kept ?_
    | with_reducible refine programPages_kept ?_ | with_reducible refine retireBlock_kept ?_ | split
    | (dsimp only))

theorem loseT3Refs_kept {s0 : State} {st : Nat} {s : State} (h : Kept s0 s) : Kept s0 (loseT3Refs st s) := by
  unfold loseT3Refs
  repeat' (first
    | with_reducible assumption | (fail_if_no_progress with_reducible (refine Kept.put ?_ rfl)))

theorem dropCatalogue_kept {s0 : State} {st : Nat} {s : State} (h : Kept s0 s) : Kept s0 (dropCatalogue st s) := by
  unfold dropCatalogue
  repeat' (first
    | with_reducible assumption | with_reducible refine bump_kept ?_
    | (fail_if_no_progress with_reducible (refine Kept.put ?_ rfl)))

/-! ## Kv -/

theorem kvReject_kept {s0 : State} {p slot : Nat} {s : State} (h : Kept s0 s) : Kept s0 (kvReject p slot s) := by
  unfold kvReject
  repeat' (first
    | with_reducible assumption | with_reducible refine bump_kept ?_ | with_reducible refine endSlot_kept ?_
    | split | (dsimp only))

theorem unpost_kept {s0 : State} {p st : Nat} {c : Rec64} {s : State} (h : Kept s0 s) :
    Kept s0 (unpost p st c s) := by
  unfold unpost
  repeat' (first
    | with_reducible assumption | (fail_if_no_progress with_reducible (refine Kept.put ?_ rfl)))

theorem execWalk_kept {s0 : State} {panel : BitVec 4} {stack : BitVec 2} {c : Rec64} {s : State} {out : State}
    (h : Kept s0 s) (e : execWalk panel stack c s = .next out) : Kept s0 out := by
  unfold execWalk at e
  injection e with e
  subst e
  repeat' (first
    | with_reducible assumption | with_reducible refine bump_kept ?_ | with_reducible refine kvReject_kept ?_
    | with_reducible refine modCast_kept ?_ | with_reducible refine unpost_kept ?_ | split)

theorem putTiles_kept {s0 : State} {p die : Nat} {c : Cast} {k : KvDecl} {r : RingDecl} {slot tensor : Nat}
    {tiles : List (Nat × Nat × List Byte)} {s : State} (h : Kept s0 s) :
    Kept s0 (putTiles p die c k r slot tensor tiles s) := by
  unfold putTiles
  repeat' (first
    | with_reducible assumption | with_reducible refine areaWrite_kept ?_ | with_reducible refine nextTile_kept ?_
    | with_reducible (refine Kept.foldl2 ?_ (fun _ _ _ => ?_)))

theorem entryDone_kept {s0 : State} {p : Nat} {c : Cast} {r : RingDecl} {rest : List WalkEnt} {s : State} (h :
    Kept s0 s) : Kept s0 (entryDone p c r rest s) := by
  unfold entryDone
  repeat' (first
    | with_reducible assumption | with_reducible refine modCast_kept ?_
    | with_reducible refine sendSignals_kept ?_)

theorem dropGoneHanks_kept {s0 : State} {p : Nat} {s : State} (h : Kept s0 s) : Kept s0 (dropGoneHanks p s) := by
  unfold dropGoneHanks
  repeat' (first
    | with_reducible assumption | with_reducible refine modCast_kept ?_ | with_reducible refine wr_kept ?_
    | with_reducible (refine Kept.foldl ?_ (fun _ _ _ => ?_)) | split)

theorem rebuildDue_kept {s0 : State} {p slot : Nat} {s : State} (h : Kept s0 s) : Kept s0 (rebuildDue p slot s) := by
  unfold rebuildDue
  repeat' (first
    | with_reducible assumption | with_reducible refine leaveWork_kept ?_ | with_reducible refine modSlot_kept ?_
    | split)

theorem losePage_kept {s0 : State} {p slot : Nat} {addr : Option Nat} {s : State} (h : Kept s0 s) :
    Kept s0 (losePage p slot addr s) := by
  unfold losePage
  repeat' (first
    | with_reducible assumption | with_reducible refine dataLost_kept ?_
    | with_reducible refine dropGoneHanks_kept ?_ | with_reducible refine loseRange_kept ?_
    | with_reducible refine rebuildDue_kept ?_ | split)

theorem badPage_kept {s0 : State} {p slot : Nat} {c : Cast} {page : Nat} {s : State} (h : Kept s0 s) :
    Kept s0 (badPage p slot c page s) := by
  unfold badPage
  repeat' (first
    | with_reducible assumption | with_reducible refine Kept.snd ?_ (by assumption)
    | with_reducible refine Kept.fst ?_ (by assumption) | with_reducible refine Kept.snd2 ?_ (by assumption)
    | with_reducible refine Kept.snd3 ?_ (by assumption) | with_reducible refine Kept.eqSnd ?_ (by assumption)
    | with_reducible refine Kept.eqFst ?_ (by assumption) | with_reducible refine bump_kept ?_
    | with_reducible refine endSlot_kept ?_ | with_reducible refine losePage_kept ?_
    | with_reducible refine rebuildDue_kept ?_ | with_reducible (refine Kept.foldl ?_ (fun _ _ _ => ?_))
    | with_reducible (refine Kept.foldl2 ?_ (fun _ _ _ => ?_))
    | (fail_if_no_progress with_reducible (refine Kept.put ?_ rfl)) | split | (dsimp only))

theorem returnPage_kept {s0 : State} {p page : Nat} {s : State} (h : Kept s0 s) : Kept s0 (returnPage p page s) := by
  unfold returnPage
  repeat' (first
    | with_reducible assumption | with_reducible refine submitReturn_kept ?_)

theorem readPage_kept {s0 : State} {p : Nat} {c : Cast} {k : KvDecl} {page : Nat} {s : State} (h : Kept s0 s) :
    Kept s0 (readPage p c k page s) := by
  unfold readPage
  repeat' (first
    | with_reducible assumption | with_reducible refine bump_kept ?_ | with_reducible refine cacheReads_kept ?_
    | with_reducible refine touch_kept ?_ | split)

theorem readLine_kept {s0 : State} {p : Nat} {k : KvDecl} {root l g j : Nat} {s : State} (h : Kept s0 s) :
    Kept s0 (readLine p k root l g j s) := by
  unfold readLine
  repeat' (first
    | with_reducible assumption | with_reducible refine cacheReads_kept ?_ | with_reducible refine touch_kept ?_)

theorem readBlock_kept {s0 : State} {p : Nat} {c : Cast} {k : KvDecl} {root l g b n : Nat} {first : Bool}
    {pages : List Nat} {s : State} (h : Kept s0 s) : Kept s0 (readBlock p c k root l g b n first pages s) := by
  unfold readBlock
  repeat' (first
    | with_reducible assumption | with_reducible refine readLine_kept ?_ | with_reducible refine readPage_kept ?_
    | with_reducible (refine Kept.foldl ?_ (fun _ _ _ => ?_)) | split | (dsimp only))

theorem deadTiles_kept {s0 : State} {k : KvDecl} {s : State} (h : Kept s0 s) : Kept s0 ((deadTiles k s).2) := by
  unfold deadTiles
  repeat' (first
    | with_reducible assumption | with_reducible refine freeNat_kept ?_)

theorem putBlock_kept {s0 : State} {p : Nat} {c : Cast} {k : KvDecl} {r : RingDecl} {slot tensor : Nat}
    {rest : List WalkEnt} {tiles : List (Nat × Nat × List Byte)} {s : State} (h : Kept s0 s) :
    Kept s0 (putBlock p c k r slot tensor rest tiles s) := by
  unfold putBlock
  repeat' (first
    | with_reducible assumption | with_reducible refine bump_kept ?_ | with_reducible refine entryDone_kept ?_
    | with_reducible refine putTiles_kept ?_)

theorem walkEntry_kept {s0 : State} {p : Nat} {c : Cast} {k : KvDecl} {r : RingDecl} {slot : Nat} {x5 : WalkEnt}
    {rest : List WalkEnt} {s : State} (h : Kept s0 s) : Kept s0 (walkEntry p c k r slot x5 rest s) := by
  unfold walkEntry
  repeat' (first
    | with_reducible assumption | with_reducible refine areaWrite_kept ?_ | with_reducible refine badPage_kept ?_
    | with_reducible refine deadTiles_kept ?_ | with_reducible refine entryDone_kept ?_
    | with_reducible refine putBlock_kept ?_ | with_reducible refine readBlock_kept ?_
    | with_reducible refine returnPage_kept ?_ | split)

theorem execWalkEntryPut_kept {s0 : State} {panel ring : BitVec 4} {s : State} {out : State} (h : Kept s0 s)
    (e : execWalkEntryPut panel ring s = .next out) : Kept s0 out := by
  unfold execWalkEntryPut at e
  injection e with e
  subst e
  repeat' (first
    | with_reducible assumption | with_reducible refine runReleases_kept ?_
    | with_reducible refine walkEntry_kept ?_ | with_reducible refine withAreas_kept ?_ (fun _ _ => ?_) | split
    | (dsimp only))

theorem execAppend_kept {s0 : State} {panel : BitVec 4} {stack : BitVec 2} {c : Rec64} {s : State} {out : State}
    (h : Kept s0 s) (e : execAppend panel stack c s = .next out) : Kept s0 out := by
  unfold execAppend at e
  injection e with e
  subst e
  repeat' (first
    | with_reducible assumption | with_reducible refine kvReject_kept ?_ | with_reducible refine modCast_kept ?_
    | with_reducible refine unpost_kept ?_ | split)

theorem growPool_kept {s0 : State} {p i need fuel : Nat} {x4 : State} (h : Kept s0 x4) :
    Kept s0 ((growPool p i need fuel x4).2) := by
  fun_induction growPool p i need fuel x4 <;> (repeat' (first
    | with_reducible assumption | with_reducible refine Kept.snd ?_ (by assumption)
    | with_reducible refine Kept.fst ?_ (by assumption) | with_reducible refine Kept.snd2 ?_ (by assumption)
    | with_reducible refine Kept.snd3 ?_ (by assumption) | with_reducible refine Kept.eqSnd ?_ (by assumption)
    | with_reducible refine Kept.eqFst ?_ (by assumption) | with_reducible refine allocTry_kept ?_
    | with_reducible refine countWait_kept ?_ | with_reducible refine modCast_kept ?_
    | with_reducible refine wr_kept ?_ | with_reducible apply_assumption -exfalso))

theorem takePage_kept {s0 : State} {p page : Nat} {s : State} (h : Kept s0 s) : Kept s0 (takePage p page s) := by
  unfold takePage
  repeat' (first
    | with_reducible assumption | with_reducible refine clearRange_kept ?_ | with_reducible refine modCast_kept ?_
    | with_reducible refine touch_kept ?_ | with_reducible refine wr_kept ?_ | split)

theorem ensureList_kept {s0 : State} {p i j : Nat} {s : State} (h : Kept s0 s) :
    Kept s0 ((ensureList p i j s).2) := by
  unfold ensureList
  repeat' (first
    | with_reducible assumption | with_reducible refine Kept.snd ?_ (by assumption)
    | with_reducible refine Kept.fst ?_ (by assumption) | with_reducible refine Kept.snd2 ?_ (by assumption)
    | with_reducible refine Kept.snd3 ?_ (by assumption) | with_reducible refine Kept.eqSnd ?_ (by assumption)
    | with_reducible refine Kept.eqFst ?_ (by assumption) | with_reducible refine allocTry_kept ?_
    | with_reducible refine fillRange_kept ?_ | with_reducible refine modSlot_kept ?_
    | with_reducible refine wr_kept ?_ | with_reducible refine writeRootPages_kept ?_ | split | (dsimp only))

theorem returnPages_kept {s0 : State} {p : Nat} {pages : List Nat} {s : State} {out : State} (h : Kept s0 s)
    (e : returnPages p pages s = some out) : Kept s0 out := by
  unfold returnPages at e
  repeat' (first | (cases e; done) | (split at e) | (dsimp only at e))
  all_goals first
    | (injection e with e; subst e)
    | obtain ⟨_, _, rfl⟩ := Option.map_eq_some_iff.mp e
    | skip
  all_goals repeat' (first
    | with_reducible assumption | with_reducible refine returnPage_kept ?_
    | with_reducible (refine Kept.foldl ?_ (fun _ _ _ => ?_)))

theorem takePages_kept {s0 : State} {p i j : Nat} {s : State} (h : Kept s0 s) : Kept s0 ((takePages p i j s).2) := by
  unfold takePages
  repeat' (first
    | with_reducible assumption | with_reducible refine Kept.snd ?_ (by assumption)
    | with_reducible refine Kept.fst ?_ (by assumption) | with_reducible refine Kept.snd2 ?_ (by assumption)
    | with_reducible refine Kept.snd3 ?_ (by assumption) | with_reducible refine Kept.eqSnd ?_ (by assumption)
    | with_reducible refine Kept.eqFst ?_ (by assumption) | with_reducible refine dropAlloc_kept ?_
    | with_reducible refine ensureList_kept ?_ | with_reducible refine growPool_kept ?_
    | with_reducible refine returnPages_kept ?_ (by assumption)
    | with_reducible refine Kept.getD ?_ (fun _ _ => ?_)
    | with_reducible refine Kept.ofFind (fun _ _ _ => ?_) (by assumption) | with_reducible refine takePage_kept ?_
    | with_reducible refine touch_kept ?_ | with_reducible refine wr_kept ?_
    | with_reducible (refine Kept.foldl ?_ (fun _ _ _ => ?_)) | split | (dsimp only))

theorem scatterRow_kept {s0 : State} {p i l g t : Nat} {key value : List Byte} {s : State} (h : Kept s0 s) :
    Kept s0 (scatterRow p i l g t key value s) := by
  unfold scatterRow
  repeat' (first
    | with_reducible assumption | with_reducible refine bump_kept ?_ | with_reducible refine cacheLook_kept ?_
    | with_reducible refine nextTile_kept ?_ | with_reducible refine touch_kept ?_
    | with_reducible refine wr_kept ?_ | with_reducible (refine Kept.foldl ?_ (fun _ _ _ => ?_)) | split
    | (dsimp only))

theorem checkAppend_kept {s0 : State} {p : Nat} {k : KvDecl} {cmd : Nat × Rec64} {s : State} (h : Kept s0 s) :
    Kept s0 ((checkAppend p k cmd s).2) := by
  unfold checkAppend
  repeat' (first
    | with_reducible assumption | with_reducible refine Kept.snd ?_ (by assumption)
    | with_reducible refine Kept.fst ?_ (by assumption) | with_reducible refine Kept.snd2 ?_ (by assumption)
    | with_reducible refine Kept.snd3 ?_ (by assumption) | with_reducible refine Kept.eqSnd ?_ (by assumption)
    | with_reducible refine Kept.eqFst ?_ (by assumption) | with_reducible refine bump_kept ?_
    | with_reducible refine engineTiles_kept ?_ | with_reducible refine touch_kept ?_ | split | (dsimp only))

theorem checkAppends_kept {s0 : State} {p : Nat} {k : KvDecl} {l : List (Nat × Rec64)} {s : State} (h :
    Kept s0 s) : Kept s0 ((checkAppends p k l s).2) := by
  unfold checkAppends
  repeat' (first
    | with_reducible assumption | with_reducible refine checkAppend_kept ?_
    | with_reducible (refine Kept.foldl2 ?_ (fun _ _ _ => ?_)) | split)

theorem scatterPos_kept {s0 : State} {p : Nat} {sc : Scatter} {k : KvDecl} {n0 t : Nat} {s : State} (h :
    Kept s0 s) : Kept s0 (scatterPos p sc k n0 t s) := by
  unfold scatterPos
  repeat' (first
    | with_reducible assumption | with_reducible refine scatterRow_kept ?_
    | with_reducible (refine Kept.foldl ?_ (fun _ _ _ => ?_)) | split)

theorem scatterPages_kept {s0 : State} {p : Nat} {sc : Scatter} {k : KvDecl} {s : State} (h : Kept s0 s) :
    Kept s0 ((scatterPages p sc k s).2) := by
  unfold scatterPages
  repeat' (first
    | with_reducible assumption | with_reducible refine takePages_kept ?_ | split)

theorem pagesReady_kept {s0 : State} {p : Nat} {sc : Scatter} {k : KvDecl} {s : State} (h : Kept s0 s) :
    Kept s0 (turnSt (pagesReady p sc k s)) := by
  unfold pagesReady
  repeat' (first
    | with_reducible assumption | with_reducible refine badPage_kept ?_ | with_reducible refine holdWrite_kept ?_
    | with_reducible refine returnPages_kept ?_ (by assumption)
    | with_reducible refine Kept.getD ?_ (fun _ _ => ?_)
    | with_reducible refine Kept.ofFind (fun _ _ _ => ?_) (by assumption)
    | (dsimp only [turnSt_ready, turnSt_wait, turnSt_gone]) | split)

theorem scatterGo_kept {s0 : State} {p fuel : Nat} {x2 : Scatter} {x3 : State} (h : Kept s0 x3) :
    Kept s0 ((scatterGo p fuel x2 x3).2.2) := by
  fun_induction scatterGo p fuel x2 x3 <;> (repeat' (first
    | with_reducible assumption | with_reducible refine Kept.snd ?_ (by assumption)
    | with_reducible refine Kept.fst ?_ (by assumption) | with_reducible refine Kept.snd2 ?_ (by assumption)
    | with_reducible refine Kept.snd3 ?_ (by assumption) | with_reducible refine Kept.eqSnd ?_ (by assumption)
    | with_reducible refine Kept.eqFst ?_ (by assumption) | with_reducible refine bump_kept ?_
    | with_reducible refine pagesReady_kept ?_ | with_reducible refine scatterPages_kept ?_
    | with_reducible refine scatterPos_kept ?_
    | with_reducible refine Kept.turn ?_ (by first | exact .inl (by assumption) | exact .inr (.inl (by assumption)) |
        exact .inr (.inr (by assumption)))
    | with_reducible apply_assumption -exfalso | split))

theorem positionsDone_kept {s0 : State} {i n : Nat} {s : State} (h : Kept s0 s) : Kept s0 (positionsDone i n s) := by
  unfold positionsDone
  repeat' (first
    | with_reducible assumption | with_reducible refine modSlot_kept ?_ | with_reducible refine setSlot_kept ?_
    | with_reducible refine slotChanged_kept ?_ | split)

theorem mirrorPages_kept {s0 : State} {i : Nat} {k : KvDecl} {len : Nat} {s : State} (h : Kept s0 s) :
    Kept s0 (mirrorPages i k len s) := by
  unfold mirrorPages
  repeat' (first
    | with_reducible assumption | with_reducible refine bump_kept ?_ | with_reducible refine cacheLooks_kept ?_
    | with_reducible refine modSlot_kept ?_ | with_reducible refine returnPages_kept ?_ (by assumption)
    | with_reducible refine Kept.getD ?_ (fun _ _ => ?_)
    | with_reducible refine Kept.ofFind (fun _ _ _ => ?_) (by assumption) | with_reducible refine sendBulk_kept ?_
    | with_reducible refine touch_kept ?_ | with_reducible (refine Kept.foldl ?_ (fun _ _ _ => ?_)) | split
    | (dsimp only))

theorem scatterEnd_kept {s0 : State} {p : Nat} {sc : Scatter} {s : State} (h : Kept s0 s) :
    Kept s0 (scatterEnd p sc s) := by
  unfold scatterEnd
  repeat' (first
    | with_reducible assumption | with_reducible refine mirrorPages_kept ?_
    | with_reducible refine modSlot_kept ?_ | with_reducible refine positionsDone_kept ?_
    | with_reducible refine writeRootPages_kept ?_ | split)

theorem runScatters_kept {s0 : State} {p : Nat} {s : State} (h : Kept s0 s) : Kept s0 (runScatters p s) := by
  unfold runScatters
  repeat' (first
    | with_reducible assumption | with_reducible refine Kept.snd ?_ (by assumption)
    | with_reducible refine Kept.fst ?_ (by assumption) | with_reducible refine Kept.snd2 ?_ (by assumption)
    | with_reducible refine Kept.snd3 ?_ (by assumption) | with_reducible refine Kept.eqSnd ?_ (by assumption)
    | with_reducible refine Kept.eqFst ?_ (by assumption) | with_reducible refine modCast_kept ?_
    | with_reducible refine scatterEnd_kept ?_ | with_reducible refine scatterGo_kept ?_
    | with_reducible (refine Kept.foldl ?_ (fun _ _ _ => ?_)) | split)

theorem startScatter_kept {s0 : State} {p i : Nat} {s : State} (h : Kept s0 s) : Kept s0 (startScatter p i s) := by
  unfold startScatter
  repeat' (first
    | with_reducible assumption | with_reducible refine Kept.snd ?_ (by assumption)
    | with_reducible refine Kept.fst ?_ (by assumption) | with_reducible refine Kept.snd2 ?_ (by assumption)
    | with_reducible refine Kept.snd3 ?_ (by assumption) | with_reducible refine Kept.eqSnd ?_ (by assumption)
    | with_reducible refine Kept.eqFst ?_ (by assumption) | with_reducible refine bump_kept ?_
    | with_reducible refine checkAppends_kept ?_ | with_reducible refine endSlot_kept ?_
    | with_reducible refine modCast_kept ?_ | split | (dsimp only))

theorem execPageTakeResume_kept {s0 : State} {panel : BitVec 4} {s : State} {out : State} (h : Kept s0 s)
    (e : execPageTakeResume panel s = .next out) : Kept s0 out := by
  unfold execPageTakeResume at e
  injection e with e
  subst e
  repeat' (first
    | with_reducible assumption | with_reducible refine runScatters_kept ?_)

/-! ## Experts -/

theorem checkArea_kept {s0 : State} {p area off n : Nat} {s : State} (h : Kept s0 s) :
    Kept s0 ((checkArea p area off n s).2) := by
  unfold checkArea
  repeat' (first
    | with_reducible assumption | with_reducible refine engineTiles_kept ?_ | split)

theorem checkAreas_kept {s0 : State} {p : Nat} {l : List (Nat × Nat × Nat)} {s : State} (h : Kept s0 s) :
    Kept s0 ((checkAreas p l s).2) := by
  unfold checkAreas
  repeat' (first
    | with_reducible assumption | with_reducible refine checkArea_kept ?_
    | with_reducible (refine Kept.foldl2 ?_ (fun _ _ _ => ?_)) | split)

theorem tileHeaders_kept {s0 : State} {p die : Nat} {c : Cast} {area off n fmt rowB : Nat} {s : State} (h :
    Kept s0 s) : Kept s0 (tileHeaders p die c area off n fmt rowB s) := by
  unfold tileHeaders
  repeat' (first
    | with_reducible assumption | with_reducible refine nextTile_kept ?_
    | with_reducible refine putTileHdr_kept ?_ | with_reducible (refine Kept.foldl ?_ (fun _ _ _ => ?_)) | split)

theorem tileWrite_kept {s0 : State} {p die : Nat} {c : Cast} {area off fmt rowB : Nat} {l : List Byte} {s : State}
    (h : Kept s0 s) : Kept s0 (tileWrite p die c area off fmt rowB l s) := by
  unfold tileWrite
  repeat' (first
    | with_reducible assumption | with_reducible refine areaWrite_kept ?_
    | with_reducible refine tileHeaders_kept ?_)

theorem writeSlot_kept {s0 : State} {p die : Nat} {c : Cast} {d : ExpertDecl} {ret : Bool}
    {area off layer source step : Nat} {segs : List Segment} {s : State} (h : Kept s0 s) :
    Kept s0 (writeSlot p die c d ret area off layer source step segs s) := by
  unfold writeSlot
  repeat' (first
    | with_reducible assumption | with_reducible refine Kept.snd ?_ (by assumption)
    | with_reducible refine Kept.fst ?_ (by assumption) | with_reducible refine Kept.snd2 ?_ (by assumption)
    | with_reducible refine Kept.snd3 ?_ (by assumption) | with_reducible refine Kept.eqSnd ?_ (by assumption)
    | with_reducible refine Kept.eqFst ?_ (by assumption) | with_reducible refine areaWrite_kept ?_
    | with_reducible refine nextTile_kept ?_ | with_reducible refine tileHeaders_kept ?_
    | with_reducible (refine Kept.foldl ?_ (fun _ _ _ => ?_))
    | with_reducible (refine Kept.foldl2 ?_ (fun _ _ _ => ?_))
    | (fail_if_no_progress with_reducible (refine Kept.put ?_ rfl)) | split | (dsimp only))

theorem checkSeg_kept {s0 : State} {c : Cast} {d : ExpertDecl} {ret : Bool} {area off at_ k : Nat} {s : State}
    (h : Kept s0 s) : Kept s0 ((checkSeg c d ret area off at_ k s).2.2.2) := by
  unfold checkSeg
  repeat' (first
    | with_reducible assumption | with_reducible refine Kept.snd ?_ (by assumption)
    | with_reducible refine Kept.fst ?_ (by assumption) | with_reducible refine Kept.snd2 ?_ (by assumption)
    | with_reducible refine Kept.snd3 ?_ (by assumption) | with_reducible refine Kept.eqSnd ?_ (by assumption)
    | with_reducible refine Kept.eqFst ?_ (by assumption) | with_reducible refine engineTiles_kept ?_
    | with_reducible (refine Kept.foldl ?_ (fun _ _ _ => ?_))
    | with_reducible (refine Kept.foldl2 ?_ (fun _ _ _ => ?_))
    | (fail_if_no_progress with_reducible (refine Kept.put ?_ rfl)) | split | (dsimp only))

theorem eachSeg_kept {s0 : State} {f : Nat → Nat → State → Bool × Nat × Nat × State} {n at_ k : Nat} {x4 : State}
    (h : Kept s0 x4) (hf : ∀ y0 y1 t, Kept s0 t → Kept s0 ((f y0 y1 t).2.2.2)) :
    Kept s0 ((eachSeg f n at_ k x4).2) := by
  fun_induction eachSeg f n at_ k x4 <;> (repeat' (first
    | with_reducible assumption | with_reducible refine hf _ _ _ ?_
    | with_reducible refine Kept.snd ?_ (by assumption) | with_reducible refine Kept.fst ?_ (by assumption)
    | with_reducible refine Kept.snd2 ?_ (by assumption) | with_reducible refine Kept.snd3 ?_ (by assumption)
    | with_reducible refine Kept.eqSnd ?_ (by assumption) | with_reducible refine Kept.eqFst ?_ (by assumption)
    | with_reducible (refine Kept.foldl ?_ (fun _ _ _ => ?_))
    | with_reducible (refine Kept.foldl2 ?_ (fun _ _ _ => ?_))
    | (fail_if_no_progress with_reducible (refine Kept.put ?_ rfl)) | with_reducible apply_assumption -exfalso
    | split | (dsimp only)))

theorem checkSlot_kept {s0 : State} {c : Cast} {d : ExpertDecl} {ret : Bool} {area off n at_ k : Nat} {s : State}
    (h : Kept s0 s) : Kept s0 ((checkSlot c d ret area off n at_ k s).2) := by
  unfold checkSlot
  repeat' (first
    | with_reducible assumption | with_reducible refine Kept.snd ?_ (by assumption)
    | with_reducible refine Kept.fst ?_ (by assumption) | with_reducible refine Kept.snd2 ?_ (by assumption)
    | with_reducible refine Kept.snd3 ?_ (by assumption) | with_reducible refine Kept.eqSnd ?_ (by assumption)
    | with_reducible refine Kept.eqFst ?_ (by assumption) | with_reducible refine checkSeg_kept ?_
    | with_reducible refine eachSeg_kept ?_ (fun _ _ _ _ => ?_)
    | with_reducible (refine Kept.foldl ?_ (fun _ _ _ => ?_))
    | with_reducible (refine Kept.foldl2 ?_ (fun _ _ _ => ?_))
    | (fail_if_no_progress with_reducible (refine Kept.put ?_ rfl)) | split | (dsimp only))

theorem writeBundle_kept {s0 : State} {p : Nat} {c : Cast} {d : ExpertDecl} {layer source step : Nat}
    {segs : List Segment} {x7 : Nat × Nat} {s : State} (h : Kept s0 s) :
    Kept s0 (writeBundle p c d layer source step segs x7 s) := by
  unfold writeBundle
  repeat' (first
    | with_reducible assumption | with_reducible refine modCast_kept ?_ | with_reducible refine writeSlot_kept ?_
    | split)

theorem dispatchRun_kept {s0 : State} {p layer source step tokens : Nat} {s : State} (h : Kept s0 s) :
    Kept s0 (dispatchRun p layer source step tokens s) := by
  unfold dispatchRun
  repeat' (first
    | with_reducible assumption | with_reducible refine Kept.snd ?_ (by assumption)
    | with_reducible refine Kept.fst ?_ (by assumption) | with_reducible refine Kept.snd2 ?_ (by assumption)
    | with_reducible refine Kept.snd3 ?_ (by assumption) | with_reducible refine Kept.eqSnd ?_ (by assumption)
    | with_reducible refine Kept.eqFst ?_ (by assumption) | with_reducible refine bump_kept ?_
    | with_reducible refine checkAreas_kept ?_ | with_reducible refine lostForPanel_kept ?_
    | with_reducible refine modCast_kept ?_ | with_reducible refine sendSignals_kept ?_
    | with_reducible refine writeBundle_kept ?_ | with_reducible (refine Kept.foldl ?_ (fun _ _ _ => ?_)) | split)

theorem routeReject_kept {s0 : State} {p : Nat} {c : Rec64} {s : State} (h : Kept s0 s) :
    Kept s0 (routeReject p c s) := by
  unfold routeReject
  repeat' (first
    | with_reducible assumption | with_reducible refine bump_kept ?_)

theorem remember_kept {s0 : State} {p kind st : Nat} {c : Rec64} {s : State} (h : Kept s0 s) :
    Kept s0 (remember p kind st c s) := by
  unfold remember
  repeat' (first
    | with_reducible assumption | with_reducible refine modCast_kept ?_)

theorem dispatchNow_kept {s0 : State} {p : Nat} {c : Rec64} {taken : State → State} {s : State} (h : Kept s0 s)
    (htaken : ∀ t, Kept s0 t → Kept s0 ((taken  t))) : Kept s0 (dispatchNow p c taken s) := by
  unfold dispatchNow
  repeat' (first
    | with_reducible assumption | with_reducible refine htaken _ ?_ | with_reducible refine areasAccess_kept ?_
    | with_reducible refine dispatchRun_kept ?_ | with_reducible refine Kept.go ?_ (by assumption)
    | with_reducible refine Kept.wait ?_ (by assumption) | with_reducible refine Kept.lost ?_ (by assumption)
    | with_reducible refine Kept.fault ?_ (by assumption) | with_reducible refine Kept.eqAcc ?_ (by assumption)
    | with_reducible refine Kept.sndGo ?_ (by assumption) | with_reducible refine Kept.sndAcc ?_ (by assumption)
    | (dsimp only [accSt_go, accSt_wait, accSt_lost, accSt_fault]) | split)

theorem execDispatch_kept {s0 : State} {panel : BitVec 4} {stack : BitVec 2} {c : Rec64} {s : State} {out : State}
    (h : Kept s0 s) (e : execDispatch panel stack c s = .next out) : Kept s0 out := by
  unfold execDispatch at e
  injection e with e
  subst e
  repeat' (first
    | with_reducible assumption | with_reducible refine bump_kept ?_
    | with_reducible refine dispatchNow_kept ?_ (fun _ _ => ?_) | with_reducible refine modCast_kept ?_
    | with_reducible refine remember_kept ?_ | with_reducible refine routeReject_kept ?_
    | with_reducible refine unpost_kept ?_ | split)

theorem execDispatchResume_kept {s0 : State} {panel : BitVec 4} {layer : BitVec 6} {s : State} {out : State} (h :
    Kept s0 s) (e : execDispatchResume panel layer s = .next out) : Kept s0 out := by
  unfold execDispatchResume at e
  injection e with e
  subst e
  repeat' (first
    | with_reducible assumption | with_reducible refine dispatchNow_kept ?_ (fun _ _ => ?_)
    | with_reducible refine modCast_kept ?_ | split)

theorem raiseCount_kept {s0 : State} {c : Cast} {d : ExpertDecl} {st step n : Nat} {final : Bool} {s : State}
    (h : Kept s0 s) : Kept s0 (raiseCount c d st step n final s) := by
  unfold raiseCount
  repeat' (first
    | with_reducible assumption | with_reducible refine areaWrite_kept ?_
    | with_reducible refine countStore_kept ?_ | split)

theorem appendProblem_kept {s0 : State} {c : Cast} {d : ExpertDecl} {st step n : Nat} {r : Rec64} {s : State}
    (h : Kept s0 s) : Kept s0 (appendProblem c d st step n r s) := by
  unfold appendProblem
  repeat' (first
    | with_reducible assumption | with_reducible refine areaWrite_kept ?_
    | with_reducible refine raiseCount_kept ?_)

theorem putHomeStep_kept {s0 : State} {p : Nat} {x1 : HomeStep} {s : State} (h : Kept s0 s) :
    Kept s0 (putHomeStep p x1 s) := by
  unfold putHomeStep
  repeat' (first
    | with_reducible assumption | with_reducible refine modCast_kept ?_)

theorem placeSeg_kept {s0 : State} {p part st source : Nat} {c : Cast} {d : ExpertDecl} {x6 : HomeStep}
    {g : Segment} {s : State} (h : Kept s0 s) : Kept s0 ((placeSeg p part st source c d x6 g s).2) := by
  unfold placeSeg
  repeat' (first
    | with_reducible assumption | with_reducible refine appendProblem_kept ?_ | with_reducible refine bump_kept ?_
    | with_reducible refine tileWrite_kept ?_ | with_reducible (refine Kept.foldl2 ?_ (fun _ _ _ => ?_)) | split)

theorem takeBundle_kept {s0 : State} {p layer st step : Nat} {x : Cast} {d : ExpertDecl} {b : Bundle}
    {x7 : HomeStep} {s : State} (h : Kept s0 s) : Kept s0 ((takeBundle p layer st step x d b x7 s).2) := by
  unfold takeBundle
  repeat' (first
    | with_reducible assumption | with_reducible refine bump_kept ?_ | with_reducible refine placeSeg_kept ?_
    | with_reducible refine raiseCount_kept ?_ | with_reducible (refine Kept.foldl ?_ (fun _ _ _ => ?_))
    | with_reducible (refine Kept.foldl2 ?_ (fun _ _ _ => ?_)) | split | (dsimp only))

theorem homeGo_kept {s0 : State} {p layer st step fuel : Nat} {x5 : State} (h : Kept s0 x5) : Kept s0
    (homeGo p layer st step fuel x5) := by
  fun_induction homeGo p layer st step fuel x5 <;> (repeat' (first
    | with_reducible assumption | with_reducible refine putHomeStep_kept ?_
    | with_reducible refine takeBundle_kept ?_ | with_reducible apply_assumption -exfalso))

theorem homeGoAll_kept {s0 : State} {p layer st : Nat} {s : State} (h : Kept s0 s) : Kept s0
    (homeGoAll p layer st s) := by
  unfold homeGoAll
  repeat' (first
    | with_reducible assumption | with_reducible refine homeGo_kept ?_
    | with_reducible (refine Kept.foldl ?_ (fun _ _ _ => ?_)) | split)

theorem takeInbox_kept {s0 : State} {p st source step : Nat} {x : Cast} {d : ExpertDecl} {s : State} (h :
    Kept s0 s) : Kept s0 ((takeInbox p st source step x d s).2) := by
  unfold takeInbox
  repeat' (first
    | with_reducible assumption | with_reducible refine Kept.snd ?_ (by assumption)
    | with_reducible refine Kept.fst ?_ (by assumption) | with_reducible refine Kept.snd2 ?_ (by assumption)
    | with_reducible refine Kept.snd3 ?_ (by assumption) | with_reducible refine Kept.eqSnd ?_ (by assumption)
    | with_reducible refine Kept.eqFst ?_ (by assumption) | with_reducible refine checkSlot_kept ?_
    | with_reducible refine lostForPanel_kept ?_ | with_reducible (refine Kept.foldl ?_ (fun _ _ _ => ?_))
    | with_reducible (refine Kept.foldl2 ?_ (fun _ _ _ => ?_))
    | (fail_if_no_progress with_reducible (refine Kept.put ?_ rfl)) | split | (dsimp only))

theorem announceGo_kept {s0 : State} {p layer st source step : Nat} {x : Cast} {d : ExpertDecl} {s : State} (h :
    Kept s0 s) : Kept s0 (announceGo p layer st source step x d s) := by
  unfold announceGo
  repeat' (first
    | with_reducible assumption | with_reducible refine Kept.snd ?_ (by assumption)
    | with_reducible refine Kept.fst ?_ (by assumption) | with_reducible refine Kept.snd2 ?_ (by assumption)
    | with_reducible refine Kept.snd3 ?_ (by assumption) | with_reducible refine Kept.eqSnd ?_ (by assumption)
    | with_reducible refine Kept.eqFst ?_ (by assumption) | with_reducible refine homeGo_kept ?_
    | with_reducible refine modCast_kept ?_ | with_reducible refine takeInbox_kept ?_
    | with_reducible (refine Kept.foldl ?_ (fun _ _ _ => ?_))
    | with_reducible (refine Kept.foldl2 ?_ (fun _ _ _ => ?_))
    | (fail_if_no_progress with_reducible (refine Kept.put ?_ rfl)) | split | (dsimp only))

theorem execBundleAnnounce_kept {s0 : State} {panel : BitVec 4} {stack : BitVec 2} {layer source : BitVec 6}
    {step : BitVec 16} {s : State} {out : State} (h : Kept s0 s)
    (e : execBundleAnnounce panel stack layer source step s = .next out) : Kept s0 out := by
  unfold execBundleAnnounce at e
  injection e with e
  subst e
  repeat' (first
    | with_reducible assumption | with_reducible refine announceGo_kept ?_
    | with_reducible refine withAreas_kept ?_ (fun _ _ => ?_) | split)

theorem execArrive_kept {s0 : State} {panel : BitVec 4} {stack : BitVec 2} {c : Rec64} {s : State} {out : State}
    (h : Kept s0 s) (e : execArrive panel stack c s = .next out) : Kept s0 out := by
  unfold execArrive at e
  injection e with e
  subst e
  repeat' (first
    | with_reducible assumption | with_reducible refine Kept.snd ?_ (by assumption)
    | with_reducible refine Kept.fst ?_ (by assumption) | with_reducible refine Kept.snd2 ?_ (by assumption)
    | with_reducible refine Kept.snd3 ?_ (by assumption) | with_reducible refine Kept.eqSnd ?_ (by assumption)
    | with_reducible refine Kept.eqFst ?_ (by assumption) | with_reducible refine areasAccess_kept ?_
    | with_reducible refine homeGo_kept ?_ | with_reducible refine modCast_kept ?_
    | with_reducible refine remember_kept ?_ | with_reducible refine routeReject_kept ?_
    | with_reducible refine takeInbox_kept ?_ | with_reducible refine unpost_kept ?_
    | with_reducible refine Kept.go ?_ (by assumption) | with_reducible refine Kept.wait ?_ (by assumption)
    | with_reducible refine Kept.lost ?_ (by assumption) | with_reducible refine Kept.fault ?_ (by assumption)
    | with_reducible refine Kept.eqAcc ?_ (by assumption) | with_reducible refine Kept.sndGo ?_ (by assumption)
    | with_reducible refine Kept.sndAcc ?_ (by assumption)
    | (dsimp only [accSt_go, accSt_wait, accSt_lost, accSt_fault]) | split)

theorem combine_kept {s0 : State} {p layer source step : Nat} {s : State} (h : Kept s0 s) :
    Kept s0 (combine p layer source step s) := by
  unfold combine
  repeat' (first
    | with_reducible assumption | with_reducible refine bump_kept ?_ | with_reducible refine modCast_kept ?_
    | with_reducible refine sendSignals_kept ?_ | with_reducible refine tileWrite_kept ?_ | split)

theorem takeReturns_kept {s0 : State} {p layer source step : Nat} {segs : List Segment} {s : State} (h :
    Kept s0 s) : Kept s0 (takeReturns p layer source step segs s) := by
  unfold takeReturns
  repeat' (first
    | with_reducible assumption | with_reducible refine combine_kept ?_ | with_reducible refine modCast_kept ?_)

theorem takeReturnSlot_kept {s0 : State} {p layer source step : Nat} {x : Cast} {d : ExpertDecl} {x6 : Nat × Nat}
    {s : State} (h : Kept s0 s) : Kept s0 (takeReturnSlot p layer source step x d x6 s) := by
  unfold takeReturnSlot
  repeat' (first
    | with_reducible assumption | with_reducible refine Kept.snd ?_ (by assumption)
    | with_reducible refine Kept.fst ?_ (by assumption) | with_reducible refine Kept.snd2 ?_ (by assumption)
    | with_reducible refine Kept.snd3 ?_ (by assumption) | with_reducible refine Kept.eqSnd ?_ (by assumption)
    | with_reducible refine Kept.eqFst ?_ (by assumption) | with_reducible refine checkSlot_kept ?_
    | with_reducible refine lostForPanel_kept ?_ | with_reducible refine takeReturns_kept ?_
    | with_reducible (refine Kept.foldl ?_ (fun _ _ _ => ?_))
    | with_reducible (refine Kept.foldl2 ?_ (fun _ _ _ => ?_))
    | (fail_if_no_progress with_reducible (refine Kept.put ?_ rfl)) | split | (dsimp only))

theorem execRet_kept {s0 : State} {panel : BitVec 4} {stack : BitVec 2} {c : Rec64} {s : State} {out : State}
    (h : Kept s0 s) (e : execRet panel stack c s = .next out) : Kept s0 out := by
  unfold execRet at e
  injection e with e
  subst e
  repeat' (first
    | with_reducible assumption | with_reducible refine Kept.snd ?_ (by assumption)
    | with_reducible refine Kept.fst ?_ (by assumption) | with_reducible refine Kept.snd2 ?_ (by assumption)
    | with_reducible refine Kept.snd3 ?_ (by assumption) | with_reducible refine Kept.eqSnd ?_ (by assumption)
    | with_reducible refine Kept.eqFst ?_ (by assumption) | with_reducible refine areasAccess_kept ?_
    | with_reducible refine remember_kept ?_ | with_reducible refine routeReject_kept ?_
    | with_reducible refine takeReturnSlot_kept ?_ | with_reducible refine unpost_kept ?_
    | with_reducible refine Kept.go ?_ (by assumption) | with_reducible refine Kept.wait ?_ (by assumption)
    | with_reducible refine Kept.lost ?_ (by assumption) | with_reducible refine Kept.fault ?_ (by assumption)
    | with_reducible refine Kept.eqAcc ?_ (by assumption) | with_reducible refine Kept.sndGo ?_ (by assumption)
    | with_reducible refine Kept.sndAcc ?_ (by assumption)
    | with_reducible (refine Kept.foldl ?_ (fun _ _ _ => ?_))
    | with_reducible (refine Kept.foldl2 ?_ (fun _ _ _ => ?_))
    | (dsimp only [accSt_go, accSt_wait, accSt_lost, accSt_fault])
    | (fail_if_no_progress with_reducible (refine Kept.put ?_ rfl)) | split | (dsimp only))

theorem writeReturns_kept {s0 : State} {p : Nat} {x1 : State} {c : Cast} {d : ExpertDecl} {x4 : HomeStep}
    {b : Bundle} {s : State} (h : Kept s0 s) : Kept s0 (writeReturns p x1 c d x4 b s) := by
  unfold writeReturns
  repeat' (first
    | with_reducible assumption | with_reducible refine takeReturnSlot_kept ?_
    | with_reducible refine writeSlot_kept ?_ | split | (dsimp only))

theorem returnStep_kept {s0 : State} {p : Nat} {c : Cast} {d : ExpertDecl} {x3 : HomeStep} {s : State} (h :
    Kept s0 s) : Kept s0 (returnStep p c d x3 s) := by
  unfold returnStep
  repeat' (first
    | with_reducible assumption | with_reducible refine Kept.snd ?_ (by assumption)
    | with_reducible refine Kept.fst ?_ (by assumption) | with_reducible refine Kept.snd2 ?_ (by assumption)
    | with_reducible refine Kept.snd3 ?_ (by assumption) | with_reducible refine Kept.eqSnd ?_ (by assumption)
    | with_reducible refine Kept.eqFst ?_ (by assumption) | with_reducible refine checkAreas_kept ?_
    | with_reducible refine homeGoAll_kept ?_ | with_reducible refine lostForPanel_kept ?_
    | with_reducible refine modCast_kept ?_ | with_reducible refine sendSignals_kept ?_
    | with_reducible refine writeReturns_kept ?_ | with_reducible (refine Kept.foldl ?_ (fun _ _ _ => ?_)) | split
    | (dsimp only))

theorem execExpertReturnWrite_kept {s0 : State} {panel : BitVec 4} {stack : BitVec 2} {layer : BitVec 6} {s : State}
    {out : State} (h : Kept s0 s) (e : execExpertReturnWrite panel stack layer s = .next out) : Kept s0 out := by
  unfold execExpertReturnWrite at e
  injection e with e
  subst e
  repeat' (first
    | with_reducible assumption | with_reducible refine returnStep_kept ?_
    | with_reducible refine withAreas_kept ?_ (fun _ _ => ?_) | split)

/-! ## Admin -/

theorem adminRead_kept {s0 : State} {id a n : Nat} {s : State} (h : Kept s0 s) :
    Kept s0 ((adminRead id a n s).2) := by
  unfold adminRead
  repeat' (first
    | with_reducible assumption | with_reducible refine bump_kept ?_ | with_reducible refine hostRead_kept ?_
    | split)

theorem adminWrite_kept {s0 : State} {id a : Nat} {l : List Byte} {s : State} (h : Kept s0 s) :
    Kept s0 (adminWrite id a l s) := by
  unfold adminWrite
  repeat' (first
    | with_reducible assumption | with_reducible refine hostWrite_kept ?_ | split)

theorem adminOut_kept {s0 : State} {id buf len : Nat} {x3 : List Byte} {s : State} (h : Kept s0 s) :
    Kept s0 (adminOut id buf len x3 s) := by
  unfold adminOut
  repeat' (first
    | with_reducible assumption | with_reducible refine adminDone_kept ?_
    | with_reducible refine adminWrite_kept ?_ | split)

/-! ## Lifecycle -/

theorem runPanelCreate_kept {s0 : State} {id : Nat} {d : Rec64} {s : State} (h : Kept s0 s) :
    Kept s0 (runPanelCreate id d s) := by
  unfold runPanelCreate
  repeat' (first
    | with_reducible assumption | with_reducible refine adminDone_kept ?_ | with_reducible refine setPanel_kept ?_
    | split | (dsimp only))

theorem clearFallbacks_kept {s0 : State} {p : Nat} {s : State} (h : Kept s0 s) : Kept s0 (clearFallbacks p s) := by
  unfold clearFallbacks
  repeat' (first
    | with_reducible assumption | (fail_if_no_progress with_reducible (refine Kept.put ?_ rfl)))

theorem runPanelDestroy_kept {s0 : State} {id : Nat} {d : Rec64} {s : State} (h : Kept s0 s) :
    Kept s0 (runPanelDestroy id d s) := by
  unfold runPanelDestroy
  repeat' (first
    | with_reducible assumption | with_reducible refine adminDone_kept ?_
    | with_reducible refine cacheDrop_kept ?_ | with_reducible refine clearFallbacks_kept ?_
    | (fail_if_no_progress with_reducible (refine Kept.put ?_ rfl)) | split | (dsimp only))

theorem catalogueNote_kept {s0 : State} {x0 : CatEntry} {removed : Bool} {s : State} (h : Kept s0 s) :
    Kept s0 (catalogueNote x0 removed s) := by
  unfold catalogueNote
  repeat' (first
    | with_reducible assumption | with_reducible refine lifelineRecs_kept ?_ | split)

theorem deployMove_kept {s0 : State} {cmd a : Nat} {s : State} (h : Kept s0 s) : Kept s0 (deployMove cmd a s) := by
  unfold deployMove
  repeat' (first
    | with_reducible assumption | with_reducible refine Kept.snd ?_ (by assumption)
    | with_reducible refine Kept.fst ?_ (by assumption) | with_reducible refine Kept.snd2 ?_ (by assumption)
    | with_reducible refine Kept.snd3 ?_ (by assumption) | with_reducible refine Kept.eqSnd ?_ (by assumption)
    | with_reducible refine Kept.eqFst ?_ (by assumption)
    | with_reducible (refine Kept.foldl ?_ (fun _ _ _ => ?_))
    | with_reducible (refine Kept.foldl2 ?_ (fun _ _ _ => ?_))
    | (fail_if_no_progress with_reducible (refine Kept.put ?_ rfl)) | split | (dsimp only))

theorem reservePieces_kept {s0 : State} {cmd n i : Nat} {x3 : List Nat} {x4 : State} (h : Kept s0 x4) :
    Kept s0 ((reservePieces cmd n i x3 x4).2) := by
  fun_induction reservePieces cmd n i x3 x4 <;> (repeat' (first
    | with_reducible assumption | with_reducible refine deployMove_kept ?_
    | with_reducible (refine Kept.foldl ?_ (fun _ _ _ => ?_)) | with_reducible apply_assumption -exfalso))

theorem freePieces_kept {s0 : State} {x0 : CatEntry} {s : State} (h : Kept s0 s) : Kept s0 (freePieces x0 s) := by
  unfold freePieces
  repeat' (first
    | with_reducible assumption | with_reducible refine clearRange_kept ?_
    | with_reducible refine makeHomeless_kept ?_ | with_reducible refine releaseT3_kept ?_
    | with_reducible (refine Kept.foldl ?_ (fun _ _ _ => ?_)))

theorem dropCat_kept {s0 : State} {m w : BitVec 32} {s : State} (h : Kept s0 s) : Kept s0 (dropCat m w s) := by
  unfold dropCat
  repeat' (first
    | with_reducible assumption | (fail_if_no_progress with_reducible (refine Kept.put ?_ rfl)))

theorem deployEnd_kept {s0 : State} {id status : Nat} {s : State} (h : Kept s0 s) :
    Kept s0 (deployEnd id status s) := by
  unfold deployEnd
  repeat' (first
    | with_reducible assumption | with_reducible refine adminDone_kept ?_ | with_reducible refine bump_kept ?_
    | with_reducible refine freePieces_kept ?_ | with_reducible (refine Kept.foldl ?_ (fun _ _ _ => ?_))
    | (fail_if_no_progress with_reducible (refine Kept.put ?_ rfl)) | split)

theorem deployStorage_kept {s0 : State} {id : Nat} {d : Rec64} {s : State} (h : Kept s0 s) :
    Kept s0 (deployStorage id d s) := by
  unfold deployStorage
  repeat' (first
    | with_reducible assumption | with_reducible refine deployEnd_kept ?_
    | with_reducible refine sendFetches_kept ?_ | split | (dsimp only))

theorem deployPeer_kept {s0 : State} {id : Nat} {d : Rec64} {s : State} (h : Kept s0 s) :
    Kept s0 (deployPeer id d s) := by
  unfold deployPeer
  repeat' (first
    | with_reducible assumption | with_reducible refine deployStorage_kept ?_
    | with_reducible refine sendFetches_kept ?_ | split | (dsimp only))

theorem deployGiveUp_kept {s0 : State} {id : Nat} {target : Bool} {s : State} (h : Kept s0 s) :
    Kept s0 (deployGiveUp id target s) := by
  unfold deployGiveUp
  repeat' (first
    | with_reducible assumption | with_reducible refine deployEnd_kept ?_
    | with_reducible refine deployStorage_kept ?_ | (fail_if_no_progress with_reducible (refine Kept.put ?_ rfl))
    | split)

theorem runDeploy_kept {s0 : State} {id : Nat} {d : Rec64} {s : State} (h : Kept s0 s) :
    Kept s0 (runDeploy id d s) := by
  unfold runDeploy
  repeat' (first
    | with_reducible assumption | with_reducible refine Kept.snd ?_ (by assumption)
    | with_reducible refine Kept.fst ?_ (by assumption) | with_reducible refine Kept.snd2 ?_ (by assumption)
    | with_reducible refine Kept.snd3 ?_ (by assumption) | with_reducible refine Kept.eqSnd ?_ (by assumption)
    | with_reducible refine Kept.eqFst ?_ (by assumption) | with_reducible refine deployEnd_kept ?_
    | with_reducible refine deployPeer_kept ?_ | with_reducible refine reservePieces_kept ?_
    | (fail_if_no_progress with_reducible (refine Kept.put ?_ rfl)) | split | (dsimp only))

theorem deployBytes_kept {s0 : State} {id off : Nat} {l : List Byte} {s : State} (h : Kept s0 s) :
    Kept s0 (deployBytes id off l s) := by
  unfold deployBytes
  repeat' (first
    | with_reducible assumption | with_reducible refine makeHome_kept ?_ | with_reducible refine wr_kept ?_
    | with_reducible (refine Kept.foldl2 ?_ (fun _ _ _ => ?_)) | split)

theorem takeInGroup_kept {s0 : State} {who : Taker} {g : Nat} {s : State} (h : Kept s0 s) :
    Kept s0 ((takeInGroup who g s).2) := by
  unfold takeInGroup
  repeat' (first
    | with_reducible assumption | with_reducible refine allocBy_kept ?_)

theorem stagePieces_kept {s0 : State} {who : Taker} {gs : List Nat} {n i : Nat} {x4 : List Nat} {x5 : State} (h :
    Kept s0 x5) : Kept s0 ((stagePieces who gs n i x4 x5).2) := by
  fun_induction stagePieces who gs n i x4 x5 <;> (repeat' (first
    | with_reducible assumption | with_reducible refine Kept.snd ?_ (by assumption)
    | with_reducible refine Kept.fst ?_ (by assumption) | with_reducible refine Kept.snd2 ?_ (by assumption)
    | with_reducible refine Kept.snd3 ?_ (by assumption) | with_reducible refine Kept.eqSnd ?_ (by assumption)
    | with_reducible refine Kept.eqFst ?_ (by assumption) | with_reducible refine freeHank_kept ?_
    | with_reducible refine takeInGroup_kept ?_ | with_reducible (refine Kept.foldl ?_ (fun _ _ _ => ?_))
    | with_reducible apply_assumption -exfalso))

theorem modDeployed_kept {s0 : State} {x0 : CatEntry} {f : CatEntry → CatEntry} {s : State} (h : Kept s0 s) :
    Kept s0 (modDeployed x0 f s) := by
  unfold modDeployed
  repeat' (first
    | with_reducible assumption | (fail_if_no_progress with_reducible (refine Kept.put ?_ rfl)))

theorem fillEntry_kept {s0 : State} {x0 : CatEntry} {s : State} (h : Kept s0 s) : Kept s0 ((fillEntry x0 s).2) := by
  unfold fillEntry
  repeat' (first
    | with_reducible assumption | with_reducible refine bufferPages_kept ?_
    | with_reducible (refine Kept.foldl2 ?_ (fun _ _ _ => ?_)) | split)

theorem deployValid_kept {s0 : State} {id : Nat} {x1 : CatEntry} {img : Image} {staged : List Nat} {s : State}
    (h : Kept s0 s) : Kept s0 (deployValid id x1 img staged s) := by
  unfold deployValid
  repeat' (first
    | with_reducible assumption | with_reducible refine catalogueNote_kept ?_
    | with_reducible refine copyRange_kept ?_ | with_reducible refine deployEnd_kept ?_
    | with_reducible (refine Kept.foldl ?_ (fun _ _ _ => ?_))
    | (fail_if_no_progress with_reducible (refine Kept.put ?_ rfl)))

theorem deployStage_kept {s0 : State} {c : AdminCmd} {x1 : CatEntry} {i : Image} {s : State} (h : Kept s0 s) :
    Kept s0 (deployStage c x1 i s) := by
  unfold deployStage
  repeat' (first
    | with_reducible assumption | with_reducible refine Kept.snd ?_ (by assumption)
    | with_reducible refine Kept.fst ?_ (by assumption) | with_reducible refine Kept.snd2 ?_ (by assumption)
    | with_reducible refine Kept.snd3 ?_ (by assumption) | with_reducible refine Kept.eqSnd ?_ (by assumption)
    | with_reducible refine Kept.eqFst ?_ (by assumption) | with_reducible refine deployValid_kept ?_
    | with_reducible refine fillEntry_kept ?_ | with_reducible refine modDeployed_kept ?_
    | with_reducible refine stagePieces_kept ?_ | split | (dsimp only))

theorem execDeployCopyDone_kept {s0 : State} {model wversion : BitVec 32} {img : Option Image} {s : State}
    {out : State} (h : Kept s0 s) (e : execDeployCopyDone model wversion img s = .next out) : Kept s0 out := by
  unfold execDeployCopyDone at e
  injection e with e
  subst e
  repeat' (first
    | with_reducible assumption | with_reducible refine deployEnd_kept ?_
    | with_reducible refine deployStage_kept ?_ | split)

theorem runUndeploy_kept {s0 : State} {id : Nat} {d : Rec64} {s : State} (h : Kept s0 s) :
    Kept s0 (runUndeploy id d s) := by
  unfold runUndeploy
  repeat' (first
    | with_reducible assumption | with_reducible refine adminDone_kept ?_
    | with_reducible refine catalogueNote_kept ?_ | with_reducible refine dropCat_kept ?_
    | with_reducible refine freeAt_kept ?_ | with_reducible refine freePieces_kept ?_
    | with_reducible (refine Kept.foldl ?_ (fun _ _ _ => ?_)) | split | (dsimp only))

theorem clearSites_kept {s0 : State} {p : Nat} {s : State} (h : Kept s0 s) : Kept s0 (clearSites p s) := by
  unfold clearSites
  repeat' (first
    | with_reducible assumption | with_reducible refine modUnit_kept ?_
    | with_reducible (refine Kept.foldl ?_ (fun _ _ _ => ?_)) | split)

theorem takeSlice_kept {s0 : State} {p r : Nat} {pin : Bool} {s : State} (h : Kept s0 s) :
    Kept s0 ((takeSlice p r pin s).2) := by
  unfold takeSlice
  repeat' (first
    | with_reducible assumption | with_reducible refine allocBy_kept ?_ | with_reducible refine allocTry_kept ?_
    | split | (dsimp only))

theorem takeMany_kept {s0 : State} {f : State → AllocRes × State} {n : Nat} {x2 : List Nat} {x3 : State} (h :
    Kept s0 x3) (hf : ∀ t, Kept s0 t → Kept s0 ((f  t).2)) : Kept s0 ((takeMany f n x2 x3).2.2) := by
  fun_induction takeMany f n x2 x3 <;> (repeat' (first
    | with_reducible assumption | with_reducible refine hf _ ?_
    | with_reducible refine Kept.snd ?_ (by assumption) | with_reducible refine Kept.fst ?_ (by assumption)
    | with_reducible refine Kept.snd2 ?_ (by assumption) | with_reducible refine Kept.snd3 ?_ (by assumption)
    | with_reducible refine Kept.eqSnd ?_ (by assumption) | with_reducible refine Kept.eqFst ?_ (by assumption)
    | with_reducible apply_assumption -exfalso))

theorem takeAreaHank_kept {s0 : State} {p : Nat} {a : AreaNeed} {s : State} (h : Kept s0 s) :
    Kept s0 ((takeAreaHank p a s).2) := by
  unfold takeAreaHank
  repeat' (first
    | with_reducible assumption | with_reducible refine allocTry_kept ?_ | with_reducible refine takeSlice_kept ?_
    | split)

theorem takeAreas_kept {s0 : State} {p : Nat} {x1 : List AreaNeed} {x2 : Tbl AreaInst} {x3 : State} (h :
    Kept s0 x3) : Kept s0 ((takeAreas p x1 x2 x3).2.2.2) := by
  fun_induction takeAreas p x1 x2 x3 <;> (repeat' (first
    | with_reducible assumption | with_reducible refine Kept.snd ?_ (by assumption)
    | with_reducible refine Kept.fst ?_ (by assumption) | with_reducible refine Kept.snd2 ?_ (by assumption)
    | with_reducible refine Kept.snd3 ?_ (by assumption) | with_reducible refine Kept.eqSnd ?_ (by assumption)
    | with_reducible refine Kept.eqFst ?_ (by assumption) | with_reducible refine freeHank_kept ?_
    | with_reducible refine takeAreaHank_kept ?_ | with_reducible refine takeMany_kept ?_ (fun _ _ => ?_)
    | with_reducible (refine Kept.foldl ?_ (fun _ _ _ => ?_)) | with_reducible apply_assumption -exfalso))

theorem freeArea_kept {s0 : State} {a : AreaInst} {s : State} (h : Kept s0 s) : Kept s0 (freeArea a s) := by
  unfold freeArea
  repeat' (first
    | with_reducible assumption | with_reducible refine freeHank_kept ?_
    | with_reducible refine makeHomeless_kept ?_ | with_reducible refine releaseT3_kept ?_
    | with_reducible (refine Kept.foldl ?_ (fun _ _ _ => ?_)) | split)

theorem freeCast_kept {s0 : State} {c : Cast} {s : State} (h : Kept s0 s) : Kept s0 (freeCast c s) := by
  unfold freeCast
  repeat' (first
    | with_reducible assumption | with_reducible refine freeArea_kept ?_ | with_reducible refine freeAt_kept ?_
    | with_reducible refine freeHank_kept ?_ | with_reducible (refine Kept.foldl ?_ (fun _ _ _ => ?_)) | split)

theorem takeDirectory_kept {s0 : State} {p : Nat} {i : Image} {s : State} (h : Kept s0 s) :
    Kept s0 ((takeDirectory p i s).2) := by
  unfold takeDirectory
  repeat' (first
    | with_reducible assumption | with_reducible refine Kept.snd ?_ (by assumption)
    | with_reducible refine Kept.fst ?_ (by assumption) | with_reducible refine Kept.snd2 ?_ (by assumption)
    | with_reducible refine Kept.snd3 ?_ (by assumption) | with_reducible refine Kept.eqSnd ?_ (by assumption)
    | with_reducible refine Kept.eqFst ?_ (by assumption) | with_reducible refine allocRange_kept ?_
    | with_reducible refine clearRange_kept ?_ | with_reducible refine devPin_kept ?_
    | with_reducible (refine Kept.foldl ?_ (fun _ _ _ => ?_)) | split)

theorem spillOn_kept {s0 : State} {u i : Nat} {s : State} (h : Kept s0 s) : Kept s0 (spillOn u i s) := by
  unfold spillOn
  repeat' (first
    | with_reducible assumption | with_reducible refine modUnit_kept ?_)

theorem writeRoute_kept {s0 : State} {c : Cast} {r : RouteDecl} {s : State} (h : Kept s0 s) :
    Kept s0 (writeRoute c r s) := by
  unfold writeRoute
  repeat' (first
    | with_reducible assumption | with_reducible refine modUnit_kept ?_ | with_reducible refine spillOn_kept ?_
    | with_reducible (refine Kept.foldl ?_ (fun _ _ _ => ?_)) | split)

theorem writeList_kept {s0 : State} {p : Nat} {c : Cast} {l : ListDecl} {s : State} (h : Kept s0 s) :
    Kept s0 (writeList p c l s) := by
  unfold writeList
  repeat' (first
    | with_reducible assumption | with_reducible refine wr_kept ?_
    | (fail_if_no_progress with_reducible (refine Kept.put ?_ rfl)))

theorem writeReducer_kept {s0 : State} {p : Nat} {c : Cast} {d : ReducerDecl} {s : State} (h : Kept s0 s) :
    Kept s0 (writeReducer p c d s) := by
  unfold writeReducer
  repeat' (first
    | with_reducible assumption | (fail_if_no_progress with_reducible (refine Kept.put ?_ rfl)) | split)

theorem dropPanelWork_kept {s0 : State} {p : Nat} {s : State} (h : Kept s0 s) : Kept s0 (dropPanelWork p s) := by
  unfold dropPanelWork
  repeat' (first
    | with_reducible assumption | (fail_if_no_progress with_reducible (refine Kept.put ?_ rfl)))

theorem castWrite_kept {s0 : State} {p : Nat} {c : Cast} {s : State} (h : Kept s0 s) : Kept s0 (castWrite p c s) := by
  unfold castWrite
  repeat' (first
    | with_reducible assumption | with_reducible refine areaWrite_kept ?_
    | with_reducible refine clearCtrs_kept ?_ | with_reducible refine dropPanelWork_kept ?_
    | with_reducible refine modUnit_kept ?_ | with_reducible refine writeList_kept ?_
    | with_reducible refine writeReducer_kept ?_ | with_reducible refine writeRoute_kept ?_
    | with_reducible (refine Kept.foldl ?_ (fun _ _ _ => ?_)))

theorem castChannels_kept {s0 : State} {p : Nat} {c : Cast} {s : State} (h : Kept s0 s) :
    Kept s0 (castChannels p c s) := by
  unfold castChannels
  repeat' (first
    | with_reducible assumption | with_reducible refine modPort_kept ?_ | with_reducible refine modUnit_kept ?_
    | with_reducible (refine Kept.foldl ?_ (fun _ _ _ => ?_)) | split)

theorem feedChannels_kept {s0 : State} {c : Cast} {s : State} (h : Kept s0 s) : Kept s0 (feedChannels c s) := by
  unfold feedChannels
  repeat' (first
    | with_reducible assumption | with_reducible refine modUnit_kept ?_
    | with_reducible (refine Kept.foldl ?_ (fun _ _ _ => ?_)) | split)

theorem castEnd_kept {s0 : State} {p id status : Nat} {s : State} (h : Kept s0 s) :
    Kept s0 (castEnd p id status s) := by
  unfold castEnd
  repeat' (first
    | with_reducible assumption | with_reducible refine adminDone_kept ?_ | with_reducible refine bump_kept ?_
    | with_reducible refine modPanel_kept ?_)

theorem dropAllocs_kept {s0 : State} {p : Nat} {s : State} (h : Kept s0 s) : Kept s0 (dropAllocs p s) := by
  unfold dropAllocs
  repeat' (first
    | with_reducible assumption | (fail_if_no_progress with_reducible (refine Kept.put ?_ rfl)))

theorem castFail_kept {s0 : State} {p id status : Nat} {s : State} (h : Kept s0 s) :
    Kept s0 (castFail p id status s) := by
  unfold castFail
  repeat' (first
    | with_reducible assumption | with_reducible refine castEnd_kept ?_ | with_reducible refine dropAllocs_kept ?_
    | with_reducible refine dropPanelWork_kept ?_ | with_reducible refine endPanel_kept ?_
    | with_reducible refine freeCast_kept ?_ | with_reducible refine modPanel_kept ?_
    | with_reducible refine modUnit_kept ?_ | with_reducible (refine Kept.foldl ?_ (fun _ _ _ => ?_))
    | (fail_if_no_progress with_reducible (refine Kept.put ?_ rfl)) | split)

theorem castFault_kept {s0 : State} {p u res : Nat} {value limit : Option Nat} {s : State} (h : Kept s0 s) :
    Kept s0 (castFault p u res value limit s) := by
  unfold castFault
  repeat' (first
    | with_reducible assumption | with_reducible refine freeNat_kept ?_
    | with_reducible refine recordFault_kept ?_ | split)

theorem castSteps_kept {s0 : State} {p id : Nat} {x : Panel} {x3 : CatEntry} {s : State} (h : Kept s0 s) :
    Kept s0 (castSteps p id x x3 s) := by
  unfold castSteps
  repeat' (first
    | with_reducible assumption | with_reducible refine Kept.snd ?_ (by assumption)
    | with_reducible refine Kept.fst ?_ (by assumption) | with_reducible refine Kept.snd2 ?_ (by assumption)
    | with_reducible refine Kept.snd3 ?_ (by assumption) | with_reducible refine Kept.eqSnd ?_ (by assumption)
    | with_reducible refine Kept.eqFst ?_ (by assumption) | with_reducible refine bump_kept ?_
    | with_reducible refine castChannels_kept ?_ | with_reducible refine castFail_kept ?_
    | with_reducible refine castFault_kept ?_ | with_reducible refine castWrite_kept ?_
    | with_reducible refine clearSites_kept ?_ | with_reducible refine freeCast_kept ?_
    | with_reducible refine modPanel_kept ?_ | with_reducible refine takeAreas_kept ?_
    | with_reducible refine takeDirectory_kept ?_ | split | (dsimp only))

theorem castTry_kept {s0 : State} {p id : Nat} {x : Panel} {x3 : CatEntry} {s : State} (h : Kept s0 s) :
    Kept s0 (castTry p id x x3 s) := by
  unfold castTry
  repeat' (first
    | with_reducible assumption | with_reducible refine Kept.snd ?_ (by assumption)
    | with_reducible refine Kept.fst ?_ (by assumption) | with_reducible refine Kept.snd2 ?_ (by assumption)
    | with_reducible refine Kept.snd3 ?_ (by assumption) | with_reducible refine Kept.eqSnd ?_ (by assumption)
    | with_reducible refine Kept.eqFst ?_ (by assumption) | with_reducible refine castFail_kept ?_
    | with_reducible refine castSteps_kept ?_ | with_reducible refine catCount_kept ?_
    | with_reducible refine returnStaged_kept ?_ (by assumption)
    | with_reducible refine Kept.getD ?_ (fun _ _ => ?_)
    | with_reducible refine Kept.ofFind (fun _ _ _ => ?_) (by assumption)
    | with_reducible (refine Kept.foldl ?_ (fun _ _ _ => ?_))
    | with_reducible (refine Kept.foldl2 ?_ (fun _ _ _ => ?_))
    | (fail_if_no_progress with_reducible (refine Kept.put ?_ rfl)) | split | (dsimp only))

theorem runCastOn_kept {s0 : State} {id : Nat} {d : Rec64} {s : State} (h : Kept s0 s) :
    Kept s0 (runCastOn id d s) := by
  unfold runCastOn
  repeat' (first
    | with_reducible assumption | with_reducible refine adminDone_kept ?_ | with_reducible refine bump_kept ?_
    | with_reducible refine castFail_kept ?_ | with_reducible refine castTry_kept ?_
    | with_reducible refine modPanel_kept ?_ | split | (dsimp only))

theorem castRetry_kept {s0 : State} {p : Nat} {s : State} (h : Kept s0 s) : Kept s0 (castRetry p s) := by
  unfold castRetry
  repeat' (first
    | with_reducible assumption | with_reducible refine castFail_kept ?_ | with_reducible refine castSteps_kept ?_
    | with_reducible refine castTry_kept ?_ | split)

theorem execAllocWake_kept {s0 : State} {tier2 : Bool} {s : State} {out : State} (h : Kept s0 s)
    (e : execAllocWake tier2 s = .next out) : Kept s0 out := by
  unfold execAllocWake at e
  injection e with e
  subst e
  repeat' (first
    | with_reducible assumption | with_reducible refine castRetry_kept ?_
    | with_reducible refine startMove_kept ?_ | split)

theorem openChannels_kept {s0 : State} {p : Nat} {s : State} (h : Kept s0 s) : Kept s0 (openChannels p s) := by
  unfold openChannels
  repeat' (first
    | with_reducible assumption | with_reducible refine modPort_kept ?_
    | with_reducible refine sendService_kept ?_ | with_reducible (refine Kept.foldl ?_ (fun _ _ _ => ?_)) | split)

theorem startUnits_kept {s0 : State} {p : Nat} {s : State} (h : Kept s0 s) : Kept s0 (startUnits p s) := by
  unfold startUnits
  repeat' (first
    | with_reducible assumption | with_reducible refine goTo_kept ?_ | with_reducible refine modUnit_kept ?_
    | with_reducible (refine Kept.foldl ?_ (fun _ _ _ => ?_)) | split)

theorem linkPrologue_kept {s0 : State} {p : Nat} {s : State} (h : Kept s0 s) : Kept s0 (linkPrologue p s) := by
  unfold linkPrologue
  repeat' (first
    | with_reducible assumption | with_reducible refine sendSignals_kept ?_ | split)

theorem castReady_kept {s0 : State} {p : Nat} {s : State} (h : Kept s0 s) : Kept s0 (castReady p s) := by
  unfold castReady
  repeat' (first
    | with_reducible assumption | with_reducible refine linkPrologue_kept ?_
    | with_reducible refine modPanel_kept ?_ | with_reducible refine startUnits_kept ?_)

theorem extentReady_kept {s0 : State} {p : Nat} {c : Cast} {id : Nat} {s : State} {out : State} (h : Kept s0 s)
    (e : extentReady p c id s = some out) : Kept s0 out := by
  unfold extentReady at e
  repeat' (first | (cases e; done) | (split at e) | (dsimp only at e))
  all_goals first
    | (injection e with e; subst e)
    | obtain ⟨_, _, rfl⟩ := Option.map_eq_some_iff.mp e
    | skip
  all_goals repeat' (first
    | with_reducible assumption | with_reducible refine submitReturn_kept ?_
    | with_reducible (refine Kept.foldl ?_ (fun _ _ _ => ?_)))

theorem copyWaits_kept {s0 : State} {p : Nat} {c : Cast} {x2 : CatEntry} {x : Ext} {s : State} {out : State} (h :
    Kept s0 s) (e : copyWaits p c x2 x s = some out) : Kept s0 out := by
  unfold copyWaits at e
  repeat' (first | (cases e; done) | (split at e) | (dsimp only at e))
  all_goals first
    | (injection e with e; subst e)
    | obtain ⟨_, _, rfl⟩ := Option.map_eq_some_iff.mp e
    | skip
  all_goals repeat' (first
    | with_reducible assumption | with_reducible refine Kept.snd ?_ (by assumption)
    | with_reducible refine Kept.fst ?_ (by assumption) | with_reducible refine Kept.snd2 ?_ (by assumption)
    | with_reducible refine Kept.snd3 ?_ (by assumption) | with_reducible refine Kept.eqSnd ?_ (by assumption)
    | with_reducible refine Kept.eqFst ?_ (by assumption)
    | with_reducible refine extentReady_kept ?_ (by assumption)
    | with_reducible refine Kept.getD ?_ (fun _ _ => ?_)
    | with_reducible refine Kept.ofFind (fun _ _ _ => ?_) (by assumption)
    | with_reducible refine returnStaged_kept ?_ (by assumption)
    | with_reducible refine Kept.getD ?_ (fun _ _ => ?_)
    | with_reducible refine Kept.ofFind (fun _ _ _ => ?_) (by assumption)
    | with_reducible (refine Kept.foldl ?_ (fun _ _ _ => ?_))
    | with_reducible (refine Kept.foldl2 ?_ (fun _ _ _ => ?_))
    | (fail_if_no_progress with_reducible (refine Kept.put ?_ rfl)) | split | (dsimp only))

theorem execCastOnCopyDone_kept {s0 : State} {panel : BitVec 4} {ok : Bool} {s : State} {out : State} (h :
    Kept s0 s) (e : execCastOnCopyDone panel ok s = .next out) : Kept s0 out := by
  unfold execCastOnCopyDone at e
  injection e with e
  subst e
  repeat' (first
    | with_reducible assumption | with_reducible refine Kept.snd ?_ (by assumption)
    | with_reducible refine Kept.fst ?_ (by assumption) | with_reducible refine Kept.snd2 ?_ (by assumption)
    | with_reducible refine Kept.snd3 ?_ (by assumption) | with_reducible refine Kept.eqSnd ?_ (by assumption)
    | with_reducible refine Kept.eqFst ?_ (by assumption) | with_reducible refine areaWrite_kept ?_
    | with_reducible refine castEnd_kept ?_ | with_reducible refine castFail_kept ?_
    | with_reducible refine castReady_kept ?_ | with_reducible refine catCount_kept ?_
    | with_reducible refine catFailed_kept ?_ | with_reducible refine copyWaits_kept ?_ (by assumption)
    | with_reducible refine Kept.getD ?_ (fun _ _ => ?_)
    | with_reducible refine Kept.ofFind (fun _ _ _ => ?_) (by assumption)
    | with_reducible refine openChannels_kept ?_ | with_reducible (refine Kept.foldl ?_ (fun _ _ _ => ?_))
    | with_reducible (refine Kept.foldl2 ?_ (fun _ _ _ => ?_))
    | (fail_if_no_progress with_reducible (refine Kept.put ?_ rfl)) | split | (dsimp only))

theorem placeEntry_kept {s0 : State} {p m : Nat} {s : State} {out : State} (h : Kept s0 s)
    (e : placeEntry p m s = some out) : Kept s0 out := by
  unfold placeEntry at e
  repeat' (first | (cases e; done) | (split at e) | (dsimp only at e))
  all_goals first
    | (injection e with e; subst e)
    | obtain ⟨_, _, rfl⟩ := Option.map_eq_some_iff.mp e
    | skip
  all_goals repeat' (first
    | with_reducible assumption | with_reducible refine deviceMarker_kept ?_)

theorem placeStop_kept {s0 : State} {p : Nat} {s : State} (h : Kept s0 s) : Kept s0 (placeStop p s) := by
  unfold placeStop
  repeat' (first
    | with_reducible assumption | with_reducible refine modCast_kept ?_
    | with_reducible refine placeEntry_kept ?_ (by assumption)
    | with_reducible refine Kept.getD ?_ (fun _ _ => ?_)
    | with_reducible refine Kept.ofFind (fun _ _ _ => ?_) (by assumption) | split)

theorem runBindOff_kept {s0 : State} {id : Nat} {d : Rec64} {s : State} (h : Kept s0 s) :
    Kept s0 (runBindOff id d s) := by
  unfold runBindOff
  repeat' (first
    | with_reducible assumption | with_reducible refine adminDone_kept ?_
    | with_reducible refine faultPanel_kept ?_ | with_reducible refine modCast_kept ?_
    | with_reducible refine modPanel_kept ?_ | with_reducible refine placeStop_kept ?_ | split | (dsimp only))

theorem execBindOffDrainLimit_kept {s0 : State} {panel : BitVec 4} {s : State} {out : State} (h : Kept s0 s)
    (e : execBindOffDrainLimit panel s = .next out) : Kept s0 out := by
  unfold execBindOffDrainLimit at e
  injection e with e
  subst e
  repeat' (first
    | with_reducible assumption | with_reducible refine endSlot_kept ?_ | with_reducible refine modPanel_kept ?_
    | with_reducible refine placeStop_kept ?_ | with_reducible (refine Kept.foldl ?_ (fun _ _ _ => ?_)) | split)

theorem dropGoneMoves_kept {s0 : State} {p : Nat} {us : List Nat} {s : State} (h : Kept s0 s) :
    Kept s0 (dropGoneMoves p us s) := by
  unfold dropGoneMoves
  repeat' (first
    | with_reducible assumption | with_reducible refine dropAlloc_kept ?_ | with_reducible refine dropMove_kept ?_
    | with_reducible refine freeDest_kept ?_ | with_reducible refine markTransit_kept ?_
    | with_reducible refine releaseT3_kept ?_ | with_reducible (refine Kept.foldl ?_ (fun _ _ _ => ?_)) | split)

theorem bindTeardown_kept {s0 : State} {p : Nat} {s : State} (h : Kept s0 s) : Kept s0 (bindTeardown p s) := by
  unfold bindTeardown
  repeat' (first
    | with_reducible assumption | with_reducible refine clearFallbacks_kept ?_
    | with_reducible refine closeChannels_kept ?_ | with_reducible refine dropAllocs_kept ?_
    | with_reducible refine dropGoneMoves_kept ?_ | with_reducible refine dropPanelWork_kept ?_
    | with_reducible refine endPanel_kept ?_ | with_reducible refine freeCast_kept ?_
    | with_reducible refine modPanel_kept ?_ | with_reducible refine modUnit_kept ?_
    | with_reducible refine releaseNow_kept ?_ | with_reducible refine releasePages_kept ?_
    | with_reducible refine stopPanelUnits_kept ?_ | with_reducible (refine Kept.foldl ?_ (fun _ _ _ => ?_))
    | split)

theorem execBindOffTeardown_kept {s0 : State} {panel : BitVec 4} {s : State} {out : State} (h : Kept s0 s)
    (e : execBindOffTeardown panel s = .next out) : Kept s0 out := by
  unfold execBindOffTeardown at e
  injection e with e
  subst e
  repeat' (first
    | with_reducible assumption | with_reducible refine adminDone_kept ?_
    | with_reducible refine bindTeardown_kept ?_ | split)

theorem runSwapWeights_kept {s0 : State} {id : Nat} {d : Rec64} {s : State} (h : Kept s0 s) :
    Kept s0 (runSwapWeights id d s) := by
  unfold runSwapWeights
  repeat' (first
    | with_reducible assumption | with_reducible refine adminDone_kept ?_ | with_reducible refine modCast_kept ?_
    | with_reducible refine modPanel_kept ?_ | split | (dsimp only))

theorem swapFinish_kept {s0 : State} {p : Nat} {s : State} (h : Kept s0 s) : Kept s0 (swapFinish p s) := by
  unfold swapFinish
  repeat' (first
    | with_reducible assumption | with_reducible refine adminDone_kept ?_ | with_reducible refine bump_kept ?_
    | with_reducible refine modCast_kept ?_ | with_reducible refine modPanel_kept ?_ | split)

theorem execVersionMarkerPlace_kept {s0 : State} {panel : BitVec 4} {s : State} {out : State} (h : Kept s0 s)
    (e : execVersionMarkerPlace panel s = .next out) : Kept s0 out := by
  unfold execVersionMarkerPlace at e
  injection e with e
  subst e
  repeat' (first
    | with_reducible assumption | with_reducible refine modCast_kept ?_
    | with_reducible refine placeEntry_kept ?_ (by assumption)
    | with_reducible refine Kept.getD ?_ (fun _ _ => ?_)
    | with_reducible refine Kept.ofFind (fun _ _ _ => ?_) (by assumption)
    | with_reducible refine swapFinish_kept ?_ | split)

theorem overwriteArea_kept {s0 : State} {a : AreaInst} {l : List Byte} {s : State} (h : Kept s0 s) :
    Kept s0 (overwriteArea a l s) := by
  unfold overwriteArea
  repeat' (first
    | with_reducible assumption | with_reducible refine putBytes_kept ?_
    | with_reducible (refine Kept.foldl ?_ (fun _ _ _ => ?_)) | split)

theorem copyLayer_kept {s0 : State} {p : Nat} {c : Cast} {x2 : CatEntry} {exts : List Ext} {s : State} (h :
    Kept s0 s) : Kept s0 (copyLayer p c x2 exts s) := by
  unfold copyLayer
  repeat' (first
    | with_reducible assumption | with_reducible refine catCount_kept ?_ | with_reducible refine modCast_kept ?_
    | with_reducible refine overwriteArea_kept ?_ | with_reducible (refine Kept.foldl ?_ (fun _ _ _ => ?_))
    | split)

theorem execSwapLayerCopyDone_kept {s0 : State} {panel : BitVec 4} {layer : BitVec 10} {s : State} {out : State}
    (h : Kept s0 s) (e : execSwapLayerCopyDone panel layer s = .next out) : Kept s0 out := by
  unfold execSwapLayerCopyDone at e
  injection e with e
  subst e
  repeat' (first
    | with_reducible assumption | with_reducible refine copyLayer_kept ?_
    | with_reducible refine copyWaits_kept ?_ (by assumption) | with_reducible refine Kept.getD ?_ (fun _ _ => ?_)
    | with_reducible refine Kept.ofFind (fun _ _ _ => ?_) (by assumption) | with_reducible refine modCast_kept ?_
    | with_reducible refine swapFinish_kept ?_ | split | (dsimp only))

theorem execSwapTimeout_kept {s0 : State} {panel : BitVec 4} {s : State} {out : State} (h : Kept s0 s)
    (e : execSwapTimeout panel s = .next out) : Kept s0 out := by
  unfold execSwapTimeout at e
  injection e with e
  subst e
  repeat' (first
    | with_reducible assumption | with_reducible refine faultPanel_kept ?_
    | with_reducible refine modPanel_kept ?_ | split)

theorem runSwatch_kept {s0 : State} {id : Nat} {d : Rec64} {s : State} (h : Kept s0 s) :
    Kept s0 (runSwatch id d s) := by
  unfold runSwatch
  repeat' (first
    | with_reducible assumption | with_reducible refine adminDone_kept ?_ | with_reducible refine modPanel_kept ?_
    | split | (dsimp only))

theorem execSwatchTestsDone_kept {s0 : State} {panel : BitVec 4} {fails : List SwatchResult} {s : State}
    {out : State} (h : Kept s0 s) (e : execSwatchTestsDone panel fails s = .next out) : Kept s0 out := by
  unfold execSwatchTestsDone at e
  injection e with e
  subst e
  repeat' (first
    | with_reducible assumption | with_reducible refine adminDone_kept ?_ | with_reducible refine adminOut_kept ?_
    | with_reducible refine bindTeardown_kept ?_ | with_reducible refine bump_kept ?_
    | with_reducible refine castReady_kept ?_ | with_reducible refine castWrite_kept ?_
    | with_reducible refine clearSites_kept ?_ | with_reducible refine feedChannels_kept ?_
    | with_reducible refine modPanel_kept ?_ | with_reducible refine modUnit_kept ?_
    | with_reducible (refine Kept.foldl ?_ (fun _ _ _ => ?_)) | split | (dsimp only))

end Sys2Proof.Laws
end

