-- ==== Sys2Proof/Laws/KeptServing.lean ====
section
/-! SUPPORT. What the operations and meanings of serving, rings and mailboxes keep (Kept). -/
namespace Sys2Proof.Laws
open Sys2Proof Machine Safety

/-! ## Serving -/

theorem ageSlot_kept {s0 : State} {i : Nat} {s : State} (h : Kept s0 s) : Kept s0 (ageSlot i s) := by
  unfold ageSlot
  repeat' (first
    | with_reducible assumption | with_reducible refine bump_kept ?_ | with_reducible refine setSlot_kept ?_
    | with_reducible refine slotChanged_kept ?_ | split | (dsimp only))

theorem ageAll_kept {s0 s : State} (h : Kept s0 s) : Kept s0 (ageAll s) := by
  unfold ageAll
  repeat' (first
    | with_reducible assumption | with_reducible refine ageSlot_kept ?_
    | with_reducible (refine Kept.foldl ?_ (fun _ _ _ => ?_)))

theorem monitorSlot_kept {s0 : State} {i : Nat} {s : State} (h : Kept s0 s) : Kept s0 (monitorSlot i s) := by
  unfold monitorSlot
  repeat' (first
    | with_reducible assumption | with_reducible refine bump_kept ?_ | with_reducible refine setSlot_kept ?_
    | split | (dsimp only))

theorem leavePanel_kept {s0 : State} {byStep : Bool} {i : Nat} {s : State} (h : Kept s0 s) :
    Kept s0 (leavePanel byStep i s) := by
  unfold leavePanel
  repeat' (first
    | with_reducible assumption | with_reducible refine leaveWork_kept ?_ | with_reducible refine modCast_kept ?_
    | with_reducible refine releasePages_kept ?_ | split)

theorem execFallback_kept {s0 : State} {slot : BitVec 14} {s : State} {out : State} (h : Kept s0 s)
    (e : execFallback slot s = .next out) : Kept s0 out := by
  unfold execFallback at e
  injection e with e
  subst e
  repeat' (first
    | with_reducible assumption | with_reducible refine bump_kept ?_ | with_reducible refine leavePanel_kept ?_
    | with_reducible refine modSlot_kept ?_ | with_reducible refine setSlot_kept ?_
    | with_reducible refine slotChanged_kept ?_ | split)

theorem retarget_kept {s0 : State} {byStep : Bool} {i : Nat} {s : State} (h : Kept s0 s) :
    Kept s0 (retarget byStep i s) := by
  unfold retarget
  repeat' (first
    | with_reducible assumption | with_reducible refine leavePanel_kept ?_ | with_reducible refine modSlot_kept ?_
    | with_reducible refine pushWaiters_kept ?_ | with_reducible refine slotChanged_kept ?_ | split)

theorem kvRebuild_kept {s0 : State} {i : Nat} {s : State} (h : Kept s0 s) : Kept s0 (kvRebuild i s) := by
  unfold kvRebuild
  repeat' (first
    | with_reducible assumption | with_reducible refine bump_kept ?_ | with_reducible refine leavePanel_kept ?_
    | with_reducible refine modSlot_kept ?_ | with_reducible refine slotChanged_kept ?_ | split)

theorem readySummary_kept {s0 : State} {i : Nat} {s : State} (h : Kept s0 s) : Kept s0 (readySummary i s) := by
  unfold readySummary
  repeat' (first
    | with_reducible assumption | with_reducible refine Kept.snd ?_ (by assumption)
    | with_reducible refine Kept.fst ?_ (by assumption) | with_reducible refine Kept.snd2 ?_ (by assumption)
    | with_reducible refine Kept.snd3 ?_ (by assumption) | with_reducible refine Kept.eqSnd ?_ (by assumption)
    | with_reducible refine Kept.eqFst ?_ (by assumption) | with_reducible refine allocSpill_kept ?_
    | with_reducible refine modSlot_kept ?_ | with_reducible refine returnSummary_kept ?_ | split)

theorem turnSlot_kept {s0 : State} {i : Nat} {admission : BitVec 32} {s : State} (h : Kept s0 s) :
    Kept s0 (turnSlot i admission s) := by
  unfold turnSlot
  repeat' (first
    | with_reducible assumption | with_reducible refine dropSummary_kept ?_
    | with_reducible refine endSlot_kept ?_ | with_reducible refine frog_kept ?_
    | with_reducible refine modSlot_kept ?_ | with_reducible refine readySummary_kept ?_
    | with_reducible refine retarget_kept ?_ | with_reducible refine slotChanged_kept ?_ | split | (dsimp only))

theorem settleSlot_kept {s0 : State} {p i : Nat} {drained : Bool} {admission : BitVec 32} {s : State} (h :
    Kept s0 s) : Kept s0 (settleSlot p i drained admission s) := by
  unfold settleSlot
  repeat' (first
    | with_reducible assumption | with_reducible refine endSlot_kept ?_ | with_reducible refine kvRebuild_kept ?_
    | with_reducible refine turnSlot_kept ?_ | split)

theorem step5_kept {s0 : State} {p : Nat} {s : State} (h : Kept s0 s) : Kept s0 (step5 p s) := by
  unfold step5
  repeat' (first
    | with_reducible assumption | with_reducible refine ageAll_kept ?_ | with_reducible refine monitorSlot_kept ?_
    | with_reducible refine settleSlot_kept ?_ | with_reducible (refine Kept.foldl ?_ (fun _ _ _ => ?_)) | split)

theorem placeFlush_kept {s0 : State} {p : Nat} {s : State} {out : State} (h : Kept s0 s)
    (e : placeFlush p s = some out) : Kept s0 out := by
  unfold placeFlush at e
  repeat' (first | (cases e; done) | (split at e) | (dsimp only at e))
  all_goals first
    | (injection e with e; subst e)
    | obtain ⟨_, _, rfl⟩ := Option.map_eq_some_iff.mp e
    | skip
  all_goals repeat' (first
    | with_reducible assumption | with_reducible refine modCast_kept ?_
    | with_reducible refine placeEntry_kept ?_ (by assumption))

theorem chosen_kept {s0 : State} {i kind : Nat} {s : State} (h : Kept s0 s) : Kept s0 (chosen i kind s) := by
  unfold chosen
  repeat' (first
    | with_reducible assumption | with_reducible refine modSlot_kept ?_ | with_reducible refine setSlot_kept ?_
    | with_reducible refine slotChanged_kept ?_ | split | (dsimp only))

theorem linkAccess_kept {s0 : State} {p : Nat} {reads writes : List (Nat × Nat × Nat)} {go gone : State → State}
    {s : State} (h : Kept s0 s) (hgo : ∀ t, Kept s0 t → Kept s0 ((go  t)))
    (hgone : ∀ t, Kept s0 t → Kept s0 ((gone  t))) : Kept s0 (linkAccess p reads writes go gone s) := by
  unfold linkAccess
  repeat' (first
    | with_reducible assumption | with_reducible refine hgone _ ?_ | with_reducible refine hgo _ ?_
    | with_reducible refine areasAccess_kept ?_ | with_reducible refine Kept.go ?_ (by assumption)
    | with_reducible refine Kept.wait ?_ (by assumption) | with_reducible refine Kept.lost ?_ (by assumption)
    | with_reducible refine Kept.fault ?_ (by assumption) | with_reducible refine Kept.eqAcc ?_ (by assumption)
    | with_reducible refine Kept.sndGo ?_ (by assumption) | with_reducible refine Kept.sndAcc ?_ (by assumption)
    | (dsimp only [accSt_go, accSt_wait, accSt_lost, accSt_fault]) | split)

theorem beginStep_kept {s0 : State} {p : Nat} {c : Cast} {lk : LinkDecl} {cands sums : List (Nat × Slot)}
    {held : Nat} {s : State} (h : Kept s0 s) : Kept s0 (beginStep p c lk cands sums held s) := by
  unfold beginStep
  repeat' (first
    | with_reducible assumption | with_reducible refine Kept.snd ?_ (by assumption)
    | with_reducible refine Kept.fst ?_ (by assumption) | with_reducible refine Kept.snd2 ?_ (by assumption)
    | with_reducible refine Kept.snd3 ?_ (by assumption) | with_reducible refine Kept.eqSnd ?_ (by assumption)
    | with_reducible refine Kept.eqFst ?_ (by assumption) | with_reducible refine areaWrite_kept ?_
    | with_reducible refine bump_kept ?_ | with_reducible refine chosen_kept ?_
    | with_reducible refine modCast_kept ?_ | with_reducible refine sendSignals_kept ?_
    | with_reducible refine touch_kept ?_ | with_reducible (refine Kept.foldl ?_ (fun _ _ _ => ?_))
    | with_reducible (refine Kept.foldl2 ?_ (fun _ _ _ => ?_))
    | (fail_if_no_progress with_reducible (refine Kept.put ?_ rfl)) | split | (dsimp only))

theorem writeStep_kept {s0 : State} {p : Nat} {s : State} (h : Kept s0 s) : Kept s0 (writeStep p s) := by
  unfold writeStep
  repeat' (first
    | with_reducible assumption | with_reducible refine beginStep_kept ?_
    | with_reducible refine linkAccess_kept ?_ (fun _ _ => ?_) (fun _ _ => ?_)
    | with_reducible refine placeFlush_kept ?_ (by assumption)
    | with_reducible refine Kept.getD ?_ (fun _ _ => ?_)
    | with_reducible refine Kept.ofFind (fun _ _ _ => ?_) (by assumption) | (dsimp only [id])
    | (dsimp only [accSt_go, accSt_wait, accSt_lost, accSt_fault]) | split)

theorem execStepBufferWrite_kept {s0 : State} {panel : BitVec 4} {s : State} {out : State} (h : Kept s0 s)
    (e : execStepBufferWrite panel s = .next out) : Kept s0 out := by
  unfold execStepBufferWrite at e
  injection e with e
  subst e
  repeat' (first
    | with_reducible assumption | with_reducible refine step5_kept ?_ | with_reducible refine writeStep_kept ?_
    | split)

theorem sampleToken_kept {s0 : State} {i pos tok lp : Nat} {s : State} (h : Kept s0 s) :
    Kept s0 (sampleToken i pos tok lp s) := by
  unfold sampleToken
  repeat' (first
    | with_reducible assumption | with_reducible refine setSlot_kept ?_ | with_reducible refine slotRecs_kept ?_
    | with_reducible refine touch_kept ?_ | with_reducible refine wr_kept ?_ | split)

theorem stopToken_kept {s0 : State} {i tok : Nat} {s : State} (h : Kept s0 s) : Kept s0 (stopToken i tok s) := by
  unfold stopToken
  repeat' (first
    | with_reducible assumption | with_reducible refine commitAll_kept ?_ | with_reducible refine stopSlot_kept ?_
    | split | (dsimp only))

theorem scatterRecord_kept {s0 : State} {p : Nat} {drained : Bool} {r : StepRec} {s : State} (h : Kept s0 s) :
    Kept s0 (scatterRecord p drained r s) := by
  unfold scatterRecord
  repeat' (first
    | with_reducible assumption | with_reducible refine modSlot_kept ?_
    | with_reducible refine positionsDone_kept ?_ | with_reducible refine startScatter_kept ?_ | split
    | (dsimp only))

theorem stepDone_kept {s0 : State} {p : Nat} {lk : LinkDecl} {s : State} (h : Kept s0 s) :
    Kept s0 (stepDone p lk s) := by
  unfold stepDone
  repeat' (first
    | with_reducible assumption | with_reducible refine modCast_kept ?_
    | with_reducible refine sendSignals_kept ?_ | split)

theorem tokenBoundary_kept {s0 : State} {p : Nat} {y : Panel} {c : Cast} {lk : LinkDecl} {n : Nat}
    {srs : List StepRec} {res : List (StepRec × List Byte)} {s : State} (h : Kept s0 s) :
    Kept s0 (tokenBoundary p y c lk n srs res s) := by
  unfold tokenBoundary
  repeat' (first
    | with_reducible assumption | with_reducible refine bump_kept ?_ | with_reducible refine endSlot_kept ?_
    | with_reducible refine modCast_kept ?_ | with_reducible refine modSlot_kept ?_
    | with_reducible refine runScatters_kept ?_ | with_reducible refine sampleToken_kept ?_
    | with_reducible refine scatterRecord_kept ?_ | with_reducible refine step5_kept ?_
    | with_reducible refine stepDone_kept ?_ | with_reducible refine stopToken_kept ?_
    | with_reducible refine writeStep_kept ?_ | with_reducible (refine Kept.foldl ?_ (fun _ _ _ => ?_)) | split)

theorem execTokenBoundary_kept {s0 : State} {panel : BitVec 4} {s : State} {out : State} (h : Kept s0 s)
    (e : execTokenBoundary panel s = .next out) : Kept s0 out := by
  unfold execTokenBoundary at e
  injection e with e
  subst e
  repeat' (first
    | with_reducible assumption | with_reducible refine linkAccess_kept ?_ (fun _ _ => ?_) (fun _ _ => ?_)
    | with_reducible refine tokenBoundary_kept ?_ | (dsimp only [id])
    | (dsimp only [accSt_go, accSt_wait, accSt_lost, accSt_fault]) | split)

theorem runInput_kept {s0 : State} {fail : Option ReadFail} {x : Slot} {s : State} (h : Kept s0 s) :
    Kept s0 ((runInput fail x s).2) := by
  unfold runInput
  repeat' (first
    | with_reducible assumption | with_reducible refine bump_kept ?_ | with_reducible refine hostReadAs_kept ?_
    | split)

theorem startRun_kept {s0 : State} {fail : Option ReadFail} {p : Nat} {c : Cast} {lk : LinkDecl} {i : Nat}
    {x : Slot} {s : State} (h : Kept s0 s) : Kept s0 (startRun fail p c lk i x s) := by
  unfold startRun
  repeat' (first
    | with_reducible assumption | with_reducible refine Kept.snd ?_ (by assumption)
    | with_reducible refine Kept.fst ?_ (by assumption) | with_reducible refine Kept.snd2 ?_ (by assumption)
    | with_reducible refine Kept.snd3 ?_ (by assumption) | with_reducible refine Kept.eqSnd ?_ (by assumption)
    | with_reducible refine Kept.eqFst ?_ (by assumption) | with_reducible refine areaWrite_kept ?_
    | with_reducible refine endSlot_kept ?_ | with_reducible refine modCast_kept ?_
    | with_reducible refine modSlot_kept ?_ | with_reducible refine runInput_kept ?_
    | with_reducible refine sendSignals_kept ?_ | with_reducible refine tileHeaders_kept ?_ | split)

theorem execRunStart_kept {s0 : State} {start : RunStart} {s : State} {out : State} (h : Kept s0 s)
    (e : execRunStart start s = .next out) : Kept s0 out := by
  unfold execRunStart at e
  injection e with e
  subst e
  repeat' (first
    | with_reducible assumption | with_reducible refine linkAccess_kept ?_ (fun _ _ => ?_) (fun _ _ => ?_)
    | with_reducible refine startRun_kept ?_ | (dsimp only [id])
    | (dsimp only [accSt_go, accSt_wait, accSt_lost, accSt_fault]) | split)

theorem resultTiles_kept {s0 : State} {p : Nat} {c : Cast} {lk : LinkDecl} {s : State} (h : Kept s0 s) :
    Kept s0 ((resultTiles p c lk s).2) := by
  unfold resultTiles
  repeat' (first
    | with_reducible assumption | with_reducible refine engineTiles_kept ?_ | split)

theorem runDone_kept {s0 : State} {p : Nat} {lk : LinkDecl} {s : State} (h : Kept s0 s) :
    Kept s0 (runDone p lk s) := by
  unfold runDone
  repeat' (first
    | with_reducible assumption | with_reducible refine modCast_kept ?_
    | with_reducible refine sendSignals_kept ?_ | split)

theorem deliverRun_kept {s0 : State} {i : Nat} {x : Slot} {payOut : Nat} {x3 hs : List Byte} {s : State} (h :
    Kept s0 s) : Kept s0 (deliverRun i x payOut x3 hs s) := by
  unfold deliverRun
  repeat' (first
    | with_reducible assumption | with_reducible refine endSlot_kept ?_ | with_reducible refine hostWrite_kept ?_
    | with_reducible refine modSlot_kept ?_ | split)

theorem runResult_kept {s0 : State} {p : Nat} {c : Cast} {lk : LinkDecl} {s : State} (h : Kept s0 s) :
    Kept s0 (runResult p c lk s) := by
  unfold runResult
  repeat' (first
    | with_reducible assumption | with_reducible refine Kept.snd ?_ (by assumption)
    | with_reducible refine Kept.fst ?_ (by assumption) | with_reducible refine Kept.snd2 ?_ (by assumption)
    | with_reducible refine Kept.snd3 ?_ (by assumption) | with_reducible refine Kept.eqSnd ?_ (by assumption)
    | with_reducible refine Kept.eqFst ?_ (by assumption) | with_reducible refine bump_kept ?_
    | with_reducible refine deliverRun_kept ?_ | with_reducible refine endSlot_kept ?_
    | with_reducible refine resultTiles_kept ?_ | with_reducible refine runDone_kept ?_ | split)

theorem execRunResult_kept {s0 : State} {panel : BitVec 4} {s : State} {out : State} (h : Kept s0 s)
    (e : execRunResult panel s = .next out) : Kept s0 out := by
  unfold execRunResult at e
  injection e with e
  subst e
  repeat' (first
    | with_reducible assumption | with_reducible refine linkAccess_kept ?_ (fun _ _ => ?_) (fun _ _ => ?_)
    | with_reducible refine runDone_kept ?_ | with_reducible refine runResult_kept ?_ | (dsimp only [id])
    | (dsimp only [accSt_go, accSt_wait, accSt_lost, accSt_fault]) | split)

theorem sweepSlot_kept {s0 : State} {i : Nat} {s : State} (h : Kept s0 s) : Kept s0 (sweepSlot i s) := by
  unfold sweepSlot
  repeat' (first
    | with_reducible assumption | with_reducible refine bump_kept ?_ | with_reducible refine endSlot_kept ?_
    | split)

theorem sendSummaries_kept {s0 s : State} (h : Kept s0 s) : Kept s0 (sendSummaries s) := by
  unfold sendSummaries
  repeat' (first
    | with_reducible assumption | with_reducible refine sendSummary_kept ?_
    | with_reducible (refine Kept.foldl ?_ (fun _ _ _ => ?_)) | split)

theorem execSweep_kept {s0 s : State} {out : State} (h : Kept s0 s) (e : execSweep s = .next out) : Kept s0 out := by
  unfold execSweep at e
  injection e with e
  subst e
  repeat' (first
    | with_reducible assumption | with_reducible refine ageAll_kept ?_ | with_reducible refine monitorSlot_kept ?_
    | with_reducible refine sendSummaries_kept ?_ | with_reducible refine sweepSlot_kept ?_
    | with_reducible (refine Kept.foldl ?_ (fun _ _ _ => ?_)) | split)

theorem pauseSlot_kept {s0 : State} {i : Nat} {s : State} (h : Kept s0 s) : Kept s0 (pauseSlot i s) := by
  unfold pauseSlot
  repeat' (first
    | with_reducible assumption | with_reducible refine dropTokenList_kept ?_
    | with_reducible refine modSlot_kept ?_ | with_reducible refine pushDue_kept ?_
    | with_reducible refine pushTakeover_kept ?_ | with_reducible refine pushWaiters_kept ?_
    | with_reducible refine releasePages_kept ?_ | with_reducible refine sendBulk_kept ?_
    | with_reducible refine slotChanged_kept ?_ | (fail_if_no_progress with_reducible (refine Kept.put ?_ rfl))
    | split)

theorem execSummaryResult_kept {s0 : State} {slot : BitVec 14} {s : State} {out : State} (h : Kept s0 s)
    (e : execSummaryResult slot s = .next out) : Kept s0 out := by
  unfold execSummaryResult at e
  injection e with e
  subst e
  repeat' (first
    | with_reducible assumption | with_reducible refine endSlot_kept ?_ | with_reducible refine pauseSlot_kept ?_
    | with_reducible refine returnSummary_kept ?_ | with_reducible refine touch_kept ?_ | split | (dsimp only))

/-! ## Submit -/

theorem immediate_kept {s0 : State} {ring : Nat} {d : Rec64} {status : Nat} {s : State} (h : Kept s0 s) :
    Kept s0 (immediate ring d status s) := by
  unfold immediate
  repeat' (first
    | with_reducible assumption | with_reducible refine bump_kept ?_ | with_reducible refine pushPlain_kept ?_)

theorem allocTokenList_kept {s0 : State} {i : Nat} {s : State} (h : Kept s0 s) : Kept s0 (allocTokenList i s) := by
  unfold allocTokenList
  repeat' (first
    | with_reducible assumption | with_reducible refine Kept.snd ?_ (by assumption)
    | with_reducible refine Kept.fst ?_ (by assumption) | with_reducible refine Kept.snd2 ?_ (by assumption)
    | with_reducible refine Kept.snd3 ?_ (by assumption) | with_reducible refine Kept.eqSnd ?_ (by assumption)
    | with_reducible refine Kept.eqFst ?_ (by assumption) | with_reducible refine allocTry_kept ?_
    | with_reducible refine modSlot_kept ?_ | split)

theorem acceptNew_kept {s0 : State} {ring : Nat} {d : Rec64} {s : State} (h : Kept s0 s) :
    Kept s0 (acceptNew ring d s) := by
  unfold acceptNew
  repeat' (first
    | with_reducible assumption | with_reducible refine allocTokenList_kept ?_
    | with_reducible refine openSlot_kept ?_ | with_reducible refine setSlot_kept ?_
    | (fail_if_no_progress with_reducible (refine Kept.put ?_ rfl)) | split | (dsimp only))

theorem acceptResume_kept {s0 : State} {ring : Nat} {d : Rec64} {s : State} (h : Kept s0 s) :
    Kept s0 (acceptResume ring d s) := by
  unfold acceptResume
  repeat' (first
    | with_reducible assumption | with_reducible refine allocTokenList_kept ?_
    | with_reducible refine openSlot_kept ?_ | with_reducible refine setSlot_kept ?_ | split)

theorem acceptPause_kept {s0 : State} {ring : Nat} {d : Rec64} {s : State} (h : Kept s0 s) :
    Kept s0 (acceptPause ring d s) := by
  unfold acceptPause
  repeat' (first
    | with_reducible assumption | with_reducible refine modSlot_kept ?_
    | with_reducible refine slotChanged_kept ?_)

theorem acceptAbort_kept {s0 : State} {ring : Nat} {d : Rec64} {s : State} (h : Kept s0 s) :
    Kept s0 (acceptAbort ring d s) := by
  unfold acceptAbort
  repeat' (first
    | with_reducible assumption | with_reducible refine modSlot_kept ?_ | with_reducible refine pushPlain_kept ?_
    | with_reducible refine retarget_kept ?_ | with_reducible refine slotChanged_kept ?_ | split)

theorem refuseRequest_kept {s0 : State} {ring : Nat} {d : Rec64} {status reason : Nat} {s : State} (h :
    Kept s0 s) : Kept s0 (refuseRequest ring d status reason s) := by
  unfold refuseRequest
  repeat' (first
    | with_reducible assumption | with_reducible refine bump_kept ?_ | with_reducible refine freeSlot_kept ?_
    | with_reducible refine immediate_kept ?_ | with_reducible refine pushDue_kept ?_ | split)

theorem submitRequest_kept {s0 : State} {ring : Nat} {d : Rec64} {s : State} (h : Kept s0 s) :
    Kept s0 (submitRequest ring d s) := by
  unfold submitRequest
  repeat' (first
    | with_reducible assumption | with_reducible refine acceptAbort_kept ?_
    | with_reducible refine acceptNew_kept ?_ | with_reducible refine acceptPause_kept ?_
    | with_reducible refine acceptResume_kept ?_ | with_reducible refine bump_kept ?_
    | with_reducible refine immediate_kept ?_ | with_reducible refine pushPlain_kept ?_
    | with_reducible refine refuseRequest_kept ?_ | split)

theorem submitAs_kept {s0 : State} {op : Nat} {ring : BitVec 12} {d : Rec64} {s : State} (h : Kept s0 s) :
    Kept s0 (submitAs op ring d s) := by
  unfold submitAs
  repeat' (first
    | with_reducible assumption | with_reducible refine submitRequest_kept ?_ | split)

theorem execRun_kept {s0 : State} {ring : BitVec 12} {d : Rec64} {s : State} {out : State} (h : Kept s0 s)
    (e : execRun ring d s = .next out) : Kept s0 out := by
  unfold execRun at e
  injection e with e
  subst e
  repeat' (first
    | with_reducible assumption | with_reducible refine submitAs_kept ?_)

theorem execGen_kept {s0 : State} {ring : BitVec 12} {d : Rec64} {s : State} {out : State} (h : Kept s0 s)
    (e : execGen ring d s = .next out) : Kept s0 out := by
  unfold execGen at e
  injection e with e
  subst e
  repeat' (first
    | with_reducible assumption | with_reducible refine submitAs_kept ?_)

theorem execPause_kept {s0 : State} {ring : BitVec 12} {d : Rec64} {s : State} {out : State} (h : Kept s0 s)
    (e : execPause ring d s = .next out) : Kept s0 out := by
  unfold execPause at e
  injection e with e
  subst e
  repeat' (first
    | with_reducible assumption | with_reducible refine submitAs_kept ?_)

theorem execResume_kept {s0 : State} {ring : BitVec 12} {d : Rec64} {s : State} {out : State} (h : Kept s0 s)
    (e : execResume ring d s = .next out) : Kept s0 out := by
  unfold execResume at e
  injection e with e
  subst e
  repeat' (first
    | with_reducible assumption | with_reducible refine submitAs_kept ?_)

theorem execAbort_kept {s0 : State} {ring : BitVec 12} {d : Rec64} {s : State} {out : State} (h : Kept s0 s)
    (e : execAbort ring d s = .next out) : Kept s0 out := by
  unfold execAbort at e
  injection e with e
  subst e
  repeat' (first
    | with_reducible assumption | with_reducible refine submitAs_kept ?_)

theorem readPrompt_kept {s0 : State} {fail : Option ReadFail} {x : Slot} {s : State} (h : Kept s0 s) :
    Kept s0 ((readPrompt fail x s).2) := by
  unfold readPrompt
  repeat' (first
    | with_reducible assumption | with_reducible refine bump_kept ?_ | with_reducible refine hostReadAs_kept ?_
    | split)

theorem storePrompt_kept {s0 : State} {i : Nat} {x : Slot} {b : List Byte} {s : State} (h : Kept s0 s) :
    Kept s0 (storePrompt i x b s) := by
  unfold storePrompt
  repeat' (first
    | with_reducible assumption | with_reducible refine endSlot_kept ?_ | with_reducible refine modSlot_kept ?_
    | with_reducible refine openTokens_kept ?_ | with_reducible refine touch_kept ?_
    | with_reducible refine wr_kept ?_ | split | (dsimp only))

theorem execPromptReadDone_kept {s0 : State} {read : PromptRead} {s : State} {out : State} (h : Kept s0 s)
    (e : execPromptReadDone read s = .next out) : Kept s0 out := by
  unfold execPromptReadDone at e
  injection e with e
  subst e
  repeat' (first
    | with_reducible assumption | with_reducible refine Kept.snd ?_ (by assumption)
    | with_reducible refine Kept.fst ?_ (by assumption) | with_reducible refine Kept.snd2 ?_ (by assumption)
    | with_reducible refine Kept.snd3 ?_ (by assumption) | with_reducible refine Kept.eqSnd ?_ (by assumption)
    | with_reducible refine Kept.eqFst ?_ (by assumption) | with_reducible refine allocTokenList_kept ?_
    | with_reducible refine endSlot_kept ?_ | with_reducible refine readPrompt_kept ?_
    | with_reducible refine storePrompt_kept ?_ | split | (dsimp only))

/-! ## Mailbox -/

theorem setChan_kept {s0 : State} {c : Nat} {x : Chan} {s : State} (h : Kept s0 s) : Kept s0 (setChan c x s) := by
  unfold setChan
  repeat' (first
    | with_reducible assumption | (fail_if_no_progress with_reducible (refine Kept.put ?_ rfl)))

theorem modChan_kept {s0 : State} {c : Nat} {f : Chan → Chan} {s : State} (h : Kept s0 s) :
    Kept s0 (modChan c f s) := by
  unfold modChan
  repeat' (first
    | with_reducible assumption | with_reducible refine setChan_kept ?_)

theorem interruptMaster_kept {s0 : State} {m : BitVec 8} {s : State} (h : Kept s0 s) :
    Kept s0 (interruptMaster m s) := by
  unfold interruptMaster
  repeat' (first
    | with_reducible assumption | with_reducible refine emitOut_kept ?_ | with_reducible refine sendMsix_kept ?_
    | split)

theorem ringBell_kept {s0 : State} {m : BitVec 8} {c : Nat} {s : State} (h : Kept s0 s) :
    Kept s0 (ringBell m c s) := by
  unfold ringBell
  repeat' (first
    | with_reducible assumption | with_reducible refine interruptMaster_kept ?_
    | (fail_if_no_progress with_reducible (refine Kept.put ?_ rfl)) | split | (dsimp only))

theorem putWord_kept {s0 : State} {c : Nat} {first : Bool} {w : MbxWord} {s : State} (h : Kept s0 s) :
    Kept s0 (putWord c first w s) := by
  unfold putWord
  repeat' (first
    | with_reducible assumption | with_reducible refine bump_kept ?_ | with_reducible refine ringBell_kept ?_
    | with_reducible refine setChan_kept ?_ | split)

theorem domainOffAccess_kept {s0 : State} {m : BitVec 8} {read : Bool} {s : State} (h : Kept s0 s) :
    Kept s0 (domainOffAccess m read s) := by
  unfold domainOffAccess
  repeat' (first
    | with_reducible assumption | with_reducible refine answer_kept ?_ | with_reducible refine bump_kept ?_
    | split)

theorem unboundAccess_kept {s0 : State} {m : BitVec 8} {read : Bool} {s : State} (h : Kept s0 s) :
    Kept s0 (unboundAccess m read s) := by
  unfold unboundAccess
  repeat' (first
    | with_reducible assumption | with_reducible refine answer_kept ?_ | with_reducible refine bump_kept ?_
    | split)

theorem chanAccess_kept {s0 : State} {m : BitVec 8} {c : Nat} {read : Bool} {f : State → State} {s : State} (h :
    Kept s0 s) (hf : ∀ t, Kept s0 t → Kept s0 ((f  t))) : Kept s0 (chanAccess m c read f s) := by
  unfold chanAccess
  repeat' (first
    | with_reducible assumption | with_reducible refine hf _ ?_ | with_reducible refine domainOffAccess_kept ?_
    | with_reducible refine unboundAccess_kept ?_ | (dsimp only [accSt_go, accSt_wait, accSt_lost, accSt_fault])
    | split)

theorem toPartner_kept {s0 : State} {m : BitVec 8} {c : Nat} {w : BitVec 32} {s : State} (h : Kept s0 s) :
    Kept s0 (toPartner m c w s) := by
  unfold toPartner
  repeat' (first
    | with_reducible assumption | with_reducible refine Kept.snd ?_ (by assumption)
    | with_reducible refine Kept.fst ?_ (by assumption) | with_reducible refine Kept.snd2 ?_ (by assumption)
    | with_reducible refine Kept.snd3 ?_ (by assumption) | with_reducible refine Kept.eqSnd ?_ (by assumption)
    | with_reducible refine Kept.eqFst ?_ (by assumption) | with_reducible refine freeNat_kept ?_
    | with_reducible refine modChan_kept ?_ | with_reducible refine sendService_kept ?_
    | with_reducible (refine Kept.foldl ?_ (fun _ _ _ => ?_))
    | with_reducible (refine Kept.foldl2 ?_ (fun _ _ _ => ?_))
    | (fail_if_no_progress with_reducible (refine Kept.put ?_ rfl)) | split | (dsimp only))

theorem lockRefusal_kept {s0 : State} {m : BitVec 8} {c : Nat} {s : State} (h : Kept s0 s) :
    Kept s0 (lockRefusal m c s) := by
  unfold lockRefusal
  repeat' (first
    | with_reducible assumption | with_reducible refine Kept.snd ?_ (by assumption)
    | with_reducible refine Kept.fst ?_ (by assumption) | with_reducible refine Kept.snd2 ?_ (by assumption)
    | with_reducible refine Kept.snd3 ?_ (by assumption) | with_reducible refine Kept.eqSnd ?_ (by assumption)
    | with_reducible refine Kept.eqFst ?_ (by assumption) | with_reducible refine bump_kept ?_
    | with_reducible refine modChan_kept ?_ | with_reducible (refine Kept.foldl ?_ (fun _ _ _ => ?_))
    | with_reducible (refine Kept.foldl2 ?_ (fun _ _ _ => ?_))
    | (fail_if_no_progress with_reducible (refine Kept.put ?_ rfl)) | split | (dsimp only))

theorem mbxTx_kept {s0 : State} {m : BitVec 8} {c : Nat} {w : BitVec 32} {s : State} (h : Kept s0 s) :
    Kept s0 (mbxTx m c w s) := by
  unfold mbxTx
  repeat' (first
    | with_reducible assumption | with_reducible refine chanAccess_kept ?_ (fun _ _ => ?_)
    | with_reducible refine domainOffAccess_kept ?_ | with_reducible refine lockRefusal_kept ?_
    | with_reducible refine putWord_kept ?_ | with_reducible refine toPartner_kept ?_
    | with_reducible refine unboundAccess_kept ?_ | (dsimp only [accSt_go, accSt_wait, accSt_lost, accSt_fault])
    | split)

theorem rxPop_kept {s0 : State} {m : BitVec 8} {c : Nat} {s : State} (h : Kept s0 s) : Kept s0 (rxPop m c s) := by
  unfold rxPop
  repeat' (first
    | with_reducible assumption | with_reducible refine modChan_kept ?_)

theorem mbxRx_kept {s0 : State} {m : BitVec 8} {c : Nat} {eight : Bool} {s : State} (h : Kept s0 s) :
    Kept s0 (mbxRx m c eight s) := by
  unfold mbxRx
  repeat' (first
    | with_reducible assumption | with_reducible refine answer_kept ?_
    | with_reducible refine chanAccess_kept ?_ (fun _ _ => ?_) | with_reducible refine modChan_kept ?_
    | with_reducible refine rxPop_kept ?_ | (dsimp only [accSt_go, accSt_wait, accSt_lost, accSt_fault]) | split)

theorem mbxRxUpper_kept {s0 : State} {m : BitVec 8} {c : Nat} {s : State} (h : Kept s0 s) :
    Kept s0 (mbxRxUpper m c s) := by
  unfold mbxRxUpper
  repeat' (first
    | with_reducible assumption | with_reducible refine answer_kept ?_
    | with_reducible refine chanAccess_kept ?_ (fun _ _ => ?_) | with_reducible refine modChan_kept ?_
    | (dsimp only [accSt_go, accSt_wait, accSt_lost, accSt_fault]) | split)

theorem mbxLock_kept {s0 : State} {m : BitVec 8} {c : Nat} {s : State} (h : Kept s0 s) : Kept s0 (mbxLock m c s) := by
  unfold mbxLock
  repeat' (first
    | with_reducible assumption | with_reducible refine answer_kept ?_
    | with_reducible refine chanAccess_kept ?_ (fun _ _ => ?_) | with_reducible refine setChan_kept ?_
    | (dsimp only [accSt_go, accSt_wait, accSt_lost, accSt_fault]) | split)

theorem mbxUnlock_kept {s0 : State} {m : BitVec 8} {c : Nat} {s : State} (h : Kept s0 s) :
    Kept s0 (mbxUnlock m c s) := by
  unfold mbxUnlock
  repeat' (first
    | with_reducible assumption | with_reducible refine chanAccess_kept ?_ (fun _ _ => ?_)
    | with_reducible refine setChan_kept ?_ | (dsimp only [accSt_go, accSt_wait, accSt_lost, accSt_fault]) | split)

theorem mbxCtrl_kept {s0 : State} {m : BitVec 8} {c : Nat} {v : BitVec 32} {s : State} (h : Kept s0 s) :
    Kept s0 (mbxCtrl m c v s) := by
  unfold mbxCtrl
  repeat' (first
    | with_reducible assumption | with_reducible refine chanAccess_kept ?_ (fun _ _ => ?_)
    | with_reducible refine setChan_kept ?_ | (dsimp only [accSt_go, accSt_wait, accSt_lost, accSt_fault]) | split)

theorem mbxMask_kept {s0 : State} {m : BitVec 8} {v : BitVec 32} {s : State} (h : Kept s0 s) :
    Kept s0 (mbxMask m v s) := by
  unfold mbxMask
  repeat' (first
    | with_reducible assumption | with_reducible refine interruptMaster_kept ?_
    | (fail_if_no_progress with_reducible (refine Kept.put ?_ rfl)) | split | (dsimp only))

theorem goOff_kept {s0 : State} {m : BitVec 8} {s : State} (h : Kept s0 s) : Kept s0 (goOff m s) := by
  unfold goOff
  repeat' (first
    | with_reducible assumption | (fail_if_no_progress with_reducible (refine Kept.put ?_ rfl)))

theorem putWords_kept {s0 : State} {c : Nat} {first : Bool} {src dst : BitVec 8} {ws : List (BitVec 32)}
    {s : State} (h : Kept s0 s) : Kept s0 (putWords c first src dst ws s) := by
  unfold putWords
  repeat' (first
    | with_reducible assumption | with_reducible refine putWord_kept ?_
    | with_reducible (refine Kept.foldl ?_ (fun _ _ _ => ?_)))

theorem notice_kept {s0 : State} {src dst : BitVec 8} {type : Nat} {words : List (BitVec 32)} {s : State} (h :
    Kept s0 s) : Kept s0 (notice src dst type words s) := by
  unfold notice
  repeat' (first
    | with_reducible assumption | with_reducible refine bump_kept ?_ | with_reducible refine freeNat_kept ?_
    | with_reducible refine putWords_kept ?_ | split)

theorem plyNotice_kept {s0 : State} {code : Nat} {s : State} (h : Kept s0 s) : Kept s0 (plyNotice code s) := by
  unfold plyNotice
  repeat' (first
    | with_reducible assumption | with_reducible refine notice_kept ?_
    | (fail_if_no_progress with_reducible (refine Kept.put ?_ rfl)) | split)

theorem healthNotice_kept {s0 s : State} (h : Kept s0 s) : Kept s0 (healthNotice s) := by
  unfold healthNotice
  repeat' (first
    | with_reducible assumption | with_reducible refine Kept.snd ?_ (by assumption)
    | with_reducible refine Kept.fst ?_ (by assumption) | with_reducible refine Kept.snd2 ?_ (by assumption)
    | with_reducible refine Kept.snd3 ?_ (by assumption) | with_reducible refine Kept.eqSnd ?_ (by assumption)
    | with_reducible refine Kept.eqFst ?_ (by assumption) | with_reducible refine notice_kept ?_
    | with_reducible (refine Kept.foldl ?_ (fun _ _ _ => ?_))
    | with_reducible (refine Kept.foldl2 ?_ (fun _ _ _ => ?_))
    | (fail_if_no_progress with_reducible (refine Kept.put ?_ rfl)) | split | (dsimp only))

theorem plyNotices_kept {s0 s : State} (h : Kept s0 s) : Kept s0 (plyNotices s) := by
  unfold plyNotices
  repeat' (first
    | with_reducible assumption | with_reducible refine plyNotice_kept ?_
    | with_reducible (refine Kept.foldl ?_ (fun _ _ _ => ?_))
    | (fail_if_no_progress with_reducible (refine Kept.put ?_ rfl)))

theorem plyEvent_kept {s0 : State} {code : Nat} {s : State} (h : Kept s0 s) : Kept s0 (plyEvent code s) := by
  unfold plyEvent
  repeat' (first
    | with_reducible assumption | with_reducible refine plyNotice_kept ?_
    | with_reducible refine raiseCause_kept ?_ | (fail_if_no_progress with_reducible (refine Kept.put ?_ rfl))
    | split)

theorem goOn_kept {s0 : State} {m : BitVec 8} {s : State} (h : Kept s0 s) : Kept s0 (goOn m s) := by
  unfold goOn
  repeat' (first
    | with_reducible assumption | with_reducible refine ringBell_kept ?_
    | with_reducible (refine Kept.foldl ?_ (fun _ _ _ => ?_))
    | (fail_if_no_progress with_reducible (refine Kept.put ?_ rfl)) | split | (dsimp only))

theorem syncPartner_kept {s0 s : State} (h : Kept s0 s) : Kept s0 (syncPartner s) := by
  unfold syncPartner
  repeat' (first
    | with_reducible assumption | with_reducible refine goOff_kept ?_ | with_reducible refine goOn_kept ?_ | split)

theorem execDomainOff_kept {s0 : State} {master : BitVec 8} {s : State} {out : State} (h : Kept s0 s)
    (e : execDomainOff master s = .next out) : Kept s0 out := by
  unfold execDomainOff at e
  injection e with e
  subst e
  repeat' (first
    | with_reducible assumption | with_reducible refine goOff_kept ?_ | split)

theorem execDomainOn_kept {s0 : State} {master : BitVec 8} {s : State} {out : State} (h : Kept s0 s)
    (e : execDomainOn master s = .next out) : Kept s0 out := by
  unfold execDomainOn at e
  injection e with e
  subst e
  repeat' (first
    | with_reducible assumption | with_reducible refine goOn_kept ?_ | with_reducible refine plyNotices_kept ?_
    | split)

theorem mbxAccess_kept {s0 : State} {m : BitVec 8} {f : State → State} {s : State} (h : Kept s0 s)
    (hf : ∀ t, Kept s0 t → Kept s0 ((f  t))) : Kept s0 (mbxAccess m f s) := by
  unfold mbxAccess
  repeat' (first
    | with_reducible assumption | with_reducible refine hf _ ?_ | with_reducible refine answer_kept ?_ | split)

theorem execMbxTxWrite_kept {s0 : State} {master : BitVec 8} {ch : BitVec 6} {word : BitVec 32} {s : State}
    {out : State} (h : Kept s0 s) (e : execMbxTxWrite master ch word s = .next out) : Kept s0 out := by
  unfold execMbxTxWrite at e
  injection e with e
  subst e
  repeat' (first
    | with_reducible assumption | with_reducible refine mbxAccess_kept ?_ (fun _ _ => ?_)
    | with_reducible refine mbxTx_kept ?_)

theorem execMbxRxRead_kept {s0 : State} {master : BitVec 8} {ch : BitVec 6} {part : RxPart} {s : State}
    {out : State} (h : Kept s0 s) (e : execMbxRxRead master ch part s = .next out) : Kept s0 out := by
  unfold execMbxRxRead at e
  injection e with e
  subst e
  repeat' (first
    | with_reducible assumption | with_reducible refine Kept.snd ?_ (by assumption)
    | with_reducible refine Kept.fst ?_ (by assumption) | with_reducible refine Kept.snd2 ?_ (by assumption)
    | with_reducible refine Kept.snd3 ?_ (by assumption) | with_reducible refine Kept.eqSnd ?_ (by assumption)
    | with_reducible refine Kept.eqFst ?_ (by assumption)
    | with_reducible refine mbxAccess_kept ?_ (fun _ _ => ?_) | with_reducible refine mbxRx_kept ?_
    | with_reducible refine mbxRxUpper_kept ?_ | with_reducible (refine Kept.foldl ?_ (fun _ _ _ => ?_))
    | with_reducible (refine Kept.foldl2 ?_ (fun _ _ _ => ?_))
    | (fail_if_no_progress with_reducible (refine Kept.put ?_ rfl))
    | (dsimp only [accSt_go, accSt_wait, accSt_lost, accSt_fault]) | split | (dsimp only))

theorem execMbxLockRead_kept {s0 : State} {master : BitVec 8} {ch : BitVec 6} {s : State} {out : State} (h :
    Kept s0 s) (e : execMbxLockRead master ch s = .next out) : Kept s0 out := by
  unfold execMbxLockRead at e
  injection e with e
  subst e
  repeat' (first
    | with_reducible assumption | with_reducible refine mbxAccess_kept ?_ (fun _ _ => ?_)
    | with_reducible refine mbxLock_kept ?_)

theorem execMbxLockWrite_kept {s0 : State} {master : BitVec 8} {ch : BitVec 6} {x2 : BitVec 32} {s : State}
    {out : State} (h : Kept s0 s) (e : execMbxLockWrite master ch x2 s = .next out) : Kept s0 out := by
  unfold execMbxLockWrite at e
  injection e with e
  subst e
  repeat' (first
    | with_reducible assumption | with_reducible refine mbxAccess_kept ?_ (fun _ _ => ?_)
    | with_reducible refine mbxUnlock_kept ?_)

theorem execMbxCtrlWrite_kept {s0 : State} {master : BitVec 8} {ch : BitVec 6} {v : BitVec 32} {s : State}
    {out : State} (h : Kept s0 s) (e : execMbxCtrlWrite master ch v s = .next out) : Kept s0 out := by
  unfold execMbxCtrlWrite at e
  injection e with e
  subst e
  repeat' (first
    | with_reducible assumption | with_reducible refine mbxAccess_kept ?_ (fun _ _ => ?_)
    | with_reducible refine mbxCtrl_kept ?_)

theorem execMbxDbMaskWrite_kept {s0 : State} {master : BitVec 8} {v : BitVec 32} {s : State} {out : State} (h :
    Kept s0 s) (e : execMbxDbMaskWrite master v s = .next out) : Kept s0 out := by
  unfold execMbxDbMaskWrite at e
  injection e with e
  subst e
  repeat' (first
    | with_reducible assumption | with_reducible refine mbxAccess_kept ?_ (fun _ _ => ?_)
    | with_reducible refine mbxMask_kept ?_)

/-! ## Rings -/

theorem dropDue_kept {s0 : State} {r : Nat} {d : Due} {s : State} (h : Kept s0 s) : Kept s0 (dropDue r d s) := by
  unfold dropDue
  repeat' (first
    | with_reducible assumption | with_reducible refine modRing_kept ?_ | with_reducible refine setRing_kept ?_
    | (fail_if_no_progress with_reducible (refine Kept.put ?_ rfl)) | split | (dsimp only))

theorem announce_kept {s0 : State} {r : Nat} {s : State} (h : Kept s0 s) : Kept s0 (announce r s) := by
  unfold announce
  repeat' (first
    | with_reducible assumption | with_reducible refine sendMsix_kept ?_ | with_reducible refine setRing_kept ?_
    | split | (dsimp only))

theorem streamWritten_kept {s0 : State} {r : Nat} {d : Due} {s : State} (h : Kept s0 s) :
    Kept s0 (streamWritten r d s) := by
  unfold streamWritten
  repeat' (first
    | with_reducible assumption | with_reducible refine modSlot_kept ?_ | with_reducible refine pushDue_kept ?_
    | with_reducible refine pushSlotCompl_kept ?_ | with_reducible refine pushTakeover_kept ?_
    | (fail_if_no_progress with_reducible (refine Kept.put ?_ rfl)) | split)

theorem execStreamRecordWrite_kept {s0 : State} {ring : BitVec 12} {s : State} {out : State} (h : Kept s0 s)
    (e : execStreamRecordWrite ring s = .next out) : Kept s0 out := by
  unfold execStreamRecordWrite at e
  injection e with e
  subst e
  repeat' (first
    | with_reducible assumption | with_reducible refine announce_kept ?_
    | with_reducible refine countHolds_kept ?_ | with_reducible refine dropDue_kept ?_
    | with_reducible refine hostWrite_kept ?_ | with_reducible refine modRing_kept ?_
    | with_reducible refine streamWritten_kept ?_ | with_reducible refine writeDevIdx_kept ?_ | split
    | (dsimp only))

theorem complWritten_kept {s0 : State} {body : BitVec 224} {owner : DueFor} {ws : List Waiter} {s : State} (h :
    Kept s0 s) : Kept s0 (complWritten body owner ws s) := by
  unfold complWritten
  repeat' (first
    | with_reducible assumption | with_reducible refine bump_kept ?_ | with_reducible refine freeSlot_kept ?_
    | with_reducible refine pushWaiters_kept ?_ | split)

theorem execCompletionEntryWrite_kept {s0 : State} {ring : BitVec 12} {s : State} {out : State} (h : Kept s0 s)
    (e : execCompletionEntryWrite ring s = .next out) : Kept s0 out := by
  unfold execCompletionEntryWrite at e
  injection e with e
  subst e
  repeat' (first
    | with_reducible assumption | with_reducible refine announce_kept ?_
    | with_reducible refine complWritten_kept ?_ | with_reducible refine countHolds_kept ?_
    | with_reducible refine dropDue_kept ?_ | with_reducible refine hostWrite_kept ?_
    | with_reducible refine modRing_kept ?_ | with_reducible refine writeDevIdx_kept ?_ | split | (dsimp only))

theorem execIrqModerationExpiry_kept {s0 : State} {ring : BitVec 12} {s : State} {out : State} (h : Kept s0 s)
    (e : execIrqModerationExpiry ring s = .next out) : Kept s0 out := by
  unfold execIrqModerationExpiry at e
  injection e with e
  subst e
  repeat' (first
    | with_reducible assumption | with_reducible refine sendMsix_kept ?_ | with_reducible refine setRing_kept ?_
    | split)

theorem ringEnable_kept {s0 s : State} (h : Kept s0 s) : Kept s0 (ringEnable s) := by
  unfold ringEnable
  repeat' (first
    | with_reducible assumption | with_reducible refine countHolds_kept ?_
    | with_reducible refine hostRead_kept ?_ | with_reducible refine modRing_kept ?_
    | with_reducible refine setRing_kept ?_ | with_reducible refine writeDevIdx_kept ?_
    | (fail_if_no_progress with_reducible (refine Kept.put ?_ rfl)) | split | (dsimp only))

theorem disableRing_kept {s0 : State} {r : Nat} {s : State} (h : Kept s0 s) : Kept s0 (disableRing r s) := by
  unfold disableRing
  repeat' (first
    | with_reducible assumption | with_reducible refine modRing_kept ?_)

theorem ringRead_kept {s0 s : State} (h : Kept s0 s) : Kept s0 (ringRead s) := by
  unfold ringRead
  repeat' (first
    | with_reducible assumption | (fail_if_no_progress with_reducible (refine Kept.put ?_ rfl)))

theorem ringCmd_kept {s0 : State} {op : Nat} {s : State} (h : Kept s0 s) : Kept s0 (ringCmd op s) := by
  unfold ringCmd
  repeat' (first
    | with_reducible assumption | with_reducible refine disableRing_kept ?_
    | with_reducible refine ringEnable_kept ?_ | with_reducible refine ringRead_kept ?_ | split)

theorem execRingEnable_kept {s0 s : State} {out : State} (h : Kept s0 s) (e : execRingEnable s = .next out) :
    Kept s0 out := by
  unfold execRingEnable at e
  injection e with e
  subst e
  repeat' (first
    | with_reducible assumption | with_reducible refine ringCmd_kept ?_ | split)

theorem execRingDisable_kept {s0 s : State} {out : State} (h : Kept s0 s) (e : execRingDisable s = .next out) :
    Kept s0 out := by
  unfold execRingDisable at e
  injection e with e
  subst e
  repeat' (first
    | with_reducible assumption | with_reducible refine ringCmd_kept ?_ | split)

theorem execRingRead_kept {s0 s : State} {out : State} (h : Kept s0 s) (e : execRingRead s = .next out) :
    Kept s0 out := by
  unfold execRingRead at e
  injection e with e
  subst e
  repeat' (first
    | with_reducible assumption | with_reducible refine ringCmd_kept ?_ | split)

theorem discardDue_kept {s0 : State} {d : Due} {s : State} (h : Kept s0 s) : Kept s0 (discardDue d s) := by
  unfold discardDue
  repeat' (first
    | with_reducible assumption | with_reducible refine freeSlot_kept ?_ | split)

theorem cutSlot_kept {s0 : State} {i : Nat} {s : State} (h : Kept s0 s) : Kept s0 (cutSlot i s) := by
  unfold cutSlot
  repeat' (first
    | with_reducible assumption | with_reducible refine freeSlot_kept ?_ | with_reducible refine setSlot_kept ?_
    | split)

theorem disableRings_kept {s0 s : State} (h : Kept s0 s) : Kept s0 (disableRings s) := by
  unfold disableRings
  repeat' (first
    | with_reducible assumption | (fail_if_no_progress with_reducible (refine Kept.put ?_ rfl)))

theorem interval_reset : 1 ≤ ({} : DbRegs).interval.toNat ∧ ({} : DbRegs).interval.toNat ≤ 64 := by decide

theorem resetHostRegs_kept {s0 s : State} (h : Kept s0 s) : Kept s0 (resetHostRegs s) :=
  h.trans ⟨rfl, Nat.le_refl _, BitVec.and_self, id,
    fun ⟨_, _, a, b, c, d, e, f, g, _⟩ => ⟨interval_reset.1, interval_reset.2, a, b, c, d, e, f, g, .inl rfl⟩⟩

theorem hostReset_kept {s0 s : State} (h : Kept s0 s) : Kept s0 (hostReset s) := by
  unfold hostReset
  repeat' (first
    | with_reducible assumption | with_reducible refine cutSlot_kept ?_
    | with_reducible refine disableRings_kept ?_ | with_reducible refine discardDue_kept ?_
    | with_reducible refine resetHostRegs_kept ?_ | with_reducible (refine Kept.foldl ?_ (fun _ _ _ => ?_)))

theorem msixReset_kept {s0 s : State} (h : Kept s0 s) : Kept s0 (msixReset s) := by
  unfold msixReset
  repeat' (first
    | with_reducible assumption | (fail_if_no_progress with_reducible (refine Kept.put ?_ rfl)))

theorem linkReset_kept {s0 : State} {sticky : Bool} {s : State} (h : Kept s0 s) : Kept s0 (linkReset sticky s) := by
  unfold linkReset
  repeat' (first
    | with_reducible assumption | with_reducible refine Kept.snd ?_ (by assumption)
    | with_reducible refine Kept.fst ?_ (by assumption) | with_reducible refine Kept.snd2 ?_ (by assumption)
    | with_reducible refine Kept.snd3 ?_ (by assumption) | with_reducible refine Kept.eqSnd ?_ (by assumption)
    | with_reducible refine Kept.eqFst ?_ (by assumption)
    | with_reducible (refine Kept.foldl ?_ (fun _ _ _ => ?_))
    | with_reducible (refine Kept.foldl2 ?_ (fun _ _ _ => ?_))
    | (fail_if_no_progress with_reducible (refine Kept.put ?_ rfl)) | split | (dsimp only))

theorem beginFlr_kept {s0 s : State} (h : Kept s0 s) : Kept s0 (beginFlr s) := by
  unfold beginFlr
  repeat' (first
    | with_reducible assumption | with_reducible refine Kept.snd ?_ (by assumption)
    | with_reducible refine Kept.fst ?_ (by assumption) | with_reducible refine Kept.snd2 ?_ (by assumption)
    | with_reducible refine Kept.snd3 ?_ (by assumption) | with_reducible refine Kept.eqSnd ?_ (by assumption)
    | with_reducible refine Kept.eqFst ?_ (by assumption) | with_reducible refine goOff_kept ?_
    | with_reducible refine hostReset_kept ?_ | with_reducible refine msixReset_kept ?_
    | with_reducible (refine Kept.foldl ?_ (fun _ _ _ => ?_))
    | with_reducible (refine Kept.foldl2 ?_ (fun _ _ _ => ?_))
    | (fail_if_no_progress with_reducible (refine Kept.put ?_ rfl)) | split | (dsimp only))

theorem execFlr_kept {s0 s : State} {out : State} (h : Kept s0 s) (e : execFlr s = .next out) : Kept s0 out := by
  unfold execFlr at e
  injection e with e
  subst e
  repeat' (first
    | with_reducible assumption | with_reducible refine beginFlr_kept ?_
    | (fail_if_no_progress with_reducible (refine Kept.put ?_ rfl)) | split)

theorem execPerstAssert_kept {s0 s : State} {out : State} (h : Kept s0 s) (e : execPerstAssert s = .next out) :
    Kept s0 out := by
  unfold execPerstAssert at e
  injection e with e
  subst e
  repeat' (first
    | with_reducible assumption | with_reducible refine goOn_kept ?_ | with_reducible refine hostReset_kept ?_
    | with_reducible refine linkReset_kept ?_ | with_reducible refine msixReset_kept ?_
    | (fail_if_no_progress with_reducible (refine Kept.put ?_ rfl)) | split)

theorem execPerstDeassert_kept {s0 s : State} {out : State} (h : Kept s0 s)
    (e : execPerstDeassert s = .next out) : Kept s0 out := by
  unfold execPerstDeassert at e
  injection e with e
  subst e
  repeat' (first
    | with_reducible assumption | (fail_if_no_progress with_reducible (refine Kept.put ?_ rfl)) | split)

theorem execDlDown_kept {s0 s : State} {out : State} (h : Kept s0 s) (e : execDlDown s = .next out) :
    Kept s0 out := by
  unfold execDlDown at e
  injection e with e
  subst e
  repeat' (first
    | with_reducible assumption | with_reducible refine goOn_kept ?_ | with_reducible refine hostReset_kept ?_
    | with_reducible refine linkReset_kept ?_ | with_reducible refine msixReset_kept ?_
    | (fail_if_no_progress with_reducible (refine Kept.put ?_ rfl)) | split)

theorem makeHeld_kept {s0 s : State} (h : Kept s0 s) : Kept s0 (makeHeld s) := by
  unfold makeHeld
  repeat' (first
    | with_reducible assumption | with_reducible refine Kept.snd ?_ (by assumption)
    | with_reducible refine Kept.fst ?_ (by assumption) | with_reducible refine Kept.snd2 ?_ (by assumption)
    | with_reducible refine Kept.snd3 ?_ (by assumption) | with_reducible refine Kept.eqSnd ?_ (by assumption)
    | with_reducible refine Kept.eqFst ?_ (by assumption) | with_reducible refine bump_kept ?_
    | with_reducible refine emitOut_kept ?_ | with_reducible refine wr_kept ?_
    | with_reducible (refine Kept.foldl ?_ (fun _ _ _ => ?_))
    | with_reducible (refine Kept.foldl2 ?_ (fun _ _ _ => ?_))
    | (fail_if_no_progress with_reducible (refine Kept.put ?_ rfl)) | split | (dsimp only))

theorem enterD3_kept {s0 s : State} (h : Kept s0 s) : Kept s0 (enterD3 s) := by
  unfold enterD3
  repeat' (first
    | with_reducible assumption | with_reducible refine Kept.snd ?_ (by assumption)
    | with_reducible refine Kept.fst ?_ (by assumption) | with_reducible refine Kept.snd2 ?_ (by assumption)
    | with_reducible refine Kept.snd3 ?_ (by assumption) | with_reducible refine Kept.eqSnd ?_ (by assumption)
    | with_reducible refine Kept.eqFst ?_ (by assumption) | with_reducible refine goOff_kept ?_
    | with_reducible (refine Kept.foldl ?_ (fun _ _ _ => ?_))
    | with_reducible (refine Kept.foldl2 ?_ (fun _ _ _ => ?_))
    | (fail_if_no_progress with_reducible (refine Kept.put ?_ rfl)) | split | (dsimp only))

theorem leaveD3_kept {s0 s : State} (h : Kept s0 s) : Kept s0 (leaveD3 s) := by
  unfold leaveD3
  repeat' (first
    | with_reducible assumption | with_reducible refine Kept.snd ?_ (by assumption)
    | with_reducible refine Kept.fst ?_ (by assumption) | with_reducible refine Kept.snd2 ?_ (by assumption)
    | with_reducible refine Kept.snd3 ?_ (by assumption) | with_reducible refine Kept.eqSnd ?_ (by assumption)
    | with_reducible refine Kept.eqFst ?_ (by assumption) | with_reducible refine goOn_kept ?_
    | with_reducible refine makeHeld_kept ?_ | with_reducible (refine Kept.foldl ?_ (fun _ _ _ => ?_))
    | with_reducible (refine Kept.foldl2 ?_ (fun _ _ _ => ?_))
    | (fail_if_no_progress with_reducible (refine Kept.put ?_ rfl)) | split | (dsimp only))

theorem execD3hotEntry_kept {s0 : State} {busMasterOnly : Bool} {s : State} {out : State} (h : Kept s0 s)
    (e : execD3hotEntry busMasterOnly s = .next out) : Kept s0 out := by
  unfold execD3hotEntry at e
  injection e with e
  subst e
  repeat' (first
    | with_reducible assumption | with_reducible refine enterD3_kept ?_
    | (fail_if_no_progress with_reducible (refine Kept.put ?_ rfl)) | split)

theorem execD0Return_kept {s0 s : State} {out : State} (h : Kept s0 s) (e : execD0Return s = .next out) :
    Kept s0 out := by
  unfold execD0Return at e
  injection e with e
  subst e
  repeat' (first
    | with_reducible assumption | with_reducible refine leaveD3_kept ?_
    | (fail_if_no_progress with_reducible (refine Kept.put ?_ rfl)) | split)

theorem execConfigurationRequest_kept {s0 s : State} {out : State} (h : Kept s0 s)
    (e : execConfigurationRequest s = .next out) : Kept s0 out := by
  unfold execConfigurationRequest at e
  injection e with e
  subst e
  repeat' (first
    | with_reducible assumption | with_reducible refine answer_kept ?_ | split)

theorem setHost_kept {s0 : State} {f : HostFn → HostFn} {s : State} (h : Kept s0 s)
    (hf : (f s.host).version = s.host.version) : Kept s0 (setHost f s) :=
  h.upd rfl rfl rfl (by simp only [limits, setHost, hf])

theorem barBase_kept {s0 : State} {i : Nat} {hi : Bool} {v : Nat} {s : State} (h : Kept s0 s) :
    Kept s0 (barBase i hi v s) := by
  unfold barBase
  repeat' (first
    | with_reducible assumption | with_reducible refine Kept.snd ?_ (by assumption)
    | with_reducible refine Kept.fst ?_ (by assumption) | with_reducible refine Kept.snd2 ?_ (by assumption)
    | with_reducible refine Kept.snd3 ?_ (by assumption) | with_reducible refine Kept.eqSnd ?_ (by assumption)
    | with_reducible refine Kept.eqFst ?_ (by assumption) | with_reducible refine setHost_kept ?_ rfl
    | with_reducible (refine Kept.foldl ?_ (fun _ _ _ => ?_))
    | with_reducible (refine Kept.foldl2 ?_ (fun _ _ _ => ?_))
    | (fail_if_no_progress with_reducible (refine Kept.put ?_ rfl)) | split | (dsimp only))

theorem sendPending_kept {s0 s : State} (h : Kept s0 s) : Kept s0 (sendPending s) := by
  unfold sendPending
  repeat' (first
    | with_reducible assumption | with_reducible refine Kept.snd ?_ (by assumption)
    | with_reducible refine Kept.fst ?_ (by assumption) | with_reducible refine Kept.snd2 ?_ (by assumption)
    | with_reducible refine Kept.snd3 ?_ (by assumption) | with_reducible refine Kept.eqSnd ?_ (by assumption)
    | with_reducible refine Kept.eqFst ?_ (by assumption) | with_reducible refine sendMsix_kept ?_
    | with_reducible refine setHost_kept ?_ rfl | with_reducible (refine Kept.foldl ?_ (fun _ _ _ => ?_))
    | with_reducible (refine Kept.foldl2 ?_ (fun _ _ _ => ?_))
    | (fail_if_no_progress with_reducible (refine Kept.put ?_ rfl)) | split | (dsimp only))

theorem cfgWrite_kept {s0 : State} {off v : Nat} {s : State} (h : Kept s0 s) : Kept s0 (cfgWrite off v s) := by
  unfold cfgWrite
  repeat' (first
    | with_reducible assumption | with_reducible refine Kept.snd ?_ (by assumption)
    | with_reducible refine Kept.fst ?_ (by assumption) | with_reducible refine Kept.snd2 ?_ (by assumption)
    | with_reducible refine Kept.snd3 ?_ (by assumption) | with_reducible refine Kept.eqSnd ?_ (by assumption)
    | with_reducible refine Kept.eqFst ?_ (by assumption) | with_reducible refine barBase_kept ?_
    | with_reducible refine beginFlr_kept ?_ | with_reducible refine enterD3_kept ?_
    | with_reducible refine leaveD3_kept ?_ | with_reducible refine makeHeld_kept ?_
    | with_reducible refine sendPending_kept ?_ | with_reducible refine setHost_kept ?_ rfl
    | with_reducible (refine Kept.foldl ?_ (fun _ _ _ => ?_))
    | with_reducible (refine Kept.foldl2 ?_ (fun _ _ _ => ?_))
    | (fail_if_no_progress with_reducible (refine Kept.put ?_ rfl)) | split | (dsimp only))

theorem cfgAccess_kept {s0 : State} {off : Nat} {eight : Bool} {f : State → State} {s : State} (h : Kept s0 s)
    (hf : ∀ t, Kept s0 t → Kept s0 ((f  t))) : Kept s0 (cfgAccess off eight f s) := by
  unfold cfgAccess
  repeat' (first
    | with_reducible assumption | with_reducible refine hf _ ?_
    | with_reducible refine Kept.snd ?_ (by assumption) | with_reducible refine Kept.fst ?_ (by assumption)
    | with_reducible refine Kept.snd2 ?_ (by assumption) | with_reducible refine Kept.snd3 ?_ (by assumption)
    | with_reducible refine Kept.eqSnd ?_ (by assumption) | with_reducible refine Kept.eqFst ?_ (by assumption)
    | with_reducible refine answer_kept ?_ | with_reducible (refine Kept.foldl ?_ (fun _ _ _ => ?_))
    | with_reducible (refine Kept.foldl2 ?_ (fun _ _ _ => ?_))
    | (fail_if_no_progress with_reducible (refine Kept.put ?_ rfl)) | split | (dsimp only))

end Sys2Proof.Laws
end

