-- ==== Sys2Proof/Laws/KeptLinks.lean ====
section
/-! SUPPORT. What the operations and meanings of links and the ply pair keep (Kept). -/
namespace Sys2Proof.Laws
open Sys2Proof Machine Safety

/-! ## Links -/

theorem changePort_kept {s0 : State} {p : Nat} {f : Port → Port} {s : State} (h : Kept s0 s) :
    Kept s0 (changePort p f s) := by
  unfold changePort
  repeat' (first
    | with_reducible assumption | with_reducible refine setPort_kept ?_
    | (fail_if_no_progress with_reducible (refine Kept.put ?_ rfl)) | split | (dsimp only))

theorem loseFetch_kept {s0 : State} {f : Fetch} {s : State} (h : Kept s0 s) : Kept s0 (loseFetch f s) := by
  unfold loseFetch
  repeat' (first
    | with_reducible assumption | with_reducible refine deployGiveUp_kept ?_
    | with_reducible refine failMove_kept ?_ | (fail_if_no_progress with_reducible (refine Kept.put ?_ rfl))
    | split | (dsimp only))

theorem rerouteFetches_kept {s0 : State} {p : Nat} {s : State} (h : Kept s0 s) : Kept s0 (rerouteFetches p s) := by
  unfold rerouteFetches
  repeat' (first
    | with_reducible assumption | with_reducible refine loseFetch_kept ?_
    | with_reducible refine pumpFetches_kept ?_ | with_reducible (refine Kept.foldl ?_ (fun _ _ _ => ?_))
    | (fail_if_no_progress with_reducible (refine Kept.put ?_ rfl)) | split)

theorem portDown_kept {s0 : State} {p reason : Nat} {retry : Option Nat} {s : State} (h : Kept s0 s) :
    Kept s0 (portDown p reason retry s) := by
  unfold portDown
  repeat' (first
    | with_reducible assumption | with_reducible refine bump_kept ?_ | with_reducible refine changePort_kept ?_
    | with_reducible refine closeChannels_kept ?_ | with_reducible refine faultPanel_kept ?_
    | with_reducible refine modPort_kept ?_ | with_reducible refine rerouteFetches_kept ?_
    | with_reducible refine syncPartner_kept ?_ | with_reducible (refine Kept.foldl ?_ (fun _ _ _ => ?_)) | split
    | (dsimp only))

theorem beginTraining_kept {s0 : State} {p : Nat} {s : State} (h : Kept s0 s) : Kept s0 (beginTraining p s) := by
  unfold beginTraining
  repeat' (first
    | with_reducible assumption | with_reducible refine Kept.snd ?_ (by assumption)
    | with_reducible refine Kept.fst ?_ (by assumption) | with_reducible refine Kept.snd2 ?_ (by assumption)
    | with_reducible refine Kept.snd3 ?_ (by assumption) | with_reducible refine Kept.eqSnd ?_ (by assumption)
    | with_reducible refine Kept.eqFst ?_ (by assumption) | with_reducible refine changePort_kept ?_
    | with_reducible (refine Kept.foldl ?_ (fun _ _ _ => ?_))
    | with_reducible (refine Kept.foldl2 ?_ (fun _ _ _ => ?_))
    | (fail_if_no_progress with_reducible (refine Kept.put ?_ rfl)) | split | (dsimp only))

theorem trainFail_kept {s0 : State} {p reason : Nat} {s : State} (h : Kept s0 s) :
    Kept s0 (trainFail p reason s) := by
  unfold trainFail
  repeat' (first
    | with_reducible assumption | with_reducible refine portDown_kept ?_)

theorem execSignalLoss_kept {s0 : State} {port : Fin 18} {s : State} {out : State} (h : Kept s0 s)
    (e : execSignalLoss port s = .next out) : Kept s0 out := by
  unfold execSignalLoss at e
  injection e with e
  subst e
  repeat' (first
    | with_reducible assumption | with_reducible refine portDown_kept ?_ | split)

theorem execLinkSilenceTimeout_kept {s0 : State} {port : Fin 18} {s : State} {out : State} (h : Kept s0 s)
    (e : execLinkSilenceTimeout port s = .next out) : Kept s0 out := by
  unfold execLinkSilenceTimeout at e
  injection e with e
  subst e
  repeat' (first
    | with_reducible assumption | with_reducible refine freeNat_kept ?_ | with_reducible refine portDown_kept ?_
    | split)

theorem lnkCtrl_kept {s0 : State} {v : BitVec 32} {s : State} (h : Kept s0 s) : Kept s0 (lnkCtrl v s) := by
  unfold lnkCtrl
  repeat' (first
    | with_reducible assumption | with_reducible refine modPort_kept ?_ | with_reducible refine portDown_kept ?_
    | with_reducible (refine Kept.foldl ?_ (fun _ _ _ => ?_))
    | (fail_if_no_progress with_reducible (refine Kept.put ?_ rfl)) | split)

theorem rackIdChanged_kept {s0 s : State} (h : Kept s0 s) : Kept s0 (rackIdChanged s) := by
  unfold rackIdChanged
  repeat' (first
    | with_reducible assumption | with_reducible refine beginTraining_kept ?_
    | with_reducible (refine Kept.foldl ?_ (fun _ _ _ => ?_)) | split | (dsimp only))

theorem execSignalDetect_kept {s0 : State} {port : Fin 18} {s : State} {out : State} (h : Kept s0 s)
    (e : execSignalDetect port s = .next out) : Kept s0 out := by
  unfold execSignalDetect at e
  injection e with e
  subst e
  repeat' (first
    | with_reducible assumption | with_reducible refine beginTraining_kept ?_
    | with_reducible refine changePort_kept ?_ | split)

theorem execEqualisationDone_kept {s0 : State} {port : Fin 18} {failed : BitVec 4} {s : State} {out : State} (h :
    Kept s0 s) (e : execEqualisationDone port failed s = .next out) : Kept s0 out := by
  unfold execEqualisationDone at e
  injection e with e
  subst e
  repeat' (first
    | with_reducible assumption | with_reducible refine changePort_kept ?_
    | with_reducible refine trainFail_kept ?_ | split)

theorem execAlignLock_kept {s0 : State} {port : Fin 18} {s : State} {out : State} (h : Kept s0 s)
    (e : execAlignLock port s = .next out) : Kept s0 out := by
  unfold execAlignLock at e
  injection e with e
  subst e
  repeat' (first
    | with_reducible assumption | with_reducible refine changePort_kept ?_ | split)

theorem execTrainingTimeout_kept {s0 : State} {port : Fin 18} {s : State} {out : State} (h : Kept s0 s)
    (e : execTrainingTimeout port s = .next out) : Kept s0 out := by
  unfold execTrainingTimeout at e
  injection e with e
  subst e
  repeat' (first
    | with_reducible assumption | with_reducible refine freeNat_kept ?_ | with_reducible refine trainFail_kept ?_
    | split)

theorem execTrainingRetry_kept {s0 : State} {port : Fin 18} {s : State} {out : State} (h : Kept s0 s)
    (e : execTrainingRetry port s = .next out) : Kept s0 out := by
  unfold execTrainingRetry at e
  injection e with e
  subst e
  repeat' (first
    | with_reducible assumption | with_reducible refine beginTraining_kept ?_ | split)

theorem sendNulls_kept {s0 : State} {p n : Nat} {x2 : State} (h : Kept s0 x2) : Kept s0 (sendNulls p n x2) := by
  fun_induction sendNulls p n x2 <;> (repeat' (first
    | with_reducible assumption | with_reducible refine sendFlit_kept ?_
    | with_reducible apply_assumption -exfalso))

theorem resendFlit_kept {s0 : State} {p : Nat} {x1 : BitVec 16 × Flit × Nat} {s : State} (h : Kept s0 s) :
    Kept s0 (resendFlit p x1 s) := by
  unfold resendFlit
  repeat' (first
    | with_reducible assumption | with_reducible refine Kept.snd ?_ (by assumption)
    | with_reducible refine Kept.fst ?_ (by assumption) | with_reducible refine Kept.snd2 ?_ (by assumption)
    | with_reducible refine Kept.snd3 ?_ (by assumption) | with_reducible refine Kept.eqSnd ?_ (by assumption)
    | with_reducible refine Kept.eqFst ?_ (by assumption) | with_reducible refine emitOut_kept ?_
    | with_reducible refine stampFlit_kept ?_ | with_reducible (refine Kept.foldl ?_ (fun _ _ _ => ?_))
    | with_reducible (refine Kept.foldl2 ?_ (fun _ _ _ => ?_))
    | (fail_if_no_progress with_reducible (refine Kept.put ?_ rfl)) | split | (dsimp only))

theorem resendAll_kept {s0 : State} {p : Nat} {s : State} (h : Kept s0 s) : Kept s0 (resendAll p s) := by
  unfold resendAll
  repeat' (first
    | with_reducible assumption | with_reducible refine bump_kept ?_ | with_reducible refine modPort_kept ?_
    | with_reducible refine resendFlit_kept ?_ | with_reducible (refine Kept.foldl ?_ (fun _ _ _ => ?_)))

theorem applyCrn_kept {s0 : State} {p ch crn : Nat} {s : State} (h : Kept s0 s) : Kept s0 (applyCrn p ch crn s) := by
  unfold applyCrn
  repeat' (first
    | with_reducible assumption | with_reducible refine drainResends_kept ?_
    | with_reducible refine modUnit_kept ?_ | with_reducible refine pumpRoutes_kept ?_
    | with_reducible refine setPort_kept ?_ | with_reducible (refine Kept.foldl ?_ (fun _ _ _ => ?_)) | split
    | (dsimp only))

theorem applyReturns_kept {s0 : State} {p : Nat} {f : Flit} {s : State} (h : Kept s0 s) :
    Kept s0 (applyReturns p f s) := by
  unfold applyReturns
  repeat' (first
    | with_reducible assumption | with_reducible refine applyCrn_kept ?_
    | with_reducible refine drainResends_kept ?_ | with_reducible refine drainService_kept ?_
    | with_reducible refine modPort_kept ?_ | with_reducible refine pumpRoutes_kept ?_
    | with_reducible refine resendAll_kept ?_ | split)

theorem gotCodewords_kept {s0 : State} {p : Nat} {c : Fec} {s : State} (h : Kept s0 s) :
    Kept s0 (gotCodewords p c s) := by
  unfold gotCodewords
  repeat' (first
    | with_reducible assumption | with_reducible refine Kept.snd ?_ (by assumption)
    | with_reducible refine Kept.fst ?_ (by assumption) | with_reducible refine Kept.snd2 ?_ (by assumption)
    | with_reducible refine Kept.snd3 ?_ (by assumption) | with_reducible refine Kept.eqSnd ?_ (by assumption)
    | with_reducible refine Kept.eqFst ?_ (by assumption) | with_reducible refine bump_kept ?_
    | with_reducible refine modPort_kept ?_ | with_reducible (refine Kept.foldl ?_ (fun _ _ _ => ?_))
    | with_reducible (refine Kept.foldl2 ?_ (fun _ _ _ => ?_))
    | (fail_if_no_progress with_reducible (refine Kept.put ?_ rfl)) | split | (dsimp only))

theorem discardFlit_kept {s0 : State} {p : Nat} {s : State} (h : Kept s0 s) : Kept s0 (discardFlit p s) := by
  unfold discardFlit
  repeat' (first
    | with_reducible assumption | with_reducible refine modPort_kept ?_ | with_reducible refine sendNulls_kept ?_
    | split)

theorem execNullFlit_kept {s0 : State} {port : Fin 18} {r : RxFlit} {s : State} {out : State} (h : Kept s0 s)
    (e : execNullFlit port r s = .next out) : Kept s0 out := by
  unfold execNullFlit at e
  injection e with e
  subst e
  repeat' (first
    | with_reducible assumption | with_reducible refine applyReturns_kept ?_ | with_reducible refine bump_kept ?_
    | with_reducible refine discardFlit_kept ?_ | with_reducible refine gotCodewords_kept ?_ | split)

theorem execNakRepeat_kept {s0 : State} {port : Fin 18} {s : State} {out : State} (h : Kept s0 s)
    (e : execNakRepeat port s = .next out) : Kept s0 out := by
  unfold execNakRepeat at e
  injection e with e
  subst e
  repeat' (first
    | with_reducible assumption | with_reducible refine modPort_kept ?_ | with_reducible refine sendNulls_kept ?_
    | split)

theorem sendHello_kept {s0 : State} {p : Nat} {s : State} (h : Kept s0 s) : Kept s0 (sendHello p s) := by
  unfold sendHello
  repeat' (first
    | with_reducible assumption | with_reducible refine sendFlit_kept ?_)

theorem newSession_kept {s0 : State} {p : Nat} {s : State} (h : Kept s0 s) : Kept s0 (newSession p s) := by
  unfold newSession
  repeat' (first
    | with_reducible assumption | with_reducible refine bump_kept ?_ | with_reducible refine modPort_kept ?_
    | with_reducible refine sendService_kept ?_ | with_reducible (refine Kept.foldl ?_ (fun _ _ _ => ?_)))

theorem resumeSession_kept {s0 : State} {p : Nat} {s : State} (h : Kept s0 s) : Kept s0 (resumeSession p s) := by
  unfold resumeSession
  repeat' (first
    | with_reducible assumption | with_reducible refine bump_kept ?_ | with_reducible refine modPort_kept ?_
    | with_reducible refine resendAll_kept ?_)

theorem portUp_kept {s0 : State} {p : Nat} {s : State} (h : Kept s0 s) : Kept s0 (portUp p s) := by
  unfold portUp
  repeat' (first
    | with_reducible assumption | with_reducible refine changePort_kept ?_
    | with_reducible refine drainService_kept ?_ | with_reducible refine newSession_kept ?_
    | with_reducible refine pumpRoutes_kept ?_ | with_reducible refine resumeSession_kept ?_
    | with_reducible refine syncPartner_kept ?_ | split)

theorem endHello_kept {s0 : State} {p : Nat} {s : State} (h : Kept s0 s) : Kept s0 (endHello p s) := by
  unfold endHello
  repeat' (first
    | with_reducible assumption | with_reducible refine portUp_kept ?_ | split | (dsimp only))

theorem execHelloSend_kept {s0 : State} {port : Fin 18} {s : State} {out : State} (h : Kept s0 s)
    (e : execHelloSend port s = .next out) : Kept s0 out := by
  unfold execHelloSend at e
  injection e with e
  subst e
  repeat' (first
    | with_reducible assumption | with_reducible refine endHello_kept ?_ | with_reducible refine modPort_kept ?_
    | with_reducible refine sendHello_kept ?_ | split)

theorem execHello_kept {s0 : State} {port : Fin 18} {r : RxFlit} {s : State} {out : State} (h : Kept s0 s)
    (e : execHello port r s = .next out) : Kept s0 out := by
  unfold execHello at e
  injection e with e
  subst e
  repeat' (first
    | with_reducible assumption | with_reducible refine bump_kept ?_ | with_reducible refine endHello_kept ?_
    | with_reducible refine gotCodewords_kept ?_ | with_reducible refine modPort_kept ?_
    | with_reducible refine trainFail_kept ?_ | split | (dsimp only))

theorem strandSlot_kept {s0 : State} {p ch ty : Nat} {b : Beat} {s : State} (h : Kept s0 s) :
    Kept s0 (strandSlot p ch ty b s) := by
  unfold strandSlot
  repeat' (first
    | with_reducible assumption | with_reducible refine bump_kept ?_ | with_reducible refine modRecv_kept ?_
    | with_reducible refine pumpRecv_kept ?_ | split)

theorem dropFetch_kept {s0 : State} {f : Fetch} {s : State} (h : Kept s0 s) : Kept s0 (dropFetch f s) := by
  unfold dropFetch
  repeat' (first
    | with_reducible assumption | (fail_if_no_progress with_reducible (refine Kept.put ?_ rfl)))

theorem setFetch_kept {s0 : State} {f g : Fetch} {s : State} (h : Kept s0 s) : Kept s0 (setFetch f g s) := by
  unfold setFetch
  repeat' (first
    | with_reducible assumption | (fail_if_no_progress with_reducible (refine Kept.put ?_ rfl)))

theorem fetchBytes_kept {s0 : State} {f : Fetch} {l : List Byte} {s : State} (h : Kept s0 s) :
    Kept s0 (fetchBytes f l s) := by
  unfold fetchBytes
  repeat' (first
    | with_reducible assumption | with_reducible refine deployBytes_kept ?_
    | with_reducible refine setMove_kept ?_ | split)

theorem gotFetchData_kept {s0 : State} {p : Nat} {x1 : Rec64} {bytes : List Byte} {s : State} (h : Kept s0 s) :
    Kept s0 (gotFetchData p x1 bytes s) := by
  unfold gotFetchData
  repeat' (first
    | with_reducible assumption | with_reducible refine bump_kept ?_ | with_reducible refine dropFetch_kept ?_
    | with_reducible refine fetchBytes_kept ?_ | with_reducible refine pumpFetches_kept ?_ | split)

theorem gotFetchRefuse_kept {s0 : State} {p : Nat} {x1 : Rec64} {s : State} (h : Kept s0 s) :
    Kept s0 (gotFetchRefuse p x1 s) := by
  unfold gotFetchRefuse
  repeat' (first
    | with_reducible assumption | with_reducible refine loseFetch_kept ?_
    | with_reducible refine pumpFetches_kept ?_ | with_reducible refine setFetch_kept ?_ | split)

theorem execFetchBusyRetry_kept {s0 : State} {port : Fin 18} {tag : BitVec 16} {s : State} {out : State} (h :
    Kept s0 s) (e : execFetchBusyRetry port tag s = .next out) : Kept s0 out := by
  unfold execFetchBusyRetry at e
  injection e with e
  subst e
  repeat' (first
    | with_reducible assumption | with_reducible refine sendService_kept ?_
    | with_reducible refine setFetch_kept ?_ | split)

theorem gotReadData_kept {s0 : State} {p : Nat} {x1 : Rec64} {bytes : List Byte} {s : State} (h : Kept s0 s) :
    Kept s0 (gotReadData p x1 bytes s) := by
  unfold gotReadData
  repeat' (first
    | with_reducible assumption | with_reducible refine bump_kept ?_ | with_reducible refine fetchBytes_kept ?_
    | with_reducible refine setFetch_kept ?_ | split)

theorem gotReadStatus_kept {s0 : State} {p : Nat} {x1 : Rec64} {s : State} (h : Kept s0 s) :
    Kept s0 (gotReadStatus p x1 s) := by
  unfold gotReadStatus
  repeat' (first
    | with_reducible assumption | with_reducible refine dropFetch_kept ?_
    | with_reducible refine loseFetch_kept ?_ | with_reducible refine pumpFetches_kept ?_ | split)

theorem serveFetch_kept {s0 : State} {p : Nat} {x1 : Rec64} {mediaError : Bool} {s : State} (h : Kept s0 s) :
    Kept s0 (serveFetch p x1 mediaError s) := by
  unfold serveFetch
  repeat' (first
    | with_reducible assumption | with_reducible refine bump_kept ?_ | with_reducible refine cacheLooks_kept ?_
    | with_reducible refine countT3Reads_kept ?_ | with_reducible refine modPort_kept ?_
    | with_reducible refine sendService_kept ?_ | with_reducible (refine Kept.foldl ?_ (fun _ _ _ => ?_)) | split
    | (dsimp only))

theorem gotOpen_kept {s0 : State} {p : Nat} {x1 : Rec64} {s : State} (h : Kept s0 s) : Kept s0 (gotOpen p x1 s) := by
  unfold gotOpen
  repeat' (first
    | with_reducible assumption | with_reducible refine bump_kept ?_ | with_reducible refine modPort_kept ?_
    | with_reducible refine pumpRoutes_kept ?_ | split | (dsimp only))

theorem gotClose_kept {s0 : State} {p : Nat} {x1 : Rec64} {s : State} (h : Kept s0 s) :
    Kept s0 (gotClose p x1 s) := by
  unfold gotClose
  repeat' (first
    | with_reducible assumption | with_reducible refine bump_kept ?_ | with_reducible refine modPort_kept ?_
    | split | (dsimp only))

theorem gotResend_kept {s0 : State} {p : Nat} {x1 : Rec64} {s : State} (h : Kept s0 s) :
    Kept s0 (gotResend p x1 s) := by
  unfold gotResend
  repeat' (first
    | with_reducible assumption | with_reducible refine bump_kept ?_ | with_reducible refine drainResends_kept ?_
    | with_reducible refine modPort_kept ?_ | with_reducible refine sendService_kept ?_
    | with_reducible (refine Kept.foldl ?_ (fun _ _ _ => ?_)) | split | (dsimp only))

theorem svcCmd_kept {s0 : State} {p op : Nat} {m : Rec64} {f : State → State} {s : State} (h : Kept s0 s)
    (hf : ∀ t, Kept s0 t → Kept s0 ((f  t))) : Kept s0 (svcCmd p op m f s) := by
  unfold svcCmd
  repeat' (first
    | with_reducible assumption | with_reducible refine hf _ ?_ | with_reducible refine bump_kept ?_ | split)

theorem execChannelOpen_kept {s0 : State} {port : Fin 18} {m : Rec64} {s : State} {out : State} (h : Kept s0 s)
    (e : execChannelOpen port m s = .next out) : Kept s0 out := by
  unfold execChannelOpen at e
  injection e with e
  subst e
  repeat' (first
    | with_reducible assumption | with_reducible refine gotOpen_kept ?_
    | with_reducible refine svcCmd_kept ?_ (fun _ _ => ?_))

theorem execChannelClose_kept {s0 : State} {port : Fin 18} {m : Rec64} {s : State} {out : State} (h : Kept s0 s)
    (e : execChannelClose port m s = .next out) : Kept s0 out := by
  unfold execChannelClose at e
  injection e with e
  subst e
  repeat' (first
    | with_reducible assumption | with_reducible refine gotClose_kept ?_
    | with_reducible refine svcCmd_kept ?_ (fun _ _ => ?_))

theorem execFetchReq_kept {s0 : State} {port : Fin 18} {m : Rec64} {mediaError : Bool} {s : State} {out : State}
    (h : Kept s0 s) (e : execFetchReq port m mediaError s = .next out) : Kept s0 out := by
  unfold execFetchReq at e
  injection e with e
  subst e
  repeat' (first
    | with_reducible assumption | with_reducible refine serveFetch_kept ?_
    | with_reducible refine svcCmd_kept ?_ (fun _ _ => ?_))

theorem execFetchData_kept {s0 : State} {port : Fin 18} {m : Rec64} {bytes : List Byte} {s : State} {out : State}
    (h : Kept s0 s) (e : execFetchData port m bytes s = .next out) : Kept s0 out := by
  unfold execFetchData at e
  injection e with e
  subst e
  repeat' (first
    | with_reducible assumption | with_reducible refine gotFetchData_kept ?_
    | with_reducible refine svcCmd_kept ?_ (fun _ _ => ?_))

theorem execFetchRefuse_kept {s0 : State} {port : Fin 18} {m : Rec64} {s : State} {out : State} (h : Kept s0 s)
    (e : execFetchRefuse port m s = .next out) : Kept s0 out := by
  unfold execFetchRefuse at e
  injection e with e
  subst e
  repeat' (first
    | with_reducible assumption | with_reducible refine gotFetchRefuse_kept ?_
    | with_reducible refine svcCmd_kept ?_ (fun _ _ => ?_))

theorem execReadData_kept {s0 : State} {port : Fin 18} {m : Rec64} {bytes : List Byte} {s : State} {out : State}
    (h : Kept s0 s) (e : execReadData port m bytes s = .next out) : Kept s0 out := by
  unfold execReadData at e
  injection e with e
  subst e
  repeat' (first
    | with_reducible assumption | with_reducible refine gotReadData_kept ?_
    | with_reducible refine svcCmd_kept ?_ (fun _ _ => ?_))

theorem execReadStatus_kept {s0 : State} {port : Fin 18} {m : Rec64} {s : State} {out : State} (h : Kept s0 s)
    (e : execReadStatus port m s = .next out) : Kept s0 out := by
  unfold execReadStatus at e
  injection e with e
  subst e
  repeat' (first
    | with_reducible assumption | with_reducible refine gotReadStatus_kept ?_
    | with_reducible refine svcCmd_kept ?_ (fun _ _ => ?_))

theorem execResendReq_kept {s0 : State} {port : Fin 18} {m : Rec64} {s : State} {out : State} (h : Kept s0 s)
    (e : execResendReq port m s = .next out) : Kept s0 out := by
  unfold execResendReq at e
  injection e with e
  subst e
  repeat' (first
    | with_reducible assumption | with_reducible refine gotResend_kept ?_
    | with_reducible refine svcCmd_kept ?_ (fun _ _ => ?_))

theorem gotMailWord_kept {s0 : State} {c : Nat} {w : BitVec 32} {s : State} (h : Kept s0 s) :
    Kept s0 (gotMailWord c w s) := by
  unfold gotMailWord
  repeat' (first
    | with_reducible assumption | with_reducible refine Kept.snd ?_ (by assumption)
    | with_reducible refine Kept.fst ?_ (by assumption) | with_reducible refine Kept.snd2 ?_ (by assumption)
    | with_reducible refine Kept.snd3 ?_ (by assumption) | with_reducible refine Kept.eqSnd ?_ (by assumption)
    | with_reducible refine Kept.eqFst ?_ (by assumption) | with_reducible refine bump_kept ?_
    | with_reducible refine lockRefusal_kept ?_ | with_reducible refine putWord_kept ?_
    | with_reducible (refine Kept.foldl ?_ (fun _ _ _ => ?_))
    | with_reducible (refine Kept.foldl2 ?_ (fun _ _ _ => ?_))
    | (fail_if_no_progress with_reducible (refine Kept.put ?_ rfl)) | split | (dsimp only))

theorem gotMailbox_kept {s0 : State} {m : Rec64} {words : List (BitVec 32)} {s : State} (h : Kept s0 s) :
    Kept s0 (gotMailbox m words s) := by
  unfold gotMailbox
  repeat' (first
    | with_reducible assumption | with_reducible refine gotMailWord_kept ?_
    | with_reducible (refine Kept.foldl ?_ (fun _ _ _ => ?_)) | split | (dsimp only))

theorem execMailbox_kept {s0 : State} {port : Fin 18} {m : Rec64} {words : List (BitVec 32)} {s : State}
    {out : State} (h : Kept s0 s) (e : execMailbox port m words s = .next out) : Kept s0 out := by
  unfold execMailbox at e
  injection e with e
  subst e
  repeat' (first
    | with_reducible assumption | with_reducible refine gotMailbox_kept ?_
    | with_reducible refine svcCmd_kept ?_ (fun _ _ => ?_))

/-! ## Ply -/

theorem setMirror_kept {s0 : State} {i : Nat} {m : Mirror} {s : State} (h : Kept s0 s) :
    Kept s0 (setMirror i m s) := by
  unfold setMirror
  repeat' (first
    | with_reducible assumption | (fail_if_no_progress with_reducible (refine Kept.put ?_ rfl)))

theorem modMirror_kept {s0 : State} {i : Nat} {f : Mirror → Mirror} {s : State} (h : Kept s0 s) :
    Kept s0 (modMirror i f s) := by
  unfold modMirror
  repeat' (first
    | with_reducible assumption | with_reducible refine setMirror_kept ?_ | split)

theorem freeMirrorHanks_kept {s0 : State} {m : Mirror} {s : State} (h : Kept s0 s) :
    Kept s0 (freeMirrorHanks m s) := by
  unfold freeMirrorHanks
  repeat' (first
    | with_reducible assumption | with_reducible refine freeAt_kept ?_
    | with_reducible (refine Kept.foldl ?_ (fun _ _ _ => ?_)))

theorem freeMirror_kept {s0 : State} {i : Nat} {s : State} (h : Kept s0 s) : Kept s0 (freeMirror i s) := by
  unfold freeMirror
  repeat' (first
    | with_reducible assumption | with_reducible refine freeMirrorHanks_kept ?_
    | (fail_if_no_progress with_reducible (refine Kept.put ?_ rfl)) | split)

theorem freeAllMirrors_kept {s0 s : State} (h : Kept s0 s) : Kept s0 (freeAllMirrors s) := by
  unfold freeAllMirrors
  repeat' (first
    | with_reducible assumption | with_reducible refine dropAlloc_kept ?_
    | with_reducible refine freeMirror_kept ?_ | with_reducible (refine Kept.foldl ?_ (fun _ _ _ => ?_))
    | (fail_if_no_progress with_reducible (refine Kept.put ?_ rfl)))

theorem trimMirror_kept {s0 : State} {n : Nat} {m : Mirror} {s : State} (h : Kept s0 s) :
    Kept s0 ((trimMirror n m s).2) := by
  unfold trimMirror
  repeat' (first
    | with_reducible assumption | with_reducible refine freeAt_kept ?_
    | with_reducible (refine Kept.foldl ?_ (fun _ _ _ => ?_)))

theorem sendBind_kept {s0 s : State} (h : Kept s0 s) : Kept s0 (sendBind s) := by
  unfold sendBind
  repeat' (first
    | with_reducible assumption | with_reducible refine lifelineRecs_kept ?_)

theorem sendResync_kept {s0 : State} {i : Nat} {s : State} (h : Kept s0 s) : Kept s0 (sendResync i s) := by
  unfold sendResync
  repeat' (first
    | with_reducible assumption | with_reducible refine bump_kept ?_ | with_reducible refine lifelineRecs_kept ?_
    | split)

theorem mirrorError_kept {s0 : State} {i : Nat} {s : State} (h : Kept s0 s) : Kept s0 (mirrorError i s) := by
  unfold mirrorError
  repeat' (first
    | with_reducible assumption | with_reducible refine bump_kept ?_ | with_reducible refine modMirror_kept ?_
    | with_reducible refine plyEvent_kept ?_ | with_reducible refine sendResync_kept ?_ | split)

theorem endHanded_kept {s0 s : State} (h : Kept s0 s) : Kept s0 (endHanded s) := by
  unfold endHanded
  repeat' (first
    | with_reducible assumption | with_reducible refine endNow_kept ?_ | with_reducible refine modSlot_kept ?_
    | with_reducible (refine Kept.foldl ?_ (fun _ _ _ => ?_)) | split)

theorem commitEvery_kept {s0 s : State} (h : Kept s0 s) : Kept s0 (commitEvery s) := by
  unfold commitEvery
  repeat' (first
    | with_reducible assumption | with_reducible refine commitAll_kept ?_
    | with_reducible (refine Kept.foldl ?_ (fun _ _ _ => ?_)))

theorem bindDone_kept {s0 : State} {status : Nat} {s : State} (h : Kept s0 s) : Kept s0 (bindDone status s) := by
  unfold bindDone
  repeat' (first
    | with_reducible assumption | with_reducible refine adminDone_kept ?_
    | (fail_if_no_progress with_reducible (refine Kept.put ?_ rfl)) | split)

theorem unbind_kept {s0 : State} {code : Nat} {s : State} (h : Kept s0 s) : Kept s0 (unbind code s) := by
  unfold unbind
  repeat' (first
    | with_reducible assumption | with_reducible refine bindDone_kept ?_
    | with_reducible refine commitEvery_kept ?_ | with_reducible refine freeAllMirrors_kept ?_
    | with_reducible refine plyEvent_kept ?_ | with_reducible refine syncPartner_kept ?_
    | (fail_if_no_progress with_reducible (refine Kept.put ?_ rfl)))

theorem releaseDone_kept {s0 s : State} (h : Kept s0 s) : Kept s0 (releaseDone s) := by
  unfold releaseDone
  repeat' (first
    | with_reducible assumption | with_reducible refine adminDone_kept ?_
    | (fail_if_no_progress with_reducible (refine Kept.put ?_ rfl)) | split)

theorem pairSettle_kept {s0 s : State} (h : Kept s0 s) : Kept s0 (pairSettle s) := by
  unfold pairSettle
  repeat' (first
    | with_reducible assumption | with_reducible refine bindDone_kept ?_ | with_reducible refine plyEvent_kept ?_
    | with_reducible refine releaseDone_kept ?_ | with_reducible refine unbind_kept ?_
    | (fail_if_no_progress with_reducible (refine Kept.put ?_ rfl)) | split | (dsimp only))

theorem enterSyncing_kept {s0 s : State} (h : Kept s0 s) : Kept s0 (enterSyncing s) := by
  unfold enterSyncing
  repeat' (first
    | with_reducible assumption | with_reducible refine catalogueNote_kept ?_
    | with_reducible refine lifelineRecs_kept ?_ | with_reducible refine sendBind_kept ?_
    | with_reducible refine snapshot_kept ?_ | with_reducible refine syncPartner_kept ?_
    | with_reducible (refine Kept.foldl ?_ (fun _ _ _ => ?_))
    | (fail_if_no_progress with_reducible (refine Kept.put ?_ rfl)) | split)

theorem enterReleasing_kept {s0 s : State} (h : Kept s0 s) : Kept s0 (enterReleasing s) := by
  unfold enterReleasing
  repeat' (first
    | with_reducible assumption | with_reducible refine endHanded_kept ?_
    | (fail_if_no_progress with_reducible (refine Kept.put ?_ rfl)))

theorem endAdopted_kept {s0 : State} {i status : Nat} {s : State} (h : Kept s0 s) :
    Kept s0 (endAdopted i status s) := by
  unfold endAdopted
  repeat' (first
    | with_reducible assumption | with_reducible refine bump_kept ?_ | with_reducible refine freeMirror_kept ?_
    | with_reducible refine pushTakeover_kept ?_ | with_reducible (refine Kept.foldl ?_ (fun _ _ _ => ?_)) | split)

theorem adoptPages_kept {s0 : State} {p i : Nat} {m : Mirror} {fuel j : Nat} {x5 : State} (h : Kept s0 x5) :
    Kept s0 ((adoptPages p i m fuel j x5).2) := by
  fun_induction adoptPages p i m fuel j x5 <;> (repeat' (first
    | with_reducible assumption | with_reducible refine Kept.snd ?_ (by assumption)
    | with_reducible refine Kept.fst ?_ (by assumption) | with_reducible refine Kept.snd2 ?_ (by assumption)
    | with_reducible refine Kept.snd3 ?_ (by assumption) | with_reducible refine Kept.eqSnd ?_ (by assumption)
    | with_reducible refine Kept.eqFst ?_ (by assumption) | with_reducible refine makeHomeless_kept ?_
    | with_reducible refine nextTile_kept ?_ | with_reducible refine takePages_kept ?_
    | with_reducible refine wr_kept ?_ | with_reducible (refine Kept.foldl ?_ (fun _ _ _ => ?_))
    | with_reducible apply_assumption -exfalso | split | (dsimp only)))

theorem adoptInto_kept {s0 : State} {i slot p : Nat} {m : Mirror} {s : State} (h : Kept s0 s) :
    Kept s0 (adoptInto i slot p m s) := by
  unfold adoptInto
  repeat' (first
    | with_reducible assumption | with_reducible refine Kept.snd ?_ (by assumption)
    | with_reducible refine Kept.fst ?_ (by assumption) | with_reducible refine Kept.snd2 ?_ (by assumption)
    | with_reducible refine Kept.snd3 ?_ (by assumption) | with_reducible refine Kept.eqSnd ?_ (by assumption)
    | with_reducible refine Kept.eqFst ?_ (by assumption) | with_reducible refine adoptPages_kept ?_
    | with_reducible refine bump_kept ?_ | with_reducible refine freeAt_kept ?_
    | with_reducible refine freeNat_kept ?_ | with_reducible refine modSlot_kept ?_
    | with_reducible refine pushStream_kept ?_ | with_reducible refine pushTakeover_kept ?_
    | with_reducible refine setSlot_kept ?_ | with_reducible refine snapshot_kept ?_
    | with_reducible refine writeRootPages_kept ?_ | with_reducible (refine Kept.foldl ?_ (fun _ _ _ => ?_))
    | (fail_if_no_progress with_reducible (refine Kept.put ?_ rfl)) | split)

theorem adoptWaits_kept {s0 : State} {i slot : Nat} {m : Mirror} {s : State} {out : State} (h : Kept s0 s)
    (e : adoptWaits i slot m s = some out) : Kept s0 out := by
  unfold adoptWaits at e
  repeat' (first | (cases e; done) | (split at e) | (dsimp only at e))
  all_goals first
    | (injection e with e; subst e)
    | obtain ⟨_, _, rfl⟩ := Option.map_eq_some_iff.mp e
    | skip
  all_goals repeat' (first
    | with_reducible assumption | with_reducible refine Kept.snd ?_ (by assumption)
    | with_reducible refine Kept.fst ?_ (by assumption) | with_reducible refine Kept.snd2 ?_ (by assumption)
    | with_reducible refine Kept.snd3 ?_ (by assumption) | with_reducible refine Kept.eqSnd ?_ (by assumption)
    | with_reducible refine Kept.eqFst ?_ (by assumption) | with_reducible refine submitReturn_kept ?_
    | with_reducible (refine Kept.foldl ?_ (fun _ _ _ => ?_))
    | with_reducible (refine Kept.foldl2 ?_ (fun _ _ _ => ?_))
    | (fail_if_no_progress with_reducible (refine Kept.put ?_ rfl)) | split | (dsimp only))

theorem adoptOne_kept {s0 : State} {i : Nat} {s : State} (h : Kept s0 s) : Kept s0 ((adoptOne i s).2) := by
  unfold adoptOne
  repeat' (first
    | with_reducible assumption | with_reducible refine adoptInto_kept ?_
    | with_reducible refine adoptWaits_kept ?_ (by assumption)
    | with_reducible refine Kept.getD ?_ (fun _ _ => ?_)
    | with_reducible refine Kept.ofFind (fun _ _ _ => ?_) (by assumption)
    | with_reducible refine endAdopted_kept ?_ | (fail_if_no_progress with_reducible (refine Kept.put ?_ rfl))
    | split)

theorem releaseLost_kept {s0 s : State} (h : Kept s0 s) : Kept s0 (releaseLost s) := by
  unfold releaseLost
  repeat' (first
    | with_reducible assumption | with_reducible refine unbind_kept ?_)

theorem takeoverAll_kept {s0 : State} {x0 : List Nat} {x1 : State} (h : Kept s0 x1) :
    Kept s0 ((takeoverAll x0 x1).2) := by
  fun_induction takeoverAll x0 x1 <;> (repeat' (first
    | with_reducible assumption | with_reducible refine Kept.snd ?_ (by assumption)
    | with_reducible refine Kept.fst ?_ (by assumption) | with_reducible refine Kept.snd2 ?_ (by assumption)
    | with_reducible refine Kept.snd3 ?_ (by assumption) | with_reducible refine Kept.eqSnd ?_ (by assumption)
    | with_reducible refine Kept.eqFst ?_ (by assumption) | with_reducible refine adoptOne_kept ?_
    | with_reducible (refine Kept.foldl ?_ (fun _ _ _ => ?_))
    | with_reducible (refine Kept.foldl2 ?_ (fun _ _ _ => ?_))
    | (fail_if_no_progress with_reducible (refine Kept.put ?_ rfl)) | with_reducible apply_assumption -exfalso
    | split | (dsimp only)))

theorem execTakeover_kept {s0 s : State} {out : State} (h : Kept s0 s) (e : execTakeover s = .next out) :
    Kept s0 out := by
  unfold execTakeover at e
  injection e with e
  subst e
  repeat' (first
    | with_reducible assumption | with_reducible refine Kept.snd ?_ (by assumption)
    | with_reducible refine Kept.fst ?_ (by assumption) | with_reducible refine Kept.snd2 ?_ (by assumption)
    | with_reducible refine Kept.snd3 ?_ (by assumption) | with_reducible refine Kept.eqSnd ?_ (by assumption)
    | with_reducible refine Kept.eqFst ?_ (by assumption) | with_reducible refine healthNotice_kept ?_
    | with_reducible refine plyEvent_kept ?_ | with_reducible refine releaseDone_kept ?_
    | with_reducible refine releaseLost_kept ?_ | with_reducible refine takeoverAll_kept ?_
    | with_reducible (refine Kept.foldl ?_ (fun _ _ _ => ?_))
    | with_reducible (refine Kept.foldl2 ?_ (fun _ _ _ => ?_))
    | (fail_if_no_progress with_reducible (refine Kept.put ?_ rfl)) | split | (dsimp only))

theorem gotHandover_kept {s0 : State} {i : Nat} {s : State} (h : Kept s0 s) : Kept s0 ((gotHandover i s).2) := by
  unfold gotHandover
  repeat' (first
    | with_reducible assumption | with_reducible refine adoptInto_kept ?_
    | with_reducible refine adoptWaits_kept ?_ (by assumption)
    | with_reducible refine Kept.getD ?_ (fun _ _ => ?_)
    | with_reducible refine Kept.ofFind (fun _ _ _ => ?_) (by assumption)
    | with_reducible refine lifelineRecs_kept ?_ | with_reducible refine plyEvent_kept ?_
    | (fail_if_no_progress with_reducible (refine Kept.put ?_ rfl)) | split)

theorem gotReply_kept {s0 : State} {i accepted : Nat} {s : State} (h : Kept s0 s) :
    Kept s0 (gotReply i accepted s) := by
  unfold gotReply
  repeat' (first
    | with_reducible assumption | with_reducible refine bump_kept ?_ | with_reducible refine endNow_kept ?_
    | with_reducible refine modSlot_kept ?_ | with_reducible refine plyEvent_kept ?_ | split)

theorem applyOpen_kept {s0 : State} {r : Rec64} {s : State} (h : Kept s0 s) : Kept s0 ((applyOpen r s).2) := by
  unfold applyOpen
  repeat' (first
    | with_reducible assumption | with_reducible refine Kept.snd ?_ (by assumption)
    | with_reducible refine Kept.fst ?_ (by assumption) | with_reducible refine Kept.snd2 ?_ (by assumption)
    | with_reducible refine Kept.snd3 ?_ (by assumption) | with_reducible refine Kept.eqSnd ?_ (by assumption)
    | with_reducible refine Kept.eqFst ?_ (by assumption) | with_reducible refine allocTry_kept ?_
    | with_reducible refine freeAt_kept ?_ | with_reducible refine setMirror_kept ?_ | split | (dsimp only))

theorem applyTokens_kept {s0 : State} {r : Rec64} {gen : Bool} {s : State} (h : Kept s0 s) :
    Kept s0 (applyTokens r gen s) := by
  unfold applyTokens
  repeat' (first
    | with_reducible assumption | with_reducible refine setMirror_kept ?_ | with_reducible refine wr_kept ?_
    | with_reducible (refine Kept.foldl ?_ (fun _ _ _ => ?_)) | split)

theorem applyState_kept {s0 : State} {r : Rec64} {s : State} (h : Kept s0 s) : Kept s0 (applyState r s) := by
  unfold applyState
  repeat' (first
    | with_reducible assumption | with_reducible refine freeMirror_kept ?_
    | with_reducible refine setMirror_kept ?_ | with_reducible refine trimMirror_kept ?_ | split | (dsimp only))

theorem applyCatalogue_kept {s0 : State} {r : Rec64} {s : State} (h : Kept s0 s) : Kept s0 (applyCatalogue r s) := by
  unfold applyCatalogue
  repeat' (first
    | with_reducible assumption | (fail_if_no_progress with_reducible (refine Kept.put ?_ rfl)))

theorem gotBind_kept {s0 : State} {r : Rec64} {s : State} (h : Kept s0 s) : Kept s0 (gotBind r s) := by
  unfold gotBind
  repeat' (first
    | with_reducible assumption | with_reducible refine enterSyncing_kept ?_ | split)

theorem recEffect_kept {s0 : State} {r : Rec64} {s : State} (h : Kept s0 s) : Kept s0 ((recEffect r s).2) := by
  unfold recEffect
  repeat' (first
    | with_reducible assumption | with_reducible refine Kept.snd ?_ (by assumption)
    | with_reducible refine Kept.fst ?_ (by assumption) | with_reducible refine Kept.snd2 ?_ (by assumption)
    | with_reducible refine Kept.snd3 ?_ (by assumption) | with_reducible refine Kept.eqSnd ?_ (by assumption)
    | with_reducible refine Kept.eqFst ?_ (by assumption) | with_reducible refine applyCatalogue_kept ?_
    | with_reducible refine applyOpen_kept ?_ | with_reducible refine applyState_kept ?_
    | with_reducible refine applyTokens_kept ?_ | with_reducible refine enterReleasing_kept ?_
    | with_reducible refine gotBind_kept ?_ | with_reducible refine gotHandover_kept ?_
    | with_reducible refine gotReply_kept ?_ | with_reducible refine mirrorError_kept ?_
    | with_reducible refine modMirror_kept ?_ | with_reducible refine pairSettle_kept ?_
    | with_reducible refine snapshot_kept ?_ | with_reducible (refine Kept.foldl ?_ (fun _ _ _ => ?_))
    | with_reducible (refine Kept.foldl2 ?_ (fun _ _ _ => ?_))
    | (fail_if_no_progress with_reducible (refine Kept.put ?_ rfl)) | split | (dsimp only))

theorem applyRec_kept {s0 : State} {r : Rec64} {s : State} (h : Kept s0 s) : Kept s0 ((applyRec r s).2) := by
  unfold applyRec
  repeat' (first
    | with_reducible assumption | with_reducible refine recEffect_kept ?_
    | with_reducible refine gotBind_kept ?_ | with_reducible refine mirrorError_kept ?_
    | with_reducible refine modMirror_kept ?_ | (fail_if_no_progress with_reducible (refine Kept.put ?_ rfl)) | split
    | (dsimp only))

theorem placeBulk_kept {s0 : State} {b : BulkWait} {l : List Byte} {s : State} (h : Kept s0 s) :
    Kept s0 ((placeBulk b l s).2) := by
  unfold placeBulk
  repeat' (first
    | with_reducible assumption | with_reducible refine Kept.snd ?_ (by assumption)
    | with_reducible refine Kept.fst ?_ (by assumption) | with_reducible refine Kept.snd2 ?_ (by assumption)
    | with_reducible refine Kept.snd3 ?_ (by assumption) | with_reducible refine Kept.eqSnd ?_ (by assumption)
    | with_reducible refine Kept.eqFst ?_ (by assumption) | with_reducible refine allocTry_kept ?_
    | with_reducible refine freeAt_kept ?_ | with_reducible refine mirrorError_kept ?_
    | with_reducible refine setMirror_kept ?_ | with_reducible refine touch_kept ?_
    | with_reducible refine wr_kept ?_ | split | (dsimp only))

theorem feedBulk_kept {s0 : State} {l : List Byte} {s : State} (h : Kept s0 s) : Kept s0 ((feedBulk l s).2) := by
  unfold feedBulk
  repeat' (first
    | with_reducible assumption | with_reducible refine Kept.snd ?_ (by assumption)
    | with_reducible refine Kept.fst ?_ (by assumption) | with_reducible refine Kept.snd2 ?_ (by assumption)
    | with_reducible refine Kept.snd3 ?_ (by assumption) | with_reducible refine Kept.eqSnd ?_ (by assumption)
    | with_reducible refine Kept.eqFst ?_ (by assumption) | with_reducible refine placeBulk_kept ?_
    | (fail_if_no_progress with_reducible (refine Kept.put ?_ rfl)) | split | (dsimp only))

theorem setRxQ_kept {s0 : State} {q : List (Option (BitVec 16) × Bool × List Byte)} {s : State} (h : Kept s0 s) :
    Kept s0 (setRxQ q s) := by
  unfold setRxQ
  repeat' (first
    | with_reducible assumption | (fail_if_no_progress with_reducible (refine Kept.put ?_ rfl)))

theorem popRx_kept {s0 : State} {tag : Option (BitVec 16)} {s : State} (h : Kept s0 s) : Kept s0 (popRx tag s) := by
  unfold popRx
  repeat' (first
    | with_reducible assumption | with_reducible refine lifelineMsg_kept ?_ | with_reducible refine setRxQ_kept ?_
    | (fail_if_no_progress with_reducible (refine Kept.put ?_ rfl)) | split)

theorem pumpRx_kept {s0 : State} {fuel : Nat} {x1 : State} (h : Kept s0 x1) : Kept s0 (pumpRx fuel x1) := by
  fun_induction pumpRx fuel x1 <;> (repeat' (first
    | with_reducible assumption | with_reducible refine Kept.snd ?_ (by assumption)
    | with_reducible refine Kept.fst ?_ (by assumption) | with_reducible refine Kept.snd2 ?_ (by assumption)
    | with_reducible refine Kept.snd3 ?_ (by assumption) | with_reducible refine Kept.eqSnd ?_ (by assumption)
    | with_reducible refine Kept.eqFst ?_ (by assumption) | with_reducible refine applyRec_kept ?_
    | with_reducible refine feedBulk_kept ?_ | with_reducible refine popRx_kept ?_
    | with_reducible refine setRxQ_kept ?_ | with_reducible apply_assumption -exfalso))

theorem receive_kept {s0 : State} {tag : Option (BitVec 16)} {bulk : Bool} {l : List Byte} {s : State} (h :
    Kept s0 s) : Kept s0 (receive tag bulk l s) := by
  unfold receive
  repeat' (first
    | with_reducible assumption | with_reducible refine pairSettle_kept ?_ | with_reducible refine pumpRx_kept ?_
    | (fail_if_no_progress with_reducible (refine Kept.put ?_ rfl)))

theorem gotAck_kept {s0 : State} {ack : Nat} {s : State} (h : Kept s0 s) : Kept s0 (gotAck ack s) := by
  unfold gotAck
  repeat' (first
    | with_reducible assumption | with_reducible refine commitOne_kept ?_
    | with_reducible refine lifelineDrain_kept ?_ | with_reducible refine pairSettle_kept ?_
    | with_reducible (refine Kept.foldl ?_ (fun _ _ _ => ?_))
    | (fail_if_no_progress with_reducible (refine Kept.put ?_ rfl)) | split)

theorem gotLifeline_kept {s0 : State} {x0 : Rec64} {data : List Byte} {s : State} (h : Kept s0 s) :
    Kept s0 (gotLifeline x0 data s) := by
  unfold gotLifeline
  repeat' (first
    | with_reducible assumption | with_reducible refine bump_kept ?_ | with_reducible refine gotAck_kept ?_
    | with_reducible refine plyEvent_kept ?_ | with_reducible refine receive_kept ?_
    | (fail_if_no_progress with_reducible (refine Kept.put ?_ rfl)) | split | (dsimp only))

theorem execLifeline_kept {s0 : State} {port : Fin 18} {m : Rec64} {records : List Rec64} {bulk : List Byte}
    {s : State} {out : State} (h : Kept s0 s) (e : execLifeline port m records bulk s = .next out) : Kept s0 out := by
  unfold execLifeline at e
  injection e with e
  subst e
  repeat' (first
    | with_reducible assumption | with_reducible refine gotLifeline_kept ?_
    | with_reducible refine svcCmd_kept ?_ (fun _ _ => ?_))

theorem gotRec_kept {s0 : State} {kind : Nat} {r : Rec64} {bulk : List Byte} {s : State} (h : Kept s0 s) :
    Kept s0 (gotRec kind r bulk s) := by
  unfold gotRec
  repeat' (first
    | with_reducible assumption | with_reducible refine receive_kept ?_ | split)

theorem execBindRec_kept {s0 : State} {r : Rec64} {s : State} {out : State} (h : Kept s0 s)
    (e : execBindRec r s = .next out) : Kept s0 out := by
  unfold execBindRec at e
  injection e with e
  subst e
  repeat' (first
    | with_reducible assumption | with_reducible refine gotRec_kept ?_)

theorem execSyncDone_kept {s0 : State} {r : Rec64} {s : State} {out : State} (h : Kept s0 s)
    (e : execSyncDone r s = .next out) : Kept s0 out := by
  unfold execSyncDone at e
  injection e with e
  subst e
  repeat' (first
    | with_reducible assumption | with_reducible refine gotRec_kept ?_)

theorem execReleaseRec_kept {s0 : State} {r : Rec64} {s : State} {out : State} (h : Kept s0 s)
    (e : execReleaseRec r s = .next out) : Kept s0 out := by
  unfold execReleaseRec at e
  injection e with e
  subst e
  repeat' (first
    | with_reducible assumption | with_reducible refine gotRec_kept ?_)

theorem execOpenRec_kept {s0 : State} {r : Rec64} {s : State} {out : State} (h : Kept s0 s)
    (e : execOpenRec r s = .next out) : Kept s0 out := by
  unfold execOpenRec at e
  injection e with e
  subst e
  repeat' (first
    | with_reducible assumption | with_reducible refine gotRec_kept ?_)

theorem execTokens_kept {s0 : State} {r : Rec64} {s : State} {out : State} (h : Kept s0 s)
    (e : execTokens r s = .next out) : Kept s0 out := by
  unfold execTokens at e
  injection e with e
  subst e
  repeat' (first
    | with_reducible assumption | with_reducible refine gotRec_kept ?_)

theorem execGenerated_kept {s0 : State} {r : Rec64} {s : State} {out : State} (h : Kept s0 s)
    (e : execGenerated r s = .next out) : Kept s0 out := by
  unfold execGenerated at e
  injection e with e
  subst e
  repeat' (first
    | with_reducible assumption | with_reducible refine gotRec_kept ?_)

theorem execStateRec_kept {s0 : State} {r : Rec64} {s : State} {out : State} (h : Kept s0 s)
    (e : execStateRec r s = .next out) : Kept s0 out := by
  unfold execStateRec at e
  injection e with e
  subst e
  repeat' (first
    | with_reducible assumption | with_reducible refine gotRec_kept ?_)

theorem execBulk_kept {s0 : State} {r : Rec64} {bytes : List Byte} {s : State} {out : State} (h : Kept s0 s)
    (e : execBulk r bytes s = .next out) : Kept s0 out := by
  unfold execBulk at e
  injection e with e
  subst e
  repeat' (first
    | with_reducible assumption | with_reducible refine gotRec_kept ?_)

theorem execCatalogueRec_kept {s0 : State} {r : Rec64} {s : State} {out : State} (h : Kept s0 s)
    (e : execCatalogueRec r s = .next out) : Kept s0 out := by
  unfold execCatalogueRec at e
  injection e with e
  subst e
  repeat' (first
    | with_reducible assumption | with_reducible refine gotRec_kept ?_)

theorem execResync_kept {s0 : State} {r : Rec64} {s : State} {out : State} (h : Kept s0 s)
    (e : execResync r s = .next out) : Kept s0 out := by
  unfold execResync at e
  injection e with e
  subst e
  repeat' (first
    | with_reducible assumption | with_reducible refine gotRec_kept ?_)

theorem execHandover_kept {s0 : State} {r : Rec64} {s : State} {out : State} (h : Kept s0 s)
    (e : execHandover r s = .next out) : Kept s0 out := by
  unfold execHandover at e
  injection e with e
  subst e
  repeat' (first
    | with_reducible assumption | with_reducible refine gotRec_kept ?_)

theorem execHandoverReply_kept {s0 : State} {r : Rec64} {s : State} {out : State} (h : Kept s0 s)
    (e : execHandoverReply r s = .next out) : Kept s0 out := by
  unfold execHandoverReply at e
  injection e with e
  subst e
  repeat' (first
    | with_reducible assumption | with_reducible refine gotRec_kept ?_)

theorem execHeartbeatSend_kept {s0 s : State} {out : State} (h : Kept s0 s)
    (e : execHeartbeatSend s = .next out) : Kept s0 out := by
  unfold execHeartbeatSend at e
  injection e with e
  subst e
  repeat' (first
    | with_reducible assumption | with_reducible refine lifelineMsg_kept ?_
    | with_reducible refine pairSettle_kept ?_ | with_reducible refine pumpRx_kept ?_ | split)

theorem execMissedBeat_kept {s0 s : State} {out : State} (h : Kept s0 s) (e : execMissedBeat s = .next out) :
    Kept s0 out := by
  unfold execMissedBeat at e
  injection e with e
  subst e
  repeat' (first
    | with_reducible assumption | with_reducible refine bump_kept ?_
    | (fail_if_no_progress with_reducible (refine Kept.put ?_ rfl)) | split)

theorem dropLifeline_kept {s0 s : State} (h : Kept s0 s) : Kept s0 (dropLifeline s) := by
  unfold dropLifeline
  repeat' (first
    | with_reducible assumption | with_reducible refine Kept.snd ?_ (by assumption)
    | with_reducible refine Kept.fst ?_ (by assumption) | with_reducible refine Kept.snd2 ?_ (by assumption)
    | with_reducible refine Kept.snd3 ?_ (by assumption) | with_reducible refine Kept.eqSnd ?_ (by assumption)
    | with_reducible refine Kept.eqFst ?_ (by assumption) | with_reducible refine modPort_kept ?_
    | with_reducible (refine Kept.foldl ?_ (fun _ _ _ => ?_))
    | with_reducible (refine Kept.foldl2 ?_ (fun _ _ _ => ?_))
    | (fail_if_no_progress with_reducible (refine Kept.put ?_ rfl)) | split | (dsimp only))

theorem execPartnerLost_kept {s0 s : State} {out : State} (h : Kept s0 s) (e : execPartnerLost s = .next out) :
    Kept s0 out := by
  unfold execPartnerLost at e
  injection e with e
  subst e
  repeat' (first
    | with_reducible assumption | with_reducible refine bindDone_kept ?_ | with_reducible refine bump_kept ?_
    | with_reducible refine commitEvery_kept ?_ | with_reducible refine dropLifeline_kept ?_
    | with_reducible refine endHanded_kept ?_ | with_reducible refine freeAllMirrors_kept ?_
    | with_reducible refine healthNotice_kept ?_ | with_reducible refine plyEvent_kept ?_
    | with_reducible refine syncPartner_kept ?_ | (fail_if_no_progress with_reducible (refine Kept.put ?_ rfl))
    | split | (dsimp only))

theorem runPlyBind_kept {s0 : State} {id : Nat} {d : Rec64} {s : State} (h : Kept s0 s) :
    Kept s0 (runPlyBind id d s) := by
  unfold runPlyBind
  repeat' (first
    | with_reducible assumption | with_reducible refine adminDone_kept ?_ | with_reducible refine sendBind_kept ?_
    | with_reducible refine syncPartner_kept ?_ | (fail_if_no_progress with_reducible (refine Kept.put ?_ rfl))
    | split)

theorem execBindTimeout_kept {s0 s : State} {out : State} (h : Kept s0 s) (e : execBindTimeout s = .next out) :
    Kept s0 out := by
  unfold execBindTimeout at e
  injection e with e
  subst e
  repeat' (first
    | with_reducible assumption | with_reducible refine bindDone_kept ?_ | with_reducible refine unbind_kept ?_
    | split)

theorem runPlyRelease_kept {s0 : State} {id : Nat} {x1 : Rec64} {s : State} (h : Kept s0 s) :
    Kept s0 (runPlyRelease id x1 s) := by
  unfold runPlyRelease
  repeat' (first
    | with_reducible assumption | with_reducible refine adminDone_kept ?_
    | with_reducible refine enterReleasing_kept ?_ | with_reducible refine lifelineRecs_kept ?_
    | with_reducible refine pairSettle_kept ?_ | with_reducible refine releaseLost_kept ?_
    | (fail_if_no_progress with_reducible (refine Kept.put ?_ rfl)) | split)

/-! ## Flits -/

theorem svcDispatch_kept {s0 : State} {p : Nat} {x1 : Rec64} {data : List Byte} {s : State} (h : Kept s0 s) :
    Kept s0 (svcDispatch p x1 data s) := by
  unfold svcDispatch
  repeat' (first
    | with_reducible assumption | with_reducible refine gotClose_kept ?_
    | with_reducible refine gotFetchData_kept ?_ | with_reducible refine gotFetchRefuse_kept ?_
    | with_reducible refine gotLifeline_kept ?_ | with_reducible refine gotMailbox_kept ?_
    | with_reducible refine gotOpen_kept ?_ | with_reducible refine gotReadData_kept ?_
    | with_reducible refine gotReadStatus_kept ?_ | with_reducible refine gotResend_kept ?_
    | with_reducible refine serveFetch_kept ?_ | split)

theorem serviceSlot_kept {s0 : State} {p : Nat} {b : Beat} {s : State} (h : Kept s0 s) :
    Kept s0 (serviceSlot p b s) := by
  unfold serviceSlot
  repeat' (first
    | with_reducible assumption | with_reducible refine bump_kept ?_ | with_reducible refine modPort_kept ?_
    | with_reducible refine setPort_kept ?_ | with_reducible refine svcDispatch_kept ?_ | split | (dsimp only))

theorem slotIn_kept {s0 : State} {p ch ty : Nat} {b : Beat} {s : State} (h : Kept s0 s) :
    Kept s0 (slotIn p ch ty b s) := by
  unfold slotIn
  repeat' (first
    | with_reducible assumption | with_reducible refine bump_kept ?_ | with_reducible refine serviceSlot_kept ?_
    | with_reducible refine strandSlot_kept ?_ | split)

theorem execDataFlit_kept {s0 : State} {port : Fin 18} {f : Flit} {fec : Fec} {s : State} {out : State} (h :
    Kept s0 s) (e : execDataFlit port f fec s = .next out) : Kept s0 out := by
  unfold execDataFlit at e
  injection e with e
  subst e
  repeat' (first
    | with_reducible assumption | with_reducible refine applyReturns_kept ?_ | with_reducible refine bump_kept ?_
    | with_reducible refine discardFlit_kept ?_ | with_reducible refine gotCodewords_kept ?_
    | with_reducible refine modPort_kept ?_ | with_reducible refine sendNulls_kept ?_
    | with_reducible refine slotIn_kept ?_ | split | (dsimp only))

end Sys2Proof.Laws
end

