-- ==== Sys2Proof/Laws/KeptHost.lean ====
section
/-! SUPPORT. What the operations and meanings of power, start-up, registers, messages and admin commands keep (Kept). -/
namespace Sys2Proof.Laws
open Sys2Proof Machine Safety

/-! ## Power -/

theorem flushBlock_kept {s0 s : State} {st : Nat} (h : Kept s0 s) : Kept s0 (flushBlock st s) := by
  unfold flushBlock
  dsimp only
  generalize flushPlace (getStack s st).t3 = o
  cases o with
  | none => exact h
  | some p =>
    obtain ⟨ch, key⟩ := p
    dsimp only
    split
    · exact cleanBlock_kept h
    · exact programPages_kept (cleanBlock_kept h)

theorem flushBuffer_kept {s0 : State} {st fuel : Nat} {x2 : State} (h : Kept s0 x2) :
    Kept s0 (flushBuffer st fuel x2) := by
  fun_induction flushBuffer st fuel x2 <;> (repeat' (first
    | with_reducible assumption | with_reducible refine flushBlock_kept ?_
    | with_reducible apply_assumption -exfalso))

theorem flushBuffers_kept {s0 s : State} (h : Kept s0 s) : Kept s0 (flushBuffers s) := by
  unfold flushBuffers
  repeat' (first
    | with_reducible assumption | with_reducible refine flushBuffer_kept ?_
    | with_reducible (refine Kept.foldl ?_ (fun _ _ _ => ?_)))

/-- The register limits hold where they are those right after reset. -/
theorem fieldsOk_of_limits {t : State} (h : limits t = limits State.reset) : FieldsOk t := by
  simp only [limits, Prod.mk.injEq] at h
  obtain ⟨h1, h2, h3, h4, h5, h6⟩ := h
  unfold FieldsOk
  rw [h1, h2, h3, h4, h5, h6]
  decide

theorem restart_kept {s0 s : State} (h : Kept s0 s) : Kept s0 (restart s) := by
  unfold restart
  have k : Kept s0 (((flushBuffers s).catalogue.filter (!·.valid)).foldl (fun s e => freePieces e s) (flushBuffers
      s)) :=
    Kept.foldl (flushBuffers_kept h) fun _ _ ht => freePieces_kept ht
  dsimp only
  generalize
    ((flushBuffers s).catalogue.filter (!·.valid)).foldl (fun s e => freePieces e s) (flushBuffers s) = u at k
  exact k.trans ⟨rfl, Nat.le_refl _, BitVec.and_self, fun m => filter_wf _ m, fun _ => fieldsOk_of_limits rfl⟩

theorem setRails_kept {s0 : State} {n : Nat} {s : State} (h : Kept s0 s) : Kept s0 (setRails n s) := by
  unfold setRails
  repeat' (first
    | with_reducible assumption | (fail_if_no_progress with_reducible (refine Kept.put ?_ rfl)))

/-- A change of the boot flash and the bank-select record alone. -/
theorem Kept.flash {a t u : State} (h : Kept a t) (hp : u.pending = t.pending) (hs : u.nv.svn = t.nv.svn)
    (hr : u.nv.revoked = t.nv.revoked) (hm : u.mem = t.mem) (hf : limits u = limits t) : Kept a u := by
  refine h.trans ⟨hp, Nat.le_of_eq hs.symm, by rw [hr]; exact BitVec.and_self, ?_, ?_⟩
  · unfold MemOk; rw [hm]; exact id
  · simp only [limits, Prod.mk.injEq] at hf
    obtain ⟨h1, h2, h3, h4, h5, h6⟩ := hf
    unfold FieldsOk; rw [h1, h2, h3, h4, h5, h6]; exact id

theorem writeOther_kept {s0 s : State} {img : FwImage} (h : Kept s0 s) : Kept s0 (writeOther img s) := by
  unfold writeOther
  split
  · exact h.flash rfl rfl rfl rfl rfl
  · exact h.flash rfl rfl rfl rfl rfl

theorem moduleReset_kept {s0 s : State} (h : Kept s0 s) : Kept s0 (moduleReset s) := by
  unfold moduleReset
  have k : Kept s0 (restart (if s.boot.updImg.isSome then writeOther spoiltBank s else s)) := by
    refine restart_kept ?_
    split
    · exact writeOther_kept h
    · exact h
  dsimp only
  generalize restart (if s.boot.updImg.isSome then writeOther spoiltBank s else s) = r at k
  exact setRails_kept (k.upd rfl rfl rfl rfl)

theorem inputLoss_kept {s0 s : State} {cause : OffCause} (h : Kept s0 s) : Kept s0 (inputLoss cause s) := by
  unfold inputLoss
  have k : Kept s0 (restart (if s.boot.updImg.isSome then writeOther spoiltBank s else s)) := by
    refine restart_kept ?_
    split
    · exact writeOther_kept h
    · exact h
  dsimp only
  generalize restart (if s.boot.updImg.isSome then writeOther spoiltBank s else s) = r at k
  exact k.upd rfl rfl rfl rfl

theorem lossCtr_kept {s0 : State} {n : Nat} {s : State} (h : Kept s0 s) : Kept s0 (lossCtr n s) := by
  unfold lossCtr
  repeat' (first
    | with_reducible assumption | with_reducible refine bump_kept ?_)

theorem execUnderVoltage_kept {s0 : State} {millivolts microseconds : Nat} {s : State} {out : State} (h :
    Kept s0 s) (e : execUnderVoltage millivolts microseconds s = .next out) : Kept s0 out := by
  unfold execUnderVoltage at e
  injection e with e
  subst e
  repeat' (first
    | with_reducible assumption | with_reducible refine inputLoss_kept ?_ | with_reducible refine lossCtr_kept ?_
    | split)

theorem execOverVoltage_kept {s0 : State} {millivolts : Nat} {s : State} {out : State} (h : Kept s0 s)
    (e : execOverVoltage millivolts s = .next out) : Kept s0 out := by
  unfold execOverVoltage at e
  injection e with e
  subst e
  repeat' (first
    | with_reducible assumption | with_reducible refine inputLoss_kept ?_ | with_reducible refine lossCtr_kept ?_
    | split)

theorem execOverCurrent_kept {s0 : State} {milliamps microseconds : Nat} {s : State} {out : State} (h : Kept s0 s)
    (e : execOverCurrent milliamps microseconds s = .next out) : Kept s0 out := by
  unfold execOverCurrent at e
  injection e with e
  subst e
  repeat' (first
    | with_reducible assumption | with_reducible refine inputLoss_kept ?_ | with_reducible refine lossCtr_kept ?_
    | (fail_if_no_progress with_reducible (refine Kept.put ?_ rfl)) | split)

theorem execPresenceOpen_kept {s0 s : State} {out : State} (h : Kept s0 s) (e : execPresenceOpen s = .next out) :
    Kept s0 out := by
  unfold execPresenceOpen at e
  injection e with e
  subst e
  repeat' (first
    | with_reducible assumption | with_reducible refine inputLoss_kept ?_ | with_reducible refine lossCtr_kept ?_
    | (fail_if_no_progress with_reducible (refine Kept.put ?_ rfl)) | split)

theorem execInputRestart_kept {s0 : State} {removed : Bool} {s : State} {out : State} (h : Kept s0 s)
    (e : execInputRestart removed s = .next out) : Kept s0 out := by
  unfold execInputRestart at e
  injection e with e
  subst e
  repeat' (first
    | with_reducible assumption | (fail_if_no_progress with_reducible (refine Kept.put ?_ rfl)) | split)

theorem execInsertion_kept {s0 : State} {millivolts : Nat} {s : State} {out : State} (h : Kept s0 s)
    (e : execInsertion millivolts s = .next out) : Kept s0 out := by
  unfold execInsertion at e
  injection e with e
  subst e
  repeat' (first
    | with_reducible assumption | (fail_if_no_progress with_reducible (refine Kept.put ?_ rfl)) | split)

theorem restart_version {s : State} : (restart s).host.version = 0 := by unfold restart; rfl

theorem execPowerGood_kept {s0 s r : State} {testHold : Bool} (h : Kept s0 s)
    (e : execPowerGood testHold s = .next r) :
    Kept s0 r := by
  unfold execPowerGood at e
  injection e with e
  subst e
  have k := restart_kept h
  have hv := restart_version (s := s)
  generalize restart s = r at k hv
  split
  · exact h
  · exact k.upd rfl rfl rfl (by simp only [limits, hv])

theorem refreshInput_kept {s0 s : State} (h : Kept s0 s) : Kept s0 (refreshInput s) := by
  unfold refreshInput
  repeat' (first
    | with_reducible assumption | with_reducible refine bump_kept ?_
    | (fail_if_no_progress with_reducible (refine Kept.put ?_ rfl)) | split | (dsimp only))

theorem limitMoved_kept {s0 : State} {old : Nat} {s : State} (h : Kept s0 s) : Kept s0 (limitMoved old s) := by
  unfold limitMoved
  repeat' (first
    | with_reducible assumption | with_reducible refine bump_kept ?_ | with_reducible refine refreshInput_kept ?_
    | (fail_if_no_progress with_reducible (refine Kept.put ?_ rfl)) | split | (dsimp only))

theorem clampEvent_kept {s0 : State} {w : Nat} {s : State} (h : Kept s0 s) : Kept s0 (clampEvent w s) := by
  unfold clampEvent
  repeat' (first
    | with_reducible assumption | with_reducible refine bump_kept ?_ | with_reducible refine raiseCause_kept ?_
    | (fail_if_no_progress with_reducible (refine Kept.put ?_ rfl)) | split)

theorem refreshCap_kept {s0 s : State} (h : Kept s0 s) : Kept s0 (refreshCap s) := by
  unfold refreshCap
  repeat' (first
    | with_reducible assumption | (fail_if_no_progress with_reducible (refine Kept.put ?_ rfl)))

theorem writeCap_kept {s0 : State} {w : Nat} {s : State} (h : Kept s0 s) : Kept s0 (writeCap w s) := by
  unfold writeCap
  repeat' (first
    | with_reducible assumption | with_reducible refine clampEvent_kept ?_
    | with_reducible refine limitMoved_kept ?_ | with_reducible refine refreshCap_kept ?_
    | (fail_if_no_progress with_reducible (refine Kept.put ?_ rfl)))

theorem writeRackCap_kept {s0 : State} {w : Nat} {s : State} (h : Kept s0 s) : Kept s0 (writeRackCap w s) := by
  unfold writeRackCap
  repeat' (first
    | with_reducible assumption | with_reducible refine clampEvent_kept ?_
    | with_reducible refine limitMoved_kept ?_ | with_reducible refine refreshCap_kept ?_
    | (fail_if_no_progress with_reducible (refine Kept.put ?_ rfl)))

theorem execPowerEstimateTick_kept {s0 : State} {activity : Nat} {s : State} {out : State} (h : Kept s0 s)
    (e : execPowerEstimateTick activity s = .next out) : Kept s0 out := by
  unfold execPowerEstimateTick at e
  injection e with e
  subst e
  repeat' (first
    | with_reducible assumption | (fail_if_no_progress with_reducible (refine Kept.put ?_ rfl)) | split)

theorem trimEstimate_kept {s0 s : State} (h : Kept s0 s) : Kept s0 (trimEstimate s) := by
  unfold trimEstimate
  repeat' (first
    | with_reducible assumption | with_reducible refine Kept.snd ?_ (by assumption)
    | with_reducible refine Kept.fst ?_ (by assumption) | with_reducible refine Kept.snd2 ?_ (by assumption)
    | with_reducible refine Kept.snd3 ?_ (by assumption) | with_reducible refine Kept.eqSnd ?_ (by assumption)
    | with_reducible refine Kept.eqFst ?_ (by assumption)
    | with_reducible (refine Kept.foldl ?_ (fun _ _ _ => ?_))
    | with_reducible (refine Kept.foldl2 ?_ (fun _ _ _ => ?_))
    | (fail_if_no_progress with_reducible (refine Kept.put ?_ rfl)) | split | (dsimp only))

theorem thermalTick_kept {s0 s : State} (h : Kept s0 s) : Kept s0 (thermalTick s) := by
  unfold thermalTick
  repeat' (first
    | with_reducible assumption | with_reducible refine bump_kept ?_
    | (fail_if_no_progress with_reducible (refine Kept.put ?_ rfl)) | split | (dsimp only))

theorem lagTick_kept {s0 : State} {lag : Nat} {s : State} (h : Kept s0 s) : Kept s0 (lagTick lag s) := by
  unfold lagTick
  repeat' (first
    | with_reducible assumption | with_reducible refine bump_kept ?_ | with_reducible refine raiseCause_kept ?_
    | (fail_if_no_progress with_reducible (refine Kept.put ?_ rfl)) | split | (dsimp only))

theorem execPowerLoopTick_kept {s0 s : State} {out : State} (h : Kept s0 s)
    (e : execPowerLoopTick s = .next out) : Kept s0 out := by
  unfold execPowerLoopTick at e
  injection e with e
  subst e
  repeat' (first
    | with_reducible assumption | with_reducible refine lagTick_kept ?_
    | with_reducible refine refreshInput_kept ?_ | with_reducible refine setRails_kept ?_
    | with_reducible refine thermalTick_kept ?_ | with_reducible refine trimEstimate_kept ?_
    | (fail_if_no_progress with_reducible (refine Kept.put ?_ rfl)) | split)

theorem execGaugeSample_kept {s0 : State} {millivolts watts : BitVec 16} {microjoules : Nat} {s : State}
    {out : State} (h : Kept s0 s) (e : execGaugeSample millivolts watts microjoules s = .next out) : Kept s0 out := by
  unfold execGaugeSample at e
  injection e with e
  subst e
  repeat' (first
    | with_reducible assumption | with_reducible refine limitMoved_kept ?_
    | (fail_if_no_progress with_reducible (refine Kept.put ?_ rfl)) | split)

theorem execJunctionSample_kept {s0 : State} {readings : List (BitVec 16)} {s : State} {out : State} (h :
    Kept s0 s) (e : execJunctionSample readings s = .next out) : Kept s0 out := by
  unfold execJunctionSample at e
  injection e with e
  subst e
  repeat' (first
    | with_reducible assumption | (fail_if_no_progress with_reducible (refine Kept.put ?_ rfl)) | split)

theorem execThermalTrip_kept {s0 : State} {deciC : BitVec 16} {microseconds : Nat} {s : State} {out : State} (h :
    Kept s0 s) (e : execThermalTrip deciC microseconds s = .next out) : Kept s0 out := by
  unfold execThermalTrip at e
  injection e with e
  subst e
  repeat' (first
    | with_reducible assumption | with_reducible refine bump_kept ?_ | with_reducible refine inputLoss_kept ?_
    | split)

theorem execCoolantSample_kept {s0 : State} {inlet outlet flow : BitVec 16} {s : State} {out : State} (h :
    Kept s0 s) (e : execCoolantSample inlet outlet flow s = .next out) : Kept s0 out := by
  unfold execCoolantSample at e
  injection e with e
  subst e
  repeat' (first
    | with_reducible assumption | with_reducible refine bump_kept ?_
    | (fail_if_no_progress with_reducible (refine Kept.put ?_ rfl)) | split | (dsimp only))

theorem execVoltageDroop_kept {s0 : State} {island : BitVec 7} {cycles : Nat} {s : State} {out : State} (h :
    Kept s0 s) (e : execVoltageDroop island cycles s = .next out) : Kept s0 out := by
  unfold execVoltageDroop at e
  injection e with e
  subst e
  repeat' (first
    | with_reducible assumption | with_reducible refine bump_kept ?_ | split)

/-! ## Startup -/

theorem failStart_kept {s0 : State} {code : Nat} {s : State} (h : Kept s0 s) : Kept s0 (failStart code s) := by
  unfold failStart
  repeat' (first
    | with_reducible assumption | (fail_if_no_progress with_reducible (refine Kept.put ?_ rfl)))

theorem execRailSequenceDone_kept {s0 s : State} {out : State} (h : Kept s0 s)
    (e : execRailSequenceDone s = .next out) : Kept s0 out := by
  unfold execRailSequenceDone at e
  injection e with e
  subst e
  repeat' (first
    | with_reducible assumption | with_reducible refine setRails_kept ?_
    | (fail_if_no_progress with_reducible (refine Kept.put ?_ rfl)) | split)

theorem runBank_kept {s0 : State} {b fell : Bool} {s : State} (h : Kept s0 s) : Kept s0 (runBank b fell s) := by
  unfold runBank
  repeat' (first
    | with_reducible assumption | with_reducible refine bump_kept ?_
    | (fail_if_no_progress with_reducible (refine Kept.put ?_ rfl)) | split)

theorem execBootVerifyDone_kept {s0 s : State} {out : State} (h : Kept s0 s)
    (e : execBootVerifyDone s = .next out) : Kept s0 out := by
  unfold execBootVerifyDone at e
  injection e with e
  subst e
  repeat' (first
    | with_reducible assumption | with_reducible refine failStart_kept ?_ | with_reducible refine runBank_kept ?_
    | (fail_if_no_progress with_reducible (refine Kept.put ?_ rfl)) | split | (dsimp only))

theorem writeBindings_kept {s0 s : State} (h : Kept s0 s) : Kept s0 (writeBindings s) := by
  unfold writeBindings
  repeat' (first
    | with_reducible assumption | with_reducible refine modChan_kept ?_
    | with_reducible (refine Kept.foldl ?_ (fun _ _ _ => ?_)))

theorem execCoreStartDone_kept {s0 : State} {coresOk sramOk : Bool} {ga : BitVec 7} {s : State} {out : State}
    (h : Kept s0 s) (e : execCoreStartDone coresOk sramOk ga s = .next out) : Kept s0 out := by
  unfold execCoreStartDone at e
  injection e with e
  subst e
  repeat' (first
    | with_reducible assumption | with_reducible refine failStart_kept ?_ | with_reducible refine goOn_kept ?_
    | with_reducible refine setT3State_kept ?_ | with_reducible refine writeBindings_kept ?_
    | with_reducible (refine Kept.foldl ?_ (fun _ _ _ => ?_))
    | (fail_if_no_progress with_reducible (refine Kept.put ?_ rfl)) | split | (dsimp only))

theorem execDramTrainingDone_kept {s0 : State} {failed : BitVec 24} {s : State} {out : State} (h : Kept s0 s)
    (e : execDramTrainingDone failed s = .next out) : Kept s0 out := by
  unfold execDramTrainingDone at e
  injection e with e
  subst e
  repeat' (first
    | with_reducible assumption | with_reducible refine bump_kept ?_ | with_reducible refine failStart_kept ?_
    | with_reducible refine healthNotice_kept ?_ | with_reducible (refine Kept.foldl ?_ (fun _ _ _ => ?_))
    | (fail_if_no_progress with_reducible (refine Kept.put ?_ rfl)) | split | (dsimp only))

theorem execT3MountDone_kept {s0 : State} {stack : BitVec 2} {ok : Bool} {s : State} {out : State} (h : Kept s0 s)
    (e : execT3MountDone stack ok s = .next out) : Kept s0 out := by
  unfold execT3MountDone at e
  injection e with e
  subst e
  repeat' (first
    | with_reducible assumption | with_reducible refine dropCatalogue_kept ?_
    | with_reducible refine healthNotice_kept ?_ | with_reducible refine loseT3Refs_kept ?_
    | with_reducible refine modT3_kept ?_ | with_reducible refine setT3State_kept ?_
    | (fail_if_no_progress with_reducible (refine Kept.put ?_ rfl)) | split)

theorem execStartupSwatchDone_kept {s0 : State} {units : List (BitVec 9)} {clusters : List (BitVec 6)}
    {regions : List (BitVec 4)} {t1Hanks : List Nat} {s : State} {out : State} (h : Kept s0 s)
    (e : execStartupSwatchDone units clusters regions t1Hanks s = .next out) : Kept s0 out := by
  unfold execStartupSwatchDone at e
  injection e with e
  subst e
  repeat' (first
    | with_reducible assumption | with_reducible refine bump_kept ?_ | with_reducible refine modUnit_kept ?_
    | with_reducible (refine Kept.foldl ?_ (fun _ _ _ => ?_))
    | (fail_if_no_progress with_reducible (refine Kept.put ?_ rfl)) | split)

theorem execPcieReadiness_kept {s0 s : State} {out : State} (h : Kept s0 s)
    (e : execPcieReadiness s = .next out) : Kept s0 out := by
  unfold execPcieReadiness at e
  injection e with e
  subst e
  repeat' (first
    | with_reducible assumption | (fail_if_no_progress with_reducible (refine Kept.put ?_ rfl)) | split)

theorem updateFuses_kept {s0 s : State} (h : Kept s0 s) : Kept s0 (updateFuses s) := by
  unfold updateFuses
  refine h.trans ⟨rfl, ?_, ?_, id, id⟩
  · dsimp only
    split
    · exact Nat.le_max_left _ _
    · exact Nat.le_refl _
  · dsimp only
    split
    · rw [BitVec.and_or_distrib_left, BitVec.and_self]
      exact BitVec.eq_of_getLsbD_eq fun i hi => by
        simp only [BitVec.getLsbD_or, BitVec.getLsbD_and]
        cases s.nv.revoked.getLsbD i <;> simp
    · exact BitVec.and_self

theorem execReadySet_kept {s0 s : State} {out : State} (h : Kept s0 s) (e : execReadySet s = .next out) :
    Kept s0 out := by
  unfold execReadySet at e
  injection e with e
  subst e
  repeat' (first
    | with_reducible assumption | with_reducible refine healthNotice_kept ?_
    | with_reducible refine takeHank_kept ?_ | with_reducible refine updateFuses_kept ?_
    | (fail_if_no_progress with_reducible (refine Kept.put ?_ rfl)) | split)

theorem endUpdateFw_kept {s0 : State} {id status : Nat} {s : State} (h : Kept s0 s) :
    Kept s0 (endUpdateFw id status s) := by
  unfold endUpdateFw
  repeat' (first
    | with_reducible assumption | with_reducible refine adminDone_kept ?_ | with_reducible refine bump_kept ?_
    | (fail_if_no_progress with_reducible (refine Kept.put ?_ rfl)))

theorem runFwUpdate_kept {s0 : State} {id : Nat} {d : Rec64} {s : State} (h : Kept s0 s) :
    Kept s0 (runFwUpdate id d s) := by
  unfold runFwUpdate
  repeat' (first
    | with_reducible assumption | with_reducible refine Kept.snd ?_ (by assumption)
    | with_reducible refine Kept.fst ?_ (by assumption) | with_reducible refine Kept.snd2 ?_ (by assumption)
    | with_reducible refine Kept.snd3 ?_ (by assumption) | with_reducible refine Kept.eqSnd ?_ (by assumption)
    | with_reducible refine Kept.eqFst ?_ (by assumption) | with_reducible refine adminRead_kept ?_
    | with_reducible refine endUpdateFw_kept ?_ | (fail_if_no_progress with_reducible (refine Kept.put ?_ rfl))
    | split | (dsimp only))

theorem execFwBankWriteDone_kept {s0 s r : State} {ok : Bool} (h : Kept s0 s)
    (e : execFwBankWriteDone ok s = .next r) :
    Kept s0 r := by
  unfold execFwBankWriteDone at e
  injection e with e
  subst e
  split
  · exact h
  · split
    · exact endUpdateFw_kept ((writeOther_kept h).flash rfl rfl rfl rfl rfl)
    · exact endUpdateFw_kept (writeOther_kept h)

theorem rcvCtrl_kept {s0 : State} {v : Nat} {s : State} (h : Kept s0 s) : Kept s0 (rcvCtrl v s) := by
  unfold rcvCtrl
  repeat' (first
    | with_reducible assumption | with_reducible refine Kept.snd ?_ (by assumption)
    | with_reducible refine Kept.fst ?_ (by assumption) | with_reducible refine Kept.snd2 ?_ (by assumption)
    | with_reducible refine Kept.snd3 ?_ (by assumption) | with_reducible refine Kept.eqSnd ?_ (by assumption)
    | with_reducible refine Kept.eqFst ?_ (by assumption) | with_reducible refine hostRead_kept ?_
    | (fail_if_no_progress with_reducible (refine Kept.put ?_ rfl)) | split | (dsimp only))

theorem execRecoveryGo_kept {s0 : State} {v : BitVec 32} {s : State} {out : State} (h : Kept s0 s)
    (e : execRecoveryGo v s = .next out) : Kept s0 out := by
  unfold execRecoveryGo at e
  injection e with e
  subst e
  repeat' (first
    | with_reducible assumption | with_reducible refine rcvCtrl_kept ?_ | split)

theorem execRecoveryDone_kept {s0 s r : State} (h : Kept s0 s) (e : execRecoveryDone s = .next r) : Kept s0 r := by
  unfold execRecoveryDone at e
  injection e with e
  subst e
  split
  · exact h
  · exact moduleReset_kept (h.flash rfl rfl rfl rfl rfl)

/-! ## Window -/

theorem txCount_kept {s0 s : State} {m : BitVec 8} {c : Nat} (h : Kept s0 s) : Kept s0 ((txCount s m c).2) := by
  unfold txCount
  repeat' (first
    | with_reducible assumption | with_reducible refine Kept.snd ?_ (by assumption)
    | with_reducible refine Kept.fst ?_ (by assumption) | with_reducible refine Kept.snd2 ?_ (by assumption)
    | with_reducible refine Kept.snd3 ?_ (by assumption) | with_reducible refine Kept.eqSnd ?_ (by assumption)
    | with_reducible refine Kept.eqFst ?_ (by assumption) | with_reducible refine freeNat_kept ?_ | split
    | (dsimp only))

theorem mbxStatus_kept {s0 : State} {m : BitVec 8} {c : Nat} {s : State} (h : Kept s0 s) :
    Kept s0 (mbxStatus m c s) := by
  unfold mbxStatus
  repeat' (first
    | with_reducible assumption | with_reducible refine answer_kept ?_
    | with_reducible refine chanAccess_kept ?_ (fun _ _ => ?_) | with_reducible refine txCount_kept ?_)

theorem mbxStatusW_kept {s0 : State} {m : BitVec 8} {c v : Nat} {s : State} (h : Kept s0 s) :
    Kept s0 (mbxStatusW m c v s) := by
  unfold mbxStatusW
  repeat' (first
    | with_reducible assumption | with_reducible refine chanAccess_kept ?_ (fun _ _ => ?_)
    | with_reducible refine modChan_kept ?_)

theorem mbxDst_kept {s0 : State} {m : BitVec 8} {c : Nat} {s : State} (h : Kept s0 s) : Kept s0 (mbxDst m c s) := by
  unfold mbxDst
  repeat' (first
    | with_reducible assumption | with_reducible refine answer_kept ?_
    | with_reducible refine chanAccess_kept ?_ (fun _ _ => ?_))

theorem mbxDstW_kept {s0 : State} {m : BitVec 8} {c v : Nat} {s : State} (h : Kept s0 s) :
    Kept s0 (mbxDstW m c v s) := by
  unfold mbxDstW
  repeat' (first
    | with_reducible assumption | with_reducible refine chanAccess_kept ?_ (fun _ _ => ?_)
    | with_reducible refine modChan_kept ?_ | (dsimp only [accSt_go, accSt_wait, accSt_lost, accSt_fault]) | split)

theorem mbxCtrlR_kept {s0 : State} {m : BitVec 8} {c : Nat} {s : State} (h : Kept s0 s) :
    Kept s0 (mbxCtrlR m c s) := by
  unfold mbxCtrlR
  repeat' (first
    | with_reducible assumption | with_reducible refine answer_kept ?_
    | with_reducible refine chanAccess_kept ?_ (fun _ _ => ?_))

theorem zeroRead_kept {s0 : State} {m : BitVec 8} {s : State} (h : Kept s0 s) : Kept s0 (zeroRead m s) := by
  unfold zeroRead
  repeat' (first
    | with_reducible assumption | with_reducible refine answer_kept ?_)

theorem bindWrite_kept {s0 : State} {m : BitVec 8} {c v : Nat} {s : State} (h : Kept s0 s) :
    Kept s0 (bindWrite m c v s) := by
  unfold bindWrite
  repeat' (first
    | with_reducible assumption | with_reducible refine modChan_kept ?_ | split)

theorem dbClear_kept {s0 : State} {m : BitVec 8} {v : Nat} {s : State} (h : Kept s0 s) : Kept s0 (dbClear m v s) := by
  unfold dbClear
  repeat' (first
    | with_reducible assumption | (fail_if_no_progress with_reducible (refine Kept.put ?_ rfl)))

theorem dbVecW_kept {s0 : State} {m : BitVec 8} {v : Nat} {s : State} (h : Kept s0 s) : Kept s0 (dbVecW m v s) := by
  unfold dbVecW
  repeat' (first
    | with_reducible assumption | (fail_if_no_progress with_reducible (refine Kept.put ?_ rfl)) | split)

theorem winRead4_kept {s0 : State} {m : BitVec 8} {off : Nat} {s : State} (h : Kept s0 s) :
    Kept s0 (winRead4 m off s) := by
  unfold winRead4
  repeat' (first
    | with_reducible assumption | with_reducible refine answer_kept ?_
    | with_reducible refine chanAccess_kept ?_ (fun _ _ => ?_) | with_reducible refine mbxCtrlR_kept ?_
    | with_reducible refine mbxDst_kept ?_ | with_reducible refine mbxLock_kept ?_
    | with_reducible refine mbxRx_kept ?_ | with_reducible refine mbxRxUpper_kept ?_
    | with_reducible refine mbxStatus_kept ?_ | with_reducible refine zeroRead_kept ?_
    | (dsimp only [accSt_go, accSt_wait, accSt_lost, accSt_fault]) | split)

theorem winWrite4_kept {s0 : State} {m : BitVec 8} {off v : Nat} {s : State} (h : Kept s0 s) :
    Kept s0 (winWrite4 m off v s) := by
  unfold winWrite4
  repeat' (first
    | with_reducible assumption | with_reducible refine bindWrite_kept ?_
    | with_reducible refine chanAccess_kept ?_ (fun _ _ => ?_) | with_reducible refine dbClear_kept ?_
    | with_reducible refine dbVecW_kept ?_ | with_reducible refine mbxCtrl_kept ?_
    | with_reducible refine mbxDstW_kept ?_ | with_reducible refine mbxMask_kept ?_
    | with_reducible refine mbxStatusW_kept ?_ | with_reducible refine mbxTx_kept ?_
    | with_reducible refine mbxUnlock_kept ?_ | (dsimp only [accSt_go, accSt_wait, accSt_lost, accSt_fault])
    | split | (dsimp only [id]))

theorem winRead_kept {s0 : State} {m : BitVec 8} {off : Nat} {eight : Bool} {s : State} (h : Kept s0 s) :
    Kept s0 (winRead m off eight s) := by
  unfold winRead
  repeat' (first
    | with_reducible assumption | with_reducible refine answer_kept ?_ | with_reducible refine mbxRx_kept ?_
    | with_reducible refine winRead4_kept ?_ | split)

theorem winWrite_kept {s0 : State} {m : BitVec 8} {off : Nat} {eight : Bool} {v : Nat} {s : State} (h :
    Kept s0 s) : Kept s0 (winWrite m off eight v s) := by
  unfold winWrite
  repeat' (first
    | with_reducible assumption | with_reducible refine winWrite4_kept ?_ | split)

/-! ## Tap -/

theorem syncTap_kept {s0 s : State} (h : Kept s0 s) : Kept s0 (syncTap s) := by
  unfold syncTap
  repeat' (first
    | with_reducible assumption | with_reducible refine goOff_kept ?_ | with_reducible refine goOn_kept ?_ | split)

theorem loadIr_kept {s0 : State} {ir : BitVec 8} {dr : TapDr} {s : State} (h : Kept s0 s) :
    Kept s0 (loadIr ir dr s) := by
  unfold loadIr
  repeat' (first
    | with_reducible assumption | with_reducible refine syncTap_kept ?_
    | (fail_if_no_progress with_reducible (refine Kept.put ?_ rfl)) | split)

theorem testOnly_kept {s0 : State} {ir : BitVec 8} {dr : TapDr} {drive : PinDrive} {s : State} (h : Kept s0 s) :
    Kept s0 (testOnly ir dr drive s) := by
  unfold testOnly
  repeat' (first
    | with_reducible assumption | with_reducible refine bump_kept ?_ | with_reducible refine loadIr_kept ?_
    | (fail_if_no_progress with_reducible (refine Kept.put ?_ rfl)) | split)

theorem execIdcode_kept {s0 s : State} {out : State} (h : Kept s0 s) (e : execIdcode s = .next out) :
    Kept s0 out := by
  unfold execIdcode at e
  injection e with e
  subst e
  repeat' (first
    | with_reducible assumption | with_reducible refine loadIr_kept ?_)

theorem execSamplePreload_kept {s0 : State} {cells : List Bool} {s : State} {out : State} (h : Kept s0 s)
    (e : execSamplePreload cells s = .next out) : Kept s0 out := by
  unfold execSamplePreload at e
  injection e with e
  subst e
  repeat' (first
    | with_reducible assumption | with_reducible refine loadIr_kept ?_
    | (fail_if_no_progress with_reducible (refine Kept.put ?_ rfl)) | split)

theorem execExtest_kept {s0 s : State} {out : State} (h : Kept s0 s) (e : execExtest s = .next out) :
    Kept s0 out := by
  unfold execExtest at e
  injection e with e
  subst e
  repeat' (first
    | with_reducible assumption | with_reducible refine testOnly_kept ?_)

theorem execClamp_kept {s0 s : State} {out : State} (h : Kept s0 s) (e : execClamp s = .next out) : Kept s0 out := by
  unfold execClamp at e
  injection e with e
  subst e
  repeat' (first
    | with_reducible assumption | with_reducible refine testOnly_kept ?_)

theorem execHighz_kept {s0 s : State} {out : State} (h : Kept s0 s) (e : execHighz s = .next out) : Kept s0 out := by
  unfold execHighz at e
  injection e with e
  subst e
  repeat' (first
    | with_reducible assumption | with_reducible refine testOnly_kept ?_)

theorem execExtestPulse_kept {s0 s : State} {out : State} (h : Kept s0 s) (e : execExtestPulse s = .next out) :
    Kept s0 out := by
  unfold execExtestPulse at e
  injection e with e
  subst e
  repeat' (first
    | with_reducible assumption | with_reducible refine testOnly_kept ?_)

theorem execExtestTrain_kept {s0 s : State} {out : State} (h : Kept s0 s) (e : execExtestTrain s = .next out) :
    Kept s0 out := by
  unfold execExtestTrain at e
  injection e with e
  subst e
  repeat' (first
    | with_reducible assumption | with_reducible refine testOnly_kept ?_)

theorem execMbxacc_kept {s0 s : State} {out : State} (h : Kept s0 s) (e : execMbxacc s = .next out) :
    Kept s0 out := by
  unfold execMbxacc at e
  injection e with e
  subst e
  repeat' (first
    | with_reducible assumption | with_reducible refine loadIr_kept ?_)

theorem execBypass_kept {s0 : State} {code : BitVec 8} {s : State} {out : State} (h : Kept s0 s)
    (e : execBypass code s = .next out) : Kept s0 out := by
  unfold execBypass at e
  injection e with e
  subst e
  repeat' (first
    | with_reducible assumption | with_reducible refine loadIr_kept ?_ | split)

theorem execTestLogicReset_kept {s0 : State} {trst : Bool} {s : State} {out : State} (h : Kept s0 s)
    (e : execTestLogicReset trst s = .next out) : Kept s0 out := by
  unfold execTestLogicReset at e
  injection e with e
  subst e
  repeat' (first
    | with_reducible assumption | with_reducible refine syncTap_kept ?_
    | (fail_if_no_progress with_reducible (refine Kept.put ?_ rfl)) | split)

theorem busError_kept {s0 s : State} (h : Kept s0 s) : Kept s0 (busError s) := by
  unfold busError
  repeat' (first
    | with_reducible assumption | with_reducible refine bump_kept ?_)

theorem execSmbusBlockWrite_kept {s0 : State} {count : BitVec 8} {off : BitVec 16} {data : BitVec 64} {pecOk : Bool}
    {s : State} {out : State} (h : Kept s0 s) (e : execSmbusBlockWrite count off data pecOk s = .next out) :
    Kept s0 out := by
  unfold execSmbusBlockWrite at e
  injection e with e
  subst e
  repeat' (first
    | with_reducible assumption | with_reducible refine answer_kept ?_ | with_reducible refine busError_kept ?_
    | with_reducible refine winWrite_kept ?_ | split)

theorem execSmbusProcessCall_kept {s0 : State} {count : BitVec 8} {off : BitVec 16} {size : BitVec 8} {s : State}
    {out : State} (h : Kept s0 s) (e : execSmbusProcessCall count off size s = .next out) : Kept s0 out := by
  unfold execSmbusProcessCall at e
  injection e with e
  subst e
  repeat' (first
    | with_reducible assumption | with_reducible refine answer_kept ?_ | with_reducible refine busError_kept ?_
    | with_reducible refine winRead_kept ?_ | split)

/-! ## Regs -/

theorem dropLatch_kept {s0 : State} {k : Nat} {s : State} (h : Kept s0 s) : Kept s0 (dropLatch k s) := by
  unfold dropLatch
  repeat' (first
    | with_reducible assumption | (fail_if_no_progress with_reducible (refine Kept.put ?_ rfl)))

theorem hostValue_kept {s0 : State} {v : Nat} {s : State} (h : Kept s0 s) : Kept s0 (hostValue v s) := by
  unfold hostValue
  repeat' (first
    | with_reducible assumption | with_reducible refine answer_kept ?_)

theorem barRead4_kept {s0 : State} {bar2 : Bool} {off : Nat} {s : State} (h : Kept s0 s) :
    Kept s0 (barRead4 bar2 off s) := by
  unfold barRead4
  repeat' (first
    | with_reducible assumption | with_reducible refine dropLatch_kept ?_
    | with_reducible refine hostValue_kept ?_ | with_reducible refine winRead4_kept ?_
    | (fail_if_no_progress with_reducible (refine Kept.put ?_ rfl)) | split | (dsimp only))

theorem barRead_kept {s0 : State} {bar2 : Bool} {off : Nat} {eight : Bool} {s : State} (h : Kept s0 s) :
    Kept s0 (barRead bar2 off eight s) := by
  unfold barRead
  repeat' (first
    | with_reducible assumption | with_reducible refine answer_kept ?_ | with_reducible refine barRead4_kept ?_
    | with_reducible refine hostValue_kept ?_ | with_reducible refine winRead_kept ?_ | split)

theorem barAccess_kept {s0 : State} {write bar2 : Bool} {off size : Nat} {f : State → State} {s : State} (h :
    Kept s0 s) (hf : ∀ t, Kept s0 t → Kept s0 ((f  t))) : Kept s0 (barAccess write bar2 off size f s) := by
  unfold barAccess
  repeat' (first
    | with_reducible assumption | with_reducible refine hf _ ?_ | with_reducible refine answer_kept ?_
    | with_reducible refine bump_kept ?_ | split)

theorem ownWindow_kept {s0 : State} {m : BitVec 8} {off : Nat} {eight : Bool} {f : State → State} {s : State}
    (h : Kept s0 s) (hf : ∀ t, Kept s0 t → Kept s0 ((f  t))) : Kept s0 (ownWindow m off eight f s) := by
  unfold ownWindow
  repeat' (first
    | with_reducible assumption | with_reducible refine hf _ ?_
    | with_reducible refine Kept.snd ?_ (by assumption) | with_reducible refine Kept.fst ?_ (by assumption)
    | with_reducible refine Kept.snd2 ?_ (by assumption) | with_reducible refine Kept.snd3 ?_ (by assumption)
    | with_reducible refine Kept.eqSnd ?_ (by assumption) | with_reducible refine Kept.eqFst ?_ (by assumption)
    | with_reducible refine mbxAccess_kept ?_ (fun _ _ => ?_)
    | with_reducible (refine Kept.foldl ?_ (fun _ _ _ => ?_))
    | with_reducible (refine Kept.foldl2 ?_ (fun _ _ _ => ?_))
    | (fail_if_no_progress with_reducible (refine Kept.put ?_ rfl))
    | (dsimp only [accSt_go, accSt_wait, accSt_lost, accSt_fault]) | split | (dsimp only))

theorem execLatchedRead_kept {s0 : State} {space : Space} {off : BitVec 20} {eight : Bool} {s : State}
    {out : State} (h : Kept s0 s) (e : execLatchedRead space off eight s = .next out) : Kept s0 out := by
  unfold execLatchedRead at e
  injection e with e
  subst e
  repeat' (first
    | with_reducible assumption | with_reducible refine Kept.snd ?_ (by assumption)
    | with_reducible refine Kept.fst ?_ (by assumption) | with_reducible refine Kept.snd2 ?_ (by assumption)
    | with_reducible refine Kept.snd3 ?_ (by assumption) | with_reducible refine Kept.eqSnd ?_ (by assumption)
    | with_reducible refine Kept.eqFst ?_ (by assumption)
    | with_reducible refine barAccess_kept ?_ (fun _ _ => ?_) | with_reducible refine barRead_kept ?_
    | with_reducible refine cfgAccess_kept ?_ (fun _ _ => ?_) | with_reducible refine hostValue_kept ?_
    | with_reducible refine ownWindow_kept ?_ (fun _ _ => ?_) | with_reducible refine winRead_kept ?_
    | with_reducible (refine Kept.foldl ?_ (fun _ _ _ => ?_))
    | with_reducible (refine Kept.foldl2 ?_ (fun _ _ _ => ?_))
    | (fail_if_no_progress with_reducible (refine Kept.put ?_ rfl))
    | (dsimp only [accSt_go, accSt_wait, accSt_lost, accSt_fault]) | split | (dsimp only))

/-! ## Messages -/

theorem setRxQueue_kept {s0 : State} {x0 : BitVec 8} {c : Nat} {f : List MbxWord → List MbxWord} {s : State} (h :
    Kept s0 s) : Kept s0 (setRxQueue x0 c f s) := by
  unfold setRxQueue
  repeat' (first
    | with_reducible assumption | with_reducible refine modChan_kept ?_)

theorem discardPartials_kept {s0 : State} {x0 : BitVec 8} {c : Nat} {s : State} (h : Kept s0 s) :
    Kept s0 (discardPartials x0 c s) := by
  unfold discardPartials
  repeat' (first
    | with_reducible assumption | with_reducible refine bump_kept ?_ | with_reducible refine modChan_kept ?_
    | with_reducible refine setRxQueue_kept ?_ | with_reducible (refine Kept.foldl ?_ (fun _ _ _ => ?_)) | split
    | (dsimp only))

theorem underLock_kept {s0 : State} {x0 : BitVec 8} {c : Nat} {f : State → State} {s : State} (h : Kept s0 s)
    (hf : ∀ t, Kept s0 t → Kept s0 ((f  t))) : Kept s0 (underLock x0 c f s) := by
  unfold underLock
  repeat' (first
    | with_reducible assumption | with_reducible refine hf _ ?_
    | with_reducible refine Kept.snd ?_ (by assumption) | with_reducible refine Kept.fst ?_ (by assumption)
    | with_reducible refine Kept.snd2 ?_ (by assumption) | with_reducible refine Kept.snd3 ?_ (by assumption)
    | with_reducible refine Kept.eqSnd ?_ (by assumption) | with_reducible refine Kept.eqFst ?_ (by assumption)
    | with_reducible refine modChan_kept ?_ | with_reducible (refine Kept.foldl ?_ (fun _ _ _ => ?_))
    | with_reducible (refine Kept.foldl2 ?_ (fun _ _ _ => ?_))
    | (fail_if_no_progress with_reducible (refine Kept.put ?_ rfl)) | split | (dsimp only))

theorem sendReply_kept {s0 : State} {x0 : BitVec 8} {c : Nat} {dst : BitVec 8} {ws : List (BitVec 32)} {s : State}
    (h : Kept s0 s) : Kept s0 (sendReply x0 c dst ws s) := by
  unfold sendReply
  repeat' (first
    | with_reducible assumption | with_reducible refine bump_kept ?_ | with_reducible refine putWords_kept ?_
    | with_reducible refine toPartner_kept ?_ | with_reducible refine underLock_kept ?_ (fun _ _ => ?_)
    | with_reducible (refine Kept.foldl ?_ (fun _ _ _ => ?_)) | split)

theorem rememberReply_kept {s0 : State} {x0 src seq : BitVec 8} {ws : List (BitVec 32)} {s : State} (h :
    Kept s0 s) : Kept s0 (rememberReply x0 src seq ws s) := by
  unfold rememberReply
  repeat' (first
    | with_reducible assumption | (fail_if_no_progress with_reducible (refine Kept.put ?_ rfl)))

theorem serveMsg_kept {s0 : State} {x0 src : BitVec 8} {hd : BitVec 32} {pay : List (BitVec 32)} {s : State} (h :
    Kept s0 s) : Kept s0 ((serveMsg x0 src hd pay s).2.2) := by
  unfold serveMsg
  repeat' (first
    | with_reducible assumption | with_reducible refine bump_kept ?_ | with_reducible refine rackIdChanged_kept ?_
    | with_reducible refine writeCap_kept ?_ | with_reducible refine writeRackCap_kept ?_
    | (fail_if_no_progress with_reducible (refine Kept.put ?_ rfl)) | split | (dsimp only))

theorem finishMsg_kept {s0 : State} {x : Running} {s : State} (h : Kept s0 s) : Kept s0 (finishMsg x s) := by
  unfold finishMsg
  repeat' (first
    | with_reducible assumption | with_reducible refine Kept.snd ?_ (by assumption)
    | with_reducible refine Kept.fst ?_ (by assumption) | with_reducible refine Kept.snd2 ?_ (by assumption)
    | with_reducible refine Kept.snd3 ?_ (by assumption) | with_reducible refine Kept.eqSnd ?_ (by assumption)
    | with_reducible refine Kept.eqFst ?_ (by assumption) | with_reducible refine moduleReset_kept ?_
    | with_reducible refine rememberReply_kept ?_ | with_reducible refine sendReply_kept ?_
    | with_reducible (refine Kept.foldl ?_ (fun _ _ _ => ?_))
    | with_reducible (refine Kept.foldl2 ?_ (fun _ _ _ => ?_))
    | (fail_if_no_progress with_reducible (refine Kept.put ?_ rfl)) | split | (dsimp only))

theorem finishRunning_kept {s0 : State} {x0 src : BitVec 8} {s : State} (h : Kept s0 s) :
    Kept s0 (finishRunning x0 src s) := by
  unfold finishRunning
  repeat' (first
    | with_reducible assumption | with_reducible refine Kept.snd ?_ (by assumption)
    | with_reducible refine Kept.fst ?_ (by assumption) | with_reducible refine Kept.snd2 ?_ (by assumption)
    | with_reducible refine Kept.snd3 ?_ (by assumption) | with_reducible refine Kept.eqSnd ?_ (by assumption)
    | with_reducible refine Kept.eqFst ?_ (by assumption) | with_reducible refine finishMsg_kept ?_
    | with_reducible (refine Kept.foldl ?_ (fun _ _ _ => ?_))
    | with_reducible (refine Kept.foldl2 ?_ (fun _ _ _ => ?_))
    | (fail_if_no_progress with_reducible (refine Kept.put ?_ rfl)) | split | (dsimp only))

theorem takeMsg_kept {s0 : State} {x0 : BitVec 8} {c : Nat} {src : BitVec 8} {hd : BitVec 32}
    {pay : List (BitVec 32)} {s : State} (h : Kept s0 s) : Kept s0 (takeMsg x0 c src hd pay s) := by
  unfold takeMsg
  repeat' (first
    | with_reducible assumption | with_reducible refine Kept.snd ?_ (by assumption)
    | with_reducible refine Kept.fst ?_ (by assumption) | with_reducible refine Kept.snd2 ?_ (by assumption)
    | with_reducible refine Kept.snd3 ?_ (by assumption) | with_reducible refine Kept.eqSnd ?_ (by assumption)
    | with_reducible refine Kept.eqFst ?_ (by assumption) | with_reducible refine finishMsg_kept ?_
    | with_reducible refine sendReply_kept ?_ | with_reducible refine serveMsg_kept ?_
    | with_reducible refine setRxQueue_kept ?_ | with_reducible (refine Kept.foldl ?_ (fun _ _ _ => ?_))
    | with_reducible (refine Kept.foldl2 ?_ (fun _ _ _ => ?_))
    | (fail_if_no_progress with_reducible (refine Kept.put ?_ rfl)) | split | (dsimp only))

theorem message_kept {s0 : State} {types : Nat → Bool} {x1 : BitVec 8} {c : Nat} {src : BitVec 8} {s : State}
    {out : State} (h : Kept s0 s) (e : message types x1 c src s = .next out) : Kept s0 out := by
  unfold message at e
  injection e with e
  subst e
  repeat' (first
    | with_reducible assumption | with_reducible refine discardPartials_kept ?_
    | with_reducible refine finishRunning_kept ?_ | with_reducible refine takeMsg_kept ?_ | split | (dsimp only))

theorem execPing_kept {s0 : State} {handler : BitVec 8} {ch : BitVec 6} {src : BitVec 8} {s : State} {out : State}
    (h : Kept s0 s) (e : execPing handler ch src s = .next out) : Kept s0 out := by
  unfold execPing at e
  exact message_kept h e

theorem execSetCap_kept {s0 : State} {ch : BitVec 6} {src : BitVec 8} {s : State} {out : State} (h : Kept s0 s)
    (e : execSetCap ch src s = .next out) : Kept s0 out := by
  unfold execSetCap at e
  exact message_kept h e

theorem execGetTelemetry_kept {s0 : State} {ch : BitVec 6} {src : BitVec 8} {s : State} {out : State} (h :
    Kept s0 s) (e : execGetTelemetry ch src s = .next out) : Kept s0 out := by
  unfold execGetTelemetry at e
  exact message_kept h e

theorem execSetRackId_kept {s0 : State} {ch : BitVec 6} {src : BitVec 8} {s : State} {out : State} (h : Kept s0 s)
    (e : execSetRackId ch src s = .next out) : Kept s0 out := by
  unfold execSetRackId at e
  exact message_kept h e

theorem execDrainNotice_kept {s0 : State} {src : BitVec 8} {ms : BitVec 32} {s : State} {out : State} (h :
    Kept s0 s) (e : execDrainNotice src ms s = .next out) : Kept s0 out := by
  unfold execDrainNotice at e
  injection e with e
  subst e
  repeat' (first
    | with_reducible assumption | with_reducible refine freeNat_kept ?_
    | with_reducible refine mbxAccess_kept ?_ (fun _ _ => ?_) | with_reducible refine mbxTx_kept ?_
    | (dsimp only [accSt_go, accSt_wait, accSt_lost, accSt_fault]) | split)

theorem execResetModule_kept {s0 : State} {ch : BitVec 6} {src : BitVec 8} {s : State} {out : State} (h :
    Kept s0 s) (e : execResetModule ch src s = .next out) : Kept s0 out := by
  unfold execResetModule at e
  exact message_kept h e

theorem execGetIdentity_kept {s0 : State} {ch : BitVec 6} {src : BitVec 8} {s : State} {out : State} (h :
    Kept s0 s) (e : execGetIdentity ch src s = .next out) : Kept s0 out := by
  unfold execGetIdentity at e
  exact message_kept h e

/-! ## Registers -/

theorem writeCapDrv_kept {s0 s : State} {v : Nat} (h : Kept s0 s) : Kept s0 (writeCapDrv v s) := by
  unfold writeCapDrv
  split
  · exact h
  · refine h.trans ⟨rfl, Nat.le_refl _, BitVec.and_self, id, ?_⟩
    rintro ⟨a, b, c, d, e, f, g, i, j, _⟩
    refine ⟨a, b, c, d, e, f, g, i, j, ?_⟩
    dsimp only
    split
    · exact .inr rfl
    · exact .inl rfl

theorem setRingRegs_kept {s0 : State} {f : RingRegs → RingRegs} {s : State} (h : Kept s0 s) :
    Kept s0 (setRingRegs f s) := by
  unfold setRingRegs
  repeat' (first
    | with_reducible assumption | (fail_if_no_progress with_reducible (refine Kept.put ?_ rfl)))

theorem loadDb_kept {s0 s : State} (h : Kept s0 s) : Kept s0 (loadDb s) :=
  h.trans ⟨rfl, Nat.le_refl _, BitVec.and_self, id, id⟩

theorem setDb_kept {s0 s : State} {f : DbRegs → DbRegs} (h : Kept s0 s)
    (hf : 1 ≤ s.db.interval.toNat ∧ s.db.interval.toNat ≤ 64 →
      1 ≤ (f s.db).interval.toNat ∧ (f s.db).interval.toNat ≤ 64) : Kept s0 (setDb f s) := by
  have k : Kept s0 { s with db := f s.db } := h.trans ⟨rfl, Nat.le_refl _, BitVec.and_self, id,
    fun ⟨a, b, x⟩ => ⟨(hf ⟨a, b⟩).1, (hf ⟨a, b⟩).2, x⟩⟩
  unfold setDb
  dsimp only
  split
  · exact k
  · exact loadDb_kept k

theorem writeRcvAddr_kept {s0 : State} {hi : Bool} {v : Nat} {s : State} (h : Kept s0 s) :
    Kept s0 (writeRcvAddr hi v s) := by
  unfold writeRcvAddr
  repeat' (first
    | with_reducible assumption | (fail_if_no_progress with_reducible (refine Kept.put ?_ rfl)) | split)

/-- A value brought into a range that a field holds stays in it. -/
theorem clampTo_toNat {w lo hi : Nat} (v : Nat) (hl : lo ≤ hi) (hw : hi < 2 ^ w) :
    lo ≤ (BitVec.ofNat w (clampTo lo hi v)).toNat ∧ (BitVec.ofNat w (clampTo lo hi v)).toNat ≤ hi := by
  have h : clampTo lo hi v ≤ hi := by unfold clampTo; omega
  rw [BitVec.toNat_ofNat, Nat.mod_eq_of_lt (Nat.lt_of_le_of_lt h hw)]
  exact ⟨by unfold clampTo; omega, h⟩

/-- A change of the registers that have a range alone. -/
theorem Kept.regs {a t u : State} (h : Kept a t) (hp : u.pending = t.pending) (hn : u.nv = t.nv) (hm : u.mem = t.mem)
    (hf : FieldsOk t → FieldsOk u) : Kept a u :=
  h.trans ⟨hp, Nat.le_of_eq (by rw [hn]), by rw [hn]; exact BitVec.and_self, by unfold MemOk; rw [hm]; exact id, hf⟩

theorem bar0Write_kept {s0 s : State} {off v : Nat} (h : Kept s0 s) : Kept s0 (bar0Write off v s) := by
  unfold bar0Write
  split
  · exact writeCapDrv_kept h
  all_goals first
    | exact setRingRegs_kept h
    | exact ringCmd_kept h
    | exact setDb_kept h id
    | exact setDb_kept h fun _ => clampTo_toNat _ (by decide) (by decide)
    | exact writeCap_kept h
    | exact lnkCtrl_kept h
    | exact writeRcvAddr_kept h
    | exact rcvCtrl_kept h
    | exact h
    | exact h.upd rfl rfl rfl rfl
    | skip
  · exact h.regs rfl rfl rfl fun ⟨a, b, _, x⟩ => ⟨a, b, (clampTo_toNat _ (by decide) (by decide)).1, x⟩
  · exact h.regs rfl rfl rfl fun ⟨a, b, c, _, _, x⟩ =>
      ⟨a, b, c, (clampTo_toNat _ (by decide) (by decide)).1, (clampTo_toNat _ (by decide) (by decide)).2, x⟩
  · exact h.regs rfl rfl rfl fun ⟨a, b, c, d, e, _, _, x⟩ =>
      ⟨a, b, c, d, e, (clampTo_toNat _ (by decide) (by decide)).1, (clampTo_toNat _ (by decide) (by decide)).2, x⟩
  · exact h.regs rfl rfl rfl fun ⟨a, b, c, d, e, f, g, _, _, x⟩ =>
      ⟨a, b, c, d, e, f, g, (clampTo_toNat _ (by decide) (by decide)).1, (clampTo_toNat _ (by decide) (by decide)).2,
          x⟩

theorem msixWrite_kept {s0 : State} {i v : Nat} {s : State} (h : Kept s0 s) : Kept s0 (msixWrite i v s) := by
  unfold msixWrite
  repeat' (first
    | with_reducible assumption | with_reducible refine sendMsix_kept ?_
    | (fail_if_no_progress with_reducible (refine Kept.put ?_ rfl)) | split | (dsimp only))

theorem barWrite4_kept {s0 : State} {bar2 : Bool} {off v : Nat} {s : State} (h : Kept s0 s) :
    Kept s0 (barWrite4 bar2 off v s) := by
  unfold barWrite4
  repeat' (first
    | with_reducible assumption | with_reducible refine bar0Write_kept ?_
    | with_reducible refine msixWrite_kept ?_ | with_reducible refine winWrite4_kept ?_ | split)

theorem barWrite_kept {s0 : State} {bar2 : Bool} {off : Nat} {eight : Bool} {v : Nat} {s : State} (h :
    Kept s0 s) : Kept s0 (barWrite bar2 off eight v s) := by
  unfold barWrite
  repeat' (first
    | with_reducible assumption | with_reducible refine barWrite4_kept ?_ | split)

theorem execRegisterWrite_kept {s0 : State} {space : Space} {off : BitVec 20} {eight : Bool} {v : BitVec 64}
    {s : State} {out : State} (h : Kept s0 s) (e : execRegisterWrite space off eight v s = .next out) :
    Kept s0 out := by
  unfold execRegisterWrite at e
  injection e with e
  subst e
  repeat' (first
    | with_reducible assumption | with_reducible refine Kept.snd ?_ (by assumption)
    | with_reducible refine Kept.fst ?_ (by assumption) | with_reducible refine Kept.snd2 ?_ (by assumption)
    | with_reducible refine Kept.snd3 ?_ (by assumption) | with_reducible refine Kept.eqSnd ?_ (by assumption)
    | with_reducible refine Kept.eqFst ?_ (by assumption)
    | with_reducible refine barAccess_kept ?_ (fun _ _ => ?_) | with_reducible refine barWrite_kept ?_
    | with_reducible refine cfgAccess_kept ?_ (fun _ _ => ?_) | with_reducible refine cfgWrite_kept ?_
    | with_reducible refine ownWindow_kept ?_ (fun _ _ => ?_) | with_reducible refine winWrite_kept ?_
    | with_reducible (refine Kept.foldl ?_ (fun _ _ _ => ?_))
    | with_reducible (refine Kept.foldl2 ?_ (fun _ _ _ => ?_))
    | (fail_if_no_progress with_reducible (refine Kept.put ?_ rfl))
    | (dsimp only [accSt_go, accSt_wait, accSt_lost, accSt_fault]) | split | (dsimp only))

theorem execCapDrvWrite_kept {s0 : State} {v : BitVec 32} {s : State} {out : State} (h : Kept s0 s)
    (e : execCapDrvWrite v s = .next out) : Kept s0 out := by
  unfold execCapDrvWrite at e
  injection e with e
  subst e
  repeat' (first
    | with_reducible assumption | with_reducible refine barAccess_kept ?_ (fun _ _ => ?_)
    | with_reducible refine writeCapDrv_kept ?_)

theorem execPwrCapWrite_kept {s0 : State} {v : BitVec 32} {s : State} {out : State} (h : Kept s0 s)
    (e : execPwrCapWrite v s = .next out) : Kept s0 out := by
  unfold execPwrCapWrite at e
  injection e with e
  subst e
  repeat' (first
    | with_reducible assumption | with_reducible refine barAccess_kept ?_ (fun _ _ => ?_)
    | with_reducible refine writeCap_kept ?_)

theorem execLnkCtrlWrite_kept {s0 : State} {v : BitVec 32} {s : State} {out : State} (h : Kept s0 s)
    (e : execLnkCtrlWrite v s = .next out) : Kept s0 out := by
  unfold execLnkCtrlWrite at e
  injection e with e
  subst e
  repeat' (first
    | with_reducible assumption | with_reducible refine barAccess_kept ?_ (fun _ _ => ?_)
    | with_reducible refine lnkCtrl_kept ?_)

theorem execBarAccessMalformed_kept {s0 s out : State} {write bar2 : Bool} {off : BitVec 20} {size : Nat} (h :
    Kept s0 s)
    (e : execBarAccessMalformed write bar2 off size s = .next out) : Kept s0 out := by
  unfold execBarAccessMalformed at e
  injection e with e
  subst e
  exact barAccess_kept h fun _ k => k

/-! ## AdminInfo -/

theorem runIdentify_kept {s0 : State} {id : Nat} {d : Rec64} {s : State} (h : Kept s0 s) :
    Kept s0 (runIdentify id d s) := by
  unfold runIdentify
  repeat' (first
    | with_reducible assumption | with_reducible refine adminOut_kept ?_)

theorem slotBytes_kept {s0 : State} {i : Nat} {s : State} (h : Kept s0 s) : Kept s0 ((slotBytes i s).2) := by
  unfold slotBytes
  repeat' (first
    | with_reducible assumption | with_reducible refine freeNat_kept ?_ | split)

theorem shadowBytes_kept {s0 : State} {i : Nat} {s : State} (h : Kept s0 s) : Kept s0 ((shadowBytes i s).2) := by
  unfold shadowBytes
  repeat' (first
    | with_reducible assumption | with_reducible refine freeNat_kept ?_ | split)

theorem countersData_kept {s0 : State} {sel idx : Nat} {s : State} (h : Kept s0 s) :
    Kept s0 ((countersData sel idx s).2.2) := by
  unfold countersData
  repeat' (first
    | with_reducible assumption | with_reducible refine freeNat_kept ?_
    | with_reducible refine shadowBytes_kept ?_ | with_reducible refine slotBytes_kept ?_ | split)

theorem runCounters_kept {s0 : State} {id : Nat} {d : Rec64} {s : State} (h : Kept s0 s) :
    Kept s0 (runCounters id d s) := by
  unfold runCounters
  repeat' (first
    | with_reducible assumption | with_reducible refine adminOut_kept ?_
    | with_reducible refine countersData_kept ?_)

theorem runAttest_kept {s0 : State} {id : Nat} {d : Rec64} {s : State} (h : Kept s0 s) :
    Kept s0 (runAttest id d s) := by
  unfold runAttest
  repeat' (first
    | with_reducible assumption | with_reducible refine Kept.snd ?_ (by assumption)
    | with_reducible refine Kept.fst ?_ (by assumption) | with_reducible refine Kept.snd2 ?_ (by assumption)
    | with_reducible refine Kept.snd3 ?_ (by assumption) | with_reducible refine Kept.eqSnd ?_ (by assumption)
    | with_reducible refine Kept.eqFst ?_ (by assumption) | with_reducible refine adminDone_kept ?_
    | with_reducible refine adminOut_kept ?_ | with_reducible refine adminRead_kept ?_ | split)

/-! ## AdminRun -/

theorem runMove_kept {s0 : State} {id : Nat} {d : Rec64} {s : State} (h : Kept s0 s) : Kept s0 (runMove id d s) := by
  unfold runMove
  repeat' (first
    | with_reducible assumption | with_reducible refine Kept.snd ?_ (by assumption)
    | with_reducible refine Kept.fst ?_ (by assumption) | with_reducible refine Kept.snd2 ?_ (by assumption)
    | with_reducible refine Kept.snd3 ?_ (by assumption) | with_reducible refine Kept.eqSnd ?_ (by assumption)
    | with_reducible refine Kept.eqFst ?_ (by assumption) | with_reducible refine adminDone_kept ?_
    | with_reducible refine adminRead_kept ?_ | with_reducible refine submitMove_kept ?_ | split | (dsimp only))

theorem runPin_kept {s0 : State} {id : Nat} {d : Rec64} {s : State} (h : Kept s0 s) : Kept s0 (runPin id d s) := by
  unfold runPin
  repeat' (first
    | with_reducible assumption | with_reducible refine adminDone_kept ?_
    | with_reducible refine setHostPins_kept ?_ | with_reducible (refine Kept.foldl ?_ (fun _ _ _ => ?_)) | split)

theorem runUnpin_kept {s0 : State} {id : Nat} {d : Rec64} {s : State} (h : Kept s0 s) :
    Kept s0 (runUnpin id d s) := by
  unfold runUnpin
  repeat' (first
    | with_reducible assumption | with_reducible refine adminDone_kept ?_
    | with_reducible refine setHostPins_kept ?_ | with_reducible (refine Kept.foldl ?_ (fun _ _ _ => ?_)) | split)

theorem readSched_kept {s0 : State} {id a : Nat} {s : State} (h : Kept s0 s) : Kept s0 ((readSched id a s).2) := by
  unfold readSched
  repeat' (first
    | with_reducible assumption | with_reducible refine Kept.snd ?_ (by assumption)
    | with_reducible refine Kept.fst ?_ (by assumption) | with_reducible refine Kept.snd2 ?_ (by assumption)
    | with_reducible refine Kept.snd3 ?_ (by assumption) | with_reducible refine Kept.eqSnd ?_ (by assumption)
    | with_reducible refine Kept.eqFst ?_ (by assumption) | with_reducible refine adminRead_kept ?_ | split
    | (dsimp only))

theorem applySched_kept {s0 : State} {x : Schedule} {s : State} (h : Kept s0 s) : Kept s0 (applySched x s) := by
  unfold applySched
  repeat' (first
    | with_reducible assumption | (fail_if_no_progress with_reducible (refine Kept.put ?_ rfl)) | split)

theorem schedNamed_kept {s0 : State} {id : Nat} {d : Rec64} {s : State} (h : Kept s0 s) :
    Kept s0 ((schedNamed id d s).2) := by
  unfold schedNamed
  repeat' (first
    | with_reducible assumption | with_reducible refine Kept.snd ?_ (by assumption)
    | with_reducible refine Kept.fst ?_ (by assumption) | with_reducible refine Kept.snd2 ?_ (by assumption)
    | with_reducible refine Kept.snd3 ?_ (by assumption) | with_reducible refine Kept.eqSnd ?_ (by assumption)
    | with_reducible refine Kept.eqFst ?_ (by assumption) | with_reducible refine readSched_kept ?_ | split)

theorem stopsNamed_kept {s0 : State} {id : Nat} {d : Rec64} {s : State} (h : Kept s0 s) :
    Kept s0 ((stopsNamed id d s).2) := by
  unfold stopsNamed
  repeat' (first
    | with_reducible assumption | with_reducible refine Kept.snd ?_ (by assumption)
    | with_reducible refine Kept.fst ?_ (by assumption) | with_reducible refine Kept.snd2 ?_ (by assumption)
    | with_reducible refine Kept.snd3 ?_ (by assumption) | with_reducible refine Kept.eqSnd ?_ (by assumption)
    | with_reducible refine Kept.eqFst ?_ (by assumption) | with_reducible refine adminRead_kept ?_ | split
    | (dsimp only))

theorem putSched_kept {s0 : State} {d : Rec64} {x : Option Schedule} {b : List Byte} {s : State} (h :
    Kept s0 s) : Kept s0 (putSched d x b s) := by
  unfold putSched
  repeat' (first
    | with_reducible assumption | with_reducible refine applySched_kept ?_ | with_reducible refine wr_kept ?_
    | split)

theorem runSchedLoad_kept {s0 : State} {id : Nat} {d : Rec64} {s : State} (h : Kept s0 s) :
    Kept s0 (runSchedLoad id d s) := by
  unfold runSchedLoad
  repeat' (first
    | with_reducible assumption | with_reducible refine Kept.snd ?_ (by assumption)
    | with_reducible refine Kept.fst ?_ (by assumption) | with_reducible refine Kept.snd2 ?_ (by assumption)
    | with_reducible refine Kept.snd3 ?_ (by assumption) | with_reducible refine Kept.eqSnd ?_ (by assumption)
    | with_reducible refine Kept.eqFst ?_ (by assumption) | with_reducible refine adminDone_kept ?_
    | with_reducible refine putSched_kept ?_ | with_reducible refine schedNamed_kept ?_
    | with_reducible refine stopsNamed_kept ?_ | split)

theorem execSchedulePeriodBoundary_kept {s0 s : State} {out : State} (h : Kept s0 s)
    (e : execSchedulePeriodBoundary s = .next out) : Kept s0 out := by
  unfold execSchedulePeriodBoundary at e
  injection e with e
  subst e
  repeat' (first
    | with_reducible assumption | (fail_if_no_progress with_reducible (refine Kept.put ?_ rfl)) | split
    | (dsimp only))

theorem runSetFallback_kept {s0 : State} {id : Nat} {d : Rec64} {s : State} (h : Kept s0 s) :
    Kept s0 (runSetFallback id d s) := by
  unfold runSetFallback
  repeat' (first
    | with_reducible assumption | with_reducible refine adminDone_kept ?_ | with_reducible refine modPanel_kept ?_
    | split | (dsimp only))

theorem beginAdmin_kept {s0 : State} {id : Nat} {d : Rec64} {s : State} (h : Kept s0 s) :
    Kept s0 (beginAdmin id d s) := by
  unfold beginAdmin
  repeat' (first
    | with_reducible assumption | with_reducible refine adminDone_kept ?_
    | with_reducible refine runAttest_kept ?_ | with_reducible refine runBindOff_kept ?_
    | with_reducible refine runCastOn_kept ?_ | with_reducible refine runCounters_kept ?_
    | with_reducible refine runDeploy_kept ?_ | with_reducible refine runFwUpdate_kept ?_
    | with_reducible refine runIdentify_kept ?_ | with_reducible refine runMove_kept ?_
    | with_reducible refine runPanelCreate_kept ?_ | with_reducible refine runPanelDestroy_kept ?_
    | with_reducible refine runPin_kept ?_ | with_reducible refine runPlyBind_kept ?_
    | with_reducible refine runPlyRelease_kept ?_ | with_reducible refine runSchedLoad_kept ?_
    | with_reducible refine runSetFallback_kept ?_ | with_reducible refine runSwapWeights_kept ?_
    | with_reducible refine runSwatch_kept ?_ | with_reducible refine runUndeploy_kept ?_
    | with_reducible refine runUnpin_kept ?_ | split)

theorem retake_kept {s0 : State} {fuel : Nat} {x1 : State} (h : Kept s0 x1) : Kept s0 (retake fuel x1) := by
  fun_induction retake fuel x1 <;> (repeat' (first
    | with_reducible assumption | with_reducible refine beginAdmin_kept ?_
    | (fail_if_no_progress with_reducible (refine Kept.put ?_ rfl)) | with_reducible apply_assumption -exfalso))

theorem retakeAll_kept {s0 s : State} (h : Kept s0 s) : Kept s0 (retakeAll s) := by
  unfold retakeAll
  repeat' (first
    | with_reducible assumption | with_reducible refine retake_kept ?_)

theorem countRefused_kept {s0 : State} {d : Rec64} {status : Nat} {s : State} (h : Kept s0 s) :
    Kept s0 (countRefused d status s) := by
  unfold countRefused
  repeat' (first
    | with_reducible assumption | with_reducible refine Kept.snd ?_ (by assumption)
    | with_reducible refine Kept.fst ?_ (by assumption) | with_reducible refine Kept.snd2 ?_ (by assumption)
    | with_reducible refine Kept.snd3 ?_ (by assumption) | with_reducible refine Kept.eqSnd ?_ (by assumption)
    | with_reducible refine Kept.eqFst ?_ (by assumption) | with_reducible refine bump_kept ?_
    | with_reducible (refine Kept.foldl ?_ (fun _ _ _ => ?_))
    | with_reducible (refine Kept.foldl2 ?_ (fun _ _ _ => ?_))
    | (fail_if_no_progress with_reducible (refine Kept.put ?_ rfl)) | split | (dsimp only))

theorem acceptAdmin_kept {s0 : State} {d : Rec64} {s : State} (h : Kept s0 s) : Kept s0 (acceptAdmin d s) := by
  unfold acceptAdmin
  repeat' (first
    | with_reducible assumption | with_reducible refine bump_kept ?_ | with_reducible refine countRefused_kept ?_
    | with_reducible refine pushAdmin_kept ?_ | with_reducible refine retakeAll_kept ?_
    | (fail_if_no_progress with_reducible (refine Kept.put ?_ rfl)) | split)

theorem adminAs_kept {s0 : State} {op : Nat} {d : Rec64} {s : State} (h : Kept s0 s) : Kept s0 (adminAs op d s) := by
  unfold adminAs
  repeat' (first
    | with_reducible assumption | with_reducible refine acceptAdmin_kept ?_ | split)

theorem execIdentify_kept {s0 : State} {d : Rec64} {s : State} {out : State} (h : Kept s0 s)
    (e : execIdentify d s = .next out) : Kept s0 out := by
  unfold execIdentify at e
  injection e with e
  subst e
  repeat' (first
    | with_reducible assumption | with_reducible refine adminAs_kept ?_)

theorem execPanelCreate_kept {s0 : State} {d : Rec64} {s : State} {out : State} (h : Kept s0 s)
    (e : execPanelCreate d s = .next out) : Kept s0 out := by
  unfold execPanelCreate at e
  injection e with e
  subst e
  repeat' (first
    | with_reducible assumption | with_reducible refine adminAs_kept ?_)

theorem execPanelDestroy_kept {s0 : State} {d : Rec64} {s : State} {out : State} (h : Kept s0 s)
    (e : execPanelDestroy d s = .next out) : Kept s0 out := by
  unfold execPanelDestroy at e
  injection e with e
  subst e
  repeat' (first
    | with_reducible assumption | with_reducible refine adminAs_kept ?_)

theorem execCastOn_kept {s0 : State} {d : Rec64} {s : State} {out : State} (h : Kept s0 s)
    (e : execCastOn d s = .next out) : Kept s0 out := by
  unfold execCastOn at e
  injection e with e
  subst e
  repeat' (first
    | with_reducible assumption | with_reducible refine adminAs_kept ?_)

theorem execBindOff_kept {s0 : State} {d : Rec64} {s : State} {out : State} (h : Kept s0 s)
    (e : execBindOff d s = .next out) : Kept s0 out := by
  unfold execBindOff at e
  injection e with e
  subst e
  repeat' (first
    | with_reducible assumption | with_reducible refine adminAs_kept ?_)

theorem execDeploy_kept {s0 : State} {d : Rec64} {s : State} {out : State} (h : Kept s0 s)
    (e : execDeploy d s = .next out) : Kept s0 out := by
  unfold execDeploy at e
  injection e with e
  subst e
  repeat' (first
    | with_reducible assumption | with_reducible refine adminAs_kept ?_)

theorem execUndeploy_kept {s0 : State} {d : Rec64} {s : State} {out : State} (h : Kept s0 s)
    (e : execUndeploy d s = .next out) : Kept s0 out := by
  unfold execUndeploy at e
  injection e with e
  subst e
  repeat' (first
    | with_reducible assumption | with_reducible refine adminAs_kept ?_)

theorem execSwapWeights_kept {s0 : State} {d : Rec64} {s : State} {out : State} (h : Kept s0 s)
    (e : execSwapWeights d s = .next out) : Kept s0 out := by
  unfold execSwapWeights at e
  injection e with e
  subst e
  repeat' (first
    | with_reducible assumption | with_reducible refine adminAs_kept ?_)

theorem execMove_kept {s0 : State} {d : Rec64} {s : State} {out : State} (h : Kept s0 s)
    (e : execMove d s = .next out) : Kept s0 out := by
  unfold execMove at e
  injection e with e
  subst e
  repeat' (first
    | with_reducible assumption | with_reducible refine adminAs_kept ?_)

theorem execPin_kept {s0 : State} {d : Rec64} {s : State} {out : State} (h : Kept s0 s)
    (e : execPin d s = .next out) : Kept s0 out := by
  unfold execPin at e
  injection e with e
  subst e
  repeat' (first
    | with_reducible assumption | with_reducible refine adminAs_kept ?_)

theorem execUnpin_kept {s0 : State} {d : Rec64} {s : State} {out : State} (h : Kept s0 s)
    (e : execUnpin d s = .next out) : Kept s0 out := by
  unfold execUnpin at e
  injection e with e
  subst e
  repeat' (first
    | with_reducible assumption | with_reducible refine adminAs_kept ?_)

theorem execSchedLoad_kept {s0 : State} {d : Rec64} {s : State} {out : State} (h : Kept s0 s)
    (e : execSchedLoad d s = .next out) : Kept s0 out := by
  unfold execSchedLoad at e
  injection e with e
  subst e
  repeat' (first
    | with_reducible assumption | with_reducible refine adminAs_kept ?_)

theorem execPlyBind_kept {s0 : State} {d : Rec64} {s : State} {out : State} (h : Kept s0 s)
    (e : execPlyBind d s = .next out) : Kept s0 out := by
  unfold execPlyBind at e
  injection e with e
  subst e
  repeat' (first
    | with_reducible assumption | with_reducible refine adminAs_kept ?_)

theorem execPlyRelease_kept {s0 : State} {d : Rec64} {s : State} {out : State} (h : Kept s0 s)
    (e : execPlyRelease d s = .next out) : Kept s0 out := by
  unfold execPlyRelease at e
  injection e with e
  subst e
  repeat' (first
    | with_reducible assumption | with_reducible refine adminAs_kept ?_)

theorem execAttest_kept {s0 : State} {d : Rec64} {s : State} {out : State} (h : Kept s0 s)
    (e : execAttest d s = .next out) : Kept s0 out := by
  unfold execAttest at e
  injection e with e
  subst e
  repeat' (first
    | with_reducible assumption | with_reducible refine adminAs_kept ?_)

theorem execSwatch_kept {s0 : State} {d : Rec64} {s : State} {out : State} (h : Kept s0 s)
    (e : execSwatch d s = .next out) : Kept s0 out := by
  unfold execSwatch at e
  injection e with e
  subst e
  repeat' (first
    | with_reducible assumption | with_reducible refine adminAs_kept ?_)

theorem execCounters_kept {s0 : State} {d : Rec64} {s : State} {out : State} (h : Kept s0 s)
    (e : execCounters d s = .next out) : Kept s0 out := by
  unfold execCounters at e
  injection e with e
  subst e
  repeat' (first
    | with_reducible assumption | with_reducible refine adminAs_kept ?_)

theorem execFwUpdate_kept {s0 : State} {d : Rec64} {s : State} {out : State} (h : Kept s0 s)
    (e : execFwUpdate d s = .next out) : Kept s0 out := by
  unfold execFwUpdate at e
  injection e with e
  subst e
  repeat' (first
    | with_reducible assumption | with_reducible refine adminAs_kept ?_)

theorem execSetFallback_kept {s0 : State} {d : Rec64} {s : State} {out : State} (h : Kept s0 s)
    (e : execSetFallback d s = .next out) : Kept s0 out := by
  unfold execSetFallback at e
  injection e with e
  subst e
  repeat' (first
    | with_reducible assumption | with_reducible refine adminAs_kept ?_)

theorem execNop_kept {s0 : State} {ring : BitVec 12} {d : Rec64} {s : State} {out : State} (h : Kept s0 s)
    (e : execNop ring d s = .next out) : Kept s0 out := by
  unfold execNop at e
  injection e with e
  subst e
  repeat' (first
    | with_reducible assumption | with_reducible refine adminAs_kept ?_ | with_reducible refine submitAs_kept ?_
    | split)

theorem takeDesc_kept {s0 : State} {r : Nat} {d : Rec64} {s : State} (h : Kept s0 s) : Kept s0 (takeDesc r d s) := by
  unfold takeDesc
  repeat' (first
    | with_reducible assumption | with_reducible refine acceptAdmin_kept ?_
    | with_reducible refine modRing_kept ?_ | with_reducible refine submitRequest_kept ?_ | split)

theorem readDescs_kept {s0 : State} {r n : Nat} {x2 : State} (h : Kept s0 x2) : Kept s0 (readDescs r n x2) := by
  fun_induction readDescs r n x2 <;> (repeat' (first
    | with_reducible assumption | with_reducible refine Kept.snd ?_ (by assumption)
    | with_reducible refine Kept.fst ?_ (by assumption) | with_reducible refine Kept.snd2 ?_ (by assumption)
    | with_reducible refine Kept.snd3 ?_ (by assumption) | with_reducible refine Kept.eqSnd ?_ (by assumption)
    | with_reducible refine Kept.eqFst ?_ (by assumption) | with_reducible refine hostRead_kept ?_
    | with_reducible refine ringError_kept ?_ | with_reducible refine takeDesc_kept ?_
    | with_reducible apply_assumption -exfalso))

theorem pollCount_kept {s0 : State} {r n : Nat} {s : State} (h : Kept s0 s) : Kept s0 ((pollCount r n s).2) := by
  unfold pollCount
  repeat' (first
    | with_reducible assumption | with_reducible refine Kept.snd ?_ (by assumption)
    | with_reducible refine Kept.fst ?_ (by assumption) | with_reducible refine Kept.snd2 ?_ (by assumption)
    | with_reducible refine Kept.snd3 ?_ (by assumption) | with_reducible refine Kept.eqSnd ?_ (by assumption)
    | with_reducible refine Kept.eqFst ?_ (by assumption) | with_reducible refine freeNat_kept ?_
    | with_reducible (refine Kept.foldl ?_ (fun _ _ _ => ?_))
    | with_reducible (refine Kept.foldl2 ?_ (fun _ _ _ => ?_))
    | (fail_if_no_progress with_reducible (refine Kept.put ?_ rfl)) | split | (dsimp only))

theorem pollRing_kept {s0 : State} {r : Nat} {s : State} (h : Kept s0 s) : Kept s0 (pollRing r s) := by
  unfold pollRing
  repeat' (first
    | with_reducible assumption | with_reducible refine Kept.snd ?_ (by assumption)
    | with_reducible refine Kept.fst ?_ (by assumption) | with_reducible refine Kept.snd2 ?_ (by assumption)
    | with_reducible refine Kept.snd3 ?_ (by assumption) | with_reducible refine Kept.eqSnd ?_ (by assumption)
    | with_reducible refine Kept.eqFst ?_ (by assumption) | with_reducible refine hostRead_kept ?_
    | with_reducible refine pollCount_kept ?_ | with_reducible refine readDescs_kept ?_
    | with_reducible refine ringError_kept ?_ | with_reducible refine writeDevIdx_kept ?_ | split | (dsimp only))

theorem pollHead_kept {s0 : State} {r : Nat} {s : State} (h : Kept s0 s) : Kept s0 (pollHead r s) := by
  unfold pollHead
  repeat' (first
    | with_reducible assumption | with_reducible refine Kept.snd ?_ (by assumption)
    | with_reducible refine Kept.fst ?_ (by assumption) | with_reducible refine Kept.snd2 ?_ (by assumption)
    | with_reducible refine Kept.snd3 ?_ (by assumption) | with_reducible refine Kept.eqSnd ?_ (by assumption)
    | with_reducible refine Kept.eqFst ?_ (by assumption) | with_reducible refine hostRead_kept ?_
    | with_reducible refine ringError_kept ?_ | with_reducible refine setRing_kept ?_ | split | (dsimp only))

theorem pollOnce_kept {s0 s : State} (h : Kept s0 s) : Kept s0 (pollOnce s) := by
  unfold pollOnce
  repeat' (first
    | with_reducible assumption | with_reducible refine Kept.snd ?_ (by assumption)
    | with_reducible refine Kept.fst ?_ (by assumption) | with_reducible refine Kept.snd2 ?_ (by assumption)
    | with_reducible refine Kept.snd3 ?_ (by assumption) | with_reducible refine Kept.eqSnd ?_ (by assumption)
    | with_reducible refine Kept.eqFst ?_ (by assumption) | with_reducible refine bump_kept ?_
    | with_reducible refine hostRead_kept ?_ | with_reducible refine loadDb_kept ?_
    | with_reducible refine pollHead_kept ?_ | with_reducible refine pollRing_kept ?_
    | with_reducible refine retakeAll_kept ?_ | with_reducible (refine Kept.foldl ?_ (fun _ _ _ => ?_))
    | (fail_if_no_progress with_reducible (refine Kept.put ?_ rfl)) | split)

theorem execPoll_kept {s0 s : State} {out : State} (h : Kept s0 s) (e : execPoll s = .next out) : Kept s0 out := by
  unfold execPoll at e
  injection e with e
  subst e
  repeat' (first
    | with_reducible assumption | with_reducible refine pollOnce_kept ?_ | split)

/-! ## Clock -/

theorem endFlr_kept {s0 s : State} (h : Kept s0 s) : Kept s0 (endFlr s) := by
  unfold endFlr
  repeat' (first
    | with_reducible assumption | with_reducible refine goOn_kept ?_
    | (fail_if_no_progress with_reducible (refine Kept.put ?_ rfl)) | split)

theorem dueNulls_kept {s0 s : State} (h : Kept s0 s) : Kept s0 (dueNulls s) := by
  unfold dueNulls
  repeat' (first
    | with_reducible assumption | with_reducible refine sendNulls_kept ?_
    | with_reducible (refine Kept.foldl ?_ (fun _ _ _ => ?_)) | split | (dsimp only))

theorem countCreditWaits_kept {s0 s : State} (h : Kept s0 s) : Kept s0 (countCreditWaits s) := by
  unfold countCreditWaits
  repeat' (first
    | with_reducible assumption | with_reducible refine Kept.snd ?_ (by assumption)
    | with_reducible refine Kept.fst ?_ (by assumption) | with_reducible refine Kept.snd2 ?_ (by assumption)
    | with_reducible refine Kept.snd3 ?_ (by assumption) | with_reducible refine Kept.eqSnd ?_ (by assumption)
    | with_reducible refine Kept.eqFst ?_ (by assumption) | with_reducible refine bump_kept ?_
    | with_reducible (refine Kept.foldl ?_ (fun _ _ _ => ?_))
    | with_reducible (refine Kept.foldl2 ?_ (fun _ _ _ => ?_))
    | (fail_if_no_progress with_reducible (refine Kept.put ?_ rfl)) | split | (dsimp only))

theorem tick_kept {s0 s : State} (h : Kept s0 s) : Kept s0 (tick s) := by
  unfold tick
  repeat' (first
    | with_reducible assumption | with_reducible refine countCreditWaits_kept ?_
    | with_reducible refine dueNulls_kept ?_ | with_reducible refine endFlr_kept ?_
    | with_reducible refine retakeAll_kept ?_ | (fail_if_no_progress with_reducible (refine Kept.put ?_ rfl))
    | split | (dsimp only))

end Sys2Proof.Laws
end

