-- ==== Sys2Proof/Laws/PerInstr.lean ====
section
/-! SUPPORT. Per command: its instruction word fits the 64 bits of R112, so no operand field runs over another's or over OP;
a command that is no unit instruction has the word 0. -/
namespace Sys2Proof.Laws
open Sys2Proof Machine

theorem shl_fits {w k n : Nat} (v : BitVec w) (h : w + k ≤ n) : v.toNat <<< k < 2 ^ n := by
  rw [Nat.shiftLeft_eq]
  calc v.toNat * 2 ^ k < 2 ^ w * 2 ^ k := Nat.mul_lt_mul_of_pos_right v.isLt (Nat.two_pow_pos k)
    _ = 2 ^ (w + k) := (Nat.pow_add 2 w k).symm
    _ ≤ 2 ^ n := Nat.pow_le_pow_right (by decide) h

theorem bit_fits {k n : Nat} (b : Bool) (h : 1 + k ≤ n) : b2n b <<< k < 2 ^ n := by
  cases b
  · simp [b2n]
  · exact shl_fits (1 : BitVec 1) h

theorem num_fits {w n : Nat} (v : BitVec w) (h : w ≤ n) : v.toNat < 2 ^ n :=
  Nat.lt_of_lt_of_le v.isLt (Nat.pow_le_pow_right (by decide) h)

theorem mask_fits {n : Nat} (v : BitVec 3) (h : 8 ≤ n) : 2 ^ v.toNat < 2 ^ n :=
  Nat.pow_lt_pow_right (by decide) (Nat.lt_of_lt_of_le v.isLt h)

theorem fits_nil : ∀ f ∈ ([] : List (Nat × Nat)), f.2 <<< f.1 < 2 ^ 42 := fun _ h => absurd h List.not_mem_nil

theorem fits_cons {k x : Nat} {l : List (Nat × Nat)} (h : x <<< k < 2 ^ 42) (t : ∀ f ∈ l, f.2 <<< f.1 < 2 ^ 42) :
    ∀ f ∈ (k, x) :: l, f.2 <<< f.1 < 2 ^ 42 := fun f hf => by
  rcases List.mem_cons.1 hf with rfl | hf
  · exact h
  · exact t f hf

/-- Operand fields that each end below bit 42 make operands below bit 42. -/
theorem opFields_fits {l : List (Nat × Nat)} (h : ∀ f ∈ l, f.2 <<< f.1 < 2 ^ 42) : opFields l < 2 ^ 42 := by
  have key : ∀ (l : List (Nat × Nat)) (a : Nat), a < 2 ^ 42 → (∀ f ∈ l, f.2 <<< f.1 < 2 ^ 42) →
      l.foldl (fun a f => a ||| f.2 <<< f.1) a < 2 ^ 42 := by
    intro l
    induction l with
    | nil => exact fun _ ha _ => ha
    | cons f l ih =>
      exact fun a ha h => ih _ (Nat.or_lt_two_pow ha (h f List.mem_cons_self)) fun g hg => h g (List.mem_cons_of_mem _ hg)
  exact key l 0 (by decide) h

/-- A word of an opcode, masks of 8 bits and operands of 42 bits. -/
theorem mkWord_fits {op inp out operands : Nat} (ho : op < 2 ^ 6) (hi : inp < 2 ^ 8) (hu : out < 2 ^ 8)
    (h : operands < 2 ^ 42) : mkWord op inp out operands < 2 ^ 64 := by
  unfold mkWord
  refine Nat.or_lt_two_pow (Nat.or_lt_two_pow (Nat.or_lt_two_pow ?_ ?_) ?_) (by omega) <;> rw [Nat.shiftLeft_eq] <;> omega

end Sys2Proof.Laws

/-- The instruction word of a command fits 64 bits. -/
def Sys2Proof.Laws.WordFits.Statement (i : Sys2Proof.Instr) : Prop := Sys2Proof.Machine.iword i < 2 ^ 64

namespace Sys2Proof.Laws
open Sys2Proof Machine

theorem WordFits.nopInstruction (u : BitVec 9) : WordFits.Statement (.nopInstruction u) :=
  mkWord_fits (by decide) (by decide) (by decide) (by decide)

theorem WordFits.halt (u : BitVec 9) : WordFits.Statement (.halt u) :=
  mkWord_fits (by decide) (by decide) (by decide) (by decide)

theorem WordFits.jump (u : BitVec 9) (target : BitVec 10) : WordFits.Statement (.jump u target) :=
  mkWord_fits (by decide) (by decide) (by decide) (num_fits _ (by decide))

theorem WordFits.loop (u : BitVec 9) (out : BitVec 8) (target : BitVec 10) (ctr : BitVec 4) (mark : Bool) :
    WordFits.Statement (.loop u out target ctr mark) :=
  mkWord_fits (by decide) (by decide) (num_fits _ (by decide)) (opFields_fits (fits_cons (shl_fits _ (by
    decide)) (fits_cons (shl_fits _ (by decide)) (fits_cons (bit_fits _ (by decide)) fits_nil))))

theorem WordFits.brm (u : BitVec 9) (inp : BitVec 8) (target : BitVec 10) (type : BitVec 4) (keep argm : Bool) (arg
    : BitVec 12) : WordFits.Statement (.brm u inp target type keep argm arg) :=
  mkWord_fits (by decide) (num_fits _ (by decide)) (by decide) (opFields_fits (fits_cons (shl_fits _ (by
    decide)) (fits_cons (shl_fits _ (by decide)) (fits_cons (bit_fits _ (by decide)) (fits_cons (bit_fits _ (by
    decide)) (fits_cons (shl_fits _ (by decide)) fits_nil))))))

theorem WordFits.semWait (u : BitVec 9) (sem : BitVec 5) : WordFits.Statement (.semWait u sem) :=
  mkWord_fits (by decide) (by decide) (by decide) (num_fits _ (by decide))

theorem WordFits.semSignal (u : BitVec 9) (sem : BitVec 5) (route : BitVec 3) : WordFits.Statement (.semSignal u sem
    route) :=
  mkWord_fits (by decide) (by decide) (by decide) (opFields_fits (fits_cons (shl_fits _ (by decide)) (fits_cons
    (shl_fits _ (by decide)) fits_nil)))

theorem WordFits.barrier (u : BitVec 9) (inp out : BitVec 8) (id : BitVec 12) : WordFits.Statement (.barrier u inp
    out id) :=
  mkWord_fits (by decide) (num_fits _ (by decide)) (num_fits _ (by decide)) (num_fits _ (by decide))

theorem WordFits.claim (u : BitVec 9) (ctr : BitVec 4) (region : Bool) (list : BitVec 4) (target : BitVec 10) :
    WordFits.Statement (.claim u ctr region list target) :=
  mkWord_fits (by decide) (by decide) (by decide) (opFields_fits (fits_cons (shl_fits _ (by decide)) (fits_cons
    (bit_fits _ (by decide)) (fits_cons (shl_fits _ (by decide)) (fits_cons (shl_fits _ (by decide)) fits_nil)))))

theorem WordFits.doneTile (u : BitVec 9) (ctr : BitVec 4) (region : Bool) (list : BitVec 4) : WordFits.Statement
    (.doneTile u ctr region list) :=
  mkWord_fits (by decide) (by decide) (by decide) (opFields_fits (fits_cons (shl_fits _ (by decide)) (fits_cons
    (bit_fits _ (by decide)) (fits_cons (shl_fits _ (by decide)) fits_nil))))

theorem WordFits.prob (u : BitVec 9) (ctr seg : BitVec 4) : WordFits.Statement (.prob u ctr seg) :=
  mkWord_fits (by decide) (by decide) (by decide) (opFields_fits (fits_cons (shl_fits _ (by decide)) (fits_cons
    (shl_fits _ (by decide)) fits_nil)))

theorem WordFits.mwait (u : BitVec 9) (tag : BitVec 16) : WordFits.Statement (.mwait u tag) :=
  mkWord_fits (by decide) (by decide) (by decide) (num_fits _ (by decide))

theorem WordFits.cset (u : BitVec 9) (ctr : BitVec 4) (part : BitVec 2) (apply : Bool) (value : BitVec 32) :
    WordFits.Statement (.cset u ctr part apply value) :=
  mkWord_fits (by decide) (by decide) (by decide) (opFields_fits (fits_cons (shl_fits _ (by decide)) (fits_cons
    (shl_fits _ (by decide)) (fits_cons (bit_fits _ (by decide)) (fits_cons (shl_fits _ (by decide)) fits_nil)))))

theorem WordFits.cadd (u : BitVec 9) (ctr : BitVec 4) (imm : BitVec 32) : WordFits.Statement (.cadd u ctr imm) :=
  mkWord_fits (by decide) (by decide) (by decide) (opFields_fits (fits_cons (shl_fits _ (by decide)) (fits_cons
    (shl_fits _ (by decide)) fits_nil)))

theorem WordFits.cload (u : BitVec 9) (ctr actr : BitVec 4) (toBound : Bool) : WordFits.Statement (.cload u ctr actr
    toBound) :=
  mkWord_fits (by decide) (by decide) (by decide) (opFields_fits (fits_cons (shl_fits _ (by decide)) (fits_cons
    (shl_fits _ (by decide)) (fits_cons (bit_fits _ (by decide)) fits_nil))))

theorem WordFits.cstep (u : BitVec 9) (ctr : BitVec 4) : WordFits.Statement (.cstep u ctr) :=
  mkWord_fits (by decide) (by decide) (by decide) (num_fits _ (by decide))

theorem WordFits.plane (u : BitVec 9) (inp : BitVec 8) (actr : BitVec 4) (cell : BitVec 2) (p : Bool) :
    WordFits.Statement (.plane u inp actr cell p) :=
  mkWord_fits (by decide) (num_fits _ (by decide)) (by decide) (opFields_fits (fits_cons (shl_fits _ (by
    decide)) (fits_cons (shl_fits _ (by decide)) (fits_cons (bit_fits _ (by decide)) fits_nil))))

theorem WordFits.pass (u : BitVec 9) (inp : BitVec 8) (shape : BitVec 3) (m1 : BitVec 8) (actr afmt wfmt : BitVec 4)
    (keep add p : Bool) (upsets : List Upset) : WordFits.Statement (.pass u inp shape m1 actr afmt wfmt keep add p
    upsets) :=
  mkWord_fits (by decide) (num_fits _ (by decide)) (by decide) (opFields_fits (fits_cons (shl_fits _ (by
    decide)) (fits_cons (shl_fits _ (by decide)) (fits_cons (shl_fits _ (by decide)) (fits_cons (shl_fits _ (by
    decide)) (fits_cons (shl_fits _ (by decide)) (fits_cons (bit_fits _ (by decide)) (fits_cons (bit_fits _ (by
    decide)) (fits_cons (bit_fits _ (by decide)) fits_nil)))))))))

theorem WordFits.accin (u : BitVec 9) (inp : BitVec 8) (actr : BitVec 4) (rows1 : BitVec 8) (p : Bool) :
    WordFits.Statement (.accin u inp actr rows1 p) :=
  mkWord_fits (by decide) (num_fits _ (by decide)) (by decide) (opFields_fits (fits_cons (shl_fits _ (by
    decide)) (fits_cons (shl_fits _ (by decide)) (fits_cons (bit_fits _ (by decide)) fits_nil))))

theorem WordFits.drain (u : BitVec 9) (out : BitVec 8) (dctr : BitVec 4) (dest : BitVec 2) (seg ofmt : BitVec 4)
    (tensor : BitVec 8) (act : BitVec 4) (bias : Bool) (bctr : BitVec 4) (rows1 : BitVec 8) (p : Bool) :
    WordFits.Statement (.drain u out dctr dest seg ofmt tensor act bias bctr rows1 p) :=
  mkWord_fits (by decide) (by decide) (num_fits _ (by decide)) (opFields_fits (fits_cons (shl_fits _ (by
    decide)) (fits_cons (shl_fits _ (by decide)) (fits_cons (shl_fits _ (by decide)) (fits_cons (shl_fits _ (by
    decide)) (fits_cons (shl_fits _ (by decide)) (fits_cons (shl_fits _ (by decide)) (fits_cons (bit_fits _ (by
    decide)) (fits_cons (shl_fits _ (by decide)) (fits_cons (shl_fits _ (by decide)) (fits_cons (bit_fits _ (by
    decide)) fits_nil)))))))))))

theorem WordFits.vop (u : BitVec 9) (vfn : BitVec 6) (a b c d : BitVec 4) (rows1 : BitVec 8) (fmt : BitVec 4) :
    WordFits.Statement (.vop u vfn a b c d rows1 fmt) :=
  mkWord_fits (by decide) (by decide) (by decide) (opFields_fits (fits_cons (shl_fits _ (by decide)) (fits_cons
    (shl_fits _ (by decide)) (fits_cons (shl_fits _ (by decide)) (fits_cons (shl_fits _ (by decide)) (fits_cons
    (shl_fits _ (by decide)) (fits_cons (shl_fits _ (by decide)) (fits_cons (shl_fits _ (by decide))
    fits_nil))))))))

theorem WordFits.vred (u : BitVec 9) (max chain : Bool) (a d : BitVec 4) (rows1 : BitVec 8) : WordFits.Statement
    (.vred u max chain a d rows1) :=
  mkWord_fits (by decide) (by decide) (by decide) (opFields_fits (fits_cons (bit_fits _ (by decide)) (fits_cons
    (bit_fits _ (by decide)) (fits_cons (shl_fits _ (by decide)) (fits_cons (shl_fits _ (by decide)) (fits_cons
    (shl_fits _ (by decide)) fits_nil))))))

theorem WordFits.vsmax (u : BitVec 9) (sc st po : BitVec 4) (n1 : BitVec 7) (final : Bool) : WordFits.Statement
    (.vsmax u sc st po n1 final) :=
  mkWord_fits (by decide) (by decide) (by decide) (opFields_fits (fits_cons (shl_fits _ (by decide)) (fits_cons
    (shl_fits _ (by decide)) (fits_cons (shl_fits _ (by decide)) (fits_cons (shl_fits _ (by decide)) (fits_cons
    (bit_fits _ (by decide)) fits_nil))))))

theorem WordFits.vtopk (u : BitVec 9) (a d w : BitVec 4) (k1 : BitVec 12) (rows1 : BitVec 8) (first finish p : Bool)
    : WordFits.Statement (.vtopk u a d w k1 rows1 first finish p) :=
  mkWord_fits (by decide) (by decide) (by decide) (opFields_fits (fits_cons (shl_fits _ (by decide)) (fits_cons
    (shl_fits _ (by decide)) (fits_cons (shl_fits _ (by decide)) (fits_cons (shl_fits _ (by decide)) (fits_cons
    (shl_fits _ (by decide)) (fits_cons (bit_fits _ (by decide)) (fits_cons (bit_fits _ (by decide)) (fits_cons
    (bit_fits _ (by decide)) fits_nil)))))))))

theorem WordFits.vsample (u : BitVec 9) (a d sd t n : BitVec 4) (draw : BitVec 16) : WordFits.Statement (.vsample u
    a d sd t n draw) :=
  mkWord_fits (by decide) (by decide) (by decide) (opFields_fits (fits_cons (shl_fits _ (by decide)) (fits_cons
    (shl_fits _ (by decide)) (fits_cons (shl_fits _ (by decide)) (fits_cons (shl_fits _ (by decide)) (fits_cons
    (shl_fits _ (by decide)) (fits_cons (shl_fits _ (by decide)) fits_nil)))))))

theorem WordFits.vrand (u : BitVec 9) (d sd t : BitVec 4) (draw : BitVec 16) (rows1 : BitVec 8) : WordFits.Statement
    (.vrand u d sd t draw rows1) :=
  mkWord_fits (by decide) (by decide) (by decide) (opFields_fits (fits_cons (shl_fits _ (by decide)) (fits_cons
    (shl_fits _ (by decide)) (fits_cons (shl_fits _ (by decide)) (fits_cons (shl_fits _ (by decide)) (fits_cons
    (shl_fits _ (by decide)) fits_nil))))))

theorem WordFits.load (u : BitVec 9) (lctr seg octr : BitVec 4) (beats1 : BitVec 8) (verify : Bool) :
    WordFits.Statement (.load u lctr seg octr beats1 verify) :=
  mkWord_fits (by decide) (by decide) (by decide) (opFields_fits (fits_cons (shl_fits _ (by decide)) (fits_cons
    (shl_fits _ (by decide)) (fits_cons (shl_fits _ (by decide)) (fits_cons (shl_fits _ (by decide)) (fits_cons
    (bit_fits _ (by decide)) fits_nil))))))

theorem WordFits.store (u : BitVec 9) (lctr seg octr : BitVec 4) (beats1 : BitVec 8) : WordFits.Statement (.store u
    lctr seg octr beats1) :=
  mkWord_fits (by decide) (by decide) (by decide) (opFields_fits (fits_cons (shl_fits _ (by decide)) (fits_cons
    (shl_fits _ (by decide)) (fits_cons (shl_fits _ (by decide)) (fits_cons (shl_fits _ (by decide)) fits_nil)))))

theorem WordFits.send (u : BitVec 9) (out : BitVec 8) (lctr : BitVec 4) (beats1 : BitVec 8) : WordFits.Statement
    (.send u out lctr beats1) :=
  mkWord_fits (by decide) (by decide) (num_fits _ (by decide)) (opFields_fits (fits_cons (shl_fits _ (by
    decide)) (fits_cons (shl_fits _ (by decide)) fits_nil)))

theorem WordFits.recv (u : BitVec 9) (inp : BitVec 8) (lctr : BitVec 4) (beats1 : BitVec 8) (mka : BitVec 2) :
    WordFits.Statement (.recv u inp lctr beats1 mka) :=
  mkWord_fits (by decide) (num_fits _ (by decide)) (by decide) (opFields_fits (fits_cons (shl_fits _ (by
    decide)) (fits_cons (shl_fits _ (by decide)) (fits_cons (shl_fits _ (by decide)) fits_nil))))

theorem WordFits.fwd (u : BitVec 9) (inp out : BitVec 8) (beats1 : BitVec 8) (mka : BitVec 2) : WordFits.Statement
    (.fwd u inp out beats1 mka) :=
  mkWord_fits (by decide) (num_fits _ (by decide)) (num_fits _ (by decide)) (opFields_fits (fits_cons (shl_fits
    _ (by decide)) (fits_cons (shl_fits _ (by decide)) fits_nil)))

theorem WordFits.mark (u : BitVec 9) (out : BitVec 8) (marker : BitVec 16) : WordFits.Statement (.mark u out marker)
    :=
  mkWord_fits (by decide) (by decide) (num_fits _ (by decide)) (num_fits _ (by decide))

theorem WordFits.steer (u : BitVec 9) (data ctl out0 out1 : BitVec 3) (beats count1 : BitVec 8) : WordFits.Statement
    (.steer u data ctl out0 out1 beats count1) :=
  mkWord_fits (by decide) (Nat.or_lt_two_pow (mask_fits _ (by decide)) (mask_fits _ (by decide)))
    (Nat.or_lt_two_pow (mask_fits _ (by decide)) (mask_fits _ (by decide))) (opFields_fits (fits_cons (shl_fits _
    (by decide)) (fits_cons (shl_fits _ (by decide)) (fits_cons (shl_fits _ (by decide)) (fits_cons (shl_fits _
    (by decide)) (fits_cons (shl_fits _ (by decide)) (fits_cons (shl_fits _ (by decide)) fits_nil)))))))

theorem WordFits.merge (u : BitVec 9) (in0 in1 ctl out : BitVec 3) (beats count1 : BitVec 8) : WordFits.Statement
    (.merge u in0 in1 ctl out beats count1) :=
  mkWord_fits (by decide) (Nat.or_lt_two_pow (Nat.or_lt_two_pow (mask_fits _ (by decide)) (mask_fits _ (by
    decide))) (mask_fits _ (by decide))) (mask_fits _ (by decide)) (opFields_fits (fits_cons (shl_fits _ (by
    decide)) (fits_cons (shl_fits _ (by decide)) (fits_cons (shl_fits _ (by decide)) (fits_cons (shl_fits _ (by
    decide)) (fits_cons (shl_fits _ (by decide)) (fits_cons (shl_fits _ (by decide)) fits_nil)))))))

theorem WordFits.stepFire (u : BitVec 9) (engine : BitVec 3) : WordFits.Statement (.stepFire u engine) :=
    Nat.two_pow_pos 64

theorem WordFits.spillReturn (u : BitVec 9) (strand : BitVec 3) : WordFits.Statement (.spillReturn u strand) :=
    Nat.two_pow_pos 64

theorem WordFits.passCheckOutcome (u : BitVec 9) (bufB : Bool) : WordFits.Statement (.passCheckOutcome u bufB) :=
    Nat.two_pow_pos 64

theorem WordFits.replayIssue (u : BitVec 9) (upsets : List Upset) : WordFits.Statement (.replayIssue u upsets) :=
    Nat.two_pow_pos 64

theorem WordFits.passCommit (u : BitVec 9) (bufB : Bool) : WordFits.Statement (.passCommit u bufB) :=
    Nat.two_pow_pos 64

theorem WordFits.tileDrainStart (u : BitVec 9) : WordFits.Statement (.tileDrainStart u) := Nat.two_pow_pos 64

theorem WordFits.semaphoreSignalArrive (u : BitVec 9) (sem : BitVec 5) : WordFits.Statement (.semaphoreSignalArrive
    u sem) := Nat.two_pow_pos 64

theorem WordFits.barrierRelease (panel : BitVec 4) : WordFits.Statement (.barrierRelease panel) := Nat.two_pow_pos 64

theorem WordFits.countBeatStore (region : Bool) (idx : BitVec 6) (list : BitVec 4) (word : BitVec 64) :
    WordFits.Statement (.countBeatStore region idx list word) := Nat.two_pow_pos 64

theorem WordFits.claimServe (region : Bool) (idx : BitVec 6) : WordFits.Statement (.claimServe region idx) :=
    Nat.two_pow_pos 64

theorem WordFits.epochApply (region : Bool) (idx : BitVec 6) (list : BitVec 4) : WordFits.Statement (.epochApply
    region idx list) := Nat.two_pow_pos 64

theorem WordFits.reducerSlotReady (region : BitVec 4) (entry : BitVec 4) (slot : BitVec 8) : WordFits.Statement
    (.reducerSlotReady region entry slot) := Nat.two_pow_pos 64

theorem WordFits.reducerResultWrite (region : BitVec 4) (entry : BitVec 4) : WordFits.Statement (.reducerResultWrite
    region entry) := Nat.two_pow_pos 64

theorem WordFits.move (d : Rec64) : WordFits.Statement (.move d) := Nat.two_pow_pos 64

theorem WordFits.moveQueueStore (u : BitVec 9) (stack : BitVec 2) (beat : Beat) : WordFits.Statement
    (.moveQueueStore u stack beat) := Nat.two_pow_pos 64

theorem WordFits.moveStart (stack : BitVec 2) (id : Nat) (badPages : List Nat) : WordFits.Statement (.moveStart
    stack id badPages) := Nat.two_pow_pos 64

theorem WordFits.moveEndUpdate (stack : BitVec 2) (move : MoveEnd) : WordFits.Statement (.moveEndUpdate stack move)
    := Nat.two_pow_pos 64

theorem WordFits.reRequest (u : BitVec 9) (addr : BitVec 52) (peer : List (Nat × List Byte)) : WordFits.Statement
    (.reRequest u addr peer) := Nat.two_pow_pos 64

theorem WordFits.tileResend (u : BitVec 9) (strand : BitVec 3) : WordFits.Statement (.tileResend u strand) :=
    Nat.two_pow_pos 64

theorem WordFits.poolEpochBoundary : WordFits.Statement (.poolEpochBoundary) := Nat.two_pow_pos 64

theorem WordFits.allocWake (tier2 : Bool) : WordFits.Statement (.allocWake tier2) := Nat.two_pow_pos 64

theorem WordFits.backgroundEviction (stack : BitVec 2) : WordFits.Statement (.backgroundEviction stack) :=
    Nat.two_pow_pos 64

theorem WordFits.wearLevelRelocation (stack : BitVec 2) (channel : BitVec 3) (fresh : FreshBlock) :
    WordFits.Statement (.wearLevelRelocation stack channel fresh) := Nat.two_pow_pos 64

theorem WordFits.readDisturbRelocation (stack : BitVec 2) (channel : BitVec 3) (block : BitVec 16) (fresh :
    FreshBlock) : WordFits.Statement (.readDisturbRelocation stack channel block fresh) := Nat.two_pow_pos 64

theorem WordFits.patrolRead (stack : BitVec 2) (page : BitVec 31) (channel : BitVec 3) (block : BitVec 16) (fresh :
    FreshBlock) (corrected : Nat) (read : PageRead) : WordFits.Statement (.patrolRead stack page channel block fresh
    corrected read) := Nat.two_pow_pos 64

theorem WordFits.t3MountDone (stack : BitVec 2) (ok : Bool) : WordFits.Statement (.t3MountDone stack ok) :=
    Nat.two_pow_pos 64

theorem WordFits.walk (panel : BitVec 4) (stack : BitVec 2) (c : Rec64) : WordFits.Statement (.walk panel stack c)
    := Nat.two_pow_pos 64

theorem WordFits.walkEntryPut (panel : BitVec 4) (ring : BitVec 4) : WordFits.Statement (.walkEntryPut panel ring)
    := Nat.two_pow_pos 64

theorem WordFits.append (panel : BitVec 4) (stack : BitVec 2) (c : Rec64) : WordFits.Statement (.append panel stack
    c) := Nat.two_pow_pos 64

theorem WordFits.pageTakeResume (panel : BitVec 4) : WordFits.Statement (.pageTakeResume panel) := Nat.two_pow_pos 64

theorem WordFits.dispatch (panel : BitVec 4) (stack : BitVec 2) (c : Rec64) : WordFits.Statement (.dispatch panel
    stack c) := Nat.two_pow_pos 64

theorem WordFits.dispatchResume (panel : BitVec 4) (layer : BitVec 6) : WordFits.Statement (.dispatchResume panel
    layer) := Nat.two_pow_pos 64

theorem WordFits.bundleAnnounce (panel : BitVec 4) (stack : BitVec 2) (layer : BitVec 6) (source : BitVec 6) (step :
    BitVec 16) : WordFits.Statement (.bundleAnnounce panel stack layer source step) := Nat.two_pow_pos 64

theorem WordFits.arrive (panel : BitVec 4) (stack : BitVec 2) (c : Rec64) : WordFits.Statement (.arrive panel stack
    c) := Nat.two_pow_pos 64

theorem WordFits.expertReturnWrite (panel : BitVec 4) (stack : BitVec 2) (layer : BitVec 6) : WordFits.Statement
    (.expertReturnWrite panel stack layer) := Nat.two_pow_pos 64

theorem WordFits.ret (panel : BitVec 4) (stack : BitVec 2) (c : Rec64) : WordFits.Statement (.ret panel stack c) :=
    Nat.two_pow_pos 64

theorem WordFits.identify (d : Rec64) : WordFits.Statement (.identify d) := Nat.two_pow_pos 64

theorem WordFits.panelCreate (d : Rec64) : WordFits.Statement (.panelCreate d) := Nat.two_pow_pos 64

theorem WordFits.panelDestroy (d : Rec64) : WordFits.Statement (.panelDestroy d) := Nat.two_pow_pos 64

theorem WordFits.castOn (d : Rec64) : WordFits.Statement (.castOn d) := Nat.two_pow_pos 64

theorem WordFits.castOnCopyDone (panel : BitVec 4) (ok : Bool) : WordFits.Statement (.castOnCopyDone panel ok) :=
    Nat.two_pow_pos 64

theorem WordFits.bindOff (d : Rec64) : WordFits.Statement (.bindOff d) := Nat.two_pow_pos 64

theorem WordFits.bindOffDrainLimit (panel : BitVec 4) : WordFits.Statement (.bindOffDrainLimit panel) :=
    Nat.two_pow_pos 64

theorem WordFits.bindOffTeardown (panel : BitVec 4) : WordFits.Statement (.bindOffTeardown panel) := Nat.two_pow_pos
    64

theorem WordFits.deploy (d : Rec64) : WordFits.Statement (.deploy d) := Nat.two_pow_pos 64

theorem WordFits.deployCopyDone (model wversion : BitVec 32) (img : Option Image) : WordFits.Statement
    (.deployCopyDone model wversion img) := Nat.two_pow_pos 64

theorem WordFits.undeploy (d : Rec64) : WordFits.Statement (.undeploy d) := Nat.two_pow_pos 64

theorem WordFits.swapWeights (d : Rec64) : WordFits.Statement (.swapWeights d) := Nat.two_pow_pos 64

theorem WordFits.versionMarkerPlace (panel : BitVec 4) : WordFits.Statement (.versionMarkerPlace panel) :=
    Nat.two_pow_pos 64

theorem WordFits.swapLayerCopyDone (panel : BitVec 4) (layer : BitVec 10) : WordFits.Statement (.swapLayerCopyDone
    panel layer) := Nat.two_pow_pos 64

theorem WordFits.swapTimeout (panel : BitVec 4) : WordFits.Statement (.swapTimeout panel) := Nat.two_pow_pos 64

theorem WordFits.pin (d : Rec64) : WordFits.Statement (.pin d) := Nat.two_pow_pos 64

theorem WordFits.unpin (d : Rec64) : WordFits.Statement (.unpin d) := Nat.two_pow_pos 64

theorem WordFits.schedLoad (d : Rec64) : WordFits.Statement (.schedLoad d) := Nat.two_pow_pos 64

theorem WordFits.schedulePeriodBoundary : WordFits.Statement (.schedulePeriodBoundary) := Nat.two_pow_pos 64

theorem WordFits.setFallback (d : Rec64) : WordFits.Statement (.setFallback d) := Nat.two_pow_pos 64

theorem WordFits.attest (d : Rec64) : WordFits.Statement (.attest d) := Nat.two_pow_pos 64

theorem WordFits.swatch (d : Rec64) : WordFits.Statement (.swatch d) := Nat.two_pow_pos 64

theorem WordFits.swatchTestsDone (panel : BitVec 4) (fails : List SwatchResult) : WordFits.Statement
    (.swatchTestsDone panel fails) := Nat.two_pow_pos 64

theorem WordFits.counters (d : Rec64) : WordFits.Statement (.counters d) := Nat.two_pow_pos 64

theorem WordFits.fwUpdate (d : Rec64) : WordFits.Statement (.fwUpdate d) := Nat.two_pow_pos 64

theorem WordFits.nop (ring : BitVec 12) (d : Rec64) : WordFits.Statement (.nop ring d) := Nat.two_pow_pos 64

theorem WordFits.run (ring : BitVec 12) (d : Rec64) : WordFits.Statement (.run ring d) := Nat.two_pow_pos 64

theorem WordFits.gen (ring : BitVec 12) (d : Rec64) : WordFits.Statement (.gen ring d) := Nat.two_pow_pos 64

theorem WordFits.pause (ring : BitVec 12) (d : Rec64) : WordFits.Statement (.pause ring d) := Nat.two_pow_pos 64

theorem WordFits.resume (ring : BitVec 12) (d : Rec64) : WordFits.Statement (.resume ring d) := Nat.two_pow_pos 64

theorem WordFits.abort (ring : BitVec 12) (d : Rec64) : WordFits.Statement (.abort ring d) := Nat.two_pow_pos 64

theorem WordFits.promptReadDone (read : PromptRead) : WordFits.Statement (.promptReadDone read) := Nat.two_pow_pos 64

theorem WordFits.stepBufferWrite (panel : BitVec 4) : WordFits.Statement (.stepBufferWrite panel) := Nat.two_pow_pos
    64

theorem WordFits.runStart (start : RunStart) : WordFits.Statement (.runStart start) := Nat.two_pow_pos 64

theorem WordFits.runResult (panel : BitVec 4) : WordFits.Statement (.runResult panel) := Nat.two_pow_pos 64

theorem WordFits.tokenBoundary (panel : BitVec 4) : WordFits.Statement (.tokenBoundary panel) := Nat.two_pow_pos 64

theorem WordFits.fallback (slot : BitVec 14) : WordFits.Statement (.fallback slot) := Nat.two_pow_pos 64

theorem WordFits.sweep : WordFits.Statement (.sweep) := Nat.two_pow_pos 64

theorem WordFits.summaryResult (slot : BitVec 14) : WordFits.Statement (.summaryResult slot) := Nat.two_pow_pos 64

theorem WordFits.streamRecordWrite (ring : BitVec 12) : WordFits.Statement (.streamRecordWrite ring) :=
    Nat.two_pow_pos 64

theorem WordFits.completionEntryWrite (ring : BitVec 12) : WordFits.Statement (.completionEntryWrite ring) :=
    Nat.two_pow_pos 64

theorem WordFits.poll : WordFits.Statement (.poll) := Nat.two_pow_pos 64

theorem WordFits.ringEnable : WordFits.Statement (.ringEnable) := Nat.two_pow_pos 64

theorem WordFits.ringDisable : WordFits.Statement (.ringDisable) := Nat.two_pow_pos 64

theorem WordFits.ringRead : WordFits.Statement (.ringRead) := Nat.two_pow_pos 64

theorem WordFits.capDrvWrite (v : BitVec 32) : WordFits.Statement (.capDrvWrite v) := Nat.two_pow_pos 64

theorem WordFits.irqModerationExpiry (ring : BitVec 12) : WordFits.Statement (.irqModerationExpiry ring) :=
    Nat.two_pow_pos 64

theorem WordFits.flr : WordFits.Statement (.flr) := Nat.two_pow_pos 64

theorem WordFits.perstAssert : WordFits.Statement (.perstAssert) := Nat.two_pow_pos 64

theorem WordFits.perstDeassert : WordFits.Statement (.perstDeassert) := Nat.two_pow_pos 64

theorem WordFits.dlDown : WordFits.Statement (.dlDown) := Nat.two_pow_pos 64

theorem WordFits.d3hotEntry (busMasterOnly : Bool) : WordFits.Statement (.d3hotEntry busMasterOnly) :=
    Nat.two_pow_pos 64

theorem WordFits.d0Return : WordFits.Statement (.d0Return) := Nat.two_pow_pos 64

theorem WordFits.barAccessMalformed (write : Bool) (bar2 : Bool) (off : BitVec 20) (size : Nat) : WordFits.Statement
    (.barAccessMalformed write bar2 off size) := Nat.two_pow_pos 64

theorem WordFits.registerWrite (space : Space) (off : BitVec 20) (eight : Bool) (v : BitVec 64) : WordFits.Statement
    (.registerWrite space off eight v) := Nat.two_pow_pos 64

theorem WordFits.latchedRead (space : Space) (off : BitVec 20) (eight : Bool) : WordFits.Statement (.latchedRead
    space off eight) := Nat.two_pow_pos 64

theorem WordFits.pwrCapWrite (v : BitVec 32) : WordFits.Statement (.pwrCapWrite v) := Nat.two_pow_pos 64

theorem WordFits.lnkCtrlWrite (v : BitVec 32) : WordFits.Statement (.lnkCtrlWrite v) := Nat.two_pow_pos 64

theorem WordFits.recoveryGo (v : BitVec 32) : WordFits.Statement (.recoveryGo v) := Nat.two_pow_pos 64

theorem WordFits.recoveryDone : WordFits.Statement (.recoveryDone) := Nat.two_pow_pos 64

theorem WordFits.mbxTxWrite (master : BitVec 8) (ch : BitVec 6) (word : BitVec 32) : WordFits.Statement (.mbxTxWrite
    master ch word) := Nat.two_pow_pos 64

theorem WordFits.mbxRxRead (master : BitVec 8) (ch : BitVec 6) (part : RxPart) : WordFits.Statement (.mbxRxRead
    master ch part) := Nat.two_pow_pos 64

theorem WordFits.mbxLockRead (master : BitVec 8) (ch : BitVec 6) : WordFits.Statement (.mbxLockRead master ch) :=
    Nat.two_pow_pos 64

theorem WordFits.mbxLockWrite (master : BitVec 8) (ch : BitVec 6) (v : BitVec 32) : WordFits.Statement
    (.mbxLockWrite master ch v) := Nat.two_pow_pos 64

theorem WordFits.mbxCtrlWrite (master : BitVec 8) (ch : BitVec 6) (v : BitVec 32) : WordFits.Statement
    (.mbxCtrlWrite master ch v) := Nat.two_pow_pos 64

theorem WordFits.mbxDbMaskWrite (master : BitVec 8) (v : BitVec 32) : WordFits.Statement (.mbxDbMaskWrite master v)
    := Nat.two_pow_pos 64

theorem WordFits.domainOff (master : BitVec 8) : WordFits.Statement (.domainOff master) := Nat.two_pow_pos 64

theorem WordFits.domainOn (master : BitVec 8) : WordFits.Statement (.domainOn master) := Nat.two_pow_pos 64

theorem WordFits.ping (handler : BitVec 8) (ch : BitVec 6) (src : BitVec 8) : WordFits.Statement (.ping handler ch
    src) := Nat.two_pow_pos 64

theorem WordFits.setCap (ch : BitVec 6) (src : BitVec 8) : WordFits.Statement (.setCap ch src) := Nat.two_pow_pos 64

theorem WordFits.getTelemetry (ch : BitVec 6) (src : BitVec 8) : WordFits.Statement (.getTelemetry ch src) :=
    Nat.two_pow_pos 64

theorem WordFits.setRackId (ch : BitVec 6) (src : BitVec 8) : WordFits.Statement (.setRackId ch src) :=
    Nat.two_pow_pos 64

theorem WordFits.drainNotice (src : BitVec 8) (ms : BitVec 32) : WordFits.Statement (.drainNotice src ms) :=
    Nat.two_pow_pos 64

theorem WordFits.resetModule (ch : BitVec 6) (src : BitVec 8) : WordFits.Statement (.resetModule ch src) :=
    Nat.two_pow_pos 64

theorem WordFits.getIdentity (ch : BitVec 6) (src : BitVec 8) : WordFits.Statement (.getIdentity ch src) :=
    Nat.two_pow_pos 64

theorem WordFits.smbusBlockWrite (count : BitVec 8) (off : BitVec 16) (data : BitVec 64) (pecOk : Bool) :
    WordFits.Statement (.smbusBlockWrite count off data pecOk) := Nat.two_pow_pos 64

theorem WordFits.smbusProcessCall (count : BitVec 8) (off : BitVec 16) (size : BitVec 8) : WordFits.Statement
    (.smbusProcessCall count off size) := Nat.two_pow_pos 64

theorem WordFits.signalDetect (port : Fin 18) : WordFits.Statement (.signalDetect port) := Nat.two_pow_pos 64

theorem WordFits.equalisationDone (port : Fin 18) (failed : BitVec 4) : WordFits.Statement (.equalisationDone port
    failed) := Nat.two_pow_pos 64

theorem WordFits.alignLock (port : Fin 18) : WordFits.Statement (.alignLock port) := Nat.two_pow_pos 64

theorem WordFits.trainingTimeout (port : Fin 18) : WordFits.Statement (.trainingTimeout port) := Nat.two_pow_pos 64

theorem WordFits.trainingRetry (port : Fin 18) : WordFits.Statement (.trainingRetry port) := Nat.two_pow_pos 64

theorem WordFits.hello (port : Fin 18) (r : RxFlit) : WordFits.Statement (.hello port r) := Nat.two_pow_pos 64

theorem WordFits.helloSend (port : Fin 18) : WordFits.Statement (.helloSend port) := Nat.two_pow_pos 64

theorem WordFits.dataFlit (port : Fin 18) (f : Flit) (fec : Fec) : WordFits.Statement (.dataFlit port f fec) :=
    Nat.two_pow_pos 64

theorem WordFits.nullFlit (port : Fin 18) (r : RxFlit) : WordFits.Statement (.nullFlit port r) := Nat.two_pow_pos 64

theorem WordFits.nakRepeat (port : Fin 18) : WordFits.Statement (.nakRepeat port) := Nat.two_pow_pos 64

theorem WordFits.linkSilenceTimeout (port : Fin 18) : WordFits.Statement (.linkSilenceTimeout port) :=
    Nat.two_pow_pos 64

theorem WordFits.channelOpen (port : Fin 18) (m : Rec64) : WordFits.Statement (.channelOpen port m) :=
    Nat.two_pow_pos 64

theorem WordFits.channelClose (port : Fin 18) (m : Rec64) : WordFits.Statement (.channelClose port m) :=
    Nat.two_pow_pos 64

theorem WordFits.fetchReq (port : Fin 18) (m : Rec64) (mediaError : Bool) : WordFits.Statement (.fetchReq port m
    mediaError) := Nat.two_pow_pos 64

theorem WordFits.fetchData (port : Fin 18) (m : Rec64) (bytes : List Byte) : WordFits.Statement (.fetchData port m
    bytes) := Nat.two_pow_pos 64

theorem WordFits.fetchRefuse (port : Fin 18) (m : Rec64) : WordFits.Statement (.fetchRefuse port m) :=
    Nat.two_pow_pos 64

theorem WordFits.fetchBusyRetry (port : Fin 18) (tag : BitVec 16) : WordFits.Statement (.fetchBusyRetry port tag) :=
    Nat.two_pow_pos 64

theorem WordFits.readData (port : Fin 18) (m : Rec64) (bytes : List Byte) : WordFits.Statement (.readData port m
    bytes) := Nat.two_pow_pos 64

theorem WordFits.readStatus (port : Fin 18) (m : Rec64) : WordFits.Statement (.readStatus port m) := Nat.two_pow_pos
    64

theorem WordFits.resendReq (port : Fin 18) (m : Rec64) : WordFits.Statement (.resendReq port m) := Nat.two_pow_pos 64

theorem WordFits.mailbox (port : Fin 18) (m : Rec64) (words : List (BitVec 32)) : WordFits.Statement (.mailbox port
    m words) := Nat.two_pow_pos 64

theorem WordFits.lifeline (port : Fin 18) (m : Rec64) (records : List Rec64) (bulk : List Byte) : WordFits.Statement
    (.lifeline port m records bulk) := Nat.two_pow_pos 64

theorem WordFits.heartbeatSend : WordFits.Statement (.heartbeatSend) := Nat.two_pow_pos 64

theorem WordFits.missedBeat : WordFits.Statement (.missedBeat) := Nat.two_pow_pos 64

theorem WordFits.partnerLost : WordFits.Statement (.partnerLost) := Nat.two_pow_pos 64

theorem WordFits.takeover : WordFits.Statement (.takeover) := Nat.two_pow_pos 64

theorem WordFits.plyBind (d : Rec64) : WordFits.Statement (.plyBind d) := Nat.two_pow_pos 64

theorem WordFits.bindTimeout : WordFits.Statement (.bindTimeout) := Nat.two_pow_pos 64

theorem WordFits.plyRelease (d : Rec64) : WordFits.Statement (.plyRelease d) := Nat.two_pow_pos 64

theorem WordFits.bindRec (r : Rec64) : WordFits.Statement (.bindRec r) := Nat.two_pow_pos 64

theorem WordFits.syncDone (r : Rec64) : WordFits.Statement (.syncDone r) := Nat.two_pow_pos 64

theorem WordFits.releaseRec (r : Rec64) : WordFits.Statement (.releaseRec r) := Nat.two_pow_pos 64

theorem WordFits.openRec (r : Rec64) : WordFits.Statement (.openRec r) := Nat.two_pow_pos 64

theorem WordFits.tokens (r : Rec64) : WordFits.Statement (.tokens r) := Nat.two_pow_pos 64

theorem WordFits.generated (r : Rec64) : WordFits.Statement (.generated r) := Nat.two_pow_pos 64

theorem WordFits.stateRec (r : Rec64) : WordFits.Statement (.stateRec r) := Nat.two_pow_pos 64

theorem WordFits.bulk (r : Rec64) (bytes : List Byte) : WordFits.Statement (.bulk r bytes) := Nat.two_pow_pos 64

theorem WordFits.catalogueRec (r : Rec64) : WordFits.Statement (.catalogueRec r) := Nat.two_pow_pos 64

theorem WordFits.resync (r : Rec64) : WordFits.Statement (.resync r) := Nat.two_pow_pos 64

theorem WordFits.handover (r : Rec64) : WordFits.Statement (.handover r) := Nat.two_pow_pos 64

theorem WordFits.handoverReply (r : Rec64) : WordFits.Statement (.handoverReply r) := Nat.two_pow_pos 64

theorem WordFits.underVoltage (millivolts microseconds : Nat) : WordFits.Statement (.underVoltage millivolts
    microseconds) := Nat.two_pow_pos 64

theorem WordFits.overVoltage (millivolts : Nat) : WordFits.Statement (.overVoltage millivolts) := Nat.two_pow_pos 64

theorem WordFits.overCurrent (milliamps microseconds : Nat) : WordFits.Statement (.overCurrent milliamps
    microseconds) := Nat.two_pow_pos 64

theorem WordFits.presenceOpen : WordFits.Statement (.presenceOpen) := Nat.two_pow_pos 64

theorem WordFits.inputRestart (removed : Bool) : WordFits.Statement (.inputRestart removed) := Nat.two_pow_pos 64

theorem WordFits.powerGood (testHold : Bool) : WordFits.Statement (.powerGood testHold) := Nat.two_pow_pos 64

theorem WordFits.powerEstimateTick (activity : Nat) : WordFits.Statement (.powerEstimateTick activity) :=
    Nat.two_pow_pos 64

theorem WordFits.powerLoopTick : WordFits.Statement (.powerLoopTick) := Nat.two_pow_pos 64

theorem WordFits.gaugeSample (millivolts : BitVec 16) (watts : BitVec 16) (microjoules : Nat) : WordFits.Statement
    (.gaugeSample millivolts watts microjoules) := Nat.two_pow_pos 64

theorem WordFits.junctionSample (readings : List (BitVec 16)) : WordFits.Statement (.junctionSample readings) :=
    Nat.two_pow_pos 64

theorem WordFits.thermalTrip (deciC : BitVec 16) (microseconds : Nat) : WordFits.Statement (.thermalTrip deciC
    microseconds) := Nat.two_pow_pos 64

theorem WordFits.coolantSample (inlet outlet flow : BitVec 16) : WordFits.Statement (.coolantSample inlet outlet
    flow) := Nat.two_pow_pos 64

theorem WordFits.railSequenceDone : WordFits.Statement (.railSequenceDone) := Nat.two_pow_pos 64

theorem WordFits.bootVerifyDone : WordFits.Statement (.bootVerifyDone) := Nat.two_pow_pos 64

theorem WordFits.coreStartDone (coresOk sramOk : Bool) (ga : BitVec 7) : WordFits.Statement (.coreStartDone coresOk
    sramOk ga) := Nat.two_pow_pos 64

theorem WordFits.dramTrainingDone (failed : BitVec 24) : WordFits.Statement (.dramTrainingDone failed) :=
    Nat.two_pow_pos 64

theorem WordFits.startupSwatchDone (units : List (BitVec 9)) (clusters : List (BitVec 6)) (regions : List (BitVec
    4)) (t1Hanks : List Nat) : WordFits.Statement (.startupSwatchDone units clusters regions t1Hanks) :=
    Nat.two_pow_pos 64

theorem WordFits.pcieReadiness : WordFits.Statement (.pcieReadiness) := Nat.two_pow_pos 64

theorem WordFits.readySet : WordFits.Statement (.readySet) := Nat.two_pow_pos 64

theorem WordFits.idcode : WordFits.Statement (.idcode) := Nat.two_pow_pos 64

theorem WordFits.samplePreload (cells : List Bool) : WordFits.Statement (.samplePreload cells) := Nat.two_pow_pos 64

theorem WordFits.extest : WordFits.Statement (.extest) := Nat.two_pow_pos 64

theorem WordFits.clamp : WordFits.Statement (.clamp) := Nat.two_pow_pos 64

theorem WordFits.highz : WordFits.Statement (.highz) := Nat.two_pow_pos 64

theorem WordFits.extestPulse : WordFits.Statement (.extestPulse) := Nat.two_pow_pos 64

theorem WordFits.extestTrain : WordFits.Statement (.extestTrain) := Nat.two_pow_pos 64

theorem WordFits.mbxacc : WordFits.Statement (.mbxacc) := Nat.two_pow_pos 64

theorem WordFits.bypass (code : BitVec 8) : WordFits.Statement (.bypass code) := Nat.two_pow_pos 64

theorem WordFits.insertion (millivolts : Nat) : WordFits.Statement (.insertion millivolts) := Nat.two_pow_pos 64

theorem WordFits.signalLoss (port : Fin 18) : WordFits.Statement (.signalLoss port) := Nat.two_pow_pos 64

theorem WordFits.nandProgramDone (stack : BitVec 2) (channel : BitVec 3) (block : FreshBlock) (pages : List Nat) (ok
    : Bool) : WordFits.Statement (.nandProgramDone stack channel block pages ok) := Nat.two_pow_pos 64

theorem WordFits.fwBankWriteDone (ok : Bool) : WordFits.Statement (.fwBankWriteDone ok) := Nat.two_pow_pos 64

theorem WordFits.voltageDroop (island : BitVec 7) (cycles : Nat) : WordFits.Statement (.voltageDroop island cycles)
    := Nat.two_pow_pos 64

theorem WordFits.configurationRequest : WordFits.Statement (.configurationRequest) := Nat.two_pow_pos 64

theorem WordFits.testLogicReset (trst : Bool) : WordFits.Statement (.testLogicReset trst) := Nat.two_pow_pos 64

end Sys2Proof.Laws
end

