-- ==== Sys2Proof/Laws/State.lean ====
section
/-! SUPPORT. Tables: a read after a write. The plain updates of the state, field by field, so that no proof unfolds one. -/
namespace Sys2Proof.Laws
open Sys2Proof Machine

/-! ## Tables -/

@[simp] theorem tget_tset_self {α : Type} {i : Nat} {x : α} : ∀ {t : Tbl α}, tget (tset t i x) i = some x
  | [] => by simp [tset, tget]
  | (k, v) :: t => by
    unfold tset
    split
    · simp [tget]
    · split
      · simp [tget]
      · rename_i h _
        simp [tget, h, tget_tset_self]

theorem tget_tset_ne {α : Type} {i j : Nat} {x : α} (hj : j ≠ i) : ∀ {t : Tbl α}, tget (tset t i x) j = tget t j
  | [] => by simp [tset, tget, hj]
  | (k, v) :: t => by
    unfold tset
    split
    · rename_i h
      subst h
      simp [tget, hj]
    · split
      · simp [tget, hj]
      · unfold tget
        split
        · rfl
        · exact tget_tset_ne hj

theorem tget_tset {α : Type} {i j : Nat} {x : α} {t : Tbl α} : tget (tset t i x) j = if j = i then some x else tget t j := by
  split
  · rename_i h; rw [h, tget_tset_self]
  · rename_i h; exact tget_tset_ne h

@[simp] theorem tset_tset {α : Type} {i : Nat} {x y : α} : ∀ {t : Tbl α}, tset (tset t i x) i y = tset t i y
  | [] => by simp [tset]
  | (k, v) :: t => by
    by_cases h : i = k
    · simp [tset, h]
    · by_cases h' : i < k
      · simp [tset, h, h']
      · simp [tset, h, h', tset_tset]

@[simp] theorem tgetD_tset_self {α : Type} {i : Nat} {x d : α} {t : Tbl α} : tgetD (tset t i x) i d = x := by
  simp [tgetD]

theorem tgetD_tset_ne {α : Type} {i j : Nat} {x d : α} {t : Tbl α} (h : j ≠ i) : tgetD (tset t i x) j d = tgetD t j d := by
  simp [tgetD, tget_tset_ne h]

@[simp] theorem getUnit_setUnit {s : State} {u : Nat} {x : KUnit} : getUnit (setUnit u x s) u = x := by
  simp [getUnit, setUnit]

theorem getUnit_setUnit_ne {s : State} {u v : Nat} {x : KUnit} (h : v ≠ u) : getUnit (setUnit u x s) v = getUnit s v := by
  simp [getUnit, setUnit, tgetD_tset_ne h]

@[simp] theorem setUnit_setUnit {s : State} {u : Nat} {x y : KUnit} : setUnit u y (setUnit u x s) = setUnit u y s := by
  simp [setUnit]

@[simp] theorem getUnit_bump {s : State} {u : Nat} {c : Ctr} {n : Nat} : getUnit (bump c n s) u = getUnit s u := rfl

theorem bump_setUnit {s : State} {u : Nat} {x : KUnit} {c : Ctr} {n : Nat} :
    bump c n (setUnit u x s) = setUnit u x (bump c n s) := rfl

@[simp] theorem getCtr_setCtr {x : KUnit} {n : Nat} {c : RowCtr} : getCtr (setCtr n c x) n = c := by
  simp [getCtr, setCtr]

@[simp] theorem getStack_setStack {s : State} {k : Nat} {x : Stack} : getStack (setStack k x s) k = x := by
  simp [getStack, setStack]

@[simp] theorem getPanel_setPanel {s : State} {p : Nat} {x : Panel} : getPanel (setPanel p x s) p = some x := by
  simp [getPanel, setPanel]

@[simp] theorem getSlot_setSlot {s : State} {i : Nat} {x : Slot} : getSlot (setSlot i x s) i = some x := by
  simp [getSlot, setSlot]

@[simp] theorem getRing_setRing {s : State} {r : Nat} {x : Machine.Ring} : getRing (setRing r x s) r = x := by
  simp [getRing, setRing]

@[simp] theorem getPort_setPort {s : State} {p : Nat} {x : Port} : getPort (setPort p x s) p = x := by
  simp [getPort, setPort]

@[simp] theorem getChan_setChan {s : State} {c : Nat} {x : Chan} : getChan (setChan c x s) c = x := by
  simp [getChan, setChan]

/-- A counter is saturating: it never falls. -/
theorem satAdd_ge {w v n : Nat} (h : v < 2 ^ w) : v ≤ satAdd w v n := by
  unfold satAdd
  split <;> omega

/-! ## The plain updates, field by field -/

variable {s : State}

section
variable {c : Ctr} {n : Nat}
@[simp] theorem bump_pending : (bump c n s).pending = s.pending := rfl
@[simp] theorem bump_now : (bump c n s).now = s.now := rfl
@[simp] theorem bump_freeCtr : (bump c n s).freeCtr = s.freeCtr := rfl
@[simp] theorem bump_mem : (bump c n s).mem = s.mem := rfl
@[simp] theorem bump_home : (bump c n s).home = s.home := rfl
@[simp] theorem bump_units : (bump c n s).units = s.units := rfl
@[simp] theorem bump_signals : (bump c n s).signals = s.signals := rfl
@[simp] theorem bump_lists : (bump c n s).lists = s.lists := rfl
@[simp] theorem bump_posted : (bump c n s).posted = s.posted := rfl
@[simp] theorem bump_claims : (bump c n s).claims = s.claims := rfl
@[simp] theorem bump_reducers : (bump c n s).reducers = s.reducers := rfl
@[simp] theorem bump_hanks : (bump c n s).hanks = s.hanks := rfl
@[simp] theorem bump_hostPins : (bump c n s).hostPins = s.hostPins := rfl
@[simp] theorem bump_allocs : (bump c n s).allocs = s.allocs := rfl
@[simp] theorem bump_nextEpoch : (bump c n s).nextEpoch = s.nextEpoch := rfl
@[simp] theorem bump_moves : (bump c n s).moves = s.moves := rfl
@[simp] theorem bump_nextId : (bump c n s).nextId = s.nextId := rfl
@[simp] theorem bump_stackTbl : (bump c n s).stackTbl = s.stackTbl := rfl
@[simp] theorem bump_panels : (bump c n s).panels = s.panels := rfl
@[simp] theorem bump_catalogue : (bump c n s).catalogue = s.catalogue := rfl
@[simp] theorem bump_slots : (bump c n s).slots = s.slots := rfl
@[simp] theorem bump_clients : (bump c n s).clients = s.clients := rfl
@[simp] theorem bump_sched : (bump c n s).sched = s.sched := rfl
@[simp] theorem bump_schedNext : (bump c n s).schedNext = s.schedNext := rfl
@[simp] theorem bump_schedStart : (bump c n s).schedStart = s.schedStart := rfl
@[simp] theorem bump_rings : (bump c n s).rings = s.rings := rfl
@[simp] theorem bump_ringRegs : (bump c n s).ringRegs = s.ringRegs := rfl
@[simp] theorem bump_db : (bump c n s).db = s.db := rfl
@[simp] theorem bump_irq : (bump c n s).irq = s.irq := rfl
@[simp] theorem bump_agingSteps : (bump c n s).agingSteps = s.agingSteps := rfl
@[simp] theorem bump_urgentUs : (bump c n s).urgentUs = s.urgentUs := rfl
@[simp] theorem bump_epochUs : (bump c n s).epochUs = s.epochUs := rfl
@[simp] theorem bump_rdThreshold : (bump c n s).rdThreshold = s.rdThreshold := rfl
@[simp] theorem bump_patrolHours : (bump c n s).patrolHours = s.patrolHours := rfl
@[simp] theorem bump_host : (bump c n s).host = s.host := rfl
@[simp] theorem bump_admin : (bump c n s).admin = s.admin := rfl
@[simp] theorem bump_adminWait : (bump c n s).adminWait = s.adminWait := rfl
@[simp] theorem bump_latches : (bump c n s).latches = s.latches := rfl
@[simp] theorem bump_bus : (bump c n s).bus = s.bus := rfl
@[simp] theorem bump_outbox : (bump c n s).outbox = s.outbox := rfl
@[simp] theorem bump_mbx : (bump c n s).mbx = s.mbx := rfl
@[simp] theorem bump_links : (bump c n s).links = s.links := rfl
@[simp] theorem bump_ply : (bump c n s).ply = s.ply := rfl
@[simp] theorem bump_power : (bump c n s).power = s.power := rfl
@[simp] theorem bump_boot : (bump c n s).boot = s.boot := rfl
@[simp] theorem bump_nv : (bump c n s).nv = s.nv := rfl
@[simp] theorem bump_tap : (bump c n s).tap = s.tap := rfl
@[simp] theorem bump_ctrs : (bump c n s).ctrs = ctrAdd s.ctrs c n := rfl
end

section
variable {o : Out}
@[simp] theorem emitOut_pending : (emitOut o s).pending = s.pending := rfl
@[simp] theorem emitOut_now : (emitOut o s).now = s.now := rfl
@[simp] theorem emitOut_freeCtr : (emitOut o s).freeCtr = s.freeCtr := rfl
@[simp] theorem emitOut_mem : (emitOut o s).mem = s.mem := rfl
@[simp] theorem emitOut_home : (emitOut o s).home = s.home := rfl
@[simp] theorem emitOut_units : (emitOut o s).units = s.units := rfl
@[simp] theorem emitOut_signals : (emitOut o s).signals = s.signals := rfl
@[simp] theorem emitOut_lists : (emitOut o s).lists = s.lists := rfl
@[simp] theorem emitOut_posted : (emitOut o s).posted = s.posted := rfl
@[simp] theorem emitOut_claims : (emitOut o s).claims = s.claims := rfl
@[simp] theorem emitOut_reducers : (emitOut o s).reducers = s.reducers := rfl
@[simp] theorem emitOut_hanks : (emitOut o s).hanks = s.hanks := rfl
@[simp] theorem emitOut_hostPins : (emitOut o s).hostPins = s.hostPins := rfl
@[simp] theorem emitOut_allocs : (emitOut o s).allocs = s.allocs := rfl
@[simp] theorem emitOut_nextEpoch : (emitOut o s).nextEpoch = s.nextEpoch := rfl
@[simp] theorem emitOut_moves : (emitOut o s).moves = s.moves := rfl
@[simp] theorem emitOut_nextId : (emitOut o s).nextId = s.nextId := rfl
@[simp] theorem emitOut_stackTbl : (emitOut o s).stackTbl = s.stackTbl := rfl
@[simp] theorem emitOut_panels : (emitOut o s).panels = s.panels := rfl
@[simp] theorem emitOut_catalogue : (emitOut o s).catalogue = s.catalogue := rfl
@[simp] theorem emitOut_slots : (emitOut o s).slots = s.slots := rfl
@[simp] theorem emitOut_clients : (emitOut o s).clients = s.clients := rfl
@[simp] theorem emitOut_sched : (emitOut o s).sched = s.sched := rfl
@[simp] theorem emitOut_schedNext : (emitOut o s).schedNext = s.schedNext := rfl
@[simp] theorem emitOut_schedStart : (emitOut o s).schedStart = s.schedStart := rfl
@[simp] theorem emitOut_rings : (emitOut o s).rings = s.rings := rfl
@[simp] theorem emitOut_ringRegs : (emitOut o s).ringRegs = s.ringRegs := rfl
@[simp] theorem emitOut_db : (emitOut o s).db = s.db := rfl
@[simp] theorem emitOut_irq : (emitOut o s).irq = s.irq := rfl
@[simp] theorem emitOut_agingSteps : (emitOut o s).agingSteps = s.agingSteps := rfl
@[simp] theorem emitOut_urgentUs : (emitOut o s).urgentUs = s.urgentUs := rfl
@[simp] theorem emitOut_epochUs : (emitOut o s).epochUs = s.epochUs := rfl
@[simp] theorem emitOut_rdThreshold : (emitOut o s).rdThreshold = s.rdThreshold := rfl
@[simp] theorem emitOut_patrolHours : (emitOut o s).patrolHours = s.patrolHours := rfl
@[simp] theorem emitOut_host : (emitOut o s).host = s.host := rfl
@[simp] theorem emitOut_admin : (emitOut o s).admin = s.admin := rfl
@[simp] theorem emitOut_adminWait : (emitOut o s).adminWait = s.adminWait := rfl
@[simp] theorem emitOut_latches : (emitOut o s).latches = s.latches := rfl
@[simp] theorem emitOut_bus : (emitOut o s).bus = s.bus := rfl
@[simp] theorem emitOut_outbox : (emitOut o s).outbox = s.outbox ++ [o] := rfl
@[simp] theorem emitOut_mbx : (emitOut o s).mbx = s.mbx := rfl
@[simp] theorem emitOut_links : (emitOut o s).links = s.links := rfl
@[simp] theorem emitOut_ply : (emitOut o s).ply = s.ply := rfl
@[simp] theorem emitOut_power : (emitOut o s).power = s.power := rfl
@[simp] theorem emitOut_boot : (emitOut o s).boot = s.boot := rfl
@[simp] theorem emitOut_nv : (emitOut o s).nv = s.nv := rfl
@[simp] theorem emitOut_tap : (emitOut o s).tap = s.tap := rfl
@[simp] theorem emitOut_ctrs : (emitOut o s).ctrs = s.ctrs := rfl
end

section
variable {r : Reply}
@[simp] theorem answer_pending : (answer r s).pending = s.pending := rfl
@[simp] theorem answer_now : (answer r s).now = s.now := rfl
@[simp] theorem answer_freeCtr : (answer r s).freeCtr = s.freeCtr := rfl
@[simp] theorem answer_mem : (answer r s).mem = s.mem := rfl
@[simp] theorem answer_home : (answer r s).home = s.home := rfl
@[simp] theorem answer_units : (answer r s).units = s.units := rfl
@[simp] theorem answer_signals : (answer r s).signals = s.signals := rfl
@[simp] theorem answer_lists : (answer r s).lists = s.lists := rfl
@[simp] theorem answer_posted : (answer r s).posted = s.posted := rfl
@[simp] theorem answer_claims : (answer r s).claims = s.claims := rfl
@[simp] theorem answer_reducers : (answer r s).reducers = s.reducers := rfl
@[simp] theorem answer_hanks : (answer r s).hanks = s.hanks := rfl
@[simp] theorem answer_hostPins : (answer r s).hostPins = s.hostPins := rfl
@[simp] theorem answer_allocs : (answer r s).allocs = s.allocs := rfl
@[simp] theorem answer_nextEpoch : (answer r s).nextEpoch = s.nextEpoch := rfl
@[simp] theorem answer_moves : (answer r s).moves = s.moves := rfl
@[simp] theorem answer_nextId : (answer r s).nextId = s.nextId := rfl
@[simp] theorem answer_stackTbl : (answer r s).stackTbl = s.stackTbl := rfl
@[simp] theorem answer_panels : (answer r s).panels = s.panels := rfl
@[simp] theorem answer_catalogue : (answer r s).catalogue = s.catalogue := rfl
@[simp] theorem answer_slots : (answer r s).slots = s.slots := rfl
@[simp] theorem answer_clients : (answer r s).clients = s.clients := rfl
@[simp] theorem answer_sched : (answer r s).sched = s.sched := rfl
@[simp] theorem answer_schedNext : (answer r s).schedNext = s.schedNext := rfl
@[simp] theorem answer_schedStart : (answer r s).schedStart = s.schedStart := rfl
@[simp] theorem answer_rings : (answer r s).rings = s.rings := rfl
@[simp] theorem answer_ringRegs : (answer r s).ringRegs = s.ringRegs := rfl
@[simp] theorem answer_db : (answer r s).db = s.db := rfl
@[simp] theorem answer_irq : (answer r s).irq = s.irq := rfl
@[simp] theorem answer_agingSteps : (answer r s).agingSteps = s.agingSteps := rfl
@[simp] theorem answer_urgentUs : (answer r s).urgentUs = s.urgentUs := rfl
@[simp] theorem answer_epochUs : (answer r s).epochUs = s.epochUs := rfl
@[simp] theorem answer_rdThreshold : (answer r s).rdThreshold = s.rdThreshold := rfl
@[simp] theorem answer_patrolHours : (answer r s).patrolHours = s.patrolHours := rfl
@[simp] theorem answer_host : (answer r s).host = s.host := rfl
@[simp] theorem answer_admin : (answer r s).admin = s.admin := rfl
@[simp] theorem answer_adminWait : (answer r s).adminWait = s.adminWait := rfl
@[simp] theorem answer_latches : (answer r s).latches = s.latches := rfl
@[simp] theorem answer_bus : (answer r s).bus = r := rfl
@[simp] theorem answer_outbox : (answer r s).outbox = s.outbox := rfl
@[simp] theorem answer_mbx : (answer r s).mbx = s.mbx := rfl
@[simp] theorem answer_links : (answer r s).links = s.links := rfl
@[simp] theorem answer_ply : (answer r s).ply = s.ply := rfl
@[simp] theorem answer_power : (answer r s).power = s.power := rfl
@[simp] theorem answer_boot : (answer r s).boot = s.boot := rfl
@[simp] theorem answer_nv : (answer r s).nv = s.nv := rfl
@[simp] theorem answer_tap : (answer r s).tap = s.tap := rfl
@[simp] theorem answer_ctrs : (answer r s).ctrs = s.ctrs := rfl
end

section
variable {a : Nat} {l : List Byte}
@[simp] theorem wr_pending : (wr a l s).pending = s.pending := rfl
@[simp] theorem wr_now : (wr a l s).now = s.now := rfl
@[simp] theorem wr_freeCtr : (wr a l s).freeCtr = s.freeCtr := rfl
@[simp] theorem wr_mem : (wr a l s).mem = memPuts s.mem a l := rfl
@[simp] theorem wr_home : (wr a l s).home = s.home := rfl
@[simp] theorem wr_units : (wr a l s).units = s.units := rfl
@[simp] theorem wr_signals : (wr a l s).signals = s.signals := rfl
@[simp] theorem wr_lists : (wr a l s).lists = s.lists := rfl
@[simp] theorem wr_posted : (wr a l s).posted = s.posted := rfl
@[simp] theorem wr_claims : (wr a l s).claims = s.claims := rfl
@[simp] theorem wr_reducers : (wr a l s).reducers = s.reducers := rfl
@[simp] theorem wr_hanks : (wr a l s).hanks = s.hanks := rfl
@[simp] theorem wr_hostPins : (wr a l s).hostPins = s.hostPins := rfl
@[simp] theorem wr_allocs : (wr a l s).allocs = s.allocs := rfl
@[simp] theorem wr_nextEpoch : (wr a l s).nextEpoch = s.nextEpoch := rfl
@[simp] theorem wr_moves : (wr a l s).moves = s.moves := rfl
@[simp] theorem wr_nextId : (wr a l s).nextId = s.nextId := rfl
@[simp] theorem wr_stackTbl : (wr a l s).stackTbl = s.stackTbl := rfl
@[simp] theorem wr_panels : (wr a l s).panels = s.panels := rfl
@[simp] theorem wr_catalogue : (wr a l s).catalogue = s.catalogue := rfl
@[simp] theorem wr_slots : (wr a l s).slots = s.slots := rfl
@[simp] theorem wr_clients : (wr a l s).clients = s.clients := rfl
@[simp] theorem wr_sched : (wr a l s).sched = s.sched := rfl
@[simp] theorem wr_schedNext : (wr a l s).schedNext = s.schedNext := rfl
@[simp] theorem wr_schedStart : (wr a l s).schedStart = s.schedStart := rfl
@[simp] theorem wr_rings : (wr a l s).rings = s.rings := rfl
@[simp] theorem wr_ringRegs : (wr a l s).ringRegs = s.ringRegs := rfl
@[simp] theorem wr_db : (wr a l s).db = s.db := rfl
@[simp] theorem wr_irq : (wr a l s).irq = s.irq := rfl
@[simp] theorem wr_agingSteps : (wr a l s).agingSteps = s.agingSteps := rfl
@[simp] theorem wr_urgentUs : (wr a l s).urgentUs = s.urgentUs := rfl
@[simp] theorem wr_epochUs : (wr a l s).epochUs = s.epochUs := rfl
@[simp] theorem wr_rdThreshold : (wr a l s).rdThreshold = s.rdThreshold := rfl
@[simp] theorem wr_patrolHours : (wr a l s).patrolHours = s.patrolHours := rfl
@[simp] theorem wr_host : (wr a l s).host = s.host := rfl
@[simp] theorem wr_admin : (wr a l s).admin = s.admin := rfl
@[simp] theorem wr_adminWait : (wr a l s).adminWait = s.adminWait := rfl
@[simp] theorem wr_latches : (wr a l s).latches = s.latches := rfl
@[simp] theorem wr_bus : (wr a l s).bus = s.bus := rfl
@[simp] theorem wr_outbox : (wr a l s).outbox = s.outbox := rfl
@[simp] theorem wr_mbx : (wr a l s).mbx = s.mbx := rfl
@[simp] theorem wr_links : (wr a l s).links = s.links := rfl
@[simp] theorem wr_ply : (wr a l s).ply = s.ply := rfl
@[simp] theorem wr_power : (wr a l s).power = s.power := rfl
@[simp] theorem wr_boot : (wr a l s).boot = s.boot := rfl
@[simp] theorem wr_nv : (wr a l s).nv = s.nv := rfl
@[simp] theorem wr_tap : (wr a l s).tap = s.tap := rfl
@[simp] theorem wr_ctrs : (wr a l s).ctrs = s.ctrs := rfl
end

section
variable {a n : Nat}
@[simp] theorem clearRange_pending : (clearRange a n s).pending = s.pending := rfl
@[simp] theorem clearRange_now : (clearRange a n s).now = s.now := rfl
@[simp] theorem clearRange_freeCtr : (clearRange a n s).freeCtr = s.freeCtr := rfl
@[simp] theorem clearRange_mem : (clearRange a n s).mem = memClear s.mem a n := rfl
@[simp] theorem clearRange_home : (clearRange a n s).home = s.home := rfl
@[simp] theorem clearRange_units : (clearRange a n s).units = s.units := rfl
@[simp] theorem clearRange_signals : (clearRange a n s).signals = s.signals := rfl
@[simp] theorem clearRange_lists : (clearRange a n s).lists = s.lists := rfl
@[simp] theorem clearRange_posted : (clearRange a n s).posted = s.posted := rfl
@[simp] theorem clearRange_claims : (clearRange a n s).claims = s.claims := rfl
@[simp] theorem clearRange_reducers : (clearRange a n s).reducers = s.reducers := rfl
@[simp] theorem clearRange_hanks : (clearRange a n s).hanks = s.hanks := rfl
@[simp] theorem clearRange_hostPins : (clearRange a n s).hostPins = s.hostPins := rfl
@[simp] theorem clearRange_allocs : (clearRange a n s).allocs = s.allocs := rfl
@[simp] theorem clearRange_nextEpoch : (clearRange a n s).nextEpoch = s.nextEpoch := rfl
@[simp] theorem clearRange_moves : (clearRange a n s).moves = s.moves := rfl
@[simp] theorem clearRange_nextId : (clearRange a n s).nextId = s.nextId := rfl
@[simp] theorem clearRange_stackTbl : (clearRange a n s).stackTbl = s.stackTbl := rfl
@[simp] theorem clearRange_panels : (clearRange a n s).panels = s.panels := rfl
@[simp] theorem clearRange_catalogue : (clearRange a n s).catalogue = s.catalogue := rfl
@[simp] theorem clearRange_slots : (clearRange a n s).slots = s.slots := rfl
@[simp] theorem clearRange_clients : (clearRange a n s).clients = s.clients := rfl
@[simp] theorem clearRange_sched : (clearRange a n s).sched = s.sched := rfl
@[simp] theorem clearRange_schedNext : (clearRange a n s).schedNext = s.schedNext := rfl
@[simp] theorem clearRange_schedStart : (clearRange a n s).schedStart = s.schedStart := rfl
@[simp] theorem clearRange_rings : (clearRange a n s).rings = s.rings := rfl
@[simp] theorem clearRange_ringRegs : (clearRange a n s).ringRegs = s.ringRegs := rfl
@[simp] theorem clearRange_db : (clearRange a n s).db = s.db := rfl
@[simp] theorem clearRange_irq : (clearRange a n s).irq = s.irq := rfl
@[simp] theorem clearRange_agingSteps : (clearRange a n s).agingSteps = s.agingSteps := rfl
@[simp] theorem clearRange_urgentUs : (clearRange a n s).urgentUs = s.urgentUs := rfl
@[simp] theorem clearRange_epochUs : (clearRange a n s).epochUs = s.epochUs := rfl
@[simp] theorem clearRange_rdThreshold : (clearRange a n s).rdThreshold = s.rdThreshold := rfl
@[simp] theorem clearRange_patrolHours : (clearRange a n s).patrolHours = s.patrolHours := rfl
@[simp] theorem clearRange_host : (clearRange a n s).host = s.host := rfl
@[simp] theorem clearRange_admin : (clearRange a n s).admin = s.admin := rfl
@[simp] theorem clearRange_adminWait : (clearRange a n s).adminWait = s.adminWait := rfl
@[simp] theorem clearRange_latches : (clearRange a n s).latches = s.latches := rfl
@[simp] theorem clearRange_bus : (clearRange a n s).bus = s.bus := rfl
@[simp] theorem clearRange_outbox : (clearRange a n s).outbox = s.outbox := rfl
@[simp] theorem clearRange_mbx : (clearRange a n s).mbx = s.mbx := rfl
@[simp] theorem clearRange_links : (clearRange a n s).links = s.links := rfl
@[simp] theorem clearRange_ply : (clearRange a n s).ply = s.ply := rfl
@[simp] theorem clearRange_power : (clearRange a n s).power = s.power := rfl
@[simp] theorem clearRange_boot : (clearRange a n s).boot = s.boot := rfl
@[simp] theorem clearRange_nv : (clearRange a n s).nv = s.nv := rfl
@[simp] theorem clearRange_tap : (clearRange a n s).tap = s.tap := rfl
@[simp] theorem clearRange_ctrs : (clearRange a n s).ctrs = s.ctrs := rfl
end

section
variable {a b n : Nat}
@[simp] theorem copyRange_pending : (copyRange a b n s).pending = s.pending := rfl
@[simp] theorem copyRange_now : (copyRange a b n s).now = s.now := rfl
@[simp] theorem copyRange_freeCtr : (copyRange a b n s).freeCtr = s.freeCtr := rfl
@[simp] theorem copyRange_mem : (copyRange a b n s).mem = memCopy s.mem a b n := rfl
@[simp] theorem copyRange_home : (copyRange a b n s).home = s.home := rfl
@[simp] theorem copyRange_units : (copyRange a b n s).units = s.units := rfl
@[simp] theorem copyRange_signals : (copyRange a b n s).signals = s.signals := rfl
@[simp] theorem copyRange_lists : (copyRange a b n s).lists = s.lists := rfl
@[simp] theorem copyRange_posted : (copyRange a b n s).posted = s.posted := rfl
@[simp] theorem copyRange_claims : (copyRange a b n s).claims = s.claims := rfl
@[simp] theorem copyRange_reducers : (copyRange a b n s).reducers = s.reducers := rfl
@[simp] theorem copyRange_hanks : (copyRange a b n s).hanks = s.hanks := rfl
@[simp] theorem copyRange_hostPins : (copyRange a b n s).hostPins = s.hostPins := rfl
@[simp] theorem copyRange_allocs : (copyRange a b n s).allocs = s.allocs := rfl
@[simp] theorem copyRange_nextEpoch : (copyRange a b n s).nextEpoch = s.nextEpoch := rfl
@[simp] theorem copyRange_moves : (copyRange a b n s).moves = s.moves := rfl
@[simp] theorem copyRange_nextId : (copyRange a b n s).nextId = s.nextId := rfl
@[simp] theorem copyRange_stackTbl : (copyRange a b n s).stackTbl = s.stackTbl := rfl
@[simp] theorem copyRange_panels : (copyRange a b n s).panels = s.panels := rfl
@[simp] theorem copyRange_catalogue : (copyRange a b n s).catalogue = s.catalogue := rfl
@[simp] theorem copyRange_slots : (copyRange a b n s).slots = s.slots := rfl
@[simp] theorem copyRange_clients : (copyRange a b n s).clients = s.clients := rfl
@[simp] theorem copyRange_sched : (copyRange a b n s).sched = s.sched := rfl
@[simp] theorem copyRange_schedNext : (copyRange a b n s).schedNext = s.schedNext := rfl
@[simp] theorem copyRange_schedStart : (copyRange a b n s).schedStart = s.schedStart := rfl
@[simp] theorem copyRange_rings : (copyRange a b n s).rings = s.rings := rfl
@[simp] theorem copyRange_ringRegs : (copyRange a b n s).ringRegs = s.ringRegs := rfl
@[simp] theorem copyRange_db : (copyRange a b n s).db = s.db := rfl
@[simp] theorem copyRange_irq : (copyRange a b n s).irq = s.irq := rfl
@[simp] theorem copyRange_agingSteps : (copyRange a b n s).agingSteps = s.agingSteps := rfl
@[simp] theorem copyRange_urgentUs : (copyRange a b n s).urgentUs = s.urgentUs := rfl
@[simp] theorem copyRange_epochUs : (copyRange a b n s).epochUs = s.epochUs := rfl
@[simp] theorem copyRange_rdThreshold : (copyRange a b n s).rdThreshold = s.rdThreshold := rfl
@[simp] theorem copyRange_patrolHours : (copyRange a b n s).patrolHours = s.patrolHours := rfl
@[simp] theorem copyRange_host : (copyRange a b n s).host = s.host := rfl
@[simp] theorem copyRange_admin : (copyRange a b n s).admin = s.admin := rfl
@[simp] theorem copyRange_adminWait : (copyRange a b n s).adminWait = s.adminWait := rfl
@[simp] theorem copyRange_latches : (copyRange a b n s).latches = s.latches := rfl
@[simp] theorem copyRange_bus : (copyRange a b n s).bus = s.bus := rfl
@[simp] theorem copyRange_outbox : (copyRange a b n s).outbox = s.outbox := rfl
@[simp] theorem copyRange_mbx : (copyRange a b n s).mbx = s.mbx := rfl
@[simp] theorem copyRange_links : (copyRange a b n s).links = s.links := rfl
@[simp] theorem copyRange_ply : (copyRange a b n s).ply = s.ply := rfl
@[simp] theorem copyRange_power : (copyRange a b n s).power = s.power := rfl
@[simp] theorem copyRange_boot : (copyRange a b n s).boot = s.boot := rfl
@[simp] theorem copyRange_nv : (copyRange a b n s).nv = s.nv := rfl
@[simp] theorem copyRange_tap : (copyRange a b n s).tap = s.tap := rfl
@[simp] theorem copyRange_ctrs : (copyRange a b n s).ctrs = s.ctrs := rfl
end

section
variable {a n : Nat}
@[simp] theorem makeHome_pending : (makeHome a n s).pending = s.pending := rfl
@[simp] theorem makeHome_now : (makeHome a n s).now = s.now := rfl
@[simp] theorem makeHome_freeCtr : (makeHome a n s).freeCtr = s.freeCtr := rfl
@[simp] theorem makeHome_mem : (makeHome a n s).mem = s.mem := rfl
@[simp] theorem makeHome_home : (makeHome a n s).home = rangeAdd s.home (pageLo a) (pageHi a n) := rfl
@[simp] theorem makeHome_units : (makeHome a n s).units = s.units := rfl
@[simp] theorem makeHome_signals : (makeHome a n s).signals = s.signals := rfl
@[simp] theorem makeHome_lists : (makeHome a n s).lists = s.lists := rfl
@[simp] theorem makeHome_posted : (makeHome a n s).posted = s.posted := rfl
@[simp] theorem makeHome_claims : (makeHome a n s).claims = s.claims := rfl
@[simp] theorem makeHome_reducers : (makeHome a n s).reducers = s.reducers := rfl
@[simp] theorem makeHome_hanks : (makeHome a n s).hanks = s.hanks := rfl
@[simp] theorem makeHome_hostPins : (makeHome a n s).hostPins = s.hostPins := rfl
@[simp] theorem makeHome_allocs : (makeHome a n s).allocs = s.allocs := rfl
@[simp] theorem makeHome_nextEpoch : (makeHome a n s).nextEpoch = s.nextEpoch := rfl
@[simp] theorem makeHome_moves : (makeHome a n s).moves = s.moves := rfl
@[simp] theorem makeHome_nextId : (makeHome a n s).nextId = s.nextId := rfl
@[simp] theorem makeHome_stackTbl : (makeHome a n s).stackTbl = s.stackTbl := rfl
@[simp] theorem makeHome_panels : (makeHome a n s).panels = s.panels := rfl
@[simp] theorem makeHome_catalogue : (makeHome a n s).catalogue = s.catalogue := rfl
@[simp] theorem makeHome_slots : (makeHome a n s).slots = s.slots := rfl
@[simp] theorem makeHome_clients : (makeHome a n s).clients = s.clients := rfl
@[simp] theorem makeHome_sched : (makeHome a n s).sched = s.sched := rfl
@[simp] theorem makeHome_schedNext : (makeHome a n s).schedNext = s.schedNext := rfl
@[simp] theorem makeHome_schedStart : (makeHome a n s).schedStart = s.schedStart := rfl
@[simp] theorem makeHome_rings : (makeHome a n s).rings = s.rings := rfl
@[simp] theorem makeHome_ringRegs : (makeHome a n s).ringRegs = s.ringRegs := rfl
@[simp] theorem makeHome_db : (makeHome a n s).db = s.db := rfl
@[simp] theorem makeHome_irq : (makeHome a n s).irq = s.irq := rfl
@[simp] theorem makeHome_agingSteps : (makeHome a n s).agingSteps = s.agingSteps := rfl
@[simp] theorem makeHome_urgentUs : (makeHome a n s).urgentUs = s.urgentUs := rfl
@[simp] theorem makeHome_epochUs : (makeHome a n s).epochUs = s.epochUs := rfl
@[simp] theorem makeHome_rdThreshold : (makeHome a n s).rdThreshold = s.rdThreshold := rfl
@[simp] theorem makeHome_patrolHours : (makeHome a n s).patrolHours = s.patrolHours := rfl
@[simp] theorem makeHome_host : (makeHome a n s).host = s.host := rfl
@[simp] theorem makeHome_admin : (makeHome a n s).admin = s.admin := rfl
@[simp] theorem makeHome_adminWait : (makeHome a n s).adminWait = s.adminWait := rfl
@[simp] theorem makeHome_latches : (makeHome a n s).latches = s.latches := rfl
@[simp] theorem makeHome_bus : (makeHome a n s).bus = s.bus := rfl
@[simp] theorem makeHome_outbox : (makeHome a n s).outbox = s.outbox := rfl
@[simp] theorem makeHome_mbx : (makeHome a n s).mbx = s.mbx := rfl
@[simp] theorem makeHome_links : (makeHome a n s).links = s.links := rfl
@[simp] theorem makeHome_ply : (makeHome a n s).ply = s.ply := rfl
@[simp] theorem makeHome_power : (makeHome a n s).power = s.power := rfl
@[simp] theorem makeHome_boot : (makeHome a n s).boot = s.boot := rfl
@[simp] theorem makeHome_nv : (makeHome a n s).nv = s.nv := rfl
@[simp] theorem makeHome_tap : (makeHome a n s).tap = s.tap := rfl
@[simp] theorem makeHome_ctrs : (makeHome a n s).ctrs = s.ctrs := rfl
end

section
variable {a n : Nat}
@[simp] theorem makeHomeless_pending : (makeHomeless a n s).pending = s.pending := rfl
@[simp] theorem makeHomeless_now : (makeHomeless a n s).now = s.now := rfl
@[simp] theorem makeHomeless_freeCtr : (makeHomeless a n s).freeCtr = s.freeCtr := rfl
@[simp] theorem makeHomeless_mem : (makeHomeless a n s).mem = s.mem := rfl
@[simp] theorem makeHomeless_home : (makeHomeless a n s).home = rangeDel s.home (pageLo a) (pageHi a n) := rfl
@[simp] theorem makeHomeless_units : (makeHomeless a n s).units = s.units := rfl
@[simp] theorem makeHomeless_signals : (makeHomeless a n s).signals = s.signals := rfl
@[simp] theorem makeHomeless_lists : (makeHomeless a n s).lists = s.lists := rfl
@[simp] theorem makeHomeless_posted : (makeHomeless a n s).posted = s.posted := rfl
@[simp] theorem makeHomeless_claims : (makeHomeless a n s).claims = s.claims := rfl
@[simp] theorem makeHomeless_reducers : (makeHomeless a n s).reducers = s.reducers := rfl
@[simp] theorem makeHomeless_hanks : (makeHomeless a n s).hanks = s.hanks := rfl
@[simp] theorem makeHomeless_hostPins : (makeHomeless a n s).hostPins = s.hostPins := rfl
@[simp] theorem makeHomeless_allocs : (makeHomeless a n s).allocs = s.allocs := rfl
@[simp] theorem makeHomeless_nextEpoch : (makeHomeless a n s).nextEpoch = s.nextEpoch := rfl
@[simp] theorem makeHomeless_moves : (makeHomeless a n s).moves = s.moves := rfl
@[simp] theorem makeHomeless_nextId : (makeHomeless a n s).nextId = s.nextId := rfl
@[simp] theorem makeHomeless_stackTbl : (makeHomeless a n s).stackTbl = s.stackTbl := rfl
@[simp] theorem makeHomeless_panels : (makeHomeless a n s).panels = s.panels := rfl
@[simp] theorem makeHomeless_catalogue : (makeHomeless a n s).catalogue = s.catalogue := rfl
@[simp] theorem makeHomeless_slots : (makeHomeless a n s).slots = s.slots := rfl
@[simp] theorem makeHomeless_clients : (makeHomeless a n s).clients = s.clients := rfl
@[simp] theorem makeHomeless_sched : (makeHomeless a n s).sched = s.sched := rfl
@[simp] theorem makeHomeless_schedNext : (makeHomeless a n s).schedNext = s.schedNext := rfl
@[simp] theorem makeHomeless_schedStart : (makeHomeless a n s).schedStart = s.schedStart := rfl
@[simp] theorem makeHomeless_rings : (makeHomeless a n s).rings = s.rings := rfl
@[simp] theorem makeHomeless_ringRegs : (makeHomeless a n s).ringRegs = s.ringRegs := rfl
@[simp] theorem makeHomeless_db : (makeHomeless a n s).db = s.db := rfl
@[simp] theorem makeHomeless_irq : (makeHomeless a n s).irq = s.irq := rfl
@[simp] theorem makeHomeless_agingSteps : (makeHomeless a n s).agingSteps = s.agingSteps := rfl
@[simp] theorem makeHomeless_urgentUs : (makeHomeless a n s).urgentUs = s.urgentUs := rfl
@[simp] theorem makeHomeless_epochUs : (makeHomeless a n s).epochUs = s.epochUs := rfl
@[simp] theorem makeHomeless_rdThreshold : (makeHomeless a n s).rdThreshold = s.rdThreshold := rfl
@[simp] theorem makeHomeless_patrolHours : (makeHomeless a n s).patrolHours = s.patrolHours := rfl
@[simp] theorem makeHomeless_host : (makeHomeless a n s).host = s.host := rfl
@[simp] theorem makeHomeless_admin : (makeHomeless a n s).admin = s.admin := rfl
@[simp] theorem makeHomeless_adminWait : (makeHomeless a n s).adminWait = s.adminWait := rfl
@[simp] theorem makeHomeless_latches : (makeHomeless a n s).latches = s.latches := rfl
@[simp] theorem makeHomeless_bus : (makeHomeless a n s).bus = s.bus := rfl
@[simp] theorem makeHomeless_outbox : (makeHomeless a n s).outbox = s.outbox := rfl
@[simp] theorem makeHomeless_mbx : (makeHomeless a n s).mbx = s.mbx := rfl
@[simp] theorem makeHomeless_links : (makeHomeless a n s).links = s.links := rfl
@[simp] theorem makeHomeless_ply : (makeHomeless a n s).ply = s.ply := rfl
@[simp] theorem makeHomeless_power : (makeHomeless a n s).power = s.power := rfl
@[simp] theorem makeHomeless_boot : (makeHomeless a n s).boot = s.boot := rfl
@[simp] theorem makeHomeless_nv : (makeHomeless a n s).nv = s.nv := rfl
@[simp] theorem makeHomeless_tap : (makeHomeless a n s).tap = s.tap := rfl
@[simp] theorem makeHomeless_ctrs : (makeHomeless a n s).ctrs = s.ctrs := rfl
end

section
variable {l : List SemRef}
@[simp] theorem sendSignals_pending : (sendSignals l s).pending = s.pending := rfl
@[simp] theorem sendSignals_now : (sendSignals l s).now = s.now := rfl
@[simp] theorem sendSignals_freeCtr : (sendSignals l s).freeCtr = s.freeCtr := rfl
@[simp] theorem sendSignals_mem : (sendSignals l s).mem = s.mem := rfl
@[simp] theorem sendSignals_home : (sendSignals l s).home = s.home := rfl
@[simp] theorem sendSignals_units : (sendSignals l s).units = s.units := rfl
@[simp] theorem sendSignals_signals : (sendSignals l s).signals = s.signals ++ l := rfl
@[simp] theorem sendSignals_lists : (sendSignals l s).lists = s.lists := rfl
@[simp] theorem sendSignals_posted : (sendSignals l s).posted = s.posted := rfl
@[simp] theorem sendSignals_claims : (sendSignals l s).claims = s.claims := rfl
@[simp] theorem sendSignals_reducers : (sendSignals l s).reducers = s.reducers := rfl
@[simp] theorem sendSignals_hanks : (sendSignals l s).hanks = s.hanks := rfl
@[simp] theorem sendSignals_hostPins : (sendSignals l s).hostPins = s.hostPins := rfl
@[simp] theorem sendSignals_allocs : (sendSignals l s).allocs = s.allocs := rfl
@[simp] theorem sendSignals_nextEpoch : (sendSignals l s).nextEpoch = s.nextEpoch := rfl
@[simp] theorem sendSignals_moves : (sendSignals l s).moves = s.moves := rfl
@[simp] theorem sendSignals_nextId : (sendSignals l s).nextId = s.nextId := rfl
@[simp] theorem sendSignals_stackTbl : (sendSignals l s).stackTbl = s.stackTbl := rfl
@[simp] theorem sendSignals_panels : (sendSignals l s).panels = s.panels := rfl
@[simp] theorem sendSignals_catalogue : (sendSignals l s).catalogue = s.catalogue := rfl
@[simp] theorem sendSignals_slots : (sendSignals l s).slots = s.slots := rfl
@[simp] theorem sendSignals_clients : (sendSignals l s).clients = s.clients := rfl
@[simp] theorem sendSignals_sched : (sendSignals l s).sched = s.sched := rfl
@[simp] theorem sendSignals_schedNext : (sendSignals l s).schedNext = s.schedNext := rfl
@[simp] theorem sendSignals_schedStart : (sendSignals l s).schedStart = s.schedStart := rfl
@[simp] theorem sendSignals_rings : (sendSignals l s).rings = s.rings := rfl
@[simp] theorem sendSignals_ringRegs : (sendSignals l s).ringRegs = s.ringRegs := rfl
@[simp] theorem sendSignals_db : (sendSignals l s).db = s.db := rfl
@[simp] theorem sendSignals_irq : (sendSignals l s).irq = s.irq := rfl
@[simp] theorem sendSignals_agingSteps : (sendSignals l s).agingSteps = s.agingSteps := rfl
@[simp] theorem sendSignals_urgentUs : (sendSignals l s).urgentUs = s.urgentUs := rfl
@[simp] theorem sendSignals_epochUs : (sendSignals l s).epochUs = s.epochUs := rfl
@[simp] theorem sendSignals_rdThreshold : (sendSignals l s).rdThreshold = s.rdThreshold := rfl
@[simp] theorem sendSignals_patrolHours : (sendSignals l s).patrolHours = s.patrolHours := rfl
@[simp] theorem sendSignals_host : (sendSignals l s).host = s.host := rfl
@[simp] theorem sendSignals_admin : (sendSignals l s).admin = s.admin := rfl
@[simp] theorem sendSignals_adminWait : (sendSignals l s).adminWait = s.adminWait := rfl
@[simp] theorem sendSignals_latches : (sendSignals l s).latches = s.latches := rfl
@[simp] theorem sendSignals_bus : (sendSignals l s).bus = s.bus := rfl
@[simp] theorem sendSignals_outbox : (sendSignals l s).outbox = s.outbox := rfl
@[simp] theorem sendSignals_mbx : (sendSignals l s).mbx = s.mbx := rfl
@[simp] theorem sendSignals_links : (sendSignals l s).links = s.links := rfl
@[simp] theorem sendSignals_ply : (sendSignals l s).ply = s.ply := rfl
@[simp] theorem sendSignals_power : (sendSignals l s).power = s.power := rfl
@[simp] theorem sendSignals_boot : (sendSignals l s).boot = s.boot := rfl
@[simp] theorem sendSignals_nv : (sendSignals l s).nv = s.nv := rfl
@[simp] theorem sendSignals_tap : (sendSignals l s).tap = s.tap := rfl
@[simp] theorem sendSignals_ctrs : (sendSignals l s).ctrs = s.ctrs := rfl
end

section
variable {u : Nat} {x : KUnit}
@[simp] theorem setUnit_pending : (setUnit u x s).pending = s.pending := rfl
@[simp] theorem setUnit_now : (setUnit u x s).now = s.now := rfl
@[simp] theorem setUnit_freeCtr : (setUnit u x s).freeCtr = s.freeCtr := rfl
@[simp] theorem setUnit_mem : (setUnit u x s).mem = s.mem := rfl
@[simp] theorem setUnit_home : (setUnit u x s).home = s.home := rfl
@[simp] theorem setUnit_units : (setUnit u x s).units = tset s.units u x := rfl
@[simp] theorem setUnit_signals : (setUnit u x s).signals = s.signals := rfl
@[simp] theorem setUnit_lists : (setUnit u x s).lists = s.lists := rfl
@[simp] theorem setUnit_posted : (setUnit u x s).posted = s.posted := rfl
@[simp] theorem setUnit_claims : (setUnit u x s).claims = s.claims := rfl
@[simp] theorem setUnit_reducers : (setUnit u x s).reducers = s.reducers := rfl
@[simp] theorem setUnit_hanks : (setUnit u x s).hanks = s.hanks := rfl
@[simp] theorem setUnit_hostPins : (setUnit u x s).hostPins = s.hostPins := rfl
@[simp] theorem setUnit_allocs : (setUnit u x s).allocs = s.allocs := rfl
@[simp] theorem setUnit_nextEpoch : (setUnit u x s).nextEpoch = s.nextEpoch := rfl
@[simp] theorem setUnit_moves : (setUnit u x s).moves = s.moves := rfl
@[simp] theorem setUnit_nextId : (setUnit u x s).nextId = s.nextId := rfl
@[simp] theorem setUnit_stackTbl : (setUnit u x s).stackTbl = s.stackTbl := rfl
@[simp] theorem setUnit_panels : (setUnit u x s).panels = s.panels := rfl
@[simp] theorem setUnit_catalogue : (setUnit u x s).catalogue = s.catalogue := rfl
@[simp] theorem setUnit_slots : (setUnit u x s).slots = s.slots := rfl
@[simp] theorem setUnit_clients : (setUnit u x s).clients = s.clients := rfl
@[simp] theorem setUnit_sched : (setUnit u x s).sched = s.sched := rfl
@[simp] theorem setUnit_schedNext : (setUnit u x s).schedNext = s.schedNext := rfl
@[simp] theorem setUnit_schedStart : (setUnit u x s).schedStart = s.schedStart := rfl
@[simp] theorem setUnit_rings : (setUnit u x s).rings = s.rings := rfl
@[simp] theorem setUnit_ringRegs : (setUnit u x s).ringRegs = s.ringRegs := rfl
@[simp] theorem setUnit_db : (setUnit u x s).db = s.db := rfl
@[simp] theorem setUnit_irq : (setUnit u x s).irq = s.irq := rfl
@[simp] theorem setUnit_agingSteps : (setUnit u x s).agingSteps = s.agingSteps := rfl
@[simp] theorem setUnit_urgentUs : (setUnit u x s).urgentUs = s.urgentUs := rfl
@[simp] theorem setUnit_epochUs : (setUnit u x s).epochUs = s.epochUs := rfl
@[simp] theorem setUnit_rdThreshold : (setUnit u x s).rdThreshold = s.rdThreshold := rfl
@[simp] theorem setUnit_patrolHours : (setUnit u x s).patrolHours = s.patrolHours := rfl
@[simp] theorem setUnit_host : (setUnit u x s).host = s.host := rfl
@[simp] theorem setUnit_admin : (setUnit u x s).admin = s.admin := rfl
@[simp] theorem setUnit_adminWait : (setUnit u x s).adminWait = s.adminWait := rfl
@[simp] theorem setUnit_latches : (setUnit u x s).latches = s.latches := rfl
@[simp] theorem setUnit_bus : (setUnit u x s).bus = s.bus := rfl
@[simp] theorem setUnit_outbox : (setUnit u x s).outbox = s.outbox := rfl
@[simp] theorem setUnit_mbx : (setUnit u x s).mbx = s.mbx := rfl
@[simp] theorem setUnit_links : (setUnit u x s).links = s.links := rfl
@[simp] theorem setUnit_ply : (setUnit u x s).ply = s.ply := rfl
@[simp] theorem setUnit_power : (setUnit u x s).power = s.power := rfl
@[simp] theorem setUnit_boot : (setUnit u x s).boot = s.boot := rfl
@[simp] theorem setUnit_nv : (setUnit u x s).nv = s.nv := rfl
@[simp] theorem setUnit_tap : (setUnit u x s).tap = s.tap := rfl
@[simp] theorem setUnit_ctrs : (setUnit u x s).ctrs = s.ctrs := rfl
end

section
variable {u : Nat} {x : Stack}
@[simp] theorem setStack_pending : (setStack u x s).pending = s.pending := rfl
@[simp] theorem setStack_now : (setStack u x s).now = s.now := rfl
@[simp] theorem setStack_freeCtr : (setStack u x s).freeCtr = s.freeCtr := rfl
@[simp] theorem setStack_mem : (setStack u x s).mem = s.mem := rfl
@[simp] theorem setStack_home : (setStack u x s).home = s.home := rfl
@[simp] theorem setStack_units : (setStack u x s).units = s.units := rfl
@[simp] theorem setStack_signals : (setStack u x s).signals = s.signals := rfl
@[simp] theorem setStack_lists : (setStack u x s).lists = s.lists := rfl
@[simp] theorem setStack_posted : (setStack u x s).posted = s.posted := rfl
@[simp] theorem setStack_claims : (setStack u x s).claims = s.claims := rfl
@[simp] theorem setStack_reducers : (setStack u x s).reducers = s.reducers := rfl
@[simp] theorem setStack_hanks : (setStack u x s).hanks = s.hanks := rfl
@[simp] theorem setStack_hostPins : (setStack u x s).hostPins = s.hostPins := rfl
@[simp] theorem setStack_allocs : (setStack u x s).allocs = s.allocs := rfl
@[simp] theorem setStack_nextEpoch : (setStack u x s).nextEpoch = s.nextEpoch := rfl
@[simp] theorem setStack_moves : (setStack u x s).moves = s.moves := rfl
@[simp] theorem setStack_nextId : (setStack u x s).nextId = s.nextId := rfl
@[simp] theorem setStack_stackTbl : (setStack u x s).stackTbl = tset s.stackTbl u x := rfl
@[simp] theorem setStack_panels : (setStack u x s).panels = s.panels := rfl
@[simp] theorem setStack_catalogue : (setStack u x s).catalogue = s.catalogue := rfl
@[simp] theorem setStack_slots : (setStack u x s).slots = s.slots := rfl
@[simp] theorem setStack_clients : (setStack u x s).clients = s.clients := rfl
@[simp] theorem setStack_sched : (setStack u x s).sched = s.sched := rfl
@[simp] theorem setStack_schedNext : (setStack u x s).schedNext = s.schedNext := rfl
@[simp] theorem setStack_schedStart : (setStack u x s).schedStart = s.schedStart := rfl
@[simp] theorem setStack_rings : (setStack u x s).rings = s.rings := rfl
@[simp] theorem setStack_ringRegs : (setStack u x s).ringRegs = s.ringRegs := rfl
@[simp] theorem setStack_db : (setStack u x s).db = s.db := rfl
@[simp] theorem setStack_irq : (setStack u x s).irq = s.irq := rfl
@[simp] theorem setStack_agingSteps : (setStack u x s).agingSteps = s.agingSteps := rfl
@[simp] theorem setStack_urgentUs : (setStack u x s).urgentUs = s.urgentUs := rfl
@[simp] theorem setStack_epochUs : (setStack u x s).epochUs = s.epochUs := rfl
@[simp] theorem setStack_rdThreshold : (setStack u x s).rdThreshold = s.rdThreshold := rfl
@[simp] theorem setStack_patrolHours : (setStack u x s).patrolHours = s.patrolHours := rfl
@[simp] theorem setStack_host : (setStack u x s).host = s.host := rfl
@[simp] theorem setStack_admin : (setStack u x s).admin = s.admin := rfl
@[simp] theorem setStack_adminWait : (setStack u x s).adminWait = s.adminWait := rfl
@[simp] theorem setStack_latches : (setStack u x s).latches = s.latches := rfl
@[simp] theorem setStack_bus : (setStack u x s).bus = s.bus := rfl
@[simp] theorem setStack_outbox : (setStack u x s).outbox = s.outbox := rfl
@[simp] theorem setStack_mbx : (setStack u x s).mbx = s.mbx := rfl
@[simp] theorem setStack_links : (setStack u x s).links = s.links := rfl
@[simp] theorem setStack_ply : (setStack u x s).ply = s.ply := rfl
@[simp] theorem setStack_power : (setStack u x s).power = s.power := rfl
@[simp] theorem setStack_boot : (setStack u x s).boot = s.boot := rfl
@[simp] theorem setStack_nv : (setStack u x s).nv = s.nv := rfl
@[simp] theorem setStack_tap : (setStack u x s).tap = s.tap := rfl
@[simp] theorem setStack_ctrs : (setStack u x s).ctrs = s.ctrs := rfl
end

section
variable {p : Nat} {x : Panel}
@[simp] theorem setPanel_pending : (setPanel p x s).pending = s.pending := rfl
@[simp] theorem setPanel_now : (setPanel p x s).now = s.now := rfl
@[simp] theorem setPanel_freeCtr : (setPanel p x s).freeCtr = s.freeCtr := rfl
@[simp] theorem setPanel_mem : (setPanel p x s).mem = s.mem := rfl
@[simp] theorem setPanel_home : (setPanel p x s).home = s.home := rfl
@[simp] theorem setPanel_units : (setPanel p x s).units = s.units := rfl
@[simp] theorem setPanel_signals : (setPanel p x s).signals = s.signals := rfl
@[simp] theorem setPanel_lists : (setPanel p x s).lists = s.lists := rfl
@[simp] theorem setPanel_posted : (setPanel p x s).posted = s.posted := rfl
@[simp] theorem setPanel_claims : (setPanel p x s).claims = s.claims := rfl
@[simp] theorem setPanel_reducers : (setPanel p x s).reducers = s.reducers := rfl
@[simp] theorem setPanel_hanks : (setPanel p x s).hanks = s.hanks := rfl
@[simp] theorem setPanel_hostPins : (setPanel p x s).hostPins = s.hostPins := rfl
@[simp] theorem setPanel_allocs : (setPanel p x s).allocs = s.allocs := rfl
@[simp] theorem setPanel_nextEpoch : (setPanel p x s).nextEpoch = s.nextEpoch := rfl
@[simp] theorem setPanel_moves : (setPanel p x s).moves = s.moves := rfl
@[simp] theorem setPanel_nextId : (setPanel p x s).nextId = s.nextId := rfl
@[simp] theorem setPanel_stackTbl : (setPanel p x s).stackTbl = s.stackTbl := rfl
@[simp] theorem setPanel_panels : (setPanel p x s).panels = tset s.panels p x := rfl
@[simp] theorem setPanel_catalogue : (setPanel p x s).catalogue = s.catalogue := rfl
@[simp] theorem setPanel_slots : (setPanel p x s).slots = s.slots := rfl
@[simp] theorem setPanel_clients : (setPanel p x s).clients = s.clients := rfl
@[simp] theorem setPanel_sched : (setPanel p x s).sched = s.sched := rfl
@[simp] theorem setPanel_schedNext : (setPanel p x s).schedNext = s.schedNext := rfl
@[simp] theorem setPanel_schedStart : (setPanel p x s).schedStart = s.schedStart := rfl
@[simp] theorem setPanel_rings : (setPanel p x s).rings = s.rings := rfl
@[simp] theorem setPanel_ringRegs : (setPanel p x s).ringRegs = s.ringRegs := rfl
@[simp] theorem setPanel_db : (setPanel p x s).db = s.db := rfl
@[simp] theorem setPanel_irq : (setPanel p x s).irq = s.irq := rfl
@[simp] theorem setPanel_agingSteps : (setPanel p x s).agingSteps = s.agingSteps := rfl
@[simp] theorem setPanel_urgentUs : (setPanel p x s).urgentUs = s.urgentUs := rfl
@[simp] theorem setPanel_epochUs : (setPanel p x s).epochUs = s.epochUs := rfl
@[simp] theorem setPanel_rdThreshold : (setPanel p x s).rdThreshold = s.rdThreshold := rfl
@[simp] theorem setPanel_patrolHours : (setPanel p x s).patrolHours = s.patrolHours := rfl
@[simp] theorem setPanel_host : (setPanel p x s).host = s.host := rfl
@[simp] theorem setPanel_admin : (setPanel p x s).admin = s.admin := rfl
@[simp] theorem setPanel_adminWait : (setPanel p x s).adminWait = s.adminWait := rfl
@[simp] theorem setPanel_latches : (setPanel p x s).latches = s.latches := rfl
@[simp] theorem setPanel_bus : (setPanel p x s).bus = s.bus := rfl
@[simp] theorem setPanel_outbox : (setPanel p x s).outbox = s.outbox := rfl
@[simp] theorem setPanel_mbx : (setPanel p x s).mbx = s.mbx := rfl
@[simp] theorem setPanel_links : (setPanel p x s).links = s.links := rfl
@[simp] theorem setPanel_ply : (setPanel p x s).ply = s.ply := rfl
@[simp] theorem setPanel_power : (setPanel p x s).power = s.power := rfl
@[simp] theorem setPanel_boot : (setPanel p x s).boot = s.boot := rfl
@[simp] theorem setPanel_nv : (setPanel p x s).nv = s.nv := rfl
@[simp] theorem setPanel_tap : (setPanel p x s).tap = s.tap := rfl
@[simp] theorem setPanel_ctrs : (setPanel p x s).ctrs = s.ctrs := rfl
end

section
variable {i : Nat} {x : Slot}
@[simp] theorem setSlot_pending : (setSlot i x s).pending = s.pending := rfl
@[simp] theorem setSlot_now : (setSlot i x s).now = s.now := rfl
@[simp] theorem setSlot_freeCtr : (setSlot i x s).freeCtr = s.freeCtr := rfl
@[simp] theorem setSlot_mem : (setSlot i x s).mem = s.mem := rfl
@[simp] theorem setSlot_home : (setSlot i x s).home = s.home := rfl
@[simp] theorem setSlot_units : (setSlot i x s).units = s.units := rfl
@[simp] theorem setSlot_signals : (setSlot i x s).signals = s.signals := rfl
@[simp] theorem setSlot_lists : (setSlot i x s).lists = s.lists := rfl
@[simp] theorem setSlot_posted : (setSlot i x s).posted = s.posted := rfl
@[simp] theorem setSlot_claims : (setSlot i x s).claims = s.claims := rfl
@[simp] theorem setSlot_reducers : (setSlot i x s).reducers = s.reducers := rfl
@[simp] theorem setSlot_hanks : (setSlot i x s).hanks = s.hanks := rfl
@[simp] theorem setSlot_hostPins : (setSlot i x s).hostPins = s.hostPins := rfl
@[simp] theorem setSlot_allocs : (setSlot i x s).allocs = s.allocs := rfl
@[simp] theorem setSlot_nextEpoch : (setSlot i x s).nextEpoch = s.nextEpoch := rfl
@[simp] theorem setSlot_moves : (setSlot i x s).moves = s.moves := rfl
@[simp] theorem setSlot_nextId : (setSlot i x s).nextId = s.nextId := rfl
@[simp] theorem setSlot_stackTbl : (setSlot i x s).stackTbl = s.stackTbl := rfl
@[simp] theorem setSlot_panels : (setSlot i x s).panels = s.panels := rfl
@[simp] theorem setSlot_catalogue : (setSlot i x s).catalogue = s.catalogue := rfl
@[simp] theorem setSlot_slots : (setSlot i x s).slots = tset s.slots i x := rfl
@[simp] theorem setSlot_clients : (setSlot i x s).clients = s.clients := rfl
@[simp] theorem setSlot_sched : (setSlot i x s).sched = s.sched := rfl
@[simp] theorem setSlot_schedNext : (setSlot i x s).schedNext = s.schedNext := rfl
@[simp] theorem setSlot_schedStart : (setSlot i x s).schedStart = s.schedStart := rfl
@[simp] theorem setSlot_rings : (setSlot i x s).rings = s.rings := rfl
@[simp] theorem setSlot_ringRegs : (setSlot i x s).ringRegs = s.ringRegs := rfl
@[simp] theorem setSlot_db : (setSlot i x s).db = s.db := rfl
@[simp] theorem setSlot_irq : (setSlot i x s).irq = s.irq := rfl
@[simp] theorem setSlot_agingSteps : (setSlot i x s).agingSteps = s.agingSteps := rfl
@[simp] theorem setSlot_urgentUs : (setSlot i x s).urgentUs = s.urgentUs := rfl
@[simp] theorem setSlot_epochUs : (setSlot i x s).epochUs = s.epochUs := rfl
@[simp] theorem setSlot_rdThreshold : (setSlot i x s).rdThreshold = s.rdThreshold := rfl
@[simp] theorem setSlot_patrolHours : (setSlot i x s).patrolHours = s.patrolHours := rfl
@[simp] theorem setSlot_host : (setSlot i x s).host = s.host := rfl
@[simp] theorem setSlot_admin : (setSlot i x s).admin = s.admin := rfl
@[simp] theorem setSlot_adminWait : (setSlot i x s).adminWait = s.adminWait := rfl
@[simp] theorem setSlot_latches : (setSlot i x s).latches = s.latches := rfl
@[simp] theorem setSlot_bus : (setSlot i x s).bus = s.bus := rfl
@[simp] theorem setSlot_outbox : (setSlot i x s).outbox = s.outbox := rfl
@[simp] theorem setSlot_mbx : (setSlot i x s).mbx = s.mbx := rfl
@[simp] theorem setSlot_links : (setSlot i x s).links = s.links := rfl
@[simp] theorem setSlot_ply : (setSlot i x s).ply = s.ply := rfl
@[simp] theorem setSlot_power : (setSlot i x s).power = s.power := rfl
@[simp] theorem setSlot_boot : (setSlot i x s).boot = s.boot := rfl
@[simp] theorem setSlot_nv : (setSlot i x s).nv = s.nv := rfl
@[simp] theorem setSlot_tap : (setSlot i x s).tap = s.tap := rfl
@[simp] theorem setSlot_ctrs : (setSlot i x s).ctrs = s.ctrs := rfl
end

section
variable {r : Nat} {x : Machine.Ring}
@[simp] theorem setRing_pending : (setRing r x s).pending = s.pending := rfl
@[simp] theorem setRing_now : (setRing r x s).now = s.now := rfl
@[simp] theorem setRing_freeCtr : (setRing r x s).freeCtr = s.freeCtr := rfl
@[simp] theorem setRing_mem : (setRing r x s).mem = s.mem := rfl
@[simp] theorem setRing_home : (setRing r x s).home = s.home := rfl
@[simp] theorem setRing_units : (setRing r x s).units = s.units := rfl
@[simp] theorem setRing_signals : (setRing r x s).signals = s.signals := rfl
@[simp] theorem setRing_lists : (setRing r x s).lists = s.lists := rfl
@[simp] theorem setRing_posted : (setRing r x s).posted = s.posted := rfl
@[simp] theorem setRing_claims : (setRing r x s).claims = s.claims := rfl
@[simp] theorem setRing_reducers : (setRing r x s).reducers = s.reducers := rfl
@[simp] theorem setRing_hanks : (setRing r x s).hanks = s.hanks := rfl
@[simp] theorem setRing_hostPins : (setRing r x s).hostPins = s.hostPins := rfl
@[simp] theorem setRing_allocs : (setRing r x s).allocs = s.allocs := rfl
@[simp] theorem setRing_nextEpoch : (setRing r x s).nextEpoch = s.nextEpoch := rfl
@[simp] theorem setRing_moves : (setRing r x s).moves = s.moves := rfl
@[simp] theorem setRing_nextId : (setRing r x s).nextId = s.nextId := rfl
@[simp] theorem setRing_stackTbl : (setRing r x s).stackTbl = s.stackTbl := rfl
@[simp] theorem setRing_panels : (setRing r x s).panels = s.panels := rfl
@[simp] theorem setRing_catalogue : (setRing r x s).catalogue = s.catalogue := rfl
@[simp] theorem setRing_slots : (setRing r x s).slots = s.slots := rfl
@[simp] theorem setRing_clients : (setRing r x s).clients = s.clients := rfl
@[simp] theorem setRing_sched : (setRing r x s).sched = s.sched := rfl
@[simp] theorem setRing_schedNext : (setRing r x s).schedNext = s.schedNext := rfl
@[simp] theorem setRing_schedStart : (setRing r x s).schedStart = s.schedStart := rfl
@[simp] theorem setRing_rings : (setRing r x s).rings = tset s.rings r x := rfl
@[simp] theorem setRing_ringRegs : (setRing r x s).ringRegs = s.ringRegs := rfl
@[simp] theorem setRing_db : (setRing r x s).db = s.db := rfl
@[simp] theorem setRing_irq : (setRing r x s).irq = s.irq := rfl
@[simp] theorem setRing_agingSteps : (setRing r x s).agingSteps = s.agingSteps := rfl
@[simp] theorem setRing_urgentUs : (setRing r x s).urgentUs = s.urgentUs := rfl
@[simp] theorem setRing_epochUs : (setRing r x s).epochUs = s.epochUs := rfl
@[simp] theorem setRing_rdThreshold : (setRing r x s).rdThreshold = s.rdThreshold := rfl
@[simp] theorem setRing_patrolHours : (setRing r x s).patrolHours = s.patrolHours := rfl
@[simp] theorem setRing_host : (setRing r x s).host = s.host := rfl
@[simp] theorem setRing_admin : (setRing r x s).admin = s.admin := rfl
@[simp] theorem setRing_adminWait : (setRing r x s).adminWait = s.adminWait := rfl
@[simp] theorem setRing_latches : (setRing r x s).latches = s.latches := rfl
@[simp] theorem setRing_bus : (setRing r x s).bus = s.bus := rfl
@[simp] theorem setRing_outbox : (setRing r x s).outbox = s.outbox := rfl
@[simp] theorem setRing_mbx : (setRing r x s).mbx = s.mbx := rfl
@[simp] theorem setRing_links : (setRing r x s).links = s.links := rfl
@[simp] theorem setRing_ply : (setRing r x s).ply = s.ply := rfl
@[simp] theorem setRing_power : (setRing r x s).power = s.power := rfl
@[simp] theorem setRing_boot : (setRing r x s).boot = s.boot := rfl
@[simp] theorem setRing_nv : (setRing r x s).nv = s.nv := rfl
@[simp] theorem setRing_tap : (setRing r x s).tap = s.tap := rfl
@[simp] theorem setRing_ctrs : (setRing r x s).ctrs = s.ctrs := rfl
end

section
variable {k : Nat} {x : Reducer}
@[simp] theorem setReducer_pending : (setReducer k x s).pending = s.pending := rfl
@[simp] theorem setReducer_now : (setReducer k x s).now = s.now := rfl
@[simp] theorem setReducer_freeCtr : (setReducer k x s).freeCtr = s.freeCtr := rfl
@[simp] theorem setReducer_mem : (setReducer k x s).mem = s.mem := rfl
@[simp] theorem setReducer_home : (setReducer k x s).home = s.home := rfl
@[simp] theorem setReducer_units : (setReducer k x s).units = s.units := rfl
@[simp] theorem setReducer_signals : (setReducer k x s).signals = s.signals := rfl
@[simp] theorem setReducer_lists : (setReducer k x s).lists = s.lists := rfl
@[simp] theorem setReducer_posted : (setReducer k x s).posted = s.posted := rfl
@[simp] theorem setReducer_claims : (setReducer k x s).claims = s.claims := rfl
@[simp] theorem setReducer_reducers : (setReducer k x s).reducers = tset s.reducers k x := rfl
@[simp] theorem setReducer_hanks : (setReducer k x s).hanks = s.hanks := rfl
@[simp] theorem setReducer_hostPins : (setReducer k x s).hostPins = s.hostPins := rfl
@[simp] theorem setReducer_allocs : (setReducer k x s).allocs = s.allocs := rfl
@[simp] theorem setReducer_nextEpoch : (setReducer k x s).nextEpoch = s.nextEpoch := rfl
@[simp] theorem setReducer_moves : (setReducer k x s).moves = s.moves := rfl
@[simp] theorem setReducer_nextId : (setReducer k x s).nextId = s.nextId := rfl
@[simp] theorem setReducer_stackTbl : (setReducer k x s).stackTbl = s.stackTbl := rfl
@[simp] theorem setReducer_panels : (setReducer k x s).panels = s.panels := rfl
@[simp] theorem setReducer_catalogue : (setReducer k x s).catalogue = s.catalogue := rfl
@[simp] theorem setReducer_slots : (setReducer k x s).slots = s.slots := rfl
@[simp] theorem setReducer_clients : (setReducer k x s).clients = s.clients := rfl
@[simp] theorem setReducer_sched : (setReducer k x s).sched = s.sched := rfl
@[simp] theorem setReducer_schedNext : (setReducer k x s).schedNext = s.schedNext := rfl
@[simp] theorem setReducer_schedStart : (setReducer k x s).schedStart = s.schedStart := rfl
@[simp] theorem setReducer_rings : (setReducer k x s).rings = s.rings := rfl
@[simp] theorem setReducer_ringRegs : (setReducer k x s).ringRegs = s.ringRegs := rfl
@[simp] theorem setReducer_db : (setReducer k x s).db = s.db := rfl
@[simp] theorem setReducer_irq : (setReducer k x s).irq = s.irq := rfl
@[simp] theorem setReducer_agingSteps : (setReducer k x s).agingSteps = s.agingSteps := rfl
@[simp] theorem setReducer_urgentUs : (setReducer k x s).urgentUs = s.urgentUs := rfl
@[simp] theorem setReducer_epochUs : (setReducer k x s).epochUs = s.epochUs := rfl
@[simp] theorem setReducer_rdThreshold : (setReducer k x s).rdThreshold = s.rdThreshold := rfl
@[simp] theorem setReducer_patrolHours : (setReducer k x s).patrolHours = s.patrolHours := rfl
@[simp] theorem setReducer_host : (setReducer k x s).host = s.host := rfl
@[simp] theorem setReducer_admin : (setReducer k x s).admin = s.admin := rfl
@[simp] theorem setReducer_adminWait : (setReducer k x s).adminWait = s.adminWait := rfl
@[simp] theorem setReducer_latches : (setReducer k x s).latches = s.latches := rfl
@[simp] theorem setReducer_bus : (setReducer k x s).bus = s.bus := rfl
@[simp] theorem setReducer_outbox : (setReducer k x s).outbox = s.outbox := rfl
@[simp] theorem setReducer_mbx : (setReducer k x s).mbx = s.mbx := rfl
@[simp] theorem setReducer_links : (setReducer k x s).links = s.links := rfl
@[simp] theorem setReducer_ply : (setReducer k x s).ply = s.ply := rfl
@[simp] theorem setReducer_power : (setReducer k x s).power = s.power := rfl
@[simp] theorem setReducer_boot : (setReducer k x s).boot = s.boot := rfl
@[simp] theorem setReducer_nv : (setReducer k x s).nv = s.nv := rfl
@[simp] theorem setReducer_tap : (setReducer k x s).tap = s.tap := rfl
@[simp] theorem setReducer_ctrs : (setReducer k x s).ctrs = s.ctrs := rfl
end

section
variable {p : Nat} {x : Port}
@[simp] theorem setPort_pending : (setPort p x s).pending = s.pending := rfl
@[simp] theorem setPort_now : (setPort p x s).now = s.now := rfl
@[simp] theorem setPort_freeCtr : (setPort p x s).freeCtr = s.freeCtr := rfl
@[simp] theorem setPort_mem : (setPort p x s).mem = s.mem := rfl
@[simp] theorem setPort_home : (setPort p x s).home = s.home := rfl
@[simp] theorem setPort_units : (setPort p x s).units = s.units := rfl
@[simp] theorem setPort_signals : (setPort p x s).signals = s.signals := rfl
@[simp] theorem setPort_lists : (setPort p x s).lists = s.lists := rfl
@[simp] theorem setPort_posted : (setPort p x s).posted = s.posted := rfl
@[simp] theorem setPort_claims : (setPort p x s).claims = s.claims := rfl
@[simp] theorem setPort_reducers : (setPort p x s).reducers = s.reducers := rfl
@[simp] theorem setPort_hanks : (setPort p x s).hanks = s.hanks := rfl
@[simp] theorem setPort_hostPins : (setPort p x s).hostPins = s.hostPins := rfl
@[simp] theorem setPort_allocs : (setPort p x s).allocs = s.allocs := rfl
@[simp] theorem setPort_nextEpoch : (setPort p x s).nextEpoch = s.nextEpoch := rfl
@[simp] theorem setPort_moves : (setPort p x s).moves = s.moves := rfl
@[simp] theorem setPort_nextId : (setPort p x s).nextId = s.nextId := rfl
@[simp] theorem setPort_stackTbl : (setPort p x s).stackTbl = s.stackTbl := rfl
@[simp] theorem setPort_panels : (setPort p x s).panels = s.panels := rfl
@[simp] theorem setPort_catalogue : (setPort p x s).catalogue = s.catalogue := rfl
@[simp] theorem setPort_slots : (setPort p x s).slots = s.slots := rfl
@[simp] theorem setPort_clients : (setPort p x s).clients = s.clients := rfl
@[simp] theorem setPort_sched : (setPort p x s).sched = s.sched := rfl
@[simp] theorem setPort_schedNext : (setPort p x s).schedNext = s.schedNext := rfl
@[simp] theorem setPort_schedStart : (setPort p x s).schedStart = s.schedStart := rfl
@[simp] theorem setPort_rings : (setPort p x s).rings = s.rings := rfl
@[simp] theorem setPort_ringRegs : (setPort p x s).ringRegs = s.ringRegs := rfl
@[simp] theorem setPort_db : (setPort p x s).db = s.db := rfl
@[simp] theorem setPort_irq : (setPort p x s).irq = s.irq := rfl
@[simp] theorem setPort_agingSteps : (setPort p x s).agingSteps = s.agingSteps := rfl
@[simp] theorem setPort_urgentUs : (setPort p x s).urgentUs = s.urgentUs := rfl
@[simp] theorem setPort_epochUs : (setPort p x s).epochUs = s.epochUs := rfl
@[simp] theorem setPort_rdThreshold : (setPort p x s).rdThreshold = s.rdThreshold := rfl
@[simp] theorem setPort_patrolHours : (setPort p x s).patrolHours = s.patrolHours := rfl
@[simp] theorem setPort_host : (setPort p x s).host = s.host := rfl
@[simp] theorem setPort_admin : (setPort p x s).admin = s.admin := rfl
@[simp] theorem setPort_adminWait : (setPort p x s).adminWait = s.adminWait := rfl
@[simp] theorem setPort_latches : (setPort p x s).latches = s.latches := rfl
@[simp] theorem setPort_bus : (setPort p x s).bus = s.bus := rfl
@[simp] theorem setPort_outbox : (setPort p x s).outbox = s.outbox := rfl
@[simp] theorem setPort_mbx : (setPort p x s).mbx = s.mbx := rfl
@[simp] theorem setPort_links : (setPort p x s).links = { s.links with ports := tset s.links.ports p x } := rfl
@[simp] theorem setPort_ply : (setPort p x s).ply = s.ply := rfl
@[simp] theorem setPort_power : (setPort p x s).power = s.power := rfl
@[simp] theorem setPort_boot : (setPort p x s).boot = s.boot := rfl
@[simp] theorem setPort_nv : (setPort p x s).nv = s.nv := rfl
@[simp] theorem setPort_tap : (setPort p x s).tap = s.tap := rfl
@[simp] theorem setPort_ctrs : (setPort p x s).ctrs = s.ctrs := rfl
end

section
variable {c : Nat} {x : Chan}
@[simp] theorem setChan_pending : (setChan c x s).pending = s.pending := rfl
@[simp] theorem setChan_now : (setChan c x s).now = s.now := rfl
@[simp] theorem setChan_freeCtr : (setChan c x s).freeCtr = s.freeCtr := rfl
@[simp] theorem setChan_mem : (setChan c x s).mem = s.mem := rfl
@[simp] theorem setChan_home : (setChan c x s).home = s.home := rfl
@[simp] theorem setChan_units : (setChan c x s).units = s.units := rfl
@[simp] theorem setChan_signals : (setChan c x s).signals = s.signals := rfl
@[simp] theorem setChan_lists : (setChan c x s).lists = s.lists := rfl
@[simp] theorem setChan_posted : (setChan c x s).posted = s.posted := rfl
@[simp] theorem setChan_claims : (setChan c x s).claims = s.claims := rfl
@[simp] theorem setChan_reducers : (setChan c x s).reducers = s.reducers := rfl
@[simp] theorem setChan_hanks : (setChan c x s).hanks = s.hanks := rfl
@[simp] theorem setChan_hostPins : (setChan c x s).hostPins = s.hostPins := rfl
@[simp] theorem setChan_allocs : (setChan c x s).allocs = s.allocs := rfl
@[simp] theorem setChan_nextEpoch : (setChan c x s).nextEpoch = s.nextEpoch := rfl
@[simp] theorem setChan_moves : (setChan c x s).moves = s.moves := rfl
@[simp] theorem setChan_nextId : (setChan c x s).nextId = s.nextId := rfl
@[simp] theorem setChan_stackTbl : (setChan c x s).stackTbl = s.stackTbl := rfl
@[simp] theorem setChan_panels : (setChan c x s).panels = s.panels := rfl
@[simp] theorem setChan_catalogue : (setChan c x s).catalogue = s.catalogue := rfl
@[simp] theorem setChan_slots : (setChan c x s).slots = s.slots := rfl
@[simp] theorem setChan_clients : (setChan c x s).clients = s.clients := rfl
@[simp] theorem setChan_sched : (setChan c x s).sched = s.sched := rfl
@[simp] theorem setChan_schedNext : (setChan c x s).schedNext = s.schedNext := rfl
@[simp] theorem setChan_schedStart : (setChan c x s).schedStart = s.schedStart := rfl
@[simp] theorem setChan_rings : (setChan c x s).rings = s.rings := rfl
@[simp] theorem setChan_ringRegs : (setChan c x s).ringRegs = s.ringRegs := rfl
@[simp] theorem setChan_db : (setChan c x s).db = s.db := rfl
@[simp] theorem setChan_irq : (setChan c x s).irq = s.irq := rfl
@[simp] theorem setChan_agingSteps : (setChan c x s).agingSteps = s.agingSteps := rfl
@[simp] theorem setChan_urgentUs : (setChan c x s).urgentUs = s.urgentUs := rfl
@[simp] theorem setChan_epochUs : (setChan c x s).epochUs = s.epochUs := rfl
@[simp] theorem setChan_rdThreshold : (setChan c x s).rdThreshold = s.rdThreshold := rfl
@[simp] theorem setChan_patrolHours : (setChan c x s).patrolHours = s.patrolHours := rfl
@[simp] theorem setChan_host : (setChan c x s).host = s.host := rfl
@[simp] theorem setChan_admin : (setChan c x s).admin = s.admin := rfl
@[simp] theorem setChan_adminWait : (setChan c x s).adminWait = s.adminWait := rfl
@[simp] theorem setChan_latches : (setChan c x s).latches = s.latches := rfl
@[simp] theorem setChan_bus : (setChan c x s).bus = s.bus := rfl
@[simp] theorem setChan_outbox : (setChan c x s).outbox = s.outbox := rfl
@[simp] theorem setChan_mbx : (setChan c x s).mbx = { s.mbx with chans := tset s.mbx.chans c x } := rfl
@[simp] theorem setChan_links : (setChan c x s).links = s.links := rfl
@[simp] theorem setChan_ply : (setChan c x s).ply = s.ply := rfl
@[simp] theorem setChan_power : (setChan c x s).power = s.power := rfl
@[simp] theorem setChan_boot : (setChan c x s).boot = s.boot := rfl
@[simp] theorem setChan_nv : (setChan c x s).nv = s.nv := rfl
@[simp] theorem setChan_tap : (setChan c x s).tap = s.tap := rfl
@[simp] theorem setChan_ctrs : (setChan c x s).ctrs = s.ctrs := rfl
end

section
variable {i : Nat} {m : Mirror}
@[simp] theorem setMirror_pending : (setMirror i m s).pending = s.pending := rfl
@[simp] theorem setMirror_now : (setMirror i m s).now = s.now := rfl
@[simp] theorem setMirror_freeCtr : (setMirror i m s).freeCtr = s.freeCtr := rfl
@[simp] theorem setMirror_mem : (setMirror i m s).mem = s.mem := rfl
@[simp] theorem setMirror_home : (setMirror i m s).home = s.home := rfl
@[simp] theorem setMirror_units : (setMirror i m s).units = s.units := rfl
@[simp] theorem setMirror_signals : (setMirror i m s).signals = s.signals := rfl
@[simp] theorem setMirror_lists : (setMirror i m s).lists = s.lists := rfl
@[simp] theorem setMirror_posted : (setMirror i m s).posted = s.posted := rfl
@[simp] theorem setMirror_claims : (setMirror i m s).claims = s.claims := rfl
@[simp] theorem setMirror_reducers : (setMirror i m s).reducers = s.reducers := rfl
@[simp] theorem setMirror_hanks : (setMirror i m s).hanks = s.hanks := rfl
@[simp] theorem setMirror_hostPins : (setMirror i m s).hostPins = s.hostPins := rfl
@[simp] theorem setMirror_allocs : (setMirror i m s).allocs = s.allocs := rfl
@[simp] theorem setMirror_nextEpoch : (setMirror i m s).nextEpoch = s.nextEpoch := rfl
@[simp] theorem setMirror_moves : (setMirror i m s).moves = s.moves := rfl
@[simp] theorem setMirror_nextId : (setMirror i m s).nextId = s.nextId := rfl
@[simp] theorem setMirror_stackTbl : (setMirror i m s).stackTbl = s.stackTbl := rfl
@[simp] theorem setMirror_panels : (setMirror i m s).panels = s.panels := rfl
@[simp] theorem setMirror_catalogue : (setMirror i m s).catalogue = s.catalogue := rfl
@[simp] theorem setMirror_slots : (setMirror i m s).slots = s.slots := rfl
@[simp] theorem setMirror_clients : (setMirror i m s).clients = s.clients := rfl
@[simp] theorem setMirror_sched : (setMirror i m s).sched = s.sched := rfl
@[simp] theorem setMirror_schedNext : (setMirror i m s).schedNext = s.schedNext := rfl
@[simp] theorem setMirror_schedStart : (setMirror i m s).schedStart = s.schedStart := rfl
@[simp] theorem setMirror_rings : (setMirror i m s).rings = s.rings := rfl
@[simp] theorem setMirror_ringRegs : (setMirror i m s).ringRegs = s.ringRegs := rfl
@[simp] theorem setMirror_db : (setMirror i m s).db = s.db := rfl
@[simp] theorem setMirror_irq : (setMirror i m s).irq = s.irq := rfl
@[simp] theorem setMirror_agingSteps : (setMirror i m s).agingSteps = s.agingSteps := rfl
@[simp] theorem setMirror_urgentUs : (setMirror i m s).urgentUs = s.urgentUs := rfl
@[simp] theorem setMirror_epochUs : (setMirror i m s).epochUs = s.epochUs := rfl
@[simp] theorem setMirror_rdThreshold : (setMirror i m s).rdThreshold = s.rdThreshold := rfl
@[simp] theorem setMirror_patrolHours : (setMirror i m s).patrolHours = s.patrolHours := rfl
@[simp] theorem setMirror_host : (setMirror i m s).host = s.host := rfl
@[simp] theorem setMirror_admin : (setMirror i m s).admin = s.admin := rfl
@[simp] theorem setMirror_adminWait : (setMirror i m s).adminWait = s.adminWait := rfl
@[simp] theorem setMirror_latches : (setMirror i m s).latches = s.latches := rfl
@[simp] theorem setMirror_bus : (setMirror i m s).bus = s.bus := rfl
@[simp] theorem setMirror_outbox : (setMirror i m s).outbox = s.outbox := rfl
@[simp] theorem setMirror_mbx : (setMirror i m s).mbx = s.mbx := rfl
@[simp] theorem setMirror_links : (setMirror i m s).links = s.links := rfl
@[simp] theorem setMirror_ply : (setMirror i m s).ply = { s.ply with mirror := tset s.ply.mirror i m } := rfl
@[simp] theorem setMirror_power : (setMirror i m s).power = s.power := rfl
@[simp] theorem setMirror_boot : (setMirror i m s).boot = s.boot := rfl
@[simp] theorem setMirror_nv : (setMirror i m s).nv = s.nv := rfl
@[simp] theorem setMirror_tap : (setMirror i m s).tap = s.tap := rfl
@[simp] theorem setMirror_ctrs : (setMirror i m s).ctrs = s.ctrs := rfl
end

end Sys2Proof.Laws
end

