-- ==== Sys2Proof/Laws/Units.lean ====
section
/-! SUPPORT. What issuing, advancing and stalling do (R107, R110, R144, R145), each said once. -/
namespace Sys2Proof.Laws
open Sys2Proof Machine Safety

/-- Bit `i` of a number, as core Lean names it. -/
theorem nbit_testBit {n i : Nat} : nbit n i = n.testBit i := by
  unfold nbit
  rw [Nat.testBit_eq_decide_div_mod_eq, Nat.shiftRight_eq_div_pow]
  rfl

/-- An instruction its unit can take has its effect, and the cycle is judged. -/
theorem issue_ready {i : Instr} {u : BitVec 9} {f : Nat → State → Fired} {s : State}
    (h : canIssue i u.toNat s = true) : issue i u f s = tally u.toNat s (f u.toNat s) := by
  simp only [canIssue, Bool.and_eq_true] at h
  simp [issue, h.1, h.2]

/-- The same for an instruction that makes progress. -/
theorem issue_done {i : Instr} {u : BitVec 9} {f : Nat → State → Fired} {s t : State}
    (h : canIssue i u.toNat s = true) (hf : f u.toNat s = (t, [])) : issue i u f s = judged u.toNat s t := by
  rw [issue_ready h, hf, judged]

/-- An instruction its unit does not hold changes nothing. -/
theorem issue_not {i : Instr} {u : BitVec 9} {f : Nat → State → Fired} {s : State} (h : holds i u.toNat s = false) :
    issue i u f s = s := by simp [issue, h]

/-- A unit that can take an instruction is running. -/
theorem canIssue_run {i : Instr} {u : Nat} {s : State} (h : canIssue i u s = true) : (getUnit s u).run = .running := by
  simp only [canIssue, holds, Bool.and_eq_true, beq_iff_eq] at h
  exact h.1.1.1

/-- A cycle lost to a bank conflict changes the counters alone (R103, R105). -/
theorem countLost_eq (u : Nat) (s0 s : State) : ∃ c, countLost u s0 s = { s with ctrs := c } := by
  unfold countLost
  dsimp only
  split
  · exact ⟨s.ctrs, rfl⟩
  · exact ⟨(bump (.bankConflict u) (bankLost s0 u) s).ctrs, rfl⟩

/-- A judged cycle changes the unit's cycle count and the counters alone (R144, R145). -/
theorem tally_eq (u : Nat) (s : State) (f : Fired) :
    tally u s f = { modUnit u (fun x => { x with cycle := x.cycle + 1 }) f.1 with ctrs := (tally u s f).ctrs } := by
  unfold tally
  obtain ⟨c, hc⟩ := countLost_eq u s (modUnit u (fun x => { x with cycle := x.cycle + 1 }) f.1)
  rw [hc]
  dsimp only
  split
  · split <;> simp [stall, bump]
  · rfl

/-- Going to an address inside the program only changes the instruction address. -/
theorem goTo_eq {s : State} {u a : Nat} (hr : (getUnit s u).run ≠ .stopped) (ha : a < (getUnit s u).program.length) :
    goTo u a s = setUnit u { getUnit s u with pc := a } s := by
  unfold goTo
  rw [if_neg (by simpa using hr), if_neg (by omega)]

/-- A unit that holds `x` and retires: the next address. -/
theorem retire_setUnit {s : State} {u : Nat} {x : KUnit} (hr : x.run ≠ .stopped) (hl : x.pc + 1 < x.program.length) :
    retire u (setUnit u x s) = setUnit u { x with pc := x.pc + 1 } s := by
  unfold retire
  rw [getUnit_setUnit, goTo_eq (by simpa using hr) (by simpa using hl)]
  simp

/-- A unit that retires with nothing else changed. -/
theorem retire_ready {s : State} {u : Nat} (hr : (getUnit s u).run ≠ .stopped)
    (hl : (getUnit s u).pc + 1 < (getUnit s u).program.length) :
    retire u s = setUnit u { getUnit s u with pc := (getUnit s u).pc + 1 } s := by
  unfold retire
  rw [goTo_eq hr hl]

/-- The instruction that a unit takes has left `x` and retires: the next address, the cycle judged. -/
theorem judged_retire {s : State} {u : Nat} {x : KUnit} (hr : x.run ≠ .stopped) (hp : x.pc = (getUnit s u).pc)
    (hl : x.pc + 1 < x.program.length) : judged u s (retire u (setUnit u x s)) = unitNext u x s := by
  rw [retire_setUnit hr hl, unitNext, unitAt, hp]

/-- A step of a counter that neither chains nor faults. -/
theorem stepCtr_stepped {x : KUnit} {n k : Nat} (hc : ¬ (Passes (getCtr x n) ∧ (getCtr x n).overMode = 2))
    (hn : ¬ (Passes (getCtr x n) ∧ (getCtr x n).chain = true ∧ n < 15)) :
    Stepped n x (stepCtr (k + 1) n x).1 ∧ (stepCtr (k + 1) n x).2.2 = none ∧
      ((stepCtr (k + 1) n x).2.1 = true ↔ Passes (getCtr x n)) := by
  have hv : BitVec.ofInt 32 ((getCtr x n).value.toNat + (getCtr x n).step.toInt)
      = (getCtr x n).value + (getCtr x n).step := by
    rw [BitVec.ofInt_add, BitVec.ofInt_toInt, BitVec.ofInt_natCast, BitVec.ofNat_toNat, BitVec.setWidth_eq]
  have hp : (stepTarget (getCtr x n)).2 = true ↔ Passes (getCtr x n) := by
    simp [stepTarget, Passes, stepSum]
  unfold stepCtr Stepped
  by_cases h : Passes (getCtr x n)
  · have h2 : (getCtr x n).overMode ≠ 2 := fun e => hc ⟨h, e⟩
    have h3 : ¬ ((getCtr x n).chain = true ∧ n < 15) := fun e => hn ⟨h, e⟩
    have hb : (stepTarget (getCtr x n)).2 = true := hp.mpr h
    by_cases h0 : (getCtr x n).overMode = 0
    · simp [hb, h, h0, h3, withValue]
    · simp [hb, h, h0, h2, h3]
  · have hb : (stepTarget (getCtr x n)).2 = false := by
      rw [Bool.eq_false_iff]; exact fun e => h (hp.mp e)
    have h1 : (stepTarget (getCtr x n)).1 = (getCtr x n).value.toNat + (getCtr x n).step.toInt := rfl
    simp [hb, h, withValue, h1, hv]

end Sys2Proof.Laws
end

