-- ==== Sys2Proof/WellFormed.lean ====
section
/-! DEFINITION. Which commands are well formed: the operands wider than what the manual gives them are in range, and an
event carries data of the shape the manual states. A command that is not well formed still has a meaning (mostly none of
its effect); these are the ones the outside can send. -/
namespace Sys2Proof

/-- Assigned master identities (R357). -/
def masterOk (m : BitVec 8) : Bool := ([0x01, 0x10, 0x11, 0x12, 0x13, 0x20, 0x30, 0x40, 0x50] : List (BitVec 8)).contains m

/-- A member of a work counter: a cluster of 64, or a region of 16 (R167). -/
def counterOk (region : Bool) (idx : BitVec 6) : Bool := !region || idx.toNat < 16

/-- An upset names a site of R86: bands 0 to 7 or the checksum row path, columns 0 to 127 or the checksum column. -/
def upsetOk (x : Upset) : Bool := x.band ≤ 8 && x.col ≤ 128

/-- A self-test result (R473, R476). -/
def swatchOk (r : SwatchResult) : Bool := 1 ≤ r.test && r.test ≤ 11 && r.band ≤ 8 && r.column ≤ 128

/-- An offset of a BAR, aligned to an access of `size` bytes (R323). -/
def offsetOk (bar2 : Bool) (off size : Nat) : Bool := off % size == 0 && off + size ≤ (if bar2 then 0x100000 else 0x10000)

/-- An aligned access of 4 or 8 bytes within a space: of one dword in configuration space (R317), and at the mailbox offsets of
BAR2 in the window of a master inside the module (R357, R363). -/
def spaceOk (space : Space) (off : Nat) (eight : Bool) : Bool :=
  let n := if eight then 8 else 4
  match space with
  | .bar0 => offsetOk false off n
  | .bar2 => offsetOk true off n
  | .config => !eight && off % 4 == 0 && off < 4096
  | .window m => ([0x10, 0x11, 0x12, 0x13, 0x20, 0x50] : List (BitVec 8)).contains m && 0x10000 ≤ off && off < 0x20000
      && off % n == 0

/-- The largest M of a tile shape (R64, R156). -/
def largestM (shape : BitVec 3) : Nat := if shape = 3 then 128 else if shape = 5 then 64 else 256

/-- A page that a neighbour delivers (R208). -/
def peerPage : Option (List Byte) → Bool
  | some l => l.length == 4096
  | none => true

/-- Whether a command is well formed. -/
def wellFormed : Instr → Bool
  | .pass _ _ shape m1 _ _ _ _ _ p ups => shape.toNat ≤ 5 && (p || m1.toNat < largestM shape) && ups.all upsetOk
  | .replayIssue _ ups => ups.all upsetOk
  | .plane _ _ _ cell _ => cell != 3
  | .drain _ _ _ dest _ _ _ act _ _ _ _ => dest != 3 && act.toNat ≤ 5
  | .vop _ vfn _ _ _ _ _ _ => vfn.toNat ≤ 0x1E
  | .recv _ _ _ _ mka => mka != 3
  | .fwd _ _ _ _ mka => mka != 3
  | .steer _ data ctl out0 out1 _ _ => data != ctl && out0 != out1
  | .merge _ in0 in1 ctl _ _ _ => in0 != in1 && in0 != ctl && in1 != ctl
  | .cset _ _ part apply _ => part != 3 || !apply
  | .countBeatStore region idx _ _ => counterOk region idx
  | .claimServe region idx => counterOk region idx
  | .epochApply region idx _ => counterOk region idx
  | .reRequest _ addr peer => addr.toNat % 64 == 0 && peer.all fun p => peerPage (some p.2)
  | .moveEndUpdate _ m => m.peers.all fun p => peerPage (some p.2)
  | .patrolRead _ _ _ _ _ corrected (.bad peer) => corrected == 0 && peerPage peer
  | .patrolRead _ _ _ _ _ _ .good => true
  | .nandProgramDone _ _ _ pages _ => !pages.isEmpty && pages.length ≤ 4096
  | .swatchTestsDone _ fails => fails.all swatchOk
  | .startupSwatchDone _ _ _ hanks => hanks.all (· < 768)
  | .barAccessMalformed _ bar2 off size => !((size == 4 || size == 8) && offsetOk bar2 off.toNat size)
  | .registerWrite space off eight v => spaceOk space off.toNat eight && (eight || v.toNat < 2 ^ 32)
  | .latchedRead space off eight => spaceOk space off.toNat eight
  | .mbxTxWrite m _ _ => masterOk m
  | .mbxRxRead m _ _ => masterOk m
  | .mbxLockRead m _ => masterOk m
  | .mbxLockWrite m _ _ => masterOk m
  | .mbxCtrlWrite m _ _ => masterOk m
  | .mbxDbMaskWrite m _ => masterOk m
  | .domainOff m => masterOk m
  | .domainOn m => masterOk m
  | .ping h _ src => masterOk h && masterOk src && h != src
  | .setCap _ src => masterOk src
  | .getTelemetry _ src => masterOk src
  | .setRackId _ src => masterOk src
  | .drainNotice src _ => src == 0x40
  | .resetModule _ src => masterOk src
  | .getIdentity _ src => masterOk src
  | .fetchData _ _ bytes => bytes.length ≤ 0x4000000
  | .readData _ _ bytes => bytes.length ≤ 0x4000000
  | .lifeline _ _ records bulk => records.length ≤ 1024 && bulk.length ≤ 65536
  | .voltageDroop island _ => island.toNat < 80
  | .junctionSample readings => readings.length == 80
  | .samplePreload cells => cells.length == 11264
  | .bypass code => !([0x01, 0x02, 0x03, 0x04, 0x05, 0x06, 0x07, 0x20] : List (BitVec 8)).contains code
  -- every operand of these admits all its values
  | .nopInstruction _ | .halt _ | .jump _ _ | .loop _ _ _ _ _ | .brm _ _ _ _ _ _ _ | .semWait _ _ | .semSignal _ _ _
  | .barrier _ _ _ _ | .claim _ _ _ _ _ | .doneTile _ _ _ _ | .prob _ _ _ | .mwait _ _ | .cadd _ _ _ | .cload _ _ _ _
  | .cstep _ _ | .accin _ _ _ _ _ | .vred _ _ _ _ _ _ | .vsmax _ _ _ _ _ _ | .vtopk _ _ _ _ _ _ _ _ _
  | .vsample _ _ _ _ _ _ _ | .vrand _ _ _ _ _ _ | .load _ _ _ _ _ _ | .store _ _ _ _ _ | .send _ _ _ _ | .mark _ _ _
  | .stepFire _ _ | .spillReturn _ _ | .passCheckOutcome _ _ | .passCommit _ _ | .tileDrainStart _
  | .semaphoreSignalArrive _ _ | .barrierRelease _ | .reducerSlotReady _ _ _ | .reducerResultWrite _ _ | .move _
  | .moveQueueStore _ _ _ | .moveStart _ _ _ | .tileResend _ _ | .poolEpochBoundary | .allocWake _
  | .backgroundEviction _ | .wearLevelRelocation _ _ _ | .readDisturbRelocation _ _ _ _ | .t3MountDone _ _ | .walk _ _ _
  | .walkEntryPut _ _ | .append _ _ _ | .pageTakeResume _ | .dispatch _ _ _ | .dispatchResume _ _
  | .bundleAnnounce _ _ _ _ _ | .arrive _ _ _ | .expertReturnWrite _ _ _ | .ret _ _ _ | .identify _ | .panelCreate _
  | .panelDestroy _ | .castOn _ | .castOnCopyDone _ _ | .bindOff _ | .bindOffDrainLimit _ | .bindOffTeardown _ | .deploy _
  | .deployCopyDone _ _ _ | .undeploy _ | .swapWeights _ | .versionMarkerPlace _ | .swapLayerCopyDone _ _ | .swapTimeout _
  | .pin _ | .unpin _ | .schedLoad _ | .schedulePeriodBoundary | .setFallback _ | .attest _ | .swatch _ | .counters _
  | .fwUpdate _ | .nop _ _ | .run _ _ | .gen _ _ | .pause _ _ | .resume _ _ | .abort _ _ | .promptReadDone _
  | .stepBufferWrite _ | .runStart _ | .runResult _ | .tokenBoundary _ | .fallback _ | .sweep | .summaryResult _
  | .streamRecordWrite _ | .completionEntryWrite _ | .poll | .ringEnable | .ringDisable | .ringRead | .capDrvWrite _
  | .irqModerationExpiry _ | .flr | .perstAssert | .perstDeassert | .dlDown | .d3hotEntry _ | .d0Return | .pwrCapWrite _
  | .lnkCtrlWrite _ | .recoveryGo _ | .recoveryDone | .smbusBlockWrite _ _ _ _ | .smbusProcessCall _ _ _ | .signalDetect _
  | .equalisationDone _ _ | .alignLock _ | .trainingTimeout _ | .trainingRetry _ | .hello _ _ | .helloSend _
  | .dataFlit _ _ _ | .nullFlit _ _ | .nakRepeat _ | .linkSilenceTimeout _ | .channelOpen _ _ | .channelClose _ _
  | .fetchReq _ _ _ | .fetchRefuse _ _ | .fetchBusyRetry _ _ | .readStatus _ _ | .resendReq _ _ | .mailbox _ _ _
  | .heartbeatSend | .missedBeat | .partnerLost | .takeover | .plyBind _ | .bindTimeout | .plyRelease _ | .bindRec _
  | .syncDone _ | .releaseRec _ | .openRec _ | .tokens _ | .generated _ | .stateRec _ | .bulk _ _ | .catalogueRec _
  | .resync _ | .handover _ | .handoverReply _ | .underVoltage _ _ | .overVoltage _ | .overCurrent _ _ | .presenceOpen
  | .inputRestart _ | .powerGood _ | .powerEstimateTick _ | .powerLoopTick | .gaugeSample _ _ _
  | .thermalTrip _ _ | .coolantSample _ _ _ | .railSequenceDone | .bootVerifyDone | .coreStartDone _ _ _
  | .dramTrainingDone _ | .pcieReadiness | .readySet | .idcode | .extest | .clamp | .highz | .extestPulse | .extestTrain
  | .mbxacc | .insertion _ | .signalLoss _ | .fwBankWriteDone _ | .configurationRequest | .testLogicReset _ => true

end Sys2Proof
end

