-- ==== Sys2Proof/Tests/Slice0.lean ====
section
/-! SUPPORT. Tests: ill-formed commands are refused; a concrete state for every statement's hypotheses; single steps. -/
namespace Sys2Proof.Tests
set_option Elab.async false
open Sys2Proof Machine Safety

/-- A state whose unit `u` is about to take an instruction, twice in its program. -/
def unitState (u : Nat) (i : Instr) (x : KUnit) : State :=
  setUnit u { x with program := [BitVec.ofNat 64 (iword i), BitVec.ofNat 64 (iword i)], run := .running } {}

/-- An access that goes through. -/
def goes (a : Access) : Bool :=
  match a with
  | .go _ _ => true
  | _ => false

/-! ## CounterInstructionsComplete -/

theorem wit_nop : Ready (.nopInstruction 3) 3 (unitState 3 (.nopInstruction 3) {}) := by decide

theorem wit_cset : Ready (.cset 3 15 3 true 0xF) 3 (unitState 3 (.cset 3 15 3 true 0xF) {}) := by decide

/-- CADD of −1 on a checked counter whose VALUE is one above its BOUND. -/
theorem wit_cadd :
    let s := unitState 3 (.cadd 3 2 0xFFFFFFFF) { ctrs := [(2, { value := 8, bound := 7, mode := 2 })] }
    let c := getCtr (getUnit s 3) 2
    let t : Int := c.value.toNat + (0xFFFFFFFF : BitVec 32).toInt
    Ready (.cadd 3 2 0xFFFFFFFF) 3 s ∧ c.overMode = 2 ∧ 0 ≤ t ∧ t < 4294967296 ∧ (c.bound.toNat : Int) ≤ t := by decide

/-- CLOAD of the last word of the local store. -/
theorem wit_cload :
    let s := unitState 3 (.cload 3 0 1 false) { ctrs := [(1, { value := 0x7FFFC })] }
    let x := getUnit s 3
    Ready (.cload 3 0 1 false) 3 s ∧ ctrVal x 1 % 4 = 0 ∧ ctrVal x 1 + 4 ≤ 0x80000 ∧ hazard x x.issued [(ctrVal x 1, 4)] [] [] [] = false
      ∧ (getCtr (setCtr 0 { value := 0 } x) 1).auto_ = false := by decide

/-- CLOAD through an AUTO counter that wraps. -/
theorem wit_cload_auto :
    let s := unitState 3 (.cload 3 0 1 true) { ctrs := [(1, { value := 8, base := 4, step := 4, bound := 8, mode := 8 })] }
    let x := getUnit s 3
    let x' := setCtr 0 { value := 0, bound := 0 } x
    Ready (.cload 3 0 1 true) 3 s ∧ ctrVal x 1 % 4 = 0 ∧ hazard x x.issued [(ctrVal x 1, 4)] [] [] [] = false ∧
      (getCtr x' 1).auto_ = true ∧ (getCtr x' 1).overMode ≠ 2 ∧ (getCtr x' 1).chain = false := by decide

/-! ## BranchInstructionsComplete -/

theorem wit_halt : canIssue (.halt 511) 511 (unitState 511 (.halt 511) {}) = true := by decide

theorem wit_jump : let s := unitState 0 (.jump 0 1) {}
    canIssue (.jump 0 1) 0 s = true ∧ 1 < (getUnit s 0).program.length := by decide

/-- LOOP whose counter wraps at its bound, with a mark. -/
theorem wit_loop :
    let s := unitState 0 (.loop 0 2 0 7 true) { ctrs := [(7, { value := 15, step := 1, bound := 15 })] }
    let c := getCtr (getUnit s 0) 7
    Ready (.loop 0 2 0 7 true) 0 s ∧ Passes c ∧ c.overMode ≠ 2 ∧ c.chain = false ∧ (getUnit s 0).strandQ.length < 4 := by
  decide

/-- CSTEP of counter 14 that wraps and chains into 15. -/
theorem wit_cstep :
    let s := unitState 0 (.cstep 0 14) { ctrs := [(14, { value := 15, step := 1, bound := 15, mode := 4 })] }
    let x := getUnit s 0
    let c := getCtr x 14
    let y := setCtr 14 (withValue c c.base) x
    Ready (.cstep 0 14) 0 s ∧ Passes c ∧ c.overMode ≠ 2 ∧ c.chain = true ∧ Stepped 14 x y ∧ ¬ Passes (getCtr y 15) := by
  decide

/-- BRM on an end-of-tile marker. -/
theorem wit_brm :
    let s := unitState 0 (.brm 0 4 1 2 false true 9) { ins := [(2, { queue := [.marker 0x2009] })] }
    let q := getIn (getUnit s 0) (maskOne 4)
    Ready (.brm 0 4 1 2 false true 9) 0 s ∧ headOf q = .marker 0x2009 ∧ markerReserved 0x2009 = false ∧
      q.fromLink = none ∧ (0x2009 : BitVec 16).toNat / 4096 = 2 ∧ (0x2009 : BitVec 16).toNat % 4096 = 9 := by decide

/-! ## SemaphoreInstructionsComplete -/

theorem wit_sem_wait :
    let s := unitState 0 (.semWait 0 31) { sems := [(31, 1)] }
    Ready (.semWait 0 31) 0 s ∧ semOf (getUnit s 0) 31 ≠ 0 := by decide

theorem wit_sem_signal :
    let s := unitState 0 (.semSignal 0 3 7) { outs := [(7, { dests := [.strand 5 0, .link 1 2] })] }
    Ready (.semSignal 0 3 7) 0 s ∧ devPending (getUnit s 0) = false ∧ (getOut (getUnit s 0) 7).device = false := by decide

theorem wit_sem_signal_device :
    let s := unitState 0 (.semSignal 0 3 7) { outs := [(7, { device := true })] }
    Ready (.semSignal 0 3 7) 0 s ∧ devPending (getUnit s 0) = false ∧ (getOut (getUnit s 0) 7).device = true := by decide

theorem wit_mwait :
    let s := unitState 0 (.mwait 0 5) { moveTags := [4] }
    Ready (.mwait 0 5) 0 s ∧ (5 : BitVec 16) ∉ (getUnit s 0).moveTags := by decide

theorem wit_signal_arrive :
    let s : State := { setUnit 9 { sems := [(0, 254)] } {} with signals := [⟨9, 0⟩, ⟨9, 0⟩] }
    (⟨9, 0⟩ : SemRef) ∈ s.signals ∧ (getUnit s 9).halted = false ∧ (semOf (getUnit s 9) 0).toNat < 255 := by decide

theorem wit_signal_arrive_halted :
    let s : State := { setUnit 9 { halted := true } {} with signals := [⟨9, 0⟩] }
    (⟨9, 0⟩ : SemRef) ∈ s.signals ∧ (getUnit s 9).halted = true := by decide

/-! ## BarriersAndClaimsWait -/

/-- A panel of one cluster, two of whose units have a program; the other one still runs. -/
theorem wit_barrier :
    let s := { setUnit 1 { run := .running } (unitState 0 (.barrier 0 0 0 7) {}) with panels := [(0, { clusters := 1 })] }
    let t := setUnit 0 { getUnit s 0 with wait := .barrier 7 0 0 false } s
    canIssue (.barrier 0 0 0 7) 0 s = true ∧ panelOf s 0 = some 0 ∧ barrierMarker (getUnit t 0) = none ∧
      1 ∈ barrierUnits t 0 ∧ (getUnit t 1).halted = false ∧ barrierId (getUnit t 1) = none := by decide

theorem wit_claim :
    let s := { unitState 0 (.claim 0 2 false 3 1) {} with
      panels := [(0, { clusters := 1 })], lists := [(3, { panel := 0 })] }
    canIssue (.claim 0 2 false 3 1) 0 s = true ∧ devPending (getUnit s 0) = false ∧
      (listOf s 0 (unitList 0 false 3)).isSome = true := by decide

theorem wit_done_tile :
    let s := { unitState 0 (.doneTile 0 2 true 3) { ctrs := [(2, { value := 6 })] } with
      panels := [(0, { clusters := 1 })], lists := [(1027, { panel := 0, held := [(0, 6)] })] }
    Ready (.doneTile 0 2 true 3) 0 s ∧ devPending (getUnit s 0) = false ∧
      listOf s 0 (unitList 0 true 3) = some { panel := 0, held := [(0, 6)] } ∧
      tget [(0, 6)] 0 = some (ctrVal (getUnit s 0) 2) := by decide

/-! ## BarrierReleaseCompletes -/

/-- Two units of a one-cluster panel wait at barrier 5; a third one is halted. -/
theorem wit_barrier_release :
    let w : KUnit := { program := [0, 0], run := .running, wait := .barrier 5 0 0 false }
    let s := { setUnit 0 w (setUnit 3 w (setUnit 6 { run := .running, halted := true } {})) with
      panels := [(0, { clusters := 1 })] }
    badBarrier s 0 = none ∧ barrierReached s 0 = some 5 ∧ ∀ u ∈ barrierUnits s 0, ∀ v ∈ [0, 3], u = v →
      (getUnit s u).wait = .barrier 5 0 0 false ∧ (getUnit s u).run = .running ∧
        (getUnit s u).pc + 1 < (getUnit s u).program.length := by decide

/-! ## WorkListStoresAndEpochs -/

theorem wit_count_store :
    let s : State := { lists := [(3, { count := 4, epoch := 1 })] }
    tget s.lists (listKey false 0 3) = some { count := 4, epoch := 1 } := by decide

/-- A store that raises the count, one of another epoch, and one with a reserved bit. -/
theorem wit_count_store_kinds :
    (0x100000005 : BitVec 64).toNat / 2 ^ 32 % 2 ^ 16 = 1 ∧ (0x100000005 : BitVec 64).toNat % 2 ^ 24 = 5 ∧
      (0x200000005 : BitVec 64).toNat / 2 ^ 32 % 2 ^ 16 ≠ 1 ∧ (0x101000005 : BitVec 64).toNat / 2 ^ 24 % 2 ^ 7 ≠ 0 := by decide

theorem wit_epoch_apply :
    let x : WorkList := { count := 4, next := 4, final := true, parked := some 0x200000005 }
    let s : State := { lists := [(1027, x)] }
    tget s.lists (listKey true 0 3) = some x ∧ x.parked = some 0x200000005 ∧ x.drained = true := by decide

/-! ## ClaimServeCompletes -/

/-- A state whose unit 5 waits on list 3 of its cluster. -/
def claimState (l : WorkList) : State :=
  { setUnit 5 { program := [0, 0], run := .running, wait := .claim 3 7 1 } {} with
    lists := [(3, l)], claims := [(0, [⟨6, 3, true⟩, ⟨5, 3, true⟩])] }

theorem wit_claim_fresh :
    let s := claimState { count := 4, next := 3 }
    let s1 := applyParked 3 (completeIdx 5 3 s)
    nextClaim s 0 = some ⟨5, 3, true⟩ ∧ tget s1.lists 3 = some { count := 4, next := 3 } ∧
      (getUnit s 5).wait = .claim 3 7 1 ∧ (getUnit s 5).run = .running ∧
      (getUnit s 5).pc + 1 < (getUnit s 5).program.length ∧ 1 < (getUnit s 5).program.length := by decide

theorem wit_claim_requeued :
    let s := claimState { count := 4, next := 4, requeue := [2] }
    nextClaim s 0 = some ⟨5, 3, true⟩ ∧
      tget (applyParked 3 (completeIdx 5 3 s)).lists 3 = some { count := 4, next := 4, requeue := [2] } := by decide

theorem wit_claim_empty :
    let s := claimState { count := 4, next := 4, final := true }
    nextClaim s 0 = some ⟨5, 3, true⟩ ∧ (tget (applyParked 3 (completeIdx 5 3 s)).lists 3).any (·.drained) = true := by decide

theorem wit_claim_waits :
    let s := claimState { count := 4, next := 4 }
    nextClaim s 0 = some ⟨5, 3, true⟩ ∧ (tget (applyParked 3 (completeIdx 5 3 s)).lists 3).any (·.drained) = false := by decide

/-! ## ProblemLoadCompletes -/

/-- A panel with one area of one home hank at address 0, whose first problem names counter 9. -/
def probState : State :=
  let i := Instr.prob 3 1 2
  let c : Cast := { (default : Cast) with
    areas := [(5, { tier2 := false, pinned := false, readOnly := false, len := 0x100, imgOff := 0, swap := 0, wver := 0, locs := [.addr 0] })] }
  let s := unitState 3 i { segs := [(2, ⟨5, 0, 128, none⟩)], tensors := [(0, default)] }
  wr 64 (recBytes (sealRec (recOf 512 [(2, 2, 1), (4, 1, 1), (5, 1, 1), (6, 1, 10), (9, 1, 2), (0xA, 2, 1), (0x14, 4, 77)])))
    { setUnit 3 { getUnit s 3 with ctrs := [(1, { value := 1 })] } s with
      home := [(0, 512)], hanks := [(0, { owner := some 0, age := 3 })],
      panels := [(0, { clusters := 1, cast := some c })] }

theorem wit_prob :
    let s := probState
    Ready (.prob 3 1 2) 3 s ∧ (getUnit s 3).heldAt = [] ∧ hazard (getUnit s 3) 0 [] [] (segRange (getUnit s 3) 2 64 64) [] = false ∧
      (match unitAccess 3 0 2 64 64 false s with
      | .go ps s1 =>
        let r : Rec64 := BitVec.ofNat 512 (natOf (readPieces ps s1))
        recOk r && probFault r 1 1 2 == none
      | _ => false) = true := by decide +kernel

/-! ## ArrayInstructionsComplete -/

/-- An operation that an engine's queue holds. -/
def heldOp (op : EngOp) : QOp := { num := 0, pc := 0, key := [], op := op }

/-- PLANE behind a queued operation: over a strand, and from the last plane of the local store through AUTO counter 1. -/
theorem wit_plane :
    let x : KUnit := { arrQ := [heldOp (.plane none 0 0 [])], ctrs := [(1, { value := 0x7C000, base := 0x7C000, bound := 0x7C000, step := 256, mode := 8 })] }
    Ready (.plane 3 4 1 0 false) 3 (unitState 3 (.plane 3 4 1 0 false) x) ∧
      Ready (.plane 3 0 1 0 false) 3 (unitState 3 (.plane 3 0 1 0 false) x) ∧ LocalOk 0x7C000 16384 256 ∧ AutoOk [1] x := by
  decide

/-- PLANE by a problem of 16-bit formats, on an idle engine. -/
theorem wit_plane_p :
    let x : KUnit := { problem := some (recOf 512 [(4, 1, 8), (5, 1, 8)]) }
    Ready (.plane 3 0 1 0 true) 3 (unitState 3 (.plane 3 0 1 0 true) x) ∧ LocalOk 0 8192 256 ∧ AutoOk [1] x ∧
      hazard x 0 [(0, 8192)] [] [] [] = false ∧ cellMode 8 8 = some 2 := by decide

/-- PASS of one row: queued from a strand, queued from the local store, and issued at once beside a pass in flight. -/
theorem wit_pass :
    let i := Instr.pass 3 4 0 0 1 7 7 false false false []
    let j := Instr.pass 3 0 0 0 1 7 7 false false false []
    let x : KUnit := { arrQ := [heldOp (.plane none 0x1000 0 [])] }
    let pl : Plane := { cell := 0, bytes := [1] }
    let q : PassRec := { (default : PassRec) with bufB := true, st := .issued }
    let y : KUnit := { shadow := pl, shadowFull := true, passes := [q] }
    Ready i 3 (unitState 3 i x) ∧ Ready j 3 (unitState 3 j x) ∧ LocalOk 0 128 256 ∧ AutoOk [1] x ∧
      Ready j 3 (unitState 3 j y) ∧ AutoOk [1] y ∧ hazard y 0 [(0, 128)] [] [] [] = false ∧
      withheld (unitState 3 j y) 3 = false ∧ q.st ≠ .failed ∧ q.bufB = y.lastBufB := by decide

/-! ## AccumulateAndDrainComplete -/

theorem wit_accin :
    let x : KUnit := { arrQ := [heldOp (.plane none 0x1000 0 [])] }
    let y : KUnit := { hdrFile := [⟨0x600, recOf 512 [(8, 4, 3)]⟩], ctrs := [(1, { value := 0x600 })], depth := 0xFFFFFD }
    let i := Instr.accin 3 2 1 0 false
    let j := Instr.accin 3 0 1 0 false
    Ready i 3 (unitState 3 i x) ∧ Ready j 3 (unitState 3 j x) ∧ LocalOk 0 1536 256 ∧ AutoOk [1] x ∧ drainAhead y 0 = false ∧ hazard y 0 [(0x600, 1536)] [] [] [] = false ∧
      Ready j 3 (unitState 3 j y) ∧ LocalOk 0x600 1536 256 ∧ AutoOk [1] y ∧ ctrVal y 1 = 0x600 ∧
      y.hdrFile.find? (fun e => e.addr == 0x600) = some ⟨0x600, recOf 512 [(8, 4, 3)]⟩ ∧
      y.depth.toNat + fld (recOf 512 [(8, 4, 3)]) 8 4 ≤ 2 ^ 24 := by decide +kernel

/-- DRAIN with a bias to the local store, and one to a strand by the problem register. -/
theorem wit_drain :
    let i := Instr.drain 3 0 1 0 0 7 0 1 true 2 0 false
    let j := Instr.drain 3 1 1 1 0 0 0 0 false 2 0 true
    let x : KUnit := { ctrs := [(1, { value := 0x7FF00 }), (2, { value := 512 })] }
    let y : KUnit := { problem := some (recOf 512 [(1, 1, 4), (6, 1, 10), (0xA, 2, 1)]) }
    Ready i 3 (unitState 3 i x) ∧ LocalOk 0x7FF00 (256 * cdiv (1 * (128 * fmtBits 7 / 8)) 256) 256 ∧
      LocalOk 512 512 256 ∧ AutoOk [1, 2] x ∧
      Ready j 3 (unitState 3 j y) ∧ LocalOk 0 512 256 ∧ AutoOk [2] y := by decide

/-! ## VectorLanesComplete -/

/-- VOP: a fused multiply-add in place on the last row, a widening of 4-bit elements, a narrowing, and an ACC96 form. -/
theorem wit_vop :
    let x : KUnit := { ctrs := [(1, { value := 0x7FE00 }), (2, { value := 512 })] }
    Ready (.vop 3 3 1 1 1 1 0 0) 3 (unitState 3 (.vop 3 3 1 1 1 1 0 0) x) ∧
      Ready (.vop 3 0x0A 0 0 0 2 0 7) 3 (unitState 3 (.vop 3 0x0A 0 0 0 2 0 7) x) ∧
      Ready (.vop 3 0x0B 0 0 0 2 0 1) 3 (unitState 3 (.vop 3 0x0B 0 0 0 2 0 1) x) ∧
      Ready (.vop 3 0x0A 0 0 0 2 0 11) 3 (unitState 3 (.vop 3 0x0A 0 0 0 2 0 11) x) ∧
      hazard x 0 [(0x7FE00, 512)] [(0x7FE00, 512)] [] [] = false ∧ withheld (unitState 3 (.vop 3 3 1 1 1 1 0 0) x) 3 = false ∧
      AutoOk [1, 1, 1, 1] x ∧ AutoOk [0, 2] x ∧
      LocalOk 0x7FE00 512 256 ∧ LocalOk 0x7FE00 512 256 ∧ LocalOk 0 (128 * fmtBits 7 / 8 * 4) 256 ∧
      LocalOk 512 128 256 ∧ LocalOk 0 (128 * fmtBits 11 / 8) 256 ∧ LocalOk 512 512 256 := by decide

theorem wit_vred :
    let x : KUnit := { ctrs := [(2, { value := 0x7FFFC })] }
    let i := Instr.vred 3 true true 1 2 1
    Ready i 3 (unitState 3 i x) ∧ AutoOk [1, 2] x ∧ LocalOk 0 1024 256 ∧ LocalOk 0x7FFFC 4 4 := by decide

/-! ## VectorUnitsComplete -/

theorem wit_vsmax :
    let x : KUnit := { ctrs := [(1, { value := 0x7FFF0 }), (2, { value := 256 })] }
    let i := Instr.vsmax 3 0 1 2 2 true
    Ready i 3 (unitState 3 i x) ∧ AutoOk [0, 1, 2] x ∧ LocalOk 0 12 256 ∧ LocalOk 0x7FFF0 16 4 ∧
      LocalOk 256 12 256 := by decide

/-- VTOPK by a problem that asks for the two best of one row. -/
theorem wit_vtopk :
    let x : KUnit := { ctrs := [(1, { value := 1024 }), (2, { value := 2048 })], problem := some (recOf 512 [(0xA, 2, 1), (0xC, 2, 2)]) }
    let i := Instr.vtopk 3 0 2 1 0 0 true true true
    Ready i 3 (unitState 3 i x) ∧ AutoOk [0, 1, 2] x ∧ LocalOk 0 1024 256 ∧ LocalOk 1024 16 256 ∧
      LocalOk 2048 16 256 := by decide

theorem wit_vsample :
    let x : KUnit := { ctrs := [(1, { value := 1024 }), (2, { value := 2048 }), (4, { value := 5 })] }
    let i := Instr.vsample 3 0 2 1 3 4 9
    Ready i 3 (unitState 3 i x) ∧ AutoOk [0, 2, 1] x ∧ LocalOk 0 20 256 ∧ LocalOk 1024 8 8 ∧
      LocalOk 2048 4 4 := by decide

theorem wit_vrand :
    let x : KUnit := { ctrs := [(1, { value := 1024 }), (2, { value := 2048 })] }
    let i := Instr.vrand 3 2 1 3 9 0
    Ready i 3 (unitState 3 i x) ∧ AutoOk [2, 1] x ∧ LocalOk 1024 8 8 ∧ LocalOk 2048 512 256 := by decide

/-! ## LoadAndStoreComplete -/

/-- A panel with one area of one home hank at address 0; segment 2 is all of it, segment 3 its first tile of one beat
with the header at 0x1000. -/
def segState (i : Instr) (b : Byte) : State :=
  let c : Cast := { (default : Cast) with
    areas := [(5, { tier2 := false, pinned := false, readOnly := false, len := 0x2000, imgOff := 0, swap := 0, wver := 0, locs := [.addr 0] })] }
  let t : TileDecl := { (default : TileDecl) with tb := 1, hdrArea := 5, hdrOff := 0x1000 }
  let payload := List.replicate 255 0 ++ [b]
  let h := mkTileHdr 10 0xF 0 1 1 0 7 0 0 0 0 0 payload
  wr 255 [b] (wr 0x1000 (recBytes h) { unitState 3 i { segs := [(2, ⟨5, 0, 0x2000, none⟩), (3, ⟨5, 0, 0x100, some t⟩)], store := [(0x7FFFF, 9)], ctrs := [(1, { value := 0x7FF00 })] } with
      home := [(0, 512)], hanks := [(0, { owner := some 0, age := 3 })], panels := [(0, { clusters := 1, cast := some c })] })

/-- The state in which unit 3 has handed an operation to its move engine. -/
def handed (s : State) (op : EngOp) : State :=
  let x := getUnit s 3
  setUnit 3 { autoUnit [1, 0] x with issued := x.issued + 1, moveQ := [newOp x op], pc := x.pc + 1 } s

theorem wit_load :
    let i := Instr.load 3 1 2 0 0 false
    let s := segState i 5
    Ready i 3 s ∧ AutoOk [1, 0] (getUnit s 3) ∧ LocalOk 0x7FF00 256 256 ∧ (getUnit s 3).heldAt = [] ∧
      hazard (getUnit s 3) 0 [] [(0x7FF00, 256)] (segRange (getUnit s 3) 2 0 256) [] = false ∧
      (match unitAccess 3 0 2 0 256 false (handed s (.load 0x7FF00 2 0 1 false)) with
        | .go ps _ => ps == [(0, 256)] | _ => false) = true := by decide +kernel

theorem wit_load_verify :
    let i := Instr.load 3 1 3 0 0 true
    let s := segState i 5
    Ready i 3 s ∧ (getCast s 0).isSome = true ∧
      (match unitAccess 3 0 3 0 256 false (handed s (.load 0x7FF00 3 0 1 true)), getCast s 0, (tget (getUnit s 3).segs 3).bind (·.tile) with
      | .go ps s1, some c, some t =>
        t.tb == 1 && match checkTiles s1 c t 0 1 (readPieces ps s1) [] with | .inl hs => hs.length == 1 | .inr _ => false
      | _, _, _ => false) = true := by decide +kernel

theorem wit_store :
    let i := Instr.store 3 1 2 0 0
    let s := segState i 5
    Ready i 3 s ∧ hazard (getUnit s 3) 0 [(0x7FF00, 256)] [] [] (segRange (getUnit s 3) 2 0 256) = false ∧
      (match unitAccess 3 0 2 0 256 true (handed s (.store 0x7FF00 2 0 1)) with | .go ps _ => ps == [(0, 256)] | _ => false) = true ∧
      ((getCast s 0).map queueBeats) = some [] := by decide +kernel

/-! ## StrandInstructionsQueue -/

/-- SEND of the last beat of the local store behind three operations. -/
theorem wit_send :
    let i := Instr.send 3 0x81 1 0
    let q := heldOp (.fwd 0 1 1 0)
    let x : KUnit := { ctrs := [(1, { value := 0x7FF00 })], moveQ := [q, q, q] }
    Ready i 3 (unitState 3 i x) ∧ x.moveQ.length < 4 ∧ LocalOk 0x7FF00 256 256 ∧ AutoOk [1] x := by decide +kernel

theorem wit_recv :
    let i := Instr.recv 3 4 1 255 2
    let x : KUnit := { ctrs := [(1, { value := 0x70000 })] }
    Ready i 3 (unitState 3 i x) ∧ LocalOk 0x70000 65536 256 ∧ AutoOk [1] x := by decide

theorem wit_strand_queue :
    Ready (.fwd 3 4 3 0 1) 3 (unitState 3 (.fwd 3 4 3 0 1) {}) ∧ Ready (.mark 3 0xFF 0x2000) 3 (unitState 3 (.mark 3 0xFF 0x2000) {}) ∧
      Ready (.steer 3 0 1 2 3 0 9) 3 (unitState 3 (.steer 3 0 1 2 3 0 9) {}) ∧
      Ready (.merge 3 0 1 2 3 0 9) 3 (unitState 3 (.merge 3 0 1 2 3 0 9) {}) := by decide

/-! ## EngineStepsComplete -/

/-- The last beat of a RECV, one beat of a PLANE, and a VRED. -/
theorem wit_step_fire_beat :
    let q : InStrand := { queue := [.beat 7 none, .marker 0x2000] }
    let x : KUnit := { ins := [(2, q)], moveQ := [heldOp (.recv 2 0 1 0)], arrQ := [heldOp (.plane (some 2) 0 2 [])] }
    let s := setUnit 3 x {}
    (getUnit s 3).halted = false ∧ (getUnit s 3).run ≠ .stopped ∧ (getIn (getUnit s 3) 2).queue = .beat 7 none :: [.marker 0x2000] ∧
      opHazard x (heldOp (.recv 2 0 1 0)) = false ∧ opHazard x (heldOp (.plane (some 2) 0 2 [])) = false ∧
      opHazard x (heldOp (.vred false false 0 512 1)) = false ∧ withheld s 3 = false ∧
      (getIn (getUnit s 3) 2).arr = none ∧ (getIn (getUnit s 3) 2).fromLink = none := by decide +kernel

/-- A MARK, a SEND and a beat of a drained tile, to a strand of another unit. -/
theorem wit_step_fire_out :
    let o := heldOp (.send 0x10 0x100 1 true)
    let x : KUnit := { outs := [(4, { dests := [.strand 9 1] })], strandQ := [heldOp (.mark 0x10 0x2000)]
                       outQ := [heldOp (.emit 0x10 [(7, none)])], moveQ := [o], hdrFile := [⟨0x100, recOf 512 [(6, 2, 1)]⟩] }
    let s := setUnit 3 x {}
    outList 0x10 = [4] ∧ (getOut (getUnit s 3) 4).dests = [.strand 9 1] ∧ (getUnit s 9).halted = false ∧
      (getIn (getUnit s 9) 1).spilled = [] ∧ (getIn (getUnit s 9) 1).marks < 16 ∧ outsRoom s 3 0x10 (.beat 7 none) = true ∧
      opHazard x o = false ∧ hdrFileFind x 0x100 1 = some (recOf 512 [(6, 2, 1)]) ∧ hdrFileFind x 0 1 = none ∧
      outsRoom s 3 0x10 (.beat 0 (some (recOf 512 [(6, 2, 1)]))) = true := by decide +kernel

theorem wit_spill_return :
    let q : InStrand := { spilled := [.marker 0x2000], spillOff := 15 }
    let s := setUnit 3 { ins := [(7, q)] } {}
    (getIn (getUnit s 3) 7).spilled = .marker 0x2000 :: [] ∧ (getIn (getUnit s 3) 7).laneRoom false = true ∧
      (getUnit s 3).halted = false := by decide

/-! ## TileDrainCompletes -/

/-- One row of a tile drained as 8-bit integers. -/
theorem wit_drain_start :
    let t : Tensor := { (default : Tensor) with scale := 0x3F800000, histArea := 99 }
    let x : KUnit := { outQ := [heldOp (.drain 0 0x7FF00 0 0 2 0 0 none 1)], tensors := [(0, t)], acc := [(0, 5), (3, 200)] }
    let s := { setUnit 3 x {} with panels := [(0, { clusters := 1 })] }
    drainReady (getUnit s 3) 0 = true ∧ vecCycles (.drain 0 0x7FF00 0 0 2 0 0 none 1) = 0 ∧ opHazard x (heldOp (.drain 0 0x7FF00 0 0 2 0 0 none 1)) = false ∧
      (match histReach 0 2 0 t s with | .go _ _ => true | _ => false) = true ∧ panelOf s 3 = some 0 ∧ (drainPayload x 0 0 t 2 0 none 1).1.length = 256 := by
  decide +kernel

/-! ## PassChecksReplaysAndCommits -/

/-- A pass over shape 5 with no rows is checked as equal; one with an upset fails. -/
theorem wit_pass_check :
    let p : PassRec := { (default : PassRec) with shape := 5, m := 0, seq := 4, afmt := 1, wfmt := 1, st := .issued }
    let q : PassRec := { (default : PassRec) with shape := 2, m := 1, afmt := 8, wfmt := 8, attempts := 2, st := .issued, upsets := [⟨0, 0, 7, 128, 2 ^ 600⟩] }
    (passCheck p).band = none ∧ (passCheck p).cols = [] ∧
      [p].find? (fun p => p.bufB == false && p.st == .issued) = some p ∧
      [q].find? (fun p => p.bufB == false && p.st == .issued) = some q ∧ q.attempts < 3 := by decide +kernel

theorem wit_pass_commit :
    let p : PassRec := { (default : PassRec) with seq := 4, add := true, entries := [(0, { sum := 5 }), (1, { sum := 6, special := 1 })], st := .equal }
    let x : KUnit := { passes := [p], depth := 0xFFFF80, acc := [(0, 7)] }
    x.passes.find? (fun p => p.bufB == false && p.st == .equal) = some p ∧ mayCommit x p = true ∧ withheld (setUnit 3 x {}) 3 = false ∧ drainAhead x p.seq = false ∧
      x.depth.toNat + shapeK p.shape ≤ 2 ^ 24 ∧ (p.entries.map (·.1)).Nodup ∧
      [{ p with st := .failed }].find? (fun p => p.st == .failed) = some { p with st := .failed } := by decide +kernel

/-! ## ResendsAndReducersComplete -/

/-- Unit 8 keeps a tile that strand 2 of unit 3 is to get again. -/
theorem wit_resend :
    let t : SentTile := { hdr := mkTileHdr 10 0xF 0 1 1 0 8 0 0 0 0 0 (List.replicate 256 0), beats := [0], waiting := [.strand 3 2] }
    let s := setUnit 8 { outs := [(0, { kept := [t] })] } (setUnit 3 { ins := [(2, { queue := [.hole 5 1] })] } {})
    keptFor s (.strand 3 2) = some (8, t) ∧ hasHole (getIn (getUnit s 3) 2).queue = true ∧
      tilePasses (resentHdr t.hdr) (t.beats.flatMap beatBytes) = true := by decide +kernel

theorem wit_resend_link :
    let s := setPort 4 { (default : Port) with st := .up }
      (setUnit 3 { ins := [(2, { spilled := [.hole 5 1], fromLink := some (4, 1) })] } {})
    (getIn (getUnit s 3) 2).fromLink = some (4, 1) ∧ (getPort s 4).st = .up := by decide +kernel

/-- The second of two partials of 64 zeros; its tile stands at 0x100 and its header at 0x40. -/
theorem wit_reducer :
    let r : Reducer :=
      { panel := 0, parts := 2, elems := 64, slots := [0, 0x100], hdrs := [0, 0x40], out := 0x200, outHdr := 0x80
        tensor := 0, empties := [], fulls := [], stored := [1], nextPart := 1, sum := List.replicate 64 0 }
    let s := wr 0x40 (recBytes (mkTileHdr 10 0xF 0 1 1 0 8 0 0 0 0 0 (List.replicate 256 0)))
      { reducers := [(5, r)], home := [(0, 512)] }
    (match engineRanges 0 (slotRanges r 1) false s with | .go _ _ => true | _ => false) = true ∧
      (match engineRanges 0 (outRanges r) true s with | .go _ _ => true | _ => false) = true ∧ tget s.reducers (16 * 0 + 5) = some r ∧ 1 ∈ r.stored ∧ r.nextPart = 1 ∧ partialOk s r 1 = true ∧ 1 + 1 = r.parts ∧
      tget ({ reducers := [(5, { r with done := true })] } : State).reducers 5 = some { r with done := true } := by
  decide +kernel

/-! ## MovesCompleteStepByStep -/

/-- A panel with a move queue at 0x1000 and a T2 area, the first hank of which a unit moves to the place of the second. -/
def moveState : State × Beat :=
  let c : Cast := { (default : Cast) with
    img := { (default : Image) with pat := { (default : Pattern) with queues := [{ (default : QueueDecl) with kind := .move, stack := 0, area := 5, off := 0x1000 }] } }
    areas := [(5, { tier2 := false, pinned := false, readOnly := false, len := 0x2000, imgOff := 0, swap := 0, wver := 0, locs := [.addr 0] }),
      (6, { tier2 := true, pinned := false, readOnly := false, len := 0x400000, imgOff := 0, swap := 0, wver := 0, locs := [.addr t2Base, .addr (t2Base + 0x200000)] })] }
  let d := sealRec (recOf 512 [(0, 1, 1), (1, 1, 1), (4, 2, 9), (6, 1, 0), (8, 8, t2Base), (0x10, 8, t2Base + 0x200000), (0x18, 8, 0x200000)])
  ({ setUnit 3 { run := .running } {} with
      home := [(t2Base / 4096, t2Base / 4096 + 512)], hanks := [(768, { owner := some 0 })],
      panels := [(0, { clusters := 1, groups := 1, cast := some c })] }, d.setWidth 2048)

theorem wit_move_queue_store :
    let s := moveState.1
    let d : Rec64 := moveState.2.setWidth 512
    beatSlots moveState.2 = [d] ∧ moveOk s d = true ∧ unitMoveRangeOk s 0 d = true ∧
      moveQueueFull s 0 = false ∧ (getUnit s 3).run = .running ∧ panelOf s 3 = some 0 ∧
      ((getCast s 0).map queueBeats) = some [(.move, 0, 0x1000)] := by decide +kernel

/-- A copy inside T2 that may start, one that may start after allocation, and the same running. -/
theorem wit_move_start :
    let m : MoveRec :=
      { id := 1, stack := 0, kind := 1, alloc := false, pin := false, tag := 0, panel := 0xFF, dtier := 0
        src := t2Base, dst := t2Base + 0x200000, len := 0x200000, peer := 0, by_ := .evict 768, pool := true, placed := true }
    let n : MoveRec := { m with alloc := true, dst := 0, dtier := 1, placed := false }
    let s (m : MoveRec) : State := { moves := [m], home := [(t2Base / 4096, t2Base / 4096 + 512)], hanks := [(768, { owner := none })] }
    nextMove (s m) 0 = some m ∧ homeAll (s m) m.src m.len = true ∧ nextMove (s n) 0 = some n ∧
      (allocRange (.move 1) 1 0x200000 none false (some 0) (s n)).1 = .got 0 ∧
      (s { m with running := true }).moves.find? (fun m => m.id == 1 && m.running && m.stack == 0) = some { m with running := true } ∧
      heldOn m (s m) = [] ∧ tierOf m.src = 2 ∧ tierOf m.dst = 2 := by decide +kernel

/-! ## RecoveryAndPoolComplete -/

/-- Unit 3 recovers the tile at device address 0, whose header stands at 0x1000; unit 8 retains it at local address 0. -/
theorem wit_re_request :
    let t : TileDecl := { (default : TileDecl) with tb := 1, hdrArea := 5, hdrOff := 0x1000 }
    let c : Cast := { (default : Cast) with
      areas := [(5, { tier2 := false, pinned := false, readOnly := false, len := 0x2000, imgOff := 0, swap := 0, wver := 0, locs := [.addr 0] })] }
    let h := mkTileHdr 10 0xF 0 1 1 0 8 0 0 0 0 0 (List.replicate 256 0)
    let s := { setUnit 8 { retained := [(0, h, 0)] } (setUnit 3 { recover := some 0, segs := [(3, ⟨5, 0, 0x100, some t⟩)] } {}) with
      panels := [(0, { clusters := 1, cast := some c })], home := [(0, 512)] }
    let w := areaPut c 5 0 (List.replicate 256 0) (areaPut c 5 0x1000 (recBytes h) (bump (.reRequests 0) 1 s))
    segTileAt (getUnit s 3) c 0 = some (segTile 5 0 t 0) ∧ recoveryReturns c (segTile 5 0 t 0) s = none ∧ findRetained s 0 = some (8, h, List.replicate 256 0) ∧
      tilePasses (tileHdrAt w c t 0) (areaRead w c 5 0 256) = true ∧ hdrBeats (tileHdrAt w c t 0) = t.tb := by decide +kernel

/-- No panel; and one panel with a page hank none of whose pages is taken. -/
theorem wit_pool_epoch :
    let c : Cast := { (default : Cast) with poolHanks := [(2, t2Base)], pagesTaken := [5] }
    (∀ p ∈ ({} : State).panels, ∀ c, getCast {} p.1 = some c → freePoolHanks c = []) ∧ freePoolHanks c = [(2, t2Base)] ∧
      tierOf t2Base = 2 ∧ ({ nextEpoch := 5, now := 5 } : State).nextEpoch ≤ ({ nextEpoch := 5, now := 5 } : State).now.toNat := by
  refine ⟨?_, by decide, by decide, by decide⟩
  intro p hp; cases hp

/-- Region 0 with 41 hanks taken; and one T2 hank of an owner whose groups are out of service but for one hank. -/
theorem wit_background :
    let s : State := { hanks := (List.range 41).map fun k => (k, ({ owner := none, age := if k = 7 then 2 else 1 } : Hank)) }
    shortRegion s 0 = true ∧ oldestOf s (fun k _ => k < 768 && k / 48 == 0) = some 7 := by decide +kernel

theorem wit_background_t2 :
    let s := modT3 0 (fun t => { t with st := 2 }) { hanks := [(768, { owner := some 3 })], panels := [(3, { groups := 1 })], boot := { groupsOut := 1 } }
    (∀ q < 4, shortRegion s q = false) ∧ stackOwners s 0 = [some 3] ∧ freeT2 s 0 (some 3) < 64 ∧
      oldestOf s (fun k _ => 768 ≤ k && hankGroup k / 6 == 0 && groupOwner s (hankGroup k) == some 3) = some 768 ∧
      t3Writable s (hankStack 768) = true ∧ (t3Free s (hankStack 768) 1).isSome = true := by decide +kernel

/-! ## FlashLayerCompletes -/

/-- A mounted stack 1 with one worn block, one used block and reads on it. -/
def flashState : State :=
  let pg := t3First 1 + 3
  { modT3 1 (fun t => { t with st := 2, place := [(pg, 7)], erases := [(9, 200)], reads := [(7, 10000)], buffer := [pg + 1] }) {} with
    home := [(pg, pg + 2)], rdThreshold := 10 }

theorem wit_flash :
    let s := flashState
    let t := (getStack s 1).t3
    let pg := t3First 1 + 3
    t3Readable s 1 = true ∧ freshOk t 0 4 = true ∧ blockKey 0 4 ∉ t.retired ∧ lowestBlock t 0 = some (7, 0) ∧
      0 + 150 < (chanErases t 0).foldl (fun a e => max a e.2) 0 ∧ tgetD t.written (blockKey 0 4) 0 = 0 ∧
      (tgetD t.erases 7 0).toNat + 1 < 3000 ∧ s.rdThreshold.toNat * 1000 ≤ (tgetD t.reads (blockKey 0 7) 0).toNat ∧
      tget t.place pg = some (blockKey 0 7) ∧ rangeAny t.seen pg (pg + 1) = false ∧ (∀ p ∈ [pg + 1], p ∈ t.buffer) ∧
      freshOk t 0 5 = true ∧ tgetD t.written (blockKey 0 5) 0 = 0 ∧ blockKey 0 5 ∉ t.retired ∧
      (getStack (modT3 2 (fun t => { t with st := 1 }) {}) 2).t3.st = 1 := by decide +kernel

/-! ## KeyValueCommandsComplete -/

/-- A panel with a small cache (one layer, one group, rows of one head of 64) and its first page, one slot in PREFILL. -/
def kvState (sc : List Scatter) (todo : List WalkEnt) : State :=
  let r : RingDecl := { (default : RingDecl) with ring := 2, area := 5, slots := 2 }
  let k : KvDecl := { (default : KvDecl) with layers := 1, groups := 1, heads := 1, dim := 64, kvfmt := 1, tp := 512, maxLen := 4096, poolPages := 32, rings := [r] }
  let c : Cast := { (default : Cast) with
    img := { (default : Image) with pat := { (default : Pattern) with kv := some k } }
    areas := [(5, { tier2 := false, pinned := false, readOnly := false, len := 0x20000, imgOff := 0, swap := 0, wver := 0, locs := [.addr 0] })]
    scatters := sc, rings := [(2, { todo := todo })], dirBase := 0x10000, poolHanks := [(0, t2Base)] }
  setSlot 7 { (default : Slot) with st := .prefill, panel := 0, length := 0, committed := 4 }
    { ({} : State) with
      panels := [(0, { clusters := 1, cast := some c })]
      -- the list hank of slot 7 is hank 1; its first page is page 0, at the first byte of T2
      mem := [(0x10702, 0x20)], home := [(0, 1024), (t2Base / 4096, t2Base / 4096 + 512)] }

def kvCmd (kind ring src : Nat) : Rec64 :=
  sealRec (recOf 512 [(0, 1, 1), (1, 1, kind), (2, 2, 7), (6, 1, ring), (0xC, 4, 1), (0x10, 8, src)])

theorem wit_kv_commands :
    let s := kvState [] []
    ∃ c k, getCast s 0 = some c ∧ c.img.pat.kv = some k ∧ kvOk s 0 1 k (kvCmd 1 2 0) = true ∧
      kvOk s 0 2 k (kvCmd 2 0 0x1000) = true := ⟨_, _, rfl, rfl, by decide +kernel, by decide +kernel⟩

/-- A walk record, and a block none of whose positions is cached yet. -/
theorem wit_walk_entry :
    let s := kvState [] [.record 1 0 0 7]
    let t := kvState [] [.block 0 0 7 0 0 true]
    ∃ c k r, getCast s 0 = some c ∧ c.img.pat.kv = some k ∧ k.rings.find? (fun r => r.ring == 2) = some r ∧
      ringRoom s c r 0 = true ∧ (tgetD c.rings r.ring {}).todo = [.record 1 0 0 7] ∧ blockPages k 0 0 = [] ∧
      (getCast t 0).any (fun c => walkLive t 0 c 7) = true ∧
      goes (areasAccess 0 (ringReads r) (ringWrites k r 0) s) = true :=
  ⟨_, _, _, rfl, rfl, rfl, by decide +kernel, rfl, by decide +kernel, by decide +kernel, by decide +kernel⟩

theorem wit_page_take :
    let sc : Scatter := { slot := 7, rows := 2, next := 1, appends := [], taken := true }
    let s := kvState [sc] []
    ∃ c k x, getCast s 0 = some c ∧ c.img.pat.kv = some k ∧ c.scatters = [sc] ∧ getSlot s 7 = some x ∧
      sc.next + 1 = x.length + sc.rows ∧ sc.next < x.committed ∧ (match pagesReady 0 sc k s with | .ready _ => true | _ => false) = true :=
  ⟨_, _, _, rfl, rfl, rfl, rfl, by decide +kernel, by decide +kernel, by decide +kernel⟩

/-! ## ExpertCommandsComplete -/

/-- A layer of one expert, homed at stack 0 of this part, with one source. -/
def expertState (f : Cast → Cast) : State :=
  let d : ExpertDecl := { (default : ExpertDecl) with experts := 1, sources := 1, width := 2, cap := 4, kmax := 1, tmax := 4, homes := [⟨0, 0, 0⟩] }
  { panels := [(0, { clusters := 1, cast := some (f { (default : Cast) with
      img := { (default : Image) with pat := { (default : Pattern) with experts := [d] } }
      areas := [(0, { tier2 := false, pinned := false, readOnly := false, len := 0x200000, imgOff := 0, swap := 0, wver := 0, locs := [.addr 0] })] }) })]
    home := [(0, 512)] }

def routeCmd (kind tokens : Nat) : Rec64 := sealRec (recOf 512 [(0, 1, 1), (1, 1, kind), (8, 4, tokens)])

/-- A DISPATCH with room, one beside two open steps, an ARRIVE of the only source, and one of the second source. -/
theorem wit_route :
    let o : SrcStep := ⟨0, 0, 65534, [], [], [], []⟩
    let c := (getCast (expertState id) 0).getD default
    let c2 := { c with srcSteps := [o, { o with step := 65535 }] }
    let d := (expertLayer c 0).getD default
    routeOk c 1 0 (routeCmd 1 2) = true ∧ mayOpen c 0 0 = true ∧ (∀ h ∈ d.homes, h.part = c.img.pat.selfPart) ∧
      routeOk c2 1 0 (routeCmd 1 2) = true ∧ mayOpen c2 0 0 = false ∧
      routeOk c 2 0 (routeCmd 2 0) = true ∧ (homeStepOf c 0 0 0).done < d.sources ∧
      nextBundle { c with inbox := [⟨0, 0, 0, 0, 0, false, [], true⟩] } 0 0 0 (homeStepOf c 0 0 0) = some ⟨0, 0, 0, 0, 0, false, [], true⟩ ∧
      nextBundle { c with inbox := [⟨0, 1, 0, 0, 0, false, [], true⟩] } 0 0 0 (homeStepOf c 0 0 0) = none := by
  decide +kernel

/-- A RETURN from another part for an open step, a DISPATCH that waits, an unannounced bundle, a complete home step. -/
theorem wit_route_rest :
    let c := (getCast (expertState id) 0).getD default
    let d := (expertLayer c 0).getD default
    let o : SrcStep := ⟨0, 0, 0, [], [], [], []⟩
    let h : HomeStep := ⟨0, 0, 0, 1, [], [], [], [], 0⟩
    routeOk { c with srcSteps := [o] } 3 0 (routeCmd 3 0) = true ∧ ((homeStacks d).filter (·.1 == 0)) = [(0, 0)] ∧
      [((0 : Nat), routeCmd 1 2)].find? (fun w => rcLayer w.2 == 0 && mayOpen c (rcLayer w.2) (rcStep w.2))
        = some (0, routeCmd 1 2) ∧
      ([⟨0, 0, 0, 0, 0, false, [], false⟩] : List Bundle).any (fun b => !b.announced && !b.ret && b.layer == 0 && b.stack == 0
          && b.source == 0 && b.step == 0) = true ∧
      homeReady {} c d h = true := by decide +kernel

/-- The header of a record tile of a slot that holds a segment of no row. -/
def inboxState (ret : Bool) : State :=
  let s := expertState id
  let d := ((getCast s 0).bind (expertLayer · 0)).getD default
  wr (slotPayload d ret) (recBytes (mkTileHdr 10 0xF 0 1 1 0 8 0 0 0 0 0 (List.replicate 256 0))) s

/-- The accesses of a DISPATCH, an ARRIVE, a RETURN and a home step's results go through, and their tiles pass. -/
theorem wit_route_areas :
    let s := expertState id
    let c := (getCast s 0).getD default
    let d := (expertLayer c 0).getD default
    let h : HomeStep := ⟨0, 0, 0, 1, [], [], [], [], 0⟩
    ([dispatchReads d 0 2, inboxReads d 0 0 0, returnReads d 0 0 0, resultReads d 0 h].all fun l =>
      goes (areasAccess 0 l [] s) && (checkAreas 0 l s).1) = true ∧
      (checkSlot c d false 0 0 1 0 0 (inboxState false)).1 = true ∧ (checkSlot c d true 0 0 1 0 0 (inboxState true)).1 = true := by
  decide +kernel

/-! ## AdminReportsComplete -/

/-- Ring 0 enabled on a live function. -/
def adminState (f : State → State) : State :=
  f { ({} : State) with host := { up := true, busMaster := true, version := 1 }, rings := [(0, { st := .enabled, type := 4 })] }

theorem wit_admin_reports :
    let s := adminState fun s => { s with boot := { s.boot with catReady := true } }
    Taken 0 (recOf 512 [(1, 1, 1)]) s ∧ Taken 0x80 (recOf 512 [(1, 1, 1), (8, 1, 2), (0x18, 4, 0x8000)]) s ∧
      Taken 0x90 (recOf 512 [(1, 1, 1), (8, 1, 6), (0x18, 4, 0x8040)]) s ∧
      Taken 0x8E (recOf 512 [(1, 1, 1), (0x18, 8, 0x1000), (0x20, 4, 0x10000)]) s ∧ hostBad s 0 64 = false := by decide +kernel

/-! ## PanelAndPoolCommandsComplete -/

theorem wit_panel_commands :
    let s := adminState fun s => { s with panels := [(2, { clusters := 2, groups := 1, ways := 1 })] }
    Taken 0x81 (recOf 512 [(1, 1, 1), (8, 1, 0), (0x10, 8, 1), (0x18, 3, 2), (0x1C, 8, 2)]) s ∧
      s.boot.groupsOut.toNat &&& 2 = 0 ∧ s.ply.st = .unbound ∧ Taken 0x82 (recOf 512 [(1, 1, 1), (8, 1, 2)]) s ∧
      Taken 0x92 (recOf 512 [(1, 1, 1), (8, 1, 2), (9, 1, 0xFF)]) s := by decide +kernel

theorem wit_pool_commands :
    let s := adminState fun s => { s with hanks := [(0, { owner := none }), (768, { owner := none })], hostPins := [(0, 253)], home := [(0, 512), (t2Base / 4096, t2Base / 4096 + 512)] }
    let mv : Rec64 := sealRec (recOf 512 [(0, 1, 1), (1, 1, 1), (6, 1, 0xFF), (8, 8, t2Base), (0x10, 8, t2Base + 0x200000), (0x18, 8, 0x200000)])
    let d := recOf 512 [(1, 1, 1), (0x10, 8, 0), (0x18, 8, 0x200000)]
    Taken 0x88 (recOf 512 [(1, 1, 1), (0x10, 8, 0x40)]) (wr (hostBase + 0x40) (recBytes mv) s) ∧
      BitVec.ofNat 512 (natOf (rd (wr (hostBase + 0x40) (recBytes mv) s) (hostBase + 0x40) 64)) = mv ∧ moveOk s mv = true ∧
      Taken 0x89 d s ∧ Taken 0x8A d s ∧ pinRange d = some [0] ∧ homeAll s 0 0x200000 = true ∧ hostPins s 0 = 253 := by
  decide +kernel

theorem wit_sched_load :
    let h : Rec64 := sealRec (recOf 512 [(0, 1, 1), (2, 2, 1), (4, 4, 100)])
    let s := wr (hostBase + 0x40) (recBytes h ++ bytesOf 4 0 ++ bytesOf 4 50 ++ bytesOf 8 0) (adminState id)
    let d := recOf 512 [(1, 1, 1), (2, 2, 1), (0x10, 8, 0x40)]
    Taken 0x8B d s ∧ (schedNamed s.nextId (setFld d 0 1 0x8B) (running 0x8B d s)).1 = some (some ⟨100, [⟨0, 50, 0, 0⟩]⟩) ∧
      ({ s with sched := some ⟨100, []⟩, now := 100 }).sched = some ⟨100, []⟩ := by decide +kernel

/-! ## CatalogueAndCastOnComplete -/

/-- An image for one cluster, version 7 of model 5; only its header's fields matter here. -/
def smallImage : Image :=
  { (default : Image) with header := recOf 2048 [(8, 4, 5), (0xC, 4, 7), (0x10, 1, 1), (0x18, 8, 4096)] }

def smallEntry : CatEntry := { model := 5, wversion := 7, length := 4096, valid := true, img := smallImage, pieces := [], staged := [] }

/-- Ring 0 enabled, the catalogue read, panel 2 with cluster 0, T3 of stack 0 mounted, the storage port up to target 3. -/
def castState : State :=
  let s := adminState fun s => { s with boot := { s.boot with catReady := true }, panels := [(2, { clusters := 1 })] }
  setPort 16 { st := .up, peer := 0x43 } (modT3 0 (fun t => { t with st := 2 }) s)

theorem wit_deploy :
    let d := recOf 512 [(1, 1, 1), (2, 2, 4), (0xC, 4, 5), (0x10, 4, 7), (0x18, 8, 4096), (0x20, 8, 3 * 2 ^ 48 + 2 ^ 54)]
    let r := reservePieces 0 (cdiv 4096 0x200000) 0 [] (running 0x85 d castState)
    let u := { r.2 with catalogue := [{ model := 5, wversion := 7, length := 4096, valid := false, img := default, pieces := r.1.getD [], staged := [] }] }
    Taken 0x85 d castState ∧ r.1 = some [4096 * t3First 0] ∧ targetPorts u (fld d 0x20 8) = [16] := by decide +kernel

theorem wit_deploy_copy_done :
    let d := recOf 512 [(0, 1, 0x85), (0xC, 4, 5), (0x10, 4, 7)]
    let s := { castState with admin := [{ id := 4, d := d }], catalogue := [{ smallEntry with valid := false }] }
    adminOf s 0x85 (fun d => dModel d == 5 && dWver d == 7) = some { id := 4, d := d } ∧
      adminCmd s 4 = some { id := 4, d := d } := by decide +kernel

theorem wit_undeploy :
    let s := { castState with catalogue := [smallEntry] }
    Taken 0x86 (recOf 512 [(1, 1, 1), (0xC, 4, 5), (0x10, 4, 7)]) s ∧ catFind s 5 7 = some smallEntry ∧
      keyInUse s 5 7 = false := by decide +kernel

theorem castLoads_small (b : State) (x : Panel) (h : castMap x = [0]) (h1 : placeAll (clearSites 2 b) smallImage 0 [0] = some [])
    (h2 : castOverflow (clearSites 2 b) (withEntry { model := 5, wversion := 7, admission := 7, img := smallImage, cmap := [0], place := [] }) = none)
    (h3 : areaNeeds [0] smallImage 7 = []) (h4 : smallImage.pat.kv = none) : ∃ t, CastLoads 2 x smallEntry b t := by
  refine ⟨_, [], 0, 0, none, [], clearSites 2 b, clearSites 2 b, ?_, ?_, ?_, ?_, rfl⟩
  · rw [h]; exact h1
  · simp only [takeDirectory, show smallEntry.img.pat.kv = none from h4]
  · simp only [withEntry, h, show areaNeeds [0] smallEntry.img smallEntry.wversion = [] from h3, takeAreas]
  · rw [h]; exact h2

theorem wit_cast_on :
    let s := { castState with catalogue := [smallEntry] }
    let d := recOf 512 [(1, 1, 1), (8, 1, 2), (0xC, 4, 5), (0x10, 4, 7)]
    let b := catCount 2 smallEntry 0 4096 (modPanel 2 (fun x => { x with st := .casting, castCmd := some s.nextId }) (running 0x83 d s))
    (Taken 0x83 d s ∧ getPanel s 2 = some { clusters := 1 } ∧ castPanelOk b { clusters := 1 } smallImage = true) ∧
      (∀ q, returnStaged smallEntry 0 4096 q = none) ∧ ∃ t, CastLoads 2 { clusters := 1 } smallEntry b t :=
  ⟨by decide +kernel, fun _ => rfl, castLoads_small _ _ (by decide +kernel) (by decide +kernel) (by decide +kernel) (by decide +kernel) rfl⟩

theorem wit_alloc_wake :
    let d := recOf 512 [(0, 1, 0x83), (8, 1, 2), (0xC, 4, 5), (0x10, 4, 7)]
    let x : Panel := { clusters := 1, st := .casting, castCmd := some 4 }
    let s := { castState with
      catalogue := [smallEntry], admin := [{ id := 4, d := d }], panels := [(2, x)]
      allocs := [{ who := .cast 2, victim := none, counted := false }] }
    (moveOrder s = [] ∧ adminCmd s 4 = some { id := 4, d := d }) ∧ ∃ t, CastLoads 2 x smallEntry s t :=
  ⟨by decide +kernel, castLoads_small _ _ (by decide +kernel) (by decide +kernel) (by decide +kernel) (by decide +kernel) rfl⟩

theorem wit_alloc_wake_move :
    let m : MoveRec := { id := 1, stack := 0, kind := 1, alloc := true, pin := false, tag := 0, panel := 0xFF, dtier := 2, src := 0, dst := 0, len := 0x200000, peer := 0, by_ := .evict 0, pool := true }
    let s : State := { moves := [m] }
    (moveOrder s).find? (fun m => moveReady s m && !m.placed && m.dtier == 2 && (lowestFree s 2 (domainOwner m.panel)).isSome)
      = some m := by decide +kernel

theorem wit_cast_on_copy_done :
    let d := recOf 512 [(0, 1, 0x83), (8, 1, 2), (0xC, 4, 5), (0x10, 4, 7)]
    let c : Cast := { model := 5, wversion := 7, admission := 7, img := smallImage, cmap := [0], place := [] }
    let s := { castState with
      catalogue := [smallEntry], admin := [{ id := 4, d := d }]
      panels := [(2, { clusters := 1, st := .casting, castCmd := some 4, cast := some c })] }
    adminCmd s 4 = some { id := 4, d := d } ∧ fld d 0 1 = 0x83 ∧ catFind s c.model c.wversion = some smallEntry ∧
      extents smallImage = [] := by decide +kernel

/-! ## BindOffComplete -/

theorem wit_bind_off :
    let d := recOf 512 [(1, 1, 1), (8, 1, 2)]
    Taken 0x84 d (adminState fun s => { s with panels := [(2, { st := .ready })] }) ∧
      Taken 0x84 d (adminState fun s => { s with panels := [(2, { st := .faulted })] }) ∧
      Taken 0x84 d (adminState fun s => { s with
        panels := [(2, { st := .swapping })], nextId := 5, admin := [{ id := 4, d := setFld d 0 1 0x87 }] }) := by decide +kernel

theorem wit_bind_off_limit :
    let d := recOf 512 [(0, 1, 0x84), (8, 1, 2), (0xC, 4, 5)]
    adminCmd ({ admin := [{ id := 4, d := d }] } : State) 4 = some { id := 4, d := d } ∧ fld d 0 1 = 0x84 ∧ fld d 0xC 4 = 5 := by
  decide +kernel

theorem wit_bind_off_teardown :
    let d := recOf 512 [(0, 1, 0x84), (1, 1, 1), (8, 1, 2)]
    let s (st : PanelSt) : State := { admin := [{ id := 4, d := d }], panels := [(2, { st := st, castCmd := some 4 })] }
    fld d 0 1 = 0x84 ∧ adminCmd (s .faulted) 4 = some { id := 4, d := d } ∧ adminCmd (s .binding) 4 = some { id := 4, d := d } ∧
      slotsOf (s .binding) 2 [.prefill, .decode, .summarising] = [] := by decide +kernel

/-! ## WeightSwapCompletes -/

theorem wit_swap_weights :
    let c : Cast := { (default : Cast) with model := 5, wversion := 6, admission := 6, img := smallImage }
    let s := { castState with catalogue := [smallEntry], panels := [(2, { st := .ready, cast := some c })] }
    Taken 0x87 (recOf 512 [(1, 1, 1), (8, 1, 2), (0xA, 2, 1), (0xC, 4, 5), (0x10, 4, 7)]) s ∧ catFind s 5 7 = some smallEntry ∧
      swapExtentsOk c.img smallImage = true := by decide +kernel

/-- A swapping panel with one layer at barrier 3 and no unit; its marker is due. -/
def swapState (due : Bool) (swapped : List Nat) : State :=
  let c : Cast := { (default : Cast) with
    model := 5, wversion := 6, admission := 7, swapTo := some smallImage, markerDue := due, swapped := swapped
    img := { smallImage with pat := { (default : Pattern) with swaps := [{ barrier := 3, extents := [] }] } } }
  { castState with
    catalogue := [smallEntry], panels := [(2, { st := .swapping, cast := some c })]
    admin := [{ id := 0, d := recOf 512 [(0, 1, 0x87), (8, 1, 2), (0xA, 2, 1)] }] }

theorem wit_swap_steps :
    ((getPanel (swapState true []) 2).map (·.st) = some .swapping ∧ slotsOf (swapState true []) 2 [.queued] = [] ∧
      (getIn (getUnit (swapState true []) 0) 0).laneRoom false = true) ∧
    catFind (swapState false []) 5 7 = some smallEntry ∧ allArrived (swapState false []) 2 3 = true ∧
      (getCast (swapState false [0]) 2).map (fun c => decide (c.img.pat.swaps.length ≤ c.swapped.length)) = some true ∧
      (adminCmd (swapState true []) 0).isSome = true := by
  decide +kernel

/-! ## SwatchCompletes -/

/-- Panel 2 with cluster 0 under test; unit 0 of it is STATIC, unit 1 a SPARE if `spare`. -/
def swatchState (spare : Bool) : State :=
  let c : Cast := { (default : Cast) with
    cmap := [0]
    img := { smallImage with pat := { (default : Pattern) with roles := [[.static, if spare then .spare else .idle]] } } }
  { castState with
    admin := [{ id := 4, d := recOf 512 [(0, 1, 0x8F), (1, 1, 1), (8, 1, 2), (0x10, 8, 0x1000), (0x18, 4, 192)] }]
    panels := [(2, { st := .casting, swatching := true, clusters := 1, cast := some c, castCmd := some 4 })] }

theorem wit_swatch :
    Taken 0x8F (recOf 512 [(1, 1, 1), (8, 1, 2), (0x18, 4, 192)])
      (adminState fun s => { s with panels := [(2, { st := .ready, clusters := 1 })] }) := by decide +kernel

theorem wit_swatch_done :
    let t (b : Bool) := clearSites 2 (modUnit 0 (fun x => { x with marked := true }) (swatchState b))
    let img (b : Bool) := ((getCast (swatchState b) 2).map (·.img)).getD default
    placeAll (t true) (img true) 0 [0] = some [(0, 1)] ∧ placeAll (t false) (img false) 0 [0] = none ∧
      slotsOf (swatchState true) 2 [.prefill, .decode, .summarising] = [] ∧
      (adminCmd (swatchState true) 4).map (fun c => fld c.d 0 1) = some 0x8F := by decide +kernel

/-! ## RequestsComplete -/

/-- A live function: SUBMIT ring 1 to COMPLETE ring 2, STREAM ring 3; panel 2 READY with a pattern of 100 tokens. -/
def serveState (f : State → State) : State :=
  let lk : LinkDecl := { (default : LinkDecl) with payIn := 256, payOut := 64, inBytes := 0x1000, outBytes := 0x1000 }
  let c : Cast := { (default : Cast) with
    model := 5, wversion := 7, admission := 7
    img := { (default : Image) with pat := { (default : Pattern) with
      runLink := some lk, stepLink := some lk, vocab := 100, summaryBytes := 64, batch := 4, chunk := 8 } }
    areas := [(0, { tier2 := false, pinned := false, readOnly := false, len := 0x200000, imgOff := 0, swap := 0, wver := 0, locs := [.addr 0] })] }
  f { adminState id with
    rings := [(0, { st := .enabled, type := 4 }), (1, { st := .enabled, type := 1, cq := 2 }), (2, { st := .enabled, type := 2 }),
              (3, { st := .enabled, type := 3 })]
    home := [(0, 512)]
    panels := [(2, { st := .ready, gen := true, cast := some c })] }

def runDesc : Rec64 :=
  recOf 512 [(0, 1, 1), (1, 1, 1), (2, 2, 2), (4, 4, 9), (8, 1, 2), (9, 1, 3), (0xA, 2, 4), (0xC, 4, 1000), (0x10, 4, 5), (0x20, 4, 256),
    (0x24, 4, 64)]

def genDesc : Rec64 :=
  recOf 512 [(0, 1, 2), (1, 1, 1), (4, 4, 9), (8, 1, 2), (9, 1, 3), (0xA, 2, 4), (0xC, 4, 1000), (0x10, 4, 5), (0x20, 8, 0x4000), (0x28, 4, 3),
    (0x2C, 4, 5), (0x30, 2, 0xFFFF), (0x32, 2, 3)]

def resumeDesc : Rec64 :=
  recOf 512 [(0, 1, 4), (1, 1, 1), (4, 4, 9), (8, 2, 6), (0xA, 2, 0x302), (0xC, 4, 1000), (0x10, 4, 4), (0x14, 2, 0xFFFF), (0x16, 2, 3),
    (0x20, 8, 0x4000), (0x28, 4, 3), (0x2C, 4, 5)]

/-- Slot 6 holds a generation request in a state. -/
def slotState (st : SlotSt) (f : Slot → Slot) : State :=
  serveState fun s => { s with slots := [(6, f { st := st, opcode := 2, panel := 2, client := 4, reqId := 9, model := 5, wversion := 7, served := 7, ring := 2, streamRing := 3 })] }

theorem wit_requests :
    Accepted 0 1 (recOf 512 [(1, 1, 1)]) (serveState id) ∧ Accepted 1 1 runDesc (serveState id) ∧
      Accepted 2 1 genDesc (serveState id) ∧ (panelImg (serveState id) 2).isSome = true ∧
      firstGap (serveState id).slots 0 16384 = some 0 := by decide +kernel

theorem wit_slot_requests :
    Accepted 3 1 (recOf 512 [(0, 1, 3), (1, 1, 1), (4, 4, 9), (8, 2, 6)]) (slotState .decode id) ∧
      Accepted 4 1 resumeDesc (slotState .paused id) ∧
      Accepted 5 1 (recOf 512 [(0, 1, 5), (1, 1, 1), (4, 4, 9), (8, 2, 6), (0xA, 1, 0xFF)]) (slotState .decode id) ∧
      Accepted 5 1 (recOf 512 [(0, 1, 5), (1, 1, 1), (4, 4, 9), (8, 2, 6), (0xA, 1, 0xFF)]) (slotState .done id) ∧
      Accepted 5 1 (recOf 512 [(0, 1, 5), (1, 1, 1), (2, 2, 1), (4, 4, 9), (8, 2, 6), (0xA, 1, 2)]) (slotState .decode id) ∧
      Accepted 5 1 (recOf 512 [(0, 1, 5), (1, 1, 1), (2, 2, 1), (4, 4, 9), (8, 2, 6), (0xA, 1, 0xFF)]) (slotState .queued id) := by
  decide +kernel

theorem wit_prompt :
    let s := slotState .queued fun x => { x with shadow := genDesc, prompt := 3, committed := 3, tokenList := t2Base }
    hostBad s (fld genDesc 0x20 8) 12 = false ∧ fld genDesc 0x28 4 = 3 ∧ (panelImg s 2).isSome = true ∧
      (List.range 3).all (fun k => natOf (((rd s (hostBase + 0x4000) 12).drop (4 * k)).take 4) < 100) = true := by
  decide +kernel

/-! ## StepsComplete -/

/-- One decoding request on panel 2 with three tokens fed and a fourth to come. -/
def stepState (f : Cast → Cast) : State :=
  modCast 2 f (slotState .decode fun x => { x with
    promptReady := true, prompt := 3, committed := 4, length := 3, maxNew := 5, tokenList := t2Base, noDeadline := true })

theorem wit_step_write :
    let s := stepState id
    (getPanel s 2).map (fun y => decide (y.serves = true)) = some true ∧ (getCast s 2).map (·.step) = some none ∧
        stepWaits s 2 ((getPanel s 2).getD {}) ((getCast s 2).getD default) = true ∧
    (candidates s 2 ((getPanel s 2).getD {}) ((getCast s 2).getD default)).1.length = 1 ∧
      (getCast s 2).map (·.flush) = some false ∧ goes (areasAccess 2 [] [(0, 0, 0x1000)] s) = true := by decide +kernel

theorem wit_token_boundary :
    let s := stepState fun c => { c with step := some (0, [{ kind := 3, slot := 6, first := 3, count := 1, removed := false }]), stepFull := 1 }
    (getCast s 2).map (·.stepFull) = some 1 ∧ (getCast s 2).map (·.img.pat.stepLink.isSome) = some true := by decide +kernel

/-! ## RunsAndSweepsComplete -/

/-- A queued RUN in slot 6. -/
def runState (st : SlotSt) (f : Cast → Cast) : State :=
  modCast 2 f (slotState st fun x => { x with opcode := 1, cls := 2, shadow := runDesc, noDeadline := true })

theorem wit_run_start :
    let s := runState .queued id
    ((runCands s 2 ((getCast s 2).getD default) 0 ++ runCands s 2 ((getCast s 2).getD default) 2).head?).map (·.1) = some 6 ∧
      goes (areasAccess 2 [] [(0, 0, 0x1000)] s) = true ∧ hostLive s = true ∧ hostBad s 0 256 = false ∧ hostBad { s with host := { s.host with bad := [(0, 1, .poisoned)] } } 0 256 = true := by decide +kernel

theorem wit_run_result :
    let s := runState .prefill fun c => { c with runs := [some 6, none], runFull := 1 }
    (getSlot s 6).map (fun x => (x.st == .prefill, reached x s)) = some (true, false) ∧
      (resultTiles 2 ((getCast s 2).getD default) (((getCast s 2).bind (·.img.pat.runLink)).getD default) s).1 = true ∧
      goes (areasAccess 2 [(0, 0, 64)] [] s) = true ∧
      (getSlot { s with slots := [(6, { st := .prefill, deadline := 0 })] } 6).map (fun x => reached x s) = some true := by
  decide +kernel

theorem wit_fallback :
    let s := serveState fun s => { s with
      slots := [(6, { st := .decode, opcode := 2, panel := 1, fallbackDue := true })]
      panels := (1, { st := .ready, fallback := 2 }) :: s.panels }
    (getSlot s 6).map (fun x => fallbackPanel s x (x.tokens + remaining s x)) = some (some 2) := by decide +kernel

theorem wit_summary_result :
    let h : Rec64 := sealRec (recOf 512 [(0, 1, 1), (4, 4, 5), (8, 4, 7)])
    let s := wr t2Base (recBytes h) (slotState .summarising fun x => { x with sumReady := true, summary := t2Base })
    (getSlot s 6).map (fun x => summaryOk s x 64) = some true ∧
      (getSlot s 6).map (fun x => summaryOk (slotState .summarising id) x 64) = some false := by decide +kernel

/-! ## RingEntriesComplete -/

/-- COMPLETE ring 2 and STREAM ring 3 of 64 entries each with something due; `full` leaves no room. -/
def dueState (full : Bool) : State :=
  serveState fun s => { s with host := { s.host with memOn := true, msixOn := true }, rings := [(0, { st := .enabled, type := 4, k := 6, cqk := 6, due := [.completion 7 .command []] }),
    (2, { st := .enabled, type := 2, k := 6, ien := true, delay := 5, due := [.completion 7 .command []] }),
    (3, { st := .enabled, type := 3, k := 6, ien := true, unannounced := 1, due := [.stream 5 none true], idx := if full then 64 else 0 })] }

theorem wit_ring_entries :
    dueTo (dueState false) 3 true = [.stream 5 none true] ∧ entryRoom (dueState false) 3 ≠ 0 ∧ entryRoom (dueState true) 3 = 0 ∧
      dueTo (dueState false) 2 false = [.completion 7 .command []] ∧ entryRoom (dueState false) 2 ≠ 0 ∧
      dueTo (dueState false) 0 false = [.completion 7 .command []] ∧ entryRoom (dueState false) 0 ≠ 0 ∧
      (getRing (dueState false) 3).unannounced ≠ 0 := by decide +kernel

/-! ## RingsAndPollComplete -/

/-- A ready function whose staged context is a legal ring 0, and then a legal COMPLETE ring 2. -/
def stagedState (r : Nat) : State :=
  { serveState id with
    boot := { ({} : State).boot with ready := true, pcie := true }
    rings := if r = 0 then [] else [(0, { st := .enabled, type := 4 })]
    ringRegs := { sel := BitVec.ofNat 12 r, cfg := if r = 0 then 4 else 2, base := 0x10000, cqb := 0x20000 }
    host := { up := true, busMaster := true, memOn := true, version := 1, perst := false }
    power := { ({} : State).power with on := true } }

theorem wit_ring_cmd :
    barLive (stagedState 0) = true ∧ (getRing (stagedState 0) 0).st = .disabled ∧ stShapeOk (stagedState 0) 0 = true ∧
      stAligned (stagedState 0) 0 = true ∧ stTakeover (stagedState 0) = false ∧ hostBad (stagedState 0) 0 4 = false ∧
      rdNat (stagedState 0) hostBase 4 = 0 ∧ stShapeOk (stagedState 2) 2 = true ∧ stAligned (stagedState 2) 2 = true ∧
      (getRing (stagedState 2) 2).st = .disabled ∧ stShapeOk (stagedState 0) 2 = false := by decide +kernel

theorem wit_poll :
    let s := serveState fun s => { s with db := { s.db with enable := true } }
    hostLive s = true ∧ s.db.enable = true ∧ s.host.lastPoll = none ∧ hostBad s 0 512 = false := by decide +kernel

/-! ## HostLinkEventsComplete -/

theorem wit_host_events :
    barLive (stagedState 2) = true ∧ (stagedState 2).power.on = true ∧ (stagedState 2).boot.pcie = true ∧
      (stagedState 2).host.up = true ∧ (stagedState 2).host.flrBusy = false ∧ (stagedState 2).boot.testHold = false ∧
      (stagedState 2).host.perst = false := by decide +kernel

/-! ## RegisterAccessesComplete -/

theorem wit_registers :
    barLive (stagedState 2) = true ∧ wideReg (stagedState 2) false 0x6018 = some 0 ∧ wideReg (stagedState 2) true 0x28 = some 0 ∧
      getLatch { stagedState 2 with latches := [(latchKey false 0x6018, 7)] } (latchKey false 0x6018) = some 7 ∧
      wideReg (stagedState 2) false 0x3000 = none ∧ wideReg (stagedState 2) false (0x3000 - 4) = none ∧
      barRefused { stagedState 2 with host := { (stagedState 2).host with d3hot := true } } = true ∧
      cfgRetries { stagedState 2 with host := { (stagedState 2).host with flrBusy := true } } = true ∧
      (stagedState 2).host.flrBusy = false := by decide +kernel

/-! ## MailboxesComplete -/

/-- A powered, booted module whose channel 10 joins the host and management core 1; channel 11 core 1 and the partner. -/
def mbxState (f : Chan → Chan) : State :=
  { stagedState 2 with
    boot := { (stagedState 2).boot with booted := true, cores := true }
    mbx := { off := [], chans := [(10, f { a := 1, b := 0x11, valid := true }), (11, { a := 0x11, b := 0x30, valid := true })] } }

theorem wit_mailboxes :
    barLive (mbxState id) = true ∧ chUsable (mbxState id) 1 10 = true ∧ chUsable (mbxState id) 0x11 10 = true ∧
      chUsable (mbxState id) 0x11 11 = true ∧ isOff (mbxState id) 0x11 = false ∧ (0x11 : BitVec 8) ∈ masters ∧
      (mbxState id).boot.booted = true ∧ domainByState (mbxState id) 0x11 = none ∧
      chUsable (mbxState id) 0x11 1 = true ∧ chUsable (mbxState id) 0x50 11 = false ∧ isOff (mbxState id) 0x10 = false ∧
      ((getChan (mbxState fun x => { x with latch := [(1, 9)] }) 10).latch.find? (·.1 == 1)).map (·.2) = some 9 ∧
      isOff { mbxState id with mbx := { (mbxState id).mbx with off := [0x11] } } 0x11 = true := by decide +kernel

/-! ## MessagesComplete -/

/-- One message of the rack controller in channel 1, and one in channel 0. -/
def msgState (type : Nat) (pay : List (BitVec 32)) : State :=
  let q (d : BitVec 8) : List MbxWord := ((msgHeader type pay.length 9 0) :: pay).map fun w => ⟨w, 0x40, d⟩
  { mbxState id with mbx := { off := [], chans := [(0, { q0 := q 0x20 }), (1, { q0 := q 0x10 })] } }

theorem wit_messages :
    let ok (type : Nat) (pay : List (BitVec 32)) (h : BitVec 8) (c n : Nat) : Bool :=
      let s := msgState type pay
      ownHandler s h && handlesOn s h c && frontMsg s h c 0x40 == some (msgHeader type pay.length 9 0, pay) &&
        replyRoom s h c 0x40 (n + 1) && (answeredNow s h 0x40 9).isNone && hdrSeq (msgHeader type pay.length 9 0) == 9
    ok 1 [] 0x20 0 1 = true ∧ ok 2 [1000] 0x10 1 1 = true ∧ ok 3 [] 0x10 1 7 = true ∧ ok 4 [1, 2] 0x10 1 0 = true ∧
      ok 100 [] 0x20 0 0 = true ∧ msgRule 0x20 100 0x40 = none ∧ ok 8 [0x52534554] 0x20 0 0 = true ∧ ok 9 [] 0x20 0 4 = true ∧ isOff (msgState 1 []) 0x40 = false := by decide +kernel

/-- A message of core 1 that may not set a cap. -/
theorem wit_message_denied :
    let s : State := { mbxState id with mbx := { off := [], chans := [(1, { q0 := [⟨msgHeader 2 1 9 0, 0x11, 0x10⟩, ⟨5, 0x11, 0x10⟩] })] } }
    ownHandler s 0x10 = true ∧ frontMsg s 0x10 1 0x11 = some (msgHeader 2 1 9 0, [5]) ∧ replyRoom s 0x10 1 0x11 1 = true := by
  decide +kernel

/-- A SET_CAP that runs: there was no room for its reply in channel 1, and there is for one word only. -/
theorem wit_message_busy :
    let x : Running := { handler := 0x10, src := 0x40, ch := 1, seq := 3, resets := false, words := [0, 0] }
    let s : State := { msgState 1 [] with mbx := { off := [], running := [x], chans := [(1, {
      q0 := [⟨msgHeader 1 0 9 0, 0x40, 0x10⟩], q1 := List.replicate 15 ⟨0, 0x10, 0x40⟩ })] } }
    ownHandler s 0x10 = true ∧ frontMsg s 0x10 1 0x40 = some (msgHeader 1 0 9 0, []) ∧
      replyRoom s 0x10 1 0x40 2 = false ∧ replyRoom s 0x10 1 0x40 1 = true ∧ answeredNow s 0x10 0x40 9 = none := by
  decide +kernel

/-! ## TestAccessComplete -/

theorem wit_test_access :
    (mbxState id).power.on = true ∧ (mbxState id).tap.trst = false ∧ (0xFF : BitVec 8) ∉ tapCodes ∧
      (List.replicate 11264 false).length = 11264 ∧ (mbxState id).boot.cores = true ∧ isOff (mbxState id) 0x40 = false := by
  refine ⟨by decide +kernel, by decide +kernel, by decide, List.length_replicate, by decide +kernel, by decide +kernel⟩

/-! ## StartUpComplete -/

/-- Start-up before a step. -/
def bootState (f : Boot → Boot) : State :=
  { ({} : State) with
    boot := f { ({} : State).boot with rails := true }, power := { ({} : State).power with on := true }
    host := { ({} : State).host with perst := false, training := true } }

theorem wit_start_up :
    isOff (mbxState id) 0x10 = false ∧ isOff (mbxState id) 0x40 = false ∧
    (bootState id).power.on = true ∧ (bootState id).boot.rails = true ∧ (bootState id).boot.booted = false ∧
      (bootState id).host.perst = false ∧
      lowestFree (bootState fun b => { b with pcie := true, dramDone := true, swatchDone := true }) 2 none = some 768 ∧
      lowestFree (bootState fun b => { b with pcie := true, dramDone := true, swatchDone := true }) 1 none = some 0 := by
  decide +kernel

/-! ## FirmwareComplete -/

theorem wit_firmware :
    (spoiltBank.header.length ≠ 512) ∧
    let d := recOf 512 [(1, 1, 1), (0x18, 4, 512)]
    let f := { stagedState 2 with boot := { (stagedState 2).boot with failed := true } }
    Taken 0x91 d (adminState id) ∧ hostBad (adminState id) 0 512 = false ∧ fwLenOk (fwOf (rd (adminState id) hostBase 512)) 512 = false ∧
      barLive f = true ∧ f.boot.rcvState = 0 ∧ hostBad f 0 16 = false ∧ fwLenOk (fwOf (rd f hostBase 16)) 16 = false := by
  decide +kernel

/-! ## InputLossesTurnTheModuleOff -/

theorem wit_input_power :
    (bootState id).power.on = true ∧ (1150 : BitVec 16).toInt = 1150 ∧ (1149 : BitVec 16).toInt = 1149 := by decide +kernel

/-! ## InputReturnsBringTheModuleBack -/

theorem wit_input_returns :
    let p : Power := { on := false, present := true, qualifying := true, off := some .overCurrent, latched := true, clock := 1000000 }
    let q : Power := { p with present := false, openAt := 1 }
    p.on = false ∧ p.present = true ∧ p.qualifying = true ∧ p.off = some .overCurrent ∧ p.latched = true ∧
      { p with latched := false }.offAt + 1000000 ≤ p.clock ∧
      q.present = false ∧ q.off = some .overCurrent ∧ q.clock < q.openAt + 1000000 ∧
      ({ q with openAt := 0 } : Power).openAt + 1000000 ≤ q.clock ∧ ({ p with off := some .presence } : Power).off = some .presence ∧
      (bootState id).power.on = true := by decide +kernel

/-! ## PowerLoopCompletes -/

theorem wit_power_loop :
    barLive (stagedState 2) = true ∧ (stagedState 2).power.on = true ∧ (stagedState 2).now.toNat % 50 = 0 ∧
      ({ stagedState 2 with now := 7 } : State).now.toNat % 50 ≠ 0 ∧ (1050 : BitVec 16).toInt = 1050 ∧
      (1000 : BitVec 16).toInt = 1000 := by decide +kernel

/-! ## PortTrainingCompletes -/

/-- A module whose port 2 is in a state. -/
def portState (st : PortSt) (f : Port → Port) : State :=
  setPort 2 (f { st := st }) { mbxState id with links := { (mbxState id).links with enable := 4 } }

theorem wit_port_training :
    (portState .down id).power.on = true ∧ (portState .down id).boot.cores = true ∧ (portState .down id).links.enable.getLsbD 2 = true ∧
      (getPort (portState .down id) 2).st = .down ∧ (getPort (portState .electrical id) 2).st = .electrical ∧
      (getPort (portState .align id) 2).st = .align ∧ (getPort (portState .hello id) 2).st = .hello ∧
      (getPort { portState .align id with now := 5000 } 2).since + 5000 ≤ 5000 ∧
      (getPort (portState .up fun x => { x with replay := [(0, 0, 16)] }) 2).st = .up ∧ barLive (portState .down id) = true := by
  decide +kernel

/-- A hello of rack position 3 that port 2 of position 2 accepts, and the empty one that it counts as an error. -/
theorem wit_hello :
    helloOk (0 : Flit) = false ∧
      (let body : BitVec 4096 := recOf 4096 [(0, 2, 2), (2, 1, 1), (3, 1, 2), (4, 1, 3)];
        helloOk (mkFlit 3 0 0 0 0 0 0 64 0 body.toNat) = true) := by decide +kernel

/-! ## FlitsComplete -/

theorem wit_flits :
    let s := portState .up id
    (getPort s 2).st = .up ∧ flitOk (0 : Flit) = false ∧ flitOk (mkFlit 1 0 0 0xFFFF 0 0 0 64 0 0) = true ∧
      (getPort s 2).rxLast + 1 = 0 ∧ flitOk (mkFlit 2 0 0 0xFFFF 0 0 0 64 0 0) = true ∧
      fld (mkFlit 1 0 0 0xFFFF 0 0 0 64 0 0) 0 1 = 1 ∧ fld (mkFlit 2 0 0 0xFFFF 0 0 0 64 0 0) 0 1 = 2 := by decide +kernel

theorem wit_channels :
    svcOk 2 0 = false ∧ svcOk 2 (serviceHdr 0xA 0 0 3 0 100) = true ∧ svcOk 2 (serviceHdr 0xB 0 0 3 0 0) = true ∧
      fld (serviceHdr 0xA 0 0 3 0 100) 0 1 = 0xA ∧ fld (serviceHdr 0xB 0 0 3 0 0) 0 1 = 0xB := by decide +kernel

/-! ## FetchesComplete -/

/-- Port 2 UP with one outstanding request of 4,096 bytes. -/
def fetchState (f : Fetch → Fetch) : State :=
  let s := portState .up id
  { s with links := { s.links with fetches := [f { (default : Fetch) with tag := 7, port := 2, len := 4096, sent := true }] } }

theorem wit_fetches :
    svcOk 2 (serviceHdr 1 0 7 0 0 4096) = true ∧ svcOk 2 (serviceHdr 2 0 7 0 0 4096) = true ∧ svcOk 2 (serviceHdr 3 3 7 0 0 0) = true ∧
      svcOk 2 (serviceHdr 5 0 7 0 0 4096) = true ∧ svcOk 2 (serviceHdr 6 0 7 0 0 0) = true ∧ svcOk 2 (serviceHdr 7 0 0 3 9 0) = true ∧
      svcOk 15 (serviceHdr 8 0 0 11 5 0) = true ∧ (getPort (fetchState id) 2).st = .up ∧
      (fetchOf (fetchState id) 2 (serviceHdr 2 0 7 0 0 4096) false).isSome = true ∧
      (fetchOf (fetchState fun f => { f with target := true }) 2 (serviceHdr 5 0 7 0 0 4096) true).isSome = true := by
  decide +kernel

theorem wit_fetch_retry :
    let s := { fetchState (fun f => { f with busyAt := some 0 }) with now := 1000 }
    ((s.links.fetches.find? fun f => f.sent && f.port == 2 && f.tag == 7 && f.busyAt.isSome).bind (·.busyAt)) = some 0 ∧
      (getPort s 2).st = .up := by decide +kernel

theorem wit_resend_mailbox :
    let t : SentTile := { (default : SentTile) with hdr := recOf 512 [(0x18, 8, 9)] }
    let o : OutStrand := { dests := [.link 2 3], kept := [t] }
    let s := { portState .up id with units := [(4, { outs := [(0, o)] })] }
    (∀ q ∈ s.links.ports, ∀ r ∈ q.2.recv, r.2.dest ≠ .link 2 3) ∧ o.kept.find? (fun t => fld t.hdr 0x18 8 == 9) = some t ∧
      chUsable (mbxState id) 0x30 11 = true ∧ isOff (mbxState id) 0x11 = false ∧ chUsable (mbxState id) 0x30 10 = false := by
  decide +kernel

/-! ## PairCommandsComplete -/

/-- Module 2 with partner 6 UP on port 15, takeover rings 2 and 3, and the pair in a state. -/
def pairState (st : PlySt) (f : Ply → Ply) : State :=
  let s := adminState id
  setPort 15 { st := .up, peer := 6 } { s with
    boot := { (mbxState id).boot with rackPos := 2 }, power := { ({} : State).power with on := true }
    rings := s.rings ++ [(2, { st := .enabled, type := 2, takeover := true }), (3, { st := .enabled, type := 3, takeover := true })]
    ply := f { s.ply with st := st, partner := 6 } }

theorem wit_ply_bind :
    let d := recOf 512 [(1, 1, 1), (8, 1, 6), (0x10, 2, 1)]
    Taken 0x8C d (pairState .unbound id) ∧ (getPort (pairState .unbound id) 15).peer = 6 ∧
      (takeoverRing (pairState .unbound id) 2).isSome = true ∧ (takeoverRing (pairState .unbound id) 3).isSome = true ∧
      (bindOwner (pairState .unbound id) d).isSome = true := by decide +kernel

theorem wit_pair :
    paired (pairState .bound id) = true ∧ (pairState .bound id).power.on = true ∧
      (pairState .bound fun p => { p with missed := 10 }).ply.missed = 10 ∧
      { pairState .bound id with now := 10 }.ply.beatAt + 10 ≤ 10 ∧
      svcOk 15 (lifelineHdr 0 1 0xFFFF false 0) = true ∧ lifelineHdrOk (lifelineHdr 0 1 0xFFFF false 0) = true ∧
      fld (lifelineHdr 0 1 0xFFFF false 0) 0x18 8 = 0 ∧ fld (lifelineHdr 0 1 0xFFFF false 0) 0 1 = 9 ∧
      fld (lifelineHdr 0 1 0xFFFF false 4096) 0x18 8 = 4096 ∧ svcOk 15 (lifelineHdr 0 1 0xFFFF false 4096) = true ∧
      Taken 0x8D (recOf 512 [(1, 1, 1)]) (pairState .bound id) ∧ Taken 0x8D (recOf 512 [(1, 1, 1)]) (pairState .releasing id) ∧
      Taken 0x8D (recOf 512 [(1, 1, 1)]) (pairState .lost id) := by decide +kernel

/-! ## MirrorRecordsComplete -/

/-- A bound pair that mirrors slot 4. -/
def mirrorState : State :=
  pairState .bound fun p => { p with mirror := [(4, { tokenList := t2Base, summary := t2Base + 0x200000 })] }

/-- Pair and catalogue records that pass. -/
theorem wit_pair_records :
    Hears 8 (mirrorRec 8 0xFFFF 0 [(8, 4, 5), (0x18, 4, 1)]) mirrorState ∧ Hears 0xB (mirrorRec 0xB 0xFFFF 0 []) mirrorState ∧
      Hears 0xC (mirrorRec 0xC 0xFFFF 0 []) mirrorState ∧
      Hears 0xA (mirrorRec 0xA 0xFFFF 0 [(8, 1, 6), (9, 1, 2)]) (pairState .binding id) := by decide +kernel

/-- Records of a slot that pass: RESYNC, HANDOVER_REPLY, OPEN. -/
theorem wit_slot_records :
    Hears 9 (mirrorRec 9 4 0 []) mirrorState ∧ Hears 7 (mirrorRec 7 4 0 [(8, 1, 1)]) mirrorState ∧
      Hears 1 (mirrorRec 1 5 0 [(8, 1, 2), (0x3A, 1, 1)]) mirrorState := by decide +kernel

/-- Token and state records of slot 4 that pass. -/
theorem wit_token_records :
    Hears 2 (mirrorRec 2 4 1 [(0xC, 1, 3)]) mirrorState ∧ Hears 3 (mirrorRec 3 4 1 [(0xC, 1, 3)]) mirrorState ∧
      Hears 4 (mirrorRec 4 4 1 [(8, 1, 3)]) mirrorState ∧ Hears 4 (mirrorRec 4 4 1 []) mirrorState := by decide +kernel

/-- BULK and HANDOVER records of slot 4 that pass. -/
theorem wit_bulk_records :
    Hears 6 (mirrorRec 6 4 1 [(8, 1, 0x40)]) mirrorState ∧
      Hears 5 (mirrorRec 5 4 1 [(8, 1, 1), (0xC, 4, 4), (0x10, 4, crc32c [1, 2, 3, 4])]) mirrorState := by decide +kernel

/-- Their EPOCH is the next one, with and without a slot and a whole entry. -/
theorem wit_mirror_follows :
    Follows (mirrorRec 2 4 1 [(0xC, 1, 3)]) { tokenList := t2Base, summary := t2Base + 0x200000 } mirrorState ∧
      firstGap mirrorState.slots 0 16384 = some 0 ∧ mirrorState.ply.st ≠ .releasing ∧
      (adoptWaits 4 0 { ({} : Mirror) with st := 1 } mirrorState).isNone = true ∧
      (adoptWaits 4 0 { ({} : Mirror) with st := 1, pages := [(0, 0, 0, t3Base)] } mirrorState).isSome = true ∧ ({} : Mirror).whole = true := by decide +kernel

/-- An entry with one mirrored page has room for the next; a handed-over request waits for its reply. -/
theorem wit_mirror_pages :
    pageSpot { ({} : Mirror) with pages := [(0, 0, 0, t2Base)] } = some (t2Base + 0x10000) ∧
      (allocTry .mirror 2 none true (arrived 0 (pairState .bound id))).1 = .got 768 ∧
      ((getSlot { pairState .bound id with slots := [(4, { handed := some 0x40 })] } 4).bind (·.handed)) = some 0x40 := by
  decide +kernel

/-! ## IdleStepPassesTime -/

/-- Both cases of an idle step are met. -/
theorem wit_idle : State.reset.pending = [] ∧ State.reset.power.on = true ∧
    ({ State.reset with power := { State.reset.power with on := false } } : State).power.on = false := by decide

/-! ## FusesNeverGoBack -/

/-- A start that waits only for READY, its running image with both flags, SVN 7 and root slot 2. -/
def readyState : State :=
  let img : FwImage :=
    { header := [0x41, 0x4B, 0x46, 0x57, 1, 0, 3, 0, 0, 0, 0, 0, 7, 2] ++ List.replicate 498 0, body := [] }
  { boot := { rails := true, booted := true, cores := true, pcie := true, dramDone := true, swatchDone := true, groupsOut := 0 }
    nv := { revoked := 0, svn := 5, bankA := img, bankB := img, select := false } }

/-- READY may be set, with both flags and an SVN above the fuse's. -/
theorem wit_may_be_ready :
    MayBeReady readyState ∧ nbit (fwFlags (runningImg readyState)) 0 = true ∧ nbit (fwFlags (runningImg readyState)) 1 = true ∧
      readyState.nv.svn < fwSvn (runningImg readyState) ∧ fwSvn (runningImg readyState) ≤ 64 ∧
      fwSlot (runningImg readyState) = 2 := by decide +kernel

/-- An image without flags whose SVN is below the fuse's, and one whose root slot is revoked. -/
theorem wit_fused_out :
    FusedOut { readyState.nv with svn := 9 } (runningImg readyState) ∧
      FusedOut { readyState.nv with revoked := 4 } (runningImg readyState) := by decide +kernel

/-- States after another, by a step and by a command sent. -/
theorem wit_after : After State.reset (tick State.reset) ∧ After State.reset { State.reset with pending := [.readySet] } :=
  ⟨.stepped .start rfl, .sent _ .start⟩

/-! ## MemoryStaysCanonical -/

theorem wit_memory_step : MemOk State.reset ∧ step State.reset = .next (tick State.reset) := ⟨rfl, rfl⟩

/-! ## RegisterLimitsStay -/

theorem wit_fields_step : FieldsOk State.reset ∧ step State.reset = .next (tick State.reset) := ⟨by decide, rfl⟩

/-! ## QueueGivesItsFront -/

theorem wit_queue_step : step State.reset = .next (tick State.reset) := rfl

/-! ## DeadlineArithmetic -/

/-- A RUN, a GEN and a RESUME pass the checks. -/
theorem wit_budget_requests :
    (dOp runDesc = 1 ∧ requestCheck (serveState id) runDesc = none) ∧
      (dOp genDesc = 2 ∧ requestCheck (serveState id) genDesc = none) ∧
      (dOp resumeDesc = 4 ∧ requestCheck (slotState .paused id) resumeDesc = none) := by decide +kernel

/-- The largest budget at the wrap of module time, none, and a deadline at and after now. -/
theorem wit_budget_ends :
    (setBudget 0x7FFFFFFF { now := 0xFFFFFFFF } {}).deadline = 0x7FFFFFFE ∧ (setBudget 0 {} {}).noDeadline = true ∧
      reached { deadline := 5 } { now := 5 } = true ∧ reached { deadline := 6 } { now := 5 } = false := by decide

/-! ## PortsAndPositions -/

/-- Position 39: pins 1 0 0 1 1 1 and parity 1. -/
theorem wit_pins : (maskBits 7 (BitVec.ofNat 7 (2 * (16 * 2 + 4 * 1 + 3) + 1)).toNat).length % 2 = 1 := by decide

/-! ## Ill-formed commands are refused -/

theorem test_ill_pass_shape : wellFormed (.pass 0 0 6 0 0 1 1 false false false []) = false := by decide

theorem test_ill_pass_rows : wellFormed (.pass 0 0 3 128 0 1 1 false false false []) = false := by decide

theorem test_ill_pass_rows_te : wellFormed (.pass 0 0 5 64 0 1 1 false false false []) = false := by decide

theorem test_ill_pass_upset : wellFormed (.pass 0 0 0 0 0 1 1 false false false [⟨0, 0, 9, 0, 1⟩]) = false := by decide

theorem test_ill_replay_upset : wellFormed (.replayIssue 0 [⟨0, 0, 0, 129, 1⟩]) = false := by decide

theorem test_ill_plane_cell : wellFormed (.plane 0 0 0 3 false) = false := by decide

theorem test_ill_drain_dest : wellFormed (.drain 0 0 0 3 0 1 0 0 false 0 0 false) = false := by decide

theorem test_ill_drain_act : wellFormed (.drain 0 0 0 0 0 1 0 6 false 0 0 false) = false := by decide

theorem test_ill_vop_function : wellFormed (.vop 0 0x1F 0 0 0 0 0 0) = false := by decide

theorem test_ill_recv_mka : wellFormed (.recv 0 0 0 0 3) = false := by decide

theorem test_ill_fwd_mka : wellFormed (.fwd 0 0 0 0 3) = false := by decide

theorem test_ill_steer_inputs : wellFormed (.steer 0 1 1 2 3 0 0) = false := by decide

theorem test_ill_steer_outputs : wellFormed (.steer 0 0 1 2 2 0 0) = false := by decide

theorem test_ill_merge_inputs : wellFormed (.merge 0 1 1 2 0 0 0) = false := by decide

theorem test_ill_merge_control : wellFormed (.merge 0 1 2 1 0 0 0) = false := by decide

theorem test_ill_merge_control_second : wellFormed (.merge 0 1 2 2 0 0 0) = false := by decide

theorem test_ill_cset_mode_apply : wellFormed (.cset 0 0 3 true 0) = false := by decide

theorem test_ill_count_region : wellFormed (.countBeatStore true 16 0 0) = false := by decide

theorem test_ill_claim_region : wellFormed (.claimServe true 16) = false := by decide

theorem test_ill_epoch_region : wellFormed (.epochApply true 16 0) = false := by decide

theorem test_ill_reRequest_aligned : wellFormed (.reRequest 0 1 []) = false := by decide

theorem test_ill_reRequest_page : wellFormed (.reRequest 0 0 [(0, [0])]) = false := by decide

theorem test_ill_patrol_outcome : wellFormed (.patrolRead 0 0 0 0 ⟨0, true⟩ 1 (.bad none)) = false := by decide

theorem test_ill_patrol_page : wellFormed (.patrolRead 0 0 0 0 ⟨0, true⟩ 0 (.bad (some []))) = false := by decide

theorem test_ill_move_end_page : wellFormed (.moveEndUpdate 0 ⟨0, 0, [(0, [])]⟩) = false := by decide

theorem test_ill_program_no_page : wellFormed (.nandProgramDone 0 0 ⟨0, true⟩ [] true) = false := by decide

theorem test_ill_program_pages : wellFormed (.nandProgramDone 0 0 ⟨0, true⟩ (List.replicate 4097 0) true) = false := by rw [wellFormed, List.length_replicate]; decide

theorem test_ill_swatch_test : wellFormed (.swatchTestsDone 0 [⟨0, 0, 0, 0, 0⟩]) = false := by decide

theorem test_ill_swatch_last_test : wellFormed (.swatchTestsDone 0 [⟨0, 12, 0, 0, 0⟩]) = false := by decide

theorem test_ill_swatch_band : wellFormed (.swatchTestsDone 0 [⟨0, 1, 9, 0, 0⟩]) = false := by decide

theorem test_ill_swatch_column : wellFormed (.swatchTestsDone 0 [⟨0, 1, 0, 129, 0⟩]) = false := by decide

theorem test_ill_startup_hank : wellFormed (.startupSwatchDone [] [] [] [768]) = false := by decide

theorem test_ill_bar_well_formed_access : wellFormed (.barAccessMalformed false false 8 4) = false := by decide

theorem test_ill_register_unaligned : wellFormed (.registerWrite .bar0 4 true 0) = false := by decide

theorem test_ill_register_beyond : wellFormed (.registerWrite .bar0 0x10000 false 0) = false := by decide

theorem test_ill_register_wide_value : wellFormed (.registerWrite .bar0 0 false 0x100000000) = false := by decide

theorem test_ill_config_wide : wellFormed (.registerWrite .config 0 true 0) = false := by decide

theorem test_ill_config_beyond : wellFormed (.latchedRead .config 0x1000 false) = false := by decide

theorem test_ill_window_host : wellFormed (.latchedRead (.window 0x01) 0x10000 false) = false := by decide

theorem test_ill_window_below : wellFormed (.latchedRead (.window 0x11) 0x8000 false) = false := by decide

theorem test_ill_read_beyond : wellFormed (.latchedRead .bar0 0x10000 false) = false := by decide

theorem test_ill_tx_master : wellFormed (.mbxTxWrite 0x02 0 0) = false := by decide

theorem test_ill_rx_master : wellFormed (.mbxRxRead 0x02 0 .lower) = false := by decide

theorem test_ill_lock_read_master : wellFormed (.mbxLockRead 0x02 0) = false := by decide

theorem test_ill_lock_write_master : wellFormed (.mbxLockWrite 0x02 0 0) = false := by decide

theorem test_ill_ctrl_master : wellFormed (.mbxCtrlWrite 0x02 0 0) = false := by decide

theorem test_ill_mask_master : wellFormed (.mbxDbMaskWrite 0x02 0) = false := by decide

theorem test_ill_off_master : wellFormed (.domainOff 0x02) = false := by decide

theorem test_ill_on_master : wellFormed (.domainOn 0x02) = false := by decide

theorem test_ill_ping_handler : wellFormed (.ping 0x02 0 0x01) = false := by decide

theorem test_ill_ping_source : wellFormed (.ping 0x10 0 0x02) = false := by decide

theorem test_ill_ping_itself : wellFormed (.ping 0x10 0 0x10) = false := by decide

theorem test_ill_cap_source : wellFormed (.setCap 0 0x02) = false := by decide

theorem test_ill_telemetry_source : wellFormed (.getTelemetry 0 0x02) = false := by decide

theorem test_ill_rack_source : wellFormed (.setRackId 0 0x02) = false := by decide

theorem test_ill_drain_notice_source : wellFormed (.drainNotice 0x01 0) = false := by decide

theorem test_ill_reset_source : wellFormed (.resetModule 0 0x02) = false := by decide

theorem test_ill_identity_source : wellFormed (.getIdentity 0 0x02) = false := by decide

theorem test_ill_fetch_bytes : wellFormed (.fetchData 0 0 (List.replicate 67108865 0)) = false := by rw [wellFormed, List.length_replicate]; decide

theorem test_ill_read_bytes : wellFormed (.readData 0 0 (List.replicate 67108865 0)) = false := by rw [wellFormed, List.length_replicate]; decide

theorem test_ill_lifeline_records : wellFormed (.lifeline 0 0 (List.replicate 1025 0) []) = false := by rw [wellFormed, List.length_replicate]; decide

theorem test_ill_lifeline_bulk : wellFormed (.lifeline 0 0 [] (List.replicate 65537 0)) = false := by rw [wellFormed, List.length_replicate]; decide

theorem test_ill_droop_island : wellFormed (.voltageDroop 80 0) = false := by decide

theorem test_ill_junction_sensors : wellFormed (.junctionSample [0]) = false := by decide

theorem test_ill_sample_cells : wellFormed (.samplePreload [true]) = false := by decide

theorem test_ill_bypass_named : wellFormed (.bypass 0x20) = false := by decide

/-! ## Single values and steps, from the worked examples of the manual -/

/-- R114: the PASS and the LOOP of the ranking tower's K loop. -/
theorem test_pass_word : iword (.pass 0 0 0 255 2 1 1 false false false []) = 0x44000000000897F8 := by decide

theorem test_loop_word : iword (.loop 0 1 4 1 true) = 0x0C00040000004404 := by decide

/-- R49, R55: the answer generator's 117.7375… narrows to 0x6F in E4M3 and to 118 in INT8. -/
theorem test_narrow_e4m3 : narrow 5 0x42EB79A3 = (0x6F, false) ∧ narrow 1 0x42EB79A3 = (0x76, false) := by decide

/-- R51: the answer generator's projection output: 123,456,789 becomes the FP32 value 123,456,792. -/
theorem test_sum_to_f32 : enc32 (ofUnits 123456789 0) = enc32 (.fin false 123456792 0) := by decide +kernel

/-- INT8 saturates at 127 and says so. -/
theorem test_narrow_saturates : narrow 1 (enc32 (.fin false 130 0)) = (127, true) := by decide

/-- R252: token 2 has no score at or above THRESH, and its highest, 0.09375 of expert 1, is forced. -/
theorem test_gate_forced :
    let d : ExpertDecl := { (default : ExpertDecl) with experts := 3, kmax := 2, kmin := 1, thresh := 0x3E000000 }
    gate d [0x3D800000, 0x3DC00000, 0x3D800000] = ([(0x3DC00000, 1)], true) := by decide

/-- Equal scores rank by index. -/
theorem test_gate_ties :
    let d : ExpertDecl := { (default : ExpertDecl) with experts := 3, kmax := 2, kmin := 1, thresh := 0x3E000000 }
    gate d [0x3E800000, 0x3EC00000, 0x3EC00000] = ([(0x3EC00000, 1), (0x3EC00000, 2)], false) := by decide

/-- R16: module (0, 0), position 0, reaches its row peer (0, 2) on ports 1 and 7; there the cables land on 0 and 6. -/
theorem test_row_peer : peerPortsAt 0 2 = [1, 7] ∧ peerPortsAt 2 0 = [0, 6] := by decide

/-- R495: slot 3 of tray 1 in block 2, pins 1 0 0 1 1 1 and parity 1, is position 0x27; without the parity pin it is none. -/
theorem test_position : geoPosition 0b1001111 = 0x27 ∧ geoPosition 0b1001110 = 0xFF := by decide

/-- R118: a wrap past BOUND goes back to BASE. -/
theorem test_counter_wraps :
    ((stepCtr 16 0 { ctrs := [(0, { value := 8, base := 2, step := 4, bound := 8 })] }).1.ctrs.map (·.2.value)) = [2] := by decide

/-- NOP moves on by one word and counts one busy cycle. -/
theorem test_nop :
    (match exec (.nopInstruction 3) (unitState 3 (.nopInstruction 3) {}) with
      | .next t => (getUnit t 3).pc == 1 && ctrGet t.ctrs (.busy 3) == 1
      | _ => false) = true := by decide +kernel

/-- R431: above 54 V is input loss, at 54 V is none. -/
theorem test_over_voltage :
    (match exec (.overVoltage 54001) State.reset with | .next t => t.power.on == false | _ => false) = true ∧
      (match exec (.overVoltage 54000) State.reset with | .next t => t.power.on | _ => false) = true := by decide +kernel

/-- R284: comparison across the wrap of module time. -/
theorem test_time_before : before32 0xFFFFFFFF 0 = true ∧ before32 0 0xFFFFFFFF = false ∧ before32 7 7 = false := by decide

/-- R204: CRC-32C (reflected, initial value and final exclusive-or all ones) of the digits 1 to 9 is its published check
value. -/
theorem test_crc : crc32c ((List.range 9).map fun k => BitVec.ofNat 8 (0x31 + k)) = 0xE3069283 := by decide +kernel

/-- R284, log entry 1: a µs passes on the empty queue. -/
theorem test_idle : (match step State.reset with | .next t => t.now == 1 | _ => false) = true := by decide +kernel

/-- The table gives no row bits, so no word spells a command and withFetchWord changes nothing (log entry 8). -/
theorem test_no_word : decodeTableWord 0 0 = none ∧ State.reset.withFetchWord 0 0 = State.reset := ⟨rfl, rfl⟩

end Sys2Proof.Tests
end

/-! PROOFS. What every step keeps, that every command completes, and what register accesses do. -/
namespace Sys2Proof.Proofs
open Sys2Proof Machine Safety Laws

/-! ## What a step is -/

theorem step_of_empty {s : State} (h : s.pending = []) : step s = .next (tick s) := by
  simp only [step, h]

theorem step_of_front {c : Instr} {rest : List Instr} {s : State} (h : s.pending = c :: rest) :
    step s = exec c { s with pending := rest } := by
  simp only [step, h]

/-! ## What every command and every step keeps -/

/-- Every command keeps what every operation keeps: one arm for each, by the law of its meaning. -/
theorem exec_kept {i : Instr} {s t : State} (e : exec i s = .next t) : Kept s t := by
  have h := Kept.refl s
  cases i with
  | nopInstruction => exact execNopInstruction_kept h e
  | halt => exact execHalt_kept h e
  | jump => exact execJump_kept h e
  | loop => exact execLoop_kept h e
  | brm => exact execBrm_kept h e
  | semWait => exact execSemWait_kept h e
  | semSignal => exact execSemSignal_kept h e
  | barrier => exact execBarrier_kept h e
  | claim => exact execClaim_kept h e
  | doneTile => exact execDoneTile_kept h e
  | prob => exact execProb_kept h e
  | mwait => exact execMwait_kept h e
  | cset => exact execCset_kept h e
  | cadd => exact execCadd_kept h e
  | cload => exact execCload_kept h e
  | cstep => exact execCstep_kept h e
  | plane => exact execPlane_kept h e
  | pass => exact execPass_kept h e
  | accin => exact execAccin_kept h e
  | drain => exact execDrain_kept h e
  | vop => exact execVop_kept h e
  | vred => exact execVred_kept h e
  | vsmax => exact execVsmax_kept h e
  | vtopk => exact execVtopk_kept h e
  | vsample => exact execVsample_kept h e
  | vrand => exact execVrand_kept h e
  | load => exact execLoad_kept h e
  | store => exact execStore_kept h e
  | send => exact execSend_kept h e
  | recv => exact execRecv_kept h e
  | fwd => exact execFwd_kept h e
  | mark => exact execMark_kept h e
  | steer => exact execSteer_kept h e
  | merge => exact execMerge_kept h e
  | stepFire => exact execStepFire_kept h e
  | spillReturn => exact execSpillReturn_kept h e
  | passCheckOutcome => exact execPassCheckOutcome_kept h e
  | replayIssue => exact execReplayIssue_kept h e
  | passCommit => exact execPassCommit_kept h e
  | tileDrainStart => exact execTileDrainStart_kept h e
  | semaphoreSignalArrive => exact execSemaphoreSignalArrive_kept h e
  | barrierRelease => exact execBarrierRelease_kept h e
  | countBeatStore => exact execCountBeatStore_kept h e
  | claimServe => exact execClaimServe_kept h e
  | epochApply => exact execEpochApply_kept h e
  | reducerSlotReady => exact execReducerSlotReady_kept h e
  | reducerResultWrite => exact execReducerResultWrite_kept h e
  | move => exact execMove_kept h e
  | moveQueueStore => exact execMoveQueueStore_kept h e
  | moveStart => exact execMoveStart_kept h e
  | moveEndUpdate => exact execMoveEndUpdate_kept h e
  | reRequest => exact execReRequest_kept h e
  | tileResend => exact execTileResend_kept h e
  | poolEpochBoundary => exact execPoolEpochBoundary_kept h e
  | allocWake => exact execAllocWake_kept h e
  | backgroundEviction => exact execBackgroundEviction_kept h e
  | wearLevelRelocation => exact execWearLevelRelocation_kept h e
  | readDisturbRelocation => exact execReadDisturbRelocation_kept h e
  | patrolRead => exact execPatrolRead_kept h e
  | t3MountDone => exact execT3MountDone_kept h e
  | walk => exact execWalk_kept h e
  | walkEntryPut => exact execWalkEntryPut_kept h e
  | append => exact execAppend_kept h e
  | pageTakeResume => exact execPageTakeResume_kept h e
  | dispatch => exact execDispatch_kept h e
  | dispatchResume => exact execDispatchResume_kept h e
  | bundleAnnounce => exact execBundleAnnounce_kept h e
  | arrive => exact execArrive_kept h e
  | expertReturnWrite => exact execExpertReturnWrite_kept h e
  | ret => exact execRet_kept h e
  | identify => exact execIdentify_kept h e
  | panelCreate => exact execPanelCreate_kept h e
  | panelDestroy => exact execPanelDestroy_kept h e
  | castOn => exact execCastOn_kept h e
  | castOnCopyDone => exact execCastOnCopyDone_kept h e
  | bindOff => exact execBindOff_kept h e
  | bindOffDrainLimit => exact execBindOffDrainLimit_kept h e
  | bindOffTeardown => exact execBindOffTeardown_kept h e
  | deploy => exact execDeploy_kept h e
  | deployCopyDone => exact execDeployCopyDone_kept h e
  | undeploy => exact execUndeploy_kept h e
  | swapWeights => exact execSwapWeights_kept h e
  | versionMarkerPlace => exact execVersionMarkerPlace_kept h e
  | swapLayerCopyDone => exact execSwapLayerCopyDone_kept h e
  | swapTimeout => exact execSwapTimeout_kept h e
  | pin => exact execPin_kept h e
  | unpin => exact execUnpin_kept h e
  | schedLoad => exact execSchedLoad_kept h e
  | schedulePeriodBoundary => exact execSchedulePeriodBoundary_kept h e
  | setFallback => exact execSetFallback_kept h e
  | attest => exact execAttest_kept h e
  | swatch => exact execSwatch_kept h e
  | swatchTestsDone => exact execSwatchTestsDone_kept h e
  | counters => exact execCounters_kept h e
  | fwUpdate => exact execFwUpdate_kept h e
  | nop => exact execNop_kept h e
  | run => exact execRun_kept h e
  | gen => exact execGen_kept h e
  | pause => exact execPause_kept h e
  | resume => exact execResume_kept h e
  | abort => exact execAbort_kept h e
  | promptReadDone => exact execPromptReadDone_kept h e
  | stepBufferWrite => exact execStepBufferWrite_kept h e
  | runStart => exact execRunStart_kept h e
  | runResult => exact execRunResult_kept h e
  | tokenBoundary => exact execTokenBoundary_kept h e
  | fallback => exact execFallback_kept h e
  | sweep => exact execSweep_kept h e
  | summaryResult => exact execSummaryResult_kept h e
  | streamRecordWrite => exact execStreamRecordWrite_kept h e
  | completionEntryWrite => exact execCompletionEntryWrite_kept h e
  | poll => exact execPoll_kept h e
  | ringEnable => exact execRingEnable_kept h e
  | ringDisable => exact execRingDisable_kept h e
  | ringRead => exact execRingRead_kept h e
  | capDrvWrite => exact execCapDrvWrite_kept h e
  | irqModerationExpiry => exact execIrqModerationExpiry_kept h e
  | flr => exact execFlr_kept h e
  | perstAssert => exact execPerstAssert_kept h e
  | perstDeassert => exact execPerstDeassert_kept h e
  | dlDown => exact execDlDown_kept h e
  | d3hotEntry => exact execD3hotEntry_kept h e
  | d0Return => exact execD0Return_kept h e
  | barAccessMalformed => exact execBarAccessMalformed_kept h e
  | registerWrite => exact execRegisterWrite_kept h e
  | latchedRead => exact execLatchedRead_kept h e
  | pwrCapWrite => exact execPwrCapWrite_kept h e
  | lnkCtrlWrite => exact execLnkCtrlWrite_kept h e
  | recoveryGo => exact execRecoveryGo_kept h e
  | recoveryDone => exact execRecoveryDone_kept h e
  | mbxTxWrite => exact execMbxTxWrite_kept h e
  | mbxRxRead => exact execMbxRxRead_kept h e
  | mbxLockRead => exact execMbxLockRead_kept h e
  | mbxLockWrite => exact execMbxLockWrite_kept (x2 := 0) h e
  | mbxCtrlWrite => exact execMbxCtrlWrite_kept h e
  | mbxDbMaskWrite => exact execMbxDbMaskWrite_kept h e
  | domainOff => exact execDomainOff_kept h e
  | domainOn => exact execDomainOn_kept h e
  | ping => exact execPing_kept h e
  | setCap => exact execSetCap_kept h e
  | getTelemetry => exact execGetTelemetry_kept h e
  | setRackId => exact execSetRackId_kept h e
  | drainNotice => exact execDrainNotice_kept h e
  | resetModule => exact execResetModule_kept h e
  | getIdentity => exact execGetIdentity_kept h e
  | smbusBlockWrite => exact execSmbusBlockWrite_kept h e
  | smbusProcessCall => exact execSmbusProcessCall_kept h e
  | signalDetect => exact execSignalDetect_kept h e
  | equalisationDone => exact execEqualisationDone_kept h e
  | alignLock => exact execAlignLock_kept h e
  | trainingTimeout => exact execTrainingTimeout_kept h e
  | trainingRetry => exact execTrainingRetry_kept h e
  | hello => exact execHello_kept h e
  | helloSend => exact execHelloSend_kept h e
  | dataFlit => exact execDataFlit_kept h e
  | nullFlit => exact execNullFlit_kept h e
  | nakRepeat => exact execNakRepeat_kept h e
  | linkSilenceTimeout => exact execLinkSilenceTimeout_kept h e
  | channelOpen => exact execChannelOpen_kept h e
  | channelClose => exact execChannelClose_kept h e
  | fetchReq => exact execFetchReq_kept h e
  | fetchData => exact execFetchData_kept h e
  | fetchRefuse => exact execFetchRefuse_kept h e
  | fetchBusyRetry => exact execFetchBusyRetry_kept h e
  | readData => exact execReadData_kept h e
  | readStatus => exact execReadStatus_kept h e
  | resendReq => exact execResendReq_kept h e
  | mailbox => exact execMailbox_kept h e
  | lifeline => exact execLifeline_kept h e
  | heartbeatSend => exact execHeartbeatSend_kept h e
  | missedBeat => exact execMissedBeat_kept h e
  | partnerLost => exact execPartnerLost_kept h e
  | takeover => exact execTakeover_kept h e
  | plyBind => exact execPlyBind_kept h e
  | bindTimeout => exact execBindTimeout_kept h e
  | plyRelease => exact execPlyRelease_kept h e
  | bindRec => exact execBindRec_kept h e
  | syncDone => exact execSyncDone_kept h e
  | releaseRec => exact execReleaseRec_kept h e
  | openRec => exact execOpenRec_kept h e
  | tokens => exact execTokens_kept h e
  | generated => exact execGenerated_kept h e
  | stateRec => exact execStateRec_kept h e
  | bulk => exact execBulk_kept h e
  | catalogueRec => exact execCatalogueRec_kept h e
  | resync => exact execResync_kept h e
  | handover => exact execHandover_kept h e
  | handoverReply => exact execHandoverReply_kept h e
  | underVoltage => exact execUnderVoltage_kept h e
  | overVoltage => exact execOverVoltage_kept h e
  | overCurrent => exact execOverCurrent_kept h e
  | presenceOpen => exact execPresenceOpen_kept h e
  | inputRestart => exact execInputRestart_kept h e
  | powerGood => exact execPowerGood_kept h e
  | powerEstimateTick => exact execPowerEstimateTick_kept h e
  | powerLoopTick => exact execPowerLoopTick_kept h e
  | gaugeSample => exact execGaugeSample_kept h e
  | junctionSample => exact execJunctionSample_kept h e
  | thermalTrip => exact execThermalTrip_kept h e
  | coolantSample => exact execCoolantSample_kept h e
  | railSequenceDone => exact execRailSequenceDone_kept h e
  | bootVerifyDone => exact execBootVerifyDone_kept h e
  | coreStartDone => exact execCoreStartDone_kept h e
  | dramTrainingDone => exact execDramTrainingDone_kept h e
  | startupSwatchDone => exact execStartupSwatchDone_kept h e
  | pcieReadiness => exact execPcieReadiness_kept h e
  | readySet => exact execReadySet_kept h e
  | idcode => exact execIdcode_kept h e
  | samplePreload => exact execSamplePreload_kept h e
  | extest => exact execExtest_kept h e
  | clamp => exact execClamp_kept h e
  | highz => exact execHighz_kept h e
  | extestPulse => exact execExtestPulse_kept h e
  | extestTrain => exact execExtestTrain_kept h e
  | mbxacc => exact execMbxacc_kept h e
  | bypass => exact execBypass_kept h e
  | insertion => exact execInsertion_kept h e
  | signalLoss => exact execSignalLoss_kept h e
  | nandProgramDone => exact execNandProgramDone_kept h e
  | fwBankWriteDone => exact execFwBankWriteDone_kept h e
  | voltageDroop => exact execVoltageDroop_kept h e
  | configurationRequest => exact execConfigurationRequest_kept h e
  | testLogicReset => exact execTestLogicReset_kept h e

/-- A step takes the front command off the queue, and keeps from there on what every operation keeps. -/
theorem step_kept {s t : State} (e : step s = .next t) : Kept { s with pending := s.pending.tail } t := by
  cases hq : s.pending with
  | nil =>
    have hs : { s with pending := [] } = s := by rw [← hq]
    rw [step_of_empty hq] at e
    injection e with e
    subst e
    exact tick_kept (hs ▸ Kept.refl _)
  | cons c rest =>
    rw [step_of_front hq] at e
    exact exec_kept e

/-- Settles O53: the canonical form is among what a step keeps, and taking a command off the queue leaves memory as it was. -/
theorem memoryStaysCanonical : Obligations.MemoryStaysCanonical :=
  fun _ _ hmem e => (step_kept e).mem hmem

/-- Settles O54: the ranges are among what a step keeps, and taking a command off the queue leaves the registers as they
were. -/
theorem registerLimitsStay : Obligations.RegisterLimitsStay :=
  fun _ _ hfields e => (step_kept e).fields hfields

/-- Settles O57. -/
theorem resetMeetsInvariants : Obligations.ResetMeetsInvariants :=
  ⟨rfl, by decide, rfl⟩

/-! ## That every command completes -/

/-- An epoch boundary answers before its time, and when it is due. -/
theorem execPoolEpochBoundary_answers (s : State) : ∃ t, execPoolEpochBoundary s = .next t := by
  unfold execPoolEpochBoundary
  split
  · exact ⟨_, rfl⟩
  · exact ⟨_, rfl⟩

/-- The meaning of every other command is an answer outright. -/
theorem exec_answers (i : Instr) (s : State) : ∃ t, exec i s = .next t := by
  cases i
  case poolEpochBoundary => exact execPoolEpochBoundary_answers s
  all_goals exact ⟨_, rfl⟩

/-- Settles O56: on an empty queue a µs passes, and else the front command answers. -/
theorem everyCommandCompletes : Obligations.EveryCommandCompletes := by
  intro s
  cases hq : s.pending with
  | nil => exact ⟨_, step_of_empty hq⟩
  | cons c rest => exact step_of_front hq ▸ exec_answers c _

/-! ## What a register access comes to -/

/-- REGISTER_WRITE and LATCHED_READ of a BAR are accesses to it (R508). -/
theorem registerWrite_bar (bar2 eight : Bool) (off : BitVec 20) (v : BitVec 64) (s : State) :
    exec (.registerWrite (if bar2 then .bar2 else .bar0) off eight v) s =
      .next (barAccess true bar2 off.toNat (if eight then 8 else 4) (barWrite bar2 off.toNat eight v.toNat) s) := by
  cases bar2 <;> rfl

theorem latchedRead_bar (bar2 eight : Bool) (off : BitVec 20) (s : State) :
    exec (.latchedRead (if bar2 then .bar2 else .bar0) off eight) s =
      .next (barAccess false bar2 off.toNat (if eight then 8 else 4) (barRead bar2 off.toNat eight) s) := by
  cases bar2 <;> rfl

theorem barAligned_iff {bar2 : Bool} {off size : Nat} :
    barAligned bar2 off size = true ↔ off % size = 0 ∧ off + size ≤ (if bar2 then 0x100000 else 0x10000) := by
  simp [barAligned]

/-- A function that serves its BARs refuses no access to them. -/
theorem barRefused_of_live {s : State} (live : barLive s = true) : barRefused s = false := by
  simp only [barLive, Bool.and_eq_true, Bool.not_eq_true'] at live
  obtain ⟨⟨⟨-, hd3⟩, hflr⟩, hmem⟩ := live
  simp [barRefused, hd3, hflr, hmem]

section
variable {write bar2 eight : Bool} {off size : Nat} {f : State → State} {s : State}

theorem barAccess_served (live : barLive s = true)
    (hsize : size = 4 ∨ size = 8) (hoff : barAligned bar2 off size = true) :
    barAccess write bar2 off size f s = f s := by
  rcases hsize with rfl | rfl <;> simp [barAccess, barRefused_of_live live, live, hoff]

theorem barAccess_malformed (live : barLive s = true)
    (hbad : ¬ ((size = 4 ∨ size = 8) ∧ barAligned bar2 off size = true)) :
    barAccess write bar2 off size f s =
      if write then bump .malformedBar 1 s else answer (.abort mHost) (bump .malformedBar 1 s) := by
  have hb : ((size == 4 || size == 8) && barAligned bar2 off size) = false := by simpa using hbad
  simp [barAccess, barRefused_of_live live, live, hb]

theorem barAccess_refused (refused : barRefused s = true) :
    barAccess write bar2 off size f s = if write then s else answer (.unsupported mHost) s := by
  simp [barAccess, refused]

theorem cfgAccess_retry (retries : cfgRetries s = true) : cfgAccess off eight f s = answer .retry s := by
  simp [cfgAccess, retries]

/-- After PCIe readiness, with the function up and no FLR in progress, configuration requests are served (R321). -/
theorem cfgLive_and_not_retries
    (serves : s.power.on = true ∧ s.boot.pcie = true ∧ s.host.up = true ∧ s.host.flrBusy = false) :
    cfgLive s = true ∧ cfgRetries s = false := by
  obtain ⟨on, pcie, up, flr⟩ := serves
  simp [cfgLive, cfgRetries, on, pcie, up, flr]

/-- A function that answers configuration requests serves one dword, and answers another access as unsupported. -/
theorem cfgAccess_live (live : cfgLive s = true) (noRetry : cfgRetries s = false) : cfgAccess off eight f s =
    if eight = false ∧ off % 4 = 0 ∧ off < 4096 then f s else answer (.unsupported mHost) s := by
  have hother : (eight || off % 4 != 0 || 4096 ≤ off) = true ↔ ¬ (eight = false ∧ off % 4 = 0 ∧ off < 4096) := by
    simp [imp_iff_not_or, or_assoc]
  by_cases hdword : eight = false ∧ off % 4 = 0 ∧ off < 4096
  · rw [cfgAccess, noRetry, live, if_pos hdword, if_neg (mt hother.1 (not_not_intro hdword))]
    rfl
  · rw [cfgAccess, noRetry, live, if_neg hdword, if_pos (hother.2 hdword)]
    rfl

/-- A master inside the module that may act reaches its own window, at an aligned offset of it. -/
theorem ownWindow_served {m : BitVec 8} (hm : m ∈ ([0x10, 0x11, 0x12, 0x13, 0x20, 0x50] : List (BitVec 8)))
    (on : s.power.on = true) (booted : s.boot.booted = true) (domain : isOff s m = false) (hlo : 0x10000 ≤ off)
    (hhi : off < 0x20000) (hoff : off % (if eight then 8 else 4) = 0) : ownWindow m off eight f s = f s := by
  have hmasters : ∀ m ∈ ([0x10, 0x11, 0x12, 0x13, 0x20, 0x50] : List (BitVec 8)),
      m ∈ masters ∧ m ≠ mHost := by decide
  obtain ⟨hmaster, hhost⟩ := hmasters m hm
  simp only [ownWindow, List.contains_iff_mem.2 hm, hlo, hhi, hoff, decide_true, beq_self_eq_true, Bool.and_self, if_true]
  simp [mbxAccess, hmaster, hhost, on, booted, domain]

end

/-! ## Reads of BAR0 and BAR2 (R508) -/

section
variable {s : State} {bar2 : Bool} {v : Nat}

theorem wideReg_offsets {off : Nat} (h : wideReg s bar2 off = some v) :
    (bar2 = false ∧ (off = 0x6018 ∨ off = 0x7008 ∨ off = 0x9008)) ∨ (bar2 = true ∧ off = 0x28) := by
  unfold wideReg at h
  split at h
  · simp
  · simp
  · simp
  · simp
  · cases h

theorem wideReg_aligned {off : Nat} (h : wideReg s bar2 off = some v) :
    barAligned bar2 off 4 = true ∧ barAligned bar2 off 8 = true ∧ barAligned bar2 (off + 4) 4 = true := by
  rcases wideReg_offsets h with ⟨rfl, rfl | rfl | rfl⟩ | ⟨rfl, rfl⟩ <;> decide

/-- No 64-bit register begins at the high half of another. -/
theorem wideReg_high {off : Nat} (h : wideReg s bar2 off = some v) : wideReg s bar2 (off + 4) = none := by
  rcases wideReg_offsets h with ⟨rfl, rfl | rfl | rfl⟩ | ⟨rfl, rfl⟩ <;> rfl

theorem barRead4_low {off : Nat} (h : wideReg s bar2 off = some v) :
    barRead4 bar2 off s = { s with
      bus := .value 1 (BitVec.ofNat 64 (v % 2 ^ 32))
      latches := s.latches.filter (·.1 != latchKey bar2 off) ++ [(latchKey bar2 off, BitVec.ofNat 32 (v >>> 32))] } := by
  simp only [barRead4, h]
  rfl

theorem barRead4_high {off : Nat} {w : BitVec 32} (h : wideReg s bar2 off = some v)
    (latched : getLatch s (latchKey bar2 off) = some w) :
    barRead4 bar2 (off + 4) s = { s with
      bus := .value 1 (w.setWidth 64), latches := s.latches.filter (·.1 != latchKey bar2 off) } := by
  have hkey : latchKey bar2 (off + 4) - 4 = latchKey bar2 off := by unfold latchKey; omega
  simp only [barRead4, wideReg_high h, hkey, latched, Nat.le_add_left, if_true, Nat.add_sub_cancel, h, hostValue,
    BitVec.ofNat_toNat]
  rfl

theorem barRead_wide {off : Nat} (h : wideReg s bar2 off = some v) :
    barRead bar2 off true s = { s with bus := .value 1 (BitVec.ofNat 64 v) } := by
  simp only [barRead, h]
  rfl

theorem barRead4_word {off : Nat} (h : wideReg s false off = none) (hlow : wideReg s false (off - 4) = none) :
    barRead4 false off s = { s with bus := .value 1 (BitVec.ofNat 64 (bar0Word s off)) } := by
  simp only [barRead4, h, hlow, ite_self]
  rfl

theorem latchedRead_served {eight : Bool} {off : BitVec 20} (live : barLive s = true)
    (hoff : barAligned bar2 off.toNat (if eight then 8 else 4) = true) :
    exec (.latchedRead (if bar2 then .bar2 else .bar0) off eight) s = .next (barRead bar2 off.toNat eight s) := by
  rw [latchedRead_bar, barAccess_served live (by cases eight <;> decide) hoff]

/-- The high half of a 64-bit register is read at its own offset. -/
theorem latchedRead_high {off : BitVec 20} (live : barLive s = true) (h : wideReg s bar2 off.toNat = some v) :
    exec (.latchedRead (if bar2 then .bar2 else .bar0) (off + 4) false) s = .next (barRead4 bar2 (off.toNat + 4) s) := by
  obtain ⟨-, -, hhigh⟩ := wideReg_aligned h
  have hnext : (off + 4).toNat = off.toNat + 4 := by
    obtain ⟨-, hle⟩ := barAligned_iff.1 hhigh
    split at hle <;> bv_omega
  rw [← hnext] at hhigh ⊢
  exact latchedRead_served live hhigh

end

/-! ## Writes of BAR0 -/

/-- The DB_ registers after a write of one: the addresses are in effect at once while polling is off (R334; log entry
46). -/
def dbInEffect (d : DbRegs) : DbRegs :=
  if d.enable then d else { d with bitmapCur := d.bitmap, tailCur := d.tail, devidxCur := d.devidx }

theorem setDb_eq (f : DbRegs → DbRegs) (s : State) : setDb f s = { s with db := dbInEffect (f s.db) } := by
  cases h : (f s.db).enable <;> simp [setDb, loadDb, dbInEffect, h]

theorem bar0Write_tail {w : Nat} (h : w < 2 ^ 32) (s : State) : bar0Write 0x2008 w s = { s with db := dbInEffect { s.db with
    tail := BitVec.ofNat 51 (s.db.tail.toNat / 2 ^ 32 * 2 ^ 32 + w / 4096 * 4096) } } := by
  have hlo : BitVec.ofNat 51 (s.db.tail.toNat / 2 ^ 32 * 2 ^ 32 + w / 4096 * 4096) = putLo s.db.tail w := by
    rw [putLo, Nat.mod_eq_of_lt h]
  rw [hlo]
  exact setDb_eq (fun d => { d with tail := putLo d.tail w }) s

theorem bar0Write_poll (w : Nat) (s : State) : bar0Write 0x2018 w s = { s with db := dbInEffect { s.db with
    interval := BitVec.ofNat 7 (max 1 (min 64 (w % 128))), enable := w.testBit 8 } } := by
  rw [← nbit_testBit]
  exact setDb_eq (fun d => { d with interval := BitVec.ofNat 7 (clampTo 1 64 (w % 128)), enable := nbit w 8 }) s

/-- AGING.STEPS holds no more than 63, so its upper limit never acts. -/
theorem bar0Write_aging (w : Nat) (s : State) : bar0Write 0x4000 w s = { s with
    agingSteps := BitVec.ofNat 6 (max 1 (w % 64)), urgentUs := BitVec.ofNat 16 (w / 256) } := by
  have hsteps : max 1 (w % 64) = clampTo 1 63 (w % 64) := by
    unfold clampTo
    omega
  rw [hsteps]
  rfl

theorem registerWrite_bar0_dword {s : State} {off : BitVec 20} (v : BitVec 64) (live : barLive s = true)
    (hoff : barAligned false off.toNat 4 = true) :
    exec (.registerWrite .bar0 off false v) s = .next (bar0Write off.toNat (v.toNat % 2 ^ 32) s) :=
  congrArg Host.Outcome.next (barAccess_served live (.inl rfl) hoff)

/-! ## Register accesses -/

/-- Settles O36, clause by clause: each access is served, retried, refused or malformed by the lemma of its access function,
and a served one acts as its register's equation says. -/
theorem registerAccessesComplete : Obligations.RegisterAccessesComplete := by
  intro s
  refine ⟨fun live => ⟨fun v => ?_, fun off v hmod hle => ?_, fun v => ?_, fun bar2 off v => ?_,
    fun off hmod hle hnone hlow => ?_, fun bar2 off size hbad => ?_⟩,
    fun refused bar2 eight off v => ?_, fun eight off v => ?_⟩
  · exact congrArg Host.Outcome.next (barAccess_served live (.inl rfl) (by decide))
  · exact congrArg Host.Outcome.next (barAccess_served live (.inr rfl) (barAligned_iff.2 ⟨hmod, hle⟩))
  · intro w put fresh
    have hput (off : BitVec 20) (hoff : barAligned false off.toNat 4 = true) : put off = .next (bar0Write off.toNat w s) :=
      registerWrite_bar0_dword v live hoff
    have hw : w < 2 ^ 32 := Nat.mod_lt _ (by decide)
    refine ⟨hput 0x1000 (by decide), hput 0x1014 (by decide), hput 0x1018 (by decide), ?tail, ?poll,
      hput 0x3000 (by decide), hput 0x3004 (by decide), hput 0x3008 (by decide), ?aging, hput 0x5000 (by decide),
      hput 0x5008 (by decide), hput 0x500C (by decide), hput 0x602C (by decide), hput 0x7010 (by decide),
      hput 0x8004 (by decide), ?readOnly⟩
    case tail => exact (hput 0x2008 (by decide)).trans (congrArg Host.Outcome.next (bar0Write_tail hw s))
    case poll => exact (hput 0x2018 (by decide)).trans (congrArg Host.Outcome.next (bar0Write_poll w s))
    case aging => exact (hput 0x4000 (by decide)).trans (congrArg Host.Outcome.next (bar0Write_aging w s))
    case readOnly => rintro off (rfl | rfl | rfl | rfl | rfl | rfl | rfl) <;> exact hput _ (by decide)
  · intro space hwide _ _ k
    obtain ⟨hlow, height, -⟩ := wideReg_aligned hwide
    exact ⟨(latchedRead_served live hlow).trans (congrArg Host.Outcome.next (barRead4_low hwide)),
      (latchedRead_served live height).trans (congrArg Host.Outcome.next (barRead_wide hwide)),
      fun h latched => (latchedRead_high live hwide).trans (congrArg Host.Outcome.next (barRead4_high hwide latched))⟩
  · exact (latchedRead_served (bar2 := false) (eight := false) live (barAligned_iff.2 ⟨hmod, hle⟩)).trans
      (congrArg Host.Outcome.next (barRead4_word hnone hlow))
  · have hno : ¬ ((size = 4 ∨ size = 8) ∧ barAligned bar2 off.toNat size = true) := by
      rw [barAligned_iff]
      omega
    exact ⟨congrArg Host.Outcome.next (barAccess_malformed live hno),
      congrArg Host.Outcome.next (barAccess_malformed live hno)⟩
  · exact ⟨(registerWrite_bar bar2 eight off v s).trans (congrArg Host.Outcome.next (barAccess_refused refused)),
      (latchedRead_bar bar2 eight off s).trans (congrArg Host.Outcome.next (barAccess_refused refused))⟩
  · intro serves dword
    refine ⟨fun retries => ?_, fun hserves hdword => ?_, fun hserves hother => ?_,
      fun m hm on booted domain hlo hhi hoff => ?_⟩
    · exact ⟨congrArg Host.Outcome.next (cfgAccess_retry retries), congrArg Host.Outcome.next (cfgAccess_retry retries)⟩
    · obtain ⟨live, noRetry⟩ := cfgLive_and_not_retries hserves
      have served (f : State → State) : cfgAccess off.toNat eight f s = f s :=
        (cfgAccess_live live noRetry).trans (if_pos hdword)
      exact ⟨congrArg Host.Outcome.next (served _), congrArg Host.Outcome.next (served _)⟩
    · obtain ⟨live, noRetry⟩ := cfgLive_and_not_retries hserves
      have unsupported (f : State → State) : cfgAccess off.toNat eight f s = answer (.unsupported mHost) s :=
        (cfgAccess_live live noRetry).trans (if_neg hother)
      exact ⟨congrArg Host.Outcome.next (unsupported _), congrArg Host.Outcome.next (unsupported _)⟩
    · have served (f : State → State) : ownWindow m off.toNat eight f s = f s :=
        ownWindow_served hm on booted domain hlo hhi hoff
      exact ⟨congrArg Host.Outcome.next (served _), congrArg Host.Outcome.next (served _)⟩

end Sys2Proof.Proofs

/-! PROOFS. The ports of each stack, and the rack position from the pins. -/
namespace Sys2Proof.Proofs
open Sys2Proof Machine

/-! ## The rack position from the address pins (R495) -/

theorem geoPosition_toNat_of_odd {ga : BitVec 7} (odd : (maskBits 7 ga.toNat).length % 2 = 1) :
    (geoPosition ga).toNat = ga.toNat / 2 := by
  rw [geoPosition, if_pos odd, BitVec.toNat_ofNat]
  exact Nat.mod_eq_of_lt (by omega)

/-- The pins above the parity pin spell the position, whatever the parity pin is. -/
theorem pins_toNat_div_two {v : Nat} (hv : v < 64) (odd : Bool) :
    (BitVec.ofNat 7 (2 * v + if odd then 1 else 0)).toNat / 2 = v := by
  rw [BitVec.toNat_ofNat]
  cases odd <;> simp only [if_true, Bool.false_eq_true, if_false] <;> omega

/-! ## Ports and positions (R15) -/

/-- Settles O60: the roles are the definition's own, the stacks and their counts are finite tables, and with odd parity the
position is the pins without the parity pin. -/
theorem portsAndPositions : Obligations.PortsAndPositions := by
  refine ⟨fun p => ⟨?stack, rfl⟩, ?counts, ?position⟩
  case stack => revert p; decide
  case counts => decide
  case position =>
    intro b t p odd v ga parity
    have hv : v < 64 := by omega
    exact (geoPosition_toNat_of_odd parity).trans (pins_toNat_div_two hv odd)

end Sys2Proof.Proofs

/-! PROOFS. AUTO counters and the array queue; ACCIN adds a tile, and DRAIN joins the output queue. -/
namespace Sys2Proof.Proofs
open Sys2Proof Machine Safety Laws

/-! ## AUTO counters of an instruction (R118, R119) -/

/-- A unit with other row counters. -/
def withCtrs (x : KUnit) (c : Tbl RowCtr) : KUnit := { x with ctrs := c }

theorem withCtrs_of_eq {x : KUnit} {c : Tbl RowCtr} (h : x.ctrs = c) : withCtrs x c = x := by
  rw [← h, withCtrs]

theorem setCtr_eq_withCtrs {x y : KUnit} (h : y.ctrs = x.ctrs) (n : Nat) (c : RowCtr) :
    setCtr n c y = withCtrs y (setCtr n c x).ctrs := by
  rw [setCtr, h, withCtrs, setCtr]

/-- A step of a counter reads and changes the counters of its unit alone. -/
theorem stepCtr_of_ctrs {x y : KUnit} (h : y.ctrs = x.ctrs) (k n : Nat) :
    stepCtr k n y = (withCtrs y (stepCtr k n x).1.ctrs, (stepCtr k n x).2) := by
  induction k generalizing x y n with
  | zero => rw [stepCtr, stepCtr, withCtrs_of_eq h]
  | succ k ih =>
    have hc : getCtr y n = getCtr x n := by rw [getCtr, h, getCtr]
    have hset {P : Prop} [Decidable P] (c : RowCtr) :
        (if P then setCtr n c y else y) = withCtrs y (if P then setCtr n c x else x).ctrs := by
      split
      · exact setCtr_eq_withCtrs h n c
      · exact (withCtrs_of_eq h).symm
    simp only [stepCtr, hc, hset]
    split
    · rw [setCtr_eq_withCtrs h]
    · split
      · rw [withCtrs_of_eq h]
      · split
        · generalize (if (getCtr x n).overMode = 0 then setCtr n _ x else x) = wrapped
          rw [ih (x := wrapped) (y := withCtrs y wrapped.ctrs) rfl]
          rfl
        · rfl

theorem foldl_auto_of_ctrs {l : List Nat} {x y : KUnit} (h : y.ctrs = x.ctrs) :
    l.foldl (fun x n => if (getCtr x n).auto_ then (stepCtr 16 n x).1 else x) y =
      withCtrs y (l.foldl (fun x n => if (getCtr x n).auto_ then (stepCtr 16 n x).1 else x) x).ctrs := by
  induction l generalizing x y with
  | nil => exact (withCtrs_of_eq h).symm
  | cons n l ih =>
    have hc : getCtr y n = getCtr x n := by rw [getCtr, h, getCtr]
    rw [List.foldl_cons, List.foldl_cons, hc]
    split
    · rw [stepCtr_of_ctrs h]
      exact ih (x := (stepCtr 16 n x).1) rfl
    · exact ih h

/-- The steps of AUTO counters read and change the counters of their unit alone. -/
theorem autoUnit_of_ctrs {x y : KUnit} (ns : List Nat) (h : y.ctrs = x.ctrs) :
    autoUnit ns y = withCtrs y (autoUnit ns x).ctrs :=
  foldl_auto_of_ctrs h

/-- An AUTO counter's step, and whether every step up to it is one that no checked counter refuses. -/
def autoCheck (a : KUnit × Bool) (n : Nat) : KUnit × Bool :=
  if (getCtr a.1 n).auto_ then ((stepCtr 16 n a.1).1, a.2 && (stepCtr 16 n a.1).2.2.isNone) else a

theorem autoOk_iff {ns : List Nat} {x : KUnit} : AutoOk ns x ↔ (ns.eraseDups.foldl autoCheck (x, true)).2 = true :=
  Iff.rfl

/-- A refused step is not made good by later ones. -/
theorem foldl_autoCheck_refused (l : List Nat) (x : KUnit) : (l.foldl autoCheck (x, false)).2 = false := by
  induction l generalizing x with
  | nil => rfl
  | cons n l ih =>
    rw [List.foldl_cons, autoCheck]
    split <;> exact ih _

theorem foldl_autoCheck_of_ctrs {l : List Nat} {x y : KUnit} {b : Bool} (h : y.ctrs = x.ctrs) :
    (l.foldl autoCheck (y, b)).2 = (l.foldl autoCheck (x, b)).2 := by
  induction l generalizing x y b with
  | nil => rfl
  | cons n l ih =>
    have hc : getCtr y n = getCtr x n := by rw [getCtr, h, getCtr]
    simp only [List.foldl_cons, autoCheck, hc]
    split
    · rw [stepCtr_of_ctrs h]
      exact ih rfl
    · exact ih h

theorem autoOk_of_ctrs {ns : List Nat} {x y : KUnit} (h : y.ctrs = x.ctrs) (hx : AutoOk ns x) : AutoOk ns y :=
  autoOk_iff.2 ((foldl_autoCheck_of_ctrs h).trans (autoOk_iff.1 hx))

/-- A step that is not refused changes the unit alone. -/
theorem doStep_setUnit {u n : Nat} {x : KUnit} {s : State} (h : (stepCtr 16 n x).2.2 = none) :
    (doStep u n (setUnit u x s)).2.2 = setUnit u (stepCtr 16 n x).1 s := by
  simp only [doStep, getUnit_setUnit, h, setUnit_setUnit]

theorem foldl_doStep_setUnit {u : Nat} {s : State} {l : List Nat} {x : KUnit}
    (ok : (l.foldl autoCheck (x, true)).2 = true) :
    l.foldl (fun s n => if (getCtr (getUnit s u) n).auto_ then (doStep u n s).2.2 else s) (setUnit u x s) =
      setUnit u (l.foldl (fun x n => if (getCtr x n).auto_ then (stepCtr 16 n x).1 else x) x) s := by
  induction l generalizing x with
  | nil => rfl
  | cons n l ih =>
    rw [List.foldl_cons, autoCheck] at ok
    rw [List.foldl_cons, List.foldl_cons, getUnit_setUnit]
    split at ok
    next auto =>
      rw [if_pos auto, if_pos auto]
      cases hf : (stepCtr 16 n x).2.2 with
      | none =>
        rw [doStep_setUnit hf]
        exact ih (by simpa [hf] using ok)
      | some f =>
        rw [hf] at ok
        exact absurd ok (Bool.eq_false_iff.1 (foldl_autoCheck_refused l _))
    next noAuto =>
      rw [if_neg noAuto, if_neg noAuto]
      exact ih ok

/-- AUTO counters that no check refuses step, and nothing but the unit changes. -/
theorem autoStep_setUnit {u : Nat} {ns : List Nat} {x : KUnit} {s : State} (ok : AutoOk ns x) :
    autoStep u ns (setUnit u x s) = setUnit u (autoUnit ns x) s :=
  foldl_doStep_setUnit (autoOk_iff.1 ok)

/-! ## Handing an operation to an engine (R107, R109) -/

/-- A unit that can take an instruction is not halted. -/
theorem canIssue_live {i : Instr} {u : Nat} {s : State} (h : canIssue i u s = true) : (getUnit s u).halted = false := by
  simp only [canIssue, holds, Bool.and_eq_true, Bool.not_eq_true'] at h
  obtain ⟨⟨⟨-, live⟩, -⟩, -⟩ := h
  exact live

theorem canIssue_not_stopped {i : Instr} {u : Nat} {s : State} (h : canIssue i u s = true) :
    (getUnit s u).run ≠ .stopped := by
  rw [canIssue_run h]
  decide

/-- An instruction that leaves its unit as `y`, with the row counters of `x`: its AUTO counters step, and it retires. -/
theorem retire_autoStep {u : Nat} {ns : List Nat} {x y : KUnit} {s : State} (h : y.ctrs = x.ctrs)
    (hr : y.run ≠ .stopped) (hl : y.pc + 1 < y.program.length) (ok : AutoOk ns x) :
    retire u (autoStep u ns (setUnit u y s)) =
      setUnit u { withCtrs y (autoUnit ns x).ctrs with pc := y.pc + 1 } s := by
  rw [autoStep_setUnit (autoOk_of_ctrs h ok), autoUnit_of_ctrs ns h]
  exact retire_setUnit hr hl

/-- A unit whose instruction hands `op` to the array engine, but for its AUTO counters and its address. -/
def joinArr (x : KUnit) (op : EngOp) : KUnit := { x with arrQ := x.arrQ ++ [newOp x op], issued := x.issued + 1 }

/-- The same once its AUTO counters have stepped and the instruction has retired. -/
def handArr (ns : List Nat) (x : KUnit) (op : EngOp) : KUnit :=
  { withCtrs (joinArr x op) (autoUnit ns x).ctrs with pc := x.pc + 1 }

/-- An operation joins the array queue, its AUTO counters step, and the instruction retires; one that names no strand
begins on an idle engine. -/
theorem pushArr_room {i : Instr} {u : Nat} {op : EngOp} {ns : List Nat} {s : State} {x : KUnit} (hx : getUnit s u = x)
    (ready : Ready i u s) (room : x.arrQ.length < 4) (ok : AutoOk ns x) :
    pushArr u op ns s = if x.arrQ.isEmpty && op.stepsAtOnce then arrayStep u (setUnit u (handArr ns x op) s)
      else (setUnit u (handArr ns x op) s, []) := by
  subst hx
  obtain ⟨can, hl⟩ := ready
  have hretire := retire_autoStep (u := u) (s := s) (x := getUnit s u) (y := joinArr (getUnit s u) op) rfl
    (canIssue_not_stopped can) hl ok
  rw [pushArr, if_neg (Nat.not_le.2 room)]
  exact congrArg (fun t => if (getUnit s u).arrQ.isEmpty && op.stepsAtOnce then arrayStep u t else (t, [])) hretire

/-- What waits for an earlier instruction does not wait for one that has just joined the array queue. -/
theorem hazard_handArr {x : KUnit} {op : EngOp} {ns : List Nat} {lr lw : List (Nat × Nat)}
    {dr dw : List (Nat × Nat × Nat)} :
    hazard (handArr ns x op) x.issued lr lw dr dw = hazard x x.issued lr lw dr dw := by
  have hq : decide ((newOp x op).num < x.issued) = false := decide_eq_false (Nat.lt_irrefl _)
  simp only [hazard, queuedOps, handArr, withCtrs, joinArr, List.any_append, List.any_cons, List.any_nil, hq,
    Bool.false_and, Bool.or_false]
  rfl

/-! ## ACCIN (R45, R73, R78) -/

/-- A table after each index below `n` has been changed once, from what it held there. -/
theorem tgetD_foldl_tset_range {α : Type} {d : α} (f : Nat → α → α) (t : Tbl α) (n j : Nat) :
    tgetD ((List.range n).foldl (fun t k => tset t k (f k (tgetD t k d))) t) j d =
      if n ≤ j then tgetD t j d else f j (tgetD t j d) := by
  induction n generalizing j with
  | zero => simp
  | succ n ih =>
    rw [List.range_succ, List.foldl_append, List.foldl_cons, List.foldl_nil]
    by_cases hj : j = n
    · rw [hj, tgetD_tset_self, ih, if_pos (Nat.le_refl n), if_neg (Nat.not_succ_le_self n)]
    · have hle : n + 1 ≤ j ↔ n ≤ j := by omega
      simp only [tgetD_tset_ne hj, ih, hle]

/-- Adding to a depth that stays within its limit. -/
theorem addDepth_within {u d : Nat} {float : Bool} {x : KUnit} {s : State}
    (h : x.depth.toNat + d ≤ if float then 2 ^ 20 else 2 ^ 24) :
    addDepth u d float (setUnit u x s) = setUnit u { x with depth := x.depth + BitVec.ofNat 32 d } s := by
  have hsmall : x.depth.toNat + d < 2 ^ 32 := by split at h <;> omega
  have hsum : BitVec.ofNat 32 (x.depth.toNat + d) = x.depth + BitVec.ofNat 32 d := by
    rw [BitVec.ofNat_add, BitVec.ofNat_toNat, BitVec.setWidth_eq]
  have hcross : ¬ depthLimit float < x.depth.toNat + d := Nat.not_lt.2 h
  simp only [addDepth, getUnit_setUnit, satAdd, if_pos hsmall, hsum, hcross, setUnit_setUnit, decide_false,
    Bool.and_false, Bool.false_eq_true, if_false]

/-- Entry `k` of an ACC96 tile of 12-byte entries (R45). -/
def tileEntry (bytes : List Byte) (k : Nat) : BitVec 96 := BitVec.ofNat 96 (natOf ((bytes.drop (12 * k)).take 12))

/-- An accumulator entry with a tile's entry added: SUM modulo 2^88, SPECIAL combined, DEPTH_OVF ored (R45). -/
def accPlus (old e : BitVec 96) : BitVec 96 :=
  mkAcc (accSum old + accSum e) (combSpecial (accSpecial old) (accSpecial e)) (accOvf old || accOvf e)

/-- An ACC96 tile whose depth stays within the limit is added entry by entry, and leaves the array queue. -/
theorem accumulateIn_within {u rows d : Nat} {bytes : List Byte} {x : KUnit} {s : State}
    (h : x.depth.toNat + d ≤ if x.accFloat then 2 ^ 20 else 2 ^ 24) :
    ∃ acc, accumulateIn u rows bytes d (setUnit u x s) =
        setUnit u { x with acc := acc, depth := x.depth + BitVec.ofNat 32 d, arrQ := x.arrQ.tail } s ∧
      ∀ k, tgetD acc k 0 = if 128 * rows ≤ k then getAcc x k else accPlus (getAcc x k) (tileEntry bytes k) := by
  refine ⟨_, ?_, tgetD_foldl_tset_range (fun k old => accPlus old (tileEntry bytes k)) x.acc (128 * rows)⟩
  simp only [accumulateIn, getUnit_setUnit, setUnit_setUnit]
  rw [addDepth_within (by exact h), popArr, modUnit, getUnit_setUnit, setUnit_setUnit]
  rfl

/-- An ACCIN from the local store that is alone in the array queue, with no pass in flight, no drain ahead of it and
nothing that writes its bytes, adds its tile. -/
theorem arrayStep_accin {u a rows : Nat} {q : QOp} {x : KUnit} {h : HdrEnt} {s : State} (live : x.halted = false)
    (running : x.run ≠ .stopped) (hq : x.arrQ = [q]) (hop : q.op = .accin none a rows [] none) (nopass : x.passes = [])
    (nodrain : drainAhead x q.num = false) (free : hazard x q.num [(a, rows * 1536)] [] [] [] = false)
    (hdr : x.hdrFile.find? (fun e => e.addr == a) = some h)
    (hdepth : x.depth.toNat + fld h.hdr 8 4 ≤ if x.accFloat then 2 ^ 20 else 2 ^ 24) :
    ∃ acc, arrayStep u (setUnit u x s) =
        (setUnit u { x with acc := acc, depth := x.depth + BitVec.ofNat 32 (fld h.hdr 8 4), arrQ := [] } s, []) ∧
      ∀ k, tgetD acc k 0 = if 128 * rows ≤ k then getAcc x k
        else accPlus (getAcc x k) (tileEntry (lsRead x a (rows * 1536)) k) := by
  obtain ⟨acc, hacc, hentries⟩ := accumulateIn_within (u := u) (rows := rows) (bytes := lsRead x a (rows * 1536))
    (s := s) hdepth
  refine ⟨acc, ?_, hentries⟩
  have hhaz : opHazard x q = false := by rw [opHazard, hop]; exact free
  have hfire : arrayStep u (setUnit u x s) =
      (accumulateIn u rows (lsRead x a (rows * 1536)) (fld h.hdr 8 4) (setUnit u x s), []) := by
    simp [arrayStep, live, running, hq, hhaz, arrayOp, hop, accinStep, nopass, nodrain, hdr, accDepth]
  rw [hfire, hacc, hq, List.tail_cons]

section
variable {u : BitVec 9} {inp : BitVec 8} {a : BitVec 4} {rows1 : BitVec 8} {p : Bool} {s : State}

/-- An instruction with P set finds a problem in the problem register. -/
theorem not_noProblem {x : KUnit} (problem : p = true → x.problem.isSome = true) : (p && x.problem.isNone) = false := by
  cases p
  · rfl
  · simpa using problem rfl

theorem lsOk_of_localOk {a n align : Nat} (h : LocalOk a n align) : lsOk a n align = true := by
  obtain ⟨aligned, inside⟩ := h
  simp [lsOk, lsBytes, aligned, inside]

variable {x : KUnit} {rows : Nat} (hx : getUnit s u.toNat = x) (problem : p = true → x.problem.isSome = true)
  (hrows : rows = if p then pbRows (x.problem.getD 0) else rows1.toNat + 1)
include hx problem hrows

/-- What ACCIN does once its operands are read. -/
theorem accinIssue_eq :
    accinIssue u.toNat inp a.toNat (rows1.toNat + 1) p s =
      if inp ≠ 0 then pushArr u.toNat (.accin (some (maskOne inp)) (ctrVal x a.toNat) rows [] none) [] s
      else if lsOk (ctrVal x a.toNat) (rows * 1536) 256 then
        pushArr u.toNat (.accin none (ctrVal x a.toNat) rows [] none) [a.toNat] s
      else (lsFault u.toNat (ctrVal x a.toNat) s, []) := by
  simp only [accinIssue, hx, not_noProblem problem, Bool.false_eq_true, if_false, ← hrows, bne_iff_ne]
  cases lsOk (ctrVal x a.toNat) (rows * 1536) 256 <;> rfl

/-- An ACCIN whose tile comes over a strand joins the array queue. -/
theorem exec_accin_strand (ready : Ready (.accin u inp a rows1 p) u.toNat s) (room : x.arrQ.length < 4) (hinp : inp ≠ 0) :
    exec (.accin u inp a rows1 p) s = .next (unitNext u.toNat
      (joinArr x (.accin (some (maskOne inp)) (ctrVal x a.toNat) rows [] none)) s) := by
  refine congrArg Host.Outcome.next (issue_done ready.1 ?_)
  rw [accinIssue_eq hx problem hrows, if_pos hinp, pushArr_room hx ready room rfl]
  simp only [EngOp.stepsAtOnce, Bool.and_false, Bool.false_eq_true, if_false, hx]
  rfl

/-- An ACCIN from the local store joins the queue of a busy array engine. -/
theorem exec_accin_busy (ready : Ready (.accin u inp a rows1 p) u.toNat s) (hinp : inp = 0) (busy : x.arrQ ≠ [])
    (room : x.arrQ.length < 4) (ok : LocalOk (ctrVal x a.toNat) (rows * 1536) 256) (auto : AutoOk [a.toNat] x) :
    exec (.accin u inp a rows1 p) s = .next (unitNext u.toNat
      (autoUnit [a.toNat] (joinArr x (.accin none (ctrVal x a.toNat) rows [] none))) s) := by
  refine congrArg Host.Outcome.next (issue_done ready.1 ?_)
  rw [accinIssue_eq hx problem hrows, if_neg (not_not_intro hinp), if_pos (lsOk_of_localOk ok),
    pushArr_room hx ready room auto, autoUnit_of_ctrs (x := x) (y := joinArr x _) _ rfl, hx]
  simp only [List.isEmpty_eq_false_iff.2 busy, Bool.false_and, Bool.false_eq_true, if_false]
  rfl

/-- An ACCIN from the local store on an idle array engine adds its tile at once. -/
theorem exec_accin_idle {h : HdrEnt} (ready : Ready (.accin u inp a rows1 p) u.toNat s) (hinp : inp = 0)
    (idle : x.arrQ = [])
    (ok : LocalOk (ctrVal x a.toNat) (rows * 1536) 256) (auto : AutoOk [a.toNat] x)
    (nopass : x.passes = []) (nodrain : drainAhead x x.issued = false)
    (free : hazard x x.issued [(ctrVal x a.toNat, rows * 1536)] [] [] [] = false)
    (hdr : x.hdrFile.find? (fun e => e.addr == ctrVal x a.toNat) = some h)
    (hdepth : x.depth.toNat + fld h.hdr 8 4 ≤ if x.accFloat then 2 ^ 20 else 2 ^ 24) :
    ∃ acc, exec (.accin u inp a rows1 p) s = .next (unitNext u.toNat { autoUnit [a.toNat] x with
        issued := x.issued + 1, acc := acc, depth := x.depth + BitVec.ofNat 32 (fld h.hdr 8 4) } s) ∧
      ∀ k, tgetD acc k 0 = if 128 * rows ≤ k then getAcc x k
        else accPlus (getAcc x k) (tileEntry (lsRead x (ctrVal x a.toNat) (rows * 1536)) k) := by
  have live : x.halted = false := hx ▸ canIssue_live ready.1
  have running : x.run ≠ .stopped := hx ▸ canIssue_not_stopped ready.1
  let op := EngOp.accin none (ctrVal x a.toNat) rows [] none
  have alone : (handArr [a.toNat] x op).arrQ = [newOp x op] := by rw [handArr, withCtrs, joinArr, idle]; rfl
  obtain ⟨acc, hstep, hentries⟩ := arrayStep_accin (u := u.toNat) (s := s) (x := handArr [a.toNat] x op) live running
    alone rfl nopass nodrain (hazard_handArr.trans free) hdr hdepth
  refine ⟨acc, congrArg Host.Outcome.next (issue_done ready.1 ?_), hentries⟩
  rw [accinIssue_eq hx problem hrows, if_neg (not_not_intro hinp), if_pos (lsOk_of_localOk ok),
    pushArr_room hx ready (by simp [idle]) auto]
  simp only [idle, List.isEmpty_nil, EngOp.stepsAtOnce, Bool.and_self, if_true]
  rw [hstep, hx, autoUnit_of_ctrs (x := x) (y := x) _ rfl]
  simp only [handArr, withCtrs, joinArr, idle]

end

/-! ## DRAIN (R78, R79, R115) -/

section
variable {u : BitVec 9} {out : BitVec 8} {d : BitVec 4} {dest : BitVec 2} {seg f : BitVec 4} {ti : BitVec 8}
  {act : BitVec 4} {bias : Bool} {b : BitVec 4} {rows1 : BitVec 8} {p : Bool} {s : State}

/-- The counters that a DRAIN reads its addresses from: DCTR unless it drains to strands, and BCTR when it adds a bias. -/
def drainAutos (dest : BitVec 2) (useBias : Bool) (d b : BitVec 4) : List Nat :=
  (if dest = 1 then [] else [d.toNat]) ++ (if useBias then [b.toNat] else [])

/-- A DRAIN whose local ranges are right joins the output queue with its operands read. -/
theorem drainIssue_joins {i : Instr} {x : KUnit} {fmt t ac rows : Nat} {useBias : Bool} (hx : getUnit s u.toNat = x)
    (problem : p = true → x.problem.isSome = true)
    (hfmt : fmt = if p then pbOfmt (x.problem.getD 0) else f.toNat)
    (ht : t = if p then pbTensor (x.problem.getD 0) else ti.toNat)
    (hac : ac = if p then pbAct (x.problem.getD 0) else act.toNat)
    (hbias : useBias = ((if p then (pbFlags (x.problem.getD 0)).testBit 2 else bias) && fmt != 11))
    (hrows : rows = if p then pbRows (x.problem.getD 0) else rows1.toNat + 1)
    (ready : Ready i u.toNat s) (room : x.outQ.length < 4)
    (dok : dest = 0 → LocalOk (ctrVal x d.toNat) (256 * cdiv (rows * drainRow x.issue16 fmt) 256) 256)
    (bok : useBias = true → LocalOk (ctrVal x b.toNat) (4 * tileCols x.issue16) 256)
    (auto : AutoOk (drainAutos dest useBias d b) x) :
    drainIssue u.toNat out d.toNat dest.toNat seg.toNat f.toNat ti.toNat act.toNat bias b.toNat (rows1.toNat + 1) p s =
      (setUnit u.toNat { autoUnit (drainAutos dest useBias d b) x with
        issued := x.issued + 1, pc := x.pc + 1
        outQ := x.outQ ++ [newOp x (.drain out (ctrVal x d.toNat) dest.toNat seg.toNat fmt t ac
          (if useBias then some (ctrVal x b.toNat) else none) rows)] } s, []) := by
  have hlocal : (decide (dest.toNat = 0) && !lsOk (ctrVal x d.toNat) (256 * cdiv (rows * drainRow x.issue16 fmt) 256) 256)
      = false := by
    by_cases h : dest = 0
    · simp [lsOk_of_localOk (dok h)]
    · have hne : dest.toNat ≠ 0 := fun e => h (BitVec.eq_of_toNat_eq e)
      simp [hne]
  have hbiasOk : (useBias && !lsOk (ctrVal x b.toNat) (4 * tileCols x.issue16) 256) = false := by
    cases hb : useBias
    · rfl
    · simp [lsOk_of_localOk (bok hb)]
  have hdest : dest.toNat = 1 ↔ dest = 1 := ⟨fun e => BitVec.eq_of_toNat_eq e, fun e => e ▸ rfl⟩
  have hretire := retire_autoStep (u := u.toNat) (s := s) (x := x) (y := { x with
      outQ := x.outQ ++ [newOp x (.drain out (ctrVal x d.toNat) dest.toNat seg.toNat fmt t ac
        (if useBias then some (ctrVal x b.toNat) else none) rows)]
      issued := x.issued + 1 })
    rfl (hx ▸ canIssue_not_stopped ready.1) (hx ▸ ready.2) auto
  rw [autoUnit_of_ctrs (x := x) (y := x) _ rfl]
  refine Eq.trans ?_ (congrArg (·, []) hretire)
  simp only [drainIssue, hx, not_noProblem problem, Bool.false_eq_true, if_false, nbit_testBit, ← hfmt, ← ht, ← hac,
    ← hrows, ← hbias, hlocal, hbiasOk, if_neg (Nat.not_le.2 room), hdest]
  rfl

end

/-- Settles O10: a strand form and a local one on a busy engine join the array queue, one on an idle engine adds its tile
at once, and DRAIN joins the output queue. -/
theorem accumulateAndDrainComplete : Obligations.AccumulateAndDrainComplete := by
  intro u s p x r problem
  refine ⟨?accin, ?drain⟩
  case accin =>
    intro inp a rows1 i rows addr y ready room
    refine ⟨exec_accin_strand rfl problem rfl ready room, fun hinp ok auto => ⟨fun busy => ?_, ?_⟩⟩
    · exact exec_accin_busy rfl problem rfl ready hinp busy room ok auto
    · intro h idle nopass nodrain free hdr hdepth
      exact exec_accin_idle rfl problem rfl ready hinp idle ok auto nopass nodrain free hdr hdepth
  case drain =>
    intro out d dest seg f ti act bias b rows1 i fmt t rows useBias cols n ba da autos ready room dok bok auto
    refine congrArg Host.Outcome.next (issue_done ready.1 ?_)
    exact drainIssue_joins rfl problem rfl rfl rfl rfl rfl ready room dok bok auto

end Sys2Proof.Proofs

/-! PROOFS. A drain to the local store stands in its place with its header and its histogram. -/
namespace Sys2Proof.Proofs
open Sys2Proof Machine Safety Laws

/-! ## A drain to the local store (R78, R79, R204, R205) -/

/-- A list that fits one piece is cut into itself. -/
theorem chunks_of_length_le {α : Type} {n : Nat} {l : List α} (hne : l ≠ []) (hle : l.length ≤ n) :
    chunks n (cdiv l.length n) l = [l] := by
  have hpos : 0 < l.length := List.length_pos_iff.2 hne
  have hone : cdiv l.length n = 1 := by
    rcases Nat.eq_or_lt_of_le hle with h | h
    · rw [cdiv, h, Nat.mod_self, if_pos rfl, Nat.div_self (by omega)]
    · rw [cdiv, Nat.mod_eq_of_lt h, if_neg (by omega), Nat.div_eq_of_lt h]
  rw [hone, chunks, chunks, List.take_of_length_le hle, if_neg (by simpa using hne)]

@[simp] theorem countIssue_acc16 {lv n : Nat} {x : KUnit} : (countIssue lv n x).acc16 = x.acc16 := rfl

@[simp] theorem lsRead_countIssue {lv n a k : Nat} {x : KUnit} : lsRead (countIssue lv n x) a k = lsRead x a k := rfl

theorem payIssue_eq {u n : Nat} {x : KUnit} {s : State} (hx : getUnit s u = x) :
    payIssue u n s =
      setUnit u (countIssue s.power.ceil.toNat n x) (countHeld u (heldCycles s.power.ceil.toNat n x) s) := by
  rw [payIssue, hx]

/-- Issue cycles under the ceiling change nothing in what a drain makes of its tile (R444). -/
theorem drainPayload_countIssue {lv n : Nat} {x : KUnit} {ti g fmt act rows : Nat} {t : Tensor} {b : Option (List Nat)} :
    drainPayload (countIssue lv n x) ti g t fmt act b rows =
      ((drainPayload x ti g t fmt act b rows).1, countIssue lv n (drainPayload x ti g t fmt act b rows).2) := by
  by_cases h : fmt = 11
  · simp only [drainPayload, if_pos h]
    rfl
  · simp only [drainPayload, if_neg h]
    rfl

/-- A drain changes the histograms of its unit, and what it has drained, alone. -/
theorem drainPayload_unit (x : KUnit) (ti g fmt act rows : Nat) (t : Tensor) (b : Option (List Nat)) :
    ∃ h n, (drainPayload x ti g t fmt act b rows).2 = { x with hists := h, drained := n } := by
  by_cases h : fmt = 11
  · exact ⟨x.hists, x.drained, by rw [drainPayload, if_pos h]⟩
  · exact ⟨_, _, by rw [drainPayload, if_neg h]⟩

section
variable {u p addr fmt rows : Nat} {t : Tensor}

/-- The header of a tile drained in one piece (R205), with `v` for what its INDEX is taken from. -/
def drainHdr (u p fmt rows : Nat) (t : Tensor) (v : Nat) (payload : List Byte) (x : KUnit) : Rec64 :=
  let ovf := !x.acc16 && (tileEntries x rows (tileCols x.acc16)).any fun e => accOvf e.2
  mkTileHdr fmt x.accShape.toNat (b2n (fmt == 11) + 2 * b2n ovf)
    (min 256 (max 1 (min rows (cdiv payload.length (drainRow x.acc16 fmt))))) (payload.length / 256)
    (if fmt = 11 then x.depth.toNat else t.scale.toNat) u 0 p t.ident.toNat (v % 2 ^ 32) x.tileCount.toNat payload

/-- A unit with a drained tile and its header in their places, and the drain off its queue (R79, R204). -/
def storeTile (addr : Nat) (h : Rec64) (payload : List Byte) (x : KUnit) : KUnit :=
  { hdrFilePut addr h (lsWrite addr payload x) with outQ := x.outQ.tail, tileCount := x.tileCount + 1 }

/-- A tile of at most 256 beats is drained in one piece. -/
theorem drainPieces_one {key : List Nat} {payload : List Byte} {x : KUnit} {s : State} (hne : payload ≠ [])
    (hle : payload.length ≤ 256 * 256) :
    drainPieces u p 256 fmt rows (drainRow x.acc16 fmt) key t none payload (setUnit u x s) =
      ([⟨drainHdr u p fmt rows t (Config.headerField 4 (0 :: t.ident.toNat :: key) payload) payload x, payload⟩],
        setUnit u { x with tileCount := x.tileCount + 1 } s) := by
  simp only [drainPieces, chunks_of_length_le hne hle, List.zipIdx_cons, List.zipIdx_nil, List.foldl_cons, List.foldl_nil,
    getUnit_setUnit, setUnit_setUnit, Nat.zero_mul, Nat.zero_div, Nat.zero_add, Nat.sub_zero, List.nil_append]
  rfl

/-- One piece goes to the local store and the header file, and the drain leaves its queue. -/
theorem drainLocal_one {h : Rec64} {payload : List Byte} {x : KUnit} {s : State} :
    drainLocal u addr [⟨h, payload⟩] (setUnit u { x with tileCount := x.tileCount + 1 } s) =
      setUnit u (storeTile addr h payload x) s := by
  simp only [drainLocal, List.foldl_cons, List.foldl_nil, modUnit, popOut, getUnit_setUnit, setUnit_setUnit]
  rfl

variable {seg ti act : Nat} {out : BitVec 8} {bias : Option Nat} {o : QOp} {x : KUnit} {ps : List (Nat × Nat)}
  {s : State}

/-- A drain to the local store that nothing holds pays its issue cycles, makes one piece and puts it in its place. -/
theorem drainOp_local (hx : getUnit s u = x) (hop : o.op = .drain out addr 0 seg fmt ti act bias rows)
    (ready : drainReady x o.num = true) (ceiling : vecCycles o.op = 0 ∨ withheld s u = false)
    (tensor : tget x.tensors ti = some t) (panel : panelOf s u = some p) {g : Nat}
    (hg : g = histUse (getCast s p) x ti t) (reach : histReach p fmt g t s = .go ps s) {r : List Byte × KUnit}
    (hr : r = drainPayload x ti g t fmt act
      (bias.map fun a => words32 (lsRead x a (4 * tileCols x.acc16)) (tileCols x.acc16)) rows)
    (hne : r.1 ≠ []) (hle : r.1.length ≤ 256 * 256) :
    drainOp u o s =
      let lv := s.power.ceil.toNat
      let k := vecCycles o.op
      let h := drainHdr u p fmt rows t (Config.headerField 4 (0 :: t.ident.toNat :: o.key) r.1) r.1 x
      let d := setUnit u (countIssue lv k (storeTile addr h r.1 r.2)) (countHeld u (heldCycles lv k x) s)
      (if fmt = 11 then d else writeHist u fmt g t d, []) := by
  obtain ⟨num, pc, key, op⟩ := o
  obtain rfl : op = .drain out addr 0 seg fmt ti act bias rows := hop
  generalize hk : vecCycles (.drain out addr 0 seg fmt ti act bias rows) = k at *
  have hceil : (decide (0 < k) && withheld s u) = false := by rcases ceiling with h | h <;> simp [h]
  have hpayload : drainPayload (countIssue s.power.ceil.toNat k x) ti g t fmt act
      (bias.map fun a => words32 (lsRead x a (4 * tileCols x.acc16)) (tileCols x.acc16)) rows =
      (r.1, countIssue s.power.ceil.toNat k r.2) := by rw [drainPayload_countIssue, hr]
  obtain ⟨hists, drained, hunit⟩ : ∃ h n, r.2 = { x with hists := h, drained := n } :=
    hr ▸ drainPayload_unit x ti g fmt act rows t _
  have h16 : x.acc16 = (countIssue s.power.ceil.toNat k r.2).acc16 := by rw [countIssue_acc16, hunit]
  have hhdr (v : Nat) : drainHdr u p fmt rows t v r.1 (countIssue s.power.ceil.toNat k r.2) =
      drainHdr u p fmt rows t v r.1 x := by rw [hunit]; rfl
  simp only [drainOp, hx, ready, hk, hceil, tensor, panel, ← hg, reach, payIssue_eq hx, getUnit_setUnit, setUnit_setUnit,
    Bool.not_true, Bool.false_eq_true, if_false, countIssue_acc16, lsRead_countIssue, hpayload]
  rw [h16, drainPieces_one hne hle, hhdr]
  simp only [OfNat.zero_ne_ofNat, if_false, if_true, drainLocal_one]
  rfl

end

theorem outputStep_drain {u dest addr seg fmt ti act rows : Nat} {out : BitVec 8} {bias : Option Nat} {o : QOp}
    {rest : List QOp} {x : KUnit} {s : State} (hx : getUnit s u = x) (live : x.halted = false)
    (running : x.run ≠ .stopped) (hq : x.outQ = o :: rest) (free : opHazard x o = false)
    (hop : o.op = .drain out addr dest seg fmt ti act bias rows) : outputStep u s = drainOp u o s := by
  simp [outputStep, hx, live, running, hq, free, hop]

/-- Settles O16: the head of the output queue is a drain that nothing holds, its tile is one piece, and the unit that
counted its histogram differs from the one before in nothing else. -/
theorem tileDrainCompletes : Obligations.TileDrainCompletes := by
  intro u s o out addr seg fmt ti act rows p bias rest t ps x cols b g r lv k ovf hq hop live running free ready ceiling
    tensor panel reach hne hle
  refine ⟨Config.headerField 4 (0 :: t.ident.toNat :: o.key) r.1, ?_⟩
  intro h y
  obtain ⟨hists, drained, hunit⟩ : ∃ h n, r.2 = { x with hists := h, drained := n } :=
    drainPayload_unit x ti g fmt act rows t b
  have hy : storeTile addr h r.1 r.2 = y := by
    have hrest : r.2.outQ.tail = rest := by rw [hunit]; exact congrArg List.tail hq
    have hcount : r.2.tileCount = x.tileCount := by rw [hunit]
    rw [storeTile, hrest, hcount]
  rw [← hy]
  exact congrArg (fun f => Host.Outcome.next (tally u.toNat s f)) ((outputStep_drain rfl live running hq free hop).trans
    (drainOp_local rfl hop ready ceiling tensor panel rfl reach rfl hne hle))

end Sys2Proof.Proofs

/-! PROOFS. An ordered reducer whose slot lies in T2: its read is counted. -/
namespace Sys2Proof.Proofs
open Sys2Proof Machine Safety Laws

/-! ## An ordered reducer whose slot lies in T2 (R173, R174, R186) -/

/-- A reduction entry with counts in the ranges of R173, two partials of 128 elements, and slots in T2, where R173 puts them
in T1. -/
def t2Reducer : Reducer :=
  { panel := 0, parts := 2, elems := 128, slots := [t2Base, t2Base + 512], hdrs := [0x40, 0x80], out := 0x200
    outHdr := 0x100, tensor := 0, empties := [], fulls := [], stored := [0] }

/-- That entry is entry 5 of region 0; its ranges are home, and its slot 0 holds a partial of 128 zeros that passes. -/
def t2ReducerState : State :=
  wr 0x40 (recBytes (mkTileHdr 10 0xF 0 1 2 0 8 0 0 0 0 0 (List.replicate 512 0)))
    { reducers := [(5, t2Reducer)], home := [(0, 1), (t2Base / 4096, t2Base / 4096 + 1)] }

/-- The counters that an outcome leaves. -/
def outcomeCtrs : Result → List (Ctr × Nat)
  | .next t => t.ctrs
  | _ => []

theorem t2Reducer_partialOk : partialOk t2ReducerState t2Reducer 0 = true := by decide +kernel

/-- The read of the slot's two beats misses the read cache of stack 0, and each miss is counted (R186, R221). -/
theorem t2Reducer_counts_misses :
    outcomeCtrs (exec (.reducerSlotReady 0 5 0) t2ReducerState) = [(.cacheMisses 0 0, 2)] := by decide +kernel

/-- An engine reads ranges that all hold data. -/
theorem engineRanges_read {p : Nat} {ps : List (Nat × Nat)} {s : State}
    (h : (ps.find? fun r => !homeAll s r.1 r.2) = none) : ∃ s1, engineRanges p ps false s = .go ps s1 := by
  refine ⟨ps.foldl (fun s r => touch r.1 r.2 (cacheLooks (some p) r.1 r.2 s)) s, ?_⟩
  simp only [engineRanges, h, Bool.false_eq_true, if_false]

/-- Refutes O18: the statement gives REDUCER_SLOT_READY a next state that differs in the hanks and the reducers alone, and
the read of a slot in T2 also counts its look-ups in the read cache. The statement does not say that the slots lie in
T1 (R173). -/
theorem not_resendsAndReducersComplete : ¬ Obligations.ResendsAndReducersComplete := by
  intro h
  obtain ⟨-, reducer, -⟩ := h t2ReducerState
  obtain ⟨-, added⟩ := reducer 0 5 0 t2Reducer rfl (by decide)
  obtain ⟨s1, reads⟩ := engineRanges_read (p := 0) (ps := slotRanges t2Reducer 0)
    (s := { t2ReducerState with reducers := tset t2ReducerState.reducers 5 { t2Reducer with stored := [], ready := [0] } })
    (by decide +kernel)
  have next := added (slotRanges t2Reducer 0) s1 rfl (by decide) t2Reducer_partialOk (.inr (by decide)) reads
  have uncounted : [(Ctr.cacheMisses 0 0, 2)] = [] := t2Reducer_counts_misses.symm.trans (congrArg outcomeCtrs next)
  exact List.cons_ne_nil _ _ uncounted

end Sys2Proof.Proofs

/-! PROOFS. PLANE and PASS are handed to the array engine, and begin at once on an idle one. -/
namespace Sys2Proof.Proofs
open Sys2Proof Machine Safety Laws

/-! ## The ceiling beside a changed unit (R144, R444) -/

theorem withheld_setUnit {u : Nat} {y : KUnit} {s : State} (hcycle : y.cycle = (getUnit s u).cycle)
    (hissues : y.issues = (getUnit s u).issues) : withheld (setUnit u y s) u = withheld s u := by
  simp only [withheld, getUnit_setUnit, hcycle, hissues]
  rfl

theorem countHeld_setUnit {u n : Nat} {y : KUnit} {s : State} (hrun : y.run = (getUnit s u).run) :
    countHeld u n (setUnit u y s) = setUnit u y (countHeld u n s) := by
  simp only [countHeld, getUnit_setUnit, hrun, bump_setUnit]
  split <;> rfl

/-! ## The array engine and one more operation (R107, R109, R128) -/

/-- An instruction that its unit can take, and that makes progress, answers with its effect, the cycle judged. -/
theorem next_issue_done {i : Instr} {u : BitVec 9} {f : Nat → State → Fired} {s t : State}
    (can : canIssue i u.toNat s = true) (fired : f u.toNat s = (t, [])) :
    (.next (issue i u f s) : Result) = .next (judged u.toNat s t) :=
  congrArg Host.Outcome.next (issue_done can fired)

theorem handArr_eq {ns : List Nat} {x : KUnit} {op : EngOp} :
    handArr ns x op =
      { autoUnit ns x with arrQ := x.arrQ ++ [newOp x op], issued := x.issued + 1, pc := x.pc + 1 } := by
  rw [autoUnit_of_ctrs (x := x) (y := x) ns rfl]
  rfl

/-- An operation that a busy engine or its own strand holds back joins the array queue. -/
theorem pushArr_joins {i : Instr} {u : Nat} {op : EngOp} {ns : List Nat} {x : KUnit} {s : State} (hx : getUnit s u = x)
    (ready : Ready i u s) (room : x.arrQ.length < 4) (auto : AutoOk ns x)
    (later : x.arrQ ≠ [] ∨ op.stepsAtOnce = false) : pushArr u op ns s = (setUnit u (handArr ns x op) s, []) := by
  have hlater : (x.arrQ.isEmpty && op.stepsAtOnce) = false := by
    rcases later with h | h
    · rw [List.isEmpty_eq_false_iff.2 h, Bool.false_and]
    · rw [h, Bool.and_false]
  rw [pushArr_room hx ready room auto, hlater, if_neg Bool.false_ne_true]

/-- On an idle engine an operation that names no strand, and that nothing holds, takes its step at once. -/
theorem pushArr_begins {i : Instr} {u : Nat} {op : EngOp} {ns : List Nat} {x : KUnit} {s : State} (hx : getUnit s u = x)
    (ready : Ready i u s) (idle : x.arrQ = []) (auto : AutoOk ns x) (atOnce : op.stepsAtOnce = true)
    (free : hazard x x.issued (opReads op) (localWrites x op) (devReads x op) (devWrites x op) = false) :
    pushArr u op ns s = arrayOp u (newOp x op) (setUnit u (handArr ns x op) s) := by
  have live : (handArr ns x op).halted = false := hx ▸ canIssue_live ready.1
  have running : (handArr ns x op).run ≠ .stopped := hx ▸ canIssue_not_stopped ready.1
  have alone : (handArr ns x op).arrQ = [newOp x op] := congrArg (· ++ [newOp x op]) idle
  have hhaz : opHazard (handArr ns x op) (newOp x op) = false := hazard_handArr.trans free
  rw [pushArr_room hx ready (by simp [idle]) auto, idle, atOnce, List.isEmpty_nil, Bool.and_self, if_pos rfl]
  simp [arrayStep, live, running, alone, hhaz]

/-! ## PLANE (R66) -/

section
variable {u : BitVec 9} {inp : BitVec 8} {a : BitVec 4} {cell : BitVec 2} {p : Bool} {s : State} {x : KUnit} {c : Nat}
  (hx : getUnit s u.toNat = x) (problem : p = true → x.problem.isSome = true)
  (hc : c = if p then (cellMode (pbAfmt (x.problem.getD 0)) (pbWfmt (x.problem.getD 0))).getD 0 else cell.toNat)
include hx problem hc

/-- What PLANE does once its operands are read. -/
theorem planeIssue_eq :
    planeIssue u.toNat inp a.toNat cell.toNat p s =
      if inp ≠ 0 then pushArr u.toNat (.plane (some (maskOne inp)) (ctrVal x a.toNat) c []) [] s
      else if lsOk (ctrVal x a.toNat) (planeBytes c) 256 then
        pushArr u.toNat (.plane none (ctrVal x a.toNat) c []) [a.toNat] s
      else (lsFault u.toNat (ctrVal x a.toNat) s, []) := by
  have hcell : (if p then (x.problem.bind fun r => cellMode (pbAfmt r) (pbWfmt r)).getD 0 else cell.toNat) = c := by
    rw [hc]
    cases hp : p with
    | false => rfl
    | true =>
      obtain ⟨r, hr⟩ := Option.isSome_iff_exists.1 (problem hp)
      rw [hr]
      rfl
  simp only [planeIssue, hx, not_noProblem problem, Bool.false_eq_true, if_false, hcell, bne_iff_ne]
  cases lsOk (ctrVal x a.toNat) (planeBytes c) 256 <;> rfl

/-- A PLANE whose plane comes over a strand joins the array queue. -/
theorem planeIssue_strand (ready : Ready (.plane u inp a cell p) u.toNat s) (room : x.arrQ.length < 4) (hinp : inp ≠ 0) :
    planeIssue u.toNat inp a.toNat cell.toNat p s =
      (setUnit u.toNat (handArr [] x (.plane (some (maskOne inp)) (ctrVal x a.toNat) c [])) s, []) := by
  rw [planeIssue_eq hx problem hc, if_pos hinp, pushArr_joins hx ready room rfl (.inr rfl)]

variable (ready : Ready (.plane u inp a cell p) u.toNat s) (hinp : inp = 0)
  (ok : LocalOk (ctrVal x a.toNat) (planeBytes c) 256) (auto : AutoOk [a.toNat] x)
include ready hinp ok auto

/-- A PLANE from the local store joins the queue of a busy array engine. -/
theorem planeIssue_busy (room : x.arrQ.length < 4) (busy : x.arrQ ≠ []) :
    planeIssue u.toNat inp a.toNat cell.toNat p s =
      (setUnit u.toNat (handArr [a.toNat] x (.plane none (ctrVal x a.toNat) c [])) s, []) := by
  rw [planeIssue_eq hx problem hc, if_neg (not_not_intro hinp), if_pos (lsOk_of_localOk ok),
    pushArr_joins hx ready room auto (.inl busy)]

/-- A PLANE from the local store on an idle array engine fills the shadow plane at once. -/
theorem planeIssue_idle (idle : x.arrQ = [])
    (free : hazard x x.issued [(ctrVal x a.toNat, planeBytes c)] [] [] [] = false) :
    planeIssue u.toNat inp a.toNat cell.toNat p s = (setUnit u.toNat { autoUnit [a.toNat] x with
      issued := x.issued + 1, pc := x.pc + 1, shadowFull := true
      shadow := { cell := BitVec.ofNat 2 c, bytes := lsRead x (ctrVal x a.toNat) (planeBytes c) } } s, []) := by
  rw [planeIssue_eq hx problem hc, if_neg (not_not_intro hinp), if_pos (lsOk_of_localOk ok),
    pushArr_begins (op := .plane none (ctrVal x a.toNat) c []) hx ready idle auto rfl free]
  simp only [arrayOp, newOp, loadPlane, popArr, modUnit, getUnit_setUnit, setUnit_setUnit]
  rw [autoUnit_of_ctrs (x := x) (y := x) _ rfl]
  simp only [handArr, withCtrs, joinArr, idle]
  rfl

end

/-! ## PASS (R63 to R75) -/

/-- Nothing withholds the rows of a pass whose plane and buffer are free (R68, R72, R75). -/
theorem issueWaits_nil {u : Nat} {keep : Bool} {x : KUnit} {s : State} (ceiling : withheld (setUnit u x s) u = false)
    (plane : keep = true ∨ x.shadowFull = true) (two : x.passes.length < 2)
    (free : ∀ q ∈ x.passes, q.st ≠ .failed ∧ q.bufB = x.lastBufB) : issueWaits (setUnit u x s) u keep = [] := by
  have noFailed : (x.passes.any fun p => p.st == .failed) = false :=
    List.any_eq_false.2 fun q hq => by simpa using (free q hq).1
  have hplane : (keep || x.shadowFull) = true := by simpa using plane
  have buffer : bufHolder x = none :=
    List.find?_eq_none.2 fun q hq => by simp [(free q hq).2]
  simp [issueWaits, ceiling, noFailed, hplane, buffer, Nat.not_le.2 two]

/-- The pass that operation `q` of the array queue issues on unit `x`. -/
def nextPass (q : QOp) (x : KUnit) (sh m af wf : Nat) (keep add : Bool) (acts : List Byte) (ups : List Upset) : PassRec :=
  let p : PassRec :=
    { seq := q.num, pc := q.pc, bufB := !x.lastBufB, shape := sh, m := m, afmt := af, wfmt := wf, add := add, acts := acts
      plane := if keep then x.active else x.shadow, entries := [], upsets := ups, attempts := 0, st := .issued }
  { p with entries := passEntries p }

/-- A unit at ceiling level `lv` that has issued the rows of pass `p`, whose operation leaves the array queue. -/
def passIssued (lv : Nat) (keep : Bool) (p : PassRec) (x : KUnit) : KUnit :=
  { countIssue lv (passCycles p.m) x with
    active := p.plane, shadow := if keep then x.shadow else x.active, shadowFull := x.shadowFull && keep
    lastBufB := !x.lastBufB, lastReplay := false, passes := x.passes ++ [p], arrQ := x.arrQ.tail }

/-- A pass that waits for nothing issues its rows as the ceiling allows. -/
theorem issuePass_setUnit {u sh m af wf : Nat} {q : QOp} {keep add : Bool} {acts : List Byte} {ups : List Upset}
    {x : KUnit} {s : State} (ready : issueWaits (setUnit u x s) u keep = []) (hrun : x.run = (getUnit s u).run) :
    issuePass u q sh m af wf keep add acts ups (setUnit u x s) =
      (setUnit u (passIssued s.power.ceil.toNat keep (nextPass q x sh m af wf keep add acts ups) x)
        (countHeld u (heldCycles s.power.ceil.toNat (passCycles m) x) s), []) := by
  simp only [issuePass, ready, List.isEmpty_nil, Bool.not_true, Bool.false_eq_true, if_false, getUnit_setUnit,
    countHeld_setUnit hrun, popArr, modUnit, setUnit_setUnit]
  rfl

/-- A unit that PASS has told whether its tile has 64 columns (R64). -/
def withIssue16 (b : Bool) (x : KUnit) : KUnit := { x with issue16 := b }

theorem ready_withIssue16 {i : Instr} {u : Nat} {b : Bool} {s : State} (ready : Ready i u s) :
    Ready i u (setUnit u (withIssue16 b (getUnit s u)) s) := by
  simpa only [Ready, canIssue, holds, fetchWord, withIssue16, getUnit_setUnit] using ready

section
variable {u : BitVec 9} {inp : BitVec 8} {shape : BitVec 3} {m1 : BitVec 8} {a af wf : BitVec 4} {keep add p : Bool}
  {ups : List Upset} {s : State} {x : KUnit} {sh m fa fw : Nat} {kp ad : Bool}
  (hx : getUnit s u.toNat = x) (problem : p = true → x.problem.isSome = true)
  (hsh : sh = if p then pbShape (x.problem.getD 0) % 8 else shape.toNat)
  (hm : m = if p then pbM (x.problem.getD 0) else m1.toNat + 1)
  (hfa : fa = if p then pbAfmt (x.problem.getD 0) else af.toNat)
  (hfw : fw = if p then pbWfmt (x.problem.getD 0) else wf.toNat)
  (hkp : kp = if p then (pbFlags (x.problem.getD 0)).testBit 0 else keep)
  (had : ad = if p then (pbFlags (x.problem.getD 0)).testBit 1 else add)
  (room : x.arrQ.length < 4)
include hx problem hsh hm hfa hfw hkp had room

/-- What PASS does once its operands are read. -/
theorem passIssue_eq :
    passIssue u.toNat inp shape.toNat (m1.toNat + 1) a.toNat af.toNat wf.toNat keep add p ups s =
      if inp ≠ 0 then pushArr u.toNat (.pass (some (maskOne inp)) (ctrVal x a.toNat) sh m fa fw kp ad [] ups) []
        (setUnit u.toNat (withIssue16 (sh == 2) x) s)
      else if lsOk (ctrVal x a.toNat) (m * rowBytes sh) 256 then
        pushArr u.toNat (.pass none (ctrVal x a.toNat) sh m fa fw kp ad [] ups) [a.toNat]
          (setUnit u.toNat (withIssue16 (sh == 2) x) s)
      else (lsFault u.toNat (ctrVal x a.toNat) (setUnit u.toNat (withIssue16 (sh == 2) x) s), []) := by
  simp only [passIssue, hx, not_noProblem problem, Bool.false_eq_true, if_false, nbit_testBit, ← hsh, ← hm, ← hfa, ← hfw,
    ← hkp, ← had, if_neg (Nat.not_le.2 room), bne_iff_ne]
  cases lsOk (ctrVal x a.toNat) (m * rowBytes sh) 256 <;> rfl

variable {i : Instr} (ready : Ready i u.toNat s)
include ready

/-- A PASS whose rows come over a strand joins the array queue. -/
theorem passIssue_strand (hinp : inp ≠ 0) :
    passIssue u.toNat inp shape.toNat (m1.toNat + 1) a.toNat af.toNat wf.toNat keep add p ups s =
      (setUnit u.toNat (handArr [] (withIssue16 (sh == 2) x)
        (.pass (some (maskOne inp)) (ctrVal x a.toNat) sh m fa fw kp ad [] ups)) s, []) := by
  rw [passIssue_eq hx problem hsh hm hfa hfw hkp had room, if_pos hinp,
    pushArr_joins (x := withIssue16 (sh == 2) x) getUnit_setUnit (hx ▸ ready_withIssue16 ready) room rfl (.inr rfl),
    setUnit_setUnit]

variable (hinp : inp = 0) (ok : LocalOk (ctrVal x a.toNat) (m * rowBytes sh) 256) (auto : AutoOk [a.toNat] x)
include hinp ok auto

/-- A PASS from the local store joins the queue of a busy array engine. -/
theorem passIssue_busy (busy : x.arrQ ≠ []) :
    passIssue u.toNat inp shape.toNat (m1.toNat + 1) a.toNat af.toNat wf.toNat keep add p ups s =
      (setUnit u.toNat (handArr [a.toNat] (withIssue16 (sh == 2) x)
        (.pass none (ctrVal x a.toNat) sh m fa fw kp ad [] ups)) s, []) := by
  rw [passIssue_eq hx problem hsh hm hfa hfw hkp had room, if_neg (not_not_intro hinp), if_pos (lsOk_of_localOk ok),
    pushArr_joins (x := withIssue16 (sh == 2) x) getUnit_setUnit (hx ▸ ready_withIssue16 ready) room
      (autoOk_of_ctrs (x := x) rfl auto) (.inl busy),
    setUnit_setUnit]

/-- A PASS from the local store on an idle array engine, whose plane and buffer are free, issues its rows at once. -/
theorem passIssue_idle (idle : x.arrQ = [])
    (free : hazard x x.issued [(ctrVal x a.toNat, m * rowBytes sh)] [] [] [] = false)
    (ceiling : withheld s u.toNat = false) (plane : kp = true ∨ x.shadowFull = true) (two : x.passes.length < 2)
    (buffer : ∀ q ∈ x.passes, q.st ≠ .failed ∧ q.bufB = x.lastBufB) {op : EngOp} {y : KUnit}
    (hop : op = .pass none (ctrVal x a.toNat) sh m fa fw kp ad [] ups)
    (hy : y = handArr [a.toNat] (withIssue16 (sh == 2) x) op) :
    passIssue u.toNat inp shape.toNat (m1.toNat + 1) a.toNat af.toNat wf.toNat keep add p ups s =
      (setUnit u.toNat (passIssued s.power.ceil.toNat kp (nextPass (newOp x op) y sh m fa fw kp ad
          (lsRead x (ctrVal x a.toNat) (m * rowBytes sh)) ups) y)
        (countHeld u.toNat (heldCycles s.power.ceil.toNat (passCycles m) y) s), []) := by
  subst hop hy
  have nowaits : issueWaits (setUnit u.toNat (handArr [a.toNat] (withIssue16 (sh == 2) x)
      (.pass none (ctrVal x a.toNat) sh m fa fw kp ad [] ups)) s) u.toNat kp = [] :=
    issueWaits_nil ((withheld_setUnit (by rw [hx]; rfl) (by rw [hx]; rfl)).trans ceiling) plane two buffer
  rw [passIssue_eq hx problem hsh hm hfa hfw hkp had room, if_neg (not_not_intro hinp), if_pos (lsOk_of_localOk ok),
    pushArr_begins (x := withIssue16 (sh == 2) x)
      (op := .pass none (ctrVal x a.toNat) sh m fa fw kp ad [] ups) getUnit_setUnit
      (hx ▸ ready_withIssue16 ready) idle (autoOk_of_ctrs (x := x) rfl auto) rfl free, setUnit_setUnit,
    ← issuePass_setUnit nowaits (by rw [hx]; rfl)]
  simp only [arrayOp, newOp, getUnit_setUnit]
  rfl

end

/-- A unit that has handed an operation to the array engine, as the statement writes it. -/
theorem handArr_withIssue16 {ns : List Nat} {b : Bool} {x : KUnit} {op : EngOp} :
    handArr ns (withIssue16 b x) op =
      { autoUnit ns x with issue16 := b, arrQ := x.arrQ ++ [newOp x op], issued := x.issued + 1, pc := x.pc + 1 } := by
  rw [handArr, autoUnit_of_ctrs (x := x) (y := withIssue16 b x) ns rfl, autoUnit_of_ctrs (x := x) (y := x) ns rfl]
  rfl

/-- Settles O9: an operation with a strand, or behind others, joins the array queue; on an idle engine a PLANE fills the
shadow plane and a PASS issues its rows. -/
theorem arrayInstructionsComplete : Obligations.ArrayInstructionsComplete := by
  intro u s inp a p x r addr joined problem room
  refine ⟨?plane, ?pass⟩
  case plane =>
    intro cell ready c n
    refine ⟨fun hinp => ?_, fun hinp ok auto => ⟨fun busy => ?_, fun idle free => ?_⟩⟩
    · exact next_issue_done ready.1 (planeIssue_strand rfl problem rfl ready room hinp)
    · refine next_issue_done ready.1 ((planeIssue_busy rfl problem rfl ready hinp ok auto room busy).trans ?_)
      rw [handArr_eq]
    · exact next_issue_done ready.1 (planeIssue_idle rfl problem rfl ready hinp ok auto idle free)
  case pass =>
    intro shape m1 af wf keep add ups i sh m fa fw kp ad op n x' lv k ready
    have hn : n = m * rowBytes sh := by simp [n, rowBytes]
    refine ⟨fun hinp => ?_, fun hinp ok auto => ⟨fun busy => ?_, ?_⟩⟩
    · exact next_issue_done ready.1 (passIssue_strand rfl problem rfl rfl rfl rfl rfl rfl room ready hinp)
    · refine next_issue_done ready.1
        ((passIssue_busy rfl problem rfl rfl rfl rfl rfl rfl room ready hinp (hn ▸ ok) auto busy).trans ?_)
      rw [handArr_withIssue16]
    · intro idle free ceiling plane two buffer pl q
      refine next_issue_done ready.1 ((passIssue_idle rfl problem rfl rfl rfl rfl rfl rfl room ready hinp (hn ▸ ok) auto idle
        (hn ▸ free) ceiling plane two buffer rfl rfl).trans ?_)
      have leaves : (x.arrQ ++ [newOp x (op none)]).tail = x.arrQ := by rw [idle]; rfl
      rw [handArr_withIssue16, ← hn, passIssued, leaves]
      simp only [x']
      rw [autoUnit_of_ctrs (x := x) (y := x) [a.toNat] rfl]
      rfl

end Sys2Proof.Proofs

/-! PROOFS. The vector engine: its instructions join its queue, or are performed at once on a free engine. -/
namespace Sys2Proof.Proofs
open Sys2Proof Machine Safety Laws

/-! ## Words of the local store (R102) -/

/-- Pieces of `n` out of a list that is given by position. -/
theorem chunks_map_range {α : Type} {n : Nat} (hn : 0 < n) (k : Nat) (f : Nat → α) :
    chunks n k ((List.range (n * k)).map f) = (List.range k).map fun j => (List.range n).map fun i => f (n * j + i) := by
  induction k generalizing f with
  | zero => rfl
  | succ k ih =>
    have hsplit : (List.range (n * (k + 1))).map f =
        (List.range n).map f ++ (List.range (n * k)).map fun i => f (n + i) := by
      rw [Nat.mul_succ, Nat.add_comm, List.range_add, List.map_append, List.map_map]
      rfl
    have hlen : ((List.range n).map f).length = n := by simp
    have hne : ((List.range n).map f ++ (List.range (n * k)).map fun i => f (n + i)).isEmpty = false := by
      simp [Nat.pos_iff_ne_zero.1 hn]
    rw [hsplit, chunks, hne, if_neg Bool.false_ne_true, List.take_left' hlen, List.drop_left' hlen, ih,
      List.range_succ_eq_map, List.map_cons, List.map_map]
    congr 1
    · simp
    · refine List.map_congr_left fun j _ => List.map_congr_left fun i _ => congrArg f ?_
      simp only [Nat.mul_succ]
      omega

/-- Word `k` of the words from `a` on. -/
def wordAt (x : KUnit) (a k : Nat) : Nat := natOf (lsRead x (a + 4 * k) 4)

/-- The FP32 words of a range are the words at every fourth byte of it. -/
theorem words32_lsRead (x : KUnit) (a n : Nat) : words32 (lsRead x a (4 * n)) n = (List.range n).map (wordAt x a) := by
  rw [words32, lsRead, memGets, chunks_map_range (by decide), List.map_map]
  refine List.map_congr_left fun k _ => ?_
  simp only [Function.comp_apply, wordAt, lsRead, memGets, Nat.add_assoc]

theorem lgetD_map_range {α : Type} {n k : Nat} (h : k < n) (f : Nat → α) (d : α) :
    lgetD ((List.range n).map f) k d = f k := by
  induction n generalizing k f with
  | zero => omega
  | succ n ih =>
    rw [List.range_succ_eq_map, List.map_cons, List.map_map]
    cases k with
    | zero => rfl
    | succ k => exact ih (Nat.lt_of_succ_lt_succ h) _

/-! ## Handing an operation to the vector engine (R107, R109, R128) -/

/-- A unit with other bytes in its local store. -/
def withStore (x : KUnit) (m : Mem) : KUnit := { x with store := m }

/-- A unit whose instruction hands `op` to the vector engine, but for its AUTO counters and its address. -/
def joinVec (x : KUnit) (op : EngOp) : KUnit := { x with vecQ := x.vecQ ++ [newOp x op], issued := x.issued + 1 }

/-- The same once its AUTO counters have stepped and the instruction has retired. -/
def handVec (ns : List Nat) (x : KUnit) (op : EngOp) : KUnit :=
  { withCtrs (joinVec x op) (autoUnit ns x).ctrs with pc := x.pc + 1 }

/-- What waits for an earlier instruction does not wait for one that has just joined the vector queue. -/
theorem hazard_handVec {x : KUnit} {op : EngOp} {ns : List Nat} {lr lw : List (Nat × Nat)}
    {dr dw : List (Nat × Nat × Nat)} :
    hazard (handVec ns x op) x.issued lr lw dr dw = hazard x x.issued lr lw dr dw := by
  have hq : decide ((newOp x op).num < x.issued) = false := decide_eq_false (Nat.lt_irrefl _)
  simp only [hazard, queuedOps, handVec, withCtrs, joinVec, List.any_append, List.any_cons, List.any_nil, hq,
    Bool.false_and, Bool.or_false]
  rfl

section
variable {i : Instr} {u : Nat} {op : EngOp} {rs : List (Nat × Nat × Nat)} {ns : List Nat} {x : KUnit} {s : State}
  (hx : getUnit s u = x) (ready : Ready i u s) (room : x.vecQ.length < 4)
  (ranges : ∀ r ∈ rs, LocalOk r.1 r.2.1 r.2.2) (auto : AutoOk ns x)
include hx ready room ranges auto

/-- A vector instruction whose local ranges are right joins the vector queue, its AUTO counters step, and it retires. -/
theorem pushVec_room : pushVec u op rs ns s = (setUnit u (handVec ns x op) s, []) := by
  subst hx
  obtain ⟨can, hl⟩ := ready
  have good : (rs.find? fun r => !lsOk r.1 r.2.1 r.2.2) = none :=
    List.find?_eq_none.2 fun r hr => by simp [lsOk_of_localOk (ranges r hr)]
  have hretire := retire_autoStep (u := u) (s := s) (x := getUnit s u) (y := joinVec (getUnit s u) op) rfl
    (canIssue_not_stopped can) hl auto
  rw [pushVec, if_neg (Nat.not_le.2 room), good]
  exact congrArg (·, []) hretire

end

theorem vecRun_congr {u : Nat} {f g : State → Fired} {s : State} (h : f s = g s) : vecRun u f s = vecRun u g s := by
  rw [vecRun, vecRun, h]

/-- A vector operation touches the local store alone. -/
def LocalOnly (x : KUnit) (op : EngOp) : Prop :=
  localWrites x op = opWrites op ∧ devReads x op = [] ∧ devWrites x op = []

/-- A unit that has performed vector operation `op` at ceiling level `lv`, but for its effect. -/
def vecIssued (lv : Nat) (op : EngOp) (ns : List Nat) (x : KUnit) : KUnit :=
  { countIssue lv (vecCycles op) (autoUnit ns x) with issued := x.issued + 1, pc := x.pc + 1 }

theorem vecIssued_withStore {lv : Nat} {op : EngOp} {ns : List Nat} {x : KUnit} {m : Mem} :
    vecIssued lv op ns (withStore x m) = withStore (vecIssued lv op ns x) m := by
  rw [vecIssued, vecIssued, autoUnit_of_ctrs (x := x) (y := x) ns rfl,
    autoUnit_of_ctrs (x := x) (y := withStore x m) ns rfl]
  rfl

/-- The one operation of the vector queue, with nothing before it in its way and cycles the ceiling allows, is performed. -/
theorem vectorStep_handVec {u : Nat} {op : EngOp} {ns : List Nat} {x : KUnit} {s : State} (hx : getUnit s u = x)
    (live : x.halted = false) (running : x.run ≠ .stopped) (idle : x.vecQ = []) (only : LocalOnly x op)
    (free : hazard x x.issued (opReads op) (opWrites op) [] [] = false) (ceiling : withheld s u = false) :
    vectorStep u (setUnit u (handVec ns x op) s) =
      (vecEffect u op (setUnit u (vecIssued s.power.ceil.toNat op ns x)
        (countHeld u (heldCycles s.power.ceil.toNat (vecCycles op) x) s)), []) := by
  obtain ⟨hlocal, hreads, hwrites⟩ := only
  have alone : (handVec ns x op).vecQ = [newOp x op] := congrArg (· ++ [newOp x op]) idle
  have liveHand : (handVec ns x op).halted = false := live
  have runningHand : (handVec ns x op).run ≠ .stopped := running
  have hhaz : opHazard (handVec ns x op) (newOp x op) = false := by
    refine hazard_handVec.trans ?_
    change hazard x x.issued (opReads op) (localWrites x op) (devReads x op) (devWrites x op) = false
    rw [hlocal, hreads, hwrites, free]
  have hceiling : withheld (setUnit u (handVec ns x op) s) u = false :=
    (withheld_setUnit (by rw [hx]; rfl) (by rw [hx]; rfl)).trans ceiling
  have hpay : payIssue u (vecCycles op) (setUnit u (handVec ns x op) s) =
      setUnit u (countIssue s.power.ceil.toNat (vecCycles op) (handVec ns x op))
        (countHeld u (heldCycles s.power.ceil.toNat (vecCycles op) x) s) := by
    rw [payIssue_eq getUnit_setUnit, countHeld_setUnit (by rw [hx]; rfl), setUnit_setUnit]
    rfl
  simp only [vectorStep, getUnit_setUnit, liveHand, beq_eq_false_iff_ne.2 runningHand, Bool.or_self, Bool.false_eq_true,
    if_false, alone, hhaz, hceiling, modUnit]
  simp only [newOp, hpay, getUnit_setUnit, setUnit_setUnit]
  rw [vecIssued, autoUnit_of_ctrs (x := x) (y := x) ns rfl, ← idle]
  rfl

section
variable {i : Instr} {u : BitVec 9} {f : Nat → State → Fired} {op : EngOp} {rs : List (Nat × Nat × Nat)} {ns : List Nat}
  {x : KUnit} {s : State} (hx : getUnit s u.toNat = x)
  (run : exec i s = .next (issue i u (fun u s => vecRun u (f u) s) s)) (push : f u.toNat s = pushVec u.toNat op rs ns s)
  (ready : Ready i u.toNat s) (room : x.vecQ.length < 4) (ranges : ∀ r ∈ rs, LocalOk r.1 r.2.1 r.2.2) (auto : AutoOk ns x)
include hx run push ready room ranges auto

/-- Behind other operations of its engine a vector instruction waits in the queue. -/
theorem exec_vec_busy (busy : x.vecQ ≠ []) :
    exec i s = .next (unitNext u.toNat
      { autoUnit ns x with issued := x.issued + 1, vecQ := x.vecQ ++ [newOp x op] } s) := by
  refine run.trans (next_issue_done ready.1 ?_)
  rw [vecRun_congr push, vecRun, hx, List.isEmpty_eq_false_iff.2 busy, Bool.false_and, if_neg Bool.false_ne_true,
    pushVec_room hx ready room ranges auto, autoUnit_of_ctrs (x := x) (y := x) ns rfl]
  rfl

/-- On a free engine that nothing holds, its issue cycles are paid and its effect, `m` in the local store and `g` on what
is not the unit, is had at once. -/
theorem exec_vec_free {m : Mem} {g : State → State} (only : LocalOnly x op)
    (effect : ∀ (y : KUnit) (t : State),
      vecEffect u.toNat op (setUnit u.toNat (withStore y x.store) t) = setUnit u.toNat (withStore y m) (g t))
    (free : x.vecQ = [] ∧ hazard x x.issued (opReads op) (opWrites op) [] [] = false ∧ withheld s u.toNat = false) :
    exec i s = .next (unitThen u.toNat
      { countIssue s.power.ceil.toNat (vecCycles op) (autoUnit ns (withStore x m)) with issued := x.issued + 1 } s
      (g (countHeld u.toNat (heldCycles s.power.ceil.toNat (vecCycles op) x) s))) := by
  obtain ⟨idle, hazards, ceiling⟩ := free
  have live : x.halted = false := hx ▸ canIssue_live ready.1
  have running : x.run ≠ .stopped := hx ▸ canIssue_not_stopped ready.1
  have alone : (handVec ns x op).vecQ.length = 1 := by rw [handVec, withCtrs, joinVec, idle]; rfl
  refine run.trans (next_issue_done ready.1 ?_)
  rw [vecRun_congr push, vecRun, pushVec_room hx ready room ranges auto]
  simp only [hx, idle, List.isEmpty_nil, getUnit_setUnit, alone, decide_true, Bool.and_self, if_true]
  rw [vectorStep_handVec hx live running idle only hazards ceiling]
  have written := effect (vecIssued s.power.ceil.toNat op ns x)
    (countHeld u.toNat (heldCycles s.power.ceil.toNat (vecCycles op) x) s)
  rw [← vecIssued_withStore, ← vecIssued_withStore] at written
  exact congrArg (·, []) written

end

/-- Bytes put into the local store of a unit. -/
theorem lsPut_withStore {u a : Nat} {l : List Byte} {m : Mem} {y : KUnit} {s : State} :
    lsPut u a l (setUnit u (withStore y m) s) = setUnit u (withStore y (memPuts m a l)) s := by
  rw [lsPut, modUnit, getUnit_setUnit, setUnit_setUnit]
  rfl

theorem lsWrite_eq_withStore {a : Nat} {l : List Byte} {x : KUnit} :
    lsWrite a l x = withStore x (memPuts x.store a l) := rfl

theorem lsWrite_lsWrite {a b : Nat} {k l : List Byte} {x : KUnit} :
    lsWrite b l (lsWrite a k x) = withStore x (memPuts (memPuts x.store a k) b l) := rfl

/-- What is read of the local store goes by its bytes alone. -/
@[simp] theorem lsRead_withStore {x y : KUnit} {a n : Nat} : lsRead (withStore y x.store) a n = lsRead x a n := rfl

end Sys2Proof.Proofs

/-! PROOFS. VOP and VRED: the function of every lane, and the running reduction. -/
namespace Sys2Proof.Proofs
open Sys2Proof Machine Safety Laws

/-! ## What VOP and VRED write -/

/-- A code's lane depends on the operands it reads alone. -/
theorem vopLane_of_reads {f fmt a b c b' c' : Nat} (hB : vopB f = true → b = b') (hC : vopC f = true → c = c')
    (hwiden : f ≠ 0x0A) (hnarrow : f ≠ 0x0B) : vopLane f fmt a b c = vopLane f fmt a b' c' := by
  by_cases hb : vopB f = true
  · rw [hB hb]
    by_cases hc : vopC f = true
    · rw [hC hc]
    · have hcode : f ≠ 3 ∧ f ≠ 9 := by simpa [vopC] using hc
      unfold vopLane
      split <;> simp_all
  · have hcode : 0x18 < f := by
      simp only [vopB, Bool.or_eq_true, Bool.and_eq_true, decide_eq_true_eq, not_or, not_and] at hb
      omega
    unfold vopLane
    split <;> simp_all

theorem map_zipIdx_map_range {α β : Type} (n : Nat) (f : Nat → α) (g : α × Nat → β) :
    ((List.range n).map f).zipIdx.map g = (List.range n).map fun k => g (f k, k) :=
  List.ext_getElem (by simp) fun k _ _ => by simp

/-- The free values of the conversions that name ACC96 (log entries 3 and 34). -/
def acc96Lanes (x : KUnit) (f n a : Nat) : List Nat :=
  if f = 0x0A then (List.range n).map fun k =>
    Config.acc96Convert true (natOf (((lsRead x a (n * fmtBits 11 / 8)).drop (12 * k)).take 12))
  else (List.range n).map fun k => Config.acc96Convert false (wordAt x a k)

theorem acc96Lanes_length {x : KUnit} {f n a : Nat} : (acc96Lanes x f n a).length = n := by
  unfold acc96Lanes
  split <;> simp

section
variable {u f fmt n a b c : Nat} {x y : KUnit} {s : State} (hs : getUnit s u = withStore y x.store)
include hs

/-- A code that is no conversion works word by word. -/
theorem vopBytes_lanes (hwiden : f ≠ 0x0A) (hnarrow : f ≠ 0x0B) :
    vopBytes u f fmt n a b c s =
      (wordBytes ((List.range n).map fun k => vopLane f fmt (wordAt x a k) (wordAt x b k) (wordAt x c k)), s) := by
  simp only [vopBytes, hs, lsRead_withStore, if_neg hwiden, if_neg hnarrow, words32_lsRead, map_zipIdx_map_range]
  refine congrArg (wordBytes ·, s) (List.map_congr_left fun k hk => ?_)
  have hk : k < n := List.mem_range.1 hk
  refine vopLane_of_reads (fun h => ?_) (fun h => ?_) hwiden hnarrow <;> rw [if_pos h, lgetD_map_range hk]

/-- The conversion to FP32 widens each element. -/
theorem vopBytes_widen (hf : f = 0x0A) (hfmt : fmt ≠ 11) :
    vopBytes u f fmt n a b c s =
      (wordBytes ((List.range n).map fun k => widen fmt (elemAt fmt (lsRead x a (n * fmtBits fmt / 8)) k)), s) := by
  simp only [vopBytes, hs, lsRead_withStore, if_pos hf, if_neg hfmt]

/-- The conversion from FP32 narrows each word, and its saturations are counted. -/
theorem vopBytes_narrow (hf : f = 0x0B) (hfmt : fmt ≠ 11) :
    vopBytes u f fmt n a b c s =
      let r := (List.range n).map fun k => narrow fmt (wordAt x a k)
      (packElems fmt (r.map (·.1)), bump (.narrowSat u) (r.filter (·.2)).length s) := by
  subst hf
  simp only [vopBytes, hs, lsRead_withStore, Nat.reduceEqDiff, if_false, if_true, if_neg hfmt, words32_lsRead, List.map_map]
  rfl

/-- The conversions that name ACC96 write as many free values as there are lanes (log entry 34). -/
theorem vopBytes_acc96 (hf : f = 0x0A ∨ f = 0x0B) (hfmt : fmt = 11) :
    vopBytes u f fmt n a b c s = (if f = 0x0A then wordBytes ((acc96Lanes x f n a).map (· % 2 ^ 32))
      else (acc96Lanes x f n a).flatMap (bytesOf 12), s) := by
  subst hfmt
  rcases hf with rfl | rfl
  · simp only [vopBytes, hs, lsRead_withStore, acc96Lanes, if_true, List.map_map]
    rfl
  · simp only [vopBytes, hs, lsRead_withStore, acc96Lanes, Nat.reduceEqDiff, if_false, if_true, words32_lsRead,
      List.flatMap_map]

end

/-- The words of a range, row by row of 128 lanes. -/
theorem chunks_words32 (x : KUnit) (a rows : Nat) :
    chunks 128 rows (words32 (lsRead x a (512 * rows)) (128 * rows)) =
      (List.range rows).map fun j => (List.range 128).map fun k => wordAt x a (128 * j + k) := by
  rw [show 512 * rows = 4 * (128 * rows) by omega, words32_lsRead]
  exact chunks_map_range (by decide) rows (wordAt x a)

/-- Bytes of `rows` rows of 128 elements. -/
theorem rowLen_bytes (rows fmt : Nat) : rows * rowLen fmt = 128 * rows * fmtBits fmt / 8 := by
  rw [rowLen, show 128 * rows * fmtBits fmt = rows * (16 * fmtBits fmt) * 8 by ring, Nat.mul_div_cancel _ (by decide)]

/-- The local ranges of a VOP are right. -/
theorem vop_ranges {f fmt rows A B C D : Nat} (hA : LocalOk A (if f = 0x0A then rows * rowLen fmt else 4 * (128 * rows)) 256)
    (hB : vopB f = true → LocalOk B (4 * (128 * rows)) 256) (hC : vopC f = true → LocalOk C (4 * (128 * rows)) 256)
    (hD : LocalOk D (if f = 0x0B then rows * rowLen fmt else 4 * (128 * rows)) 256) :
    ∀ r ∈ [(A, if f = 0x0A then rows * rowLen fmt else 4 * (128 * rows), 256)]
        ++ (if vopB f then [(B, 4 * (128 * rows), 256)] else []) ++ (if vopC f then [(C, 4 * (128 * rows), 256)] else [])
        ++ [(D, if f = 0x0B then rows * rowLen fmt else 4 * (128 * rows), 256)], LocalOk r.1 r.2.1 r.2.2 := by
  intro r hr
  simp only [List.mem_append, List.mem_ite_nil_right, List.mem_singleton] at hr
  rcases hr with ((rfl | ⟨h, rfl⟩) | ⟨h, rfl⟩) | rfl
  · exact hA
  · exact hB h
  · exact hC h
  · exact hD

/-- What VRED writes at D (R94). -/
def vredWord (x : KUnit) (max chain : Bool) (a d rows : Nat) : Nat :=
  vredVal max (if chain then some (wordAt x d 0) else none)
    ((List.range rows).map fun j => (List.range 128).map fun k => wordAt x a (128 * j + k))

theorem vecEffect_vred {u a d rows : Nat} {max chain : Bool} {x : KUnit} (y : KUnit) (t : State) :
    vecEffect u (.vred max chain a d rows) (setUnit u (withStore y x.store) t) =
      setUnit u (withStore y (memPuts x.store d (bytesOf 4 (vredWord x max chain a d rows)))) t := by
  simp only [vecEffect, vredEffect, getUnit_setUnit, lsRead_withStore, chunks_words32]
  exact lsPut_withStore

/-- The effect of a VOP: its bytes at D, and its count of saturations. -/
theorem vecEffect_vop {u f fmt rows a b c d : Nat} {x : KUnit} {l : List Byte} {g : State → State} (y : KUnit) (t : State)
    (bytes : vopBytes u f fmt (128 * rows) a b c (setUnit u (withStore y x.store) t) =
      (l, setUnit u (withStore y x.store) (g t))) :
    vecEffect u (.vop f fmt rows a b c d) (setUnit u (withStore y x.store) t) =
      setUnit u (withStore y (memPuts x.store d l)) (g t) := by
  rw [vecEffect, vopEffect, bytes]
  exact lsPut_withStore

/-- Settles O11: behind other operations the instruction joins the vector queue; on a free engine it writes its lanes, or
its reduction. -/
theorem vectorLanesComplete : Obligations.VectorLanesComplete := by
  intro u s a d rows1 x n word lv held put free waits room
  refine ⟨?vop, ?vred⟩
  case vop =>
    intro f b c fmt i B C autos bytes op ready auto okA okB okC okD
    have hwide : f.toNat = 0x0A ↔ f = 0x0A := BitVec.toNat_inj (x := f) (y := 0x0A)
    have hnarrow : f.toNat = 0x0B ↔ f = 0x0B := BitVec.toNat_inj (x := f) (y := 0x0B)
    have hfmt11 (h : fmt ≠ 11) : fmt.toNat ≠ 11 := mt (BitVec.toNat_inj (x := fmt) (y := 11)).1 h
    have hbytes : (rows1.toNat + 1) * rowLen fmt.toNat = bytes := rowLen_bytes _ _
    simp only [← hwide] at okA
    simp only [← hnarrow] at okD
    rw [← hbytes] at okA okD
    have ranges := vop_ranges okA okB okC okD
    have only : LocalOnly x op := ⟨List.append_nil _, rfl, rfl⟩
    have performs {l : List Byte} {g : State → State} (isFree : free op)
        (bytes : ∀ (y : KUnit) (t : State), vopBytes u.toNat f.toNat fmt.toNat n (ctrVal x a.toNat) (ctrVal x b.toNat)
          (ctrVal x c.toNat) (setUnit u.toNat (withStore y x.store) t) = (l, setUnit u.toNat (withStore y x.store) (g t))) :
        exec i s = .next (unitThen u.toNat (put op autos l) s (g (held op))) :=
      exec_vec_free rfl rfl rfl ready room ranges auto only (fun y t => vecEffect_vop y t (bytes y t)) isFree
    refine ⟨fun busy => ?_, fun isFree hw hn => ?_, fun isFree hf hfmt => ?_,
      fun isFree hf hfmt => ?_, fun isFree hf hfmt => ?_⟩
    · exact exec_vec_busy rfl rfl rfl ready room ranges auto busy
    · exact performs (g := id) isFree fun y t => vopBytes_lanes getUnit_setUnit (mt hwide.1 hw) (mt hnarrow.1 hn)
    · exact performs (g := id) isFree fun y t => vopBytes_widen getUnit_setUnit (hwide.2 hf) (hfmt11 hfmt)
    · exact performs isFree fun y t => vopBytes_narrow getUnit_setUnit (hnarrow.2 hf) (hfmt11 hfmt)
    · refine ⟨acc96Lanes x f.toNat n (ctrVal x a.toNat), acc96Lanes_length, ?_⟩
      have written := performs (g := id) isFree fun y t => vopBytes_acc96 getUnit_setUnit (hf.imp hwide.2 hnarrow.2)
        (congrArg BitVec.toNat hfmt)
      simpa only [hwide, id] using written
  case vred =>
    intro max chain i op row ready auto okA okD
    have ranges : ∀ r ∈ [(ctrVal x a.toNat, 512 * (rows1.toNat + 1), 256), (ctrVal x d.toNat, 4, 4)],
        LocalOk r.1 r.2.1 r.2.2 := by
      have hn : 4 * n = 512 * (rows1.toNat + 1) := by omega
      simpa [← hn] using ⟨okA, okD⟩
    have only : LocalOnly x op := ⟨List.append_nil _, rfl, rfl⟩
    refine ⟨fun busy => exec_vec_busy rfl rfl rfl ready room ranges auto busy, fun isFree => ?_⟩
    exact exec_vec_free (g := id) rfl rfl rfl ready room ranges auto only vecEffect_vred isFree

end Sys2Proof.Proofs

/-! PROOFS. VSMAX, VTOPK, VSAMPLE and VRAND: softmax, selection and keyed draws. -/
namespace Sys2Proof.Proofs
open Sys2Proof Machine Safety Laws

/-! ## What the softmax, selection and drawing units write (R97 to R101) -/

section
variable {u : Nat} {x : KUnit} (y : KUnit) (t : State)

/-- VSMAX writes its state, and then the exponentials. -/
theorem vecEffect_vsmax {sc st po n : Nat} {final : Bool} {r : Nat × Nat × Nat × List Nat}
    (hr : r = softmaxBlock (natOf (lsRead x st 4)) (natOf (lsRead x (st + 4) 4)) ((List.range n).map (wordAt x sc))) :
    vecEffect u (.vsmax sc st po n final) (setUnit u (withStore y x.store) t) =
      setUnit u (withStore y (memPuts (memPuts x.store st
        (wordBytes ([r.1, r.2.1, r.2.2.1] ++ (if final then [frecip r.2.1] else [])))) po (wordBytes r.2.2.2))) t := by
  simp only [vecEffect, vsmaxEffect, getUnit_setUnit, lsRead_withStore, words32_lsRead, lsPut_withStore, ← hr]

/-- VTOPK writes its working area, and in FINISH form the result. -/
theorem vecEffect_vtopk {a d w k rows : Nat} {first finish : Bool} {best : List Byte}
    (hbest : best = pairBytes (topk k (if first then [] else pairsOf (lsRead x w (8 * k)) k)
      (pairsOf (lsRead x a (1024 * rows)) (128 * rows)))) :
    vecEffect u (.vtopk a d w k rows first finish) (setUnit u (withStore y x.store) t) =
      setUnit u (withStore y (if finish then memPuts (memPuts x.store w best) d best else memPuts x.store w best)) t := by
  simp only [vecEffect, vtopkEffect, getUnit_setUnit, lsRead_withStore, lsPut_withStore, ← hbest]
  cases finish <;> rfl

/-- VSAMPLE writes the index it draws, and a degenerate draw is counted (R101). -/
theorem vecEffect_vsample {a d sd n tag draw : Nat} {r : Nat × Bool}
    (hr : r = sample ((List.range n).map (wordAt x a)) (uniform32 (keyedRandom (natOf (lsRead x sd 8)) tag draw 0))) :
    vecEffect u (.vsample a d sd n tag draw) (setUnit u (withStore y x.store) t) =
      setUnit u (withStore y (memPuts x.store d (bytesOf 4 r.1))) (if r.2 then bump (.samplerDegenerate u) 1 t else t) := by
  simp only [vecEffect, vsampleEffect, getUnit_setUnit, lsRead_withStore, words32_lsRead, lsPut_withStore, bump_setUnit,
    ← hr]
  split <;> rfl

/-- VRAND writes the uniform of every lane (R100). -/
theorem vecEffect_vrand {d sd tag draw rows : Nat} :
    vecEffect u (.vrand d sd tag draw rows) (setUnit u (withStore y x.store) t) =
      setUnit u (withStore y (memPuts x.store d (wordBytes ((List.range (128 * rows)).map fun lane =>
        uniform32 (keyedRandom (natOf (lsRead x sd 8)) tag draw lane))))) t := by
  simp only [vecEffect, vrandEffect, getUnit_setUnit, lsRead_withStore, lsPut_withStore]

end

/-- What VTOPK does once its operands are read. -/
theorem vtopkStep_eq {u a d w k0 rows0 k rows : Nat} {first finish p : Bool} {x : KUnit} {s : State} (hx : getUnit s u = x)
    (problem : p = true → x.problem.isSome = true) (hk : k = if p then pbTopk (x.problem.getD 0) else k0)
    (hrows : rows = if p then pbRows (x.problem.getD 0) else rows0) :
    vtopkStep u a d w k0 rows0 first finish p s =
      pushVec u (.vtopk (ctrVal x a) (ctrVal x d) (ctrVal x w) k rows first finish)
        ([(ctrVal x a, 1024 * rows, 256), (ctrVal x w, 8 * k, 256)] ++ (if finish then [(ctrVal x d, 8 * k, 256)] else []))
        ([a, w] ++ (if finish then [d] else [])) s := by
  simp only [vtopkStep, hx, not_noProblem problem, Bool.false_eq_true, if_false, ← hk, ← hrows]

/-- Settles O12: behind other operations the instruction joins the vector queue; on a free engine it has its effect. -/
theorem vectorUnitsComplete : Obligations.VectorUnitsComplete := by
  intro u s a d w x A D W words lv held put free waits room
  refine ⟨?vsmax, ?vtopk, ?vsample, ?vrand⟩
  case vsmax =>
    intro n1 final i n r out ready auto okA okW okD op
    have ranges : ∀ r ∈ [(A, 4 * n, 256), (W, if final then 16 else 12, 4), (D, 4 * n, 256)], LocalOk r.1 r.2.1 r.2.2 := by
      simpa using ⟨okA, okW, okD⟩
    have only : LocalOnly x op := ⟨List.append_nil _, rfl, rfl⟩
    refine ⟨exec_vec_busy rfl rfl rfl ready room ranges auto, fun isFree => ?_⟩
    have written := exec_vec_free (g := id) rfl rfl rfl ready room ranges auto only
      (fun y t => vecEffect_vsmax (r := r) y t rfl) isFree
    rw [lsWrite_lsWrite]
    exact written
  case vtopk =>
    intro k1 rows1 first finish p i r k rows best autos ready problem auto okA okW okD op
    have ranges : ∀ r ∈ [(A, 1024 * rows, 256), (W, 8 * k, 256)] ++ (if finish then [(D, 8 * k, 256)] else []),
        LocalOk r.1 r.2.1 r.2.2 := by
      cases finish
      · simpa using ⟨okA, okW⟩
      · simpa using ⟨okA, okW, okD rfl⟩
    have only : LocalOnly x op := ⟨List.append_nil _, rfl, rfl⟩
    have push := vtopkStep_eq (a := a.toNat) (d := d.toNat) (w := w.toNat) (first := first) (finish := finish) (hx := rfl)
      problem (k := k) (k0 := k1.toNat + 1) rfl (rows := rows) (rows0 := rows1.toNat + 1) rfl
    refine ⟨exec_vec_busy rfl rfl push ready room ranges auto, fun isFree => ?_⟩
    have written := exec_vec_free (g := id) rfl rfl push ready room ranges auto only
      (fun y t => vecEffect_vtopk (best := best) y t rfl) isFree
    simp only [lsWrite_eq_withStore]
    cases finish <;> exact written
  case vsample =>
    intro t n draw i c r ready auto okA okW okD op
    have ranges : ∀ r ∈ [(A, 4 * c, 256), (W, 8, 8), (D, 4, 4)], LocalOk r.1 r.2.1 r.2.2 := by
      simpa using ⟨okA, okW, okD⟩
    have only : LocalOnly x op := ⟨List.append_nil _, rfl, rfl⟩
    have hr : r = sample ((List.range c).map (wordAt x A))
        (uniform32 (keyedRandom (natOf (lsRead x W 8)) (ctrVal x t.toNat) draw.toNat 0)) := rfl
    refine ⟨exec_vec_busy rfl rfl rfl ready room ranges auto, fun isFree => ?_⟩
    rw [lsWrite_eq_withStore]
    exact exec_vec_free (g := fun t => if r.2 then bump (.samplerDegenerate u.toNat) 1 t else t) rfl rfl rfl ready room ranges
      auto only (fun y t => vecEffect_vsample y t hr) isFree
  case vrand =>
    intro t draw rows1 i n ready auto okW okD op
    have ranges : ∀ r ∈ [(W, 8, 8), (D, 512 * (rows1.toNat + 1), 256)], LocalOk r.1 r.2.1 r.2.2 := by
      have hn : 4 * n = 512 * (rows1.toNat + 1) := by omega
      simpa [← hn] using ⟨okW, okD⟩
    have only : LocalOnly x op := ⟨List.append_nil _, rfl, rfl⟩
    exact ⟨exec_vec_busy rfl rfl rfl ready room ranges auto,
      exec_vec_free (g := id) rfl rfl rfl ready room ranges auto only fun y t => vecEffect_vrand y t⟩

end Sys2Proof.Proofs

/-! PROOFS. A pass is checked, replayed after a mismatch, and committed once. -/
namespace Sys2Proof.Proofs
open Sys2Proof Machine Safety Laws

/-! ## The datapath log (R91) -/

/-- Records that a stack's log has room for are appended to it, and change nothing else. -/
theorem foldl_logRec_of_room {k : Nat} (l : List LogRec) (s : State) (room : (getStack s k).log.length + l.length ≤ 256) :
    ∃ tbl, l.foldl (fun s r => logRec k r s) s = { s with stackTbl := tbl } ∧
      (getStack { s with stackTbl := tbl } k).log = (getStack s k).log ++ l := by
  induction l generalizing s with
  | nil => exact ⟨s.stackTbl, rfl, (List.append_nil _).symm⟩
  | cons r l ih =>
    have hroom : (getStack s k).log.length < 256 := by simp only [List.length_cons] at room; omega
    have hlog : logRec k r s = setStack k { getStack s k with log := (getStack s k).log ++ [r] } s := by
      rw [logRec, if_pos hroom]
    obtain ⟨tbl, hfold, hentries⟩ := ih (logRec k r s) (by
      rw [hlog, getStack_setStack]
      simp only [List.length_append, List.length_cons, List.length_nil] at room ⊢
      omega)
    refine ⟨tbl, ?_, ?_⟩
    · rw [List.foldl_cons, hfold, hlog]
      rfl
    · rw [hlog, getStack_setStack] at hentries
      exact hentries.trans (by simp)

/-! ## The check of a pass (R84 to R90) -/

theorem mismatchSites_length_le (r : CheckRes) : (mismatchSites r).length ≤ 4 := by
  unfold mismatchSites
  split
  · simp
  · simp
  · simp

/-- Mismatches are counted at their sites, which may mark the unit for darning (R90). -/
theorem foldl_countSite (l : List (Nat × Nat)) (x : KUnit) :
    ∃ sites marked, l.foldl (fun x site => countSite site x) x = { x with sites := sites, marked := marked } := by
  induction l generalizing x with
  | nil => exact ⟨x.sites, x.marked, rfl⟩
  | cons a l ih =>
    obtain ⟨sites, marked, h⟩ := ih (countSite a x)
    exact ⟨sites, marked, h⟩

/-- Passes are told apart by their numbers, so that a change of those with one number is a change of the one. -/
theorem map_passes_of_unique {p : PassRec} {l : List PassRec} (unique : ∀ q ∈ l, q.seq = p.seq → q = p)
    (f : PassRec → PassRec) :
    (l.map fun q => if q.seq = p.seq then f q else q) = l.map fun q => if q.seq = p.seq then f p else q := by
  refine List.map_congr_left fun q hq => ?_
  split
  next h => rw [unique q hq h]
  next => rfl

section
variable {u : BitVec 9} {bufB : Bool} {s : State} {p : PassRec}

/-- The state in which the unchecked rows and columns of a pass have been counted (R85). -/
def countUnchecked (u : Nat) (r : CheckRes) (s : State) : State :=
  if r.unchecked = 0 then s else bump (.unchecked16 u) r.unchecked s

theorem getUnit_countUnchecked {u v : Nat} {r : CheckRes} {s : State} :
    getUnit (countUnchecked u r s) v = getUnit s v := by
  unfold countUnchecked
  split <;> rfl

theorem getStack_countUnchecked {u k : Nat} {r : CheckRes} {s : State} :
    getStack (countUnchecked u r s) k = getStack s k := by
  unfold countUnchecked
  split <;> rfl

variable (issued : (getUnit s u.toNat).passes.find? (fun p => p.bufB == bufB && p.st == .issued) = some p)
include issued

/-- The outcome of the pass of a buffer: its checks, and what comes of them. -/
theorem exec_passCheckOutcome :
    exec (.passCheckOutcome u bufB) s = .next (
      if (passCheck p).band.isNone && (passCheck p).cols.isEmpty then
        modUnit u.toNat (fun x =>
          { x with passes := x.passes.map fun q => if q.seq = p.seq then { q with st := .equal } else q })
          (countUnchecked u.toNat (passCheck p) s)
      else passFails u.toNat p (passCheck p) (countUnchecked u.toNat (passCheck p) s)) := by
  simp only [exec, execPassCheckOutcome, issued]
  rfl

end

theorem modUnit_setUnit {u : Nat} (f : KUnit → KUnit) (x : KUnit) (s : State) :
    modUnit u f (setUnit u x s) = setUnit u (f x) s := by
  rw [modUnit, getUnit_setUnit, setUnit_setUnit]

/-- A mismatch with attempts left: the sites are counted and logged, the pass is failed, and its replay is due (R87). -/
theorem passFails_replays {u : Nat} {p : PassRec} {r : CheckRes} {s : State} (left : p.attempts < 3)
    (room : (getStack s (unitStack u)).log.length < 253) :
    ∃ sites marked tbl, passFails u p r s = setUnit u { getUnit s u with
        sites := sites, marked := marked
        passes := (getUnit s u).passes.map fun q => if q.seq = p.seq then { q with st := .failed, entries := [] } else q }
        { bump (.droppedStitches u) 1 s with stackTbl := tbl } ∧
      (getStack { s with stackTbl := tbl } (unitStack u)).log.length =
        (getStack s (unitStack u)).log.length + (mismatchSites r).length := by
  obtain ⟨sites, marked, counted⟩ := foldl_countSite (mismatchSites r) (getUnit s u)
  have noHalt : decide (3 ≤ p.attempts) = false := decide_eq_false (Nat.not_le.2 left)
  simp only [passFails, noHalt, Bool.false_eq_true, if_false, counted]
  generalize hrecs : (mismatchSites r).map _ = recs
  have hlen : recs.length = (mismatchSites r).length := by rw [← hrecs, List.length_map]
  have four := mismatchSites_length_le r
  obtain ⟨tbl, logged, hentries⟩ := foldl_logRec_of_room (k := unitStack u) recs
    (bump (.droppedStitches u) 1 (setUnit u { getUnit s u with sites := sites, marked := marked } s))
    (by change (getStack s (unitStack u)).log.length + _ ≤ 256; omega)
  refine ⟨sites, marked, tbl, ?_, ?_⟩
  · rw [logged]
    exact modUnit_setUnit _ _ { bump (.droppedStitches u) 1 s with stackTbl := tbl }
  · exact (congrArg List.length hentries).trans (by rw [List.length_append, hlen]; rfl)

/-! ## The commit of a pass (R73, R74, R76) -/

/-- What a pass makes of the accumulator entry `old` by its own entry `e` (R41 to R46). -/
def commitEntry (p : PassRec) (e : PassEntry) (old : BitVec 96) : BitVec 96 :=
  if p.shape = 2 then BitVec.ofNat 96 (if p.add then fadd (old.toNat % 2 ^ 32) e.sum.toNat else e.sum.toNat)
  else if p.add then
    mkAcc (accSum old + toBits 88 e.sum.toInt) (combSpecial (accSpecial old) e.special.toNat) (accOvf old)
  else mkAcc (toBits 88 e.sum.toInt) e.special.toNat false

/-- The accumulator with the entries of a pass committed. -/
def committedAcc (p : PassRec) (acc : Tbl (BitVec 96)) : Tbl (BitVec 96) :=
  p.entries.foldl (fun t e => tset t e.1 (commitEntry p e.2 (tgetD t e.1 0))) acc

/-- The unit with a pass committed whose depth stays within the limit. -/
def committed (p : PassRec) (x : KUnit) : KUnit :=
  { x with
    acc := committedAcc p x.acc, accShape := BitVec.ofNat 4 p.shape
    depth := if p.shape = 2 then x.depth else if p.add then x.depth + BitVec.ofNat 32 (shapeK p.shape)
      else BitVec.ofNat 32 (shapeK p.shape)
    accFloat := isFloatOp p.afmt || p.shape == 2
    acc16 := p.shape == 2 }

theorem tget_eq_none {α : Type} {k : Nat} {t : Tbl α} (h : k ∉ t.map (·.1)) : tget t k = none := by
  induction t with
  | nil => rfl
  | cons e t ih =>
    rw [List.map_cons, List.mem_cons, not_or] at h
    rw [tget, if_neg h.1, ih h.2]

/-- A commit changes each entry once, from what it was before. -/
theorem tgetD_foldl_entries {α β : Type} {d : α} (f : β → α → α) {es : Tbl β} (nodup : (es.map (·.1)).Nodup)
    (t : Tbl α) (k : Nat) :
    tgetD (es.foldl (fun t e => tset t e.1 (f e.2 (tgetD t e.1 d))) t) k d =
      (tget es k).elim (tgetD t k d) fun e => f e (tgetD t k d) := by
  induction es generalizing t with
  | nil => rfl
  | cons e es ih =>
    obtain ⟨fresh, rest⟩ := List.nodup_cons.1 nodup
    rw [List.foldl_cons, ih rest, tget]
    by_cases hk : k = e.1
    · have absent : tget es e.1 = none := tget_eq_none fresh
      rw [if_pos hk, hk, absent, Option.elim_none, tgetD_tset_self, Option.elim_some]
    · rw [if_neg hk, tgetD_tset_ne hk]

theorem commitReplace_eq {u : Nat} {p : PassRec} {s : State} (replaces : p.add = false) :
    commitReplace u p s = setUnit u (committed p (getUnit s u)) s := by
  have entry (e : PassEntry) (old : BitVec 96) : commitEntry p e old =
      if p.shape = 2 then BitVec.ofNat 96 e.sum.toNat else mkAcc (toBits 88 e.sum.toInt) e.special.toNat false := by
    simp only [commitEntry, replaces, Bool.false_eq_true, if_false]
  simp only [commitReplace, committed, committedAcc, entry, replaces, Bool.false_eq_true, if_false]

theorem commitAdd_within {u : Nat} {p : PassRec} {s : State} (adds : p.add = true)
    (within : p.shape ≠ 2 → (getUnit s u).depth.toNat + shapeK p.shape ≤ if isFloatOp p.afmt then 2 ^ 20 else 2 ^ 24) :
    commitAdd u p s = setUnit u (committed p (getUnit s u)) s := by
  have entry (e : PassEntry) (old : BitVec 96) : commitEntry p e old =
      if p.shape = 2 then BitVec.ofNat 96 (fadd (old.toNat % 2 ^ 32) e.sum.toNat)
      else mkAcc (accSum old + toBits 88 e.sum.toInt) (combSpecial (accSpecial old) e.special.toNat) (accOvf old) := by
    simp only [commitEntry, adds, if_true]
  by_cases h : p.shape = 2
  · simp only [commitAdd, committed, committedAcc, entry, adds, if_true, if_pos h]
  · have float : (isFloatOp p.afmt || p.shape == 2) = isFloatOp p.afmt := by simp [h]
    simp only [commitAdd, committed, committedAcc, entry, adds, if_true, if_neg h, float]
    rw [addDepth_within (by exact within h)]

/-- A pass whose depth stays within the limit is committed. -/
theorem commit_within {u : Nat} {p : PassRec} {s : State}
    (within : p.shape ≠ 2 → p.add = true →
      (getUnit s u).depth.toNat + shapeK p.shape ≤ if isFloatOp p.afmt then 2 ^ 20 else 2 ^ 24) :
    (if p.add then commitAdd u p s else commitReplace u p s) = setUnit u (committed p (getUnit s u)) s := by
  cases h : p.add with
  | true => exact commitAdd_within h fun hshape => within hshape h
  | false => exact commitReplace_eq h

/-- Settles O17: the outcome is the checks' own, a replay is the pass issued anew, and a commit changes each entry once. -/
theorem passChecksReplaysAndCommits : Obligations.PassChecksReplaysAndCommits := by
  intro u bufB s p x become
  refine ⟨?check, ?replay, ?commit⟩
  case check =>
    intro issued unique r s1
    have outcome := exec_passCheckOutcome issued
    have hunit (v : Nat) : getUnit s1 v = getUnit s v := getUnit_countUnchecked
    refine ⟨fun hband hcols => ?_, fun mismatch left room => ?_⟩
    · have good : ((passCheck p).band.isNone && (passCheck p).cols.isEmpty) = true := by
        rw [show (passCheck p).band = none from hband, show (passCheck p).cols = [] from hcols]
        rfl
      rw [good, if_pos rfl, modUnit, getUnit_countUnchecked,
        map_passes_of_unique unique fun q => { q with st := .equal }] at outcome
      exact outcome
    · have bad : ((passCheck p).band.isNone && (passCheck p).cols.isEmpty) = false := by
        simpa [imp_iff_not_or] using mismatch
      obtain ⟨sites, marked, tbl, fails, logged⟩ := passFails_replays (r := r) (s := s1) left (by
        rw [show getStack s1 (unitStack u.toNat) = _ from getStack_countUnchecked]; exact room)
      rw [bad, if_neg Bool.false_ne_true] at outcome
      refine ⟨_, outcome.trans (congrArg Host.Outcome.next fails), rfl, ?_, fun v hv => ?_, ?_⟩
      · rw [getUnit_setUnit, hunit, map_passes_of_unique unique fun q => { q with st := .failed, entries := [] }]
      · rw [getUnit_setUnit_ne hv]
        exact hunit v
      · refine logged.trans ?_
        rw [show getStack s1 (unitStack u.toNat) = _ from getStack_countUnchecked]
  case replay =>
    intro ups ceiling failed unique q lv k
    refine congrArg (fun t => Host.Outcome.next (tally u.toNat s (t, []))) ?_
    simp only [replayStep, ceiling, Bool.false_eq_true, if_false]
    rw [show (getUnit s u.toNat).passes.find? (fun p => p.st == .failed) = some p from failed]
  case commit =>
    intro equal may nodrain within
    refine ⟨committedAcc p x.acc, congrArg (fun t => Host.Outcome.next (tally u.toNat s (t, []))) ?_, ?_⟩
    · simp only [commitStep]
      rw [show (getUnit s u.toNat).passes.find? (fun p => p.bufB == bufB && p.st == .equal) = some p from equal]
      simp only [show mayCommit (getUnit s u.toNat) p = true from may,
        show drainAhead (getUnit s u.toNat) p.seq = false from nodrain, Bool.not_true, Bool.or_self, Bool.false_eq_true,
        if_false, commit_within within, modUnit_setUnit]
      rfl
    · intro nodup k
      refine (tgetD_foldl_entries (commitEntry p) nodup x.acc k).trans ?_
      cases tget p.entries k <;> rfl

end Sys2Proof.Proofs

/-! PROOFS. SWATCH holds a READY panel; its tests mark failing units, substitute spares and restart the panel. -/
namespace Sys2Proof.Proofs
open Sys2Proof Machine Safety Laws

/-! ## A descriptor with its opcode set (R337) -/

theorem setFld_low_toNat {k : Nat} (v : Nat) (r : BitVec (8 + k)) :
    (setFld r 0 1 v).toNat = r.toNat / 256 * 256 + v % 256 := by
  have hlow : fld r 0 1 = r.toNat % 256 := by simp [fld, nbits]
  have hsize : 2 ^ (8 + k) = 256 * 2 ^ k := pow_add 2 8 k
  have hlt : r.toNat < 256 * 2 ^ k := hsize ▸ r.isLt
  rw [setFld, hlow, Nat.mul_zero, Nat.shiftLeft_zero, Nat.shiftLeft_zero, pow_one, BitVec.toNat_ofNat, hsize]
  generalize 2 ^ k = n at hlt ⊢
  rw [Nat.mod_eq_of_lt] <;> omega

theorem setFld_op_toNat (op : Nat) (d : Rec64) : (setFld d 0 1 op).toNat = d.toNat / 256 * 256 + op % 256 :=
  setFld_low_toNat (k := 504) op d

/-- The opcode of a descriptor is the one set. -/
theorem dOp_setFld {op : Nat} (hop : op < 256) (d : Rec64) : dOp (setFld d 0 1 op) = op := by
  rw [dOp, fld, nbits, setFld_op_toNat]
  simp only [Nat.mul_zero, Nat.shiftRight_zero]
  omega

/-- The other fields are as they were. -/
theorem fld_setFld_op {op k size : Nat} (d : Rec64) : fld (setFld d 0 1 op) (k + 1) size = fld d (k + 1) size := by
  have hdiv (n : Nat) : n >>> (8 * (k + 1)) = n / 256 / 2 ^ (8 * k) := by
    rw [Nat.shiftRight_eq_div_pow, Nat.mul_succ, Nat.add_comm, pow_add, Nat.div_div_eq_div_mul]
    rfl
  have hq : (d.toNat / 256 * 256 + op % 256) / 256 = d.toNat / 256 := by omega
  rw [fld, fld, nbits, nbits, setFld_op_toNat, hdiv, hdiv, hq]

/-! ## Taking an admin command (R335, R343) -/

/-- A command that nothing holds, and that reads no host memory when it is taken, begins counted and running. -/
theorem adminAs_taken {op : Nat} {d : Rec64} {s : State} (taken : Taken op d s)
    (quiet : ∀ t, (moveHeld t (setFld d 0 1 op) || hostWaits t (setFld d 0 1 op)) = false) :
    adminAs op d s = beginAdmin s.nextId (setFld d 0 1 op) (running op d s) := by
  obtain ⟨reads, nothing, -, checks, takes, -⟩ := taken
  generalize hd : setFld d 0 1 op = r at *
  have started : ∀ l, l = s.adminWait → { bump (.accepted 0) 1 { s with adminWait := s.adminWait ++ [r] } with
      nextId := s.nextId + 1, adminWait := l, admin := s.admin ++ [{ id := s.nextId, d := r }] } = running op d s := by
    rintro _ rfl
    rw [running, hd]
    rfl
  have waiting : (bump (.accepted 0) 1 { s with adminWait := s.adminWait ++ [r] }).adminWait = [r] := by
    rw [bump_adminWait, nothing, List.nil_append]
  have takesNow : adminTakes (bump (.accepted 0) 1 { s with adminWait := s.adminWait ++ [r] }) r = true := takes
  rw [adminAs, reads, if_pos rfl, hd, acceptAdmin, checks, ← started [] nothing.symm]
  simp only [retakeAll, waiting, List.length_cons, List.length_nil, retake, takesNow, Bool.not_true, Bool.false_or, quiet,
    Bool.false_eq_true, if_false]
  rfl

/-! ## SWATCH (R475, R476) -/

theorem modPanel_of_some {p : Nat} {f : Panel → Panel} {x : Panel} {s : State} (h : getPanel s p = some x) :
    modPanel p f s = setPanel p (f x) s := by
  rw [getPanel] at h
  rw [modPanel, h]

/-- A SWATCH of a READY panel with room for the report puts it under test. -/
theorem runSwatch_ready {id : Nat} {d : Rec64} {x : Panel} {s : State} (panel : getPanel s (dPanel d) = some x)
    (ready : x.st = .ready) (room : 64 + 16 * (panelUnits s (dPanel d)).length ≤ fld d 0x18 4) :
    runSwatch id d s = setPanel (dPanel d) { x with st := .casting, castCmd := some id, swatching := true } s := by
  have notReady : (x.st != .ready) = false := by simp [ready]
  simp only [runSwatch, panel, notReady, Bool.false_eq_true, if_false, if_neg (Nat.not_lt.2 room)]
  exact modPanel_of_some panel

/-- Settles O29: a taken SWATCH begins under test; the end of its tests restarts the panel where the spares suffice, and
tears it down where they do not. -/
theorem swatchCompletes : Obligations.SwatchCompletes := by
  intro s
  refine ⟨?begin, ?done⟩
  case begin =>
    intro d x p taken panel ready room
    have hop : dOp (setFld d 0 1 0x8F) = 0x8F := dOp_setFld (by decide) d
    have hp : dPanel (setFld d 0 1 0x8F) = p := fld_setFld_op (k := 7) d
    have hlen : fld (setFld d 0 1 0x8F) 0x18 4 = fld d 0x18 4 := fld_setFld_op (k := 0x17) d
    have quiet (t : State) : (moveHeld t (setFld d 0 1 0x8F) || hostWaits t (setFld d 0 1 0x8F)) = false := by
      simp [moveHeld, hostWaits, hop]
    refine congrArg Host.Outcome.next ((adminAs_taken taken quiet).trans ?_)
    simp only [beginAdmin, hop]
    rw [runSwatch_ready (x := x) (by rw [hp]; exact panel) ready (by rw [hp, hlen]; exact room), hp]
  case done =>
    intro panel fails x c cmd p us bad t hx casting swatching cast castCmd running op idle
    have panelIs : getPanel s panel.toNat = some x := hx
    have cmdIs : x.castCmd.bind (adminCmd s) = some cmd := by rw [castCmd, Option.bind_some, running]
    have swatch : (!x.swatching || dOp cmd.d != 0x8F) = false := by simp [swatching, dOp, op]
    have held : (x.st != .casting) = false := by simp [casting]
    have nothing : (slotsOf s panel.toNat [.prefill, .decode, .summarising]).isEmpty = true := List.isEmpty_iff.2 idle
    refine ⟨fun pl placed => ?_, fun unplaced => ?_⟩
    · simp only [t, bad, us, p] at placed
      simp only [exec, execSwatchTestsDone, panelIs, cast, cmdIs, swatch, held, nothing, Bool.not_true, Bool.false_eq_true,
        if_false, placed]
      rfl
    · simp only [t, bad, us, p] at unplaced
      simp only [exec, execSwatchTestsDone, panelIs, cast, cmdIs, swatch, held, nothing, Bool.not_true, Bool.false_eq_true,
        if_false, unplaced]
      rfl

end Sys2Proof.Proofs

/-! PROOFS. A store to a count beat reaches its work list, and a drained list takes its pending epoch (R165, R170). -/
namespace Sys2Proof.Proofs
open Sys2Proof Machine Safety Laws

/-- A list at the start of the epoch that a count word names (R170). -/
def newEpoch (w : BitVec 64) (x : WorkList) : WorkList :=
  { x with
    next := 0, count := BitVec.ofNat 24 w.toNat, final := w.getLsbD 31, epoch := BitVec.ofNat 16 (w.toNat / 2 ^ 32)
    parked := none }

/-- A state whose list has begun the epoch of a count word: the epoch is counted and the list's claims are woken. -/
def epochBegun (k : Nat) (x : WorkList) (w : BitVec 64) (s : State) : State :=
  wakeClaims k (bump (.epochs k) 1 { s with lists := tset s.lists k (newEpoch w x) })

/-- What a count word does to a list that has no epoch left to take: it is rejected, raises the list, begins its epoch
or is held (R165, R170). -/
def storeTaken (k : Nat) (w : BitVec 64) (x : WorkList) (s : State) : State :=
  let count := w.toNat % 2 ^ 24
  let bad := w.toNat / 2 ^ 24 % 2 ^ 7 ≠ 0 ∨ w.toNat / 2 ^ 48 ≠ 0
  let same := w.toNat / 2 ^ 32 % 2 ^ 16 = x.epoch.toNat
  let lower := count < x.count.toNat ∨ (x.final = true ∧ w.getLsbD 31 = false)
  if bad ∨ (same ∧ lower) then bump (.rejectedStores k) 1 s
  else if same then
    wakeClaims k { s with
      lists := tset s.lists k { x with count := BitVec.ofNat 24 count, final := x.final || w.getLsbD 31 } }
  else if x.drained then epochBegun k x w s
  else { (if x.parked.isSome then bump (.rejectedStores k) 1 s else s) with
    lists := tset s.lists k { x with parked := some w } }

section
variable {k : Nat} {s t : State} {x : WorkList} {w : BitVec 64}

theorem startEpoch_of_listed (listed : tget s.lists k = some x) : startEpoch k w s = epochBegun k x w s := by
  simp only [startEpoch, listed, nbit_testBit, BitVec.testBit_toNat, Nat.shiftRight_eq_div_pow]
  rfl

theorem applyParked_of_drained (listed : tget s.lists k = some x) (held : x.parked = some w) (drained : x.drained = true) :
    applyParked k s = epochBegun k x w s := by
  simp only [applyParked, listed, held, drained, if_true, startEpoch_of_listed listed]

theorem applyParked_of_quiet (listed : tget s.lists k = some x) (quiet : x.parked = none ∨ x.drained = false) :
    applyParked k s = s := by
  rcases quiet with free | busy
  · simp only [applyParked, listed, free]
  · cases held : x.parked <;> simp [applyParked, listed, held, busy]

/-- A store acts on the list as its pending epoch, where it takes one, leaves it. -/
theorem countStore_of_applyParked (taken : applyParked k s = t) (listed : tget t.lists k = some x) :
    countStore k w s = storeTaken k w x t := by
  simp only [countStore, taken, listed, startEpoch_of_listed listed, nbit_testBit, BitVec.testBit_toNat, nbits,
    Nat.shiftRight_eq_div_pow, pow_zero, Nat.div_one, Bool.or_eq_true, Bool.and_eq_true, bne_iff_ne, Bool.not_eq_true',
    decide_eq_true_eq, storeTaken]
  by_cases bad : w.toNat / 2 ^ 24 % 2 ^ 7 ≠ 0 ∨ w.toNat / 2 ^ 48 ≠ 0
  · rw [if_pos bad, if_pos (.inl bad)]
  rw [if_neg bad]
  by_cases same : w.toNat / 2 ^ 32 % 2 ^ 16 = x.epoch.toNat
  · rw [if_pos same, if_pos same]
    exact if_congr ⟨fun lower => .inr ⟨same, lower⟩, fun refused => (refused.resolve_left bad).2⟩ rfl rfl
  · rw [if_neg same, if_neg (not_or_intro bad (not_and_of_not_left _ same)), if_neg same]
    cases x.parked <;> rfl

theorem exec_countBeatStore {region : Bool} {i : BitVec 6} {l : BitVec 4}
    (listed : tget s.lists (listKey region i.toNat l.toNat) = some x) : exec (.countBeatStore region i l w) s =
      .next (countStore (listKey region i.toNat l.toNat) w (wr x.beat (bytesOf 8 w.toNat) s)) := by
  simp only [exec, execCountBeatStore, listed]

end

/-- Settles O6: a list with no epoch to take meets the store as it stands, a drained one that holds an epoch begins that
epoch first, and EPOCH_APPLY does the latter alone. -/
theorem workListStoresAndEpochs : Obligations.WorkListStoresAndEpochs := by
  intro s region i l x k c woken begun listed
  refine ⟨fun w => ⟨fun quiet => ?_, fun v y held drained listedY => ?_⟩, fun w held drained => ?_⟩
  · have stays := applyParked_of_quiet (s := wr x.beat (bytesOf 8 w.toNat) s) listed quiet
    exact (exec_countBeatStore listed).trans (congrArg _ (countStore_of_applyParked stays listed))
  · have begins := applyParked_of_drained (s := wr x.beat (bytesOf 8 w.toNat) s) listed held drained
    exact (exec_countBeatStore listed).trans (congrArg _ (countStore_of_applyParked begins listedY))
  · exact congrArg Host.Outcome.next (applyParked_of_drained listed held drained)

end Sys2Proof.Proofs

/-! PROOFS. An input loss turns the module off: what a start keeps of the state before it (R218, R432, R459). -/
namespace Sys2Proof.Proofs
open Sys2Proof Machine Safety Laws

/-! ## What writing out and freeing T3 leave as it was -/

/-- What a start keeps of the state, where the write buffers are written out and pages freed before it: the catalogue, the
fuses and boot flash, and the lasting counters. -/
structure Spared (s t : State) : Prop where
  catalogue : t.catalogue = s.catalogue
  nv : t.nv = s.nv
  ctrs : keptCtrs t = keptCtrs s

theorem Spared.refl (s : State) : Spared s s := ⟨rfl, rfl, rfl⟩

theorem Spared.trans {s t u : State} (h : Spared s t) (k : Spared t u) : Spared s u :=
  ⟨k.catalogue.trans h.catalogue, k.nv.trans h.nv, k.ctrs.trans h.ctrs⟩

theorem Spared.foldl {α : Type} {f : State → α → State} (step : ∀ s x, Spared s (f s x)) (l : List α) (s : State) :
    Spared s (l.foldl f s) := by
  induction l generalizing s with
  | nil => exact Spared.refl s
  | cons x l ih => exact (step s x).trans (ih _)

/-- Raising a counter that does not last leaves the lasting ones. -/
theorem filter_lasting_ctrAdd {c : Ctr} (passing : c.lasting = false) (n : Nat) :
    ∀ l : List (Ctr × Nat), (ctrAdd l c n).filter (·.1.lasting) = l.filter (·.1.lasting)
  | [] => by simp [ctrAdd, passing]
  | (k, v) :: l => by
    unfold ctrAdd
    split
    next same => simp [same, passing]
    next => simp [List.filter_cons, filter_lasting_ctrAdd passing n l]

theorem bump_spared {c : Ctr} (passing : c.lasting = false) (n : Nat) (s : State) : Spared s (bump c n s) :=
  ⟨rfl, rfl, filter_lasting_ctrAdd passing n s.ctrs⟩

/-- The write of a buffer keeps what a start keeps, and the bytes of memory. -/
structure Flushed (s t : State) : Prop extends Spared s t where
  mem : t.mem = s.mem

theorem Flushed.refl (s : State) : Flushed s s := ⟨Spared.refl s, rfl⟩

theorem Flushed.trans {s t u : State} (h : Flushed s t) (k : Flushed t u) : Flushed s u :=
  ⟨h.toSpared.trans k.toSpared, k.mem.trans h.mem⟩

theorem Flushed.foldl {α : Type} {f : State → α → State} (step : ∀ s x, Flushed s (f s x)) (l : List α) (s : State) :
    Flushed s (l.foldl f s) := by
  induction l generalizing s with
  | nil => exact Flushed.refl s
  | cons x l ih => exact (step s x).trans (ih _)

theorem modT3_flushed (st : Nat) (f : T3Stack → T3Stack) (s : State) : Flushed s (modT3 st f s) := ⟨⟨rfl, rfl, rfl⟩, rfl⟩

theorem sendMsix_flushed (vec : Nat) (s : State) : Flushed s (sendMsix vec s) := by
  unfold sendMsix
  split
  · exact Flushed.refl s
  split
  · exact ⟨⟨rfl, rfl, rfl⟩, rfl⟩
  split
  · have counted : Spared s (bump .msixMessages 1 s) := bump_spared rfl 1 s
    exact ⟨⟨rfl, rfl, counted.ctrs⟩, rfl⟩
  split
  · exact ⟨⟨rfl, rfl, rfl⟩, rfl⟩
  · exact Flushed.refl s

theorem raiseCause_flushed (bit : Nat) (s : State) : Flushed s (raiseCause bit s) := by
  unfold raiseCause
  dsimp only
  split
  · exact Flushed.refl s
  split
  · exact Flushed.trans (t := { s with irq := { s.irq with cause := s.irq.cause ||| BitVec.ofNat 6 (2 ^ bit) } })
      ⟨⟨rfl, rfl, rfl⟩, rfl⟩ (sendMsix_flushed _ _)
  · exact ⟨⟨rfl, rfl, rfl⟩, rfl⟩

theorem setT3State_flushed (st v : Nat) (s : State) : Flushed s (setT3State st v s) := by
  unfold setT3State
  split
  · exact Flushed.refl s
  · exact (modT3_flushed st _ s).trans (raiseCause_flushed 1 _)

theorem retireBlock_flushed (st key : Nat) (s : State) : Flushed s (retireBlock st key s) := by
  have counted (f : T3Stack → T3Stack) : Flushed s (bump (.retiredBlocks st) 1 (modT3 st f s)) :=
    (modT3_flushed st f s).trans ⟨bump_spared rfl 1 _, rfl⟩
  unfold retireBlock
  dsimp only
  split
  · exact Flushed.refl s
  split
  · exact (counted _).trans (setT3State_flushed st _ _)
  · exact counted _

theorem eraseBlock_flushed (st key : Nat) (ok : Bool) (s : State) : Flushed s (eraseBlock st key ok s) := by
  unfold eraseBlock
  dsimp only
  split
  · exact retireBlock_flushed st key s
  split
  · exact (modT3_flushed st _ s).trans (retireBlock_flushed st key _)
  · exact modT3_flushed st _ s

theorem cleanBlock_flushed (st key : Nat) (ok : Bool) (s : State) : Flushed s (cleanBlock st key ok s) := by
  unfold cleanBlock
  split
  · exact Flushed.refl s
  · exact eraseBlock_flushed st key ok s

theorem flushBlock_flushed (st : Nat) (s : State) : Flushed s (flushBlock st s) := by
  unfold flushBlock
  dsimp only
  split
  · exact Flushed.refl s
  next ch key _ =>
    split
    · exact cleanBlock_flushed st key true s
    · exact (cleanBlock_flushed st key true s).trans (modT3_flushed st _ _)

theorem flushBuffer_flushed (st : Nat) : ∀ (fuel : Nat) (s : State), Flushed s (flushBuffer st fuel s)
  | 0, s => Flushed.refl s
  | n + 1, s => by
    unfold flushBuffer
    split
    · exact Flushed.refl s
    · exact (flushBlock_flushed st s).trans (flushBuffer_flushed st n _)

theorem flushBuffers_flushed (s : State) : Flushed s (flushBuffers s) :=
  Flushed.foldl (fun s st => flushBuffer_flushed st _ s) _ s

theorem freePieces_spared (e : CatEntry) (s : State) : Spared s (freePieces e s) := by
  unfold freePieces
  refine Spared.foldl (fun _ _ => ?_) _ s
  exact ⟨rfl, rfl, rfl⟩

/-! ## What a start leaves -/

/-- Leaving out the bytes below an address leaves the reads from there on. -/
theorem memGet_filter_ge {b a : Nat} (h : b ≤ a) : ∀ m : Mem, memGet (m.filter fun c => b ≤ c.1) a = memGet m a
  | [] => rfl
  | (k, v) :: m => by
    have ih := memGet_filter_ge h m
    by_cases kept : b ≤ k
    · simp [memGet, kept, ih]
    · have hne : a ≠ k := by omega
      have hge : ¬ a < k := by omega
      simp [memGet, kept, ih, hne, hge]

/-- No range that is left begins below the end of the ranges taken away from 0 on. -/
theorem rangeDel_zero_ge {hi : Nat} : ∀ l : List (Nat × Nat), ∀ r ∈ rangeDel l 0 hi, hi ≤ r.1
  | [], r, hr => absurd hr List.not_mem_nil
  | (a, b) :: l, r, hr => by
    have ih := rangeDel_zero_ge (hi := hi) l r
    rw [rangeDel, Nat.min_zero, if_neg (Nat.not_lt_zero a), List.nil_append, List.mem_append] at hr
    rcases hr with hr | hr
    · split at hr
      · rw [List.mem_singleton.1 hr]
        exact Nat.le_max_right a hi
      · exact absurd hr List.not_mem_nil
    · exact ih hr

theorem rangeAny_rangeDel_zero (l : List (Nat × Nat)) (hi : Nat) : rangeAny (rangeDel l 0 hi) 0 hi = false := by
  simp only [rangeAny, List.any_eq_false, decide_eq_true_eq]
  intro r hr
  have := rangeDel_zero_ge l r hr
  omega

/-- The state that a start takes its parts from: the buffers written out, and the pages of entries not yet valid free. -/
@[irreducible] def beforeStart (s : State) : State :=
  ((flushBuffers s).catalogue.filter (!·.valid)).foldl (fun s e => freePieces e s) (flushBuffers s)

theorem beforeStart_spared (s : State) : Spared s (beforeStart s) := by
  unfold beforeStart
  exact (flushBuffers_flushed s).toSpared.trans (Spared.foldl (fun s e => freePieces_spared e s) _ _)

/-- With no entry that is not yet valid, memory is as it was. -/
theorem beforeStart_mem {s : State} (valid : ∀ e ∈ s.catalogue, e.valid = true) : (beforeStart s).mem = s.mem := by
  have flushed := flushBuffers_flushed s
  unfold beforeStart
  generalize flushBuffers s = t at flushed ⊢
  have noneLeft : t.catalogue.filter (!·.valid) = [] := by
    rw [flushed.catalogue]
    simpa using valid
  rw [noneLeft]
  exact flushed.mem

/-- A start makes a new state of the parts it keeps. -/
theorem restart_eq (s : State) : ∃ (x : Tbl Stack) (h : HostFn) (m : Mbx), restart s = { 
    pending := (beforeStart s).pending
    freeCtr := (beforeStart s).freeCtr
    nextId := (beforeStart s).nextId
    mem := (beforeStart s).mem.filter fun c => t3Base ≤ c.1
    home := rangeDel (beforeStart s).home 0 (t3Base / 4096)
    stackTbl := x
    catalogue := ((beforeStart s).catalogue.filter (·.valid)).map fun e => { e with staged := [] }
    host := h
    outbox := (beforeStart s).outbox
    mbx := m
    nv := (beforeStart s).nv
    ctrs := keptCtrs (beforeStart s) } := by
  unfold restart beforeStart
  exact ⟨_, _, _, rfl⟩

theorem restart_nv (s : State) : (restart s).nv = s.nv := by
  obtain ⟨x, h, m, eq⟩ := restart_eq s
  rw [eq]
  exact (beforeStart_spared s).nv

theorem restart_restarted (s : State) : Restarted s (restart s) := by
  obtain ⟨x, h, m, eq⟩ := restart_eq s
  rw [eq]
  have spared := beforeStart_spared s
  refine ⟨⟨rfl, rfl, rfl, rfl, rfl, rfl, rfl, rfl, rfl, rfl, rfl, rfl, rfl, rfl, rfl, rfl, rfl⟩, fun c hc => ?low,
    rangeAny_rangeDel_zero _ _, fun valid a ha => ?read, ?catalogue, spared.ctrs⟩
  case low => exact of_decide_eq_true (List.mem_filter.1 hc).2
  case read =>
    have kept : memGet ((beforeStart s).mem.filter fun c => t3Base ≤ c.1) (a + 0) = memGet s.mem (a + 0) := by
      rw [memGet_filter_ge (Nat.le_add_right_of_le ha), beforeStart_mem valid]
    simp only [rd, memGets, List.range_one, List.map_cons, List.map_nil, kept]
  case catalogue =>
    exact congrArg (fun l : List CatEntry => (l.filter (·.valid)).map fun e => { e with staged := [] }) spared.catalogue

/-! ## An input loss (R431 to R434, R468) -/

/-- The fuses and boot flash after a loss: a bank that was being written is spoilt (R468). -/
def lossNv (s : State) : NonVolatile := if s.boot.updImg.isSome then (writeOther spoiltBank s).nv else s.nv

theorem writeOther_eq (i : FwImage) (s : State) : writeOther i s = { s with
    nv := if s.boot.bank then { s.nv with bankA := i } else { s.nv with bankB := i } } := by
  unfold writeOther
  split <;> rfl

theorem lossNv_bump_power (c : Ctr) (n : Nat) (p : Power) (s : State) :
    lossNv (bump c n { s with power := p }) = lossNv s := by
  unfold lossNv
  rw [writeOther_eq, writeOther_eq]
  rfl

/-- What the circuit of the input power keeps when it turns the module off for a cause (R432, R433). -/
def offPower (cause : OffCause) (p : Power) : Power :=
  { on := false, pwrgd := false, present := p.present, off := some cause, overCurrents := p.overCurrents
    latched := p.latched, offAt := p.clock, openAt := p.openAt, clock := p.clock, busMv := 0 }

theorem inputLoss_eq (cause : OffCause) (s : State) :
    inputLoss cause s = { restart { s with nv := lossNv s } with power := offPower cause s.power } := by
  unfold inputLoss lossNv
  cases s.boot.updImg with
  | none => rfl
  | some i => simp only [Option.isSome_some, if_true, writeOther_eq, offPower]

/-- An input loss turns the module off for its cause: `p` is the power circuit when the loss is found, `c` its counter. -/
theorem inputLoss_turnedOff (cause : OffCause) (c : Ctr) (p : Power) (s : State) :
    TurnedOff cause c p s (inputLoss cause (bump c 1 { s with power := p })) := by
  have restarted : Restarted (bump c 1 s) _ :=
    restart_restarted { bump c 1 { s with power := p } with nv := lossNv (bump c 1 { s with power := p }) }
  have nv := restart_nv { bump c 1 { s with power := p } with nv := lossNv (bump c 1 { s with power := p }) }
  rw [inputLoss_eq]
  generalize restart { bump c 1 { s with power := p } with nv := lossNv (bump c 1 { s with power := p }) } = r at *
  exact ⟨restarted, rfl, nv.trans (lossNv_bump_power c 1 p s)⟩

theorem inputLoss_turnedOff_same (cause : OffCause) (c : Ctr) (s : State) :
    TurnedOff cause c s.power s (inputLoss cause (bump c 1 s)) :=
  inputLoss_turnedOff cause c s.power s

/-- Settles O42: a reading past its limit is an input loss, and one within it changes nothing. -/
theorem inputLossesTurnTheModuleOff : Obligations.InputLossesTurnTheModuleOff := by
  intro s on
  refine ⟨fun mv us => ⟨fun low long => ?under, fun within => ?underWithin, fun high => ?above, fun within => ?overWithin⟩,
    fun ma us => ⟨fun high => ?current, fun within => ?currentWithin⟩, ?presence,
    fun c us => ⟨fun hot long => ?trip, fun within => ?tripWithin⟩⟩
  case under =>
    exact ⟨_, by simp only [exec, execUnderVoltage, on, low, long, decide_true, Bool.and_self, if_true, lossCtr],
      inputLoss_turnedOff_same .underVoltage (.inputLoss 0) s⟩
  case underWithin =>
    exact congrArg Host.Outcome.next (if_neg (by simp; omega))
  case above =>
    exact ⟨_, by simp only [exec, execOverVoltage, on, high, decide_true, Bool.and_self, if_true, lossCtr],
      inputLoss_turnedOff_same .overVoltage (.inputLoss 1) s⟩
  case overWithin =>
    exact congrArg Host.Outcome.next (if_neg (by simp; omega))
  case current =>
    intro l
    have past : (s.power.on && (decide (150000 < ma) || (decide (110000 < ma) && decide (100 ≤ us)))) = true := by
      simpa [on] using high
    refine ⟨_, ?_, inputLoss_turnedOff .overCurrent (.inputLoss 2) _ s⟩
    simp only [exec, execOverCurrent, past, if_true, lossCtr, l]
  case currentWithin =>
    exact congrArg Host.Outcome.next (if_neg (by simp; omega))
  case presence =>
    obtain ⟨restarted, power, nv⟩ := inputLoss_turnedOff .presence (.inputLoss 3) { s.power with
      present := false, qualifying := false, openAt := if s.power.present then s.power.clock else s.power.openAt } s
    refine ⟨_, ?_, restarted, power, nv⟩
    simp only [exec, execPresenceOpen, on, if_true, lossCtr]
  case trip =>
    exact ⟨_, by simp only [exec, execThermalTrip, on, hot, long, decide_true, Bool.and_self, if_true],
      inputLoss_turnedOff_same .trip .trips s⟩
  case tripWithin =>
    exact congrArg Host.Outcome.next (if_neg (by simp; omega))

end Sys2Proof.Proofs

/-! PROOFS. An admin command with its descriptor in order begins, and ends with its completion due (R335, R343, R348). -/
namespace Sys2Proof.Proofs
open Sys2Proof Machine Safety Laws

/-! ## An admin command begins and ends -/

section
variable {op : Nat} {d : Rec64} {s t : State}

/-- A taken command begins, counted and running: what reads its ring can read its data too. -/
theorem adminAs_begins (taken : Taken op d s) :
    adminAs op d s = beginAdmin s.nextId (setFld d 0 1 op) (running op d s) := by
  obtain ⟨reads, nothing, -, checks, takes, free⟩ := taken
  have live : hostLive s = true := (Bool.and_eq_true _ _ ▸ reads : _ ∧ _).1
  generalize hd : setFld d 0 1 op = r at *
  have started : ∀ l, l = s.adminWait → { bump (.accepted 0) 1 { s with adminWait := s.adminWait ++ [r] } with
      nextId := s.nextId + 1, adminWait := l, admin := s.admin ++ [{ id := s.nextId, d := r }] } = running op d s := by
    rintro _ rfl
    rw [running, hd]
    rfl
  have waiting : (bump (.accepted 0) 1 { s with adminWait := s.adminWait ++ [r] }).adminWait = [r] := by
    rw [bump_adminWait, nothing, List.nil_append]
  have takesNow : adminTakes (bump (.accepted 0) 1 { s with adminWait := s.adminWait ++ [r] }) r = true := takes
  have freeNow : moveHeld (bump (.accepted 0) 1 { s with adminWait := s.adminWait ++ [r] }) r = false := free
  have liveNow : hostWaits (bump (.accepted 0) 1 { s with adminWait := s.adminWait ++ [r] }) r = false := by
    have : hostLive (bump (.accepted 0) 1 { s with adminWait := s.adminWait ++ [r] }) = true := live
    rw [hostWaits, this]
    rfl
  rw [adminAs, reads, if_pos rfl, hd, acceptAdmin, checks, ← started [] nothing.symm]
  simp only [retakeAll, waiting, List.length_cons, List.length_nil, retake, takesNow, freeNow, liveNow, Bool.not_true,
    Bool.or_self, Bool.false_eq_true, if_false]
  rfl

/-- The checked fields of a taken command are in their ranges (R338). -/
theorem adminFieldsOk_of_taken (taken : Taken op d s) : adminFieldsOk (setFld d 0 1 op) = true := by
  obtain ⟨-, -, -, checks, -⟩ := taken
  unfold adminCheck at checks
  split at checks
  · cases checks
  split at checks
  · cases checks
  split at checks
  next ok => exact (Bool.and_eq_true _ _ ▸ ok : _ ∧ _).2
  · cases checks

/-- The running command is found by its identifier. -/
theorem adminCmd_of_running (fresh : (s.admin.all fun c => c.id != s.nextId) = true)
    (same : t.admin = s.admin ++ [{ id := s.nextId, d := setFld d 0 1 op }]) :
    adminCmd t s.nextId = some { id := s.nextId, d := setFld d 0 1 op } := by
  have others : ∀ c ∈ s.admin, c.id ≠ s.nextId := by simpa using fresh
  rw [adminCmd, same, List.find?_append, List.find?_eq_none.2 fun c hc => by simpa using others c hc]
  simp

/-- The running command ends: its completion is due, and it runs no longer. -/
theorem adminDone_ended {status result : Nat} (hop : op < 256) (fresh : (s.admin.all fun c => c.id != s.nextId) = true)
    (same : t.admin = s.admin ++ [{ id := s.nextId, d := setFld d 0 1 op }]) :
    adminDone s.nextId status result t = ended op d status result s t := by
  have others : ∀ c ∈ s.admin, c.id ≠ s.nextId := by simpa using fresh
  have found : t.admin.find? (·.id == s.nextId) = some { id := s.nextId, d := setFld d 0 1 op } :=
    adminCmd_of_running fresh same
  have left : t.admin.filter (·.id != s.nextId) = s.admin := by
    rw [same, List.filter_append, List.filter_eq_self.2 fun c hc => by simpa using others c hc]
    simp
  have hopcode : fld (setFld d 0 1 op) 0 1 = op := dOp_setFld hop d
  have hreq : fld (setFld d 0 1 op) 4 4 = fld d 4 4 := fld_setFld_op (k := 3) d
  simp only [adminDone, found, left, Bool.false_eq_true, if_false, pushAdmin, pushPlain, hopcode, hreq, ended]

end

/-! ## Panels (R299, R344, R345) -/

section
variable {op : Nat} {d : Rec64} {s : State}

theorem dPanel_setFld : dPanel (setFld d 0 1 op) = fld d 8 1 := fld_setFld_op (k := 7) d

theorem dFlags_setFld : dFlags (setFld d 0 1 op) = fld d 2 2 := fld_setFld_op (k := 1) d

/-- A panel of a free number, on resources that are in service and that no panel owns, is made. -/
theorem runPanelCreate_free {id p : Nat} (number : dPanel d = p) (low : p < 16) (free : (getPanel s p).isNone = true)
    (clusters : fld d 0x10 8 ≠ 0)
    (apart : ∀ q ∈ s.panels, q.2.clusters.toNat &&& fld d 0x10 8 = 0 ∧ q.2.groups.toNat &&& fld d 0x18 3 = 0 ∧
      q.2.ways.toNat &&& fld d 0x1C 8 = 0)
    (service : s.boot.groupsOut.toNat &&& fld d 0x18 3 = 0) (pair : s.ply.st = .unbound ∨ fld d 0x18 3 = 0) :
    runPanelCreate id d s = adminDone id stDone p (setPanel p
      { gen := (dFlags d).testBit 0, clusters := BitVec.ofNat 64 (fld d 0x10 8), groups := BitVec.ofNat 24 (fld d 0x18 3)
        ways := BitVec.ofNat 64 (fld d 0x1C 8) } s) := by
  have unowned : (s.panels.any fun q => q.2.clusters.toNat &&& fld d 0x10 8 != 0 || q.2.groups.toNat &&& fld d 0x18 3 != 0
      || q.2.ways.toNat &&& fld d 0x1C 8 != 0) = false := by
    rw [List.any_eq_false]
    intro q hq
    obtain ⟨hc, hg, hw⟩ := apart q hq
    simp [hc, hg, hw]
  have unmirrored : (s.ply.st != .unbound && (maskBits 24 (fld d 0x18 3)).any (groupMirrors s)) = false := by
    rcases pair with unbound | noGroup
    · simp [unbound]
    · have noBits : maskBits 24 0 = [] := by decide
      simp [noGroup, noBits]
  have free' : (getPanel s p).isSome = false := by simpa using free
  have good : (decide (15 < p) || (getPanel s p).isSome || fld d 0x10 8 == 0
      || (s.panels.any fun q => q.2.clusters.toNat &&& fld d 0x10 8 != 0 || q.2.groups.toNat &&& fld d 0x18 3 != 0
        || q.2.ways.toNat &&& fld d 0x1C 8 != 0)
      || s.boot.groupsOut.toNat &&& fld d 0x18 3 != 0
      || (s.ply.st != .unbound && (maskBits 24 (fld d 0x18 3)).any (groupMirrors s))) = false := by
    rw [unowned, unmirrored, free']
    simp [clusters, service]
    omega
  unfold runPanelCreate
  rw [number]
  simp only [good, Bool.false_eq_true, if_false, nbit_testBit]

/-- An EMPTY panel that the pair does not own is removed, with its cache lines and the fallbacks that name it. -/
theorem runPanelDestroy_empty {id p : Nat} {x : Panel} (number : dPanel d = p) (panel : getPanel s p = some x)
    (empty : x.st = .empty) (pair : s.ply.st = .unbound ∨ s.ply.owner ≠ some p) :
    runPanelDestroy id d s = adminDone id stDone 0 (clearFallbacks p
      (cacheDrop (fun st c => nbit x.ways.toNat (16 * st + c.way)) { s with panels := tdel s.panels p })) := by
  have unowned : (s.ply.st != .unbound && s.ply.owner == some p) = false := by
    rcases pair with unbound | other
    · simp [unbound]
    · simp [other]
  simp only [runPanelDestroy, number, panel, empty, unowned, bne_self_eq_false, Bool.or_self, Bool.false_eq_true, if_false]

end

theorem modPanel_admin (p : Nat) (f : Panel → Panel) (s : State) : (modPanel p f s).admin = s.admin := by
  unfold modPanel
  split <;> rfl

/-! ## Pins of the host (R203) -/

theorem foldl_setHostPins_admin (f : State → Nat → Nat) (ks : List Nat) (s : State) :
    (ks.foldl (fun s k => setHostPins k (f s k) s) s).admin = s.admin := by
  induction ks generalizing s with
  | nil => rfl
  | cons k ks ih => exact ih _

theorem pinRange_setFld {op : Nat} (d : Rec64) : pinRange (setFld d 0 1 op) = pinRange d := by
  have addr : fld (setFld d 0 1 op) 0x10 8 = fld d 0x10 8 := fld_setFld_op (k := 0xF) d
  have len : fld (setFld d 0 1 op) 0x18 8 = fld d 0x18 8 := fld_setFld_op (k := 0x17) d
  simp only [pinRange, addr, len]

/-! ## The schedule (R294, R295) -/

/-- A legal schedule runs now, or from the next boundary beside a running one; legal stop sets are stored. -/
theorem applySched_eq (y : Schedule) (t : State) : applySched y t =
    let new := if y.entries = [] then none else some y
    if t.sched.isSome then { t with schedNext := some new }
    else if y.entries = [] then t else { t with sched := some y, schedStart := t.now, schedNext := none } := by
  unfold applySched
  cases t.sched <;> cases y.entries <;> rfl

theorem applySched_admin (y : Schedule) (t : State) : (applySched y t).admin = t.admin := by
  rw [applySched_eq]
  dsimp only
  split
  · rfl
  split <;> rfl

theorem putSched_admin (d : Rec64) (x : Option Schedule) (b : List Byte) (t : State) :
    (putSched d x b t).admin = t.admin := by
  unfold putSched
  cases x with
  | none => dsimp only; split <;> rfl
  | some y => dsimp only; rw [applySched_admin]; split <;> rfl

theorem schedulePeriodBoundary_ends {x : Schedule} {s : State} (runs : s.sched = some x)
    (due : s.schedStart.toNat + x.period ≤ s.now.toNat) :
    exec .schedulePeriodBoundary s = .next (
      let t := { s with schedStart := BitVec.ofNat 64 (s.schedStart.toNat + x.period) }
      match s.schedNext with
      | some y => { t with sched := y, schedNext := none }
      | none => t) := by
  have notBefore : ¬ s.us < s.schedStart.toNat + x.period := Nat.not_lt.2 due
  simp only [exec, execSchedulePeriodBoundary, runs, notBefore, if_false] <;> cases s.schedNext <;> rfl

/-- Settles O25: each command begins by its descriptor's fields, has its effect and ends; a MOVE runs on, and a period ends
by itself. -/
theorem panelAndPoolCommandsComplete : Obligations.PanelAndPoolCommandsComplete := by
  intro d s p
  refine ⟨?create, ?destroy, ?move, fun ks range => ⟨?pin, ?unpin⟩, ?fallback, ?load,
    fun x runs due => schedulePeriodBoundary_ends runs due⟩
  case create =>
    intro taken free clusters apart service pair
    have fields := adminFieldsOk_of_taken taken
    have begins := adminAs_begins taken
    obtain ⟨-, -, fresh, -⟩ := taken
    have hop : dOp (setFld d 0 1 0x81) = 0x81 := dOp_setFld (by decide) d
    have hcl : fld (setFld d 0 1 0x81) 0x10 8 = fld d 0x10 8 := fld_setFld_op (k := 0xF) d
    have hgr : fld (setFld d 0 1 0x81) 0x18 3 = fld d 0x18 3 := fld_setFld_op (k := 0x17) d
    have hwy : fld (setFld d 0 1 0x81) 0x1C 8 = fld d 0x1C 8 := fld_setFld_op (k := 0x1B) d
    have low : p < 16 := by
      simp only [adminFieldsOk, hop, dPanel_setFld, Bool.and_eq_true, decide_eq_true_eq] at fields
      exact fields.1
    refine congrArg Host.Outcome.next (begins.trans ?_)
    simp only [beginAdmin, hop]
    rw [← hcl] at clusters
    rw [← hgr] at service pair
    rw [runPanelCreate_free (s := running 0x81 d s) (p := p) dPanel_setFld low free clusters
      (by rw [hcl, hgr, hwy]; exact apart) service pair, hcl, hgr, hwy, dFlags_setFld]
    exact adminDone_ended (by decide) fresh rfl
  case destroy =>
    intro x taken panel empty pair t
    have begins := adminAs_begins taken
    obtain ⟨-, -, fresh, -⟩ := taken
    have hop : dOp (setFld d 0 1 0x82) = 0x82 := dOp_setFld (by decide) d
    refine congrArg Host.Outcome.next (begins.trans ?_)
    simp only [beginAdmin, hop]
    rw [runPanelDestroy_empty (s := running 0x82 d s) (p := p) dPanel_setFld panel empty pair]
    simp only [nbit_testBit]
    exact adminDone_ended (by decide) fresh rfl
  case move =>
    intro m taken good legal
    have begins := adminAs_begins taken
    obtain ⟨-, -, fresh, -⟩ := taken
    have hop : dOp (setFld d 0 1 0x88) = 0x88 := dOp_setFld (by decide) d
    have haddr : fld (setFld d 0 1 0x88) 0x10 8 = fld d 0x10 8 := fld_setFld_op (k := 0xF) d
    refine congrArg Host.Outcome.next (begins.trans ?_)
    have kept : (adminCmd (running 0x88 d s) s.nextId).any (·.discard) = false := by
      rw [adminCmd_of_running fresh rfl]
      rfl
    have bytes : hostRead (fld d 0x10 8) 64 (running 0x88 d s) = (some (rd s (hostBase + fld d 0x10 8) 64), running 0x88 d s) :=
      hostRead_good good
    have legalNow : moveOk (running 0x88 d s) m = true := legal
    simp only [beginAdmin, hop, runMove, haddr, adminRead, kept, bytes, Bool.false_eq_true, if_false]
    rw [if_pos legalNow]
    rfl
  case pin =>
    intro taken home below
    have begins := adminAs_begins taken
    obtain ⟨-, -, fresh, -⟩ := taken
    have hop : dOp (setFld d 0 1 0x89) = 0x89 := dOp_setFld (by decide) d
    have haddr : fld (setFld d 0 1 0x89) 0x10 8 = fld d 0x10 8 := fld_setFld_op (k := 0xF) d
    have hlen : fld (setFld d 0 1 0x89) 0x18 8 = fld d 0x18 8 := fld_setFld_op (k := 0x17) d
    have canPin : (homeAll (running 0x89 d s) (fld d 0x10 8) (fld d 0x18 8) &&
        ks.all fun k => hostPins (running 0x89 d s) k < 254) = true := by
      have homeNow : homeAll (running 0x89 d s) (fld d 0x10 8) (fld d 0x18 8) = true := home
      rw [homeNow, Bool.true_and, List.all_eq_true]
      exact fun k hk => decide_eq_true (below k hk).2
    refine congrArg Host.Outcome.next (begins.trans ?_)
    simp only [beginAdmin, hop, runPin, pinRange_setFld, range, haddr, hlen, canPin, if_true]
    exact adminDone_ended (by decide) fresh (foldl_setHostPins_admin _ _ _)
  case unpin =>
    intro taken pinned
    have begins := adminAs_begins taken
    obtain ⟨-, -, fresh, -⟩ := taken
    have hop : dOp (setFld d 0 1 0x8A) = 0x8A := dOp_setFld (by decide) d
    have canUnpin : (ks.all fun k => 0 < hostPins (running 0x8A d s) k) = true := by
      rw [List.all_eq_true]
      exact fun k hk => decide_eq_true (pinned k hk)
    refine congrArg Host.Outcome.next (begins.trans ?_)
    simp only [beginAdmin, hop, runUnpin, pinRange_setFld, range, canUnpin, if_true]
    exact adminDone_ended (by decide) fresh (foldl_setHostPins_admin _ _ _)
  case fallback =>
    intro taken panel other named
    have begins := adminAs_begins taken
    obtain ⟨-, -, fresh, -⟩ := taken
    have hop : dOp (setFld d 0 1 0x92) = 0x92 := dOp_setFld (by decide) d
    have hf : fld (setFld d 0 1 0x92) 9 1 = fld d 9 1 := fld_setFld_op (k := 8) d
    have hm : fld (setFld d 0 1 0x92) 0xC 4 = fld d 0xC 4 := fld_setFld_op (k := 0xB) d
    refine congrArg Host.Outcome.next (begins.trans ?_)
    have good : ¬ ((getPanel (running 0x92 d s) p).isNone || decide (fld d 9 1 = p)
        || (fld d 9 1 != 0xFF && !fallbackOk (running 0x92 d s) (fld d 9 1))) = true := by
      have present : (getPanel (running 0x92 d s) p).isNone = false := by
        have here : (getPanel (running 0x92 d s) p).isSome = true := panel
        simpa using here
      have differs : decide (fld d 9 1 = p) = false := decide_eq_false other
      rw [present, differs]
      rcases named with none | ok
      · simp [none]
      · have okNow : fallbackOk (running 0x92 d s) (fld d 9 1) = true := ok
        simp [okNow]
    simp only [beginAdmin, hop, runSetFallback, dPanel_setFld, hf, hm]
    rw [if_neg good]
    exact adminDone_ended (by decide) fresh (modPanel_admin _ _ _)
  case load =>
    intro x b taken sched stops t
    have begins := adminAs_begins taken
    obtain ⟨-, -, fresh, -⟩ := taken
    have hop : dOp (setFld d 0 1 0x8B) = 0x8B := dOp_setFld (by decide) d
    have hplace : fld (setFld d 0 1 0x8B) 8 2 = fld d 8 2 := fld_setFld_op (k := 7) d
    refine congrArg Host.Outcome.next (begins.trans ?_)
    simp only [beginAdmin, hop, runSchedLoad, sched, stops]
    rw [adminDone_ended (by decide) fresh (putSched_admin _ _ _ _)]
    refine congrArg (ended 0x8B d 0 0 s) ?_
    simp only [putSched, dFlags_setFld, hplace, nbit_testBit]
    cases x with
    | none => rfl
    | some y =>
      have sameSched : t.sched = s.sched := by simp only [t]; split <;> rfl
      have sameNow : t.now = s.now := by simp only [t]; split <;> rfl
      refine (applySched_eq y t).trans ?_
      dsimp only
      rw [sameSched, sameNow]

end Sys2Proof.Proofs

/-! PROOFS. The end of a mount sends a HEALTH notice, which changes more than the translation layer (R471, R374). -/
namespace Sys2Proof.Proofs
open Sys2Proof Machine Safety Laws

/-- Stack 0 mounts its translation layer, management core 0 is on and the rack is off. -/
def mountingState : State :=
  { stackTbl := [(0, { t3 := { st := 1 } })], mbx := { off := [mRack] } }

/-- The end of that mount sends a HEALTH notice to the rack, which drops it and counts it (R371, R374). -/
theorem mountingState_drops_notice :
    outcomeCtrs (exec (.t3MountDone 0 true) mountingState) = [(.droppedReplies 16, 1)] := by decide +kernel

/-- Refutes O21: where management core 0 is on, the end of a mount sends a HEALTH notice (R371, R374), and the state that the
statement gives for T3_MOUNT_DONE has sent none. With the rack's domain off the notice is dropped and counted. -/
theorem not_flashLayerCompletes : ¬ Obligations.FlashLayerCompletes := by
  intro h
  obtain ⟨-, -, -, mount⟩ := h mountingState 0
  have counted := mountingState_drops_notice.symm.trans (congrArg outcomeCtrs (mount rfl))
  exact absurd counted (by decide +kernel)

end Sys2Proof.Proofs

/-! PROOFS. A recovery with a retained copy, the epoch boundary of the pool, and the eviction for a short reserve (R199, R200,
R208). -/
namespace Sys2Proof.Proofs
open Sys2Proof Machine Safety Laws

/-! ## The retained copy (R208, R209) -/

theorem putBytes_units (a : Nat) (l : List Byte) (s : State) : (putBytes a l s).units = s.units := by
  unfold putBytes
  split <;> rfl

/-- Bytes put in an area leave the units. -/
theorem areaPut_units (c : Cast) (id off : Nat) (l : List Byte) (s : State) : (areaPut c id off l s).units = s.units := by
  unfold areaPut
  generalize hankPieces (l.length / hankBytes + 2) off l.length = ps
  induction ps generalizing l s with
  | nil => rfl
  | cons p ps ih =>
    rw [List.foldl_cons, ih]
    dsimp only
    split
    · exact putBytes_units _ _ _
    · rfl

/-- A tile of a unit's segments that begins at an address has that address. -/
theorem segTileAt_addr {x : KUnit} {c : Cast} {a : Nat} {y : TilePlace} (h : segTileAt x c a = some y) : y.addr c = a := by
  obtain ⟨e, -, he⟩ := List.exists_of_findSome?_eq_some h
  split at he
  · cases he
  next t _ =>
    obtain ⟨i, hi, rfl⟩ := Option.map_eq_some_iff.1 he
    have begins := List.find?_some hi
    rw [beq_iff_eq] at begins
    rw [TilePlace.addr, areaAddrD, segTile, begins]
    rfl

/-- A tile that passes once the retained copy is written over it is recovered. -/
theorem recoverBy_retained {c : Cast} {y : TilePlace} {peer : List (Nat × List Byte)} {v : Nat × Rec64 × List Byte} {s : State}
    (retained : findRetained s (y.addr c) = some v) (passes : y.ok (rewriteTile c y v.2.1 v.2.2 s) c = true) :
    recoverBy c y peer s = (true, rewriteTile c y v.2.1 v.2.2 s) := by
  simp only [recoverBy, retained, passes, if_true]

theorem exec_reRequest_tile {u : BitVec 9} {addr : BitVec 52} {peer : List (Nat × List Byte)} {p : Nat} {c : Cast}
    {y : TilePlace} {s : State} (panel : panelOf s u.toNat = some p) (cast : getCast s p = some c)
    (recovers : (getUnit s u.toNat).recover = some addr.toNat)
    (tile : segTileAt (getUnit s u.toNat) c addr.toNat = some y) :
    exec (.reRequest u addr peer) s = .next (recoverTile u.toNat p c y peer s) := by
  simp only [exec, execReRequest, panel, Option.bind_some, cast, recovers, bne_self_eq_false, Bool.false_eq_true, if_false,
    tile, Option.some_or]

/-! ## The epoch boundary (R199, R226) -/

theorem sweepPool_of_none_free {p : Nat} {s : State} (h : ∀ c, getCast s p = some c → freePoolHanks c = []) :
    sweepPool p s = s := by
  unfold sweepPool
  cases hc : getCast s p with
  | none => rfl
  | some c => simp only [h c hc, List.foldl_nil]

theorem foldl_sweepPool_of_none_free {s : State} :
    ∀ l : List Nat, (∀ p ∈ l, ∀ c, getCast s p = some c → freePoolHanks c = []) → l.foldl (fun s p => sweepPool p s) s = s
  | [], _ => rfl
  | p :: l, h => by
    rw [List.foldl_cons, sweepPool_of_none_free (h p List.mem_cons_self)]
    exact foldl_sweepPool_of_none_free l fun q hq => h q (List.mem_cons_of_mem _ hq)

/-- A due boundary ages the hanks, and frees what the panels' pools hold wholly free. -/
theorem exec_poolEpochBoundary_due {s : State} (due : s.nextEpoch ≤ s.now.toNat) :
    exec .poolEpochBoundary s = .next ((s.panels.map (·.1)).foldl (fun s p => sweepPool p s) { s with
      nextEpoch := s.nextEpoch + s.epochUs.toNat
      hanks := tmap s.hanks fun _ h => { h with age := BitVec.ofNat 16 (min 65535 (h.age.toNat + 1)) } }) := by
  have saturates (n : Nat) : satAdd 16 n 1 = min 65535 (n + 1) := by
    unfold satAdd
    split <;> omega
  simp only [exec, execPoolEpochBoundary, if_neg (Nat.not_lt.2 due), saturates]

/-- The one free page hank of the only panel's pool is freed, and its pool-table entry cleared. -/
theorem sweepPool_one {p : Nat} {x : Panel} {c : Cast} {e : Nat × Nat} {s : State} (one : s.panels = [(p, x)])
    (cast : x.cast = some c) (free : freePoolHanks c = [e]) (t2 : tierOf e.2 = 2) :
    sweepPool p s = { s with
      panels := [(p, { x with cast := some { c with
        poolHanks := tdel c.poolHanks e.1, lostPages := c.lostPages.filter fun pg => pg / 32 != e.1 } })]
      mem := memPuts s.mem (c.dirBase + 16384 * 256 + 8 * e.1) (bytesOf 8 0)
      hanks := tdel s.hanks (hankOf e.2)
      home := rangeDel s.home (pageLo (hankAddr (hankOf e.2))) (pageHi (hankAddr (hankOf e.2)) hankBytes) } := by
  have here : getCast s p = some c := by simp [getCast, one, tget, cast]
  have notZero : e.2 ≠ 0 := by
    intro zero
    rw [zero] at t2
    exact absurd t2 (by decide)
  have dropped : modCast p (dropPoolHank e.1) s = { s with panels := [(p, { x with cast := some (dropPoolHank e.1 c) })] } := by
    simp [modCast, modPanel, one, tget, setPanel, tset, cast]
  simp only [sweepPool, here, free, List.foldl_cons, List.foldl_nil, dropped, freeAt, t2, notZero, if_false]
  rfl

/-! ## The victim of a short reserve (R200) -/

/-- A hank that is allocated changes, and another stays free. -/
theorem modHank_eq (k : Nat) (f : Hank → Hank) (s : State) : modHank k f s = { s with
    hanks := match tget s.hanks k with
      | some h => tset s.hanks k (f h)
      | none => s.hanks } := by
  unfold modHank
  cases tget s.hanks k <;> rfl

theorem submitEvict_eq (k : Nat) (s : State) : submitEvict k s = { s with
    nextId := s.nextId + 1
    hanks := match tget s.hanks k with
      | some h => tset s.hanks k { h with transit := true }
      | none => s.hanks
    moves := s.moves ++ [{ id := s.nextId, stack := hankStack k, kind := 1, alloc := true, pin := false, tag := 0,
                           panel := ((tget s.hanks k).bind (·.owner)).getD 0xFF, dtier := if k < 768 then 2 else 3,
                           src := hankAddr k, dst := 0, len := hankBytes, peer := 0, by_ := .evict k, pool := true }] } :=
  modHank_eq k _ _

/-- The better of a victim so far and an allocated hank: the older one, and of equal ages the one before (R200). -/
def older (best : Option (Nat × Nat)) (kh : Nat × Hank) : Option (Nat × Nat) :=
  match best with
  | none => some (kh.1, kh.2.age.toNat)
  | some (k, a) => if a < kh.2.age.toNat then some (kh.1, kh.2.age.toNat) else some (k, a)

theorem older_key (best : Option (Nat × Nat)) (kh : Nat × Hank) :
    (older best kh).map (·.1) = some kh.1 ∨ older best kh = best := by
  unfold older
  split
  · exact .inl rfl
  split
  · exact .inl rfl
  · exact .inr rfl

/-- The victim of a search is the one it began with, or a hank of the list. -/
theorem foldl_older_key {k : Nat} : ∀ {l : List (Nat × Hank)} {best : Option (Nat × Nat)},
    (l.foldl older best).map (·.1) = some k → best.map (·.1) = some k ∨ ∃ kh ∈ l, kh.1 = k
  | [], _, h => .inl h
  | kh :: l, best, h => by
    rcases foldl_older_key (l := l) h with found | ⟨e, he, rfl⟩
    · rcases older_key best kh with takes | stays
      · exact .inr ⟨kh, List.mem_cons_self, Option.some.inj (takes.symm.trans found)⟩
      · exact .inl (stays ▸ found)
    · exact .inr ⟨e, List.mem_cons_of_mem _ he, rfl⟩

/-- A victim is a hank that its search allows. -/
theorem oldestOf_allowed {s : State} {f : Nat → Hank → Bool} {k : Nat} (h : oldestOf s f = some k) : ∃ x, f k x = true := by
  have h' : ((s.hanks.filter fun kh => pinsOf s kh.1 == 0 && !kh.2.transit && f kh.1 kh.2).foldl older none).map (·.1) =
      some k := h
  rcases foldl_older_key h' with none | ⟨kh, hkh, rfl⟩
  · cases none
  · have allowed := (List.mem_filter.1 hkh).2
    rw [Bool.and_eq_true] at allowed
    exact ⟨kh.2, allowed.2⟩

theorem mem_upto {a n i : Nat} : i ∈ upto a n ↔ a ≤ i ∧ i < a + n := by
  simp only [upto, List.mem_map, List.mem_range]
  constructor
  · rintro ⟨j, hj, rfl⟩
    omega
  · rintro ⟨lo, hi⟩
    exact ⟨i - a, by omega, by omega⟩

theorem findSome?_upto_eq_none {β : Type} {f : Nat → Option β} {lo n : Nat}
    (all : ∀ q, lo ≤ q → q < lo + n → f q = none) : (upto lo n).findSome? f = none :=
  List.findSome?_eq_none_iff.2 fun q hq => all q (mem_upto.1 hq).1 (mem_upto.1 hq).2

/-- A search of a run of numbers answers with the first number that has an answer. -/
theorem findSome?_upto_eq_some {β : Type} {f : Nat → Option β} {lo n r : Nat} {b : β} (low : lo ≤ r) (high : r < lo + n)
    (before : ∀ q, lo ≤ q → q < r → f q = none) (answers : f r = some b) : (upto lo n).findSome? f = some b := by
  have cut : upto lo n = upto lo (r - lo) ++ r :: upto (r + 1) (lo + n - (r + 1)) := by
    have split : lo + n - lo = (r - lo) + ((lo + n - (r + 1)) + 1) := by omega
    have next : lo + (r - lo) = r := by omega
    simp only [upto, ← List.range'_eq_map_range]
    rw [← Nat.add_sub_cancel_left lo n, split, ← List.range'_append_1, next, List.range'_succ]
    congr 3
    omega
  rw [cut, List.findSome?_append, findSome?_upto_eq_none fun q hlo hhi => before q hlo (by omega), List.findSome?_cons, answers]
  rfl

/-- The search of the T1 regions of a stack, and that of the owners of its T2 hanks (R200). -/
theorem reserveVictim_eq (s : State) (st : Nat) : reserveVictim s st =
    ((upto (4 * st) 4).findSome? fun r =>
      if shortRegion s r then oldestOf s fun k _ => k < 768 && k / 48 == r else none).or
    ((stackOwners s st).findSome? fun o =>
      if freeT2 s st o < 64 then
        (oldestOf s fun k _ => 768 ≤ k && hankGroup k / 6 == st && groupOwner s (hankGroup k) == o).filter (canEvict s)
      else none) := rfl

/-- Settles O20: the retained copy passes where it is written; a due boundary sweeps each pool; and the victim is the first
that the search of the reserves finds. -/
theorem recoveryAndPoolComplete : Obligations.RecoveryAndPoolComplete := by
  intro s
  refine ⟨?recovery, ?epoch, ?evict⟩
  case recovery =>
    intro u addr p c area off t i v peer a y w panel cast recovers tile retained quiet passes beats
    have hy : y.addr c = a := segTileAt_addr tile
    have rewritten : rewriteTile c y v.2.1 v.2.2 s = w := by rw [rewriteTile, hy]; rfl
    have ok : y.ok w c = true := by
      rw [TilePlace.ok]
      simp only [y, segTile] at passes beats ⊢
      rw [passes, beats]
      simp
    have recovered := recoverBy_retained (peer := peer) (hy ▸ retained) (rewritten ▸ ok)
    have sameUnit : getUnit w u.toNat = getUnit s u.toNat := by
      rw [getUnit, getUnit, areaPut_units, areaPut_units]
      rfl
    rw [exec_reRequest_tile panel cast recovers tile]
    simp only [recoverTile, quiet, recovered, rewritten, modUnit, sameUnit]
  case epoch =>
    intro aged due
    refine ⟨fun early => ?_, fun due none_free => ?_, fun p x c e due one cast free t2 => ?_⟩
    · simp only [exec, execPoolEpochBoundary, if_pos (Nat.lt_of_not_le early)]
    · refine (exec_poolEpochBoundary_due due).trans (congrArg _ (foldl_sweepPool_of_none_free _ fun p hp d hd => ?_))
      obtain ⟨q, hq, rfl⟩ := List.mem_map.1 hp
      exact none_free q hq d hd
    · refine (exec_poolEpochBoundary_due due).trans (congrArg _ ?_)
      rw [one, List.map_cons, List.map_nil, List.foldl_cons, List.foldl_nil]
      exact sweepPool_one rfl cast free t2
  case evict =>
    intro st k evict t1 t2 takes noT1
    have evicts (victim : reserveVictim s st.toNat = some k) : exec (.backgroundEviction st) s = .next evict := by
      simp only [exec, execBackgroundEviction, victim]
      exact congrArg _ (submitEvict_eq k s)
    refine ⟨fun r low high short oldest before => evicts ?_, fun o before after before1 owners short oldest can before2 =>
      evicts ?_⟩
    · rw [reserveVictim_eq, findSome?_upto_eq_some low high (fun q lo hi => ?_) (by rw [if_pos short]; exact oldest)]
      · rfl
      · split
        next shortQ => exact before q lo hi shortQ
        · rfl
    · rw [reserveVictim_eq, findSome?_upto_eq_none fun q lo hi => ?_, owners, List.findSome?_append]
      · have passed : ∀ q ∈ before, (if freeT2 s st.toNat q < 64 then (t2 q).filter (canEvict s) else none) = none := by
          intro q hq
          split
          next shortQ =>
            rw [Option.filter_eq_none_iff]
            intro j hj
            have notTaken := before2 q hq shortQ j hj
            obtain ⟨x, inT2⟩ := oldestOf_allowed hj
            simp only [Bool.and_eq_true, decide_eq_true_eq] at inT2
            obtain ⟨⟨inT2, -⟩, -⟩ := inT2
            simpa [canEvict, takes, Nat.not_lt.2 inT2] using notTaken
          · rfl
        have victim : (t2 o).filter (canEvict s) = some k := by
          obtain ⟨writable, room⟩ := can
          rw [oldest, Option.filter_eq_some_iff]
          refine ⟨rfl, ?_⟩
          rw [canEvict, writable, room]
          simp
        rw [List.findSome?_eq_none_iff.2 passed, List.findSome?_cons, if_pos short, victim]
        rfl
      · split
        next shortQ => exact before1 q lo hi shortQ
        · rfl

end Sys2Proof.Proofs

/-! PROOFS. A move that ends with a page lost copies nothing (R196, R211). -/
namespace Sys2Proof.Proofs
open Sys2Proof Machine Safety Laws

/-! ## A running move with a lost page (R194, R211) -/

/-- A running move of one page inside T1, none of whose pages is left to recover, and page 8 of which was lost. -/
def lostMove : MoveRec :=
  { id := 0, stack := 0, kind := 1, alloc := false, pin := false, tag := 0, panel := 0xFF, dtier := 0
    src := 0x8000, dst := 0x200000, len := 4096, peer := 0, by_ := .deploy 0, pool := false, placed := true
    running := true, lost := [8] }

/-- That move runs alone, and the first byte of its source is 1. -/
def lostMoveState : State := { moves := [lostMove], mem := [(0x8000, 1)], home := [(8, 9)] }

/-- The memory that an outcome leaves. -/
def outcomeMem : Result → Mem
  | .next t => t.mem
  | _ => []

/-- Its end update loses the move: the byte is not copied (R211). -/
theorem lostMove_copies_nothing :
    outcomeMem (exec (.moveEndUpdate 0 { id := 0, corrected := 0, peers := [] }) lostMoveState) = [(0x8000, 1)] := by
  decide +kernel

/-- The copy would have taken the byte to the destination. -/
theorem lostMove_copied : memClear (memCopy lostMoveState.mem lostMove.src lostMove.dst lostMove.len) lostMove.src lostMove.len =
    [(0x200000, 1)] := by decide +kernel

/-- Refutes O19: the statement asks of MOVE_END_UPDATE that no page of the move is left to recover, and not that none was
lost; a move with a lost page ends with DATA_LOST and copies nothing (R196, R211). -/
theorem not_movesCompleteStepByStep : ¬ Obligations.MovesCompleteStepByStep := by
  intro h
  obtain ⟨-, -, ends⟩ := h lostMoveState
  obtain ⟨t, next, copied, -⟩ := ends 0 { id := 0, corrected := 0, peers := [] } lostMove (by decide +kernel) rfl rfl rfl rfl
    (.inl (by decide)) (.inl (by decide)) (fun c other => Submitter.noConfusion other) rfl (fun pool => Bool.noConfusion pool)
    (fun p none => absurd none List.not_mem_nil)
  have stays : [(0x8000, 1)] = t.mem := lostMove_copies_nothing.symm.trans (congrArg outcomeMem next)
  have differs : ([(0x8000, 1)] : Mem) ≠ [(0x200000, 1)] := by decide
  exact differs (stays.trans (copied.trans lostMove_copied))

end Sys2Proof.Proofs

/-! PROOFS. Service messages of fetches, reads, resends and mailbox words on a port that is up (R390, R393 to R396). -/
namespace Sys2Proof.Proofs
open Sys2Proof Machine Safety Laws

/-! ## A message that has arrived (R393, R416) -/

/-- A good message of its operation, on a port that is up and no fenced lifeline, acts. -/
theorem svcCmd_acts {p op : Nat} {m : Rec64} {f : State → State} {s : State} (up : (getPort s p).st = .up)
    (open_ : p = 15 → s.ply.fenced = false) (ok : svcOk p m = true) (hop : fld m 0 1 = op) : svcCmd p op m f s = f s := by
  have reaches : ((getPort s p).st != .up || (decide (p = 15) && s.ply.fenced)) = false := by
    rw [up, bne_self_eq_false, Bool.false_or]
    by_cases lifeline : p = 15
    · simp [open_ lifeline]
    · simp [lifeline]
  simp only [svcCmd, reaches, ok, hop, Bool.not_true, Bool.false_eq_true, if_false, if_true]

/-! ## The serving side (R394) -/

/-- Why a FETCH_REQ of ranges `rs`, found for `no`, is refused; 0 when it is served. -/
def fetchReason (no : Nat) (rs : List (Nat × Nat)) (media : Bool) (s : State) : Nat :=
  let t3 := rs.filter fun r => tierOf r.1 = 3
  if no ≠ 0 then no else if t3.any (fun r => !t3Readable s (stackOf r.1)) then 2
    else if 32 ≤ serving s then 3 else if media && !t3.isEmpty then 5 else 0

/-- A FETCH_REQ is answered with the data of its ranges, or refused with its reason. -/
theorem serveFetch_eq (p : Nat) (m : Rec64) (media : Bool) (s : State) :
    let src := fetchSource s (fld m 4 8) (fld m 0x10 8) (fld m 0x18 8)
    let reason := fetchReason src.1 src.2 media s
    let read := src.2.foldl (fun s r => cacheLooks none r.1 r.2 (countT3Reads r.1 r.2 s)) (bump (.fetchServed p) 1 s)
    serveFetch p m media s = if reason = 0 then
        sendService p (serviceHdr 2 0 (fld m 2 2) 0 0 (fld m 0x18 8)) (src.2.flatMap fun r => rd s r.1 r.2)
          (modPort p (fun x => { x with served := x.served ++ [x.txq.length + 1 + cdiv (fld m 0x18 8) 256] }) read)
      else sendService p (serviceHdr 3 reason (fld m 2 2) 0 0 0) [] (bump (.fetchRefused p) 1 s) := by
  intro src reason read
  simp only [serveFetch, bne_iff_ne]
  rfl

/-! ## The requesting side (R394 to R396) -/

section
variable {p : Nat} {m : Rec64} {f : Fetch} {bytes : List Byte} {s : State}

theorem gotFetchData_of_fetchOf (asked : fetchOf s p m false = some f) : gotFetchData p m bytes s =
    if bytes.length = f.len ∧ fld m 0x18 8 = f.len then pumpFetches (fetchBytes f bytes (dropFetch f s))
    else bump (.serviceErrors p) 1 s := by
  simp only [gotFetchData, asked, Bool.and_eq_true, decide_eq_true_eq]

theorem gotFetchRefuse_of_fetchOf (asked : fetchOf s p m false = some f) : gotFetchRefuse p m s =
    if fld m 1 1 = 3 ∧ f.retries < 100 then setFetch f { f with retries := f.retries + 1, busyAt := some s.now.toNat } s
    else pumpFetches (loseFetch f s) := by
  simp only [gotFetchRefuse, asked, Bool.and_eq_true, decide_eq_true_eq]
  rfl

theorem gotReadData_of_fetchOf (asked : fetchOf s p m true = some f) : gotReadData p m bytes s =
    if bytes.length = f.len ∧ fld m 0x18 8 = f.len ∧ f.data = false then
      setFetch f { f with data := true } (fetchBytes f bytes s)
    else bump (.serviceErrors p) 1 s := by
  simp only [gotReadData, asked, Bool.and_eq_true, decide_eq_true_eq, Bool.not_eq_true', and_assoc]

theorem gotReadStatus_of_fetchOf (asked : fetchOf s p m true = some f) : gotReadStatus p m s = pumpFetches (
    if fld m 1 1 = 0 ∧ f.data = true then dropFetch f s else loseFetch f s) := by
  simp only [gotReadStatus, asked, Bool.and_eq_true, decide_eq_true_eq]

/-- 1 ms after a BUSY answer the request is sent again. -/
theorem exec_fetchBusyRetry_due {port : Fin 18} {tag : BitVec 16} {t : Nat}
    (waits : (s.links.fetches.find? fun f => f.sent && f.port == port.val && f.tag == tag && f.busyAt.isSome) = some f)
    (since : f.busyAt = some t) (due : t + 1000 ≤ s.now.toNat) : exec (.fetchBusyRetry port tag) s =
      .next (sendService f.port (fetchMsg f) [] (setFetch f { f with busyAt := none } s)) := by
  have dueNow : t + 1000 ≤ s.us := due
  simp only [exec, execFetchBusyRetry, waits, since, Option.any_some, dueNow, decide_true, if_true]

/-! ## Resends (R210, R390) -/

/-- The only unit's only output strand keeps the tile that a RESEND_REQ names. -/
theorem gotResend_of_kept {u o : Nat} {x : KUnit} {out : OutStrand} {t : SentTile}
    (noRoute : ∀ q ∈ s.links.ports, ∀ r ∈ q.2.recv, r.2.dest ≠ Dest.link p (fld m 4 8 % 128)) (units : s.units = [(u, x)])
    (outs : x.outs = [(o, out)]) (sends : Dest.link p (fld m 4 8 % 128) ∈ out.dests)
    (kept : (out.kept.find? fun t => fld t.hdr 0x18 8 == fld m 0x10 8) = some t) : gotResend p m s =
      if (tgetD (getPort s p).send (fld m 4 8 % 128) {}).open_ then
        drainResends p (modPort p (fun x => { x with resendq := x.resendq ++ t.beats.zipIdx.map fun b =>
          (fld m 4 8 % 128, Entry.beat b.1 (if b.2 = 0 then some (resentHdr t.hdr) else none)) }) (bump (.resends u) 1 s))
      else s := by
  have noNear : (s.links.ports.findSome? fun q =>
      (q.2.recv.find? fun r => r.2.dest == Dest.link p (fld m 4 8 % 128)).map fun r => (q.1, r.1)) = none := by
    rw [List.findSome?_eq_none_iff]
    intro q hq
    rw [Option.map_eq_none_iff, List.find?_eq_none]
    intro r hr
    simpa using noRoute q hq r hr
  have sendsIt : out.dests.contains (Dest.link p (fld m 4 8 % 128)) = true := by simpa using sends
  simp only [gotResend, noNear, units, outs, List.findSome?_cons, sendsIt, if_true, kept, Option.map_some]

end

/-! ## Mailbox words of the partner (R362, R365, R368, R372) -/

/-- What a mailbox word leaves of a channel's binding and lock, and of the domains. -/
structure SameBinding (c : Nat) (s t : State) : Prop where
  off : t.mbx.off = s.mbx.off
  a : (getChan t c).a = (getChan s c).a
  b : (getChan t c).b = (getChan s c).b
  valid : (getChan t c).valid = (getChan s c).valid
  compat : (getChan t c).compat = (getChan s c).compat
  lock : (getChan t c).lock = (getChan s c).lock

theorem SameBinding.refl (c : Nat) (s : State) : SameBinding c s s := ⟨rfl, rfl, rfl, rfl, rfl, rfl⟩

theorem SameBinding.trans {c : Nat} {s t u : State} (h : SameBinding c s t) (k : SameBinding c t u) : SameBinding c s u :=
  ⟨k.off.trans h.off, k.a.trans h.a, k.b.trans h.b, k.valid.trans h.valid, k.compat.trans h.compat, k.lock.trans h.lock⟩

theorem SameBinding.of_mbx {c : Nat} {s t : State} (h : t.mbx.off = s.mbx.off) (k : t.mbx.chans = s.mbx.chans) :
    SameBinding c s t := by
  have same : getChan t c = getChan s c := by rw [getChan, getChan, k]
  exact ⟨h, by rw [same], by rw [same], by rw [same], by rw [same], by rw [same]⟩

theorem sendMsix_mbx (vec : Nat) (s : State) : (sendMsix vec s).mbx = s.mbx := by
  unfold sendMsix
  split
  · rfl
  split
  · rfl
  split
  · rfl
  split <;> rfl

theorem interruptMaster_mbx (m : BitVec 8) (s : State) : (interruptMaster m s).mbx = s.mbx := by
  unfold interruptMaster
  split
  · split
    · exact sendMsix_mbx _ s
    · rfl
  · rfl

theorem ringBell_sameBinding (m : BitVec 8) (c d : Nat) (s : State) : SameBinding d s (ringBell m c s) := by
  unfold ringBell
  dsimp only
  split
  · exact .of_mbx ((congrArg Mbx.off (interruptMaster_mbx m _)).trans rfl)
      ((congrArg Mbx.chans (interruptMaster_mbx m _)).trans rfl)
  · exact .of_mbx rfl rfl

theorem putWord_sameBinding (c : Nat) (first : Bool) (w : MbxWord) (s : State) : SameBinding c s (putWord c first w s) := by
  have put (x : Chan) (ha : x.a = (getChan s c).a) (hb : x.b = (getChan s c).b) (hv : x.valid = (getChan s c).valid)
      (hc : x.compat = (getChan s c).compat) (hl : x.lock = (getChan s c).lock) : SameBinding c s (setChan c x s) := by
    refine ⟨rfl, ?_, ?_, ?_, ?_, ?_⟩ <;> rw [getChan_setChan] <;> assumption
  have bell (x : Chan) (full : Bool) (h : SameBinding c s (setChan c x s)) : SameBinding c s
      (ringBell w.dst c (if full then bump (.collisions c) 1 (setChan c x s) else setChan c x s)) := by
    refine h.trans (.trans ?_ (ringBell_sameBinding w.dst c c _))
    cases full
    · exact .refl c _
    · exact .of_mbx rfl rfl
  unfold putWord
  dsimp only
  generalize decide (16 ≤ (if first = true then (getChan s c).q0 else (getChan s c).q1).length) = full
  cases full <;> cases first <;> exact bell _ _ (put _ rfl rfl rfl rfl rfl)

theorem lockRefusal_sameBinding (m : BitVec 8) (c : Nat) (s : State) : SameBinding c s (lockRefusal m c s) := by
  refine ⟨rfl, ?_, ?_, ?_, ?_, ?_⟩ <;> simp only [lockRefusal, modChan, getChan, bump_mbx, setChan_mbx, tgetD_tset_self]

section
variable {c : Nat} {s t : State}

theorem SameBinding.chUsable (h : SameBinding c s t) (m : BitVec 8) : chUsable t m c = chUsable s m c := by
  simp only [Machine.chUsable, chBinds, h.a, h.b, h.valid]

theorem SameBinding.isOff (h : SameBinding c s t) (m : BitVec 8) : isOff t m = isOff s m := by
  simp only [Machine.isOff, h.off]

end

/-- The master that a mailbox word of the partner goes to. -/
def mailTo (c : Nat) (x : Chan) : BitVec 8 := if c < 4 then chOwner c else if x.a = 0x30 then x.b else x.a

/-- A mailbox word of the partner enters the queue toward its master; one that may not is counted. -/
theorem gotMailWord_eq (c : Nat) (w : BitVec 32) (s : State) : gotMailWord c w s =
    if chUsable s 0x30 c = false then bump .unbound 1 s
    else if isOff s (mailTo c (getChan s c)) then bump .domainOff 1 s
    else if 4 ≤ c ∧ (getChan s c).compat = true ∧ (getChan s c).lock ≠ 0x30 then lockRefusal 0x30 c s
    else putWord c (c < 4 || mailTo c (getChan s c) == (getChan s c).a)
      { word := w, src := 0x30, dst := mailTo c (getChan s c) } s := by
  simp only [gotMailWord, mPartner, chOther, mailTo, Bool.not_eq_true', Bool.and_eq_true, decide_eq_true_eq, bne_iff_ne,
    beq_iff_eq, and_assoc]
  rfl

/-- A fold whose steps answer alike where an invariant holds, that each step keeps. -/
theorem foldl_congr_of_kept {α β : Type} {P : β → Prop} {f g : β → α → β} (alike : ∀ s x, P s → f s x = g s x)
    (kept : ∀ s x, P s → P (g s x)) : ∀ (l : List α) {s : β}, P s → l.foldl f s = l.foldl g s
  | [], _, _ => rfl
  | x :: l, s, h => by
    rw [List.foldl_cons, List.foldl_cons, alike s x h]
    exact foldl_congr_of_kept alike kept l (kept s x h)

/-- The words of a MAILBOX message, when each is treated as the first is and leaves the channel's binding as it was. -/
theorem gotMailbox_eq {m : Rec64} {words : List (BitVec 32)} {s : State} {g : State → BitVec 32 → State}
    (alike : ∀ t w, SameBinding (fld m 4 8 % 64) s t → gotMailWord (fld m 4 8 % 64) w t = g t w)
    (kept : ∀ t w, SameBinding (fld m 4 8 % 64) t (g t w)) : gotMailbox m words s = words.foldl g s :=
  foldl_congr_of_kept (P := SameBinding (fld m 4 8 % 64) s) alike (fun t w h => h.trans (kept t w)) words (.refl _ s)

/-- Settles O47: each message acts by the lemma of its operation, and a BUSY answer is asked again in its time. -/
theorem fetchesComplete : Obligations.FetchesComplete := by
  intro s port m up open_ ok p len
  have acts (op : Nat) (f : State → State) (hop : fld m 0 1 = op) : svcCmd port.val op m f s = f s := svcCmd_acts up open_ ok hop
  refine ⟨fun hop media => ?serve, fun f asked => ⟨fun hop bytes => ?data, fun hop => ?refuse⟩,
    fun tag f t waits since due => exec_fetchBusyRetry_due waits since due,
    fun f asked => ⟨fun hop bytes => ?read, fun hop => ?status⟩, fun hop u o x out t => ?resend, fun hop words => ?mailbox⟩
  case serve =>
    exact congrArg _ ((acts 1 _ hop).trans (serveFetch_eq p m media s))
  case data => exact congrArg _ ((acts 2 _ hop).trans (gotFetchData_of_fetchOf asked))
  case refuse => exact congrArg _ ((acts 3 _ hop).trans (gotFetchRefuse_of_fetchOf asked))
  case read => exact congrArg _ ((acts 5 _ hop).trans (gotReadData_of_fetchOf asked))
  case status => exact congrArg _ ((acts 6 _ hop).trans (gotReadStatus_of_fetchOf asked))
  case resend =>
    intro d noRoute units outs sends kept open_ again
    have resent := (acts 7 _ hop).trans (gotResend_of_kept noRoute units outs sends kept)
    refine ⟨fun closed => congrArg _ (resent.trans ?_), fun opened => congrArg _ (resent.trans ?_)⟩
    · exact if_neg (Bool.eq_false_iff.1 closed)
    · exact if_pos opened
  case mailbox =>
    intro c x o each refused
    have words_eq {g : State → BitVec 32 → State} (alike : ∀ t w, SameBinding c s t → gotMailWord c w t = g t w)
        (kept : ∀ t w, SameBinding c t (g t w)) : exec (.mailbox port m words) s = .next (words.foldl g s) :=
      congrArg _ ((acts 8 _ hop).trans (gotMailbox_eq alike kept))
    have word {t : State} (w : BitVec 32) (h : SameBinding c s t) : gotMailWord c w t =
        if chUsable s 0x30 c = false then bump .unbound 1 t
        else if isOff s o then bump .domainOff 1 t
        else if refused then lockRefusal 0x30 c t
        else putWord c (c < 4 || o == x.a) { word := w, src := 0x30, dst := o } t := by
      have toMaster : mailTo c (getChan t c) = o := by rw [mailTo, h.a, h.b]
      rw [gotMailWord_eq, h.chUsable, toMaster, h.isOff, h.compat, h.lock, h.a]
    have counted (n : Ctr) (t : State) : SameBinding c t (bump n 1 t) := .of_mbx rfl rfl
    refine ⟨fun usable on taken => words_eq (fun t w h => ?_) fun t w => putWord_sameBinding _ _ _ t,
      fun usable on refusal => words_eq (fun t w h => ?_) fun t w => lockRefusal_sameBinding 0x30 _ t,
      fun usable off => words_eq (fun t w h => ?_) fun t w => counted _ t,
      fun unusable => words_eq (fun t w h => ?_) fun t w => counted _ t⟩
    · rw [word w h, usable, on, if_neg taken]
      rfl
    · rw [word w h, usable, on, if_pos refusal]
      rfl
    · rw [word w h, usable, off]
      rfl
    · rw [word w h, if_pos unusable]

end Sys2Proof.Proofs

/-! PROOFS. DEPLOY, UNDEPLOY and CAST_ON, the ends of their copies, and the wake of a waiting allocation (R200, R269 to R281). -/
namespace Sys2Proof.Proofs
open Sys2Proof Machine Safety Laws

/-! ## What leaves the admin commands that run as they are (R393, R396, R411) -/

theorem sendFlit_admin (p kind slots seq ch0 ch1 body : Nat) (s : State) :
    (sendFlit p kind slots seq ch0 ch1 body s).admin = s.admin := by
  unfold sendFlit stampFlit
  dsimp only
  split <;> split <;> rfl

theorem drainService_admin (p fuel : Nat) (s : State) : (drainService p fuel s).admin = s.admin := by
  induction fuel generalizing s with
  | zero => rfl
  | succ k ih =>
    unfold drainService
    dsimp only
    split
    · split
      · rw [ih]
        exact sendFlit_admin ..
      · rfl
    · rfl

theorem lifelineDrain_admin (fuel : Nat) (s : State) : (lifelineDrain fuel s).admin = s.admin := by
  induction fuel generalizing s with
  | zero => rfl
  | succ k ih =>
    unfold lifelineDrain
    dsimp only
    split
    · split
      · rw [ih]
        exact drainService_admin ..
      · rfl
    · rfl

theorem lifelineRecs_admin (recs : List Rec64) (toks : List (Nat × Nat)) (s : State) :
    (lifelineRecs recs toks s).admin = s.admin := by
  unfold lifelineRecs
  dsimp only
  split
  · rfl
  · exact lifelineDrain_admin ..

theorem catalogueNote_admin (e : CatEntry) (removed : Bool) (s : State) : (catalogueNote e removed s).admin = s.admin := by
  unfold catalogueNote
  split
  · exact lifelineRecs_admin ..
  · rfl

theorem freePieces_admin (e : CatEntry) (s : State) : (freePieces e s).admin = s.admin :=
  List.foldlRecOn (motive := fun t : State => t.admin = s.admin) _ _ rfl fun _ same _ _ => same

theorem freeAt_admin (a : Nat) (s : State) : (freeAt a s).admin = s.admin := by
  unfold freeAt
  split
  · rfl
  · split <;> rfl

theorem foldl_freeAt_admin (l : List Nat) (s : State) : (l.foldl (fun s a => freeAt a s) s).admin = s.admin :=
  List.foldlRecOn (motive := fun t : State => t.admin = s.admin) _ _ rfl fun _ same a _ => (freeAt_admin a _).trans same

/-! ## DEPLOY (R269) -/

section
variable {op : Nat} {d : Rec64} {s : State}

theorem dModel_setFld : dModel (setFld d 0 1 op) = BitVec.ofNat 32 (fld d 0xC 4) :=
  congrArg (BitVec.ofNat 32) (fld_setFld_op (k := 0xB) d)

theorem dWver_setFld : dWver (setFld d 0 1 op) = BitVec.ofNat 32 (fld d 0x10 4) :=
  congrArg (BitVec.ofNat 32) (fld_setFld_op (k := 0xF) d)

/-- A legal DEPLOY whose pieces have room reserves them for an entry that is not valid yet. -/
theorem runDeploy_reserved {id : Nat} {ps : List Nat} {t : State}
    (new : ∀ e ∈ s.catalogue, e.model ≠ dModel d ∨ e.wversion ≠ dWver d) (room : s.catalogue.length < 1024)
    (nonzero : fld d 0x18 8 ≠ 0) (pages : fld d 0x18 8 % 4096 = 0) (fits : fld d 0x18 8 ≤ 2 ^ 36) (source : dFlags d / 2 % 4 ≠ 0)
    (reserved : reservePieces id (cdiv (fld d 0x18 8) 0x200000) 0 [] s = (some ps, t)) :
    runDeploy id d s = deployPeer id d { t with catalogue := t.catalogue ++
      [{ model := dModel d, wversion := dWver d, length := fld d 0x18 8, valid := false, img := default, pieces := ps
         staged := [] }] } := by
  have unheld : (s.catalogue.any fun e => e.model == dModel d && e.wversion == dWver d) = false := by
    rw [List.any_eq_false]
    intro e he
    rcases new e he with h | h <;> simp [h]
  have legal : ((s.catalogue.any fun e => e.model == dModel d && e.wversion == dWver d) || decide (1024 ≤ s.catalogue.length)
      || decide (fld d 0x18 8 = 0) || fld d 0x18 8 % 4096 != 0 || decide (2 ^ 36 < fld d 0x18 8)
      || dFlags d / 2 % 4 == 0) = false := by
    simp only [unheld, Bool.or_eq_false_iff, decide_eq_false_iff_not, bne_eq_false_iff_eq, beq_eq_false_iff_ne]
    exact ⟨⟨⟨⟨⟨trivial, Nat.not_le.2 room⟩, nonzero⟩, pages⟩, Nat.not_lt.2 fits⟩, source⟩
  unfold runDeploy
  dsimp only
  rw [if_neg (Bool.eq_false_iff.1 legal), hankBytes, reserved]

/-- The image is read from the named peer while a port to it is UP. -/
theorem deployPeer_fetches {id : Nat} (named : (dFlags d).testBit 1 = true)
    (up : ((peerPorts s (fld d 8 1)).filter fun p => (getPort s p).st == .up) ≠ []) :
    deployPeer id d s = sendFetches (fetchPieces ((dModel d).toNat + (dWver d).toNat * 2 ^ 32) 0 (fld d 0x18 8)
      ((peerPorts s (fld d 8 1)).filter fun p => (getPort s p).st == .up) none (some id) false 0x4000000
      (cdiv (fld d 0x18 8) 0x4000000) 0) s := by
  have some_ : (((peerPorts s (fld d 8 1)).filter fun p => (getPort s p).st == .up).isEmpty) = false := by
    simpa [List.isEmpty_eq_false_iff] using up
  simp only [deployPeer, nbit_testBit, named, some_, Bool.not_true, Bool.or_self, Bool.false_eq_true, if_false]

/-- Without a named peer it is read from the storage target. -/
theorem deployPeer_reads {id : Nat} (unnamed : (dFlags d).testBit 1 = false) (stored : (dFlags d).testBit 2 = true)
    (ports : targetPorts s (fld d 0x20 8) ≠ []) :
    deployPeer id d s = sendFetches (fetchPieces (fld d 0x20 8 % 2 ^ 48) 0 (fld d 0x18 8) (targetPorts s (fld d 0x20 8)) none
      (some id) true 0x400000 (cdiv (fld d 0x18 8) 0x400000) 0) s := by
  have some_ : (targetPorts s (fld d 0x20 8)).isEmpty = false := by simpa [List.isEmpty_eq_false_iff] using ports
  simp only [deployPeer, deployStorage, nbit_testBit, unnamed, stored, some_, nbits, Nat.shiftRight_zero, Bool.not_true,
    Bool.not_false, Bool.true_or, Bool.or_self, Bool.false_eq_true, if_false, if_true]

/-- A flag of bit 1 or 2 names a source. -/
theorem source_named {n : Nat} (h : n.testBit 1 = true ∨ n.testBit 2 = true) : n / 2 % 4 ≠ 0 := by
  rcases h with h | h <;> rw [Nat.testBit_eq_decide_div_mod_eq, decide_eq_true_iff] at h <;> omega

/-- The catalogue key of a DEPLOY is that of its descriptor's two fields. -/
theorem catalogueKey_eq (d : Rec64) : (BitVec.ofNat 32 (fld d 0xC 4)).toNat + (BitVec.ofNat 32 (fld d 0x10 4)).toNat * 2 ^ 32
    = fld d 0xC 4 + fld d 0x10 4 * 2 ^ 32 := by
  have model : fld d 0xC 4 < 2 ^ 32 := Nat.mod_lt _ (Nat.two_pow_pos _)
  have version : fld d 0x10 4 < 2 ^ 32 := Nat.mod_lt _ (Nat.two_pow_pos _)
  rw [BitVec.toNat_ofNat, BitVec.toNat_ofNat, Nat.mod_eq_of_lt model, Nat.mod_eq_of_lt version]

end

/-! ## The end of a DEPLOY's copy (R213, R269) -/

/-- Filling the write buffers changes nothing but the stacks. -/
theorem fillEntry_eq (e : CatEntry) (s : State) : (fillEntry e s).2 = { s with stackTbl := (fillEntry e s).2.stackTbl } := by
  unfold fillEntry
  refine List.foldlRecOn (motive := fun acc : Nat × State => acc.2 = { s with stackTbl := acc.2.stackTbl }) _ _ rfl
    fun acc same k _ => ?_
  split
  · rw [same]
    rfl
  · exact same

theorem fillEntry_admin (e : CatEntry) (s : State) : (fillEntry e s).2.admin = s.admin := by
  rw [fillEntry_eq]

/-- The pages counted in an entry are overwritten when the entry becomes valid. -/
theorem map_deployed (e e' : CatEntry) (n : Nat) (l : List CatEntry) :
    (l.map fun x => if x.model == e.model && x.wversion == e.wversion && !x.valid then { x with filled := n } else x).map
      (fun x => if x.model == e.model && x.wversion == e.wversion then e' else x) =
    l.map fun x => if x.model == e.model && x.wversion == e.wversion then e' else x := by
  rw [List.map_map]
  refine List.map_congr_left fun x _ => ?_
  simp only [Function.comp_apply]
  by_cases filling : (x.model == e.model && x.wversion == e.wversion && !x.valid) = true
  · have mine : (x.model == e.model && x.wversion == e.wversion) = true := (Bool.and_eq_true _ _ ▸ filling : _ ∧ _).1
    rw [if_pos filling]
    exact (if_pos mine).trans (if_pos mine).symm
  · rw [if_neg filling]

/-- The reads and reserved pieces of a DEPLOY end with it. -/
def deployClosed (id : Nat) (s : State) : State :=
  { s with
    links := { s.links with fetches := s.links.fetches.filter fun f => f.cmd != some id }
    moves := s.moves.filter (·.by_ != .deploy id) }

section
variable {s : State} {c : AdminCmd} {e : CatEntry} {i : Image}

/-- A DEPLOY that succeeds keeps its entry. -/
theorem deployEnd_done (runs : adminCmd s c.id = some c) :
    deployEnd c.id stDone s = adminDone c.id 0 0 (bump (.deploys 0) 1 (deployClosed c.id s)) := by
  simp only [deployEnd, runs, stDone, if_true, deployClosed]

/-- A DEPLOY without its image frees the entry's space. -/
theorem deployEnd_lost (runs : adminCmd s c.id = some c) :
    deployEnd c.id stDataLost s = adminDone c.id 0x31 0 (bump (.deploys 0x31) 1
      ((s.catalogue.filter fun x => x.model == dModel c.d && x.wversion == dWver c.d && !x.valid).foldl
        (fun s x => freePieces x s)
        { deployClosed c.id s with
          catalogue := s.catalogue.filter fun x => !(x.model == dModel c.d && x.wversion == dWver c.d && !x.valid) })) := by
  have failed : ¬ stDataLost = stDone := by decide
  simp only [deployEnd, runs, if_neg failed, deployClosed]
  rfl

/-- An image that fits the write buffers and that no module domain stages becomes valid. -/
theorem deployStage_unstaged (unstaged : (dFlags c.d).testBit 0 = false ∨ moduleGroups s = [])
    (fits : (fillEntry e s).1 = e.length / 4096) :
    deployStage c e i s = deployEnd c.id stDone (catalogueNote
      { e with valid := true, img := i, staged := [], filled := e.length / 4096 } false
      { (fillEntry e s).2 with catalogue := s.catalogue.map fun x => if x.model == e.model && x.wversion == e.wversion then
          { e with valid := true, img := i, staged := [], filled := e.length / 4096 } else x }) := by
  have only := fillEntry_eq e s
  generalize result : fillEntry e s = r at fits only ⊢
  obtain ⟨n, t⟩ := r
  dsimp only at fits only ⊢
  subst fits
  have groups : moduleGroups (modDeployed e (fun x => { x with filled := e.length / 4096 }) t) = moduleGroups s := by
    rw [only]
    rfl
  have direct : ((dFlags c.d).testBit 0 && !(moduleGroups s).isEmpty) = false := by
    rcases unstaged with flag | none_ <;> simp [*]
  have filled : (modDeployed e (fun x => { x with filled := e.length / 4096 }) t).catalogue.map (fun x =>
        if x.model == e.model && x.wversion == e.wversion then
          { e with valid := true, img := i, staged := [], filled := e.length / 4096 } else x) =
      s.catalogue.map fun x => if x.model == e.model && x.wversion == e.wversion then
          { e with valid := true, img := i, staged := [], filled := e.length / 4096 } else x := by
    rw [only]
    exact map_deployed e _ _ s.catalogue
  simp only [deployStage, result, groups, direct, nbit_testBit, Nat.lt_irrefl, Bool.false_eq_true, if_false]
  rw [deployValid, List.zip_nil_right, List.foldl_nil, filled]
  rfl

end

/-- The DEPLOY whose copy ends: the running one that names the image's key. -/
theorem adminOf_key {s : State} {m w : BitVec 32} {c : AdminCmd}
    (names : adminOf s 0x85 (fun d => dModel d == m && dWver d == w) = some c) : dModel c.d = m ∧ dWver c.d = w := by
  have found := List.find?_some names
  simp only [Bool.and_eq_true, beq_iff_eq] at found
  exact found.2

section
variable {s : State} {m w : BitVec 32} {c : AdminCmd}

/-- DEPLOY_COPY_DONE without an image ends the DEPLOY without it. -/
theorem execDeployCopyDone_lost (names : adminOf s 0x85 (fun d => dModel d == m && dWver d == w) = some c) :
    execDeployCopyDone m w none s = .next (deployEnd c.id stDataLost s) := by
  simp only [execDeployCopyDone, names]

/-- DEPLOY_COPY_DONE of an image that was copied and passes every check goes on to the write buffers. -/
theorem execDeployCopyDone_passes {i : Image} {e : CatEntry}
    (names : adminOf s 0x85 (fun d => dModel d == m && dWver d == w) = some c)
    (entry : s.catalogue.find? (fun x => x.model == m && x.wversion == w && !x.valid) = some e)
    (copied : (s.links.fetches.any fun f => f.cmd == some c.id) = false)
    (agrees : imageAgrees i (fun o n => pieceRead s e.pieces o n) = true) (ok : imageOk i = true) (model : ihModel i = m.toNat)
    (version : ihWversion i = w.toNat) (length : ihLength i = e.length)
    (patterned : ihWeightsOnly i = true → ∃ x ∈ s.catalogue, x.valid = true ∧ x.model = m ∧ ihPhash x.img = ihPhash i) :
    execDeployCopyDone m w (some i) s = .next (deployStage c e i s) := by
  have based : (!ihWeightsOnly i || s.catalogue.any fun x => x.valid && x.model == m && ihPhash x.img == ihPhash i) = true := by
    cases weights : ihWeightsOnly i with
    | false => rfl
    | true =>
      obtain ⟨x, hx, valid, same, hash⟩ := patterned weights
      rw [Bool.not_true, Bool.false_or, List.any_eq_true]
      exact ⟨x, hx, by simp [valid, same, hash]⟩
  simp only [execDeployCopyDone, names, entry, copied, agrees, ok, model, version, length, based, beq_self_eq_true, Bool.not_true,
    Bool.and_self, Bool.or_self, Bool.false_eq_true, if_false]

end

/-- UNDEPLOY of a key no panel uses removes the entry and frees its space. -/
theorem runUndeploy_free {s : State} {id : Nat} {d : Rec64} {e : CatEntry} (entry : catFind s (dModel d) (dWver d) = some e)
    (unused : keyInUse s (dModel d) (dWver d) = false) :
    runUndeploy id d s = adminDone id stDone 0 (catalogueNote e true (e.staged.foldl (fun s a => freeAt a s)
      (freePieces e (dropCat (dModel d) (dWver d) s)))) := by
  simp only [runUndeploy, entry, unused, Bool.false_eq_true, if_false]

/-! ## CAST_ON (R275) and its wake (R200) -/

section
variable {p id : Nat} {x : Panel} {e : CatEntry} {s t : State}

/-- A cast-on whose hanks are there loads the pattern. -/
theorem castSteps_of_castLoads (loads : CastLoads p x e s t) : castSteps p id x e s = t := by
  obtain ⟨pl, base, n, a, ar, s1, s2, placed, directory, areas, fits, rfl⟩ := loads
  simp only [castSteps, placed, directory, areas, fits]

/-- CAST_ON of an EMPTY panel and a deployed image that fits it loads the pattern. -/
theorem runCastOn_loads {d : Rec64} (number : dPanel d = p) (panel : getPanel s p = some x) (empty : x.st = .empty)
    (entry : catFind s (dModel d) (dWver d) = some e)
    (home : returnStaged e 0 4096 (modPanel p (fun x => { x with
      st := .casting, castCmd := some id, swatching := false, drained := false, fault := none, mapFault := false }) s) = none)
    (fits : castPanelOk (catCount p e 0 4096 (modPanel p (fun x => { x with
      st := .casting, castCmd := some id, swatching := false, drained := false, fault := none, mapFault := false }) s)) x e.img
      = true)
    (loads : CastLoads p x e (catCount p e 0 4096 (modPanel p (fun x => { x with
      st := .casting, castCmd := some id, swatching := false, drained := false, fault := none, mapFault := false }) s)) t) :
    runCastOn id d s = t := by
  have entry' : catFind (modPanel p (fun x => { x with
      st := .casting, castCmd := some id, swatching := false, drained := false, fault := none, mapFault := false }) s)
      (dModel d) (dWver d) = some e := by
    have found : tget s.panels p = some x := panel
    rw [modPanel, found]
    exact entry
  simp only [runCastOn, number, panel, empty, bne_self_eq_false, Bool.false_eq_true, if_false, entry', castTry, home, fits,
    if_true]
  exact castSteps_of_castLoads loads

/-- A cast-on that waits for a hank and gets one loads the pattern. -/
theorem castRetry_loads {c : AdminCmd} (panel : getPanel s p = some x) (casting : x.st = .casting)
    (noSwatch : x.swatching = false) (unloaded : x.cast = none) (by_ : x.castCmd = some c.id) (runs : adminCmd s c.id = some c)
    (op : dOp c.d = 0x83) (entry : catFind s (dModel c.d) (dWver c.d) = some e)
    (waits : s.allocs.any (·.who == .cast p) = true) (loads : CastLoads p x e s t) : castRetry p s = t := by
  simp only [castRetry, panel, by_, Option.bind_some, runs, casting, noSwatch, unloaded, op, entry, waits, bne_self_eq_false,
    Option.isSome_none, Bool.or_self, Bool.false_eq_true, if_false, if_true]
  exact castSteps_of_castLoads loads

end

/-- CAST_ON_COPY_DONE with no place of an extent away or homeless writes the extents and ends the cast-on. -/
theorem execCastOnCopyDone_ready {s : State} {panel : BitVec 4} {p : Nat} {x : Panel} {c : Cast} {cmd : AdminCmd} {e : CatEntry}
    (number : panel.toNat = p) (found : getPanel s p = some x) (loaded : x.cast = some c) (by_ : x.castCmd = some cmd.id)
    (runs : adminCmd s cmd.id = some cmd) (op : dOp cmd.d = 0x83) (casting : x.st = .casting)
    (entry : catFind s c.model c.wversion = some e)
    (there : ∀ q ∈ extents c.img, q.place < 4 → copyWaits p c e q s = none ∧ extentGone s c q.id = false) :
    execCastOnCopyDone panel true s = .next (castEnd p cmd.id stDone (castReady p (openChannels p
      ((extents c.img).foldl (fun s q =>
        if q.place < 4 then catCount p e q.off q.len (areaWrite c q.id 0 (catRead s e q.off q.len) s) else s) s)))) := by
  have waiting : ((extents c.img).filter (·.place < 4)).findSome? (fun q => copyWaits p c e q s) = none := by
    rw [List.findSome?_eq_none_iff]
    intro q hq
    obtain ⟨hq, place⟩ := List.mem_filter.1 hq
    exact (there q hq (of_decide_eq_true place)).1
  have gone : (((extents c.img).filter (·.place < 4)).any fun q => extentGone s c q.id) = false := by
    rw [List.any_eq_false]
    intro q hq
    obtain ⟨hq, place⟩ := List.mem_filter.1 hq
    simp [(there q hq (of_decide_eq_true place)).2]
  have notFaulted : (PanelSt.casting == PanelSt.faulted) = false := rfl
  simp only [execCastOnCopyDone, number, found, loaded, by_, Option.bind_some, runs, op, casting, entry, notFaulted, waiting,
    gone, bne_self_eq_false, beq_self_eq_true, Bool.not_true, Bool.false_eq_true, if_false, List.foldl_filter,
    decide_eq_true_eq]

/-! ## The obligation -/

/-- Settles O26: each command and each end of a copy is followed through its checks to its effect, and none of a command's
effects touches the admin command it ends. -/
theorem catalogueAndCastOnComplete : Obligations.CatalogueAndCastOnComplete := by
  unfold Obligations.CatalogueAndCastOnComplete
  intro s
  refine ⟨?deploy, ?copyDone, ?undeploy, ?castOn, ?wake, ?castDone⟩
  case deploy =>
    intro d ps t m w len key u up taken new room nonzero pages fits reserved
    have begins : exec (.deploy d) s = .next (runDeploy s.nextId (setFld d 0 1 0x85) (running 0x85 d s)) := by
      show Host.Outcome.next (adminAs 0x85 d s) = _
      rw [adminAs_begins taken, beginAdmin, dOp_setFld (by decide) d]
      rfl
    have flen : fld (setFld d 0 1 0x85) 0x18 8 = len := fld_setFld_op (k := 0x17) d
    have fport : fld (setFld d 0 1 0x85) 8 1 = fld d 8 1 := fld_setFld_op (k := 7) d
    have fhandle : fld (setFld d 0 1 0x85) 0x20 8 = fld d 0x20 8 := fld_setFld_op (k := 0x1F) d
    have reserves (source : (fld d 2 2).testBit 1 = true ∨ (fld d 2 2).testBit 2 = true) :
        runDeploy s.nextId (setFld d 0 1 0x85) (running 0x85 d s) = deployPeer s.nextId (setFld d 0 1 0x85) u := by
      rw [runDeploy_reserved (ps := ps) (t := t), dModel_setFld, dWver_setFld, flen]
      · rw [dModel_setFld, dWver_setFld]
        exact new
      · exact room
      · rw [flen]
        exact nonzero
      · rw [flen]
        exact pages
      · rw [flen]
        exact fits
      · rw [dFlags_setFld]
        exact source_named source
      · rw [flen]
        exact reserved
    constructor
    · intro peer ports
      rw [begins, reserves (.inl peer), deployPeer_fetches, dModel_setFld, dWver_setFld, catalogueKey_eq, flen, fport]
      · rw [dFlags_setFld]
        exact peer
      · rw [fport]
        exact ports
    · intro noPeer stored ports
      rw [begins, reserves (.inr stored), deployPeer_reads, flen, fhandle]
      · rw [dFlags_setFld]
        exact noPeer
      · rw [dFlags_setFld]
        exact stored
      · rw [fhandle]
        exact ports
  case copyDone =>
    intro m w img c e mine closed names runs
    obtain ⟨rfl, rfl⟩ := adminOf_key names
    constructor
    · rintro rfl
      exact (execDeployCopyDone_lost names).trans (congrArg Host.Outcome.next (deployEnd_lost runs))
    · rintro i rfl entry copied agrees ok model version length patterned unstaged fits e' v
      have key := List.find?_some entry
      simp only [mine, Bool.and_eq_true, beq_iff_eq] at key
      obtain ⟨⟨model', version'⟩, -⟩ := key
      have valid : v = catalogueNote e' false { (fillEntry e s).2 with catalogue := s.catalogue.map fun x =>
          if x.model == e.model && x.wversion == e.wversion then e' else x } := by
        rw [model', version']
      have runs' : adminCmd v c.id = some c := by
        have same : v.admin = s.admin := (catalogueNote_admin ..).trans (fillEntry_admin e s)
        rw [adminCmd, same]
        exact runs
      have staged : deployStage c e i s = deployEnd c.id stDone v := valid ▸ deployStage_unstaged unstaged fits
      exact (execDeployCopyDone_passes names entry copied agrees ok model version length patterned).trans
        (congrArg Host.Outcome.next (staged.trans (deployEnd_done runs')))
  case undeploy =>
    intro d e m w taken entry unused t
    have entry' : catFind (running 0x86 d s) (dModel (setFld d 0 1 0x86)) (dWver (setFld d 0 1 0x86)) = some e := by
      rw [dModel_setFld, dWver_setFld]
      exact entry
    have unused' : keyInUse (running 0x86 d s) (dModel (setFld d 0 1 0x86)) (dWver (setFld d 0 1 0x86)) = false := by
      rw [dModel_setFld, dWver_setFld]
      exact unused
    show Host.Outcome.next (adminAs 0x86 d s) = _
    rw [adminAs_begins taken, beginAdmin, dOp_setFld (by decide) d]
    rw [runUndeploy_free entry' unused', dModel_setFld, dWver_setFld]
    refine congrArg Host.Outcome.next (adminDone_ended (by decide) taken.2.2.1 ?_)
    rw [catalogueNote_admin, foldl_freeAt_admin, freePieces_admin]
    rfl
  case castOn =>
    intro d x e t p taken panel empty entry q b home fits loads
    have number : dPanel (setFld d 0 1 0x83) = p := dPanel_setFld
    have entry' : catFind (running 0x83 d s) (dModel (setFld d 0 1 0x83)) (dWver (setFld d 0 1 0x83)) = some e := by
      rw [dModel_setFld, dWver_setFld]
      exact entry
    show Host.Outcome.next (adminAs 0x83 d s) = _
    rw [adminAs_begins taken, beginAdmin, dOp_setFld (by decide) d]
    exact congrArg Host.Outcome.next (runCastOn_loads number panel empty entry' home fits loads)
  case wake =>
    intro tier2 can
    constructor
    · intro move next
      show execAllocWake tier2 s = _
      have next' := next
      simp only [can] at next'
      simp only [execAllocWake, next']
    · intro p x c e t none_ panels casting noSwatch unloaded by_ runs op entry waits loads
      have first : s.panels.find? (fun q => q.2.st == .casting && !q.2.swatching && q.2.cast.isNone) = some (p, x) := by
        simp [panels, casting, noSwatch, unloaded]
      have panel : getPanel s p = some x := by simp [getPanel, panels, tget]
      show execAllocWake tier2 s = _
      simp only [can] at none_
      simp only [execAllocWake, none_, first]
      rw [castRetry_loads panel casting noSwatch unloaded by_ runs op entry waits loads]
  case castDone =>
    intro panel x c cmd e p found loaded by_ runs op casting entry there filled ready
    exact execCastOnCopyDone_ready rfl found loaded by_ runs op casting entry there

end Sys2Proof.Proofs

/-! PROOFS. KV commands, the entries of a walk, and the last row of a scatter (R224 to R232, R239, R240). -/
namespace Sys2Proof.Proofs
open Sys2Proof Machine Safety Laws

/-! ## Casts of a panel -/

section
variable {p : Nat} {c : Cast} {f g : Cast → Cast} {s : State}

theorem getCast_modCast : getCast (modCast p f s) p = (getCast s p).map f := by
  unfold getCast modCast modPanel
  cases found : tget s.panels p with
  | none => simp [found]
  | some x => simp [setPanel]

theorem modCast_slots : (modCast p f s).slots = s.slots := by
  unfold modCast modPanel
  split <;> rfl

/-- What is done to a cast depends on the cast that is there only. -/
theorem modCast_congr (alike : ∀ c, getCast s p = some c → f c = g c) : modCast p f s = modCast p g s := by
  unfold modCast modPanel
  unfold getCast at alike
  cases found : tget s.panels p with
  | none => rfl
  | some x =>
    cases cast : x.cast with
    | none => simp only [cast, Option.map_none]
    | some c => simp only [cast, Option.map_some, alike c (by rw [found, Option.bind_some, cast])]

theorem kvOf_of_getCast {k : KvDecl} (cast : getCast s p = some c) (kv : c.img.pat.kv = some k) : kvOf s p = some k := by
  rw [kvOf, cast, Option.bind_some, kv]

end

/-! ## What reads and writes of the engines leave -/

/-- What walks and scatters of a panel go by: its rings, its scatters, and the request slots. -/
def kvView (p : Nat) (s : State) : Option (Tbl WalkRing × List Scatter) × Tbl Slot :=
  ((getCast s p).map fun c => (c.rings, c.scatters), s.slots)

section
variable {p q : Nat} {s : State}

@[simp] theorem kvView_bump {c : Ctr} {n : Nat} : kvView p (bump c n s) = kvView p s := rfl
@[simp] theorem kvView_wr {a : Nat} {l : List Byte} : kvView p (wr a l s) = kvView p s := rfl
@[simp] theorem kvView_setStack {st : Nat} {x : Stack} : kvView p (setStack st x s) = kvView p s := rfl

/-- The present cast of a panel has the rings and the scatters of any state of the same view. -/
theorem rings_scatters_of_kvView {t : State} {c d : Cast} (same : kvView p t = kvView p s) (before : getCast s p = some c)
    (after : getCast t p = some d) : d.rings = c.rings ∧ d.scatters = c.scatters := by
  simpa [kvView, before, after] using congrArg Prod.fst same

theorem getSlot_of_kvView {t : State} (same : kvView p t = kvView p s) (i : Nat) : getSlot t i = getSlot s i :=
  congrArg (tget · i) (congrArg Prod.snd same)

theorem kvView_modCast {f : Cast → Cast} (rings : ∀ c, (f c).rings = c.rings) (scatters : ∀ c, (f c).scatters = c.scatters) :
    kvView p (modCast p f s) = kvView p s := by
  simp only [kvView, getCast_modCast, modCast_slots, Option.map_map, Function.comp_def, rings, scatters]

theorem kvView_foldl {α : Type} {f : State → α → State} (kept : ∀ t x, kvView p (f t x) = kvView p t) (l : List α) :
    kvView p (l.foldl f s) = kvView p s :=
  List.foldlRecOn (motive := fun t => kvView p t = kvView p s) l f rfl fun t same x _ => (kept t x).trans same

theorem kvView_foldl_snd {α β : Type} {f : β × State → α → β × State} (kept : ∀ t x, kvView p (f t x).2 = kvView p t.2)
    (l : List α) (b : β) : kvView p (l.foldl f (b, s)).2 = kvView p s :=
  List.foldlRecOn (motive := fun t : β × State => kvView p t.2 = kvView p s) l f rfl fun t same x _ => (kept t x).trans same

@[simp] theorem kvView_modHank {i : Nat} {f : Hank → Hank} : kvView p (modHank i f s) = kvView p s := by
  unfold modHank
  split <;> rfl

@[simp] theorem kvView_touch {a n : Nat} : kvView p (touch a n s) = kvView p s := by
  unfold touch
  split
  · exact kvView_foldl (fun t i => kvView_modHank) _
  · rfl

@[simp] theorem kvView_lookCtr {c : Nat → Ctr} {o : Option Nat} : kvView p (lookCtr c o s) = kvView p s := by
  cases o <;> rfl

@[simp] theorem kvView_cacheLook {o : Option Nat} {mask a : Nat} : kvView p (cacheLook o mask a s) = kvView p s := by
  unfold cacheLook
  dsimp only
  split
  · simp
  · split <;> simp

@[simp] theorem kvView_cacheLooks {o : Option Nat} {a n : Nat} : kvView p (cacheLooks o a n s) = kvView p s :=
  kvView_foldl (fun _ _ => kvView_cacheLook) _

@[simp] theorem kvView_cacheReads {a n : Nat} : kvView p (cacheReads q a n s) = kvView p s :=
  kvView_foldl (fun _ _ => kvView_cacheLook) _

@[simp] theorem kvView_putBytes {a : Nat} {l : List Byte} : kvView p (putBytes a l s) = kvView p s := by
  unfold putBytes
  split <;> rfl

@[simp] theorem kvView_areaPut {c : Cast} {id off : Nat} {l : List Byte} : kvView p (areaPut c id off l s) = kvView p s := by
  unfold areaPut
  refine kvView_foldl_snd (fun t r => ?_) _ l
  dsimp only
  split
  · exact kvView_putBytes
  · rfl

@[simp] theorem kvView_areaWrite {c : Cast} {id off : Nat} {l : List Byte} :
    kvView p (areaWrite c id off l s) = kvView p s := by
  unfold areaWrite
  refine (kvView_foldl (fun t r => ?_) _).trans kvView_areaPut
  split
  · exact kvView_touch
  · rfl

@[simp] theorem kvView_nextTile {die : Nat} : kvView p (nextTile p die s).2 = kvView p s :=
  kvView_modCast (fun _ => rfl) (fun _ => rfl)

/-! ## Accesses that go through (R190, R194, R202) -/

section
variable {c : Cast} {ps : List (Nat × Nat)} {s1 : State}

theorem followPieces_go {id : Nat} : ∀ {rs acc : List (Nat × Nat)}, followPieces p c id rs acc s = .go ps s1 → s1 = s
  | [], acc, h => by
    cases h
    rfl
  | (off, n) :: rs, acc, h => by
    unfold followPieces at h
    split at h
    · exact followPieces_go h
    · cases h
    · split at h <;> cases h
    · cases h

theorem followAreas_go : ∀ {rs : List (Nat × Nat × Nat)} {acc : List (Nat × Nat)},
    followAreas p c rs acc s = .go ps s1 → s1 = s
  | [], acc, h => by
    cases h
    rfl
  | (id, off, n) :: rs, acc, h => by
    unfold followAreas at h
    split at h
    · next follows =>
      rw [followPieces_go follows] at h
      exact followAreas_go h
    · next stops => exact absurd h (stops ps s1)

theorem kvView_engineRanges {rs : List (Nat × Nat)} {write : Bool} (h : engineRanges p rs write s = .go ps s1) :
    kvView p s1 = kvView p s := by
  unfold engineRanges at h
  split at h
  · cases h
  · split at h
    · cases h
    · cases h
      refine kvView_foldl (fun t r => ?_) _
      split <;> simp

theorem kvView_engineAccess {rs : List (Nat × Nat × Nat)} {write : Bool} (h : engineAccess p c rs write s = .go ps s1) :
    kvView p s1 = kvView p s := by
  unfold engineAccess at h
  split at h
  · next follows =>
    obtain rfl := followAreas_go follows
    exact kvView_engineRanges h
  · next stops => exact absurd h (stops ps s1)

theorem kvView_areasAccess {reads writes : List (Nat × Nat × Nat)} (h : areasAccess p reads writes s = .go ps s1) :
    kvView p s1 = kvView p s := by
  unfold areasAccess at h
  split at h
  · cases h
  · split at h
    · next read => exact (kvView_engineAccess h).trans (kvView_engineAccess read)
    · next stops => exact absurd h (stops ps s1)

theorem withAreas_go {reads writes : List (Nat × Nat × Nat)} {f : State → State}
    (h : areasAccess p reads writes s = .go ps s1) : withAreas p reads writes f s = f s1 := by
  rw [withAreas, h]

end

/-! ## Commands (R229 to R231, R239) -/

section
variable {c : Cast} {k : KvDecl} {d : Rec64}

/-- A WALK that is accepted puts its record and its blocks, the lowest first, behind what its ring still waits for. -/
theorem execWalk_accepted {panel : BitVec 4} {stack : BitVec 2} {first last : Nat} (number : panel.toNat = p)
    (cast : getCast s p = some c) (kv : c.img.pat.kv = some k) (ok : kvOk (unpost p stack.toNat d s) p 1 k d = true)
    (spans : walkBlocks k (kvFirst d) (kvCount d) = (first, last)) :
    execWalk panel stack d s = .next (modCast p (fun x => { x with
      rings := tset x.rings (kvRing d) { tgetD x.rings (kvRing d) {} with todo := (tgetD x.rings (kvRing d) {}).todo ++
        (.record (last + 1 - first) first (kvFirst d) (kvSlot d) :: (upto first (last + 1 - first)).map fun b =>
          .block b (kvFirst d) (kvSlot d) (kvLayer d) (kvGroup d) (b == first)) } })
      (bump (.blocksSkipped p) first (bump (.walks p) 1 (unpost p stack.toNat d s)))) := by
  have declared : kvOf (unpost p stack.toNat d s) p = some k := kvOf_of_getCast (s := unpost p stack.toNat d s) cast kv
  simp only [execWalk, number, declared, ok, spans, Bool.not_true, Bool.false_eq_true, if_false]

theorem execAppend_accepted {panel : BitVec 4} {stack : BitVec 2} (number : panel.toNat = p) (cast : getCast s p = some c)
    (kv : c.img.pat.kv = some k) (ok : kvOk (unpost p stack.toNat d s) p 2 k d = true) :
    execAppend panel stack d s = .next (modCast p (fun x => { x with appends := x.appends ++ [(stack.toNat, d)] })
      (unpost p stack.toNat d s)) := by
  have declared : kvOf (unpost p stack.toNat d s) p = some k := kvOf_of_getCast (s := unpost p stack.toNat d s) cast kv
  simp only [execAppend, number, declared, ok, if_true]

end

/-! ## The entries of a walk (R231, R232) -/

@[simp] theorem kvView_putTiles {die slot tensor : Nat} {c : Cast} {k : KvDecl} {r : RingDecl}
    {tiles : List (Nat × Nat × List Byte)} : kvView p (putTiles p die c k r slot tensor tiles s) = kvView p s := by
  unfold putTiles
  exact kvView_foldl_snd (fun t x => by rw [kvView_areaWrite, kvView_areaWrite, kvView_nextTile]) _ _

@[simp] theorem kvView_readPage {c : Cast} {k : KvDecl} {page : Nat} : kvView p (readPage q c k page s) = kvView p s := by
  unfold readPage
  split
  · rw [kvView_bump, kvView_cacheReads, kvView_touch, kvView_cacheReads, kvView_touch]
  · rfl

@[simp] theorem kvView_readLine {k : KvDecl} {root l g j : Nat} : kvView p (readLine q k root l g j s) = kvView p s := by
  simp [readLine]

@[simp] theorem kvView_readBlock {c : Cast} {k : KvDecl} {root l g b n : Nat} {first : Bool} {pages : List Nat} :
    kvView p (readBlock q c k root l g b n first pages s) = kvView p s := by
  unfold readBlock
  refine kvView_foldl (fun t e => ?_) _
  dsimp only
  split
  · rfl
  · split <;> simp

section
variable {c : Cast} {k : KvDecl} {r : RingDecl} {e : WalkEnt} {rest : List WalkEnt} {s1 : State}

/-- An entry is written: its ring goes on from where it stood before the write (R232). -/
theorem entryDone_eq {t : State} (cast : getCast s p = some c) (same : kvView p t = kvView p s) :
    entryDone p c r rest t = sendSignals (r.fulls.map (physSem c)) (modCast p (fun x => { x with
      rings := tset x.rings r.ring { put := (tgetD c.rings r.ring {}).put + 1, todo := rest } }) t) := by
  refine congrArg (sendSignals _) (modCast_congr fun x present => ?_)
  obtain ⟨rings, -⟩ := rings_scatters_of_kvView same cast present
  rw [rings]

/-- A live block whose pages can all be used is read from them (R231). -/
theorem walkEntry_block {slot b n sl l g : Nat} {first : Bool} {pages : List Nat}
    (named : (blockPages k b n).map (fun j => pageEntry s k (rootAddr c sl) l g j) = pages)
    (live : walkLive s p c sl = true) (usable : ∀ pg ∈ pages, pageInT3 s c pg = false ∧ pageOk s c k pg = true) :
    walkEntry p c k r slot (.block b n sl l g first) rest s =
      putBlock p c k r slot ((k.tensorBase.toNat + l * k.groups + g) % 2 ^ 32) rest (blockTiles s c k pages b n)
        (readBlock p c k (rootAddr c sl) l g b n first pages s) := by
  have near : pages.find? (pageInT3 s c) = none := by
    rw [List.find?_eq_none]
    intro pg hpg
    simp [(usable pg hpg).1]
  have pass : pages.find? (fun pg => !pageOk s c k pg) = none := by
    rw [List.find?_eq_none]
    intro pg hpg
    simp [(usable pg hpg).2]
  simp only [walkEntry, entryPages, live, if_true, named, near, pass]

/-- WALK_ENTRY_PUT with room writes the ring's next entry, and then carries out the releases that are free to go (R242). -/
theorem execWalkEntryPut_room {panel ring : BitVec 4} {ps : List (Nat × Nat)} (number : panel.toNat = p)
    (cast : getCast s p = some c) (kv : c.img.pat.kv = some k) (declared : k.rings.find? (fun r => r.ring == ring.toNat) = some r)
    (next : (tgetD c.rings r.ring {}).todo = e :: rest) (room : ringRoom s c r (tgetD c.rings r.ring {}).put = true)
    (access : areasAccess p (ringReads r) (ringWrites k r ((tgetD c.rings r.ring {}).put % r.slots)) s = .go ps s1) :
    execWalkEntryPut panel ring s =
      .next (runReleases p (walkEntry p c k r ((tgetD c.rings r.ring {}).put % r.slots) e rest s1)) := by
  simp only [execWalkEntryPut, number, kvOf_of_getCast cast kv, cast, declared, next, room, Bool.not_true, Bool.false_eq_true,
    if_false, withAreas_go access]

end

/-! ## The last row of a scatter (R239, R240) -/

@[simp] theorem kvView_scatterRow {i l g t : Nat} {key value : List Byte} :
    kvView p (scatterRow p i l g t key value s) = kvView p s := by
  have looks {f : Nat → Prop} [DecidablePred f] {o : Option Nat} (u : State) (ps : List Nat) :
      kvView p (ps.foldl (fun s b => if f b then cacheLook o 0 (256 * b) s else s) u) = kvView p u := by
    refine kvView_foldl (fun t b => ?_) ps
    split <;> simp
  have puts {f : Nat → Nat} {bytes : Nat → List Byte} (u : State) (ps : List Nat) :
      kvView p (ps.foldl (fun s x => wr (f x) (bytes x) s) u) = kvView p u := kvView_foldl (fun _ _ => kvView_wr) ps
  unfold scatterRow
  split
  · dsimp only
    split
    · rfl
    · simp [looks, puts]
  · rfl

@[simp] theorem kvView_scatterPos {sc : Scatter} {k : KvDecl} {n0 t : Nat} :
    kvView p (scatterPos p sc k n0 t s) = kvView p s := by
  unfold scatterPos
  refine kvView_foldl (fun u lg => ?_) _
  dsimp only
  split
  · exact kvView_scatterRow
  · rfl

section
variable {sc : Scatter} {x : Slot} {k : KvDecl} {f : Nat} {s1 : State}

theorem pagesReady_ready (h : pagesReady p sc k s = .ready s1) : s1 = s := by
  unfold pagesReady at h
  split at h
  · cases h
  · dsimp only at h
    split at h
    · cases h
    · split at h
      · cases h
      · split at h
        · cases h
        · cases h
          rfl

/-- A scatter that has written all its rows is done. -/
theorem scatterGo_written (slot : getSlot s sc.slot = some x) (keeps : x.rebuild = false)
    (written : x.length + sc.rows ≤ sc.next) : scatterGo p (f + 1) sc s = (sc, true, s) := by
  unfold scatterGo
  rw [slot]
  cases kvOf s p with
  | none => rfl
  | some k => simp only [keeps, written, Bool.false_eq_true, if_false, if_true]

/-- A committed row whose pages are taken and at hand is written, and the scatter goes on with the next. -/
theorem scatterGo_row (slot : getSlot s sc.slot = some x) (kv : kvOf s p = some k) (keeps : x.rebuild = false)
    (left : sc.next < x.length + sc.rows) (committed : sc.next < x.committed) (taken : sc.taken = true)
    (ready : pagesReady p sc k s = .ready s1) :
    scatterGo p (f + 1) sc s =
      scatterGo p f { sc with next := sc.next + 1, waited := false, taken := false } (scatterPos p sc k x.length sc.next s1) := by
  rw [scatterGo]
  simp only [slot, kv, keeps, Bool.false_eq_true, if_false, if_neg (Nat.not_le.2 left), if_neg (Nat.not_le.2 committed), taken,
    if_true, ready]

/-- A scatter's last row is written, and ends it. -/
theorem scatterGo_last (slot : getSlot s sc.slot = some x) (kv : kvOf s p = some k) (keeps : x.rebuild = false)
    (last : sc.next + 1 = x.length + sc.rows) (committed : sc.next < x.committed) (taken : sc.taken = true)
    (ready : pagesReady p sc k s = .ready s1) :
    scatterGo p (f + 2) sc s =
      ({ sc with next := sc.next + 1, waited := false, taken := false }, true, scatterPos p sc k x.length sc.next s1) := by
  obtain rfl := pagesReady_ready ready
  rw [scatterGo_row slot kv keeps (last ▸ Nat.lt_succ_self _) committed taken ready]
  exact scatterGo_written ((getSlot_of_kvView kvView_scatterPos _).trans slot) keeps (Nat.le_of_eq last.symm)

end

/-- The only scatter of a panel that is done leaves no scatter (R240). -/
theorem runScatters_one {c : Cast} {sc sc' : Scatter} {t : State} (cast : getCast s p = some c) (one : c.scatters = [sc])
    (goes : scatterGo p (sc.rows + 2) sc s = (sc', true, t)) (same : kvView p t = kvView p s) :
    runScatters p s = scatterEnd p sc' (modCast p (fun c => { c with scatters := [] }) t) := by
  simp only [runScatters, cast, one, List.foldl_cons, List.foldl_nil, goes, if_true]
  refine congrArg (scatterEnd p sc') (modCast_congr fun d present => ?_)
  obtain ⟨-, scatters⟩ := rings_scatters_of_kvView same cast present
  simp [scatters, one]

end

/-! ## The obligation -/

/-- Settles O22: what an access or a write of the KV engine leaves of the rings, the scatters and the slots (`kvView`) is what
they were, so an entry goes on from its ring's old place, and a scatter ends after its last row. -/
theorem keyValueCommandsComplete : Obligations.KeyValueCommandsComplete := by
  unfold Obligations.KeyValueCommandsComplete
  intro s panel c k p cast kv
  refine ⟨?commands, ?entries, ?scatter⟩
  case commands =>
    intro st d s0
    constructor
    · intro ok lo first blocks r
      refine (execWalk_accepted rfl cast kv ok rfl).trans (congrArg Host.Outcome.next (modCast_congr fun x present => ?_))
      obtain rfl : x = c := Option.some.inj (present.symm.trans cast)
      rw [upto, List.map_map]
      rfl
    · intro ok
      exact execAppend_accepted rfl cast kv ok
  case entries =>
    intro ring r e rest ps s1 w slot done declared next room access
    have view1 : kvView p s1 = kvView p s := kvView_areasAccess access
    have writes := execWalkEntryPut_room rfl cast kv declared next room access
    constructor
    · rintro blocks first n sl rfl
      refine writes.trans (congrArg (fun t => Host.Outcome.next (runReleases p t)) ?_)
      exact entryDone_eq cast (kvView_areaWrite.trans view1)
    · rintro b n sl l g first rfl root pages live usable
      refine writes.trans (congrArg (fun t => Host.Outcome.next (runReleases p t)) ?_)
      refine (walkEntry_block rfl live usable).trans (entryDone_eq cast ?_)
      rw [kvView_bump, kvView_putTiles, kvView_readBlock, view1]
  case scatter =>
    intro sc x s1 one slot keeps last committed taken ready
    have view1 : kvView p s1 = kvView p s := by rw [pagesReady_ready ready]
    exact congrArg Host.Outcome.next (runScatters_one cast one
      (scatterGo_last slot (kvOf_of_getCast cast kv) keeps last committed taken ready) (kvView_scatterPos.trans view1))

end Sys2Proof.Proofs

/-! PROOFS. DISPATCH and its bundles, what reaches a home, and the returns of a home step (R247 to R259). -/
namespace Sys2Proof.Proofs
open Sys2Proof Machine Safety Laws

/-! ## What the route engine's writes leave -/

/-- The cast of a panel, whatever numbers its base dies gave their tiles. -/
def castBut (p : Nat) (s : State) : Option Cast := (getCast s p).map fun c => { c with dieSeq := [] }

/-- A state without what the writes of an engine may change. -/
def outside (s : State) : State := { s with panels := [], mem := [], hanks := [], ctrs := [] }

/-- A view of the state in which neither stored bytes, hanks and counts nor the tile numbers of a panel are seen. -/
structure Unseen {α : Type} (p : Nat) (view : State → α) : Prop where
  stores : ∀ s m h c, view { s with mem := m, hanks := h, ctrs := c } = view s
  numbers : ∀ s (q : Cast → Tbl Nat), view (modCast p (fun c => { c with dieSeq := q c }) s) = view s

theorem foldl_view {α β γ : Type} {view : β → γ} {f : β → α → β} (kept : ∀ t x, view (f t x) = view t)
    (l : List α) {b : β} : view (l.foldl f b) = view b :=
  List.foldlRecOn (motive := fun t => view t = view b) l f rfl fun t same x _ => (kept t x).trans same

theorem outside_modCast {p : Nat} {f : Cast → Cast} {s : State} : outside (modCast p f s) = outside s := by
  unfold modCast modPanel
  split <;> rfl

theorem eq_of_outside {s t : State} (same : outside t = outside s) :
    t = { s with panels := t.panels, mem := t.mem, hanks := t.hanks, ctrs := t.ctrs } :=
  congrArg (fun x : State => { x with panels := t.panels, mem := t.mem, hanks := t.hanks, ctrs := t.ctrs }) same

/-- What does not touch the tile numbers does to a cast what it does to the cast but for them. -/
theorem castBut_modCast {p : Nat} {f : Cast → Cast} {s : State}
    (alike : ∀ c, { f c with dieSeq := [] } = f { c with dieSeq := [] }) :
    castBut p (modCast p f s) = (castBut p s).map f := by
  simp only [castBut, getCast_modCast, Option.map_map, Function.comp_def, alike]

theorem castBut_of_panels {p : Nat} {s t : State} (same : t.panels = s.panels) : castBut p t = castBut p s := by
  unfold castBut getCast
  rw [same]

theorem unseen_castBut {p : Nat} : Unseen p (castBut p) where
  stores _ _ _ _ := rfl
  numbers s q := by simp only [castBut, getCast_modCast, Option.map_map, Function.comp_def]

theorem unseen_outside {p : Nat} : Unseen p outside where
  stores _ _ _ _ := rfl
  numbers _ _ := outside_modCast

namespace Unseen
variable {α : Type} {p : Nat} {view : State → α} {c : Cast} {die area off n : Nat} {l : List Byte} {s : State}

theorem bump (h : Unseen p view) {k : Ctr} : view (bump k n s) = view s := h.stores s _ _ _

theorem modHank (h : Unseen p view) {f : Hank → Hank} : view (modHank n f s) = view s := by
  unfold Machine.modHank
  split
  · exact h.stores s _ _ _
  · rfl

theorem touch (h : Unseen p view) {a : Nat} : view (touch a n s) = view s := by
  unfold Machine.touch
  split
  · exact foldl_view (fun _ _ => h.modHank) _
  · rfl

theorem putBytes (h : Unseen p view) {a : Nat} : view (putBytes a l s) = view s := by
  unfold Machine.putBytes
  split
  · exact h.stores s _ _ _
  · exact h.bump

theorem areaPut (h : Unseen p view) : view (areaPut c area off l s) = view s := by
  unfold Machine.areaPut
  refine foldl_view (view := fun t : List Byte × State => view t.2) (fun _ _ => ?_) _
  dsimp only
  split
  · exact h.putBytes
  · rfl

theorem areaWrite (h : Unseen p view) : view (areaWrite c area off l s) = view s := by
  unfold Machine.areaWrite
  refine (foldl_view (fun _ _ => ?_) _).trans h.areaPut
  split
  · exact h.touch
  · rfl

theorem nextTile (h : Unseen p view) : view (nextTile p die s).2 = view s := h.numbers s _

theorem tileHeaders (h : Unseen p view) {fmt rowB : Nat} : view (tileHeaders p die c area off n fmt rowB s) = view s := by
  unfold Machine.tileHeaders
  split
  · rfl
  · exact foldl_view (fun _ _ => h.areaWrite.trans h.nextTile) _

theorem tileWrite (h : Unseen p view) {fmt rowB : Nat} : view (tileWrite p die c area off fmt rowB l s) = view s :=
  h.tileHeaders.trans h.areaWrite

theorem writeSlot (h : Unseen p view) {d : ExpertDecl} {ret : Bool} {layer source step : Nat} {segs : List Segment} :
    view (writeSlot p die c d ret area off layer source step segs s) = view s := by
  unfold Machine.writeSlot
  refine (h.tileHeaders.trans h.tileHeaders).trans ?_
  refine (foldl_view (view := fun t : List Byte × State => view t.2) (fun _ _ => ?_) _).trans h.areaWrite
  exact h.areaWrite.trans h.nextTile

theorem countDrops (h : Unseen p view) {q layer : Nat} {segs : List Segment} :
    view (segs.foldl (fun s g => if g.localDrops = 0 then s else Machine.bump (.drops q layer g.expert) g.localDrops s) s) =
      view s := by
  refine foldl_view (fun _ _ => ?_) _
  split
  · rfl
  · exact h.bump

end Unseen

/-! ## DISPATCH (R247, R248, R252, R254) -/

section
variable {p layer source step tokens : Nat} {c : Cast} {d : ExpertDecl} {s s2 : State}

/-- The choices of the tokens of a DISPATCH, with their gate weights. -/
def tokenChoices (s : State) (c : Cast) (d : ExpertDecl) (source tokens : Nat) : List (List (Nat × Nat)) :=
  (List.range tokens).map fun k =>
    (gate d (words32 (areaRead s c (lgetD d.scoreArea source 0) (4 * d.experts * k) (4 * d.experts)) d.experts)).1.map
      fun e => (e.2, gateWeight e.1)

/-- The row of a token at its source. -/
def tokenRow (s : State) (c : Cast) (d : ExpertDecl) (source k : Nat) : List Byte :=
  areaRead s c (lgetD d.rowArea source 0) (k * rowOf d d.xfmt) (rowOf d d.xfmt)

/-- The step that a DISPATCH opens at its source. -/
def openedStep (d : ExpertDecl) (layer source step : Nat) (choices : List (List (Nat × Nat))) : SrcStep :=
  { layer := layer, source := source, step := step, returns := [], experts := []
    choices := choices.map fun l => l.map fun ch => (ch.1, BitVec.ofNat 32 ch.2)
    sentDrop := (List.range d.experts).flatMap fun e => (choicesOf choices e).drop d.cap }

/-- The bundle that a DISPATCH leaves in the inbox of a home of this part, not yet announced. -/
def homeBundle (layer source step : Nat) (segs : List Segment) (h : Nat × Nat) : Bundle :=
  { layer := layer, source := source, step := step, stack := h.2, part := h.1, ret := false, announced := false
    segs := segs }

theorem gateAll_choices (rows : List (List Nat)) :
    (gateAll d rows).1 = rows.map fun scores => (gate d scores).1.map fun e => (e.2, gateWeight e.1) := by
  induction rows with
  | nil => rfl
  | cons scores rows ih => exact congrArg _ ih

theorem gateAll_tokens : (gateAll d ((List.range tokens).map fun t =>
      words32 (areaRead s c (lgetD d.scoreArea source 0) (4 * d.experts * t) (4 * d.experts)) d.experts)).1 =
    tokenChoices s c d source tokens := by
  rw [gateAll_choices, List.map_map]
  rfl

theorem dispatchSegs_segs : (dispatchSegs s c d layer source step tokens).1 =
    (List.range d.experts).map (dispatchSeg d (tokenRow s c d source) (tokenChoices s c d source tokens)) := by
  rw [← gateAll_tokens]
  rfl

theorem dispatchSegs_opened : (dispatchSegs s c d layer source step tokens).2.1 =
    openedStep d layer source step (tokenChoices s c d source tokens) := by
  rw [← gateAll_tokens]
  rfl

/-- A home's share of the segments is the segments of its experts. -/
theorem filter_dispatchSegs (h : Nat × Nat) :
    (dispatchSegs s c d layer source step tokens).1.filter (fun g => (homedAt d h.1 h.2).contains g.expert) =
      ((List.range d.experts).filter fun e => (homedAt d h.1 h.2).contains e).map
        (dispatchSeg d (tokenRow s c d source) (tokenChoices s c d source tokens)) := by
  rw [dispatchSegs_segs, List.filter_map]
  rfl

theorem castBut_writeBundle {segs : List Segment} {h : Nat × Nat} (here : h.1 = c.img.pat.selfPart) :
    castBut p (writeBundle p c d layer source step segs h s) = (castBut p s).map fun x => { x with
      inbox := x.inbox ++
        [homeBundle layer source step (segs.filter fun g => (homedAt d h.1 h.2).contains g.expert) h] } := by
  unfold writeBundle
  rw [if_pos here, unseen_castBut.writeSlot]
  exact castBut_modCast fun _ => rfl

theorem outside_writeBundle {segs : List Segment} {h : Nat × Nat} :
    outside (writeBundle p c d layer source step segs h s) = outside s := by
  unfold writeBundle
  dsimp only
  split
  · exact unseen_outside.writeSlot.trans outside_modCast
  · exact unseen_outside.writeSlot

/-- Each home of this part finds one more bundle in its inbox, in the order of the homes. -/
theorem castBut_writeBundles {segs : List Segment} {hs : List (Nat × Nat)} (here : ∀ h ∈ hs, h.1 = c.img.pat.selfPart) :
    castBut p (hs.foldl (fun s h => writeBundle p c d layer source step segs h s) s) = (castBut p s).map fun x => { x with
      inbox := x.inbox ++ hs.map fun h =>
        homeBundle layer source step (segs.filter fun g => (homedAt d h.1 h.2).contains g.expert) h } := by
  induction hs generalizing s with
  | nil => simp
  | cons h hs ih =>
    obtain ⟨first, rest⟩ := List.forall_mem_cons.1 here
    rw [List.foldl_cons, ih rest, castBut_writeBundle first]
    simp [Option.map_map, Function.comp_def]

theorem homeStacks_here (here : ∀ h ∈ d.homes, h.part = c.img.pat.selfPart) :
    ∀ h ∈ homeStacks d, h.1 = c.img.pat.selfPart := by
  intro h mem
  obtain ⟨e, home, rfl⟩ := List.mem_map.1 (List.mem_eraseDups.1 mem)
  exact here e home

/-- A cast that is known but for its tile numbers. -/
theorem exists_getCast_of_castBut {x : Cast} (known : castBut p s = some x) :
    ∃ q, getCast s p = some { x with dieSeq := q } := by
  obtain ⟨y, found, rfl⟩ := Option.map_eq_some_iff.1 known
  exact ⟨y.dieSeq, found⟩

/-- A DISPATCH none of whose homes lies elsewhere counts its choices, opens its step, and writes a bundle for every home. -/
theorem dispatchRun_here (before : getCast s p = some c) (declared : expertLayer c layer = some d)
    (good : checkAreas p (dispatchReads d source tokens) s = (true, s2))
    (here : ∀ h ∈ homeStacks d, h.1 = c.img.pat.selfPart) :
    dispatchRun p layer source step tokens s =
      let g := dispatchSegs s2 c d layer source step tokens
      (homeStacks d).foldl (fun s h => writeBundle p c d layer source step g.1 h s)
        (modCast p (fun x => { x with srcSteps := x.srcSteps ++ [g.2.1] })
          (g.1.foldl (fun s g => if g.localDrops = 0 then s else bump (.drops p layer g.expert) g.localDrops s)
            (bump (.forced p layer) g.2.2.1 (bump (.nonFinite p layer) g.2.2.2 s2)))) := by
  have noneAway : (homeStacks d).any (fun h => h.1 != c.img.pat.selfPart) = false := by
    simpa [List.any_eq_false] using here
  simp only [dispatchRun, before, declared, good, noneAway, Bool.false_eq_true, if_false]

theorem outside_dispatchRun (before : getCast s p = some c) (declared : expertLayer c layer = some d)
    (good : checkAreas p (dispatchReads d source tokens) s = (true, s2))
    (here : ∀ h ∈ homeStacks d, h.1 = c.img.pat.selfPart) :
    outside (dispatchRun p layer source step tokens s) = outside s2 := by
  have unseen : Unseen p outside := unseen_outside
  rw [dispatchRun_here before declared good here]
  refine (foldl_view (fun _ _ => outside_writeBundle) _).trans (outside_modCast.trans ?_)
  rw [unseen.countDrops, unseen.bump, unseen.bump]

theorem castBut_dispatchRun (before : getCast s p = some c) (declared : expertLayer c layer = some d)
    (good : checkAreas p (dispatchReads d source tokens) s = (true, s2)) (after : getCast s2 p = some c)
    (here : ∀ h ∈ homeStacks d, h.1 = c.img.pat.selfPart) :
    castBut p (dispatchRun p layer source step tokens s) = some { c with
      dieSeq := []
      srcSteps := c.srcSteps ++ [openedStep d layer source step (tokenChoices s2 c d source tokens)]
      inbox := c.inbox ++ (homeStacks d).map fun h => homeBundle layer source step
        (((List.range d.experts).filter fun e => (homedAt d h.1 h.2).contains e).map
          (dispatchSeg d (tokenRow s2 c d source) (tokenChoices s2 c d source tokens))) h } := by
  have cast : castBut p s2 = some { c with dieSeq := [] } := by rw [castBut, after, Option.map_some]
  rw [dispatchRun_here before declared good here, castBut_writeBundles here, castBut_modCast (fun _ => rfl),
    unseen_castBut.countDrops, unseen_castBut.bump, unseen_castBut.bump, cast]
  simp only [Option.map_some, dispatchSegs_opened, filter_dispatchSegs]

theorem dispatchRun_dispatched (before : getCast s p = some c) (declared : expertLayer c layer = some d)
    (good : checkAreas p (dispatchReads d source tokens) s = (true, s2)) (after : getCast s2 p = some c)
    (here : ∀ h ∈ d.homes, h.part = c.img.pat.selfPart) :
    Dispatched p c d layer source step tokens s2 (dispatchRun p layer source step tokens s) := by
  have homes := homeStacks_here here
  obtain ⟨q, cast⟩ := exists_getCast_of_castBut (castBut_dispatchRun before declared good after homes)
  exact ⟨eq_of_outside (outside_dispatchRun before declared good homes), q, cast⟩

/-- A DISPATCH whose areas can be read runs from what has been taken of it. -/
theorem dispatchNow_dispatched {r : Rec64} {taken : State → State} {c1 : Cast} {ps : List (Nat × Nat)} {s1 : State}
    (cast : getCast s p = some c) (declared : expertLayer c (rcLayer r) = some d)
    (access : areasAccess p (dispatchReads d (rcSource r) (rcTokens r)) [] s = .go ps s1)
    (good : checkAreas p (dispatchReads d (rcSource r) (rcTokens r)) (taken s1) = (true, s2))
    (before : getCast (taken s1) p = some c1) (after : getCast s2 p = some c1)
    (declared1 : expertLayer c1 (rcLayer r) = some d) (here : ∀ h ∈ d.homes, h.part = c1.img.pat.selfPart) :
    Dispatched p c1 d (rcLayer r) (rcSource r) (rcStep r) (rcTokens r) s2 (dispatchNow p r taken s) := by
  have ran : dispatchNow p r taken s = dispatchRun p (rcLayer r) (rcSource r) (rcStep r) (rcTokens r) (taken s1) := by
    simp only [dispatchNow, cast, Option.bind_some, declared, access]
  exact ran ▸ dispatchRun_dispatched before declared1 good after here

end

/-! ## Steps at a home (R255, R256) -/

theorem startEpoch_panels {key : Nat} {w : BitVec 64} {s : State} : (startEpoch key w s).panels = s.panels := by
  unfold startEpoch
  split <;> rfl

theorem applyParked_panels {key : Nat} {s : State} : (applyParked key s).panels = s.panels := by
  unfold applyParked
  split
  · split
    · split
      · exact startEpoch_panels
      · rfl
    · rfl
  · rfl

theorem countStore_panels {key : Nat} {w : BitVec 64} {s : State} : (countStore key w s).panels = s.panels := by
  refine Eq.trans ?_ (applyParked_panels (key := key))
  unfold countStore
  generalize applyParked key s = t
  dsimp only
  split
  · rfl
  · split
    · rfl
    · split
      · split <;> rfl
      · split
        · exact startEpoch_panels
        · split <;> rfl

section
variable {p layer st step : Nat} {c : Cast} {d : ExpertDecl} {s : State} {h : HomeStep} {b : Bundle}

theorem castBut_raiseCount {n : Nat} {final : Bool} : castBut p (raiseCount c d st step n final s) = castBut p s := by
  unfold raiseCount
  split
  · rfl
  · split
    · rfl
    · exact (castBut_of_panels countStore_panels).trans unseen_castBut.areaWrite

theorem castBut_appendProblem {n : Nat} {r : Rec64} : castBut p (appendProblem c d st step n r s) = castBut p s :=
  castBut_raiseCount.trans unseen_castBut.areaWrite

theorem castBut_placeSeg {part source : Nat} {g : Segment} :
    castBut p (placeSeg p part st source c d h g s).2 = castBut p s := by
  unfold placeSeg
  refine (foldl_view (view := fun t : Nat × State => castBut p t.2) (fun _ _ => castBut_appendProblem) _).trans ?_
  rw [unseen_castBut.bump]
  split
  · exact unseen_castBut.tileWrite
  · exact unseen_castBut.bump.trans unseen_castBut.tileWrite

theorem castBut_takeBundle : castBut p (takeBundle p layer st step c d b h s).2 = castBut p s := by
  have placed := foldl_view (view := fun t : HomeStep × State => castBut p t.2)
    (f := fun acc g => placeSeg p c.img.pat.selfPart st b.source c d acc.1 g acc.2) (fun _ _ => castBut_placeSeg) b.segs
    (b := (h, s))
  unfold takeBundle
  dsimp only
  split
  · exact castBut_raiseCount.trans ((foldl_view (fun _ _ => unseen_castBut.bump) _).trans placed)
  · exact placed

/-- Whether a home step is the one of a layer, a stack and a STEP. -/
def isStep (layer st step : Nat) (y : HomeStep) : Bool := y.layer == layer && y.stack == st && y.step == step

theorem isStep_iff : isStep layer st step h = true ↔ h.layer = layer ∧ h.stack = st ∧ h.step = step := by
  simp [isStep, and_assoc]

theorem isStep_homeStepOf : isStep layer st step (homeStepOf c layer st step) = true := by
  unfold homeStepOf
  cases found : c.homeSteps.find? fun h => h.layer == layer && h.stack == st && h.step == step with
  | none => simp [isStep]
  | some h => exact List.find?_some found

theorem isStep_takeBundle :
    isStep layer st step (takeBundle p layer st step c d b h s).1 = isStep layer st step h := by
  have placed := foldl_view (view := fun t : HomeStep × State => isStep layer st step t.1)
    (f := fun acc g => placeSeg p c.img.pat.selfPart st b.source c d acc.1 g acc.2) (fun _ _ => rfl) b.segs (b := (h, s))
  unfold takeBundle
  dsimp only
  split <;> exact placed

/-- The home steps with one put in its place, or behind the others. -/
def putStep (h : HomeStep) (l : List HomeStep) : List HomeStep :=
  if l.any (isStep h.layer h.stack h.step) then l.map fun y => if isStep h.layer h.stack h.step y then h else y
  else l ++ [h]

theorem putHomeStep_eq : putHomeStep p h s = modCast p (fun x => { x with homeSteps := putStep h x.homeSteps }) s := rfl

theorem isStep_self : isStep h.layer h.stack h.step h = true := isStep_iff.2 ⟨rfl, rfl, rfl⟩

/-- A home step that is listed stays where it stands. -/
theorem putStep_of_any {l : List HomeStep} (listed : l.any (isStep h.layer h.stack h.step) = true) :
    putStep h l = l.map fun y => if isStep h.layer h.stack h.step y then h else y := if_pos listed

theorem find?_putStep (l : List HomeStep) : (putStep h l).find? (isStep h.layer h.stack h.step) = some h := by
  unfold putStep
  split
  · next listed =>
    have kept : (isStep h.layer h.stack h.step ∘ fun y => if isStep h.layer h.stack h.step y then h else y) =
        isStep h.layer h.stack h.step := by
      funext y
      by_cases same : isStep h.layer h.stack h.step y = true <;> simp [same, isStep_self]
    obtain ⟨y, found⟩ := Option.isSome_iff_exists.1 (List.find?_isSome.2 (List.any_eq_true.1 listed))
    rw [List.find?_map, kept, found, Option.map_some, if_pos (List.find?_some found)]
  · next unlisted =>
    have none_ : l.find? (isStep h.layer h.stack h.step) = none := by
      simpa [List.find?_eq_none] using unlisted
    rw [List.find?_append, none_, Option.none_or, List.find?_cons_of_pos isStep_self]

theorem eq_of_mem_putStep {y : HomeStep} {l : List HomeStep} (mem : y ∈ putStep h l)
    (same : isStep h.layer h.stack h.step y = true) : y = h := by
  unfold putStep at mem
  split at mem
  · obtain ⟨z, -, rfl⟩ := List.mem_map.1 mem
    by_cases old : isStep h.layer h.stack h.step z = true
    · exact if_pos old
    · rw [if_neg old] at same
      exact absurd same old
  · next unlisted =>
    rcases List.mem_append.1 mem with other | put
    · exact absurd (List.any_eq_true.2 ⟨y, other, same⟩) unlisted
    · exact List.mem_singleton.1 put

theorem putStep_putStep (l : List HomeStep) : putStep h (putStep h l) = putStep h l := by
  have listed : (putStep h l).any (isStep h.layer h.stack h.step) = true :=
    List.any_eq_true.2 ⟨h, List.mem_of_find?_eq_some (find?_putStep l), isStep_self⟩
  rw [putStep_of_any listed]
  refine (List.map_congr_left fun y mem => ?_).trans (List.map_id _)
  by_cases same : isStep h.layer h.stack h.step y = true
  · rw [if_pos same, eq_of_mem_putStep mem same, id]
  · rw [if_neg same, id]

theorem modCast_modCast {f g : Cast → Cast} : modCast p f (modCast p g s) = modCast p (fun x => f (g x)) s := by
  unfold modCast modPanel
  cases found : tget s.panels p with
  | none => simp only [found]
  | some x => simp [setPanel, Function.comp_def]

theorem putHomeStep_putHomeStep : putHomeStep p h (putHomeStep p h s) = putHomeStep p h s := by
  simp only [putHomeStep_eq, modCast_modCast, putStep_putStep]

theorem homeStepOf_putStep (same : isStep layer st step h = true) :
    homeStepOf { c with homeSteps := putStep h c.homeSteps } layer st step = h := by
  obtain ⟨rfl, rfl, rfl⟩ := isStep_iff.1 same
  exact congrArg (Option.getD · _) (find?_putStep c.homeSteps)

/-! ## How far a home goes (R255, R257, R259) -/

section
variable {fuel : Nat} {nb : Bundle} {q : HomeStep × State} (cast : getCast s p = some c)
  (declared : expertLayer c layer = some d)
include cast declared

theorem homeGo_holds (more : (homeStepOf c layer st step).done < d.sources)
    (held : nextBundle c layer st step (homeStepOf c layer st step) = none ∨
      (homeBusy c d layer st step = true ∧ stepEmpty c d layer st step = false)) :
    homeGo p layer st step (fuel + 1) s = putHomeStep p (homeStepOf c layer st step) s := by
  simp only [homeGo, cast, declared, if_neg (Nat.not_le.2 more)]
  rcases held with none_ | ⟨busy, filled⟩
  · simp only [none_, ite_self]
  · simp only [busy, filled, Bool.not_false, Bool.and_self, if_true]

theorem homeGo_takes (more : (homeStepOf c layer st step).done < d.sources)
    (next : nextBundle c layer st step (homeStepOf c layer st step) = some nb) (free : homeBusy c d layer st step = false)
    (taking : takeBundle p layer st step c d nb (homeStepOf c layer st step) s = q) :
    homeGo p layer st step (fuel + 1) s = homeGo p layer st step fuel (putHomeStep p q.1 q.2) := by
  simp only [homeGo, cast, declared, if_neg (Nat.not_le.2 more), free, Bool.false_and, Bool.false_eq_true, if_false, next,
    taking]

/-- A home that has taken every bundle that is there stays where it is. -/
theorem homeGo_stays (put : putHomeStep p (homeStepOf c layer st step) s = s)
    (waits : (homeStepOf c layer st step).done = d.sources ∨ nextBundle c layer st step (homeStepOf c layer st step) = none) :
    homeGo p layer st step (fuel + 1) s = s := by
  simp only [homeGo, cast, declared]
  split
  · rfl
  · next more =>
    rcases waits with all | none_
    · exact absurd (Nat.le_of_eq all.symm) more
    · simp only [none_, put, ite_self]

/-- The home takes the one bundle that is there and waits for the next. -/
theorem homeGo_takes_one (more : (homeStepOf c layer st step).done < d.sources)
    (next : nextBundle c layer st step (homeStepOf c layer st step) = some nb) (free : homeBusy c d layer st step = false)
    (taking : takeBundle p layer st step c d nb (homeStepOf c layer st step) s = q)
    (last : q.1.done = d.sources ∨ nextBundle c layer st step q.1 = none) :
    homeGo p layer st step (fuel + 2) s = putHomeStep p q.1 q.2 := by
  have seen : castBut p q.2 = some { c with dieSeq := [] } := by
    rw [← taking, castBut_takeBundle, castBut, cast, Option.map_some]
  have named : isStep layer st step q.1 = true := by
    rw [← taking, isStep_takeBundle, isStep_homeStepOf]
  obtain ⟨n, taken⟩ := exists_getCast_of_castBut seen
  have after : getCast (putHomeStep p q.1 q.2) p = some { c with dieSeq := n, homeSteps := putStep q.1 c.homeSteps } := by
    rw [putHomeStep_eq, getCast_modCast, taken, Option.map_some]
  have present := homeStepOf_putStep (c := { c with dieSeq := n }) named
  refine (homeGo_takes cast declared more next free taking).trans (homeGo_stays after declared ?_ ?_)
  · rw [present, putHomeStep_putHomeStep]
  · rw [present]
    exact last

end

end

/-! ## What reaches a home or a source (R254, R255, R258) -/

section
variable {p st source step : Nat} {c : Cast} {d : ExpertDecl} {s s2 : State}

/-- The segments of an inbox slot whose tiles are good. -/
theorem takeInbox_good {off : Nat} (place : inboxOff d source step = off)
    (good : checkSlot c d false ((atStack d.inboxArea st).getD 0) off (homedAt d c.img.pat.selfPart st).length off 0 s =
      (true, s2)) :
    takeInbox p st source step c d s =
      (some (readSlot s2 c d false ((atStack d.inboxArea st).getD 0) off (homedAt d c.img.pat.selfPart st).length), s2) := by
  simp only [takeInbox, place, good]

/-- The bundle that an ARRIVE brings, its segments read. -/
def arrivedBundle (st : Nat) (r : Rec64) (g : List Segment) : Bundle :=
  { layer := rcLayer r, source := rcSource r, step := rcStep r, stack := st, part := rcPart r, ret := false, segs := g
    announced := true }

/-- A bundle of the inbox once the home has been told of it, if it is the one that was new. -/
def announcedBundle (layer st source step : Nat) (g : List Segment) (b : Bundle) : Bundle :=
  if isNewBundle layer st source step b then { b with announced := true, segs := g } else b

theorem execArrive_good {panel : BitVec 4} {stack : BitVec 2} {r : Rec64} {ps : List (Nat × Nat)} {s1 : State}
    {g : List Segment} (cast : getCast s panel.toNat = some c) (declared : expertLayer c (rcLayer r) = some d)
    (ok : routeOk c 2 stack.toNat r = true)
    (access : areasAccess panel.toNat (inboxReads d stack.toNat (rcSource r) (rcStep r)) [] s = .go ps s1)
    (read : takeInbox panel.toNat stack.toNat (rcSource r) (rcStep r) c d
      (remember panel.toNat 2 stack.toNat r (unpost panel.toNat stack.toNat r s1)) = (some g, s2)) :
    execArrive panel stack r s = .next (homeGo panel.toNat (rcLayer r) stack.toNat (rcStep r) 65
      (modCast panel.toNat (fun x => { x with inbox := x.inbox ++ [arrivedBundle stack.toNat r g] }) s2)) := by
  simp only [execArrive, cast, declared, ok, Bool.not_true, Bool.false_eq_true, if_false, access, read,
    arrivedBundle]

theorem execBundleAnnounce_good {panel : BitVec 4} {stack : BitVec 2} {layer source : BitVec 6} {step : BitVec 16}
    {ps : List (Nat × Nat)} {s1 : State} {g : List Segment} (cast : getCast s panel.toNat = some c)
    (declared : expertLayer c layer.toNat = some d)
    (there : c.inbox.any (isNewBundle layer.toNat stack.toNat source.toNat step.toNat) = true)
    (access : areasAccess panel.toNat (inboxReads d stack.toNat source.toNat step.toNat) [] s = .go ps s1)
    (read : takeInbox panel.toNat stack.toNat source.toNat step.toNat c d s1 = (some g, s2)) :
    execBundleAnnounce panel stack layer source step s = .next (homeGo panel.toNat layer.toNat stack.toNat step.toNat 65
      (modCast panel.toNat (fun x => { x with
        inbox := x.inbox.map (announcedBundle layer.toNat stack.toNat source.toNat step.toNat g) }) s2)) := by
  simp only [execBundleAnnounce, cast, declared, there, if_true, withAreas_go access, announceGo, read]
  rfl

/-- Whether a step is the one of a layer, a source and a STEP. -/
def isOpened (layer source step : Nat) (y : SrcStep) : Bool := y.layer == layer && y.source == source && y.step == step

/-- A step once return segments of its layer, source and STEP have come. -/
def withReturns (layer source step : Nat) (segs : List Segment) (y : SrcStep) : SrcStep :=
  if isOpened layer source step y then
    { y with returns := y.returns ++ segs, experts := y.experts ++ segs.map (·.expert) }
  else y

theorem isOpened_withReturns {layer : Nat} {segs : List Segment} :
    isOpened layer source step ∘ withReturns layer source step segs = isOpened layer source step := by
  funext y
  rw [Function.comp_apply, withReturns]
  split <;> rfl

theorem find?_withReturns {layer : Nat} {segs : List Segment} {y : SrcStep} {l : List SrcStep}
    (found : l.find? (isOpened layer source step) = some y) :
    (l.map (withReturns layer source step segs)).find? (isOpened layer source step) =
      some { y with returns := y.returns ++ segs, experts := y.experts ++ segs.map (·.expert) } := by
  rw [List.find?_map, isOpened_withReturns, found, Option.map_some, withReturns, if_pos (List.find?_some found)]

/-- A step whose returns are not all there goes on waiting (R258). -/
theorem combine_waits {layer e : Nat} {y : SrcStep} (cast : getCast s p = some c) (declared : expertLayer c layer = some d)
    (opened : c.srcSteps.find? (isOpened layer source step) = some y)
    (expert : e < d.experts) (missing : e ∉ y.experts) : combine p layer source step s = s := by
  have waits : ((List.range d.experts).all fun e => y.experts.contains e) = false :=
    List.all_eq_false.2 ⟨e, List.mem_range.2 expert, by simpa using missing⟩
  have present : (c.srcSteps.find? fun y => y.layer == layer && y.source == source && y.step == step) = some y := opened
  simp only [combine, cast, declared, present, waits, Bool.not_false, if_true]

theorem takeReturns_waits {layer e : Nat} {y : SrcStep} {segs : List Segment} (cast : getCast s p = some c)
    (declared : expertLayer c layer = some d) (opened : c.srcSteps.find? (isOpened layer source step) = some y)
    (expert : e < d.experts) (missing : e ∉ y.experts ++ segs.map (·.expert)) :
    takeReturns p layer source step segs s =
      modCast p (fun x => { x with srcSteps := x.srcSteps.map (withReturns layer source step segs) }) s := by
  have after : getCast (modCast p (fun x => { x with srcSteps := x.srcSteps.map (withReturns layer source step segs) }) s) p =
      some { c with srcSteps := c.srcSteps.map (withReturns layer source step segs) } := by
    rw [getCast_modCast, cast, Option.map_some]
  exact combine_waits after declared (find?_withReturns opened) expert missing

theorem takeReturnSlot_good {layer : Nat} {h : Nat × Nat}
    (good : checkSlot c d true (lgetD d.retArea source 0) (homeOff d true h.1 h.2 step) (homedAt d h.1 h.2).length
      (homeOff d true h.1 h.2 step) 0 s = (true, s2)) :
    takeReturnSlot p layer source step c d h s = takeReturns p layer source step
      (readSlot s2 c d true (lgetD d.retArea source 0) (homeOff d true h.1 h.2 step) (homedAt d h.1 h.2).length) s2 := by
  simp only [takeReturnSlot, good]

theorem execRet_one {panel : BitVec 4} {stack : BitVec 2} {r : Rec64} {ps : List (Nat × Nat)} {s1 : State}
    {h : Nat × Nat} (cast : getCast s panel.toNat = some c) (declared : expertLayer c (rcLayer r) = some d)
    (ok : routeOk c 3 stack.toNat r = true)
    (single : (homeStacks d).filter (fun h => h.1 == rcPart r) = [h])
    (access : areasAccess panel.toNat (returnReads d (rcPart r) (rcSource r) (rcStep r)) [] s = .go ps s1) :
    execRet panel stack r s = .next (takeReturnSlot panel.toNat (rcLayer r) (rcSource r) (rcStep r) c d h
      (remember panel.toNat 3 stack.toNat r (unpost panel.toNat stack.toNat r s1))) := by
  simp only [execRet, cast, declared, ok, Bool.not_true, Bool.false_eq_true, if_false, access, single, List.foldl_cons,
    List.foldl_nil]

/-! ## Which command runs (R257, R259) -/

theorem execDispatch_third {panel : BitVec 4} {stack : BitVec 2} {r : Rec64} (cast : getCast s panel.toNat = some c)
    (ok : routeOk c 1 stack.toNat r = true) (third : mayOpen c (rcLayer r) (rcStep r) = false) :
    execDispatch panel stack r s = .next (bump (.dispatchWaits panel.toNat (rcLayer r)) 1
      (modCast panel.toNat (fun x => { x with waitDispatch := x.waitDispatch ++ [(stack.toNat, r)] })
        (remember panel.toNat 1 stack.toNat r (unpost panel.toNat stack.toNat r s)))) := by
  simp only [execDispatch, cast, ok, third, Bool.not_true, Bool.false_eq_true, if_false]

theorem execDispatch_may {panel : BitVec 4} {stack : BitVec 2} {r : Rec64} (cast : getCast s panel.toNat = some c)
    (ok : routeOk c 1 stack.toNat r = true) (may : mayOpen c (rcLayer r) (rcStep r) = true) :
    execDispatch panel stack r s = .next (dispatchNow panel.toNat r
      (fun s => remember panel.toNat 1 stack.toNat r (unpost panel.toNat stack.toNat r s)) s) := by
  simp only [execDispatch, cast, ok, may, Bool.not_true, Bool.false_eq_true, if_false, if_true]

theorem execDispatchResume_first {panel : BitVec 4} {layer : BitVec 6} {w : Nat × Rec64}
    (cast : getCast s panel.toNat = some c)
    (first : c.waitDispatch.find? (fun w => rcLayer w.2 == layer.toNat && mayOpen c (rcLayer w.2) (rcStep w.2)) = some w) :
    execDispatchResume panel layer s = .next (dispatchNow panel.toNat w.2
      (modCast panel.toNat fun x => { x with waitDispatch := x.waitDispatch.erase w }) s) := by
  simp only [execDispatchResume, cast, first]

/-- The returns of the first complete home step at a stack are written in the order of its inbox, and the home goes on. -/
theorem execExpertReturnWrite_complete {panel : BitVec 4} {stack : BitVec 2} {layer : BitVec 6} {h : HomeStep}
    {ps : List (Nat × Nat)} {s1 : State} (cast : getCast s panel.toNat = some c)
    (declared : expertLayer c layer.toNat = some d)
    (complete : c.homeSteps.find? (fun h => h.layer == layer.toNat && h.stack == stack.toNat && homeReady s c d h) = some h)
    (access : areasAccess panel.toNat (resultReads d c.img.pat.selfPart h) [] s = .go ps s1) :
    execExpertReturnWrite panel stack layer s = .next (returnStep panel.toNat c d h s1) := by
  simp only [execExpertReturnWrite, cast, declared, complete, withAreas_go access]

end

/-! ## The obligation -/

/-- Settles O23: the writes of the route engine leave the cast but for its tile numbers (`castBut`), so a home step that has
taken a bundle is found again as it was put, and the home stops where no bundle is next. -/
theorem expertCommandsComplete : Obligations.ExpertCommandsComplete := by
  unfold Obligations.ExpertCommandsComplete
  intro s panel st p
  refine ⟨?routes, ?layers⟩
  case routes =>
    intro r c d taken l cast declared
    refine ⟨fun ok => ⟨?waits, ?runs⟩, ?arrives, ?returns⟩
    case waits =>
      intro third
      exact execDispatch_third cast ok third
    case runs =>
      intro ps s1 s2 c1 may here access good before after declared1 same
      exact ⟨_, execDispatch_may cast ok may,
        dispatchNow_dispatched cast declared access good before after declared1 (same ▸ here)⟩
    case arrives =>
      intro ps s1 s2 c1 nb area off n b s3 h ok access good cast1 declared1 more
      have arrives := execArrive_good cast declared ok access (takeInbox_good rfl good)
      refine ⟨fun held => ?_, fun next free last => ?_⟩
      · refine arrives.trans (congrArg Host.Outcome.next ?_)
        exact homeGo_holds (fuel := 64) cast1 declared1 more held
      · refine arrives.trans (congrArg Host.Outcome.next ?_)
        exact homeGo_takes_one (fuel := 63) cast1 declared1 more next free rfl last
    case returns =>
      intro ps s1 s2 c1 y home area off n segs ok one access good cast1 declared1 opened missing
      obtain ⟨e, expert, absent⟩ := missing
      refine (execRet_one cast declared ok one access).trans (congrArg Host.Outcome.next ?_)
      refine (takeReturnSlot_good (h := (rcPart r, home)) (source := rcSource r) (step := rcStep r) good).trans ?_
      exact takeReturns_waits (segs := segs) cast1 declared1 opened expert absent
  case layers =>
    intro layer c d cast declared
    refine ⟨?resumes, ?announces, ?writes⟩
    case resumes =>
      intro w ps s1 s2 c1 reads taken first here access good before after declared1 same
      obtain ⟨named, -⟩ : rcLayer w.2 = layer.toNat ∧ _ := by simpa using List.find?_some first
      rw [← named] at declared declared1 ⊢
      exact ⟨_, execDispatchResume_first cast first,
        dispatchNow_dispatched cast declared access good before after declared1 (same ▸ here)⟩
    case announces =>
      intro source step ps s1 s2 c1 nb is area off n g s3 h there access good cast1 declared1 more
      have announces := execBundleAnnounce_good cast declared there access (takeInbox_good rfl good)
      refine ⟨fun held => ?_, fun next free last => ?_⟩
      · refine announces.trans (congrArg Host.Outcome.next ?_)
        exact homeGo_holds (fuel := 64) cast1 declared1 more held
      · refine announces.trans (congrArg Host.Outcome.next ?_)
        exact homeGo_takes_one (fuel := 63) cast1 declared1 more next free rfl last
    case writes =>
      intro h ps s1 s2 mine me s3 complete access good t
      refine (execExpertReturnWrite_complete cast declared complete access).trans (congrArg Host.Outcome.next ?_)
      obtain ⟨⟨layerIs, stackIs⟩, -⟩ : (h.layer = layer.toNat ∧ h.stack = st.toNat) ∧ _ := by
        simpa using List.find?_some complete
      simp only [returnStep, writeReturns, layerIs, stackIs]
      rw [good]

end Sys2Proof.Proofs

/-! PROOFS. BIND_OFF with its drain limit and its teardown (R277, R280, R292). -/
namespace Sys2Proof.Proofs
open Sys2Proof Machine Safety Laws

/-! ## Updates of one panel after another -/

section
variable {p : Nat} {x y : Panel} {s : State}

theorem setPanel_setPanel : setPanel p y (setPanel p x s) = setPanel p y s := by
  simp only [setPanel, tset_tset]

theorem modPanel_setPanel {f : Panel → Panel} : modPanel p f (setPanel p x s) = setPanel p (f x) s :=
  (modPanel_of_some getPanel_setPanel).trans setPanel_setPanel

theorem modCast_setPanel {f : Cast → Cast} : modCast p f (setPanel p x s) = setPanel p { x with cast := x.cast.map f } s :=
  modPanel_setPanel

theorem modCast_of_getPanel {f : Cast → Cast} (found : getPanel s p = some x) :
    modCast p f s = setPanel p { x with cast := x.cast.map f } s :=
  modPanel_of_some found

theorem getCast_of_getPanel {c : Cast} (found : getPanel s p = some x) (loaded : x.cast = some c) :
    getCast s p = some c := by
  rw [getPanel] at found
  rw [getCast, found, Option.bind_some, loaded]

end

/-! ## BIND_OFF is taken (R277) -/

section
variable {p : Nat} {x : Panel} {d : Rec64} {s : State}

theorem exec_bindOff_taken (taken : Taken 0x84 d s) :
    exec (.bindOff d) s = .next (runBindOff s.nextId (setFld d 0 1 0x84) (running 0x84 d s)) := by
  show Host.Outcome.next (adminAs 0x84 d s) = _
  rw [adminAs_begins taken, beginAdmin, dOp_setFld (by decide) d]
  rfl

/-- A READY panel stops admitting and becomes BINDING at that moment, its stop marker due. -/
theorem runBindOff_ready {id : Nat} (number : dPanel d = p) (found : getPanel s p = some x) (ready : x.st = .ready) :
    runBindOff id d s = placeStop p (setPanel p { x with
      castCmd := some id, drained := false, st := .binding, closedAt := s.us
      cast := x.cast.map fun c => { c with stopDue := true } } s) := by
  simp only [runBindOff, number, found, ready, modPanel_of_some found, modPanel_setPanel, modCast_setPanel]

theorem runBindOff_faulted {id : Nat} (number : dPanel d = p) (found : getPanel s p = some x) (faulted : x.st = .faulted) :
    runBindOff id d s = setPanel p { x with castCmd := some id, drained := false } s := by
  simp only [runBindOff, number, found, faulted, modPanel_of_some found]

/-- A SWAPPING panel faults first, which fails its swap (R280). -/
theorem runBindOff_swapping {id : Nat} (number : dPanel d = p) (found : getPanel s p = some x)
    (swapping : x.st = .swapping) :
    runBindOff id d s = modPanel p (fun x => { x with castCmd := some id, drained := false })
      (faultPanel p stPanelDown s) := by
  simp only [runBindOff, number, found, swapping]

end

/-! ## The drain limit and the teardown (R277) -/

section
variable {panel : BitVec 4} {x : Panel} {cmd : AdminCmd} {s : State}

/-- DRAIN_US is counted from the panel's becoming BINDING. -/
theorem drainOver_iff (by_ : x.castCmd = some cmd.id) (runs : adminCmd s cmd.id = some cmd) (op : dOp cmd.d = 0x84) :
    drainOver s x = true ↔ x.closedAt + fld cmd.d 0xC 4 ≤ s.now.toNat := by
  simp only [drainOver, by_, Option.bind_some, runs, Option.any_some, op, BEq.rfl, Bool.true_and, decide_eq_true_eq]
  rfl

/-- At the limit the marker is tried again, and what the step in flight does not hold ends ABORTED. -/
theorem execBindOffDrainLimit_expired (found : getPanel s panel.toNat = some x) (binding : x.st = .binding)
    (undrained : x.drained = false) (expired : drainOver s x = true) :
    execBindOffDrainLimit panel s = .next
      ((slotsOf (placeStop panel.toNat (setPanel panel.toNat { x with drained := true } s)) panel.toNat
        [.prefill, .decode]).foldl (fun s i => if inStep s panel.toNat i then s else endSlot i stAborted s)
        (placeStop panel.toNat (setPanel panel.toNat { x with drained := true } s))) := by
  simp only [execBindOffDrainLimit, found, binding, undrained, expired, bne_self_eq_false, Bool.not_true, Bool.or_self,
    Bool.false_eq_true, if_false, modPanel_of_some found]

theorem execBindOffDrainLimit_early (found : getPanel s panel.toNat = some x) (early : drainOver s x = false) :
    execBindOffDrainLimit panel s = .next s := by
  simp only [execBindOffDrainLimit, found, early, Bool.not_false, Bool.or_true, if_true]

/-- A FAULTED panel, or a BINDING one with nothing in flight, is torn down and the command is DONE. -/
theorem execBindOffTeardown_ends (found : getPanel s panel.toNat = some x) (by_ : x.castCmd = some cmd.id)
    (runs : adminCmd s cmd.id = some cmd) (op : dOp cmd.d = 0x84)
    (quiet : x.st = .faulted ∨ (x.st = .binding ∧ slotsOf s panel.toNat [.prefill, .decode, .summarising] = [])) :
    execBindOffTeardown panel s = .next (adminDone cmd.id stDone 0 (bindTeardown panel.toNat s)) := by
  have may : (x.st == .faulted
      || (x.st == .binding && (slotsOf s panel.toNat [.prefill, .decode, .summarising]).isEmpty)) = true := by
    rcases quiet with faulted | ⟨binding, none_⟩
    · rw [faulted, BEq.rfl, Bool.true_or]
    · rw [binding, none_, BEq.rfl, List.isEmpty_nil, Bool.and_self, Bool.or_true]
  simp only [execBindOffTeardown, found, by_, Option.bind_some, runs, op, may, BEq.rfl, Bool.and_self, if_true]

end

/-! ## The obligation -/

/-- Settles O27: a taken BIND_OFF acts by the panel's state, the drain limit is over or it is not, and the teardown runs
its steps in R277's order. -/
theorem bindOffComplete : Obligations.BindOffComplete := by
  unfold Obligations.BindOffComplete
  intro s
  refine ⟨?taken, ?limit, ?teardown⟩
  case taken =>
    intro d x p taken found
    rw [exec_bindOff_taken taken]
    exact ⟨fun ready => congrArg Host.Outcome.next (runBindOff_ready dPanel_setFld found ready),
      fun faulted => congrArg Host.Outcome.next (runBindOff_faulted dPanel_setFld found faulted),
      fun swapping => congrArg Host.Outcome.next (runBindOff_swapping dPanel_setFld found swapping)⟩
  case limit =>
    intro panel x cmd p t late found binding undrained by_ runs op
    have limit := drainOver_iff (s := s) by_ runs op
    exact ⟨fun expired => execBindOffDrainLimit_expired found binding undrained (limit.2 expired),
      fun early => execBindOffDrainLimit_early found (Bool.eq_false_iff.2 (mt limit.1 early))⟩
  case teardown =>
    intro panel x cmd p found by_ runs op quiet ended_ released gone freed still blank
    exact execBindOffTeardown_ends found by_ runs op quiet

end Sys2Proof.Proofs

/-! PROOFS. SWAP_WEIGHTS: the marker, a layer's copy, the end of the swap and its time limit (R278 to R281). -/
namespace Sys2Proof.Proofs
open Sys2Proof Machine Safety Laws

/-! ## SWAP_WEIGHTS is taken (R278) -/

section
variable {p : Nat} {x : Panel} {c : Cast} {e : CatEntry} {s : State}

theorem exec_swapWeights_taken {d : Rec64} (taken : Taken 0x87 d s) :
    exec (.swapWeights d) s = .next (runSwapWeights s.nextId (setFld d 0 1 0x87) (running 0x87 d s)) := by
  show Host.Outcome.next (adminAs 0x87 d s) = _
  rw [adminAs_begins taken, beginAdmin, dOp_setFld (by decide) d]
  rfl

/-- A READY panel is swapped to another version of its pattern with the same swap extents. -/
theorem runSwapWeights_ready {id : Nat} {d : Rec64} (number : dPanel d = p) (found : getPanel s p = some x)
    (ready : x.st = .ready) (loaded : x.cast = some c) (entry : catFind s (dModel d) (dWver d) = some e)
    (model : c.model = e.model) (pattern : ihPhash c.img = ihPhash e.img) (other : c.wversion ≠ e.wversion)
    (alike : swapExtentsOk c.img e.img = true) :
    runSwapWeights id d s = setPanel p { x with
      st := .swapping, castCmd := some id
      cast := some { c with
        admission := e.wversion, swapTo := some e.img, swapCmd := id, swapAt := s.us, swapped := [], markerDue := true } } s := by
  have differs : (c.wversion == e.wversion) = false := beq_eq_false_iff_ne.2 other
  simp only [runSwapWeights, number, found, loaded, entry, ready, model, pattern, differs, alike, bne_self_eq_false,
    Bool.not_true, Bool.or_self, Bool.false_eq_true, if_false, modCast_of_getPanel found, modPanel_setPanel, Option.map_some]

/-! ## The end of a swap (R279) -/

/-- After the last layer and the marker the panel is READY on the new version, and the command is DONE. -/
theorem swapFinish_done {i : Image} (found : getPanel s p = some x) (swapping : x.st = .swapping) (loaded : x.cast = some c)
    (marked : c.markerDue = false) (target : c.swapTo = some i) (all : c.img.pat.swaps.length ≤ c.swapped.length) :
    swapFinish p s = adminDone c.swapCmd stDone 0 (bump (.swapsDone p) 1 (setPanel p { x with
      st := .ready, castCmd := none
      cast := some { c with
        wversion := c.admission, img := { i with pat := c.img.pat }, swapTo := none } } s)) := by
  simp only [swapFinish, found, loaded, target, swapping, marked, decide_eq_false (Nat.not_lt.2 all), bne_self_eq_false,
    Bool.or_self, Bool.false_eq_true, if_false, modCast_of_getPanel found, modPanel_setPanel, Option.map_some]

/-- A swap whose marker or a layer is still to come goes on, and a panel that is in no swap ends none. -/
theorem swapFinish_waits (found : getPanel s p = some x) (loaded : x.cast = some c)
    (open_ : c.markerDue = true ∨ c.swapTo = none ∨ c.swapped.length < c.img.pat.swaps.length) : swapFinish p s = s := by
  cases target : c.swapTo with
  | none => simp only [swapFinish, found, loaded, target]
  | some i =>
    have waits : (c.markerDue || decide (c.swapped.length < c.img.pat.swaps.length)) = true := by
      rcases open_ with due | ended_ | layer
      · rw [due, Bool.true_or]
      · simp [target] at ended_
      · rw [decide_eq_true layer, Bool.or_true]
    simp only [swapFinish, found, loaded, target, Bool.or_assoc, waits, Bool.or_true, if_true]

/-! ## The version marker (R264, R278) -/

/-- An entry with room for a marker, or that spills, takes it. -/
theorem placeEntry_room {m : Nat} (cast : getCast s p = some c)
    (room : (getIn (getUnit s c.ventry.1) c.ventry.2).laneRoom false = true ∨
      (getIn (getUnit s c.ventry.1) c.ventry.2).spillEn = true) :
    placeEntry p m s = some (deviceMarker c.ventry.1 c.ventry.2 (BitVec.ofNat 16 m) s) := by
  rw [← Bool.or_eq_true] at room
  simp only [placeEntry, cast, room, if_true]

end

section
variable {panel : BitVec 4} {x : Panel} {c : Cast} {s : State}

/-- The marker is placed once no request of the old version is queued. -/
theorem execVersionMarkerPlace_placed (found : getPanel s panel.toNat = some x) (swapping : x.st = .swapping)
    (loaded : x.cast = some c) (due : c.markerDue = true)
    (queued : ∀ j ∈ slotsOf s panel.toNat [.queued], ∀ q, getSlot s j = some q → q.served = c.admission)
    (room : (getIn (getUnit s c.ventry.1) c.ventry.2).laneRoom false = true ∨
      (getIn (getUnit s c.ventry.1) c.ventry.2).spillEn = true) :
    execVersionMarkerPlace panel s = .next (swapFinish panel.toNat (modCast panel.toNat (fun c => { c with markerDue := false })
      (deviceMarker c.ventry.1 c.ventry.2 (BitVec.ofNat 16 (0x8000 + c.admission.toNat % 4096)) s))) := by
  have noOld : ((slotsOf s panel.toNat [.queued]).any fun j => (getSlot s j).any fun q => q.served != c.admission) = false := by
    rw [List.any_eq_false]
    intro j hj
    cases slot : getSlot s j with
    | none => simp
    | some q => simp [queued j hj q slot]
  simp only [execVersionMarkerPlace, found, loaded, swapping, due, noOld, bne_self_eq_false, Bool.not_true, Bool.or_self,
    Bool.false_eq_true, if_false, placeEntry_room (getCast_of_getPanel found loaded) room]

/-! ## A layer's copy (R279) -/

/-- With every unit at the layer's barrier and its extents there, the layer is copied and counts as swapped. -/
theorem execSwapLayerCopyDone_copies {layer : BitVec 10} {i : Image} {w : SwapDecl} {e : CatEntry}
    (found : getPanel s panel.toNat = some x) (swapping : x.st = .swapping) (loaded : x.cast = some c)
    (marked : c.markerDue = false) (target : c.swapTo = some i) (declared : c.img.pat.swaps[layer.toNat]? = some w)
    (entry : catFind s c.model c.admission = some e) (new : layer.toNat ∉ c.swapped)
    (arrived : allArrived s panel.toNat w.barrier = true)
    (there : ∀ q ∈ layerExtents i layer.toNat w, copyWaits panel.toNat c e q s = none) :
    execSwapLayerCopyDone panel layer s = .next (swapFinish panel.toNat (modCast panel.toNat (fun c =>
      { c with swapped := c.swapped ++ [layer.toNat] })
      (copyLayer panel.toNat c e (layerExtents i layer.toNat w) s))) := by
  have fresh : c.swapped.contains layer.toNat = false := by simpa using new
  have waiting : (layerExtents i layer.toNat w).findSome? (fun q => copyWaits panel.toNat c e q s) = none :=
    List.findSome?_eq_none_iff.2 there
  simp only [execSwapLayerCopyDone, found, loaded, target, declared, entry, swapping, marked, fresh, arrived, waiting,
    bne_self_eq_false, Bool.not_true, Bool.or_self, Bool.false_eq_true, if_false]

/-! ## The time limit (R280) -/

/-- LIMIT_MS is counted from the acceptance. -/
theorem swapLate_iff {a : AdminCmd} (runs : adminCmd s c.swapCmd = some a) :
    swapLate s c = true ↔ c.swapAt + 1000 * fld a.d 0xA 2 ≤ s.now.toNat := by
  simp only [swapLate, runs, Option.any_some, decide_eq_true_eq]
  rfl

/-- A late swap faults its panel, and one within its limit goes on. -/
theorem execSwapTimeout_eq (found : getPanel s panel.toNat = some x) (swapping : x.st = .swapping) (loaded : x.cast = some c) :
    execSwapTimeout panel s = .next (if swapLate s c = true then
      modPanel panel.toNat (fun x => { x with castCmd := none }) (faultPanel panel.toNat stPanelDown s) else s) := by
  simp only [execSwapTimeout, found, swapping, loaded, Option.any_some, BEq.rfl, Bool.true_and]

end

/-! ## The obligation -/

/-- Settles O28: each event of a swap passes the checks the statement names, and the swap ends by what its cast still
lacks. -/
theorem weightSwapCompletes : Obligations.WeightSwapCompletes := by
  unfold Obligations.WeightSwapCompletes
  intro s
  refine ⟨?taken, ?running⟩
  case taken =>
    intro d x c e p taken found ready loaded entry model pattern other alike
    have entry' : catFind (running 0x87 d s) (dModel (setFld d 0 1 0x87)) (dWver (setFld d 0 1 0x87)) = some e := by
      rw [dModel_setFld, dWver_setFld]
      exact entry
    exact (exec_swapWeights_taken taken).trans (congrArg Host.Outcome.next
      (runSwapWeights_ready dPanel_setFld found ready loaded entry' model pattern other alike))
  case running =>
    intro panel x c found swapping loaded p u i
    refine ⟨?marker, ?layer, ?done, ?waits, ?timeout⟩
    case marker => exact fun due queued room => execVersionMarkerPlace_placed found swapping loaded due queued room
    case layer =>
      intro layer i w e n mine marked target declared entry new arrived there
      exact execSwapLayerCopyDone_copies found swapping loaded marked target declared entry new arrived there
    case done => exact fun i marked target all => swapFinish_done found swapping loaded marked target all
    case waits => exact swapFinish_waits found loaded
    case timeout =>
      intro a runs
      refine (execSwapTimeout_eq found swapping loaded).trans ?_
      simp only [swapLate_iff runs]
      rfl

end Sys2Proof.Proofs

/-! PROOFS. A step on an empty queue (log entry 1; R284, R384, R433). -/
namespace Sys2Proof.Proofs
open Sys2Proof Machine Safety Laws

theorem step_idle {s : State} (idle : s.pending = []) : step s = .next (tick s) := by
  rw [step, idle]

theorem tick_off {s : State} (off : s.power.on = false) :
    tick s = { s with power := { s.power with clock := s.power.clock + 1 } } := by
  simp only [tick, off, Bool.false_eq_true, if_false]

theorem tick_on {s : State} (on : s.power.on = true) : tick s = retakeAll (dueNulls (countCreditWaits (endFlr
    { s with now := s.now + 1, power := { s.power with clock := s.power.clock + 1 } }))) := by
  simp only [tick, on, if_true]

theorem dueNulls_eq (s : State) : dueNulls s = (List.range 18).foldl (fun s p =>
    if (getPort s p).st = .up then sendNulls p (max 1 (getPort s p).crnDue.length) s else s) s := by
  simp only [dueNulls, beq_iff_eq]

/-- Settles O51: the step is a tick, which with power off moves the hot-swap stage's clock alone. -/
theorem idleStepPassesTime : Obligations.IdleStepPassesTime := by
  intro s idle
  exact ⟨fun off => (step_idle idle).trans (congrArg _ (tick_off off)),
    fun on => (step_idle idle).trans (congrArg _ (tick_on on)), dueNulls_eq⟩

end Sys2Proof.Proofs

/-! PROOFS. Deadlines: module time compared in two's complement, and budgets that fit it (R284). -/
namespace Sys2Proof.Proofs
open Sys2Proof Machine Safety Laws

theorem before32_iff (a b : BitVec 32) : before32 a.toNat b.toNat = true ↔ (a - b).toInt < 0 := by
  have ha := a.isLt
  have hb := b.isLt
  rw [before32, decide_eq_true_eq, BitVec.toInt_eq_toNat_cond, BitVec.toNat_sub]
  split <;> omega

theorem now32_eq (s : State) : now32 s = (s.now.setWidth 32).toNat := (BitVec.toNat_setWidth 32 s.now).symm

theorem reached_iff (x : Slot) (s : State) :
    reached x s = true ↔ x.noDeadline = false ∧ ¬ (s.now.setWidth 32 - x.deadline).toInt < 0 := by
  rw [reached, Bool.and_eq_true, Bool.not_eq_true', Bool.not_eq_true', now32_eq, ← before32_iff, Bool.not_eq_true]

/-- A descriptor that passes has its fields in range, and what R309, R311 and R313 ask of it. -/
theorem fields_control_of_requestCheck {s : State} {d : Rec64} (passes : requestCheck s d = none) :
    requestFieldsOk s d = true ∧ controlOk s d = true := by
  unfold requestCheck at passes
  split at passes
  · cases passes
  split at passes
  · cases passes
  split at passes
  next ok =>
    simp only [Bool.and_eq_true] at ok
    exact ⟨ok.1.2, ok.2⟩
  next => cases passes

theorem budget_of_requestCheck {s : State} {d : Rec64} (op : dOp d = 1 ∨ dOp d = 2 ∨ dOp d = 4)
    (passes : requestCheck s d = none) : fld d 0xC 4 < 2 ^ 31 := by
  obtain ⟨fields, -⟩ := fields_control_of_requestCheck passes
  rcases op with run | gen | resume
  · simp only [requestFieldsOk, run, Bool.and_eq_true, decide_eq_true_eq] at fields
    simp only [fields]
  · simp only [requestFieldsOk, gen, Bool.and_eq_true, decide_eq_true_eq] at fields
    simp only [fields]
  · simp only [requestFieldsOk, resume, Bool.and_eq_true, decide_eq_true_eq] at fields
    simp only [fields]

/-- The deadline fields as the statements write them. -/
theorem setBudget_eq_timed (b : Nat) (s : State) (x : Slot) : setBudget b s x = timed b s x := rfl

/-- Settles O59: each comparison is one of 32-bit numbers, and the budget is a checked field. -/
theorem deadlineArithmetic : Obligations.DeadlineArithmetic := by
  refine ⟨before32_iff, fun s d => budget_of_requestCheck, fun b s x => ?_, fun s x => reached_iff x s⟩
  rw [setBudget_eq_timed]
  refine ⟨rfl, fun none_ => beq_iff_eq.2 none_, fun some_ => ⟨beq_eq_false_iff_ne.2 some_, ?_⟩⟩
  rw [timed, if_neg some_, BitVec.ofNat_add]
  rfl

end Sys2Proof.Proofs

/-! PROOFS. Insertion, the restart of the input, and the power-on start (R433, R434, R459). -/
namespace Sys2Proof.Proofs
open Sys2Proof Machine Safety Laws

section
variable {s : State}

theorem execInsertion_on (on : s.power.on = true) (mv : Nat) : execInsertion mv s = .next s :=
  congrArg Host.Outcome.next (if_pos on)

theorem execInputRestart_on (on : s.power.on = true) (removed : Bool) : execInputRestart removed s = .next s := by
  simp only [execInputRestart, on, Bool.true_or, if_true]

theorem execPowerGood_on (on : s.power.on = true) (hold : Bool) : execPowerGood hold s = .next s := by
  simp only [execPowerGood, on, Bool.true_or, if_true]

/-- No wait of R433 stands against an insertion. -/
def insertionFree (p : Power) : Bool := if p.present then p.off == none || p.off == some .presence else removalEnds p

theorem removalEnds_iff (p : Power) : removalEnds p = true ↔
    (p.off ≠ some .trip ∧ p.off ≠ some .overCurrent) ∨ p.openAt + 1000000 ≤ p.clock := by
  unfold removalEnds
  split
  next trip => simp [trip]
  next current => simp [current]
  next noTrip noCurrent => exact iff_of_true rfl (.inl ⟨noTrip, noCurrent⟩)

theorem insertionFree_iff (p : Power) : insertionFree p = true ↔
    (p.present = true ∧ (p.off = none ∨ p.off = some .presence)) ∨
      (p.present = false ∧ ((p.off ≠ some .trip ∧ p.off ≠ some .overCurrent) ∨ p.openAt + 1000000 ≤ p.clock)) := by
  unfold insertionFree
  cases p.present <;> simp [removalEnds_iff]

theorem waitOver_iff (p : Power) : waitOver p = true ↔
    ((p.off = some .underVoltage ∨ p.off = some .overVoltage) ∧ p.offAt + 100000 ≤ p.clock) ∨
      (p.off = some .overCurrent ∧ p.latched = false ∧ p.offAt + 1000000 ≤ p.clock) := by
  unfold waitOver
  split
  next low => simp [low]
  next high => simp [high]
  next current => simp [current]
  next notLow notHigh notCurrent =>
    refine iff_of_false Bool.false_ne_true ?_
    rintro (⟨low | high, -⟩ | ⟨current, -⟩)
    · exact notLow low
    · exact notHigh high
    · exact notCurrent current

theorem execInsertion_off (off : s.power.on = false) (mv : Nat) : execInsertion mv s = .next { s with power := { s.power with
    present := true
    off := if insertionFree s.power then some .presence else s.power.off
    latched := s.power.latched && !insertionFree s.power
    qualifying := s.power.qualifying || (insertionFree s.power && inputNormal mv) } } :=
  congrArg Host.Outcome.next (if_neg (by simp [off]))

theorem execInputRestart_off (off : s.power.on = false) (present : s.power.present = true) (removed : Bool) :
    execInputRestart removed s = .next (if removed || waitOver s.power then
      { s with power := { s.power with qualifying := true, latched := s.power.latched && !removed } } else s) := by
  cases free : (removed || waitOver s.power) <;> simp [execInputRestart, off, present, free]

theorem execInputRestart_absent (absent : s.power.present = false) (removed : Bool) :
    execInputRestart removed s = .next s := by
  simp only [execInputRestart, absent, Bool.not_false, Bool.or_true, Bool.true_or, if_true]

/-- The state that a power-on start leaves: what every start keeps, and what the hot-swap stage does. -/
def poweredOn (hold : Bool) (s : State) : State :=
  { restart s with
    power := { overCurrents := s.power.overCurrents, latched := s.power.latched, clock := s.power.clock }
    boot := { testHold := hold }
    host := { bad := s.host.bad } }

theorem execPowerGood_qualified (off : s.power.on = false) (qualified : s.power.qualifying = true) (hold : Bool) :
    execPowerGood hold s = .next (poweredOn hold s) := by
  simp only [execPowerGood, off, qualified, Bool.not_true, Bool.or_self, Bool.false_eq_true, if_false, poweredOn]

theorem execPowerGood_unqualified (unqualified : s.power.qualifying = false) (hold : Bool) :
    execPowerGood hold s = .next s := by
  simp only [execPowerGood, unqualified, Bool.not_false, Bool.or_true, if_true]

/-- A start leaves these at their reset values. -/
theorem restart_resets (s : State) :
    (restart s).now = 0 ∧ (restart s).tap = {} ∧ (restart s).db = {} ∧ (restart s).ringRegs = {} := by
  obtain ⟨x, h, m, eq⟩ := restart_eq s
  rw [eq]
  exact ⟨rfl, rfl, rfl, rfl⟩

/-- A power-on start is a start, with the hot-swap stage's record of over-currents kept beside it. -/
theorem poweredOn_starts (hold : Bool) (s : State) : Restarted s (poweredOn hold s) ∧
    (poweredOn hold s).now = 0 ∧ (poweredOn hold s).nv = s.nv ∧ (poweredOn hold s).boot = { testHold := hold } ∧
    (poweredOn hold s).tap = {} ∧ (poweredOn hold s).db = {} ∧ (poweredOn hold s).ringRegs = {} ∧
    (poweredOn hold s).power =
      { overCurrents := s.power.overCurrents, latched := s.power.latched, clock := s.power.clock } := by
  have restarted := restart_restarted s
  have nv := restart_nv s
  obtain ⟨now, tap, db, ringRegs⟩ := restart_resets s
  unfold poweredOn
  generalize restart s = r at *
  exact ⟨restarted, now, nv, rfl, tap, db, ringRegs, rfl⟩

end

/-- Settles O43: whether a wait of R433 stands decides an insertion and a restart, and power-good starts the module. -/
theorem inputReturnsBringTheModuleBack : Obligations.InputReturnsBringTheModuleBack := by
  intro s
  refine ⟨fun off => ⟨fun mv => ?insertion, fun present => ?restart, fun absent => execInputRestart_absent absent,
    fun qualified hold => ?powerGood, fun unqualified => execPowerGood_unqualified unqualified⟩,
    fun on mv b => ⟨execInsertion_on on mv, execInputRestart_on on b, execPowerGood_on on b⟩⟩
  case insertion =>
    have inserts := execInsertion_off off mv
    refine ⟨fun free => inserts.trans ?_, fun held => inserts.trans ?_⟩
    · rw [(insertionFree_iff s.power).2 free, if_pos rfl, Bool.not_true, Bool.and_false, Bool.true_and]
      rfl
    · rw [Bool.eq_false_iff.2 (mt (insertionFree_iff s.power).1 held), if_neg Bool.false_ne_true, Bool.not_false,
        Bool.and_true, Bool.false_and, Bool.or_false]
  case restart =>
    have restarts := execInputRestart_off off present
    refine ⟨(restarts true).trans ?_, fun waited => (restarts false).trans ?_, fun waits => (restarts false).trans ?_⟩
    · rw [Bool.true_or, if_pos rfl, Bool.not_true, Bool.and_false]
    · rw [Bool.false_or, if_pos ((waitOver_iff s.power).2 waited), Bool.not_false, Bool.and_true]
    · rw [Bool.false_or, if_neg (mt (waitOver_iff s.power).1 waits)]
  case powerGood => exact ⟨poweredOn hold s, execPowerGood_qualified off qualified hold, poweredOn_starts hold s⟩

end Sys2Proof.Proofs

/-! PROOFS. Requests of a SUBMIT ring are accepted (R283, R309 to R314, R338 to R341), and a prompt is read. -/
namespace Sys2Proof.Proofs
open Sys2Proof Machine Safety Laws

/-! ## A slot after another -/

section
variable {i : Nat} {x y : Slot} {f : Slot → Slot} {s : State}

theorem setSlot_setSlot : setSlot i y (setSlot i x s) = setSlot i y s := by
  simp only [setSlot, tset_tset]

theorem modSlot_of_getSlot (found : getSlot s i = some x) : modSlot i f s = setSlot i (f x) s := by
  rw [getSlot] at found
  rw [modSlot, found]

theorem modSlot_setSlot : modSlot i f (setSlot i x s) = setSlot i (f x) s :=
  (modSlot_of_getSlot getSlot_setSlot).trans setSlot_setSlot

end

/-! ## A descriptor that passes its checks (R338, R339) -/

section
variable {op i ring : Nat} {d : Rec64} {img : Image} {adm model : BitVec 32} {x : Slot} {s t : State}

theorem submitAs_accepted {ring : BitVec 12} (ok : Accepted op ring.toNat d s) :
    submitAs op ring d s = submitRequest ring.toNat d s := by
  obtain ⟨reads, -, same, -⟩ := ok
  rw [submitAs, if_pos reads, same]

theorem submitRequest_nop (ok : Accepted 0 ring d s) : submitRequest ring d s =
    pushPlain (getRing s ring).cq ring (fld d 4 4) 0 0 0 (bump (.accepted ring) 1 s) := by
  obtain ⟨-, op, -, checked, -⟩ := ok
  rw [← dOp] at op
  simp only [submitRequest, checked, op]
  rfl

theorem submitRequest_pause (ok : Accepted 3 ring d s) :
    submitRequest ring d s = acceptPause ring d (bump (.accepted ring) 1 s) := by
  obtain ⟨-, op, -, checked, -⟩ := ok
  rw [← dOp] at op
  simp only [submitRequest, checked, op]

theorem submitRequest_abort (ok : Accepted 5 ring d s) :
    submitRequest ring d s = acceptAbort ring d (bump (.accepted ring) 1 s) := by
  obtain ⟨-, op, -, checked, -⟩ := ok
  rw [← dOp] at op
  simp only [submitRequest, checked, op]

theorem submitRequest_new (new : op = 1 ∨ op = 2) (ok : Accepted op ring d s) :
    submitRequest ring d s = acceptNew ring d (bump (.accepted ring) 1 s) := by
  obtain ⟨-, is, -, checked, placed⟩ := ok
  have panel := placed (new.imp_right .inl)
  rw [← dOp] at is
  rcases new with rfl | rfl <;> simp [submitRequest, checked, is, panel]

theorem submitRequest_resume (ok : Accepted 4 ring d s) :
    submitRequest ring d s = acceptResume ring d (bump (.accepted ring) 1 s) := by
  obtain ⟨-, op, -, checked, placed⟩ := ok
  have panel := placed (.inr (.inr rfl))
  rw [← dOp] at op
  simp only [submitRequest, checked, op, panel, if_true]

/-! ## RUN and GEN (R283, R284, R314, R340) -/

/-- The client counts one more request accepted and in flight (R314). -/
def clientCounted (k : Nat) (s : State) : State :=
  let c := tgetD s.clients k {}
  { s with clients := tset s.clients k { accepted := c.accepted + 1, inFlight := c.inFlight + 1 } }

/-- What a RUN and a GEN of one descriptor have in common (R282, R340). -/
def newSlot (ring : Nat) (d : Rec64) (adm : BitVec 32) (s : State) : Slot :=
  timed (fld d 0xC 4) s {
    prio := BitVec.ofNat 4 (fld d 9 1), effective := BitVec.ofNat 4 (fld d 9 1), panel := fld d 8 1, homePanel := fld d 8 1
    client := fld d 0xA 2, ring := (getRing s ring).cq, reqId := BitVec.ofNat 32 (fld d 4 4)
    model := BitVec.ofNat 32 (fld d 0x10 4)
    wversion := (if fld d 0x14 4 = 0 then adm else BitVec.ofNat 32 (fld d 0x14 4)), shadow := d, submitRing := ring
    group := (getRing s ring).group, served := adm }

theorem panelImg_bump {c : Ctr} {n p : Nat} : panelImg (bump c n s) p = panelImg s p := rfl

theorem acceptNew_run (op : dOp d = 1) (free : firstGap s.slots 0 16384 = some i)
    (panel : panelImg s (fld d 8 1) = some (img, adm, model)) : acceptNew ring d (bump (.accepted ring) 1 s) =
      setSlot i { newSlot ring d adm s with opcode := 1, cls := fld d 2 2 }
        (clientCounted (fld d 0xA 2) (bump (.accepted ring) 1 s)) := by
  have named : rqPanel d = fld d 8 1 := by rw [rqPanel, op, if_neg (by decide)]
  simp only [acceptNew, bump_slots, free, named, panelImg_bump, panel, op, Option.map_some, Option.getD_some]
  rfl

theorem acceptNew_gen (op : dOp d = 2) (free : firstGap s.slots 0 16384 = some i)
    (panel : panelImg s (fld d 8 1) = some (img, adm, model)) : acceptNew ring d (bump (.accepted ring) 1 s) =
      openSlot i (allocTokenList i (setSlot i { newSlot ring d adm s with
        opcode := 2, cls := 1, committed := fld d 0x28 4, prompt := fld d 0x28 4, maxNew := fld d 0x2C 4
        stopSet := fld d 0x30 2, streamRing := fld d 0x32 2, seed := BitVec.ofNat 64 (fld d 0x18 8) }
        (clientCounted (fld d 0xA 2) (bump (.accepted ring) 1 s)))) := by
  have named : rqPanel d = fld d 8 1 := by rw [rqPanel, op, if_neg (by decide)]
  have stops : rqStopSet d = fld d 0x30 2 := by rw [rqStopSet, op, if_neg (by decide)]
  have stream : rqStream d = fld d 0x32 2 := by rw [rqStream, op, if_neg (by decide)]
  simp only [acceptNew, bump_slots, free, named, stops, stream, panelImg_bump, panel, op, Option.map_some, Option.getD_some]
  rfl

/-! ## PAUSE, RESUME and ABORT (R309 to R313) -/

theorem namedSlot_of_any {good : Nat × Slot → Bool} (named : (namedSlot s d).any good = true)
    (found : getSlot s (fld d 8 2) = some x) : namedSlot s d = some (fld d 8 2, x) := by
  unfold namedSlot rqSlot at named ⊢
  rw [found, Option.bind_some] at named ⊢
  split at named
  next below =>
    split at named
    next same => rw [if_pos below, if_pos same]
    next => cases named
  next => cases named

/-- A RESUME or ABORT that passes its checks names a slot that is not FREE. -/
theorem namedSlot_of_checked (op : dOp d = 4 ∨ dOp d = 5) (checked : requestCheck s d = none)
    (found : getSlot s (fld d 8 2) = some x) : namedSlot s d = some (fld d 8 2, x) := by
  obtain ⟨-, control⟩ := fields_control_of_requestCheck checked
  rcases op with op | op <;> simp only [controlOk, op, Bool.and_eq_true] at control
  · exact namedSlot_of_any control found
  · exact namedSlot_of_any control.2 found

/-- What waits for the target of a PAUSE or an ABORT (R310, R313). -/
def waiterOf (ring : Nat) (d : Rec64) (op : Nat) (s : State) : Waiter :=
  { ring := ring, cq := (getRing s ring).cq, reqId := BitVec.ofNat 32 (fld d 4 4), opcode := op, status := 0 }

theorem acceptPause_found (found : getSlot s (fld d 8 2) = some x) : acceptPause ring d s =
    slotChanged (fld d 8 2) (setSlot (fld d 8 2)
      { x with pausePending := true, pausers := x.pausers ++ [waiterOf ring d 3 s] } s) := by
  rw [acceptPause, rqSlot, modSlot_of_getSlot found]
  rfl

/-- PRIORITY of a RESUME lies in the upper byte of its PANEL field. -/
theorem resumePrio (d : Rec64) : BitVec.ofNat 4 (nbits (fld d 0xA 2) 8 4) = BitVec.ofNat 4 (fld d 0xB 1) := by
  apply BitVec.eq_of_toNat_eq
  simp only [BitVec.toNat_ofNat, fld, nbits, Nat.shiftRight_eq_div_pow]
  omega

theorem acceptResume_found (op : dOp d = 4) (named : namedSlot s d = some (i, x))
    (panel : panelImg s (fld d 0xA 1) = some (img, adm, model)) : acceptResume ring d s =
      openSlot i (allocTokenList i (setSlot i (timed (fld d 0xC 4) s { x with
        st := .queued, opcode := 4, cls := 1, prio := BitVec.ofNat 4 (fld d 0xB 1)
        effective := BitVec.ofNat 4 (fld d 0xB 1), panel := fld d 0xA 1, homePanel := fld d 0xA 1
        served := adm, fallback := false, pausePending := false, urgent := false, takeover := false
        retryPending := false, resumed := true, length := 0, fed := false, committed := fld d 0x28 4 + x.positions
        prompt := fld d 0x28 4 + x.positions
        maxNew := fld d 0x2C 4, stopSet := fld d 0x14 2, ring := (getRing s ring).cq, streamRing := fld d 0x16 2
        seed := BitVec.ofNat 64 (fld d 0x18 8), shadow := d, submitRing := ring, group := (getRing s ring).group, status := 0
        reason := 0, promptReady := false, sampled := [], stopAt := none, streamed := 0, fallbackDue := false
        rebuild := false, kvSkip := false, cut := false }) s)) := by
  have panelIs : rqPanel d = fld d 0xA 1 := by rw [rqPanel, if_pos op]
  have stops : rqStopSet d = fld d 0x14 2 := by rw [rqStopSet, if_pos op]
  have stream : rqStream d = fld d 0x16 2 := by rw [rqStream, if_pos op]
  have tokens : startTokens s d = fld d 0x28 4 + x.positions := by
    rw [startTokens, if_pos op, named, Option.map_some, Option.getD_some]
  simp only [acceptResume, named, panelIs, stops, stream, tokens, resumePrio, panel, Option.map_some, Option.getD_some]
  rfl

theorem acceptAbort_ended (named : namedSlot s d = some (i, x)) (ended : x.st = .done ∨ x.st = .aborted) :
    acceptAbort ring d s = pushPlain (getRing s ring).cq ring (fld d 4 4) 5 0 0 s := by
  have past : (x.st == .done || x.st == .aborted) = true := by simpa using ended
  simp only [acceptAbort, named, past, if_true]
  rfl

/-- The slot of a request that an ABORT of some FLAGS is to end or move. -/
def abortWaits (ring : Nat) (d : Rec64) (s : State) (x : Slot) : Slot :=
  { x with aborters := x.aborters ++ [{ waiterOf ring d 5 s with retry := (fld d 2 2).testBit 0 }] }

theorem acceptAbort_plain (named : namedSlot s d = some (i, x)) (found : getSlot s i = some x) (notDone : x.st ≠ .done)
    (notAborted : x.st ≠ .aborted) (plain : (fld d 2 2).testBit 0 = false) : acceptAbort ring d s =
      slotChanged i (setSlot i { abortWaits ring d s x with abortPending := true } s) := by
  have live : (x.st == .done || x.st == .aborted) = false := by simp [notDone, notAborted]
  simp only [acceptAbort, named, live, Bool.false_eq_true, if_false, nbit_testBit, dFlags, plain, modSlot_of_getSlot found,
    abortWaits]
  rfl

theorem acceptAbort_retry (named : namedSlot s d = some (i, x)) (found : getSlot s i = some x) (notDone : x.st ≠ .done)
    (notAborted : x.st ≠ .aborted) (retry : (fld d 2 2).testBit 0 = true) : acceptAbort ring d s =
      if x.st = .queued then retarget false i (setSlot i { abortWaits ring d s x with retryTo := fld d 0xA 1 } s)
      else slotChanged i (setSlot i { abortWaits ring d s x with retryTo := fld d 0xA 1, retryPending := true } s) := by
  have live : (x.st == .done || x.st == .aborted) = false := by simp [notDone, notAborted]
  simp only [acceptAbort, named, live, Bool.false_eq_true, if_false, nbit_testBit, dFlags, retry, if_true,
    modSlot_of_getSlot found, modSlot_setSlot, abortWaits, beq_iff_eq]
  rfl

/-! ## The prompt (R341) -/

theorem hostLive_of_hostBad {a n : Nat} (good : hostBad s a n = false) : hostLive s = true := by
  have := (Bool.or_eq_false_iff.1 good).1
  simpa using this

theorem allocTokenList_held (found : getSlot s i = some x) (held : x.tokenList ≠ 0) : allocTokenList i s = s := by
  simp only [allocTokenList, found, bne_iff_ne, ne_eq, held, not_false_eq_true, if_true]

theorem readPrompt_good {a n : Nat} (joined : x.cut = false) (ha : fld x.shadow 0x20 8 = a)
    (hn : 4 * fld x.shadow 0x28 4 = n) (good : hostBad s a n = false) :
    readPrompt none x s = (some (rd s (hostBase + a) n), s) := by
  rw [readPrompt, joined, ha, hn, if_neg Bool.false_ne_true, hostReadAs, Option.isSome_none, Bool.and_false,
    if_neg Bool.false_ne_true, hostRead_good good]

theorem storePrompt_good {b : List Byte} (panel : panelImg s x.panel = some (img, adm, model))
    (known : ∀ k < fld x.shadow 0x28 4, natOf ((b.drop (4 * k)).take 4) < img.pat.vocab) (found : getSlot s i = some x) :
    storePrompt i x b s = openTokens i (setSlot i { x with promptReady := true } (touch x.tokenList hankBytes
      (wr (x.tokenList + 4 * (x.prompt - fld x.shadow 0x28 4)) b
        (wr x.tokenList (List.replicate (4 * (x.prompt - fld x.shadow 0x28 4)) 0xFF) s)))) := by
  have ok : ((List.range (fld x.shadow 0x28 4)).any fun k => decide (img.pat.vocab ≤ idAt b (4 * k))) = false :=
    List.any_eq_false.2 fun k below unknown =>
      absurd (of_decide_eq_true unknown) (Nat.not_le.2 (known k (List.mem_range.1 below)))
  have still (a : Nat) : getSlot (touch a hankBytes (wr (x.tokenList + 4 * (x.prompt - fld x.shadow 0x28 4)) b
      (wr x.tokenList (List.replicate (4 * (x.prompt - fld x.shadow 0x28 4)) 0xFF) s))) i = some x :=
    (getSlot_of_kvView (p := 0) kvView_touch i).trans found
  simp only [storePrompt, panel, Option.map_some, Option.getD_some, ok, Bool.false_eq_true, if_false,
    modSlot_of_getSlot (still _)]

theorem exec_promptReadDone_good {slot : BitVec 14} {b : List Byte} (found : getSlot s slot.toNat = some x)
    (generates : x.opcode = 2 ∨ x.opcode = 4) (queued : x.st = .queued) (unread : x.promptReady = false)
    (held : x.tokenList ≠ 0) (live : hostLive s = true) (read : readPrompt none x s = (some b, s)) :
    exec (.promptReadDone { slot := slot }) s = .next (storePrompt slot.toNat x b s) := by
  have due : (!x.generates || x.st != .queued || x.promptReady) = false := by
    rcases generates with generates | generates <;> simp [Slot.generates, generates, queued, unread]
  simp only [exec, execPromptReadDone, found, due, Bool.false_eq_true, if_false, allocTokenList_held found held, held,
    decide_false, live, Bool.not_true, Bool.and_false, Bool.or_false, Bool.false_eq_true, read]

end

/-- Settles O30: a request that passes its checks acts by the lemma of its opcode. -/
theorem requestsComplete : Obligations.RequestsComplete := by
  intro s
  refine ⟨?submitted, ?prompt⟩
  case submitted =>
    intro ring d r t waits done
    refine ⟨fun notAdmin ok => ?nop, ?new, ?named⟩
    case nop =>
      exact congrArg _ ((if_neg notAdmin).trans ((submitAs_accepted ok).trans (submitRequest_nop ok)))
    case new =>
      intro i img adm model free panel c x run gen u
      refine ⟨fun ok => ?run, fun ok => ?gen⟩
      case run =>
        have accepts := (submitAs_accepted ok).trans (submitRequest_new (.inl rfl) ok)
        obtain ⟨-, op, -⟩ := ok
        exact congrArg _ (accepts.trans (acceptNew_run op free panel))
      case gen =>
        have accepts := (submitAs_accepted ok).trans (submitRequest_new (.inr rfl) ok)
        obtain ⟨-, op, -⟩ := ok
        exact congrArg _ (accepts.trans (acceptNew_gen op free panel))
    case named =>
      intro x i found
      refine ⟨fun ok => ?pause, fun img adm model ok panel => ?resume, fun ok => ?abort⟩
      case pause =>
        exact congrArg _ ((submitAs_accepted ok).trans ((submitRequest_pause ok).trans (acceptPause_found found)))
      case resume =>
        have accepts := (submitAs_accepted ok).trans (submitRequest_resume ok)
        obtain ⟨-, op, -, checked, -⟩ := ok
        have named : namedSlot t d = some (i, x) := namedSlot_of_checked (.inl op) checked found
        exact congrArg _ (accepts.trans (acceptResume_found op named panel))
      case abort =>
        have accepts := (submitAs_accepted ok).trans (submitRequest_abort ok)
        obtain ⟨-, op, -, checked, -⟩ := ok
        have named : namedSlot t d = some (i, x) := namedSlot_of_checked (.inr op) checked found
        refine ⟨fun ended => congrArg _ (accepts.trans (acceptAbort_ended named ended)), fun notDone notAborted =>
          ⟨fun plain => congrArg _ (accepts.trans (acceptAbort_plain named found notDone notAborted plain)),
            fun retry => ?_⟩⟩
        have moves := accepts.trans (acceptAbort_retry named found notDone notAborted retry)
        exact ⟨fun queued => congrArg _ (moves.trans (if_pos queued)), fun busy => congrArg _ (moves.trans (if_neg busy))⟩
  case prompt =>
    intro slot x img adm model i n b found generates queued unread held joined good panel known
    exact (exec_promptReadDone_good found generates queued unread held (hostLive_of_hostBad good)
      (readPrompt_good joined rfl rfl good)).trans (congrArg _ (storePrompt_good panel known found))

end Sys2Proof.Proofs

/-! PROOFS. Entries of the rings: written where there is room, held where there is none, and announced (R306, R350 to
R354). -/
namespace Sys2Proof.Proofs
open Sys2Proof Machine Safety Laws

/-! ## What a write to host memory leaves -/

section
variable {a : Nat} {l : List Byte} {s : State}

theorem hostWrite_view {α : Type} {view : State → α} (bytes : ∀ t m, view { t with mem := m } = view t)
    (held : ∀ t h, view { t with host := h } = view t) : view (hostWrite a l s) = view s := by
  unfold hostWrite
  split
  · exact foldl_view (fun t r => bytes t _) _
  split
  · exact held s _
  · rfl

theorem getRing_hostWrite {r : Nat} : getRing (hostWrite a l s) r = getRing s r :=
  hostWrite_view (view := fun t => getRing t r) (fun _ _ => rfl) fun _ _ => rfl

theorem now_hostWrite : (hostWrite a l s).now = s.now :=
  hostWrite_view (view := State.now) (fun _ _ => rfl) fun _ _ => rfl

end

/-! ## Entries held (R351, R352) -/

section
variable {r : Nat} {s : State}

theorem takesDue_completion {x : Machine.Ring} :
    takesDue x r false = decide ((x.type = 2 ∧ r ≠ 0) ∨ (x.type = 4 ∧ r = 0)) := by
  rw [Bool.eq_iff_iff]
  simp [takesDue]

/-- Completions wait for room in an ENABLED ring only (R333). -/
theorem waitsForRoom_completion : waitsForRoom s r false = if (getRing s r).st = .enabled then
    (dueTo s r false).drop
      (if decide (((getRing s r).type = 2 ∧ r ≠ 0) ∨ ((getRing s r).type = 4 ∧ r = 0)) then entryRoom s r else 0)
    else [] := by
  by_cases enabled : (getRing s r).st = .enabled
  · rw [if_pos enabled, ← takesDue_completion]
    exact if_neg (by simp [enabled])
  · rw [if_neg enabled]
    exact if_pos (by simp [enabled])

/-- The entries of both kinds that wait for room in a ring. -/
def allWaits (s : State) (r : Nat) : List Due :=
  (dueTo s r true).drop (if decide ((getRing s r).type = 3) then entryRoom s r else 0) ++
    if (getRing s r).st = .enabled then
      (dueTo s r false).drop
        (if decide (((getRing s r).type = 2 ∧ r ≠ 0) ∨ ((getRing s r).type = 4 ∧ r = 0)) then entryRoom s r else 0)
    else []

theorem waitsForRoom_append : waitsForRoom s r true ++ waitsForRoom s r false = allWaits s r :=
  congrArg (waitsForRoom s r true ++ ·) waitsForRoom_completion

/-- Each waiting entry that the ring has not counted yet is counted. -/
theorem countHolds_eq : countHolds r s =
    if (getRing s r).waited.foldl (fun l d => l.erase d) (allWaits s r) = [] then s
    else bump (.fullHolds r) ((getRing s r).waited.foldl (fun l d => l.erase d) (allWaits s r)).length
      (setRing r { getRing s r with
        waited := (getRing s r).waited ++ (getRing s r).waited.foldl (fun l d => l.erase d) (allWaits s r) } s) := by
  simp only [countHolds, waitsForRoom_append, List.isEmpty_iff, modRing]

end

/-! ## Entries written and announced (R306, R348 to R351, R354) -/

/-- The interrupt setting of a ring, which its entries leave as it is. -/
def announcing (x : Machine.Ring) : Bool × Nat × Nat := (x.ien, x.vector, x.delay)

/-- An entry is announced at a time as a ring `x` has it: at once, or after its delay. -/
def announcedAs (r : Nat) (x : Machine.Ring) (time : Nat) (s : State) : State :=
  if x.ien then
    if x.delay = 0 then sendMsix x.vector s
    else modRing r (fun x => { x with
      unannounced := x.unannounced + 1, firstAt := if x.unannounced = 0 then time else x.firstAt }) s
  else s

section
variable {r : Nat} {ring : BitVec 12} {d : Due} {rest : List Due} {x : Machine.Ring} {f : Machine.Ring → Machine.Ring}
variable {body : BitVec 224} {owner : DueFor} {ws : List Waiter} {s t : State}

theorem getRing_modRing : getRing (modRing r f s) r = f (getRing s r) := getRing_setRing

theorem getRing_of_rings (same : t.rings = s.rings) : getRing t r = getRing s r := by
  rw [getRing, getRing, same]

theorem announce_eq (same : announcing (getRing t r) = announcing x) (time : t.now = s.now) :
    announce r t = announcedAs r x s.now.toNat t := by
  obtain ⟨ien, vector, delay⟩ : _ ∧ _ ∧ _ := by simpa only [announcing, Prod.mk.injEq] using same
  simp only [announce, announcedAs, modRing, ien, vector, delay, State.us, time]
  cases x.ien <;> rfl

theorem announcing_dropDue : announcing (getRing (dropDue r d s) r) = announcing (getRing s r) := by
  unfold dropDue
  dsimp only
  split
  · rw [getRing_modRing, getRing_setRing]
    rfl
  · refine (congrArg announcing (getRing_of_rings
      (s := setRing r { getRing s r with waited := (getRing s r).waited.erase d } s) rfl)).trans ?_
    rw [getRing_setRing]
    rfl

theorem now_dropDue : (dropDue r d s).now = s.now := by
  unfold dropDue
  dsimp only
  split <;> rfl

/-- An entry whose write leaves the interrupt setting of its ring is announced by the setting the ring had. -/
theorem announce_writeDevIdx (kept : ∀ x, announcing (f x) = announcing x)
    (same : announcing (getRing t r) = announcing (getRing s r)) (time : t.now = s.now) :
    announce r (writeDevIdx r (modRing r f t)) =
      announcedAs r (getRing s r) s.now.toNat (writeDevIdx r (modRing r f t)) := by
  refine announce_eq ?_ (now_hostWrite.trans time)
  rw [writeDevIdx, getRing_hostWrite, getRing_modRing, kept, same]

theorem exec_streamRecordWrite_held (due : dueTo s ring.toNat true = d :: rest)
    (held : (getRing s ring.toNat).type ≠ 3 ∨ entryRoom s ring.toNat = 0) :
    exec (.streamRecordWrite ring) s = .next (countHolds ring.toNat s) := by
  have stops : (!takesDue (getRing s ring.toNat) ring.toNat true || decide (entryRoom s ring.toNat = 0)) = true := by
    simpa [takesDue] using held
  simp only [exec, execStreamRecordWrite, due, stops, if_true]

theorem exec_streamRecordWrite_room (hx : getRing s ring.toNat = x) (due : dueTo s ring.toNat true = d :: rest)
    (takes : x.type = 3) (room : entryRoom s ring.toNat ≠ 0) :
    exec (.streamRecordWrite ring) s = .next (streamWritten ring.toNat d
      (announcedAs ring.toNat x s.now.toNat (writeDevIdx ring.toNat
        (modRing ring.toNat (fun x => { x with idx := x.idx + 1 })
          (hostWrite (x.base + 16 * (x.idx.toNat % 2 ^ x.k)) (recBytes d.record) (dropDue ring.toNat d s)))))) := by
  subst hx
  have goes : (!takesDue (getRing s ring.toNat) ring.toNat true || decide (entryRoom s ring.toNat = 0)) = false := by
    simp [takesDue, takes, room]
  simp only [exec, execStreamRecordWrite, due, goes, Bool.false_eq_true, if_false]
  rw [announce_writeDevIdx (f := fun x => { x with idx := x.idx + 1 }) (fun _ => rfl)
    ((congrArg announcing getRing_hostWrite).trans announcing_dropDue) (now_hostWrite.trans now_dropDue)]

/-- COMPLETE rings and ring 0 take completions (R348). -/
abbrev TakesCompletions (r : Nat) (x : Machine.Ring) : Prop := (x.type = 2 ∧ r ≠ 0) ∨ (x.type = 4 ∧ r = 0)

theorem exec_completionEntryWrite_held (due : dueTo s ring.toNat false = .completion body owner ws :: rest)
    (held : ¬ TakesCompletions ring.toNat (getRing s ring.toNat) ∨ entryRoom s ring.toNat = 0) :
    exec (.completionEntryWrite ring) s = .next (countHolds ring.toNat s) := by
  have stops : (!takesDue (getRing s ring.toNat) ring.toNat false || decide (entryRoom s ring.toNat = 0)) = true := by
    rw [takesDue_completion, Bool.or_eq_true, Bool.not_eq_true', decide_eq_false_iff_not, decide_eq_true_eq]
    exact held
  simp only [exec, execCompletionEntryWrite, due, stops, if_true]

/-- The place of a ring's next completion: the count of entries, the size, and the ring's first byte (R328, R350). -/
def nextCompletion (r : Nat) (x : Machine.Ring) : Nat × Nat × Nat :=
  (if r = 0 then x.cqTail.toNat % 65536 else x.idx.toNat, if r = 0 then x.cqk else x.k, if r = 0 then x.cqBase else x.base)

/-- The index of a ring after a completion, entry `n` (R328). -/
def completionCounted (r n : Nat) (x : Machine.Ring) : Machine.Ring :=
  if r = 0 then { x with cqTail := BitVec.ofNat 32 ((n + 1) % 65536) } else { x with idx := x.idx + 1 }

theorem announcing_completionCounted {n : Nat} : announcing (completionCounted r n x) = announcing x := by
  unfold completionCounted
  split <;> rfl

theorem exec_completionEntryWrite_room {n k b : Nat} (hx : getRing s ring.toNat = x)
    (due : dueTo s ring.toNat false = .completion body owner ws :: rest) (takes : TakesCompletions ring.toNat x)
    (room : entryRoom s ring.toNat ≠ 0) (place : nextCompletion ring.toNat x = (n, k, b)) :
    exec (.completionEntryWrite ring) s = .next (complWritten body owner ws
      (announcedAs ring.toNat x s.now.toNat (writeDevIdx ring.toNat
        (modRing ring.toNat (completionCounted ring.toNat n)
          (hostWrite (b + 32 * (n % 2 ^ k) + 0x1C) (bytesOf 4 ((n / 2 ^ k + 1) % 2))
            (hostWrite (b + 32 * (n % 2 ^ k)) (recBytes (setFld body 0x18 4 (s.now.toNat % 2 ^ 32)))
              (dropDue ring.toNat (.completion body owner ws) s))))))) := by
  subst hx
  have goes : (!takesDue (getRing s ring.toNat) ring.toNat false || decide (entryRoom s ring.toNat = 0)) = false := by
    rw [takesDue_completion, decide_eq_true takes, decide_eq_false room]
    rfl
  obtain ⟨hn, hk, hb⟩ : _ ∧ _ ∧ _ := by simpa only [nextCompletion, Prod.mk.injEq] using place
  simp only [exec, execCompletionEntryWrite, due, goes, Bool.false_eq_true, if_false, hn, hk, hb, now32, State.us,
    now_dropDue]
  exact congrArg (fun t => Host.Outcome.next (complWritten body owner ws t))
    (announce_writeDevIdx (fun _ => announcing_completionCounted)
      ((congrArg announcing (getRing_hostWrite.trans getRing_hostWrite)).trans announcing_dropDue)
      ((now_hostWrite.trans now_hostWrite).trans now_dropDue))

theorem exec_irqModerationExpiry_due (hx : getRing s ring.toNat = x) (enabled : x.st = .enabled) (ien : x.ien = true)
    (some_ : x.unannounced ≠ 0) (late : x.firstAt + x.delay ≤ s.now.toNat) : exec (.irqModerationExpiry ring) s =
      .next (setRing ring.toNat { x with unannounced := 0 } (sendMsix x.vector s)) := by
  subst hx
  have past : (getRing s ring.toNat).firstAt + (getRing s ring.toNat).delay ≤ s.us := late
  exact congrArg Host.Outcome.next (if_pos (by simp [enabled, ien, some_, past]))

end

/-- Settles O33: what is due is held, counted once, or written and announced. -/
theorem ringEntriesComplete : Obligations.RingEntriesComplete := by
  intro s ring r x told waits waiting new held
  have holds : countHolds r s = held := countHolds_eq
  refine ⟨fun d rest due => ⟨fun full => ?_, fun takes room => ?_⟩, fun body owner ws rest due => ?_, ?_⟩
  · exact holds ▸ exec_streamRecordWrite_held due full
  · exact exec_streamRecordWrite_room rfl due takes room
  · refine ⟨fun full => ?_, fun takes room => ?_⟩
    · exact holds ▸ exec_completionEntryWrite_held due full
    · exact exec_completionEntryWrite_room rfl due takes room rfl
  · exact exec_irqModerationExpiry_due rfl

end Sys2Proof.Proofs

/-! PROOFS. A step buffer is written, and the token boundary settles its results (R148, R289 to R291, R517, R518). -/
namespace Sys2Proof.Proofs
open Sys2Proof Machine Safety Laws

/-! ## What an engine's access that goes through leaves -/

section
variable {α : Type} {view : State → α} {p : Nat} {c : Cast} {ps : List (Nat × Nat)} {s s1 : State}

theorem cacheLook_view (h : Unseen p view) (lines : ∀ t k x, view (setStack k x t) = view t) {o : Option Nat}
    {mask a : Nat} : view (cacheLook o mask a s) = view s := by
  have counted (f : Nat → Ctr) (t : State) : view (lookCtr f o t) = view t := by
    cases o
    · rfl
    · exact h.bump
  unfold cacheLook
  dsimp only
  split
  · exact (counted _ _).trans (lines _ _ _)
  split
  · exact counted _ s
  · exact (lines _ _ _).trans (counted _ s)

theorem areasAccess_view (h : Unseen p view) (lines : ∀ t k x, view (setStack k x t) = view t)
    {reads writes : List (Nat × Nat × Nat)} (access : areasAccess p reads writes s = .go ps s1) : view s1 = view s := by
  have ranges {rs : List (Nat × Nat)} {write : Bool} {t t1 : State} {qs : List (Nat × Nat)}
      (goes : engineRanges p rs write t = .go qs t1) : view t1 = view t := by
    unfold engineRanges at goes
    split at goes
    · cases goes
    split at goes
    · cases goes
    cases goes
    refine foldl_view (fun t r => h.touch.trans ?_) _
    split
    · rfl
    · exact foldl_view (fun _ _ => cacheLook_view h lines) _
  have engine {d : Cast} {rs : List (Nat × Nat × Nat)} {write : Bool} {t t1 : State} {qs : List (Nat × Nat)}
      (goes : engineAccess p d rs write t = .go qs t1) : view t1 = view t := by
    unfold engineAccess at goes
    split at goes
    · next follows =>
      obtain rfl := followAreas_go follows
      exact ranges goes
    · next stops => exact absurd goes (stops qs t1)
  unfold areasAccess at access
  split at access
  · cases access
  split at access
  · next read => exact (engine access).trans (engine read)
  · next stops => exact absurd access (stops ps s1)

theorem linkAccess_go {reads writes : List (Nat × Nat × Nat)} {go gone : State → State}
    (access : areasAccess p reads writes s = .go ps s1) : linkAccess p reads writes go gone s = go s1 := by
  rw [linkAccess, access]

end

/-! ## Module time stands still in a command -/

section
variable {p : Nat} {s : State}

theorem now_modCast {f : Cast → Cast} : (modCast p f s).now = s.now := by
  unfold modCast modPanel
  split <;> rfl

theorem unseen_now : Unseen p State.now := ⟨fun _ _ _ _ => rfl, fun _ _ => now_modCast⟩

theorem now_areasAccess {reads writes : List (Nat × Nat × Nat)} {ps : List (Nat × Nat)} {s1 : State}
    (access : areasAccess p reads writes s = .go ps s1) : s1.now = s.now :=
  areasAccess_view unseen_now (fun _ _ _ => rfl) access

end

/-! ## The step buffer (R148, R289, R297, R518) -/

section
variable {p : Nat} {y : Panel} {c : Cast} {lk : LinkDecl} {s s1 : State}

theorem exec_stepBufferWrite_eq {panel : BitVec 4} (found : getPanel s panel.toNat = some y) (loaded : y.cast = some c) :
    exec (.stepBufferWrite panel) s = .next
      (if c.step.isSome || !stepWaits s panel.toNat y c then s else writeStep panel.toNat (step5 panel.toNat s)) := by
  simp only [exec, execStepBufferWrite, found, loaded]

theorem writeStep_stays (found : getPanel s p = some y) (loaded : y.cast = some c) (link : c.img.pat.stepLink = some lk)
    (stays : c.step.isSome = true ∨ c.stepEmpty < lk.fulls.length ∨ y.serves = false) : writeStep p s = s := by
  have cannot : (c.step.isSome || decide (c.stepEmpty < lk.fulls.length)
      || ((candidates s p y c).1.isEmpty && (summaryCands s p c).isEmpty) || !y.serves) = true := by
    rcases stays with busy | full | stopped
    · simp [busy]
    · simp [full]
    · simp [stopped]
  simp only [writeStep, found, loaded, link]
  exact if_pos cannot

theorem placeFlush_quiet (cast : getCast s p = some c) (quiet : c.flush = false) : placeFlush p s = some s := by
  simp only [placeFlush, cast, quiet, Bool.false_eq_true, if_false]

theorem writeStep_begins {ps : List (Nat × Nat)} (found : getPanel s p = some y) (loaded : y.cast = some c)
    (link : c.img.pat.stepLink = some lk) (free : c.step = none) (room : lk.fulls.length ≤ c.stepEmpty)
    (serves : y.serves = true) (some_ : (candidates s p y c).1 ≠ [] ∨ summaryCands s p c ≠ []) (quiet : c.flush = false)
    (access : areasAccess p [] [(lk.inArea, lk.inOff + c.stepBuf * lk.inBytes, lk.inBytes)] s = .go ps s1)
    (kept : getCast s1 p = some c) :
    writeStep p s = beginStep p c lk (candidates s p y c).1 (summaryCands s p c) (candidates s p y c).2 s1 := by
  have may : (c.step.isSome || decide (c.stepEmpty < lk.fulls.length)
      || ((candidates s p y c).1.isEmpty && (summaryCands s p c).isEmpty) || !y.serves) = false := by
    simpa [free, Nat.not_lt.2 room, serves, imp_iff_not_or] using some_
  simp only [writeStep, found, loaded, link]
  refine (if_neg (Bool.eq_false_iff.1 may)).trans ((linkAccess_go access).trans ?_)
  simp only [placeFlush_quiet kept quiet]

end

/-! ## The token boundary (R290, R291) -/

section
variable {p : Nat} {y : Panel} {c : Cast} {lk : LinkDecl} {n : Nat} {srs : List StepRec} {s s1 : State}

theorem stepDone_eq (cast : getCast s p = some c) : stepDone p lk s =
    sendSignals (lk.outWriters.map (physSem c)) (modCast p (fun c => { c with
      step := none, stepFull := c.stepFull - lk.outWriters.length, stepOut := (c.stepOut + 1) % max 1 lk.depth }) s) := by
  rw [stepDone, cast]

/-- τ after a step that held a decode record, and the time of its boundary (R517). -/
def tauTaken (p : Nat) (srs : List StepRec) (time : Nat) (s : State) : State :=
  if srs.any (·.kind == 3) then modCast p (fun c => { c with tau := nextTau s c, lastDecode := some time }) s else s

/-- A boundary from its results on: the stamps of its requests, ill-formed results, sampled tokens, stops, scatters,
summaries, and the next step (R291). -/
def resultsSettled (p : Nat) (y : Panel) (c : Cast) (n : Nat) (res : List (StepRec × List Byte)) (s : State) : State :=
  let tok (r : StepRec × List Byte) : Nat := natOf ((r.2.drop 4).take 4)
  let good := bySlot (res.filter fun r => resultOk c.img.pat.vocab n r.1 r.2)
  let dec := good.filter fun r => r.1.kind = 3
  let seen := res.foldl (fun s r => modSlot r.1.slot (fun x => { x with lastStep := s.now.setWidth 32 }) s) s
  let bad := (res.filter fun r => !resultOk c.img.pat.vocab n r.1 r.2).foldl
    (fun s r => bump (.malformed p) 1 (endSlot r.1.slot stBad s)) seen
  let sampled := dec.foldl (fun s r =>
    sampleToken r.1.slot (r.1.first + 1) (tok r) (natOf ((r.2.drop 8).take 4)) s) bad
  let stopped := dec.foldl (fun s r => stopToken r.1.slot (tok r) s) sampled
  let rows := runScatters p (modCast p (fun c => { c with appends := [] })
    ((good.filter fun r => r.1.kind != 4).foldl (fun s r => scatterRecord p y.drained r.1 s) stopped))
  writeStep p (step5 p ((good.filter fun r => r.1.kind = 4).foldl
    (fun s r => modSlot r.1.slot (fun x => { x with sumReady := true }) s) rows))

theorem tokenBoundary_eq {res : List (StepRec × List Byte)} {t : State} {time : Nat} (left : stepDone p lk s = t)
    (at_ : t.us = time) :
    tokenBoundary p y c lk n srs res s = resultsSettled p y c n res (tauTaken p srs time t) := by
  subst left at_
  rfl

theorem exec_tokenBoundary_go {panel : BitVec 4} {ps : List (Nat × Nat)} (found : getPanel s panel.toNat = some y)
    (loaded : y.cast = some c) (link : c.img.pat.stepLink = some lk) (flies : c.step = some (n, srs))
    (serves : y.serves = true) (full : lk.outWriters.length ≤ c.stepFull)
    (access : areasAccess panel.toNat [(lk.outArea, lk.outOff + c.stepOut * lk.outBytes, 16 * srs.length)] [] s =
      .go ps s1) :
    exec (.tokenBoundary panel) s = .next (tokenBoundary panel.toNat y c lk n srs
      ((stepResults s1 c lk srs).filter fun r => !r.1.removed) s1) := by
  have may : (!y.serves || decide (c.stepFull < lk.outWriters.length)) = false := by simp [serves, full]
  simp only [exec, execTokenBoundary, found, loaded, link, flies, may, Bool.false_eq_true, if_false]
  exact congrArg Host.Outcome.next (linkAccess_go access)

end

/-- Settles O31: the buffer is begun by R518's conditions, and the boundary runs the steps of R291 in their order. -/
theorem stepsComplete : Obligations.StepsComplete := by
  intro s panel y c lk p found loaded link
  have writes := exec_stepBufferWrite_eq found loaded
  refine ⟨fun free waits => writes.trans ?first, fun stays => writes.trans ?second, ?begins,
    fun stays => writeStep_stays found loaded link stays, ?boundary⟩
  case first => rw [free, waits]; rfl
  case second => exact congrArg _ (if_pos (by simpa using stays))
  case begins =>
    intro cands take gen all paused ps s1 free room serves some_ quiet access kept
    exact writeStep_begins found loaded link free room serves some_ quiet access kept
  case boundary =>
    intro n srs ps s1 flies serves full access kept res good tok dec taken timed_ seen bad sampled_ stopped rows noted
    refine (exec_tokenBoundary_go found loaded link flies serves full access).trans (congrArg _ ?_)
    have time : taken.us = s.now.toNat := congrArg BitVec.toNat (now_modCast.trans (now_areasAccess access))
    exact tokenBoundary_eq (stepDone_eq kept) time

end Sys2Proof.Proofs

/-! PROOFS. Runs, the sweep, fallback and summaries (R285, R289, R300, R301, R305, R310). -/
namespace Sys2Proof.Proofs
open Sys2Proof Machine Safety Laws

/-! ## RUN_START (R289, R320) -/

section
variable {p i : Nat} {y : Panel} {c : Cast} {lk : LinkDecl} {x : Slot} {fail : Option ReadFail} {s s1 : State}

theorem unseen_hostLive : Unseen p hostLive := by
  refine ⟨fun _ _ _ _ => rfl, fun s q => ?_⟩
  unfold modCast modPanel
  split <;> rfl

theorem hostLive_areasAccess {reads writes : List (Nat × Nat × Nat)} {ps : List (Nat × Nat)}
    (access : areasAccess p reads writes s = .go ps s1) : hostLive s1 = hostLive s :=
  areasAccess_view unseen_hostLive (fun _ _ _ => rfl) access

theorem execRunStart_go {panel : BitVec 4} {ps : List (Nat × Nat)} (found : getPanel s panel.toNat = some y)
    (loaded : y.cast = some c) (link : c.img.pat.runLink = some lk)
    (best : (runCands s panel.toNat c 0 ++ runCands s panel.toNat c 2).head? = some (i, x))
    (serves : y.st = .ready ∨ y.st = .swapping) (room : lk.fulls.length ≤ c.runEmpty) (live : hostLive s = true)
    (access : areasAccess panel.toNat [] [(lk.inArea, lk.inOff + c.runBuf * lk.inBytes, lk.inBytes)] s = .go ps s1) :
    exec (.runStart { panel := panel, fail := fail }) s = .next (startRun fail panel.toNat c lk i x s1) := by
  have may : (!(y.st == .ready || y.st == .swapping) || decide (c.runEmpty < lk.fulls.length)
      || (!x.cut && !hostLive s)) = false := by
    rcases serves with ready | swapping
    · simp [ready, room, live]
    · simp [swapping, room, live]
  simp only [exec, execRunStart, found, loaded, link, best, may, Bool.false_eq_true, if_false]
  exact congrArg Host.Outcome.next (linkAccess_go access)

theorem runInput_eq (joined : x.cut = false) :
    runInput fail x s = hostReadAs fail (fld x.shadow 0x18 8) (fld x.shadow 0x20 4) s := by
  rw [runInput, joined, if_neg Bool.false_ne_true]

theorem hostReadAs_fails {f : ReadFail} {a n : Nat} (live : hostLive s = true) :
    hostReadAs (some f) a n s = (none, readFailed (some f) s) := by
  rw [hostReadAs, live, Option.isSome_some, Bool.and_self, if_pos rfl]

theorem hostReadAs_none {a n : Nat} : hostReadAs none a n s = hostRead a n s := by
  rw [hostReadAs, Option.isSome_none, Bool.and_false, if_neg Bool.false_ne_true]

/-- A RUN's input goes behind its record, in the next run buffer of its panel (R289). -/
theorem startRun_read {data : List Byte} (read : runInput fail x s = (some data, s)) : startRun fail p c lk i x s =
    sendSignals (lk.fulls.map (physSem c)) (modSlot i (fun x => { x with st := .prefill }) (modCast p (fun c => { c with
      runs := c.runs ++ [some i], runEmpty := c.runEmpty - lk.fulls.length, runBuf := (c.runBuf + 1) % max 1 lk.depth })
        (tileHeaders p (stackOf (areaAddrD c lk.inArea (lk.inOff + c.runBuf * lk.inBytes))) c lk.inArea
          (lk.inOff + c.runBuf * lk.inBytes + 256) data.length 0 0
          (areaWrite c lk.inArea (lk.inOff + c.runBuf * lk.inBytes)
            (padBeats (recBytes (bufferHdr 1 1 (requestField 6 1 x data)) ++ recBytes (dispatchRec 1 i 0 0 256 x)) ++ data)
            s)))) := by
  rw [startRun, read]

/-- A RUN whose input cannot be read ends BAD_DESCRIPTOR. -/
theorem startRun_unread {t : State} (read : runInput fail x s = (none, t)) :
    startRun fail p c lk i x s = endSlot i stBad t := by
  rw [startRun, read]

end

/-! ## RUN_RESULT (R305) -/

section
variable {p i : Nat} {y : Panel} {c : Cast} {lk : LinkDecl} {x : Slot} {r : Option Nat}
variable {rest : List (Option Nat)} {s s1 s2 : State}

theorem execRunResult_go {panel : BitVec 4} {ps : List (Nat × Nat)} (found : getPanel s panel.toNat = some y)
    (loaded : y.cast = some c) (link : c.img.pat.runLink = some lk) (runs : c.runs = r :: rest) (serves : y.serves = true)
    (full : lk.outWriters.length ≤ c.runFull)
    (access : areasAccess panel.toNat
      ((lk.outArea, lk.outOff + c.runOut * lk.outBytes, lk.payOut) :: resultRecords c lk) [] s = .go ps s1) :
    exec (.runResult panel) s = .next (runResult panel.toNat c lk s1) := by
  have may : (c.runs.isEmpty || !y.serves || decide (c.runFull < lk.outWriters.length)) = false := by
    simp [runs, serves, full]
  simp only [exec, execRunResult, found, loaded, link, may, Bool.false_eq_true, if_false]
  exact congrArg Host.Outcome.next (linkAccess_go access)

theorem runDone_eq (cast : getCast s p = some c) (runs : c.runs = r :: rest) : runDone p lk s =
    sendSignals (lk.outWriters.map (physSem c)) (modCast p (fun c => { c with
      runs := rest, runFull := c.runFull - lk.outWriters.length, runOut := (c.runOut + 1) % max 1 lk.depth }) s) := by
  rw [runDone, cast]
  refine congrArg (sendSignals _) (modCast_congr fun d loaded => ?_)
  cases cast.symm.trans loaded
  rw [runs, List.tail_cons]

theorem runResult_removed (runs : c.runs = none :: rest) :
    runResult p c lk s = bump (.discardedRuns p) 1 (runDone p lk s) := by
  rw [runResult, runs]
  rfl

/-- The oldest run, and the slot that holds its request. -/
theorem oldestRun_eq (runs : c.runs = some i :: rest) (found : getSlot s i = some x) :
    (c.runs.head?.join).bind (fun i => (getSlot s i).map fun x => (i, x)) = some (i, x) := by
  rw [runs, List.head?_cons, Option.join_some, Option.bind_some, found, Option.map_some]

theorem runResult_ended (runs : c.runs = some i :: rest) (found : getSlot s i = some x) (ended : x.st ≠ .prefill) :
    runResult p c lk s = bump (.discardedRuns p) 1 (runDone p lk s) := by
  rw [runResult, oldestRun_eq runs found]
  exact if_pos (bne_iff_ne.2 ended)

theorem runResult_late (runs : c.runs = some i :: rest) (found : getSlot s i = some x) (flies : x.st = .prefill)
    (late : reached x s = true) :
    runResult p c lk s = bump (.discardedRuns p) 1 (endSlot i stDeadline (runDone p lk s)) := by
  rw [runResult, oldestRun_eq runs found]
  exact (if_neg (by simp [flies])).trans (if_pos late)

theorem runResult_delivered (runs : c.runs = some i :: rest) (found : getSlot s i = some x) (flies : x.st = .prefill)
    (early : reached x s = false) (tiles : resultTiles p c lk s = (true, s2)) : runResult p c lk s =
      deliverRun i x lk.payOut (areaRead s2 c lk.outArea (lk.outOff + c.runOut * lk.outBytes) lk.payOut)
        ((resultRecords c lk).flatMap fun r => areaRead s2 c r.1 r.2.1 r.2.2) (runDone p lk s2) := by
  rw [runResult, oldestRun_eq runs found, tiles]
  exact (if_neg (by simp [flies])).trans (if_neg (by simp [early]))

theorem deliverRun_joined {n : Nat} {out hs : List Byte} (joined : x.cut = false) : deliverRun i x n out hs s =
    endSlot i stDone (modSlot i (fun z => { z with outBytes := n, histWritten := fld x.shadow 0x30 8 != 0 && !hs.isEmpty })
      (if fld x.shadow 0x30 8 != 0 && !hs.isEmpty then
        hostWrite (fld x.shadow 0x30 8) hs (hostWrite (fld x.shadow 0x28 8) out s)
      else hostWrite (fld x.shadow 0x28 8) out s)) := by
  unfold deliverRun
  simp only [joined, Bool.false_eq_true, if_false, Bool.false_or, Bool.not_eq_true']
  cases (fld x.shadow 0x30 8 != 0 && !hs.isEmpty) <;> rfl

end

/-! ## SWEEP (R285, R296, R300) -/

theorem execSweep_off_grid {s : State} (off : s.now.toNat % 100 ≠ 0) : execSweep s = .next s :=
  congrArg Host.Outcome.next (if_pos (bne_iff_ne.2 off))

theorem execSweep_on_grid {s : State} (on : s.now.toNat % 100 = 0) : execSweep s = .next
    (ageAll (sendSummaries ((liveSlots ((liveSlots s).foldl (fun s i => sweepSlot i s) s)).foldl (fun s i =>
      if (getSlot s i).any fun x => inStep s x.panel i then s else monitorSlot i s)
        ((liveSlots s).foldl (fun s i => sweepSlot i s) s)))) :=
  congrArg Host.Outcome.next (if_neg (by simpa [State.us] using on))

/-! ## FALLBACK (R301) -/

/-- The version a panel takes requests under. -/
def admissionAt (f : Nat) (s : State) : Option (BitVec 32) := (getCast s f).map (·.admission)

section
variable {f p i : Nat} {s : State}

theorem admissionAt_modCast {g : Cast → Cast} (kept : ∀ c, (g c).admission = c.admission := by exact fun _ => rfl) :
    admissionAt f (modCast p g s) = admissionAt f s := by
  unfold admissionAt getCast modCast modPanel
  split
  next x found =>
    rw [setPanel, tget_tset]
    split
    next same =>
      subst same
      cases cast : x.cast <;> simp [found, cast, kept]
    next => rfl
  next => rfl

theorem admissionAt_of_panels {t : State} (same : t.panels = s.panels) : admissionAt f t = admissionAt f s := by
  rw [admissionAt, admissionAt, getCast, getCast, same]

theorem admissionAt_freeHank {k : Nat} : admissionAt f (freeHank k s) = admissionAt f s := admissionAt_of_panels rfl

theorem admissionAt_freeHanks (l : List Nat) :
    admissionAt f (l.foldl (fun s a => freeHank (hankOf a) s) s) = admissionAt f s :=
  foldl_view (view := admissionAt f) (fun _ _ => admissionAt_freeHank) l

theorem admissionAt_wr {a : Nat} {l : List Byte} : admissionAt f (wr a l s) = admissionAt f s := rfl

theorem admissionAt_writeRootPages {root n : Nat} : admissionAt f (writeRootPages root n s) = admissionAt f s := rfl

theorem admissionAt_releaseNow {r : PageRelease} : admissionAt f (releaseNow p r s) = admissionAt f s := by
  unfold releaseNow
  split
  next c k _ _ =>
    dsimp only
    split
    · rw [admissionAt_wr, admissionAt_freeHanks]
      exact admissionAt_modCast
    · rw [admissionAt_writeRootPages]
      refine Eq.trans (foldl_view (view := admissionAt f) (fun t e => ?_) _) admissionAt_modCast
      split
      · rfl
      · exact admissionAt_wr
  next => rfl

theorem admissionAt_runReleases : admissionAt f (runReleases p s) = admissionAt f s := by
  unfold runReleases
  split
  · exact foldl_view (view := admissionAt f) (fun _ _ => admissionAt_releaseNow.trans admissionAt_modCast) _
  · rfl

theorem admissionAt_releaseDue {r : PageRelease} : admissionAt f (releaseDue p r s) = admissionAt f s :=
  admissionAt_runReleases.trans admissionAt_modCast

theorem admissionAt_releasePages : admissionAt f (releasePages i s) = admissionAt f s := by
  unfold releasePages
  split
  · rfl
  dsimp only
  split
  · rfl
  split
  · rfl
  · exact admissionAt_releaseDue

theorem admissionAt_leaveWork : admissionAt f (leaveWork i s) = admissionAt f s := by
  unfold leaveWork
  split
  · rfl
  · exact admissionAt_modCast

theorem admissionAt_leavePanel {byStep : Bool} : admissionAt f (leavePanel byStep i s) = admissionAt f s := by
  unfold leavePanel
  split
  · rfl
  · exact Eq.trans admissionAt_modCast (admissionAt_releasePages.trans admissionAt_leaveWork)

theorem execFallback_moves {slot : BitVec 14} {x : Slot} {c : Cast} (found : getSlot s slot.toNat = some x)
    (due : x.fallbackDue = true) (committed : x.sampled = []) (started : x.st = .prefill ∨ x.st = .decode)
    (target : fallbackPanel s x (x.tokens + remaining s x) = some f) (cast : getCast s f = some c) :
    execFallback slot s = .next (slotChanged slot.toNat (modSlot slot.toNat (fun x => { x with
      fallback := true, fallbackDue := false, panel := f, served := c.admission, rebuild := false, st := .queued })
        (bump (.fallbacks x.panel) 1 (leavePanel true slot.toNat s)))) := by
  have may : (!x.fallbackDue || !x.sampled.isEmpty || !(x.st == .prefill || x.st == .decode)) = false := by
    rcases started with prefill | decode
    · simp [due, committed, prefill]
    · simp [due, committed, decode]
  have version : admissionAt f (bump (.fallbacks x.panel) 1 (leavePanel true slot.toNat s)) = some c.admission :=
    admissionAt_leavePanel.trans (by rw [admissionAt, cast, Option.map_some])
  rw [admissionAt] at version
  simp only [execFallback, found, may, Bool.false_eq_true, if_false, target, version, Option.getD_some]

end

/-! ## SUMMARY_RESULT (R310) -/

theorem execSummaryResult_came {slot : BitVec 14} {x : Slot} {c : Cast} {s : State} (found : getSlot s slot.toNat = some x)
    (summarises : x.st = .summarising) (came : x.sumReady = true) (near : tierOf x.summary ≠ 3) (whole : x.sumLost = false)
    (cast : getCast s x.panel = some c) : execSummaryResult slot s = .next
      (if summaryOk (touch x.summary 64 s) x c.img.pat.summaryBytes then pauseSlot slot.toNat (touch x.summary 64 s)
      else endSlot slot.toNat stBad (touch x.summary 64 s)) := by
  have may : (x.st != .summarising || !x.sumReady) = false := by simp [summarises, came]
  simp only [execSummaryResult, found, may, Bool.false_eq_true, if_false, near, cast, whole]

/-- Settles O32: each event acts by the lemmas of its operation. -/
theorem runsAndSweepsComplete : Obligations.RunsAndSweepsComplete := by
  intro s
  refine ⟨?runs, ⟨execSweep_on_grid, execSweep_off_grid⟩, ?slots⟩
  case runs =>
    intro panel y c lk p found loaded link
    refine ⟨?start, ?result⟩
    case start =>
      intro i x best ps s1 serves room joined live access at_ n run
      have starts (fail : Option ReadFail) : run fail = .next (startRun fail p c lk i x s1) :=
        execRunStart_go found loaded link best serves room live access
      have live1 : hostLive s1 = true := (hostLive_areasAccess access).trans live
      refine ⟨fun f => (starts _).trans (congrArg _ ?_), fun bad => (starts _).trans (congrArg _ ?_), fun good => ?_⟩
      · exact startRun_unread ((runInput_eq joined).trans (hostReadAs_fails live1))
      · exact startRun_unread ((runInput_eq joined).trans (hostReadAs_none.trans (hostRead_bad bad)))
      · have read := (runInput_eq joined).trans (hostReadAs_none.trans (hostRead_good good))
        exact ⟨requestField 6 1 x (rd s1 (hostBase + at_) n), (starts none).trans (congrArg _ (startRun_read read))⟩
    case result =>
      intro r rest ps s1 off taken runs serves full access kept
      have results := execRunResult_go found loaded link runs serves full access
      have leaves : runDone p lk s1 = taken s1 := runDone_eq kept runs
      refine ⟨fun removed => results.trans (congrArg _ ?_), ?_⟩
      · subst removed
        rw [runResult_removed runs, leaves]
      rintro i x rfl slot joined
      refine ⟨fun ended => results.trans (congrArg _ ?_), fun flies late => results.trans (congrArg _ ?_), ?_⟩
      · rw [runResult_ended runs slot ended, leaves]
      · rw [runResult_late runs slot flies late, leaves]
        rfl
      · intro s2 flies early tiles kept2 hist out hs given told
        refine results.trans (congrArg _ ?_)
        rw [runResult_delivered runs slot flies early tiles, deliverRun_joined joined, runDone_eq kept2 runs]
        rfl
  case slots =>
    intro slot x i found
    refine ⟨fun f cf due committed started target cast => execFallback_moves found due committed started target cast,
      fun c summarises came near whole cast => ?_⟩
    have came := execSummaryResult_came found summarises came near whole cast
    exact ⟨fun ok => came.trans (congrArg _ (if_pos ok)), fun bad => came.trans (congrArg _ (if_neg (by simp [bad])))⟩

end Sys2Proof.Proofs

/-! PROOFS. The fuses: what READY_SET makes of them, and that no step takes them back. -/
namespace Sys2Proof.Proofs
open Sys2Proof Machine Safety Laws

/-! ## What notices and interrupts leave as it was -/

/-- `t` is `s` but for what notices and interrupts change: mailboxes, pending messages and interrupt causes, the pair's
events and waiting notices, what has been sent, the free values taken, and the counters. -/
def Noticed (s t : State) : Prop :=
  t = { s with
    mbx := t.mbx, host := t.host, irq := t.irq, outbox := t.outbox, freeCtr := t.freeCtr, ctrs := t.ctrs
    ply := { s.ply with events := t.ply.events, notices := t.ply.notices } }

theorem Noticed.refl (s : State) : Noticed s s := rfl

theorem Noticed.trans {s t u : State} (h : Noticed s t) (k : Noticed t u) : Noticed s u :=
  Eq.trans k (congrArg (fun x : State => { x with
    mbx := u.mbx, host := u.host, irq := u.irq, outbox := u.outbox, freeCtr := u.freeCtr, ctrs := u.ctrs
    ply := { x.ply with events := u.ply.events, notices := u.ply.notices } }) h)

theorem Noticed.nv {s t : State} (h : Noticed s t) : t.nv = s.nv := (congrArg State.nv h).trans rfl

theorem Noticed.boot {s t : State} (h : Noticed s t) : t.boot = s.boot := (congrArg State.boot h).trans rfl

theorem Noticed.foldl {α : Type} {f : State → α → State} (step : ∀ s x, Noticed s (f s x)) :
    ∀ (l : List α) (s : State), Noticed s (l.foldl f s)
  | [], s => .refl s
  | x :: l, s => (step s x).trans (foldl step l _)

theorem sendMsix_noticed (vec : Nat) (s : State) : Noticed s (sendMsix vec s) := by
  unfold sendMsix
  split
  · rfl
  split
  · rfl
  split
  · rfl
  split <;> rfl

theorem raiseCause_noticed (bit : Nat) (s : State) : Noticed s (raiseCause bit s) := by
  unfold raiseCause
  dsimp only
  split
  · rfl
  split
  · exact Noticed.trans (t := { s with irq := { s.irq with cause := s.irq.cause ||| BitVec.ofNat 6 (2 ^ bit) } }) rfl
      (sendMsix_noticed _ _)
  · rfl

theorem interruptMaster_noticed (m : BitVec 8) (s : State) : Noticed s (interruptMaster m s) := by
  unfold interruptMaster
  split
  · split
    · exact sendMsix_noticed _ s
    · rfl
  · rfl

theorem ringBell_noticed (m : BitVec 8) (c : Nat) (s : State) : Noticed s (ringBell m c s) := by
  unfold ringBell
  dsimp only
  split
  · exact Noticed.trans (t := { s with mbx := { s.mbx with db := tset s.mbx.db m.toNat (dbBits s m ||| BitVec.ofNat 32 (2 ^ (c % 32))) } })
      rfl (interruptMaster_noticed m _)
  · rfl

theorem putWord_noticed (c : Nat) (first : Bool) (w : MbxWord) (s : State) : Noticed s (putWord c first w s) := by
  have counted (full : Bool) (x : Chan) : Noticed s (if full then bump (.collisions c) 1 (setChan c x s) else setChan c x s) := by
    cases full <;> rfl
  exact (counted _ _).trans (ringBell_noticed w.dst c _)

theorem putWords_noticed (c : Nat) (first : Bool) (src dst : BitVec 8) (ws : List (BitVec 32)) (s : State) :
    Noticed s (putWords c first src dst ws s) :=
  Noticed.foldl (fun s _ => putWord_noticed c first _ s) ws s

theorem notice_noticed (src dst : BitVec 8) (type : Nat) (words : List (BitVec 32)) (s : State) :
    Noticed s (notice src dst type words s) := by
  unfold notice
  split
  · rfl
  · exact Noticed.trans (t := { s with freeCtr := s.freeCtr + 1 }) rfl (putWords_noticed _ _ _ _ _ _)

theorem healthNotice_noticed (s : State) : Noticed s (healthNotice s) := by
  unfold healthNotice
  split
  · rfl
  · exact notice_noticed _ _ _ _ _

/-! ## The fuses at READY (R467) -/

theorem takeHank_nv (k : Nat) (o : Option Nat) (pin : Bool) (s : State) : (takeHank k o pin s).nv = s.nv := makeHome_nv

theorem takeHank_boot (k : Nat) (o : Option Nat) (pin : Bool) (s : State) : (takeHank k o pin s).boot = s.boot := makeHome_boot

theorem takeHank_us (k : Nat) (o : Option Nat) (pin : Bool) (s : State) : (takeHank k o pin s).us = s.us :=
  congrArg BitVec.toNat makeHome_now

/-- READY set, with the addresses of the two pinned hanks and the time it took (R463). -/
def asReady (mirror stop : Nat) (ms : BitVec 32) (t : State) : State :=
  { t with boot := { t.boot with
    ready := true, mirrorPinned := true, mirrorHank := mirror, stopBase := stop, readyMs := ms } }

/-- READY_SET where every step before it has ended: the two hanks are taken and pinned, READY is set, the fuses are updated,
and HEALTH is sent (R463, R467). -/
theorem execReadySet_of_free {s : State} {k1 k2 : Nat} (on : s.power.on = true) (pcie : s.boot.pcie = true)
    (dram : s.boot.dramDone = true) (swatch : s.boot.swatchDone = true) (going : s.boot.failed = false)
    (early : s.boot.ready = false) (free2 : lowestFree s 2 none = some k2) (free1 : lowestFree s 1 none = some k1) :
    exec .readySet s = .next (healthNotice (updateFuses (asReady (hankAddr k2) (hankAddr k1)
      (BitVec.ofNat 32 ((s.us - s.boot.time0) / 1000)) (takeHank k1 none true (takeHank k2 none true s))))) := by
  change execReadySet s = _
  unfold execReadySet asReady
  rw [free1, free2]
  dsimp only
  rw [if_neg (by simp [on, pcie, dram, swatch, going, early]), takeHank_us, takeHank_us]

/-- Bit `k` of the revocation bits of every root slot below `slot`. -/
theorem getLsbD_lowerSlots (slot k : Nat) (hk : k < 4) : (BitVec.ofNat 4 (2 ^ slot - 1)).getLsbD k = decide (k < slot) := by
  rw [BitVec.getLsbD_ofNat, Nat.testBit_two_pow_sub_one, decide_eq_true hk, Bool.true_and]

section
variable {s : State}

theorem updateFuses_svn_advanced (advance : nbit (fwFlags (runningImg s)) 0 = true) (above : s.nv.svn < fwSvn (runningImg s))
    (fits : fwSvn (runningImg s) ≤ 64) : (updateFuses s).nv.svn = fwSvn (runningImg s) := by
  simp only [updateFuses, advance, if_true]
  omega

theorem updateFuses_svn_kept (h : nbit (fwFlags (runningImg s)) 0 = false ∨ fwSvn (runningImg s) ≤ s.nv.svn) :
    (updateFuses s).nv.svn = s.nv.svn := by
  simp only [updateFuses]
  split
  next advance =>
    have below := h.resolve_left (by simp [advance])
    omega
  next => rfl

theorem updateFuses_revoked_lower (revoke : nbit (fwFlags (runningImg s)) 1 = true) (k : Nat) (hk : k < 4) :
    (updateFuses s).nv.revoked.getLsbD k = (s.nv.revoked.getLsbD k || decide (k < fwSlot (runningImg s))) := by
  simp only [updateFuses, revoke, if_true, BitVec.getLsbD_or, getLsbD_lowerSlots _ k hk]

theorem updateFuses_revoked_kept (keep : nbit (fwFlags (runningImg s)) 1 = false) :
    (updateFuses s).nv.revoked = s.nv.revoked := by
  simp only [updateFuses, keep]
  rfl

/-- What HEALTH after READY leaves of the fuses of the running image. -/
theorem fusesUpdated_of_sameImage {u : State} (nv : u.nv = s.nv) (bank : u.boot.bank = s.boot.bank)
    (ready : u.boot.ready = true) :
    let t := healthNotice (updateFuses u)
    let i := runningImg s
    t.boot.ready = true ∧
      (nbit (fwFlags i) 0 = true → s.nv.svn < fwSvn i → fwSvn i ≤ 64 → t.nv.svn = fwSvn i) ∧
      ((nbit (fwFlags i) 0 = false ∨ fwSvn i ≤ s.nv.svn) → t.nv.svn = s.nv.svn) ∧
      (nbit (fwFlags i) 1 = true → ∀ k : Nat, k < 4 →
        t.nv.revoked.getLsbD k = (s.nv.revoked.getLsbD k || decide (k < fwSlot i))) ∧
      (nbit (fwFlags i) 1 = false → t.nv.revoked = s.nv.revoked) := by
  have sent := healthNotice_noticed (updateFuses u)
  have boot : (healthNotice (updateFuses u)).boot = u.boot := sent.boot
  have img : runningImg u = runningImg s := by rw [runningImg, runningImg, nv, bank]
  intro t i
  rw [sent.nv, boot, ← nv, show i = runningImg u from img.symm]
  exact ⟨ready, updateFuses_svn_advanced, updateFuses_svn_kept, updateFuses_revoked_lower, updateFuses_revoked_kept⟩

end

/-! ## Fuses along steps -/

/-- The fuses of `t` are no lower than those of `s`: the security version, and every revocation bit that was set. -/
structure FusesUp (s t : State) : Prop where
  svn : s.nv.svn ≤ t.nv.svn
  revoked : ∀ k : Nat, s.nv.revoked.getLsbD k = true → t.nv.revoked.getLsbD k = true

theorem FusesUp.trans {s t u : State} (h : FusesUp s t) (k : FusesUp t u) : FusesUp s u :=
  ⟨Nat.le_trans h.svn k.svn, fun i b => k.revoked i (h.revoked i b)⟩

theorem step_fusesUp {s t : State} (e : step s = .next t) : FusesUp s t := by
  have kept := step_kept e
  refine ⟨kept.svn, fun k b => ?_⟩
  have both := congrArg (BitVec.getLsbD · k) kept.revoked
  simp only [BitVec.getLsbD_and] at both
  exact ((Bool.and_eq_true_iff.1 (both.trans b)).2)

theorem after_fusesUp {s t : State} (h : After s t) : FusesUp s t := by
  induction h with
  | start => exact ⟨Nat.le_refl _, fun _ => id⟩
  | sent queue _ ih => exact ⟨ih.svn, ih.revoked⟩
  | stepped _ e ih => exact ih.trans (step_fusesUp e)

theorem FusesUp.fusedOut {s t : State} (h : FusesUp s t) {i : FwImage} (out : FusedOut s.nv i) : FusedOut t.nv i :=
  out.imp (fun below => Nat.lt_of_lt_of_le below h.svn) (fun ⟨slot, bit⟩ => ⟨slot, h.revoked _ bit⟩)

/-- An image that the fuses refuse fails check 2 or 5 of R466, or one before it. -/
theorem fwCheck_ne_zero_of_fusedOut {nv : NonVolatile} {i : FwImage} (out : FusedOut nv i) : fwCheck nv i ≠ 0 := by
  unfold fwCheck
  split
  · decide
  split
  · decide
  next key root =>
    split
    · decide
    split
    · decide
    split
    · decide
    next notBelow =>
      obtain below | ⟨slot, bit⟩ := out
      · exact absurd below notBelow
      · have gone : rootKey nv.revoked (fwSlot i) = none :=
          if_neg (by rw [nbit_testBit]; simp [BitVec.testBit_toNat, bit])
        exact absurd (gone.symm.trans root) (by simp)

theorem runningImg_runBank (b fell : Bool) (s : State) : runningImg (runBank b fell s) = bankImg s.nv b := by
  cases fell <;> rfl

/-- A boot verification runs an image only when it passes the check (R466). -/
theorem bootVerifyDone_runs {t u : State} (off : t.boot.booted = false) (e : exec .bootVerifyDone t = .next u)
    (ran : u.boot.booted = true) : fwCheck t.nv (runningImg u) = 0 := by
  change execBootVerifyDone t = _ at e
  unfold execBootVerifyDone at e
  obtain rfl := Host.Outcome.next.inj e
  revert ran
  split
  · exact fun ran => absurd (off.symm.trans ran) (by decide)
  dsimp only
  split
  next passes => exact fun _ => (congrArg _ (runningImg_runBank _ _ _)).trans passes
  split
  next passes => exact fun _ => (congrArg _ (runningImg_runBank _ _ _)).trans passes
  next => exact fun ran => absurd (off.symm.trans ran) (by decide)

theorem asReady_ready (mirror stop : Nat) (ms : BitVec 32) (t : State) : (asReady mirror stop ms t).boot.ready = true := rfl

theorem asReady_bank (mirror stop : Nat) (ms : BitVec 32) (t : State) : (asReady mirror stop ms t).boot.bank = t.boot.bank := rfl

theorem asReady_nv (mirror stop : Nat) (ms : BitVec 32) (t : State) : (asReady mirror stop ms t).nv = t.nv := rfl

/-- Settles O52: READY_SET by what it makes of the fuses, the rest by the order that every step keeps on them. -/
theorem fusesNeverGoBack : Obligations.FusesNeverGoBack := by
  refine ⟨fun s ⟨on, pcie, dram, swatch, going, early, free1, free2⟩ => ?_, fun s t reached => ?_⟩
  · obtain ⟨k1, free1⟩ := Option.ne_none_iff_exists'.1 free1
    obtain ⟨k2, free2⟩ := Option.ne_none_iff_exists'.1 free2
    refine ⟨_, execReadySet_of_free on pcie dram swatch going early free2 free1,
      fusesUpdated_of_sameImage ?_ ?_ (asReady_ready _ _ _ _)⟩
    · rw [asReady_nv, takeHank_nv, takeHank_nv]
    · rw [asReady_bank, takeHank_boot, takeHank_boot]
  · have up := after_fusesUp reached
    refine ⟨up.svn, up.revoked, fun i out => ?_⟩
    have fails := fwCheck_ne_zero_of_fusedOut (up.fusedOut out)
    exact ⟨fails, fun u off e ran same => fails (same ▸ bootVerifyDone_runs off e ran)⟩

/-- Settles O50: the queue's front is what the step runs, by its definition. -/
theorem stepRunsFront : Obligations.StepRunsFront := fun _ _ _ => rfl

/-- Settles O55: every command keeps the queue that the step hands it. -/
theorem queueGivesItsFront : Obligations.QueueGivesItsFront := fun _ _ e => (step_kept e).pending

end Sys2Proof.Proofs

/-! PROOFS. The host-interface reset, FLR, PERST#, link loss, D3hot and D0 (R320 to R322, R459, R460). -/
namespace Sys2Proof.Proofs
open Sys2Proof Machine Safety Laws

/-! ## What the records to the partner, and the end of a slot, leave as it was -/

/-- Module time, the rings, and what has come from the partner are as they were. -/
structure Aside (s t : State) : Prop where
  now : t.now = s.now
  rings : t.rings = s.rings
  rxQ : t.ply.rxQ = s.ply.rxQ

theorem Aside.refl (s : State) : Aside s s := ⟨rfl, rfl, rfl⟩

theorem Aside.trans {s t u : State} (h : Aside s t) (k : Aside t u) : Aside s u :=
  ⟨k.now.trans h.now, k.rings.trans h.rings, k.rxQ.trans h.rxQ⟩

theorem Aside.foldl {α : Type} {f : State → α → State} (step : ∀ s x, Aside s (f s x)) :
    ∀ (l : List α) (s : State), Aside s (l.foldl f s)
  | [], s => .refl s
  | x :: l, s => (step s x).trans (foldl step l _)

theorem emitOut_aside (o : Out) (s : State) : Aside s (emitOut o s) := ⟨rfl, rfl, rfl⟩

theorem setPort_aside (p : Nat) (x : Port) (s : State) : Aside s (setPort p x s) := ⟨rfl, rfl, rfl⟩

theorem setSlot_aside (i : Nat) (x : Slot) (s : State) : Aside s (setSlot i x s) := ⟨rfl, rfl, rfl⟩

theorem wr_aside (a : Nat) (l : List Byte) (s : State) : Aside s (wr a l s) := ⟨rfl, rfl, rfl⟩

theorem dropAlloc_aside (who : Taker) (s : State) : Aside s (dropAlloc who s) := ⟨rfl, rfl, rfl⟩

/-- A change of the pair that leaves the queue of what has come. -/
theorem setPly_aside {s : State} {x : Ply} (h : x.rxQ = s.ply.rxQ) : Aside s { s with ply := x } := ⟨rfl, rfl, h⟩

theorem stampFlit_aside (p kind slots seq ch0 ch1 body : Nat) (s : State) :
    Aside s (stampFlit p kind slots seq ch0 ch1 body s).2 := by
  unfold stampFlit
  dsimp only
  split
  · exact .refl s
  · exact setPort_aside _ _ s

theorem sendFlit_aside (p kind slots seq ch0 ch1 body : Nat) (s : State) : Aside s (sendFlit p kind slots seq ch0 ch1 body s) := by
  have stamped := stampFlit_aside p kind slots seq ch0 ch1 body s
  unfold sendFlit
  refine .trans stamped (.trans ?_ (emitOut_aside _ _))
  split
  · exact setPort_aside _ _ _
  · exact .refl _

theorem sendSlot_aside (p ch ty : Nat) (b : Beat) (s : State) : Aside s (sendSlot p ch ty b s) := by
  unfold sendSlot
  refine .trans ?_ (sendFlit_aside ..)
  exact setPort_aside _ _ _

theorem drainService_aside (p fuel : Nat) (s : State) : Aside s (drainService p fuel s) := by
  induction fuel generalizing s with
  | zero => exact .refl s
  | succ k ih =>
    unfold drainService
    dsimp only
    split
    · split
      · refine .trans ?_ (ih _)
        refine .trans ?_ (sendSlot_aside ..)
        exact setPort_aside _ _ _
      · exact .refl s
    · exact .refl s

theorem sendService_aside (p : Nat) (h : Rec64) (data : List Byte) (s : State) : Aside s (sendService p h data s) := by
  unfold sendService
  refine .trans ?_ (drainService_aside p _ _)
  exact setPort_aside _ _ _

theorem lifelineMsg_aside (bulk : Bool) (data : List Byte) (toks : List (Nat × Nat)) (s : State) :
    Aside s (lifelineMsg bulk data toks s) := by
  unfold lifelineMsg
  refine .trans ?_ (sendService_aside 15 _ data _)
  refine setPly_aside ?_
  split <;> rfl

theorem lifelineDrain_aside (fuel : Nat) (s : State) : Aside s (lifelineDrain fuel s) := by
  induction fuel generalizing s with
  | zero => exact .refl s
  | succ k ih =>
    unfold lifelineDrain
    split
    · split
      · refine .trans ?_ (ih _)
        refine .trans ?_ (lifelineMsg_aside ..)
        exact setPly_aside rfl
      · exact .refl s
    · exact .refl s

theorem lifelineRecs_aside (recs : List Rec64) (toks : List (Nat × Nat)) (s : State) : Aside s (lifelineRecs recs toks s) := by
  unfold lifelineRecs
  split
  · exact .refl s
  · refine .trans ?_ (lifelineDrain_aside _ _)
    exact setPly_aside rfl

theorem slotRecs_aside (i : Nat) (bodies : List (Nat × List (Nat × Nat × Nat))) (toks : List (Nat × Nat)) (s : State) :
    Aside s (slotRecs i bodies toks s) := by
  unfold slotRecs
  split
  · exact .refl s
  split
  · refine .trans ?_ (lifelineRecs_aside _ toks _)
    exact setSlot_aside _ _ _
  · exact .refl s

theorem modPanel_aside (p : Nat) (f : Panel → Panel) (s : State) : Aside s (modPanel p f s) := by
  unfold modPanel
  split <;> exact ⟨rfl, rfl, rfl⟩

theorem modCast_aside (p : Nat) (f : Cast → Cast) (s : State) : Aside s (modCast p f s) := modPanel_aside p _ s

theorem freeHank_aside (k : Nat) (s : State) : Aside s (freeHank k s) := ⟨rfl, rfl, rfl⟩

theorem writeRootPages_aside (root pages : Nat) (s : State) : Aside s (writeRootPages root pages s) :=
  .trans (wr_aside _ _ s) (wr_aside _ _ _)

theorem releaseNow_aside (p : Nat) (r : PageRelease) (s : State) : Aside s (releaseNow p r s) := by
  unfold releaseNow
  split
  · dsimp only
    split
    · refine .trans ?_ (wr_aside _ _ _)
      exact .trans (modCast_aside p _ s) (.foldl (fun t a => freeHank_aside (hankOf a) t) _ _)
    · refine .trans ?_ (writeRootPages_aside _ _ _)
      refine .trans (modCast_aside p _ s) (.foldl (fun t e => ?_) _ _)
      split
      · exact .refl t
      · exact wr_aside _ _ t
  · exact .refl s

theorem runReleases_aside (p : Nat) (s : State) : Aside s (runReleases p s) := by
  unfold runReleases
  split
  · exact .foldl (fun t r => .trans (modCast_aside p _ t) (releaseNow_aside p r _)) _ s
  · exact .refl s

theorem releaseDue_aside (p : Nat) (r : PageRelease) (s : State) : Aside s (releaseDue p r s) :=
  .trans (modCast_aside p _ s) (runReleases_aside p _)

theorem releasePages_aside (i : Nat) (s : State) : Aside s (releasePages i s) := by
  unfold releasePages
  split
  · exact .refl s
  dsimp only
  split
  · exact setSlot_aside _ _ s
  split
  · exact setSlot_aside _ _ s
  · exact .trans (setSlot_aside _ _ s) (releaseDue_aside _ _ _)

theorem freeAt_aside (a : Nat) (s : State) : Aside s (freeAt a s) := by
  unfold freeAt
  split
  · exact ⟨rfl, rfl, rfl⟩
  · split
    · exact .refl s
    · exact freeHank_aside _ s

theorem dropTokenList_aside (i : Nat) (s : State) : Aside s (dropTokenList i s) := by
  unfold dropTokenList
  split
  · exact .trans (.trans (setSlot_aside _ _ s) (freeAt_aside _ _)) (dropAlloc_aside _ _)
  · exact .refl s

theorem dropSummary_aside (i : Nat) (s : State) : Aside s (dropSummary i s) := by
  unfold dropSummary
  split
  · exact .trans (.trans (setSlot_aside _ _ s) (freeAt_aside _ _)) (dropAlloc_aside _ _)
  · exact .refl s

theorem dropToks_aside (i : Nat) (s : State) : Aside s (dropToks i s) := setPly_aside rfl

/-- A slot gone, and its client's count with it. -/
theorem setSlots_aside (t : Tbl Slot) (c : Tbl Client) (s : State) : Aside s { s with slots := t, clients := c } := ⟨rfl, rfl, rfl⟩

theorem freeSlot_aside (i : Nat) (s : State) : Aside s (freeSlot i s) := by
  unfold freeSlot
  split
  · exact .refl s
  · refine .trans ?_ (setSlots_aside _ _ _)
    exact .trans (slotRecs_aside i _ [] s) (.trans (releasePages_aside i _) (.trans (dropTokenList_aside i _)
      (.trans (dropSummary_aside i _) (dropToks_aside i _))))

/-! ## The host-interface reset (R322) -/

theorem discardDue_aside (d : Due) (s : State) : Aside s (discardDue d s) := by
  unfold discardDue
  split
  · exact freeSlot_aside _ s
  · exact .refl s

theorem cutSlot_aside (i : Nat) (s : State) : Aside s (cutSlot i s) := by
  unfold cutSlot
  split
  · exact .refl s
  dsimp only
  split
  · exact .trans (setSlot_aside i _ s) (freeSlot_aside i _)
  · exact setSlot_aside i _ s

/-- Ending what the rings owe changes no ring again. -/
theorem hostReset_rings (s : State) : (hostReset s).rings = (disableRings s).rings :=
  ((Aside.foldl (fun t d => discardDue_aside d t) _ (disableRings s)).trans
    (Aside.foldl (fun t i => cutSlot_aside i t) _ _)).rings

theorem hostReset_rings_disabled (s : State) : ∀ r ∈ (hostReset s).rings, r.2.st = .disabled ∧ r.2.due = [] ∧ r.2.waited = [] := by
  rw [hostReset_rings]
  intro r hr
  obtain ⟨kv, -, rfl⟩ := List.mem_map.1 hr
  exact ⟨rfl, rfl, rfl⟩

theorem hostReset_admin_discarded (s : State) : ∀ c ∈ (hostReset s).admin, c.discard = true := by
  intro c hc
  obtain ⟨a, -, rfl⟩ := List.mem_map.1 hc
  rfl

/-! ## The link and the function's power state (R320, R321, R460) -/

section
variable {s : State}

theorem execPerstAssert_on (on : s.power.on = true) : exec .perstAssert s = .next (
    let t := linkReset true (if s.boot.pcie && s.host.up then msixReset (hostReset s) else s)
    goOn mHost { t with host := { t.host with perst := true, up := false, training := false } }) :=
  congrArg Host.Outcome.next (if_neg (by simp [on]))

theorem execDlDown_up (up : s.host.up = true) (pcie : s.boot.pcie = true) : exec .dlDown s = .next (
    let t := linkReset false (msixReset (hostReset s))
    goOn mHost { t with host := { t.host with up := !t.host.perst } }) :=
  congrArg Host.Outcome.next (if_pos (by simp [up, pcie]))

/-- With Bus Master Enable set and D0 entered the device may issue requests again: the held writes are made (R320). -/
theorem execD0Return_up (up : s.host.up = true) (ready : s.host.flrBusy = false) : exec .d0Return s = .next (
    goOn 1 (s.host.held.foldl (fun t w => match w with
        | .cell a b => wr (hostBase + a) [b] t
        | .message v => emitOut (.msix v) (bump .msixMessages 1 t))
      { s with host := { s.host with d3hot := false, busMaster := true, held := [] } })) := by
  change execD0Return s = _
  have live : hostLive { s with host := { s.host with busMaster := true, d3hot := false } } = true := by simp [hostLive, up, ready]
  unfold execD0Return leaveD3 makeHeld
  rw [if_neg (by simp [up, ready]), if_neg (by rw [live]; decide)]
  rfl

end

/-- Settles O35: each event by its own equation, the reset by what the ends of its commands leave. -/
theorem hostLinkEventsComplete : Obligations.HostLinkEventsComplete := by
  intro s fresh linkGone reached
  refine ⟨fun ⟨on, pcie, up⟩ idle => ?flr, fun on => ⟨fun t from_ => ?perst, fun held => ?train, fun free testing early => ?retry⟩,
    fun up pcie => ?down, fun up idle => ⟨?busMaster, ?d3, execD0Return_up up idle⟩, ?reset⟩
  case flr => exact congrArg Host.Outcome.next (if_pos (by simp [cfgLive, on, pcie, up, idle]))
  case perst =>
    refine (execPerstAssert_on on).trans ?_
    rcases from_ with ⟨pcie, up, rfl⟩ | ⟨early, rfl⟩
    · rw [if_pos (by simp [pcie, up])]
      rfl
    · rw [if_neg (by rcases early with h | h <;> simp [h])]
      rfl
  case train => exact congrArg Host.Outcome.next (if_neg (by simp [on, held]))
  case retry => exact congrArg Host.Outcome.next (if_pos (by rcases early with h | h <;> simp [cfgRetries, on, free, testing, h]))
  case down => exact execDlDown_up up pcie
  case busMaster => exact congrArg Host.Outcome.next (if_neg (by simp [up, idle]))
  case d3 => exact congrArg Host.Outcome.next (if_neg (by simp [up, idle]))
  case reset =>
    exact ⟨rfl, rfl, rfl, rfl, rfl, rfl, rfl, rfl, rfl, rfl, rfl, rfl, hostReset_admin_discarded s, hostReset_rings_disabled s⟩

end Sys2Proof.Proofs

/-! PROOFS. RING_CMD and the poll (R330 to R335). -/
namespace Sys2Proof.Proofs
open Sys2Proof Machine Safety Laws

/-! ## The error code of an ENABLE (R331, R332) -/

theorem firstCode_eq_zero {c : Prop} [Decidable c] {k rest : Nat} (hk : k ≠ 0) : (if c then k else rest) = 0 ↔ ¬ c ∧ rest = 0 := by
  by_cases h : c <;> simp [h, hk]

theorem enableCode_le (s : State) (r : Nat) (tail : Option (List Byte)) : enableCode s r tail ≤ 6 := by
  unfold enableCode
  dsimp only
  split_ifs <;> decide

/-- The code is 0 exactly where every condition of an ENABLE holds. -/
theorem enableCode_eq_zero_iff (s : State) (r : Nat) (tail : Option (List Byte)) :
    let ty := stType s
    let cq := nbits s.ringRegs.link.toNat 0 12
    enableCode s r tail = 0 ↔
      s.boot.ready = true ∧ s.host.version ≠ 0 ∧ (getRing s r).st = .disabled ∧ (r = 0 ∨ (getRing s 0).st = .enabled) ∧
        (stShapeOk s r = true ∧ stAligned s r = true) ∧ tail.map natOf = some 0 ∧
        (ty = 1 → (getRing s cq).st = .enabled ∧ (getRing s cq).type = 2) ∧
        (stTakeover s = true → (ty = 2 ∨ ty = 3) ∧ takeoverRing s ty = none) := by
  intro ty cq
  unfold enableCode
  dsimp only
  rw [firstCode_eq_zero (by decide), firstCode_eq_zero (by decide), firstCode_eq_zero (by decide), firstCode_eq_zero (by decide),
    firstCode_eq_zero (by decide), firstCode_eq_zero (by decide), firstCode_eq_zero (by decide), firstCode_eq_zero (by decide)]
  simp [ty, cq, imp_iff_not_or]

section
variable {s t : State} {tail : Option (List Byte)}

/-- An ENABLE whose conditions hold loads the staged context. -/
theorem ringEnable_of_zero (read : hostRead (s.db.tailCur.toNat + 4 * s.ringRegs.sel.toNat) 4 s = (tail, t))
    (zero : enableCode t s.ringRegs.sel.toNat tail = 0) :
    let r := s.ringRegs.sel.toNat
    let u := writeDevIdx r (countHolds r (setRing r (stagedRing t (getRing t r)) t))
    ringEnable s = if r = 0 then { u with host := { u.host with lock := true } } else u := by
  intro r u
  unfold ringEnable
  dsimp only
  rw [read]
  dsimp only
  rw [zero]
  rfl

/-- One whose conditions do not all hold leaves its error code. -/
theorem ringEnable_of_code (read : hostRead (s.db.tailCur.toNat + 4 * s.ringRegs.sel.toNat) 4 s = (tail, t))
    (code : enableCode t s.ringRegs.sel.toNat tail ≠ 0) : ringEnable s =
      modRing s.ringRegs.sel.toNat (fun x => { x with error := BitVec.ofNat 4 (enableCode t s.ringRegs.sel.toNat tail) }) t := by
  unfold ringEnable
  dsimp only
  rw [read]
  dsimp only
  generalize enableCode t s.ringRegs.sel.toNat tail = n at code
  cases n with
  | zero => exact absurd rfl code
  | succ n => rfl

/-! ## One poll (R335) -/

/-- A poll whose bitmap is read: the rings it names from the rotating start, then the heads of those with held entries, then
what waits on ring 0. -/
theorem pollOnce_of_read (good : hostBad s s.db.bitmap.toNat 512 = false) :
    let b := { bump .polls 1 s with
      db := { s.db with bitmapCur := s.db.bitmap, tailCur := s.db.tail, devidxCur := s.db.devidx }
      host := { s.host with lastPoll := some s.now.toNat, pollStart := (s.host.pollStart + 1) % 4096 } }
    let bits := rd s (hostBase + s.db.bitmap.toNat) 512
    let read := (fromStart (s.rings.map (·.1)) s.host.pollStart).foldl (fun s r =>
      if nbit (lgetD bits (r / 8) 0).toNat (r % 8) && polledType (getRing s r) r then pollRing r s else s) b
    pollOnce s = retakeAll (((read.rings.filter fun r => hasHeld read r.1 r.2).map (·.1)).foldl (fun s r => pollHead r s) read) := by
  intro b bits read
  have bitmap : hostRead b.db.bitmapCur.toNat 512 b = (some bits, b) := hostRead_good (s := b) good
  unfold pollOnce
  exact congrArg (fun x : Option (List Byte) × State =>
    let u : State := match x with
      | (none, t) => t
      | (some m, t) => (fromStart (t.rings.map (·.1)) s.host.pollStart).foldl (fun s r =>
          if nbit (lgetD m (r / 8) 0).toNat (r % 8) && polledType (getRing s r) r then pollRing r s else s) t
    retakeAll (((u.rings.filter fun r => hasHeld u r.1 r.2).map (·.1)).foldl (fun s r => pollHead r s) u)) bitmap

end

/-- Settles O34: ENABLE by its error code, the poll by the read of its bitmap. -/
theorem ringsAndPollComplete : Obligations.RingsAndPollComplete := by
  intro s
  refine ⟨fun live => ?_, fun on able due good => ?poll⟩
  case poll =>
    refine (congrArg Host.Outcome.next (if_pos ?_)).trans (congrArg _ (pollOnce_of_read good))
    cases last : s.host.lastPoll with
    | none => simp [on, able]
    | some t => exact Bool.and_eq_true_iff.2 ⟨by rw [on, able]; rfl, decide_eq_true (due t last)⟩
  · intro r ty cq tail allowed
    refine ⟨fun ok => ?enable, fun bad => ?refuse, congrArg Host.Outcome.next (if_pos live), congrArg Host.Outcome.next (if_pos live)⟩
    case enable =>
      obtain ⟨ready, version, idle, ring0, shape, aligned, good, zero, target, takeover⟩ := ok
      exact (congrArg Host.Outcome.next (if_pos live)).trans (congrArg _ (ringEnable_of_zero (hostRead_good good)
        ((enableCode_eq_zero_iff s r _).2 ⟨ready, version, idle, ring0, ⟨shape, aligned⟩, congrArg some zero, target, takeover⟩)))
    case refuse =>
      have refused {t : State} {l : Option (List Byte)} (read : hostRead tail 4 s = (l, t)) (code : enableCode t r l ≠ 0) :
          exec .ringEnable s = .next (modRing r (fun x => { x with error := BitVec.ofNat 4 (enableCode t r l) }) t) :=
        (congrArg Host.Outcome.next (if_pos live)).trans (congrArg _ (ringEnable_of_code read code))
      cases read : hostBad s tail 4 with
      | true =>
        have code : enableCode (readFailed ((readReqs s tail 4).findSome? (reqFail s)) s) r none ≠ 0 := fun zero =>
          absurd ((enableCode_eq_zero_iff _ r none).1 zero).2.2.2.2.2.1 (by simp)
        exact ⟨_, Nat.pos_of_ne_zero code, enableCode_le _ _ _, refused (hostRead_bad read) code⟩
      | false =>
        have code : enableCode s r (some (rd s (hostBase + tail) 4)) ≠ 0 := fun zero => by
          obtain ⟨ready, version, idle, ring0, ⟨shape, aligned⟩, empty, target, takeover⟩ := (enableCode_eq_zero_iff s r _).1 zero
          exact bad ⟨ready, version, idle, ring0, shape, aligned, read, Option.some.inj empty, target, takeover⟩
        exact ⟨_, Nat.pos_of_ne_zero code, enableCode_le _ _ _, refused (hostRead_good read) code⟩

end Sys2Proof.Proofs

/-! PROOFS. Admin commands that report (R338, R346, R347, R429, R478), firmware update and recovery (R466, R468, R469). -/
namespace Sys2Proof.Proofs
open Sys2Proof Machine Safety Laws

/-! ## Host memory as a running command reads and writes it (R319, R322, R346) -/

section
variable {op : Nat} {d : Rec64} {s t : State}

/-- No host-interface reset has cut off the command just begun. -/
theorem undiscarded_of_running (fresh : (s.admin.all fun c => c.id != s.nextId) = true)
    (same : t.admin = s.admin ++ [{ id := s.nextId, d := setFld d 0 1 op }]) : (adminCmd t s.nextId).any (·.discard) = false := by
  rw [adminCmd_of_running fresh same]
  rfl

theorem adminRead_of_running (fresh : (s.admin.all fun c => c.id != s.nextId) = true)
    (same : t.admin = s.admin ++ [{ id := s.nextId, d := setFld d 0 1 op }]) (a n : Nat) :
    adminRead s.nextId a n t = hostRead a n t := by
  rw [adminRead, undiscarded_of_running fresh same]
  rfl

theorem hostWrite_admin (a : Nat) (l : List Byte) (s : State) : (hostWrite a l s).admin = s.admin :=
  hostWrite_view (view := State.admin) (fun _ _ => rfl) fun _ _ => rfl

/-- The command just begun ends with its output in its buffer, or with the length that it needs. -/
theorem adminOut_ended {buf len : Nat} {l : List Byte} (hop : op < 256) (fresh : (s.admin.all fun c => c.id != s.nextId) = true)
    (same : t.admin = s.admin ++ [{ id := s.nextId, d := setFld d 0 1 op }]) : adminOut s.nextId buf len l t =
      if len < l.length then ended op d 0x20 l.length s t else ended op d 0 l.length s (hostWrite buf l t) := by
  have written : adminWrite s.nextId buf l t = hostWrite buf l t := by
    rw [adminWrite, undiscarded_of_running fresh same]
    rfl
  unfold adminOut
  split
  · exact adminDone_ended hop fresh same
  · rw [written]
    exact adminDone_ended hop fresh ((hostWrite_admin buf l t).trans same)

end

/-! ## COUNTERS takes free values and nothing else (R429, R430) -/

theorem slotBytes_same (i : Nat) (s : State) : (slotBytes i s).2.admin = s.admin ∧ (slotBytes i s).2.now = s.now := by
  unfold slotBytes
  split <;> exact ⟨rfl, rfl⟩

theorem shadowBytes_same (i : Nat) (s : State) : (shadowBytes i s).2.admin = s.admin ∧ (shadowBytes i s).2.now = s.now := by
  unfold shadowBytes
  split <;> exact ⟨rfl, rfl⟩

/-- Module time and the commands that run are as before. -/
theorem countersData_same (sel idx : Nat) (s : State) :
    (countersData sel idx s).2.2.admin = s.admin ∧ (countersData sel idx s).2.2.now = s.now := by
  unfold countersData
  split
  case h_5 =>
    have slot := slotBytes_same idx s
    have shadow := shadowBytes_same idx (slotBytes idx s).2
    exact ⟨shadow.1.trans slot.1, shadow.2.trans slot.2⟩
  all_goals exact ⟨rfl, rfl⟩

/-- Settles O24: each report ends by the rule of output buffers. -/
theorem adminReportsComplete : Obligations.AdminReportsComplete := by
  intro d s out
  refine ⟨fun taken => ?nop, fun taken => ?identify, fun taken => ?counters, fun taken good => ?attest⟩
  all_goals
    refine congrArg Host.Outcome.next ((adminAs_begins taken).trans ?_)
    obtain ⟨-, -, fresh, -⟩ := taken
    rw [beginAdmin, dOp_setFld (by decide) d]
  case nop => exact adminDone_ended (by decide) fresh rfl
  case identify =>
    rw [runIdentify, fld_setFld_op (k := 7), fld_setFld_op (k := 0xF), fld_setFld_op (k := 0x17)]
    exact adminOut_ended (by decide) fresh rfl
  case counters =>
    obtain ⟨admin, now⟩ := countersData_same (fld d 8 1) (fld d 0xA 2) (running 0x90 d s)
    rw [runCounters, fld_setFld_op (k := 7), fld_setFld_op (k := 9), fld_setFld_op (k := 0xF), fld_setFld_op (k := 0x17)]
    dsimp only
    rw [State.us, now]
    exact adminOut_ended (by decide) fresh admin
  case attest =>
    have nonce : hostRead (fld d 0x10 8) 64 (running 0x8E d s) = (some (rd s (hostBase + fld d 0x10 8) 64), running 0x8E d s) :=
      hostRead_good good
    rw [runAttest, fld_setFld_op (k := 0xF), fld_setFld_op (k := 0x17), fld_setFld_op (k := 0x1F), adminRead_of_running fresh rfl,
      nonce]
    exact adminOut_ended (by decide) fresh rfl

/-! ## FW_UPDATE (R466, R468) -/

theorem fwCheck_le (nv : NonVolatile) (i : FwImage) : fwCheck nv i ≤ 6 := by
  unfold fwCheck
  split
  · decide
  split
  · decide
  · split_ifs <;> decide

/-- An image that passes has the form, a root key, no lower security version, and the length and hash of its header. -/
theorem passes_of_fwCheck_eq_zero {nv : NonVolatile} {i : FwImage} (zero : fwCheck nv i = 0) :
    fwFormOk i = true ∧ rootKey nv.revoked (fwSlot i) ≠ none ∧ nv.svn ≤ fwSvn i ∧ i.body.length = fwLength i ∧
      sha512 i.body = fwBytes i 0x20 64 := by
  unfold fwCheck at zero
  split at zero
  · exact absurd zero (by decide)
  next form =>
    split at zero
    · exact absurd zero (by decide)
    next key root =>
      rw [firstCode_eq_zero (by decide), firstCode_eq_zero (by decide), firstCode_eq_zero (by decide),
        firstCode_eq_zero (by decide)] at zero
      obtain ⟨-, -, version, body, -⟩ := zero
      simp only [Bool.or_eq_true, bne_iff_ne, not_or, not_not] at body
      exact ⟨by simpa using form, by simp [root], Nat.not_lt.1 version, body⟩

theorem fwFormOk_fields {i : FwImage} (form : fwFormOk i = true) :
    i.header.length = 512 ∧ fwFld i 0 4 = 0x57464B41 ∧ fwFld i 4 2 = 1 := by
  simp only [fwFormOk, Bool.and_eq_true, beq_iff_eq] at form
  exact ⟨form.1.1.1.1.1.1.1, form.1.1.1.1.1.1.2, form.1.1.1.1.1.2⟩

section
variable {d : Rec64} {s t : State}

/-- A FW_UPDATE whose image is read: held where it passes, else ended. -/
theorem runFwUpdate_read {id : Nat} {l : List Byte} (read : adminRead id (fld d 0x10 8) (fld d 0x18 4) s = (some l, t)) :
    runFwUpdate id d s = if fwLenOk (fwOf l) (fld d 0x18 4) = true ∧ fwCheck t.nv (fwOf l) = 0 then
      { t with boot := { t.boot with updImg := some (id, fwOf l) } } else endUpdateFw id stBad t := by
  unfold runFwUpdate
  dsimp only
  rw [read]
  simp only [Bool.and_eq_true, decide_eq_true_eq]

theorem runFwUpdate_unread {id : Nat} (read : adminRead id (fld d 0x10 8) (fld d 0x18 4) s = (none, t)) :
    runFwUpdate id d s = endUpdateFw id stBad t := by
  unfold runFwUpdate
  dsimp only
  rw [read]

theorem readFailed_admin (f : Option ReadFail) (s : State) : (readFailed f s).admin = s.admin := by
  cases f <;> rfl

theorem readFailed_boot (f : Option ReadFail) (s : State) : (readFailed f s).boot = s.boot := by
  cases f <;> rfl

/-! ## Recovery (R469, R483) -/

/-- The state of an ended recovery: its check number (R483). -/
def recoveryErr (c : Nat) (s : State) : State := { s with boot := { s.boot with rcvState := 3, rcvCheck := BitVec.ofNat 8 c } }

/-- LENGTH of SEC_RCV_CTRL set (R483). -/
def withRcvLen (v : Nat) (s : State) : State := { s with boot := { s.boot with rcvLen := BitVec.ofNat 26 v } }

/-- RECOVERY_GO while FAILED and not BUSY, its image not read. -/
theorem rcvCtrl_unread {v : Nat} (failed : s.boot.failed = true) (go : nbit v 31 = true) (idle : s.boot.rcvState ≠ 1)
    (read : hostRead s.boot.rcvAddr.toNat (v % 2 ^ 26) (withRcvLen v s) = (none, t)) : rcvCtrl v s = recoveryErr 0 t := by
  unfold rcvCtrl
  rw [if_neg (by simp [failed])]
  refine (if_neg (by rw [go]; simpa using idle)).trans ?_
  dsimp only
  split
  next u same =>
    obtain rfl : u = t := congrArg Prod.snd (same.symm.trans read)
    rfl
  next l u same => exact absurd (congrArg Prod.fst (same.symm.trans read)) (Option.some_ne_none l)

/-- The same with its image read: BUSY where it passes. -/
theorem rcvCtrl_read {v : Nat} {l : List Byte} (failed : s.boot.failed = true) (go : nbit v 31 = true)
    (idle : s.boot.rcvState ≠ 1)
    (read : hostRead s.boot.rcvAddr.toNat (v % 2 ^ 26) (withRcvLen v s) = (some l, t)) : rcvCtrl v s =
      if fwLenOk (fwOf l) (v % 2 ^ 26) = false then recoveryErr 7 t
      else if fwCheck t.nv (fwOf l) ≠ 0 then recoveryErr (fwCheck t.nv (fwOf l)) t
      else { t with boot := { t.boot with rcvState := 1, rcvCheck := 0, rcvImg := some (fwOf l) } } := by
  unfold rcvCtrl
  rw [if_neg (by simp [failed])]
  refine (if_neg (by rw [go]; simpa using idle)).trans ?_
  dsimp only
  split
  next u same => exact absurd (congrArg Prod.fst (same.symm.trans read)) (Option.some_ne_none l).symm
  next m u same =>
    obtain ⟨hl, rfl⟩ := Prod.mk.inj (same.symm.trans read)
    obtain rfl := Option.some.inj hl
    have len : (BitVec.ofNat 26 v).toNat = v % 2 ^ 26 := BitVec.toNat_ofNat ..
    rw [← len]
    cases fwLenOk (fwOf m) (BitVec.ofNat 26 v).toNat with
    | false => rfl
    | true =>
      generalize fwCheck u.nv (fwOf m) = c
      cases c <;> rfl

theorem rcvCtrl_busy {v : Nat} (failed : s.boot.failed = true) (busy : s.boot.rcvState = 1) :
    rcvCtrl v s = withRcvLen v s := by
  unfold rcvCtrl
  rw [if_neg (by simp [failed])]
  exact if_pos (by simp [busy])

end

/-- Settles O41: the update and the recovery by the read of their image, the write by what it puts into the other bank. -/
theorem firmwareComplete : Obligations.FirmwareComplete := by
  intro s
  refine ⟨fun d taken => ?update, fun id i held => ⟨?wrote, ?spoilt⟩, fun v live failed => ?go, fun i held => ?recovered,
    fun i bad => ⟨Nat.pos_of_ne_zero fun zero => ?refuses, fwCheck_le s.nv i⟩⟩
  case update =>
    intro a n i read
    have begins := adminAs_begins taken
    obtain ⟨-, -, fresh, -⟩ := taken
    refine congrArg Host.Outcome.next (begins.trans ?_)
    have ends (t : State) (same : t.admin = s.admin ++ [{ id := s.nextId, d := setFld d 0 1 0x91 }]) :
        endUpdateFw s.nextId stBad t =
          ended 0x91 d 0x20 0 s (bump (.fwUpdates 0x20) 1 { t with boot := { t.boot with updImg := none } }) :=
      adminDone_ended (op := 0x91) (d := d) (by decide) fresh (by exact same)
    have haddr : fld (setFld d 0 1 0x91) 0x10 8 = a := fld_setFld_op (k := 0xF) d
    have hlen : fld (setFld d 0 1 0x91) 0x18 4 = n := fld_setFld_op (k := 0x17) d
    rw [beginAdmin, dOp_setFld (by decide) d]
    dsimp only
    have reads : adminRead s.nextId (fld (setFld d 0 1 0x91) 0x10 8) (fld (setFld d 0 1 0x91) 0x18 4) (running 0x91 d s) =
        hostRead a n (running 0x91 d s) := by
      rw [haddr, hlen, adminRead_of_running fresh rfl]
    cases good : hostBad s a n with
    | true =>
      have failed : read = readFailed ((readReqs s a n).findSome? (reqFail s)) (running 0x91 d s) := if_pos good
      rw [runFwUpdate_unread (reads.trans (hostRead_bad good)), if_neg (by simp), ends _ (readFailed_admin _ _), readFailed_boot,
        failed]
      rfl
    | false =>
      have whole : read = running 0x91 d s := if_neg (by simp [good])
      rw [runFwUpdate_read (reads.trans (hostRead_good good)), hlen, ends _ rfl, whole]
      simp only [true_and]
      rfl
  case wrote =>
    change execFwBankWriteDone true s = _
    rw [execFwBankWriteDone, held]
    dsimp only
    rw [if_pos rfl, endUpdateFw, writeOther_eq]
    rfl
  case spoilt =>
    change execFwBankWriteDone false s = _
    rw [execFwBankWriteDone, held]
    dsimp only
    rw [if_neg (by decide), endUpdateFw, writeOther_eq]
    rfl
  case go =>
    intro n a i t bad
    have go : nbit (v.toNat % 2 ^ 31 + 2 ^ 31) 31 = true := by
      have top : (v.toNat % 2 ^ 31 + 2 ^ 31) / 2 ^ 31 = 1 := by omega
      rw [nbit, Nat.shiftRight_eq_div_pow, top]
      rfl
    have short : (v.toNat % 2 ^ 31 + 2 ^ 31) % 2 ^ 26 = n := by omega
    have set : withRcvLen (v.toNat % 2 ^ 31 + 2 ^ 31) s = t := by
      have len : BitVec.ofNat 26 (v.toNat % 2 ^ 31 + 2 ^ 31) = BitVec.ofNat 26 n :=
        BitVec.eq_of_toNat_eq (by rw [BitVec.toNat_ofNat, BitVec.toNat_ofNat, short, Nat.mod_mod])
      rw [withRcvLen, len]
    refine congrArg Host.Outcome.next ((if_pos live).trans ?_)
    by_cases busy : s.boot.rcvState = 1
    · rw [rcvCtrl_busy failed busy, set, if_pos busy]
    rw [if_neg busy]
    cases good : hostBad s a n with
    | true =>
      rw [if_pos rfl]
      exact rcvCtrl_unread failed go busy (by rw [short, set]; exact hostRead_bad good)
    | false =>
      rw [if_neg Bool.false_ne_true]
      refine (rcvCtrl_read failed go busy (by rw [short, set]; exact hostRead_good good)).trans ?_
      rw [short]
      rfl
  case recovered =>
    change execRecoveryDone s = _
    rw [execRecoveryDone, held]
  case refuses =>
    obtain ⟨form, root, version, length, hash⟩ := passes_of_fwCheck_eq_zero zero
    obtain ⟨size, magic, format⟩ := fwFormOk_fields form
    rcases bad with h | h | h | h | h | h | h
    · exact h size
    · exact h magic
    · exact h format
    · exact root h
    · exact absurd version (Nat.not_le.2 h)
    · exact h length
    · exact h hash

end Sys2Proof.Proofs

/-! PROOFS. Mailbox registers, doorbell masks and domains (R359 to R372). -/
namespace Sys2Proof.Proofs
open Sys2Proof Machine Safety Laws

/-! ## Who reaches a channel (R362, R372) -/

section
variable {m : BitVec 8} {c : Nat} {s : State} {f : State → State} {read : Bool}

/-- A master whose window is served makes its access. -/
theorem mbxAccess_of_may (may : (m = 1 ∧ barLive s = true) ∨
    (m ≠ 1 ∧ s.power.on = true ∧ s.boot.booted = true ∧ m ∈ masters ∧ isOff s m = false)) : mbxAccess m f s = f s := by
  rcases may with ⟨rfl, live⟩ | ⟨other, on, booted, known, here⟩
  · exact if_pos live
  · refine (if_neg (by simpa [mHost] using other)).trans (if_pos ?_)
    simp [on, booted, known, here]

theorem chOther_eq (x : Chan) : chOther x m = if x.a = m then x.b else x.a := by
  simp [chOther]

/-- A bound channel's register is reached while the other end is on. -/
theorem chanAccess_bound (bound : 4 ≤ c) (usable : chUsable s m c = true)
    (on : isOff s (if (getChan s c).a = m then (getChan s c).b else (getChan s c).a) = false) : chanAccess m c read f s = f s := by
  unfold chanAccess
  rw [if_neg (by simp [usable]), if_pos bound, chOther_eq, on]
  rfl

/-- A privileged channel is written while its owner is on. -/
theorem chanAccess_privileged (low : c < 4) (usable : chUsable s m c = true) (on : isOff s (chOwner c) = false) :
    chanAccess m c false f s = f s := by
  unfold chanAccess
  rw [if_neg (by simp [usable]), if_neg (Nat.not_le.2 low), on]
  rfl

/-- A channel that the master may not use counts the access (R362). -/
theorem chanAccess_unusable (unusable : chUsable s m c = false) : chanAccess m c read f s = unboundAccess m read s :=
  if_pos (by simp [unusable])

theorem setChan_setChan (x y : Chan) (s : State) : setChan c y (setChan c x s) = setChan c y s := by
  simp only [setChan, tset_tset]

end

/-! ## Words written (R365 to R368) -/

/-- What a word from a master of a bound channel does: refused without the lock in COMPAT, across the lifeline to the partner,
else in the other end's queue. -/
theorem mbxTx_bound {m : BitVec 8} {c : Nat} {s : State} (w : BitVec 32) (bound : 4 ≤ c) (usable : chUsable s m c = true)
    (on : isOff s (if (getChan s c).a = m then (getChan s c).b else (getChan s c).a) = false) : mbxTx m c w s =
      let x := getChan s c
      let o := if x.a = m then x.b else x.a
      if x.compat = true ∧ x.lock ≠ m then lockRefusal m c s
      else if o = 0x30 then toPartner m c w s
      else putWord c (o == x.a) { word := w, src := m, dst := o } s := by
  refine (chanAccess_bound bound usable on).trans ?_
  dsimp only
  rw [if_pos bound, chOther_eq]
  simp only [Bool.and_eq_true, bne_iff_ne, mPartner, beq_iff_eq]

/-- A word toward the partner crosses the lifeline (R393; log entry 75). -/
def crossed (m : BitVec 8) (c : Nat) (w : BitVec 32) (s : State) : State :=
  sendService 15 (serviceHdr 8 0 0 c w.toNat 0) []
    (let x := getChan s c
      let col := if Config.freeValue s.freeCtr % 2 = 1 then flagSet x.txCol m else x.txCol
      setChan c { x with txCol := col } { s with freeCtr := s.freeCtr + 1 })

theorem toPartner_eq (m : BitVec 8) (c : Nat) (w : BitVec 32) (s : State) : toPartner m c w s = crossed m c w s := rfl

/-- A master's word on another's privileged channel goes to the owner. -/
theorem mbxTx_toOwner {m : BitVec 8} {c : Nat} {s : State} (w : BitVec 32) (low : c < 4) (usable : chUsable s m c = true)
    (other : m ≠ chOwner c) (on : isOff s (chOwner c) = false) :
    mbxTx m c w s = putWord c true { word := w, src := m, dst := chOwner c } s := by
  refine (chanAccess_privileged low usable on).trans ?_
  dsimp only
  rw [if_neg (Nat.not_le.2 low), if_pos (by simpa using other)]

/-- The owner's word goes to the destination it has named. -/
theorem mbxTx_fromOwner {m : BitVec 8} {c : Nat} {s : State} (w : BitVec 32) (low : c < 4) (usable : chUsable s m c = true)
    (owner : m = chOwner c) (on : isOff s m = false) (known : (getChan s c).dst ∈ masters) (other : (getChan s c).dst ≠ m)
    (there : isOff s (getChan s c).dst = false) : mbxTx m c w s =
      if (getChan s c).dst = 0x30 then toPartner m c w s
      else putWord c false { word := w, src := m, dst := (getChan s c).dst } s := by
  refine (chanAccess_privileged low usable (owner ▸ on)).trans ?_
  dsimp only
  rw [if_neg (Nat.not_le.2 low), if_neg (by simpa using owner), if_neg (by simp [known, other]), if_neg (by simp [there])]
  simp only [mPartner, beq_iff_eq]

/-- Where a word goes in its queue: behind the others, or over the newest of sixteen (R366). -/
theorem putWord_room {c : Nat} {first : Bool} {s : State} (w : MbxWord)
    (room : (if first then (getChan s c).q0 else (getChan s c).q1).length < 16) : putWord c first w s =
      let x := getChan s c
      let q := if first then x.q0 else x.q1
      ringBell w.dst c (setChan c (if first then { x with q0 := q ++ [w] } else { x with q1 := q ++ [w] }) s) := by
  have full : decide (16 ≤ (if first then (getChan s c).q0 else (getChan s c).q1).length) = false :=
    decide_eq_false (Nat.not_le.2 room)
  unfold putWord
  dsimp only
  rw [full]
  rfl

theorem putWord_full {c : Nat} {first : Bool} {s : State} (w : MbxWord) {last : MbxWord}
    (most : 16 ≤ (if first then (getChan s c).q0 else (getChan s c).q1).length)
    (newest : (if first then (getChan s c).q0 else (getChan s c).q1).getLast? = some last) : putWord c first w s =
      let x := getChan s c
      let q := if first then x.q0 else x.q1
      let y := if first then { x with q0 := q.dropLast ++ [w] } else { x with q1 := q.dropLast ++ [w] }
      ringBell w.dst c (bump (.collisions c) 1 (setChan c { y with
        txCol := flagSet (flagSet x.txCol w.src) last.src, rxCol := (queueTo c first x).foldl flagSet x.rxCol } s)) := by
  have full : decide (16 ≤ (if first then (getChan s c).q0 else (getChan s c).q1).length) = true := decide_eq_true most
  unfold putWord
  dsimp only
  rw [full, newest]
  cases first <;> rfl

/-! ## Words read (R363, R364) -/

section
variable {m : BitVec 8} {c : Nat} {s : State}

/-- The queue toward a master of a bound channel. -/
def boundQueue (m : BitVec 8) (x : Chan) : List MbxWord := if x.a = m then x.q0 else x.q1

/-- The channel without its oldest word. -/
def boundPopped (m : BitVec 8) (x : Chan) : Chan := if x.a = m then { x with q0 := x.q0.tail } else { x with q1 := x.q1.tail }

theorem rxQueue_bound (bound : 4 ≤ c) : rxQueue s m c = boundQueue m (getChan s c) := by
  simp [rxQueue, boundQueue, bound]

theorem rxPop_bound (bound : 4 ≤ c) : rxPop m c s = setChan c (boundPopped m (getChan s c)) s := by
  simp [rxPop, modChan, boundPopped, bound]

section
variable (bound : 4 ≤ c) (usable : chUsable s m c = true)
  (on : isOff s (if (getChan s c).a = m then (getChan s c).b else (getChan s c).a) = false)
include bound usable on

theorem mbxRx_whole : mbxRx m c true s =
    { setChan c (boundPopped m (getChan s c)) s with bus := .value m (BitVec.ofNat 64 (rxValue s m c)) } := by
  refine (chanAccess_bound bound usable on).trans ?_
  dsimp only
  rw [if_pos rfl, rxPop_bound bound]
  rfl

theorem mbxRx_lower : mbxRx m c false s =
    let y := boundPopped m (getChan s c)
    { setChan c { y with latch := y.latch.filter (·.1 != m) ++ [(m, BitVec.ofNat 32 (rxValue s m c >>> 32))] } s with
      bus := .value m (BitVec.ofNat 64 (rxValue s m c % 2 ^ 32)) } := by
  refine (chanAccess_bound bound usable on).trans ?_
  dsimp only
  rw [if_neg Bool.false_ne_true, rxPop_bound bound, modChan, getChan_setChan, setChan_setChan]
  rfl

theorem mbxRxUpper_latched {h : BitVec 32} (latched : ((getChan s c).latch.find? (·.1 == m)).map (·.2) = some h) :
    mbxRxUpper m c s = { setChan c { getChan s c with latch := (getChan s c).latch.filter (·.1 != m) } s with
      bus := .value m (h.setWidth 64) } := by
  have value : (((getChan s c).latch.find? (·.1 == m)).map (·.2.toNat)).getD 0 = h.toNat := by
    obtain ⟨e, found, rfl⟩ := Option.map_eq_some_iff.1 latched
    rw [found]
    rfl
  have wide : BitVec.ofNat 64 h.toNat = h.setWidth 64 := BitVec.ofNat_toNat 64 h
  refine (chanAccess_bound bound usable on).trans ?_
  dsimp only
  rw [value, wide]
  rfl

/-! ## The lock and COMPAT (R367, R368) -/

theorem mbxLock_takes (compat : (getChan s c).compat = true) (free : (getChan s c).lock = 0 ∨ (getChan s c).lock = m) :
    mbxLock m c s = { setChan c { getChan s c with lock := m } s with bus := .value m 0 } := by
  refine (chanAccess_bound bound usable on).trans ((if_neg (by simp [compat])).trans (if_pos ?_))
  rcases free with h | h <;> simp [h]

theorem mbxLock_held (compat : (getChan s c).compat = true) (held : (getChan s c).lock ≠ 0) (other : (getChan s c).lock ≠ m) :
    mbxLock m c s = { s with bus := .value m ((getChan s c).lock.setWidth 64) } := by
  refine (chanAccess_bound bound usable on).trans ((if_neg (by simp [compat])).trans (if_neg ?_))
  rw [Bool.or_eq_true, beq_iff_eq, beq_iff_eq]
  exact fun h => h.elim held other

theorem mbxUnlock_holder (holder : (getChan s c).lock = m) : mbxUnlock m c s = setChan c { getChan s c with lock := 0 } s :=
  (chanAccess_bound bound usable on).trans (if_pos (by simp [holder]))

theorem mbxCtrl_bound (v : BitVec 32) : mbxCtrl m c v s = setChan c { getChan s c with
    compat := v.getLsbD 0, lock := if v.getLsbD 0 then (getChan s c).lock else 0 } s := by
  refine (chanAccess_bound bound usable on).trans ((if_neg (Nat.not_lt.2 bound)).trans ?_)
  rw [nbit_testBit, BitVec.testBit_toNat]

end
end

/-! ## Domains (R371) -/

section
variable {m : BitVec 8} {s : State}

theorem execDomainOff_goes (on : s.power.on = true) (known : m ∈ masters) (free : domainByState s m ≠ some false) :
    exec (.domainOff m) s = .next (goOff m s) := by
  refine congrArg Host.Outcome.next (if_pos ?_)
  rw [on, List.contains_iff_mem.2 known]
  cases h : domainByState s m with
  | none => rfl
  | some b =>
    cases b
    · exact absurd h free
    · rfl

/-- A domain that comes back rings the other masters of its channels (R371). -/
theorem goOn_of_off (off : isOff s m = true) : goOn m s =
    (upto 4 60).foldl (fun s c =>
      if chBinds s c && ((getChan s c).a == m || (getChan s c).b == m) then ringBell (chOther (getChan s c) m) c s else s)
      { s with mbx := { s.mbx with off := s.mbx.off.filter (· != m) } } :=
  if_neg (by rw [off]; decide)

theorem execDomainOn_comes (on : s.power.on = true) (known : m ∈ masters) (free : domainByState s m ≠ some true) :
    exec (.domainOn m) s = .next (if m = mCore0 then plyNotices (goOn m s) else goOn m s) := by
  refine congrArg Host.Outcome.next ((if_pos ?_).trans ?_)
  · rw [on, List.contains_iff_mem.2 known]
    cases h : domainByState s m with
    | none => rfl
    | some b =>
      cases b
      · rfl
      · exact absurd h free
  · simp only [beq_iff_eq]

end

/-- Settles O37: an access by who reaches its channel, then by what it does there. -/
theorem mailboxesComplete : Obligations.MailboxesComplete := by
  intro s m may cross
  refine ⟨fun reaches => ?_, fun c first w => ⟨fun room => ?room, fun last most newest => ?full⟩,
    fun on known => ⟨fun free => execDomainOff_goes on known free, fun free off => ?on⟩⟩
  case room => exact putWord_room w room
  case full => exact putWord_full w most newest
  case on =>
    refine (execDomainOn_comes on known free).trans ?_
    rw [goOn_of_off off]
    rfl
  have acts (f : State → State) : (Host.Outcome.next (mbxAccess m f s) : Result) = .next (f s) :=
    congrArg _ (mbxAccess_of_may reaches)
  refine ⟨?bound, fun ch w => ⟨fun low usable other on => ?owner, fun low usable owner on known other there => ?named,
    fun unusable => ⟨?txUnused, ?rxUnused⟩⟩, fun v => ?mask⟩
  case owner => exact (acts _).trans (congrArg _ (mbxTx_toOwner w low usable other on))
  case named => exact (acts _).trans (congrArg _ (mbxTx_fromOwner w low usable owner on known other there))
  case txUnused => exact (acts _).trans (congrArg _ (chanAccess_unusable unusable))
  case rxUnused => exact (acts _).trans (congrArg _ (chanAccess_unusable unusable))
  case mask =>
    refine (acts _).trans (congrArg _ ?_)
    unfold mbxMask
    simp only [beq_iff_eq]
  case bound =>
    intro ch c x o high usable on
    have tx (w : BitVec 32) := (acts (mbxTx m c w)).trans (congrArg _ (mbxTx_bound w high usable on))
    refine ⟨fun w => ⟨fun compat other => (tx w).trans (congrArg _ (if_pos ⟨compat, other⟩)), fun free elsewhere => ?_,
      fun free partner => ?_⟩, ⟨?whole, ?lower, fun h latched => ?upper⟩,
      fun compat => ⟨fun free => (acts _).trans (congrArg _ (mbxLock_takes high usable on compat free)),
        fun held other => (acts _).trans (congrArg _ (mbxLock_held high usable on compat held other))⟩,
      fun v holder => (acts _).trans (congrArg _ (mbxUnlock_holder high usable on holder)),
      fun v => (acts _).trans (congrArg _ (mbxCtrl_bound high usable on v))⟩
    · have allowed : ¬ (x.compat = true ∧ x.lock ≠ m) := fun h => free.elim (fun off => by simp [off] at h) h.2
      exact (tx w).trans (congrArg _ ((if_neg allowed).trans (if_neg elsewhere)))
    · have allowed : ¬ (x.compat = true ∧ x.lock ≠ m) := fun h => free.elim (fun off => by simp [off] at h) h.2
      exact (tx w).trans (congrArg _ ((if_neg allowed).trans (if_pos partner)))
    case upper => exact (acts _).trans (congrArg _ (mbxRxUpper_latched high usable on latched))
    case whole =>
      refine (acts _).trans (congrArg _ ((mbxRx_whole high usable on).trans ?_))
      rw [rxValue, rxQueue_bound high]
      rfl
    case lower =>
      refine (acts _).trans (congrArg _ ((mbxRx_lower high usable on).trans ?_))
      rw [rxValue, rxQueue_bound high]
      rfl

end Sys2Proof.Proofs

/-! PROOFS. Management messages: taken, carried out, answered, refused (R373 to R376). -/
namespace Sys2Proof.Proofs
open Sys2Proof Machine Safety Laws

/-! ## A message is taken (R373, R375, R376) -/

/-- The channel without the front message of a sender. -/
def msgGone (h : BitVec 8) (c : Nat) (src : BitVec 8) (pay : List (BitVec 32)) (s : State) : State :=
  setRxQueue h c (dropWords src (1 + pay.length)) s

/-- A handler of the module that runs takes requests of the channel, no collision flag stands for it, and a whole message of
the sender with no reply to its SEQ within 100 ms is at the front. -/
structure MsgWaits (h : BitVec 8) (c : Nat) (src : BitVec 8) (hd : BitVec 32) (pay : List (BitVec 32)) (s : State) : Prop where
  own : ownHandler s h = true
  handles : handlesOn s h c = true
  clean : h ∉ (getChan s c).rxCol
  front : frontMsg s h c src = some (hd, pay)
  new : answeredNow s h src (hdrSeq hd) = none

/-- The reply that ends a message: sent, and remembered. -/
def msgEnds (h : BitVec 8) (c : Nat) (src seq : BitVec 8) (l : List (BitVec 32)) (t : State) : State :=
  rememberReply h src seq l (sendReply h c src l t)

section
variable {h : BitVec 8} {c : Nat} {src : BitVec 8} {hd : BitVec 32} {pay : List (BitVec 32)} {s t : State}
  {types : Nat → Bool} {r : Nat} {ws : List (BitVec 32)}

/-- Nothing waits for room for its reply. -/
theorem finishRunning_of_none (idle : (s.mbx.running.filter fun x => x.handler == h && x.src == src) = []) :
    finishRunning h src s = s := by
  rw [finishRunning, idle]
  rfl

/-- What waits for room for its reply goes on waiting. -/
theorem finishRunning_of_full {x : Running} (one : (s.mbx.running.filter fun x => x.handler == h && x.src == src) = [x])
    (full : replyRoom s h x.ch src x.words.length = false) : finishRunning h src s = s := by
  rw [finishRunning, one]
  exact if_neg (by rw [full]; decide)

theorem message_taken (waits : MsgWaits h c src hd pay s) (still : finishRunning h src s = s)
    (named : types (hdrType hd) = true) : message types h c src s = .next (takeMsg h c src hd pay s) := by
  have whole : discardPartials h c s = s := if_pos (by simpa using waits.clean)
  unfold message
  rw [if_neg (by simp [waits.own, waits.handles])]
  dsimp only
  rw [still, whole, waits.front]
  exact congrArg Host.Outcome.next (if_pos named)

/-- A request with room for its reply is carried out, and its reply goes out; one that resets the module resets it then. -/
theorem takeMsg_replies (waits : MsgWaits h c src hd pay s)
    (idle : (s.mbx.running.filter fun x => x.handler == h && x.src == src) = [])
    (served : serveMsg h src hd pay (msgGone h c src pay s) = (r, ws, t)) (room : replyRoom s h c src (ws.length + 1) = true) :
    takeMsg h c src hd pay s =
      let l := msgHeader (hdrType hd % 128 + 128) ws.length (hdrSeq hd).toNat r :: ws
      if (r == rOk && (hdrType hd == 2 || hdrType hd == 8)) && hdrType hd == 8 then moduleReset (msgEnds h c src (hdrSeq hd) l t)
      else msgEnds h c src (hdrSeq hd) l t := by
  have none_ : (s.mbx.running.any fun x => x.handler == h && x.src == src) = false :=
    List.any_eq_false.2 (List.filter_eq_nil_iff.1 idle)
  rw [msgGone] at served
  unfold takeMsg
  dsimp only
  rw [waits.new, none_, served]
  exact if_pos room

/-- A SET_CAP without room for its reply acts, and runs until there is some. -/
theorem takeMsg_runs (waits : MsgWaits h c src hd pay s)
    (idle : (s.mbx.running.filter fun x => x.handler == h && x.src == src) = [])
    (served : serveMsg h src hd pay (msgGone h c src pay s) = (0, ws, t)) (setCap : hdrType hd = 2)
    (full : replyRoom s h c src (ws.length + 1) ≠ true) :
    takeMsg h c src hd pay s = { t with mbx := { t.mbx with running := t.mbx.running ++
      [{ handler := h, src := src, ch := c, seq := hdrSeq hd, resets := false
         words := msgHeader 130 ws.length (hdrSeq hd).toNat 0 :: ws }] } } := by
  have none_ : (s.mbx.running.any fun x => x.handler == h && x.src == src) = false :=
    List.any_eq_false.2 (List.filter_eq_nil_iff.1 idle)
  rw [msgGone] at served
  unfold takeMsg
  dsimp only
  rw [waits.new, none_, served, setCap]
  exact if_neg full

/-- While one of its sender's requests runs, a request is answered with BUSY. -/
theorem takeMsg_busy {x : Running} (waits : MsgWaits h c src hd pay s)
    (one : (s.mbx.running.filter fun x => x.handler == h && x.src == src) = [x]) (room : replyRoom s h c src 1 = true) :
    takeMsg h c src hd pay s = msgEnds h c src (hdrSeq hd)
      [msgHeader (hdrType hd % 128 + 128) 0 (hdrSeq hd).toNat 4] (msgGone h c src pay s) := by
  have some_ : (s.mbx.running.any fun x => x.handler == h && x.src == src) = true := by
    have mem : x ∈ s.mbx.running.filter fun x => x.handler == h && x.src == src := by simp [one]
    obtain ⟨found, same⟩ := List.mem_filter.1 mem
    exact List.any_eq_true.2 ⟨x, found, same⟩
  unfold takeMsg
  dsimp only
  rw [waits.new, some_]
  exact if_pos room

/-- A message of a type that this sender may send and that does not reset the module, with room for its reply. -/
theorem message_replies (waits : MsgWaits h c src hd pay s)
    (idle : (s.mbx.running.filter fun x => x.handler == h && x.src == src) = []) (named : types (hdrType hd) = true)
    (served : serveMsg h src hd pay (msgGone h c src pay s) = (r, ws, t)) (plain : r ≠ 0 ∨ hdrType hd ≠ 8)
    (room : replyRoom s h c src (ws.length + 1) = true) : message types h c src s =
      .next (msgEnds h c src (hdrSeq hd) (msgHeader (hdrType hd % 128 + 128) ws.length (hdrSeq hd).toNat r :: ws) t) := by
  refine (message_taken waits (finishRunning_of_none idle) named).trans (congrArg _ ((takeMsg_replies waits idle served room).trans
    (if_neg ?_)))
  rw [Bool.and_eq_true, Bool.and_eq_true, beq_iff_eq, beq_iff_eq]
  exact fun ⟨⟨ok, _⟩, eight⟩ => plain.elim (fun no => no ok) (fun no => no eight)

/-! ## What each request does (R374) -/

theorem serveMsg_unknown (none_ : msgRule h (hdrType hd) src = none) : serveMsg h src hd pay s = (1, [], s) := by
  rw [serveMsg, none_]
  rfl

theorem serveMsg_denied {n : Nat} (rule : msgRule h (hdrType hd) src = some (n, false)) :
    serveMsg h src hd pay s = (3, [], bump (.denied h.toNat) 1 s) := by
  rw [serveMsg, rule]
  rfl

theorem serveMsg_ping (type : hdrType hd = 1) (len : pay.length = 0) : serveMsg h src hd pay s = (0, [s.boot.fwVersion], s) := by
  rw [serveMsg, type, msgRule]
  exact (if_neg (by decide)).trans (if_neg (by simp [len]))

end

section
variable {src : BitVec 8} {hd : BitVec 32} {pay : List (BitVec 32)} {s : State}

theorem serveMsg_setCap (type : hdrType hd = 2) (len : pay.length = 1) (both : src = 0x01 ∨ src = 0x40) :
    serveMsg 0x10 src hd pay s =
      let w := min 0xFFFF (pay.headD 0).toNat
      let t := if src = 0x01 then writeCap w s else writeRackCap w s
      (0, [BitVec.ofNat 32 (t.power.inForce.toNat + 2 ^ 31 * b2n (clamped w))], t) := by
  have first : lgetD pay 0 0 = pay.headD 0 := by cases pay <;> rfl
  rw [serveMsg, type, ← first]
  rcases both with rfl | rfl <;> exact (if_neg (by decide)).trans (if_neg (by simp [len]))

theorem serveMsg_telemetry (type : hdrType hd = 3) (len : pay.length = 0) (both : src = 0x01 ∨ src = 0x40) :
    serveMsg 0x10 src hd pay s =
      let p := s.power
      (0, [BitVec.ofNat 32 p.watts.toNat, BitVec.ofNat 32 p.gauge.toNat, BitVec.ofNat 32 (p.gauge.toNat >>> 32),
         BitVec.ofNat 32 (p.junction.toNat + 2 ^ 16 * p.inlet.toNat), BitVec.ofNat 32 p.outlet.toNat,
         BitVec.ofNat 32 p.lag.toNat, BitVec.ofNat 32 (t3StateWord s)], s) := by
  rw [serveMsg, type]
  rcases both with rfl | rfl <;> exact (if_neg (by decide)).trans (if_neg (by simp [len]))

theorem serveMsg_rackId (type : hdrType hd = 4) (len : pay.length = 2) :
    serveMsg 0x10 0x40 hd pay s =
      let id := (lgetD pay 0 0).toNat + 2 ^ 32 * (lgetD pay 1 0).toNat
      (0, [], if s.links.rackId = BitVec.ofNat 64 id then s
        else rackIdChanged { s with links := { s.links with rackId := BitVec.ofNat 64 id } }) := by
  rw [serveMsg, type]
  refine (if_neg (by decide)).trans ((if_neg (by simp [len])).trans ?_)
  dsimp only
  simp only [beq_iff_eq]
  rfl

theorem serveMsg_reset (type : hdrType hd = 8) (len : pay.length = 1) (both : src = 0x01 ∨ src = 0x40)
    (word : pay.headD 0 = 0x52534554) : serveMsg 0x20 src hd pay s = (0, [], s) := by
  have first : lgetD pay 0 0 = pay.headD 0 := by cases pay <;> rfl
  rw [serveMsg, type]
  rcases both with rfl | rfl <;> exact
    (if_neg (by decide)).trans ((if_neg (by simp [len])).trans (if_pos (by rw [first, word]; rfl)))

theorem serveMsg_identity (type : hdrType hd = 9) (len : pay.length = 0) :
    serveMsg 0x20 src hd pay s =
      let hash := (sha512 identityPub).take 8
      let n := Config.serial.toNat
      (0, [BitVec.ofNat 32 n, BitVec.ofNat 32 (n >>> 32), BitVec.ofNat 32 (natOf (hash.take 4)),
        BitVec.ofNat 32 (natOf (hash.drop 4))], s) := by
  rw [serveMsg, type]
  exact (if_neg (by decide)).trans (if_neg (by simp [len]))

end

/-- Settles O38: each message is taken as every message is, and answered by what its type does. -/
theorem messagesComplete : Obligations.MessagesComplete := by
  intro s ch src hd pay c gone runs waits ready reply room fromBoth
  have stands {h : BitVec 8} {type len : Nat} (w : waits h type len) : MsgWaits h c src hd pay s :=
    ⟨w.1, w.2.1, w.2.2.1, w.2.2.2.1, w.2.2.2.2.2.2⟩
  have typed {h : BitVec 8} {type len : Nat} (w : waits h type len) : hdrType hd = type := w.2.2.2.2.1
  have sized {h : BitVec 8} {type len : Nat} (w : waits h type len) : pay.length = len := w.2.2.2.2.2.1
  have answers (types : Nat → Bool) {h : BitVec 8} {type len : Nat} {ws : List (BitVec 32)} {t : State} (w : waits h type len)
      (idle : runs h = []) (named : types type = true) (low : type < 8 ∨ type = 9)
      (served : serveMsg h src hd pay (gone h) = (0, ws, t)) (fits : room h ws.length) :
      message types h c src s = .next (reply h ws t) := by
    have code : hdrType hd % 128 + 128 = hd.toNat % 256 + 128 := by
      rw [typed w, w.2.2.2.2.1]
      omega
    have sent := message_replies (types := types) (stands w) idle (by rw [typed w]; exact named) served (.inr (by rw [typed w]; omega)) fits
    rw [code] at sent
    exact sent
  refine ⟨fun h ⟨w, idle⟩ fits => ?ping, fun h type ⟨w, idle⟩ unknown fits => ?unknown, fun ⟨w, idle⟩ both => ?setCap,
    fun h x w one full fits => ?busy, fun ⟨w, idle⟩ both fits => ?telemetry, fun ⟨w, idle⟩ rack fits => ?rackId,
    fun ⟨w, idle⟩ both fits word => ?reset, fun ⟨w, idle⟩ fits => ?identity, fun ms on booted here => ?drain,
    fun ⟨w, idle⟩ notHost notRack fits => ?denied⟩
  case ping => exact answers (fun t => t == 1 || (msgRule h t src).isNone) w idle rfl (by decide) (serveMsg_ping (typed w) (sized w)) fits
  case telemetry => exact answers (· == 3) w idle rfl (by decide) (serveMsg_telemetry (typed w) (sized w) both) fits
  case rackId =>
    obtain rfl := rack
    exact answers (· == 4) w idle rfl (by decide) (serveMsg_rackId (typed w) (sized w)) fits
  case identity => exact answers (· == 9) w idle rfl (by decide) (serveMsg_identity (typed w) (sized w)) fits
  case setCap =>
    have served := serveMsg_setCap (s := gone 0x10) (typed w) (sized w) both
    exact ⟨fun fits => answers (· == 2) w idle rfl (by decide) served fits, fun full =>
      (message_taken (types := (· == 2)) (stands w) (finishRunning_of_none idle) (by rw [typed w]; rfl)).trans
        (congrArg _ (takeMsg_runs (stands w) idle served (typed w) full))⟩
  case reset =>
    have sent := (message_taken (types := (· == 8)) (stands w) (finishRunning_of_none idle) (by rw [typed w]; rfl)).trans
      (congrArg _ (takeMsg_replies (stands w) idle (serveMsg_reset (typed w) (sized w) both word) fits))
    rw [typed w] at sent
    refine sent.trans ?_
    simp only [reply, w.2.2.2.2.1]
    rfl
  case unknown =>
    have rule : msgRule h (hdrType hd) src = none := by rw [typed w, unknown]
    have sent := message_replies (types := fun t => t == 1 || (msgRule h t src).isNone) (stands w) idle
      (by rw [rule]; simp) (serveMsg_unknown rule) (.inl (by decide)) fits
    rw [typed w] at sent
    exact sent
  case busy =>
    have sent := (message_taken (types := fun t => t == 1 || (msgRule h t src).isNone) (stands w)
      (finishRunning_of_full one full) (by rw [typed w]; rfl)).trans (congrArg _ (takeMsg_busy (stands w) one fits))
    rw [typed w] at sent
    exact sent
  case denied =>
    have rule : msgRule 0x10 (hdrType hd) src = some (1, false) := by
      rw [typed w]
      simp only [msgRule, mHost, mRack, beq_eq_false_iff_ne.2 notHost, beq_eq_false_iff_ne.2 notRack]
      rfl
    have sent := message_replies (types := (· == 2)) (stands w) idle (by rw [typed w]; rfl) (serveMsg_denied rule)
      (.inl (by decide)) fits
    rw [typed w] at sent
    exact sent
  case drain =>
    exact congrArg Host.Outcome.next ((if_neg (by decide)).trans
      (mbxAccess_of_may (.inr ⟨by decide, on, booted, by decide, here⟩)))

end Sys2Proof.Proofs

/-! PROOFS. The test access port and the management bus (R479 to R482, R496 to R498). -/
namespace Sys2Proof.Proofs
open Sys2Proof Machine Safety Laws

/-! ## Test access (R371, R479 to R482) -/

section
variable {s : State} {ir : BitVec 8} {dr : TapDr}

/-- Test access is on exactly under MBXACC with TRST# released. -/
theorem syncTap_eq (s : State) : syncTap s =
    if s.tap.ir = 0x20 ∧ s.tap.trst = false then goOn 0x50 s else if isOff s 0x50 then s else goOff 0x50 s := by
  simp only [syncTap, Bool.and_eq_true, beq_iff_eq, Bool.not_eq_true']
  rfl

/-- An instruction and its data register selected, and test access following. -/
def irLoaded (ir : BitVec 8) (dr : TapDr) (t : State) : State := syncTap { t with tap := { t.tap with ir := ir, dr := dr } }

theorem loadIr_of_released (on : s.power.on = true) (released : s.tap.trst = false) : loadIr ir dr s = irLoaded ir dr s :=
  if_neg (by simp [on, released])

theorem testOnly_of_released (drive : PinDrive) (on : s.power.on = true) (released : s.tap.trst = false) : testOnly ir dr drive s =
    if s.boot.testHold then { irLoaded ir dr s with tap := { (irLoaded ir dr s).tap with drive := drive } }
    else bump .testRefused 1 (irLoaded ir .bypass s) := by
  unfold testOnly
  rw [if_neg (by simp [on, released]), loadIr_of_released on released, loadIr_of_released on released]

/-! ## The management bus (R496, R497) -/

theorem busAnswers_iff : busAnswers s = true ↔ s.power.on = true ∧ s.boot.cores = true ∧ isOff s 0x40 = false := by
  simp only [busAnswers, Bool.and_eq_true, Bool.not_eq_true', and_assoc]
  rfl

section
variable {count size : BitVec 8} {off : BitVec 16} {data : BitVec 64}

theorem smbusBlockWrite_good (on : busAnswers s = true) (good : (count = 6 ∨ count = 10) ∧ off.toNat % (count.toNat - 2) = 0) :
    exec (.smbusBlockWrite count off data true) s =
      .next (winWrite 0x40 off.toNat (count.toNat - 2 == 8) (data.toNat % 256 ^ (count.toNat - 2)) s) := by
  obtain ⟨length, aligned⟩ := good
  refine congrArg Host.Outcome.next ((if_neg (by simp [on])).trans ((if_neg (by decide)).trans (if_neg ?_)))
  rcases length with rfl | rfl <;> simpa using aligned

theorem smbusBlockWrite_bad (on : busAnswers s = true)
    (bad : ¬ ((count = 6 ∨ count = 10) ∧ off.toNat % (count.toNat - 2) = 0)) :
    exec (.smbusBlockWrite count off data true) s = .next (bump .smbusErrors 1 s) := by
  refine congrArg Host.Outcome.next ((if_neg (by simp [on])).trans ((if_neg (by decide)).trans (if_pos ?_)))
  simpa [imp_iff_not_or] using bad

theorem smbusProcessCall_good (on : busAnswers s = true) (length : size.toNat = 4 ∨ size.toNat = 8)
    (aligned : off.toNat % size.toNat = 0) :
    exec (.smbusProcessCall 3 off size) s = .next (winRead 0x40 off.toNat (size.toNat == 8) s) := by
  refine congrArg Host.Outcome.next ((if_neg (by simp [on])).trans (if_neg ?_))
  rcases length with h | h <;> rw [h] at aligned ⊢ <;> simp [aligned]

theorem smbusProcessCall_bad (on : busAnswers s = true)
    (bad : ¬ (count = 3 ∧ (size.toNat = 4 ∨ size.toNat = 8) ∧ off.toNat % size.toNat = 0)) :
    exec (.smbusProcessCall count off size) s = .next { bump .smbusErrors 1 s with bus := .value 0x40 (BitVec.allOnes 64) } := by
  refine congrArg Host.Outcome.next ((if_neg (by simp [on])).trans (if_pos ?_))
  simpa [imp_iff_not_or, or_assoc] using bad

/-- No transaction is acknowledged before step 3 or while the rack controller's domain is off. -/
theorem smbus_unanswered (off_ : ¬ busAnswers s = true) :
    exec (.smbusBlockWrite count off data true) s = .next { s with bus := .nack } ∧
      exec (.smbusProcessCall count off size) s = .next { s with bus := .nack } :=
  ⟨congrArg Host.Outcome.next (if_pos (by simp [off_])), congrArg Host.Outcome.next (if_pos (by simp [off_]))⟩

end

/-! ## ALERT# (R498) -/

theorem ne_zero_iff_exists_bit {w : Nat} (x : BitVec w) : x ≠ 0 ↔ ∃ i : Fin w, x.getLsbD i.val = true := by
  refine ⟨fun h => by_contra fun none_ => h (BitVec.eq_of_getLsbD_eq fun i hi => ?_), fun ⟨i, set⟩ zero => ?_⟩
  · simpa using fun set => none_ ⟨⟨i, hi⟩, set⟩
  · simp [zero] at set

theorem alertLow_iff : alertLow s = true ↔ s.power.on = true ∧ s.boot.cores = true ∧
    ∃ i : Fin 32, (dbBits s 0x40).getLsbD i.val = true ∧ (dbMask s 0x40).getLsbD i.val = false := by
  unfold alertLow
  rw [Bool.and_eq_true, Bool.and_eq_true, bne_iff_ne, ne_zero_iff_exists_bit, and_assoc]
  simp [mRack]

end

/-- Settles O39: an instruction by what it loads, a transaction by whether it is well formed. -/
theorem testAccessComplete : Obligations.TestAccessComplete := by
  intro s load drive
  have loads (ir : BitVec 8) (dr : TapDr) (t : State) : irLoaded ir dr t = load ir dr t := syncTap_eq _
  refine ⟨fun on released => ?_, fun on trst => ?reset, fun off data count size => ?_, alertLow_iff⟩
  case reset => exact congrArg Host.Outcome.next ((if_pos on).trans (loads 0x01 .idcode { s with tap := { s.tap with trst := trst } }))
  · have plain (ir : BitVec 8) (dr : TapDr) : loadIr ir dr s = load ir dr s := (loadIr_of_released on released).trans (loads ir dr s)
    have tested (ir : BitVec 8) (dr : TapDr) (d : PinDrive) : (Host.Outcome.next (testOnly ir dr d s) : Result) = drive ir dr d := by
      rw [testOnly_of_released d on released, loads, loads]
    refine ⟨congrArg _ (plain ..), congrArg _ (plain ..), fun code other => ?bypass, fun cells all => ?preload, tested .., tested ..,
      tested .., tested .., tested ..⟩
    case bypass => exact congrArg Host.Outcome.next ((if_neg (by simpa using other)).trans (plain ..))
    case preload =>
      refine congrArg Host.Outcome.next ((if_neg (by simp [on, released, all])).trans ?_)
      rw [plain]
  · intro answers
    have wire : answers ↔ busAnswers s = true := busAnswers_iff.symm
    refine ⟨fun on length aligned => ?write4, fun on length aligned => ?write8, fun on => ?check, fun on bad => ?badWrite,
      fun on length four aligned => ?read4, fun on length eight aligned at8 low => ?pop8,
      fun on length eight aligned other => ?read8, fun on bad => ?badRead, fun no => smbus_unanswered fun on => no (wire.2 on)⟩
    case write4 =>
      subst length
      have whole : data.toNat % 256 ^ 4 % 2 ^ 32 = data.toNat % 2 ^ 32 := Nat.mod_mod _ _
      refine (smbusBlockWrite_good (wire.1 on) ⟨.inl rfl, aligned⟩).trans (congrArg _ ?_)
      rw [← whole]
      rfl
    case write8 =>
      subst length
      have lo : data.toNat % 256 ^ 8 % 2 ^ 32 = data.toNat % 2 ^ 32 := by omega
      have hi : data.toNat % 256 ^ 8 / 2 ^ 32 = data.toNat / 2 ^ 32 := by
        have := data.isLt
        omega
      refine (smbusBlockWrite_good (wire.1 on) ⟨.inr rfl, aligned⟩).trans (congrArg _ ?_)
      rw [← lo, ← hi]
      rfl
    case check => exact congrArg Host.Outcome.next ((if_neg (by simp [wire.1 on])).trans (if_pos rfl))
    case badWrite =>
      refine smbusBlockWrite_bad (wire.1 on) fun ⟨length, aligned⟩ => ?_
      rcases length with rfl | rfl
      · exact bad.elim (fun h => h.1 rfl) fun h => h.elim (fun h => h.2 aligned) fun h => absurd h.1 (by decide)
      · exact bad.elim (fun h => h.2 rfl) fun h => h.elim (fun h => absurd h.1 (by decide)) fun h => h.2 aligned
    case badRead =>
      refine smbusProcessCall_bad (wire.1 on) fun ⟨command, length, aligned⟩ => ?_
      have known : size = 4 ∨ size = 8 := length.imp (fun h => BitVec.eq_of_toNat_eq h) fun h => BitVec.eq_of_toNat_eq h
      rcases known with rfl | rfl
      · rcases bad with h | h | h | h
        · exact h command
        · exact h.1 rfl
        · exact h.2 aligned
        · exact absurd h.1 (by decide)
      · rcases bad with h | h | h | h
        · exact h command
        · exact h.2 rfl
        · exact absurd h.1 (by decide)
        · exact h.2 aligned
    case read4 =>
      subst length four
      exact smbusProcessCall_good (wire.1 on) (.inl rfl) aligned
    case pop8 =>
      subst length eight
      exact (smbusProcessCall_good (wire.1 on) (.inr rfl) aligned).trans
        (congrArg _ ((if_neg (by decide)).trans (if_pos (by simp [low, at8]))))
    case read8 =>
      subst length eight
      refine (smbusProcessCall_good (wire.1 on) (.inr rfl) aligned).trans
        (congrArg _ ((if_neg (by decide)).trans (if_neg ?_)))
      rw [Bool.and_eq_true, decide_eq_true_iff, beq_iff_eq]
      exact fun ⟨low, at8⟩ => other.elim (fun h => h at8) fun h => Nat.not_le.2 low h

end Sys2Proof.Proofs

/-! PROOFS. The steps of start-up (R360, R462 to R473). -/
namespace Sys2Proof.Proofs
open Sys2Proof Machine Safety Laws

/-! ## What domains, bindings and retries leave of the boot state -/

theorem goOn_noticed (m : BitVec 8) (s : State) : Noticed s (goOn m s) := by
  unfold goOn
  split
  · exact .refl s
  · refine Noticed.trans (t := { s with mbx := { s.mbx with off := s.mbx.off.filter (· != m) } }) rfl
      (.foldl (fun t c => ?_) _ _)
    dsimp only
    split
    · exact ringBell_noticed _ c t
    · exact .refl t

theorem writeBindings_noticed (s : State) : Noticed s (writeBindings s) := by
  unfold writeBindings
  refine .foldl (fun t e => ?_) _ s
  rfl

theorem foldl_bump_noticed {α : Type} (c : α → Ctr) (l : List α) (s : State) :
    Noticed s (l.foldl (fun s x => bump (c x) 1 s) s) :=
  Noticed.foldl (f := fun s x => bump (c x) 1 s) (fun _ _ => rfl) l s

/-! ## The steps -/

section
variable {s : State}

theorem setRails_eq (n : Nat) (s : State) : setRails n s = { s with power := { s.power with
    coreMv := (List.range 16).map fun r => BitVec.ofNat 16 (coreMillivolts r n) } } := by
  rw [setRails, railMillivolts, List.map_map]
  rfl

theorem execRailSequenceDone_first (on : s.power.on = true) (first : s.boot.rails = false) :
    exec .railSequenceDone s = .next { s with
      boot := { s.boot with rails := true }
      power := { s.power with coreMv := (List.range 16).map fun r => BitVec.ofNat 16 (coreMillivolts r 32) } } :=
  congrArg Host.Outcome.next ((if_pos (by simp [on, first])).trans (setRails_eq 32 _))

theorem failStart_choice (c : Bool) (s : State) : failStart (if c then 2 else 1) s =
    { s with boot := { s.boot with failed := true, fail := if c then 2 else 1 } } := by
  cases c <;> rfl

/-- The bank of the bank-select record runs when it passes, then the other; else start-up stops (R464, R466). -/
theorem execBootVerifyDone_due (on : s.power.on = true) (rails : s.boot.rails = true) (first : s.boot.booted = false)
    (going : s.boot.failed = false) : exec .bootVerifyDone s = .next (
      let t := { s with host := { s.host with training := !s.host.perst } }
      if fwCheck s.nv (bankImg s.nv s.nv.select) = 0 then runBank s.nv.select false t
      else if fwCheck s.nv (bankImg s.nv (!s.nv.select)) = 0 then runBank (!s.nv.select) true t
      else { t with boot := { s.boot with
        failed := true
        fail := if (List.range 4).all fun k => (rootKey s.nv.revoked k).isNone then 2 else 1 } }) := by
  refine congrArg Host.Outcome.next ((if_neg (by simp [on, rails, first, going])).trans ?_)
  dsimp only
  rw [failStart_choice]

section
variable (on : s.power.on = true) (booted : s.boot.booted = true) (first : s.boot.cores = false) (going : s.boot.failed = false)
include on booted first going

theorem execCoreStartDone_cores (sram : Bool) (ga : BitVec 7) : exec (.coreStartDone false sram ga) s = .next (failStart 3 s) :=
  congrArg Host.Outcome.next ((if_neg (by simp [on, booted, first, going])).trans (if_pos rfl))

theorem execCoreStartDone_sram (ga : BitVec 7) : exec (.coreStartDone true false ga) s = .next (failStart 4 s) :=
  congrArg Host.Outcome.next ((if_neg (by simp [on, booted, first, going])).trans ((if_neg (by decide)).trans (if_pos rfl)))

/-- The cores' domains come on, the bindings and the position stand; outside test hold the mounts begin (R462, R471, R481). -/
theorem execCoreStartDone_good (ga : BitVec 7) : exec (.coreStartDone true true ga) s = .next (
    let up := ([0x10, 0x11, 0x12, 0x13] : List (BitVec 8)).foldl (fun s m => goOn m s) s
    let t := writeBindings { up with boot := { up.boot with cores := true, rackPos := geoPosition ga } }
    if s.boot.testHold then t else (List.range 4).foldl (fun s st => setT3State st 1 s) t) := by
  refine congrArg Host.Outcome.next ((if_neg (by simp [on, booted, first, going])).trans ((if_neg (by decide)).trans
    ((if_neg (by decide)).trans ?_)))
  generalize hup : ([0x10, 0x11, 0x12, 0x13] : List (BitVec 8)).foldl (fun s m => goOn m s) s = up
  have boot : up.boot = s.boot := hup ▸ (Noticed.foldl (fun t m => goOn_noticed m t) _ s).boot
  have bound := (writeBindings_noticed { up with boot := { up.boot with cores := true, rackPos := geoPosition ga } }).boot
  have hold : (writeBindings { up with boot := { up.boot with cores := true, rackPos := geoPosition ga } }).boot.testHold =
      s.boot.testHold := by
    rw [bound, ← boot]
  dsimp only
  rw [hold]

end

section
variable (on : s.power.on = true) (cores : s.boot.cores = true) (outside : s.boot.testHold = false) (going : s.boot.failed = false)
include on cores outside going

/-- The groups that failed every attempt so far are kept; the third attempt takes them out of service (R470). -/
theorem execDramTrainingDone_due (failed : BitVec 24) (due : s.boot.dramDone = false) :
    let bad := s.boot.dramBad &&& failed
    let retried := if s.boot.dramTries = 0 then s else
      (maskBits 24 s.boot.dramBad.toNat).foldl (fun s g => bump (.trainingRetries g) 1 s) s
    let last := bad == 0 || s.boot.dramTries == 2
    let out : BitVec 24 := if last then bad else 0
    let t := bump .groupsOut (maskBits 24 out.toNat).length { retried with boot := { s.boot with
      dramTries := s.boot.dramTries + 1, dramBad := bad, dramDone := last, groupsOut := out } }
    exec (.dramTrainingDone failed) s =
      .next (if out = 0xFFFFFF then healthNotice { t with boot := { t.boot with failed := true, fail := 5 } } else t) := by
  intro bad retried last out t
  have boot : retried.boot = s.boot := by
    by_cases begun : s.boot.dramTries = 0
    · rw [show retried = s from if_pos begun]
    · rw [show retried = _ from if_neg begun]
      exact (foldl_bump_noticed _ _ s).boot
  refine congrArg Host.Outcome.next ((if_neg (by simp [on, cores, outside, due, going])).trans ?_)
  dsimp only
  rw [show (if s.boot.dramTries = 0 then s else
    (maskBits 24 s.boot.dramBad.toNat).foldl (fun s g => bump (.trainingRetries g) 1 s) s) = retried from rfl, boot]
  simp only [beq_iff_eq]
  rfl

theorem execStartupSwatchDone_due (units : List (BitVec 9)) (clusters : List (BitVec 6)) (regions : List (BitVec 4))
    (hanks : List Nat) (due : s.boot.swatchDone = false) :
    let us := swatchUnits units clusters regions
    let t := us.foldl (fun s u => modUnit u (fun x => { x with marked := true }) s) s
    exec (.startupSwatchDone units clusters regions hanks) s = .next (bump .swatchFailures us.length { t with
      boot := { t.boot with swatchDone := true, t1Retired := (hanks.filter (· < 768)).foldl insNat [] } }) :=
  congrArg Host.Outcome.next (if_neg (by simp [on, cores, outside, due, going]))

end

/-! ## HEALTH (R374) -/

/-- HEALTH: two words in the rack controller's channel, its SEQ a free value. -/
theorem healthNotice_eq (here : isOff s 0x10 = false) (there : isOff s 0x40 = false) :
    let t3 := (List.range 4).any fun st => (getStack s st).t3.st.toNat < 2 || (getStack s st).t3.st.toNat == 5
    let flags := b2n s.boot.ready + 2 * b2n s.boot.failed + 4 * b2n s.ply.takeoverDue + 8 * b2n t3
    let marked := (s.units.filter fun u => u.2.marked).length
    healthNotice s = putWords 2 true 0x10 0x40 [msgHeader 6 2 (Config.freeValue s.freeCtr % 256) 0, BitVec.ofNat 32 flags,
      BitVec.ofNat 32 marked] { s with freeCtr := s.freeCtr + 1 } := by
  have five (x : BitVec 4) : (x == 5) = (x.toNat == 5) := by
    rw [Bool.eq_iff_iff, beq_iff_eq, beq_iff_eq, ← BitVec.toNat_inj]
    rfl
  intro t3 flags marked
  unfold healthNotice
  rw [if_neg (by rw [mCore0, here]; decide)]
  simp only [five]
  exact if_neg (by rw [mRack, there]; decide)

end

/-- Settles O40: each step by its own equation. -/
theorem startUpComplete : Obligations.StartUpComplete := by
  intro s on
  refine ⟨execRailSequenceDone_first on, fun rails first going => ?boot, fun booted first going sram ga =>
      ⟨execCoreStartDone_cores on booted first going sram ga, execCoreStartDone_sram on booted first going ga,
        execCoreStartDone_good on booted first going ga⟩,
    fun cores outside going => ⟨execDramTrainingDone_due on cores outside going,
      execStartupSwatchDone_due on cores outside going⟩,
    fun begun outside first training free => ?pcie,
    fun k1 k2 pcie dram swatch going early free2 free1 => execReadySet_of_free on pcie dram swatch going early free2 free1,
    healthNotice_eq⟩
  case boot => exact execBootVerifyDone_due on rails first going
  case pcie =>
    refine congrArg Host.Outcome.next (if_pos ?_)
    rcases begun with h | h <;> simp [on, h, outside, first, training, free]

end Sys2Proof.Proofs

/-! PROOFS. Caps, the power loop, measurements and sensors (R440 to R457). -/
namespace Sys2Proof.Proofs
open Sys2Proof Machine Safety Laws

/-! ## Caps and limits (R440 to R446) -/

theorem normCap_eq (w : Nat) : normCap w = if w = 0 ∨ 3600 < w then 3600 else if w < 900 then 900 else w := by
  simp only [normCap, Bool.or_eq_true, decide_eq_true_eq]

theorem clamped_iff (w : Nat) : clamped w = true ↔ 1 ≤ w ∧ w ≤ 899 := by
  simp only [clamped, Bool.and_eq_true, decide_eq_true_eq]

/-- A fall of the limit by more than 10 % below the estimate engages the emergency ceiling (R446). -/
theorem limitMoved_eq (old : Nat) (s : State) :
    let t := refreshInput s
    let new := powerLimit t
    limitMoved old s = if new < old ∧ 10 * new < 9 * t.power.estimate then
      bump .emergencies 1 { t with power := { t.power with ceil := BitVec.ofNat 7 (ceilFor t t.power.n.toNat new) } } else t := by
  simp only [limitMoved, Bool.and_eq_true, decide_eq_true_eq]

/-- A requested cap of 16 bits: the cap in force follows, and a clamped one is an event (R440, R441). -/
theorem writeCap_eq {w : Nat} (fits : w < 65536) (s : State) :
    let t := { s with power := { s.power with
      cap := BitVec.ofNat 16 w, inForce := BitVec.ofNat 16 (min (normCap w) (normCap s.power.rackCap.toNat)) } }
    writeCap w s = limitMoved (powerLimit s) (if 1 ≤ w ∧ w ≤ 899 then
      raiseCause 5 (bump .capClamps 1 { t with power := { t.power with event := t.power.event ||| 1 } }) else t) := by
  intro t
  have kept : (BitVec.ofNat 16 w).toNat = w := (BitVec.toNat_ofNat w 16).trans (Nat.mod_eq_of_lt fits)
  have cap : refreshCap { s with power := { s.power with cap := BitVec.ofNat 16 w } } = t := by
    simp only [refreshCap, kept, t]
  rw [writeCap, cap, Nat.mod_eq_of_lt fits, clampEvent]
  simp only [clamped_iff]

/-! ## The loop (R442, R445, R447, R454) -/

/-- The estimate as the sum of what activity gives, the leakage, and the trim. -/
theorem estAt_eq (s : State) (n l : Nat) : estAt s n l =
    (((Config.powerEstimate s.power.activity n l : Nat) : Int) +
      Config.leakage ((List.range 16).map fun r => coreMillivolts r n) s.power.sensors + s.power.trim).toNat := by
  rw [estAt, Nat.cast_add, railMillivolts]

/-- What a tick leaves of `t`: the operating point `n`, the rails for it once they are up, the ceiling `c`, and the lag, which is
an event at a second tick in a row (R437, R445, R447). -/
def ticked (lag n c : Nat) (t : State) : State :=
  let k := if lag = 0 then 0 else t.power.lagTicks + 1
  let u := { t with power := { t.power with
    n := BitVec.ofNat 7 n, ceil := BitVec.ofNat 7 c, lag := BitVec.ofNat 16 lag, lagTicks := k
    coreMv := if t.boot.rails then (List.range 16).map fun r => BitVec.ofNat 16 (coreMillivolts r n) else t.power.coreMv } }
  if k = 2 then raiseCause 5 (bump .lagEvents 1 { u with power := { u.power with event := u.power.event ||| 2 } }) else u

theorem lagTick_ticked (lag n c : Nat) (t : State) :
    (let u := if t.boot.rails then setRails n t else t
     lagTick lag { u with power := { u.power with n := BitVec.ofNat 7 n, ceil := BitVec.ofNat 7 c } }) = ticked lag n c t := by
  cases up : t.boot.rails with
  | false =>
    rw [ticked, up]
    rfl
  | true =>
    rw [ticked, up, if_pos rfl, if_pos rfl, setRails_eq]
    rfl

/-- The end of a loop tick: the rails change nothing of the estimate. -/
theorem loopEnd_eq (n c : Nat) (t : State) :
    (let u := if t.boot.rails then setRails n t else t
     lagTick (estAt u n 64 - u.power.inForce.toNat)
      { u with power := { u.power with n := BitVec.ofNat 7 n, ceil := BitVec.ofNat 7 c } }) =
    ticked (estAt t n 64 - t.power.inForce.toNat) n c t := by
  rw [← lagTick_ticked]
  cases t.boot.rails <;> rfl

theorem execPowerLoopTick_on {s : State} (on : s.power.on = true) (grid : s.now.toNat % 50 = 0) :
    let t := refreshInput (thermalTick { s with power := { s.power with
      trim := Config.powerTrim s.power.trim s.power.estimate s.power.watts.toNat } })
    let limit := powerLimit t
    let n := stepN t (highest (fun n => estAt t n 64 ≤ limit) 32 32)
    let c := if estAt t n 64 ≤ limit then 64 else ceilFor t n limit
    exec .powerLoopTick s = .next (ticked (estAt t n 64 - t.power.inForce.toNat) n c t) := by
  intro t limit n c
  refine congrArg Host.Outcome.next ((if_neg ?_).trans (loopEnd_eq n c t))
  have grid : s.us % 50 = 0 := grid
  simp [on, grid]

theorem execPowerLoopTick_off {s : State} (between : s.now.toNat % 50 ≠ 0) : exec .powerLoopTick s = .next s := by
  have between : s.us % 50 ≠ 0 := between
  exact congrArg Host.Outcome.next (if_pos (by simp [between]))

theorem coreMillivolts_range (r n : Nat) : 550 ≤ coreMillivolts r n ∧ coreMillivolts r n ≤ 850 := by
  unfold coreMillivolts
  omega

/-! ## Sensors (R451) -/

/-- The hottest of some readings is one of them, and none is higher. -/
theorem hottest_max : ∀ l : List (BitVec 16), l ≠ [] → hottest l ∈ l ∧ ∀ c ∈ l, c.toInt ≤ (hottest l).toInt
  | [], some_ => absurd rfl some_
  | [t], _ => by simp [hottest]
  | t :: u :: l, _ => by
    obtain ⟨mem, max⟩ := hottest_max (u :: l) (by simp)
    have first : hottest (t :: u :: l) = if (hottest (u :: l)).toInt < t.toInt then t else hottest (u :: l) := rfl
    rw [first]
    by_cases above : (hottest (u :: l)).toInt < t.toInt
    · rw [if_pos above]
      refine ⟨List.mem_cons_self, fun c hc => ?_⟩
      rcases List.mem_cons.1 hc with rfl | hc
      · exact le_refl _
      · exact le_of_lt (lt_of_le_of_lt (max c hc) above)
    · rw [if_neg above]
      refine ⟨List.mem_cons_of_mem _ mem, fun c hc => ?_⟩
      rcases List.mem_cons.1 hc with rfl | hc
      · exact not_lt.1 above
      · exact max c hc

/-- Settles O44: the caps, the loop and each sample by its own equation. -/
theorem powerLoopCompletes : Obligations.PowerLoopCompletes := by
  intro s
  refine ⟨fun live v => ?cap, fun old => limitMoved_eq old s, fun on => ⟨fun a => ?estimate, execPowerLoopTick_on on,
    execPowerLoopTick_off, fun mv w uj => ?gauge, fun l => ⟨?junction, hottest_max l⟩, fun i o f => ?coolant,
    fun i n => ⟨fun island => ?droop, fun none_ => ?noIsland⟩⟩, coreMillivolts_range, fun hot => ?hot, fun cool => ?cool,
    fun warm below => ?warm⟩
  case cap =>
    have fits : v.toNat % 65536 < 65536 := Nat.mod_lt _ (by decide)
    have served : barAccess true false 0x6000 4 (writeCap (v.toNat % 65536)) s = writeCap (v.toNat % 65536) s :=
      barAccess_served live (.inl rfl) rfl
    have written := writeCap_eq fits s
    simp only [normCap_eq] at written
    exact congrArg Host.Outcome.next (served.trans written)
  case estimate =>
    refine congrArg Host.Outcome.next ((if_neg (by simp [on])).trans ?_)
    dsimp only
    rw [estAt_eq]
  case gauge => exact congrArg Host.Outcome.next (if_neg (by simp [on]))
  case junction => exact congrArg Host.Outcome.next (if_pos on)
  case coolant => exact congrArg Host.Outcome.next (if_neg (by simp [on]))
  case droop => exact congrArg Host.Outcome.next (if_pos (by simp [on, island]))
  case noIsland => exact congrArg Host.Outcome.next (if_neg (by simp [none_]))
  case hot => exact if_pos hot
  case cool => exact (if_neg (by omega)).trans (if_pos cool)
  case warm => exact (if_neg (by omega)).trans (if_neg (by omega))

end Sys2Proof.Proofs

/-! PROOFS. The training of a port, its sessions, and the loss of a port (R379 to R392, R398). -/
namespace Sys2Proof.Proofs
open Sys2Proof Machine Safety Laws

/-! ## Changes of a port -/

section
variable {p : Nat} {s : State} {f g : Port → Port}

/-- A change of a port is what it makes of the port as it is. -/
theorem changePort_congr (h : f (getPort s p) = g (getPort s p)) : changePort p f s = changePort p g s := by
  simp only [changePort, h]

theorem modPort_congr (h : f (getPort s p) = g (getPort s p)) : modPort p f s = modPort p g s := by
  simp only [modPort, h]

end

/-! ## A port goes DOWN (R380, R387, R392, R421) -/

section
variable {p : Nat} {s : State}

/-- A port that a training step leaves DOWN with a reason, to start again at a time. -/
def trainingFailed (reason : BitVec 4) (retry : Nat) (x : Port) : Port :=
  { x with
    st := .down, reason := reason, degraded := false, version := 0, seenHello := false, sentSeen := false, gotSeen := false
    retryAt := some retry, resendq := [] }

/-- A training step that fails leaves the port's last session as it was. -/
theorem trainFail_of_training (training : (getPort s p).st ≠ .up) (reason : Nat) : trainFail p reason s =
    changePort p (trainingFailed (BitVec.ofNat 4 reason) (s.now.toNat + 1000000)) s := by
  have other : ((getPort s p).st == .up) = false := beq_eq_false_iff_ne.2 training
  unfold trainFail portDown
  dsimp only
  rw [other, if_pos (by rw [bne, other]; rfl)]
  exact changePort_congr rfl

/-- A port that leaves UP with a reason. -/
theorem portDown_of_up (up : (getPort s p).st = .up) (reason : Nat) :
    let low := bump (.retrains p) 1 (changePort p (fun x => { x with
      st := .down, reason := BitVec.ofNat 4 reason, degraded := false, version := 0, seenHello := false, sentSeen := false
      gotSeen := false, retryAt := none, resendq := [], leftUp := some s.now.toNat, prev := x.cur }) s)
    let shut := modPort p (fun x => { x with
      send := tmap x.send fun ch c => if ch = 64 then c else { c with open_ := false } }) low
    let t := rerouteFetches p ((portPanels shut p).foldl (fun s q => faultPanel q 0x40 (closeChannels q s)) shut)
    portDown p reason none s = if p = 15 then syncPartner t else t := by
  have was : ((getPort s p).st == .up) = true := beq_iff_eq.2 up
  unfold portDown
  dsimp only
  rw [was, if_neg (by rw [bne, was]; decide)]
  rfl

end

/-! ## Training (R379, R380) -/

section
variable {s : State} {port : Fin 18}

section
variable (on : s.power.on = true) (cores : s.boot.cores = true) (enabled : s.links.enable.getLsbD port.val = true)
  (down : (getPort s port.val).st = .down)
include on cores enabled down

theorem portEnabled_of_bit : portEnabled s port.val = true := by
  rw [portEnabled, nbit_testBit, BitVec.testBit_toNat, enabled]

theorem execSignalDetect_due (idle : (getPort s port.val).retryAt = none) : exec (.signalDetect port) s = .next (
    if s.boot.rackPos = 0xFF ∧ port.val < 16 then changePort port.val (fun x => { x with reason := 7 }) s
    else beginTraining port.val s) := by
  have may := portEnabled_of_bit on cores enabled down
  refine congrArg Host.Outcome.next ((if_neg (by simp [linksOn, on, cores, may, down, idle])).trans ?_)
  simp only [Bool.and_eq_true, beq_iff_eq, decide_eq_true_eq]

theorem execTrainingRetry_due {t : Nat} (waits : (getPort s port.val).retryAt = some t) (due : t ≤ s.now.toNat) :
    exec (.trainingRetry port) s = .next (beginTraining port.val s) := by
  have may := portEnabled_of_bit on cores enabled down
  have due : t ≤ s.us := due
  exact congrArg Host.Outcome.next (if_pos (by simp [linksOn, on, cores, may, down, waits, due]))

end

theorem execEqualisationDone_electrical (training : (getPort s port.val).st = .electrical) (f : BitVec 4) :
    exec (.equalisationDone port f) s = .next (
      if f.toNat = 0 then changePort port.val (fun x => { x with st := .align, degraded := false }) s
      else if f.toNat % 4 = 0 ∨ f.toNat / 4 = 0 then changePort port.val (fun x => { x with st := .align, degraded := true }) s
      else changePort port.val (trainingFailed 2 (s.now.toNat + 1000000)) s) := by
  refine congrArg Host.Outcome.next ((if_neg (by simp [training])).trans ?_)
  rw [trainFail_of_training (by rw [training]; decide)]
  simp only [Bool.or_eq_true, decide_eq_true_eq]
  rfl

/-- A training state past its limit fails. -/
theorem execTrainingTimeout_due (due : (getPort s port.val).since + trainLimit (getPort s port.val).st ≤ s.now.toNat) :
    exec (.trainingTimeout port) s = .next (match (getPort s port.val).st with
      | .electrical => trainFail port.val 2 s
      | .align => trainFail port.val 3 s
      | .hello => trainFail port.val (4 + Config.freeValue s.freeCtr % 5) { s with freeCtr := s.freeCtr + 1 }
      | _ => s) := by
  have due : ¬ s.us < (getPort s port.val).since + trainLimit (getPort s port.val).st := Nat.not_lt.2 due
  exact congrArg Host.Outcome.next ((if_neg due).trans rfl)

/-! ## Hellos (R381 to R383, R387) -/

section
variable {p : Nat}

theorem endHello_of_waiting (waits : (getPort s p).sentSeen = false ∨ (getPort s p).gotSeen = false) : endHello p s = s :=
  if_neg (by rcases waits with h | h <;> simp [h])

theorem endHello_of_both (hello : (getPort s p).st = .hello) (sent : (getPort s p).sentSeen = true)
    (got : (getPort s p).gotSeen = true) : endHello p s = portUp p s :=
  if_pos (by simp [hello, sent, got])

end

/-- The port with the peer that a hello names. -/
def helloKnown (p : Nat) (f : Flit) (s : State) : State := modPort p (fun x => { x with
  peer := BitVec.ofNat 8 (helloPeer f)
  peerPort := if helloFld f 2 1 = 5 then 0x1F else BitVec.ofNat 5 (helloFld f 3 1) }) s

/-- The port with what an accepted hello says, `again` when it is the one heard before. -/
def helloTaken (p : Nat) (f : Flit) (again : Bool) (s : State) : State := modPort p (fun x => { x with
  cur := some (BitVec.ofNat 64 (helloFld f 0x10 8), BitVec.ofNat 8 (helloFld f 3 1)), seenHello := true
  sentSeen := x.sentSeen && again, gotSeen := (x.gotSeen && again) || nbit (helloFld f 5 1) 0
  peerResume := nbit (helloFld f 5 1) 1, peerLast := BitVec.ofNat 16 (helloFld f 6 2) }) s

theorem gotCodewords_lost (p : Nat) (s : State) {c : Fec} (lost : c.lost = true) :
    gotCodewords p c s = bump (.fecBad p) c.bad (bump (.fecCorrected p) c.corrected s) := if_pos lost

theorem gotCodewords_whole (p : Nat) (s : State) {c : Fec} (whole : c.lost = false) : gotCodewords p c s =
    modPort p (fun x => { x with lastGood := s.now.toNat }) (bump (.fecBad p) c.bad (bump (.fecCorrected p) c.corrected s)) :=
  if_neg (by simp [whole])

theorem getPort_gotCodewords (p : Nat) (c : Fec) (s : State) : getPort (gotCodewords p c s) p =
    if c.lost then getPort s p else { getPort s p with lastGood := s.us } := by
  unfold gotCodewords
  dsimp only
  split
  · rfl
  · exact tgetD_tset_self

theorem gotCodewords_now (p : Nat) (c : Fec) (s : State) : (gotCodewords p c s).now = s.now := by
  unfold gotCodewords
  dsimp only
  split <;> rfl

section
variable (hello : (getPort s port.val).st = .hello) {f : Flit} {c : Fec}
include hello

theorem execHello_lost (lost : c.lost = true) : exec (.hello port { flit := f, fec := c }) s = .next (gotCodewords port.val c s) :=
  congrArg Host.Outcome.next ((if_neg (by simp [hello])).trans (if_pos lost))

theorem execHello_malformed (whole : c.lost = false) (bad : helloOk f = false) :
    exec (.hello port { flit := f, fec := c }) s = .next (bump (.flitErrors port.val) 1 (gotCodewords port.val c s)) :=
  congrArg Host.Outcome.next ((if_neg (by simp [hello])).trans ((if_neg (by simp [whole])).trans (if_pos (by simp [bad]))))

theorem execHello_judged (whole : c.lost = false) (good : helloOk f = true) :
    let x := getPort s port.val
    let known := helloKnown port.val f (gotCodewords port.val c s)
    let id := some (BitVec.ofNat 64 (helloFld f 0x10 8), BitVec.ofNat 8 (helloFld f 3 1))
    exec (.hello port { flit := f, fec := c }) s = .next (
      if helloReason known port.val f = 0 then endHello port.val (helloTaken port.val f (x.seenHello && x.cur == id) known)
      else changePort port.val (trainingFailed (BitVec.ofNat 4 (helloReason known port.val f)) (s.now.toNat + 1000000)) known) := by
  intro x known id
  have heard : getPort (gotCodewords port.val c s) port.val = { x with lastGood := s.us } := by
    rw [getPort_gotCodewords, whole]
    rfl
  have port_ : getPort known port.val = { x with
      lastGood := s.us, peer := BitVec.ofNat 8 (helloPeer f)
      peerPort := if helloFld f 2 1 = 5 then 0x1F else BitVec.ofNat 5 (helloFld f 3 1) } := by
    rw [show known = setPort port.val _ _ from rfl, getPort_setPort, heard]
  have time : known.now = s.now := gotCodewords_now port.val c s
  have training : (getPort known port.val).st ≠ .up := by
    rw [port_]
    exact fun up => absurd (hello.symm.trans up) (by decide)
  have seen : (getPort known port.val).seenHello = x.seenHello := by rw [port_]
  have cur : (getPort known port.val).cur = x.cur := by rw [port_]
  refine congrArg Host.Outcome.next ((if_neg (by simp [hello])).trans ((if_neg (by simp [whole])).trans ((if_neg (by simp [good])).trans ?_)))
  change (match helloReason known port.val f with
    | 0 => endHello port.val (modPort port.val _ known)
    | no => trainFail port.val no known) = _
  cases reason : helloReason known port.val f with
  | zero =>
    refine congrArg (endHello port.val) (modPort_congr ?_)
    dsimp only
    rw [seen, cur]
  | succ n =>
    rw [if_neg (Nat.succ_ne_zero n), ← time]
    exact trainFail_of_training training (n + 1)

end
end

/-! ## A port that is UP (R387, R392) -/

section
variable {s : State} {port : Fin 18} (up : (getPort s port.val).st = .up)
include up

theorem execSignalLoss_up : exec (.signalLoss port) s = .next (portDown port.val 1 none s) :=
  congrArg Host.Outcome.next (if_pos (by simp [up]))

theorem execLinkSilenceTimeout_resends (most : ∃ e ∈ (getPort s port.val).replay, 16 ≤ e.2.2) :
    exec (.linkSilenceTimeout port) s = .next (portDown port.val 9 none s) :=
  congrArg Host.Outcome.next ((if_neg (by simp [up])).trans (if_pos (by simpa using most)))

theorem execLinkSilenceTimeout_silent (fewer : ∀ e ∈ (getPort s port.val).replay, e.2.2 < 16)
    (silent : (getPort s port.val).lastGood + 10000 ≤ s.now.toNat) : exec (.linkSilenceTimeout port) s =
      .next (portDown port.val (Config.freeValue s.freeCtr % 11) none { s with freeCtr := s.freeCtr + 1 }) := by
  have silent : (getPort s port.val).lastGood + 10000 ≤ s.us := silent
  exact congrArg Host.Outcome.next ((if_neg (by simp [up])).trans ((if_neg (by simpa using fewer)).trans (if_pos silent)))

end

/-- A write of LNK_CTRL: bits cleared take their ports DOWN, bits set let theirs train (R398). -/
theorem lnkCtrl_eq (v : BitVec 32) (s : State) : lnkCtrl v s = (List.range 18).foldl (fun t q =>
    if s.links.enable.getLsbD q && !v.getLsbD q then portDown q 10 none t
    else if !s.links.enable.getLsbD q && v.getLsbD q then modPort q (fun x => { x with retryAt := none }) t
    else t) { s with links := { s.links with enable := v.setWidth 18 } } := by
  have enable : BitVec.ofNat 18 (v.toNat % 2 ^ 18) = v.setWidth 18 := BitVec.eq_of_toNat_eq (by simp)
  unfold lnkCtrl
  dsimp only
  rw [enable]
  refine List.foldl_ext _ _ _ fun t q hq => ?_
  have new : nbit (v.toNat % 2 ^ 18) q = v.getLsbD q := by
    rw [nbit_testBit, Nat.testBit_mod_two_pow, decide_eq_true (List.mem_range.1 hq), Bool.true_and, BitVec.testBit_toNat]
  rw [nbit_testBit, BitVec.testBit_toNat, new]

/-- Settles O45: each event of a port by its own equation; a hello by what it says of its peer. -/
theorem portTrainingCompletes : Obligations.PortTrainingCompletes := by
  intro s port p x failed begun
  refine ⟨fun on cores enabled down => ?start, fun electrical f => ?equal, fun align => congrArg Host.Outcome.next (if_pos (by simp [align, x, p])),
    ⟨fun electrical due => ?late2, fun align due => ?late3, fun hello due => ?lateHello⟩, fun hello => ?hello, fun up => ?up,
    fun live v => ?control⟩
  case start =>
    refine ⟨fun idle known => ?_, fun idle even block => ?_, fun t waits due => execTrainingRetry_due on cores enabled down waits due⟩
    · refine (execSignalDetect_due on cores enabled down idle).trans (congrArg _ (if_neg fun h => ?_))
      exact known.elim (fun no => no h.1) fun high => Nat.not_le.2 h.2 high
    · exact (execSignalDetect_due on cores enabled down idle).trans (congrArg _ (if_pos ⟨even, block⟩))
  case equal =>
    intro aligned
    have done := execEqualisationDone_electrical electrical f
    refine ⟨fun none_ => ?_, fun some_ two => ?_, fun low high => ?_⟩
    · exact done.trans (congrArg _ (if_pos (by rw [none_]; rfl)))
    · exact done.trans (congrArg _ ((if_neg fun h => some_ (BitVec.eq_of_toNat_eq h)).trans (if_pos two)))
    · exact done.trans (congrArg _ ((if_neg fun h => low (by rw [h])).trans (if_neg fun h => h.elim low high)))
  case late2 =>
    refine (execTrainingTimeout_due (by rw [electrical]; exact due)).trans (congrArg _ ?_)
    rw [electrical]
    exact trainFail_of_training (by rw [electrical]; decide) 2
  case late3 =>
    refine (execTrainingTimeout_due (by rw [align]; exact due)).trans (congrArg _ ?_)
    rw [align]
    exact trainFail_of_training (by rw [align]; decide) 3
  case lateHello =>
    refine (execTrainingTimeout_due (by rw [hello]; exact due)).trans (congrArg _ ?_)
    rw [hello]
    exact trainFail_of_training (s := { s with freeCtr := s.freeCtr + 1 }) (fun up => absurd (hello.symm.trans up) (by decide)) _
  case hello =>
    refine ⟨congrArg Host.Outcome.next (if_neg (by simp [hello, x, p])), fun f c => ?_, endHello_of_waiting,
      fun sent got => endHello_of_both hello sent got⟩
    intro counted heard id known again reason
    refine ⟨fun lost => ?_, fun whole bad => ?_, fun whole good zero => ?_, fun whole good refused => ?_⟩
    · exact (execHello_lost hello lost).trans (congrArg _ (gotCodewords_lost p s lost))
    · exact (execHello_malformed hello whole bad).trans (congrArg _ (congrArg _ (gotCodewords_whole p s whole)))
    · have judged := execHello_judged hello whole good
      rw [gotCodewords_whole p s whole] at judged
      exact judged.trans (congrArg _ (if_pos zero))
    · have judged := execHello_judged hello whole good
      rw [gotCodewords_whole p s whole] at judged
      exact judged.trans (congrArg _ (if_neg refused))
  case up =>
    exact ⟨execSignalLoss_up up, execLinkSilenceTimeout_resends up, execLinkSilenceTimeout_silent up, portDown_of_up up⟩
  case control => exact congrArg Host.Outcome.next ((barAccess_served live (.inl rfl) rfl).trans (lnkCtrl_eq v s))

end Sys2Proof.Proofs

/-! PROOFS. Flits of a port that is UP, and the opening and closing of its channels (R384 to R389, R393). -/
namespace Sys2Proof.Proofs
open Sys2Proof Machine Safety Laws

/-! ## A flit is discarded (R386) -/

section
variable {p : Nat} {s t : State}

/-- The first discarded flit sets NAK in a NULL flit sent at once; while a NAK stands nothing is sent. -/
theorem discardFlit_eq (same : (getPort t p).nak = (getPort s p).nak) : discardFlit p t = if (getPort s p).nak then t
    else sendNulls p 1 (modPort p (fun x => { x with nak := true, nakDue := true }) t) := by
  rw [discardFlit, same]

theorem nak_gotCodewords (p : Nat) (c : Fec) (s : State) : (getPort (gotCodewords p c s) p).nak = (getPort s p).nak := by
  rw [getPort_gotCodewords]
  split <;> rfl

/-- The good flit whose SEQ is next: its returns applied, then its two slots in order, and its returns carried back (R384, R386,
R389). -/
def flitTaken (p : Nat) (f : Flit) (s : State) : State :=
  let t := applyReturns p f (modPort p (fun x => { x with
    rxLast := BitVec.ofNat 16 (fld f 2 2), nak := false, nakDue := false }) s)
  let u := slotIn p (fld f 7 1) (fld f 1 1 / 4) (BitVec.ofNat 2048 (fld f 0x10C 256))
    (slotIn p (fld f 6 1) (fld f 1 1 % 4) (BitVec.ofNat 2048 (fld f 0xC 256)) t)
  if (getPort u p).st = .up then sendNulls p (max 1 (getPort u p).crnDue.length) u else u

end

/-! ## DATA and NULL flits -/

section
variable {s : State} {port : Fin 18} (up : (getPort s port.val).st = .up) {f : Flit} {c : Fec}
include up

theorem flits_lost (lost : c.lost = true) :
    exec (.dataFlit port f c) s = .next (discardFlit port.val (gotCodewords port.val c s)) ∧
      exec (.nullFlit port { flit := f, fec := c }) s = .next (discardFlit port.val (gotCodewords port.val c s)) :=
  ⟨congrArg Host.Outcome.next ((if_neg (by simp [up])).trans (if_pos lost)),
    congrArg Host.Outcome.next ((if_neg (by simp [up])).trans (if_pos lost))⟩

theorem flits_bad (whole : c.lost = false) (bad : flitOk f = false) :
    exec (.dataFlit port f c) s = .next (discardFlit port.val (bump (.flitErrors port.val) 1 (gotCodewords port.val c s))) ∧
      exec (.nullFlit port { flit := f, fec := c }) s =
        .next (discardFlit port.val (bump (.flitErrors port.val) 1 (gotCodewords port.val c s))) :=
  ⟨congrArg Host.Outcome.next ((if_neg (by simp [up])).trans ((if_neg (by simp [whole])).trans (if_pos (by simp [bad])))),
    congrArg Host.Outcome.next ((if_neg (by simp [up])).trans ((if_neg (by simp [whole])).trans (if_pos (by simp [bad]))))⟩

/-- A good DATA flit is taken when its SEQ is next, else discarded. -/
theorem execDataFlit_good (whole : c.lost = false) (good : flitOk f = true) (data : fld f 0 1 = 1) :
    exec (.dataFlit port f c) s = .next (
      if fld f 2 2 = ((getPort s port.val).rxLast + 1).toNat then flitTaken port.val f (gotCodewords port.val c s)
      else discardFlit port.val (gotCodewords port.val c s)) := by
  refine congrArg Host.Outcome.next ((if_neg (by simp [up])).trans ((if_neg (by simp [whole])).trans ((if_neg (by simp [good])).trans
    ((if_neg (by simp [data])).trans ?_))))
  by_cases next_ : fld f 2 2 = ((getPort s port.val).rxLast + 1).toNat
  · refine (if_neg (by simp [next_])).trans (.trans ?_ (if_pos next_).symm)
    simp only [flitTaken, beq_iff_eq]
  · exact (if_pos (by simpa using next_)).trans (if_neg next_).symm

theorem execNullFlit_good (whole : c.lost = false) (good : flitOk f = true) (null : fld f 0 1 = 2) :
    exec (.nullFlit port { flit := f, fec := c }) s = .next (applyReturns port.val f (gotCodewords port.val c s)) :=
  congrArg Host.Outcome.next ((if_neg (by simp [up])).trans ((if_neg (by simp [whole])).trans ((if_neg (by simp [good])).trans
    (if_neg (by simp [null])))))

/-! ## Channels (R388, R393, R416) -/

theorem svcCmd_refused {op : Nat} {m : Rec64} {g : State → State} (open_ : port.val = 15 → s.ply.fenced = false)
    (bad : svcOk port.val m = false) : svcCmd port.val op m g s = bump (.serviceErrors port.val) 1 s := by
  refine (if_neg ?_).trans (if_pos (by simp [bad]))
  simpa [up] using open_

end

/-- Settles O46: a flit by whether it is whole, good and next; a channel by its message. -/
theorem flitsComplete : Obligations.FlitsComplete := by
  intro s port up p x nak
  have naks {t : State} (same : (getPort t p).nak = x.nak) : (Host.Outcome.next (discardFlit p t) : Result) = .next (nak t) :=
    congrArg _ (discardFlit_eq same)
  refine ⟨fun f c => ?flit, fun stands => congrArg Host.Outcome.next (if_pos ?repeat_), fun open_ m => ?channel⟩
  case repeat_ => simp [stands, up, x, p]
  case flit =>
    intro counted heard null
    have same : (getPort (gotCodewords p c s) p).nak = x.nak := nak_gotCodewords p c s
    refine ⟨fun lost => ?_, fun whole bad => ?_, fun whole good data other => ?_, fun whole good data next_ => ?_,
      fun whole good isNull => ?_, ?returns⟩
    case returns =>
      simp only [applyReturns, decide_eq_true_eq]
      rfl
    · obtain ⟨data, null⟩ := flits_lost up (f := f) lost
      have words := gotCodewords_lost p s lost
      rw [words] at same data null
      exact ⟨data.trans (naks same), null.trans (naks same)⟩
    all_goals
      have words := gotCodewords_whole p s whole
      rw [words] at same
    · obtain ⟨data, null⟩ := flits_bad up whole bad
      rw [words] at data null
      exact ⟨data.trans (naks same), null.trans (naks same)⟩
    · have done := execDataFlit_good up whole good data
      rw [words] at done
      exact (done.trans (congrArg _ (if_neg other))).trans (naks same)
    · have done := execDataFlit_good up whole good data
      rw [words] at done
      exact done.trans (congrArg _ (if_pos next_))
    · have done := execNullFlit_good up whole good isNull
      rw [words] at done
      exact done
  case channel =>
    intro ch
    exact ⟨fun bad => ⟨congrArg Host.Outcome.next (svcCmd_refused up open_ bad), congrArg Host.Outcome.next (svcCmd_refused up open_ bad)⟩,
      fun good hop strand => congrArg Host.Outcome.next ((svcCmd_acts up open_ good hop).trans (if_neg (Nat.not_le.2 strand))),
      fun good hop strand => congrArg Host.Outcome.next ((svcCmd_acts up open_ good hop).trans (if_neg (Nat.not_le.2 strand)))⟩

end Sys2Proof.Proofs

/-! PROOFS. The pair binds, beats, loses its partner, takes over and releases (R402 to R419). -/
namespace Sys2Proof.Proofs
open Sys2Proof Machine Safety Laws

/-! ## PLY_BIND and PLY_RELEASE (R403, R405) -/

section
variable {d : Rec64} {s : State}

/-- The checks of R403 as the command's descriptor and the state give them. -/
theorem bindOk_of_partner {p : Nat} (named : dPanel d = p) (unbound : s.ply.st = .unbound) (low : p < 64)
    (other : p ≠ s.boot.rackPos.toNat) (up : (getPort s 15).st = .up) (peer : (getPort s 15).peer.toNat = p)
    (two : (takeoverRing s 2).isSome = true) (three : (takeoverRing s 3).isSome = true) (owner : (bindOwner s d).isSome = true) :
    bindOk s d = true := by
  simp [bindOk, named, unbound, low, other, up, peer, two, three, owner]

/-- The pair in BINDING with the named partner (R403). -/
def binding (id : Nat) (d : Rec64) (s : State) : State :=
  { s with ply := { s.ply with
    st := .binding, partner := BitVec.ofNat 8 (fld d 8 1), standby := BitVec.ofNat 16 (fld d 0x10 2), kvThreshold := fld d 0xC 4
    owner := (bindOwner s d).getD none, bindCmd := some id, bindAt := s.now.toNat
    beatAt := s.now.toNat, missed := 0, sentSync := false, gotSync := false, syncLeft := 0, unacked := [], outQ := [] } }

theorem runPlyBind_ok {id : Nat} (ok : bindOk s d = true) : runPlyBind id d s = sendBind (syncPartner (binding id d s)) :=
  if_neg (by simp [ok])

theorem bindOwner_setFld (op : Nat) (s : State) : bindOwner s (setFld d 0 1 op) = bindOwner s d := by
  simp only [bindOwner, fld_setFld_op (k := 0xF) d]

end

/-! ## Loss of the partner (R416) -/

section
variable {s : State}

/-- The state after the loss, before the mirror is taken over or freed. -/
def partnerGone (s : State) : State :=
  syncPartner (plyEvent 2 (endHanded (commitEvery (bump .partnersLost 1 (dropLifeline { s with ply := { s.ply with
    st := .lost, fenced := true, unacked := [], outQ := [], missed := 0 } })))))

theorem execPartnerLost_due (pair : paired s = true) (beats : 10 ≤ s.ply.missed) : exec .partnerLost s = .next (
    if s.ply.st = .bound ∨ s.ply.st = .releasing then
      healthNotice { partnerGone s with ply := { (partnerGone s).ply with
        takeoverDue := true, adopted := 0, ended := 0, rxQ := [], bulk := none, bulkGot := [] } }
    else bindDone 0x20 (freeAllMirrors (partnerGone s))) := by
  refine congrArg Host.Outcome.next ((if_neg (by simp [pair, beats])).trans ?_)
  dsimp only
  simp only [Bool.or_eq_true, beq_iff_eq]
  rfl

/-! ## LIFELINE messages (R408, R411, R415) -/

/-- A LIFELINE message is a beat and an acknowledgement; its data is received when it is next in order. -/
theorem gotLifeline_legal {m : Rec64} {data : List Byte} (legal : lifelineHdrOk m = true) (len : data.length = fld m 0x18 8)
    (pair : paired s = true) :
    let t := gotAck (fld m 8 2) { s with ply := { s.ply with beatAt := s.now.toNat, missed := 0 } }
    let tag := BitVec.ofNat 16 (fld m 2 2)
    gotLifeline m data s = if data.isEmpty || !paired t then t
      else if tagNext t tag then receive (some tag) (nbit (fld m 0x10 8) 0) data t
      else plyEvent 7 (bump .mirrorErrors 1 t) :=
  (if_neg (by simp [legal, len])).trans (if_neg (by simp [pair]))

end

/-! ## TAKEOVER (R417, R419) -/

/-- One entry of the mirror at a takeover, unless one before it waits: whether none waits yet, and the state. -/
def takeOne (r : Bool × State) (e : Nat × Mirror) : Bool × State :=
  if r.1 = false then r
  else match adoptOne e.1 r.2 with
    | (none, u) => (false, u)
    | (some ok, u) => (true, { u with ply := { u.ply with
        adopted := u.ply.adopted + (if ok then 1 else 0), ended := u.ply.ended + (if ok then 0 else 1) } })

theorem foldl_takeOne_waiting (u : State) : ∀ l : List (Nat × Mirror), l.foldl takeOne (false, u) = (false, u)
  | [] => rfl
  | _ :: l => foldl_takeOne_waiting u l

/-- The entries in slot order, up to the first that waits. -/
theorem takeoverAll_eq : ∀ (l : List (Nat × Mirror)) (s : State), takeoverAll (l.map (·.1)) s = l.foldl takeOne (true, s)
  | [], _ => rfl
  | e :: l, s => by
    rw [List.map_cons, List.foldl_cons, takeoverAll, takeOne,
      if_neg (show ¬ ((true, s).1 = false) from Bool.noConfusion)]
    cases adoptOne e.1 s with
    | mk answer u =>
      cases answer with
      | none => exact (foldl_takeOne_waiting u l).symm
      | some ok => cases ok <;> exact takeoverAll_eq l _

theorem execTakeover_due {s : State} (due : s.ply.takeoverDue = true) :
    let r := s.ply.mirror.foldl takeOne (true, s)
    let t := healthNotice (plyEvent 3 { r.2 with ply := { r.2.ply with takeoverDue := false } })
    exec .takeover s = .next (if r.1 = false then r.2 else if t.ply.relCmd.isSome then releaseDone (unbind 4 t) else t) := by
  refine congrArg Host.Outcome.next ((if_neg (by simp [due])).trans ?_)
  rw [takeoverAll_eq]
  cases s.ply.mirror.foldl takeOne (true, s) with
  | mk all u => cases all <;> rfl

/-- Settles O48: each command and each event of time by its own equation. -/
theorem pairCommandsComplete : Obligations.PairCommandsComplete := by
  intro s gone
  refine ⟨fun d taken => ?bind, fun binds due => congrArg Host.Outcome.next (if_pos ?timeout), fun pair =>
    ⟨fun on => congrArg Host.Outcome.next (if_neg ?beat), fun due => congrArg Host.Outcome.next (if_neg ?missed),
      fun early => congrArg Host.Outcome.next (if_pos ?heard), execPartnerLost_due pair,
      fun up unfenced m recs bulk ok hop legal => ?lifeline⟩, execTakeover_due, fun d taken => ?release⟩
  case timeout =>
    have due : s.ply.bindAt + 10000000 ≤ s.us := due
    simp [binds, due]
  case beat => simp [on, pair]
  case missed =>
    have due : s.ply.beatAt + 10 ≤ s.us := due
    simp [pair, due]
  case heard =>
    have early : s.us < s.ply.beatAt + 10 := early
    simp [early]
  case bind =>
    intro p c unbound low other up peer two three owner
    have begins := adminAs_begins taken
    refine congrArg Host.Outcome.next (begins.trans ?_)
    rw [beginAdmin, dOp_setFld (by decide) d]
    have ok : bindOk (running 0x8C d s) (setFld d 0 1 0x8C) = true :=
      bindOk_of_partner (s := running 0x8C d s) dPanel_setFld unbound low other up peer two three
        (by rw [bindOwner_setFld]; exact owner)
    refine (runPlyBind_ok ok).trans ?_
    rw [binding, fld_setFld_op (k := 7), fld_setFld_op (k := 0xB), fld_setFld_op (k := 0xF), bindOwner_setFld]
    rfl
  case lifeline =>
    intro data t tag len
    have acts : exec (.lifeline 15 m recs bulk) s = .next (gotLifeline m data s) :=
      congrArg Host.Outcome.next (svcCmd_acts up (fun _ => unfenced) ok hop)
    have got := acts.trans (congrArg _ (gotLifeline_legal legal len pair))
    refine ⟨fun empty => got.trans (congrArg _ (if_pos (by simp [empty]))), fun some_ still =>
      got.trans (congrArg _ (if_neg ?_))⟩
    rw [show paired t = true from still]
    simpa using some_
  case release =>
    intro r
    have begins : exec (.plyRelease d) s = .next (runPlyRelease s.nextId (setFld d 0 1 0x8D) r) := by
      refine congrArg Host.Outcome.next ((adminAs_begins taken).trans ?_)
      rw [beginAdmin, dOp_setFld (by decide) d]
      rfl
    refine ⟨fun bound => begins.trans ?_, fun releasing => begins.trans ?_, fun lost => begins.trans ?_⟩
    · rw [runPlyRelease, show r.ply.st = .bound from bound]
      rfl
    · rw [runPlyRelease, show r.ply.st = .releasing from releasing]
      rfl
    · rw [runPlyRelease, show r.ply.st = .lost from lost]
      rfl

end Sys2Proof.Proofs

/-! PROOFS. The records of the partner: what each does to the mirror, the pair and requests handed over (R404 to R420). -/
namespace Sys2Proof.Proofs
open Sys2Proof Machine Safety Laws

/-! ## What leaves the queue of data received as it was -/

/-- What has come from the partner and is not yet applied. -/
def rxOf (s : State) : List (Option (BitVec 16) × Bool × List Byte) := s.ply.rxQ

theorem Noticed.rx {s t : State} (h : Noticed s t) : rxOf t = rxOf s := (congrArg rxOf h).trans rfl

theorem Aside.rx {s t : State} (h : Aside s t) : rxOf t = rxOf s := h.rxQ

theorem plyNotice_noticed (code : Nat) (s : State) : Noticed s (plyNotice code s) := by
  unfold plyNotice
  split
  · rfl
  · exact (notice_noticed ..).trans (notice_noticed ..)

theorem plyEvent_noticed (code : Nat) (s : State) : Noticed s (plyEvent code s) := by
  unfold plyEvent
  refine Noticed.trans (t := { s with ply := { s.ply with events := BitVec.ofNat 8 (s.ply.events.toNat ||| 2 ^ code) } }) rfl
    (.trans ?_ (plyNotice_noticed code _))
  split
  · exact .refl _
  · exact raiseCause_noticed 4 _

theorem syncPartner_noticed (s : State) : Noticed s (syncPartner s) := by
  unfold syncPartner
  split
  · exact goOn_noticed _ s
  split <;> rfl

theorem unseen_rxOf {p : Nat} : Unseen p rxOf := ⟨fun _ _ _ _ => rfl, fun s _ => (modCast_aside p _ s).rx⟩

/-! ### Memory and hanks -/

theorem freeAt_ply (a : Nat) (s : State) : (freeAt a s).ply = s.ply := by
  unfold freeAt
  split
  · rfl
  split <;> rfl

theorem foldl_freeAt_ply (l : List Nat) (s : State) : (l.foldl (fun s a => freeAt a s) s).ply = s.ply :=
  foldl_view (view := State.ply) (fun t a => freeAt_ply a t) l

theorem freeMirrorHanks_ply (m : Mirror) (s : State) : (freeMirrorHanks m s).ply = s.ply :=
  (foldl_freeAt_ply _ _).trans ((freeAt_ply _ _).trans (freeAt_ply _ _))

theorem foldl_freeAt_now (l : List Nat) (s : State) : (l.foldl (fun s a => freeAt a s) s).now = s.now :=
  (Aside.foldl (fun t a => freeAt_aside a t) l s).now

theorem countWait_rx (who : Taker) (st : Nat) (s : State) : rxOf (countWait who st s) = rxOf s := by
  unfold countWait
  dsimp only
  split <;> rfl

theorem submitEvict_rx (k : Nat) (s : State) : rxOf (submitEvict k s) = rxOf s := unseen_rxOf (p := 0).modHank

theorem takeHank_rx (k : Nat) (o : Option Nat) (pin : Bool) (s : State) : rxOf (takeHank k o pin s) = rxOf s :=
  congrArg Ply.rxQ makeHome_ply

theorem takeHank_now (k : Nat) (o : Option Nat) (pin : Bool) (s : State) : (takeHank k o pin s).now = s.now := makeHome_now

theorem allocTry_rx (who : Taker) (tier : Nat) (o : Option Nat) (pin : Bool) (s : State) :
    rxOf (allocTry who tier o pin s).2 = rxOf s := by
  unfold allocTry allocBy
  split
  · exact takeHank_rx ..
  split
  · rfl
  split
  · unfold evictFor
    split
    · exact submitEvict_rx ..
    · exact countWait_rx ..
  split
  · exact countWait_rx ..
  split <;> rfl

theorem allocTry_now_of_got {who : Taker} {tier k : Nat} {o : Option Nat} {pin : Bool} {s t : State}
    (got : allocTry who tier o pin s = (.got k, t)) : t.now = s.now := by
  unfold allocTry allocBy at got
  split at got
  · obtain ⟨-, rfl⟩ := Prod.mk.inj got
    exact takeHank_now ..
  split at got
  · cases got
  split at got
  · unfold evictFor at got
    split at got <;> cases got
  split at got
  · cases got
  split at got <;> cases got

/-! ### Entries due to the rings -/

theorem countHolds_rx (r : Nat) (s : State) : rxOf (countHolds r s) = rxOf s := by
  unfold countHolds
  dsimp only
  split <;> rfl

theorem pushDue_rx (r : Nat) (d : Due) (s : State) : rxOf (pushDue r d s) = rxOf s := (countHolds_rx r _).trans rfl

theorem pushTakeover_rx (d : Due) (s : State) : rxOf (pushTakeover d s) = rxOf s := by
  have queued : rxOf (if d.isStream then { s with ply := { s.ply with dueS := s.ply.dueS ++ [d] } }
      else { s with ply := { s.ply with dueC := s.ply.dueC ++ [d] } }) = rxOf s := by split <;> rfl
  unfold pushTakeover
  dsimp only
  split
  · exact (countHolds_rx _ _).trans queued
  · exact queued

theorem pushWaiters_rx (ws : List Waiter) (s : State) : rxOf (pushWaiters ws s) = rxOf s :=
  foldl_view (view := rxOf) (fun _ _ => pushDue_rx ..) ws

theorem pushStream_rx (i : Nat) (rec : BitVec 128) (final : Bool) (s : State) : rxOf (pushStream i rec final s) = rxOf s := by
  unfold pushStream
  split
  · rfl
  split
  · rfl
  dsimp only
  split
  · exact (pushTakeover_rx ..).trans rfl
  · exact (pushDue_rx ..).trans rfl

theorem adminDone_ply (id status result : Nat) (s : State) : (adminDone id status result s).ply = s.ply := by
  have held (r : Nat) (t : State) : (countHolds r t).ply = t.ply := by
    unfold countHolds
    dsimp only
    split <;> rfl
  unfold adminDone
  split
  · rfl
  dsimp only
  split
  · rfl
  · exact (held 0 _).trans rfl

/-! ### Slots -/

theorem modSlot_rx (i : Nat) (f : Slot → Slot) (s : State) : rxOf (modSlot i f s) = rxOf s := by
  unfold modSlot
  split <;> rfl

theorem pushSlotCompl_rx (i : Nat) (s : State) : rxOf (pushSlotCompl i s) = rxOf s := by
  unfold pushSlotCompl
  split
  · rfl
  split
  · exact (freeSlot_aside i _).rx.trans (pushWaiters_rx ..)
  dsimp only
  split
  · exact (pushTakeover_rx ..).trans rfl
  · exact (pushDue_rx ..).trans rfl

theorem leaveWork_rx (i : Nat) (s : State) : rxOf (leaveWork i s) = rxOf s := by
  unfold leaveWork
  split
  · rfl
  · exact (dropAlloc_aside _ _).rx.trans ((dropAlloc_aside _ _).rx.trans (modCast_aside _ _ s).rx)

theorem slotChanged_rx (i : Nat) (s : State) : rxOf (slotChanged i s) = rxOf s := by
  unfold slotChanged
  split
  · exact (slotRecs_aside ..).rx
  · rfl

theorem ite_rx {c : Prop} [Decidable c] {a b s : State} (pos : rxOf a = rxOf s) (neg : rxOf b = rxOf s) :
    rxOf (if c then a else b) = rxOf s := by
  split
  · exact pos
  · exact neg

theorem endNow_rx (i status reason : Nat) (s : State) : rxOf (endNow i status reason s) = rxOf s := by
  unfold endNow
  split
  · rfl
  split
  · rfl
  refine ite_rx (ite_rx ((pushSlotCompl_rx ..).trans ((pushStream_rx ..).trans ?ended)) ((pushStream_rx ..).trans ?ended))
    ((pushSlotCompl_rx ..).trans ?ended)
  have changed (x : Slot) : rxOf (slotChanged i (releasePages i (dropSummary i (dropToks i (setSlot i x (leaveWork i s)))))) = rxOf s :=
    (slotChanged_rx ..).trans ((releasePages_aside i _).rx.trans ((dropSummary_aside i _).rx.trans ((dropToks_aside i _).rx.trans
      (leaveWork_rx i s))))
  exact ite_rx (changed _) (changed _)

theorem endHanded_rx (s : State) : rxOf (endHanded s) = rxOf s := by
  refine foldl_view (view := rxOf) (fun t i => ?_) _
  split
  · exact (endNow_rx ..).trans (modSlot_rx ..)
  · rfl

/-! ### Records to the partner -/

theorem submitReturn_rx (p area hank t3 : Nat) (two : Bool) (s : State) : rxOf (submitReturn p area hank t3 two s) = rxOf s := by
  unfold submitReturn
  split <;> rfl

theorem lifelineBulk_rx (bytes : List Byte) (s : State) : rxOf (lifelineBulk bytes s) = rxOf s := by
  unfold lifelineBulk
  split
  · rfl
  · exact (lifelineDrain_aside _ _).rx.trans rfl

theorem sendBulk_rx (i what page layer group : Nat) (bytes : List Byte) (s : State) :
    rxOf (sendBulk i what page layer group bytes s) = rxOf s := by
  unfold sendBulk
  split
  · split
    · exact (lifelineBulk_rx ..).trans (slotRecs_aside ..).rx
    · rfl
  · rfl

theorem returnSummary_rx (i : Nat) (s : State) : rxOf (returnSummary i s) = rxOf s := by
  unfold returnSummary
  split
  · split
    · exact submitReturn_rx ..
    · rfl
  · rfl

theorem sendSummary_rx (i : Nat) (s : State) : rxOf (sendSummary i s) = rxOf s := by
  unfold sendSummary
  split
  · split
    · rfl
    split
    · exact (returnSummary_rx ..).trans rfl
    · exact (sendBulk_rx ..).trans ((unseen_rxOf (p := 0)).touch.trans rfl)
  · rfl

theorem snapshot_rx (i : Nat) (s : State) : rxOf (snapshot i s) = rxOf s := by
  unfold snapshot
  dsimp only
  split
  · exact (sendSummary_rx ..).trans ((slotRecs_aside ..).rx.trans (modSlot_rx ..))
  · exact modSlot_rx ..

theorem catalogueNote_rx (e : CatEntry) (removed : Bool) (s : State) : rxOf (catalogueNote e removed s) = rxOf s := by
  unfold catalogueNote
  split
  · exact (lifelineRecs_aside ..).rx
  · rfl

theorem enterSyncing_rx (s : State) : rxOf (enterSyncing s) = rxOf s := by
  refine (syncPartner_noticed _).rx.trans ((lifelineRecs_aside ..).rx.trans ?_)
  refine (foldl_view (view := rxOf) (fun t i => ?_) _).trans
    ((foldl_view (view := rxOf) (fun t e => catalogueNote_rx e false t) _).trans ((lifelineRecs_aside ..).rx.trans rfl))
  split
  · exact snapshot_rx i t
  · rfl

/-! ### Pages -/

theorem growPool_rx (p i need fuel : Nat) (s : State) : rxOf (growPool p i need fuel s).2 = rxOf s := by
  induction fuel generalizing s with
  | zero => rfl
  | succ f ih =>
    unfold growPool
    split
    · split
      · rfl
      split
      · exact countWait_rx ..
      · have tried := allocTry_rx (.pages p i) 2 (some p) false s
        split
        · next got =>
          rw [got] at tried
          exact (ih _).trans ((wr_aside ..).rx.trans ((modCast_aside ..).rx.trans tried))
        · next got => rw [got] at tried; exact tried
    · rfl

theorem takePage_rx (p page : Nat) (s : State) : rxOf (takePage p page s) = rxOf s := by
  unfold takePage
  split
  · dsimp only
    split
    · exact (unseen_rxOf (p := 0)).touch.trans ((wr_aside ..).rx.trans (modCast_aside p _ s).rx)
    · exact (modCast_aside p _ s).rx
  · rfl

theorem ensureList_rx (p i j : Nat) (s : State) : rxOf (ensureList p i j s).2 = rxOf s := by
  unfold ensureList
  split
  · dsimp only
    split
    · rfl
    · have tried := allocTry_rx (.list p i) 2 (some p) true s
      split
      · next got =>
        rw [got] at tried
        exact (modSlot_rx ..).trans ((writeRootPages_aside ..).rx.trans ((wr_aside ..).rx.trans tried))
      · next got => rw [got] at tried; exact tried
  · rfl

theorem returnPages_rx {p : Nat} {pages : List Nat} {s t : State} (returned : returnPages p pages s = some t) : rxOf t = rxOf s := by
  unfold returnPages at returned
  split at returned
  · cases returned
  split at returned
  · cases returned
  · obtain rfl := Option.some.inj returned
    exact foldl_view (view := rxOf) (fun _ _ => submitReturn_rx ..) _

theorem takePages_rx (p i j : Nat) (s : State) : rxOf (takePages p i j s).2 = rxOf s := by
  unfold takePages
  split
  · rfl
  next k _ =>
  have grown := growPool_rx p i (k.layers * k.groups) (k.layers * k.groups / 32 + 2) s
  dsimp only
  split
  · next e => rw [e] at grown; exact grown
  next s1 e =>
  rw [e] at grown
  have listed := ensureList_rx p i j s1
  split
  · next e => rw [e] at listed; exact listed.trans grown
  next s2 e =>
  rw [e] at listed
  replace listed := listed.trans grown
  split
  · exact listed
  split
  · next returned => exact (returnPages_rx returned).trans listed
  · refine (foldl_view (view := rxOf) (fun t e => (unseen_rxOf (p := 0)).touch.trans (wr_aside ..).rx) _).trans ?_
    exact (dropAlloc_aside ..).rx.trans ((foldl_view (view := rxOf) (fun t pg => takePage_rx p pg t) _).trans listed)

theorem adoptPages_rx (p i : Nat) (m : Mirror) (fuel j : Nat) (s : State) : rxOf (adoptPages p i m fuel j s).2 = rxOf s := by
  have homed (a : Nat) (l : Bool) (t : State) : rxOf (if l then t else makeHomeless a 0x10000 t) = rxOf t :=
    ite_rx rfl (congrArg Ply.rxQ makeHomeless_ply)
  induction fuel generalizing j s with
  | zero => rfl
  | succ n ih =>
    unfold adoptPages
    split
    · rfl
    have taken := takePages_rx p i j s
    split
    · next e => rw [e] at taken; exact taken
    next e =>
    rw [e] at taken
    refine (ih _ _).trans ((foldl_view (view := rxOf) (fun t lg => ?_) _).trans taken)
    split
    · dsimp only
      split
      · rfl
      · exact (wr_aside ..).rx.trans ((wr_aside ..).rx.trans ((homed ..).trans unseen_rxOf.nextTile))
    · rfl

theorem adoptInto_rx (i slot p : Nat) (m : Mirror) (s : State) : rxOf (adoptInto i slot p m s) = rxOf s := by
  unfold adoptInto
  refine (snapshot_rx ..).trans (Eq.trans (b := rxOf (List.foldl (fun s a => freeAt a s) _ _)) rfl
    ((congrArg Ply.rxQ (foldl_freeAt_ply _ _)).trans ?_))
  have begun (slot : Nat) (l : List (BitVec 128)) (t : State) (begins : rxOf t = rxOf s) :
      rxOf (l.foldl (fun s r => pushStream slot r false s) t) = rxOf s :=
    (foldl_view (view := rxOf) (fun t r => pushStream_rx ..) l).trans begins
  dsimp only
  split
  · exact (pushStream_rx ..).trans ((modSlot_rx ..).trans (begun _ _ _ rfl))
  · exact (pushStream_rx ..).trans ((modSlot_rx ..).trans (begun _ _ _ rfl))
  · exact (pushTakeover_rx ..).trans ((modSlot_rx ..).trans (begun _ _ _ rfl))
  · split
    · exact begun _ _ _ rfl
    · split
      · split
        · exact (adoptPages_rx ..).trans (begun _ _ _ rfl)
        · exact (modSlot_rx ..).trans ((writeRootPages_aside ..).rx.trans ((adoptPages_rx ..).trans (begun _ _ _ rfl)))
      · exact (adoptPages_rx ..).trans (begun _ _ _ rfl)

/-! ## The pair settles (R402) -/

/-- The mirror and what has come from the partner. -/
def inbox (s : State) : Tbl Mirror × Option BulkWait × List Byte × List (Option (BitVec 16) × Bool × List Byte) :=
  (s.ply.mirror, s.ply.bulk, s.ply.bulkGot, s.ply.rxQ)

theorem Noticed.inbox {s t : State} (h : Noticed s t) : inbox t = inbox s := (congrArg Proofs.inbox h).trans rfl

theorem bindDone_inbox (status : Nat) (s : State) : inbox (bindDone status s) = inbox s := by
  unfold bindDone
  split
  · unfold inbox
    rw [adminDone_ply]
  · rfl

theorem releaseDone_inbox (s : State) : inbox (releaseDone s) = inbox s := by
  unfold releaseDone
  split
  · unfold inbox
    rw [adminDone_ply]
  · rfl

theorem freeMirror_first {k : Nat} {m : Mirror} {l : Tbl Mirror} {s : State} (h : s.ply.mirror = (k, m) :: l) :
    (freeMirror k s).ply.mirror = l := by
  unfold freeMirror
  rw [h, tget, if_pos rfl]
  exact (congrArg Ply.mirror (freeMirrorHanks_ply ..)).trans (if_pos rfl)

theorem freeMirrors_mirror : ∀ (l : Tbl Mirror) (s : State), s.ply.mirror = l →
    (l.foldl (fun s m => freeMirror m.1 s) s).ply.mirror = []
  | [], _, h => h
  | _ :: l, _, h => freeMirrors_mirror l _ (freeMirror_first h)

theorem freeAllMirrors_inbox (s : State) : inbox (freeAllMirrors s) = ([], none, [], []) :=
  congrArg (fun l => (l, none, [], [])) (freeMirrors_mirror s.ply.mirror s rfl)

theorem unbind_inbox (code : Nat) (s : State) : inbox (unbind code s) = ([], none, [], []) :=
  (bindDone_inbox ..).trans ((syncPartner_noticed _).inbox.trans
    ((plyEvent_noticed code _).inbox.trans (freeAllMirrors_inbox (commitEvery s))))

theorem pairSettle_inbox (s : State) : inbox (pairSettle s) = inbox s ∨ inbox (pairSettle s) = ([], none, [], []) := by
  unfold pairSettle
  split
  · split
    · exact .inl ((bindDone_inbox ..).trans (plyEvent_noticed 0 _).inbox)
    · exact .inl rfl
  · split
    · exact .inr ((releaseDone_inbox _).trans (unbind_inbox 4 s))
    · exact .inl rfl
  · exact .inl rfl

theorem rxOf_of_inbox {s : State} {m : Tbl Mirror} {b : Option BulkWait} {g : List Byte}
    {q : List (Option (BitVec 16) × Bool × List Byte)} (h : inbox s = (m, b, g, q)) : rxOf s = q :=
  congrArg (·.2.2.2) h

theorem pairSettle_rx (s : State) : rxOf (pairSettle s) = rxOf s ∨ rxOf (pairSettle s) = [] :=
  (pairSettle_inbox s).imp rxOf_of_inbox rxOf_of_inbox

/-! ## A record is received alone (R408, R410) -/

theorem length_recBytes (r : Rec64) : (recBytes r).length = 64 := by
  have len (n v : Nat) : (bytesOf n v).length = n := by
    induction n generalizing v with
    | zero => rfl
    | succ k ih => rw [bytesOf, List.length_cons, ih]
  exact len 64 _

theorem natOf_bytesOf (n v : Nat) : natOf (bytesOf n v) = v % 256 ^ n := by
  induction n generalizing v with
  | zero => rw [Nat.pow_zero, Nat.mod_one]; rfl
  | succ k ih =>
    rw [bytesOf, natOf, ih, Nat.pow_succ', Nat.mod_mul, BitVec.toNat_ofNat]

theorem natOf_bytesOf_toNat {n : Nat} (r : BitVec (8 * n)) : natOf (bytesOf n r.toNat) = r.toNat := by
  rw [natOf_bytesOf, show 256 ^ n = 2 ^ (8 * n) from (Nat.pow_mul 2 8 n).symm, Nat.mod_eq_of_lt r.isLt]

theorem ofNat_natOf_recBytes (r : Rec64) : BitVec.ofNat 512 (natOf ((recBytes r).take 64)) = r := by
  rw [List.take_of_length_le (Nat.le_of_eq (length_recBytes r))]
  exact (congrArg (BitVec.ofNat 512) (natOf_bytesOf_toNat (n := 64) r)).trans ((BitVec.ofNat_toNat 512 r).trans (BitVec.setWidth_eq r))

/-- One turn of the pump over a record that is applied. -/
theorem pumpRx_applied {tag : Option (BitVec 16)} {l : List Byte} {rest : List (Option (BitVec 16) × Bool × List Byte)}
    {n : Nat} {s t : State} (front : s.ply.rxQ = (tag, false, l) :: rest) (some_ : l.isEmpty = false)
    (applied : applyRec (BitVec.ofNat 512 (natOf (l.take 64))) s = (true, t)) :
    pumpRx (n + 1) s = pumpRx n (setRxQ (dropRec t.ply.rxQ) t) := by
  simp only [pumpRx, front, some_, applied, Bool.false_eq_true, if_false]

/-- The pump stops at a record that waits. -/
theorem pumpRx_waits {tag : Option (BitVec 16)} {l : List Byte} {rest : List (Option (BitVec 16) × Bool × List Byte)}
    {n : Nat} {s t : State} (front : s.ply.rxQ = (tag, false, l) :: rest) (some_ : l.isEmpty = false)
    (waits : applyRec (BitVec.ofNat 512 (natOf (l.take 64))) s = (false, t)) : pumpRx (n + 1) s = t := by
  simp only [pumpRx, front, some_, waits, Bool.false_eq_true, if_false]

section
variable {r : Rec64} {s t : State} {k : Nat}

/-- The state as the record of a quiet lifeline comes in. -/
theorem receive_eq (quiet : s.ply.rxQ = []) :
    receive none false (recBytes r) s = pairSettle (pumpRx 4 (arrived r s)) := by
  have queued : { s with ply := { s.ply with rxQ := s.ply.rxQ ++ [(none, false, recBytes r)] } } = arrived r s := by
    rw [quiet]; rfl
  have fuel : rxFuel (arrived r s) = 4 := by
    change 1 + (recBytes r).length / 64 + 2 = 4
    rw [length_recBytes]
  unfold receive
  dsimp only
  rw [queued, fuel]

theorem recBytes_some (r : Rec64) : (recBytes r).isEmpty = false := by
  rw [List.isEmpty_eq_false_iff, ← List.length_pos_iff, length_recBytes]
  decide

theorem receive_applied (quiet : s.ply.rxQ = []) (applied : applyRec r (arrived r s) = (true, t))
    (left : rxOf t = rxOf (arrived r s) ∨ rxOf t = []) : receive none false (recBytes r) s = settled t := by
  rw [receive_eq quiet, pumpRx_applied rfl (recBytes_some r) (by rw [ofNat_natOf_recBytes, applied])]
  refine congrArg pairSettle ?_
  rcases left with same | none_
  · have rest : dropRec t.ply.rxQ = [(none, false, [])] := by
      refine (congrArg dropRec same).trans ?_
      change [(none, false, (recBytes r).drop 64)] = _
      rw [List.drop_of_length_le (Nat.le_of_eq (length_recBytes r))]
    rw [rest]
    rfl
  · have rest : dropRec t.ply.rxQ = [] := congrArg dropRec none_
    rw [rest]
    rfl

theorem receive_waits (quiet : s.ply.rxQ = []) (waits : applyRec r (arrived r s) = (false, t)) :
    receive none false (recBytes r) s = pairSettle t := by
  rw [receive_eq quiet, pumpRx_waits rfl (recBytes_some r) (by rw [ofNat_natOf_recBytes, waits])]

theorem gotRec_heard (hears : Hears k r s) : gotRec k r [] s = receive none false (recBytes r) s := by
  obtain ⟨pair, open_, up, kind, -⟩ := hears
  exact if_neg (by simp [pair, open_, up, mrKind, kind])

end

/-! ## A good record takes effect (R409, R410) -/

section
variable {r : Rec64} {s q t : State} {m : Mirror} {k : Nat}

theorem applyRec_bind (kind : mrKind r = 0xA) (ok : mrOk r = true) : applyRec r q = (true, gotBind r q) := by
  rw [applyRec, kind]
  dsimp only
  rw [if_neg (by decide), ok, if_neg (by decide), if_pos rfl]

/-- OPEN and the records without an epoch act at once. -/
theorem applyRec_unnumbered (kind : mrKind r = k) (good : k ≠ 0 ∧ k ≠ 0xA ∧ (epochKind k && k != 1) = false) (ok : mrOk r = true)
    (takes : takesRecords q = true) (quiet : q.ply.bulk = none) : applyRec r q = recEffect r q := by
  obtain ⟨some_, other, free⟩ := good
  simp only [applyRec, kind, ok, takes, quiet, some_, other, free, Bool.not_true, Bool.false_and, Bool.false_eq_true, if_false]

/-- A slot's record with the next epoch acts on the entry with that epoch. -/
theorem applyRec_numbered (kind : mrKind r = k) (good : k ≠ 0 ∧ k ≠ 0xA ∧ (epochKind k && k != 1) = true) (ok : mrOk r = true)
    (quiet : s.ply.bulk = none) (follows : Follows r m s) : applyRec r (arrived r s) = recEffect r (followed r m s) := by
  obtain ⟨some_, other, numbered⟩ := good
  obtain ⟨takes, entry, next⟩ := follows
  have takes : takesRecords (arrived r s) = true := takes
  have quiet : (arrived r s).ply.bulk = none := quiet
  have entry : tget (arrived r s).ply.mirror (mrSlot r) = some m := entry
  have inOrder : ((m.epoch + 1).toNat != mrEpoch r) = false := bne_eq_false_iff_eq.2 next
  simp only [applyRec, kind, ok, takes, quiet, some_, other, numbered, entry, inOrder, modMirror, Bool.not_true, Bool.and_false,
    Bool.false_eq_true, if_false, if_true]
  rfl

/-- What a good record leaves, when its effect leaves the rest of what has come alone. -/
theorem exec_settled {i : Instr} (acts : exec i s = .next (gotRec k r [] s)) (hears : Hears k r s)
    (applied : applyRec r (arrived r s) = (true, t)) (left : rxOf t = rxOf (arrived r s) ∨ rxOf t = []) :
    exec i s = .next (settled t) := by
  rw [acts, gotRec_heard hears]
  obtain ⟨-, -, -, -, -, quiet, -⟩ := hears
  rw [receive_applied quiet applied left]

end

/-! ## Pair records (R404, R405) -/

section
variable {r : Rec64} {s : State}

theorem exec_unnumbered {i : Instr} {k : Nat} {t : State} (acts : exec i s = .next (gotRec k r [] s)) (hears : Hears k r s)
    (takes : takesRecords s = true) (good : k ≠ 0 ∧ k ≠ 0xA ∧ (epochKind k && k != 1) = false)
    (effect : recEffect r (arrived r s) = (true, t)) (left : rxOf t = rxOf (arrived r s) ∨ rxOf t = []) :
    exec i s = .next (settled t) := by
  refine exec_settled acts hears ?_ left
  obtain ⟨-, -, -, kind, ok, -, quiet⟩ := hears
  exact (applyRec_unnumbered (q := arrived r s) kind good ok takes quiet).trans effect

theorem exec_numbered {i : Instr} {k : Nat} {m : Mirror} {t : State} (acts : exec i s = .next (gotRec k r [] s)) (hears : Hears k r s)
    (follows : Follows r m s) (good : k ≠ 0 ∧ k ≠ 0xA ∧ (epochKind k && k != 1) = true)
    (effect : recEffect r (followed r m s) = (true, t)) (left : rxOf t = rxOf (arrived r s) ∨ rxOf t = []) :
    exec i s = .next (settled t) := by
  refine exec_settled acts hears ?_ left
  obtain ⟨-, -, -, kind, ok, -, quiet⟩ := hears
  exact (applyRec_numbered kind good ok quiet follows).trans effect

theorem exec_bindRec (hears : Hears 0xA r s) (st : s.ply.st = .binding) (us : fld r 8 1 = s.ply.partner.toNat)
    (place : fld r 9 1 = s.boot.rackPos.toNat) : exec (.bindRec r) s = .next (settled (enterSyncing (arrived r s))) := by
  refine exec_settled rfl hears ?_ (.inl (enterSyncing_rx _))
  obtain ⟨-, -, -, kind, ok, -⟩ := hears
  refine (applyRec_bind kind ok).trans (congrArg (true, ·) (if_pos ?_))
  simp [arrived, setRxQ, st, us, place]

theorem exec_syncDone (takes : takesRecords s = true) (hears : Hears 0xB r s) : exec (.syncDone r) s = .next (settled (pairSettle
    { arrived r s with ply := { (arrived r s).ply with gotSync := true } })) := by
  refine exec_unnumbered rfl hears takes (by decide) ?_ (pairSettle_rx _)
  obtain ⟨-, -, -, kind, -⟩ := hears
  rw [recEffect, show mrKind r = 0xB from kind]
  rfl

theorem exec_releaseRec (takes : takesRecords s = true) (hears : Hears 0xC r s) (st : s.ply.st = .bound ∨ s.ply.st = .syncing) :
    exec (.releaseRec r) s = .next (settled (enterReleasing (arrived r s))) := by
  refine exec_unnumbered rfl hears takes (by decide) ?_ (.inl (endHanded_rx _))
  obtain ⟨-, -, -, kind, -⟩ := hears
  rw [recEffect, show mrKind r = 0xC from kind]
  exact congrArg (true, ·) (if_pos (by simpa [arrived, setRxQ] using st))

theorem exec_catalogueRec (takes : takesRecords s = true) (hears : Hears 8 r s) :
    exec (.catalogueRec r) s = .next (settled (applyCatalogue r (arrived r s))) := by
  refine exec_unnumbered rfl hears takes (by decide) ?_ (.inl rfl)
  obtain ⟨-, -, -, kind, -⟩ := hears
  rw [recEffect, show mrKind r = 8 from kind]
  rfl

theorem exec_resync (takes : takesRecords s = true) (hears : Hears 9 r s) :
    exec (.resync r) s = .next (settled (snapshot (fld r 2 2) (arrived r s))) := by
  refine exec_unnumbered rfl hears takes (by decide) ?_ (.inl (snapshot_rx ..))
  obtain ⟨-, -, -, kind, -⟩ := hears
  rw [recEffect, show mrKind r = 9 from kind]
  rfl

end

/-! ## OPEN and HANDOVER_REPLY (R410, R414, R420) -/

section
variable {r : Rec64} {s : State}

/-- The entry that an OPEN makes (R409). -/
def opened (r : Rec64) (now tokens : Nat) : Mirror :=
  { ({} : Mirror) with
    broken := false, have_ := 0, epoch := BitVec.ofNat 32 (fld r 4 4), opcode := fld r 8 1
    prio := BitVec.ofNat 4 (fld r 9 1), client := fld r 0xA 2, reqId := BitVec.ofNat 32 (fld r 0xC 4)
    model := BitVec.ofNat 32 (fld r 0x10 4), wversion := BitVec.ofNat 32 (fld r 0x14 4)
    seed := BitVec.ofNat 64 (fld r 0x18 8), maxNew := fld r 0x20 4, prompt := fld r 0x24 4, committed := fld r 0x28 4
    budget := BitVec.ofNat 32 (fld r 0x2C 4), deadline := BitVec.ofNat 32 (now + fld r 0x30 4)
    stopSet := fld r 0x34 2, submitRing := fld r 0x36 2, mflags := BitVec.ofNat 16 (fld r 0x38 2), st := fld r 0x3A 1
    status := 0, reason := 0, tokenList := tokens, summary := 0 }

theorem applyOpen_fresh {q t : State} {k : Nat} (fresh : tget q.ply.mirror (fld r 2 2) = none)
    (alloc : allocTry .mirror 2 q.ply.owner true q = (.got k, t)) :
    applyOpen r q = (true, setMirror (fld r 2 2) (opened r q.now.toNat (hankAddr k)) t) := by
  have old : tgetD q.ply.mirror (mrSlot r) {} = {} := by rw [tgetD, show tget q.ply.mirror (mrSlot r) = none from fresh]; rfl
  have clock : localDeadline t (fld r 0x30 4) = BitVec.ofNat 32 (q.now.toNat + fld r 0x30 4) := by
    rw [localDeadline, State.us, allocTry_now_of_got alloc]
  have nothing : freeAt 0 t = t := rfl
  simp only [applyOpen, old, alloc, nothing, ite_self, clock]
  rfl

theorem exec_openRec {k : Nat} {t : State} (takes : takesRecords s = true) (hears : Hears 1 r s)
    (fresh : tget s.ply.mirror (fld r 2 2) = none) (alloc : allocTry .mirror 2 s.ply.owner true (arrived r s) = (.got k, t)) :
    exec (.openRec r) s = .next (settled (setMirror (fld r 2 2) (opened r s.now.toNat (hankAddr k)) t)) := by
  have kept : rxOf t = rxOf (arrived r s) := (congrArg (fun a => rxOf a.2) alloc).symm.trans (allocTry_rx ..)
  refine exec_unnumbered rfl hears takes (by decide) ?_ (.inl kept)
  obtain ⟨-, -, -, kind, -⟩ := hears
  rw [recEffect, show mrKind r = 1 from kind]
  exact applyOpen_fresh (q := arrived r s) fresh alloc

theorem gotReply_handed {q : State} {i ok cause : Nat} (handed : (getSlot q i).bind (·.handed) = some cause) :
    gotReply i ok q =
      let t := modSlot i (fun x => { x with handed := none }) q
      if ok = 1 then plyEvent 5 (bump .handoversOut 1 (endNow i 3 10 t))
      else endNow i cause (reasonOf cause) (bump .handoversRefused 1 t) := by
  rw [gotReply, handed]
  rfl

theorem gotReply_rx (q : State) (i ok : Nat) : rxOf (gotReply i ok q) = rxOf q := by
  unfold gotReply
  split
  · rfl
  · exact ite_rx ((plyEvent_noticed ..).rx.trans (Eq.trans (b := rxOf (endNow ..)) rfl ((endNow_rx ..).trans (modSlot_rx ..))))
      ((endNow_rx ..).trans (Eq.trans (b := rxOf (modSlot ..)) rfl (modSlot_rx ..)))

theorem exec_handoverReply {cause : Nat} (takes : takesRecords s = true) (hears : Hears 7 r s)
    (handed : (getSlot s (fld r 2 2)).bind (·.handed) = some cause) :
    let t := modSlot (fld r 2 2) (fun x => { x with handed := none }) (arrived r s)
    exec (.handoverReply r) s = .next (settled (
      if fld r 8 1 = 1 then plyEvent 5 (bump .handoversOut 1 (endNow (fld r 2 2) 3 10 t))
      else endNow (fld r 2 2) cause (reasonOf cause) (bump .handoversRefused 1 t))) := by
  intro t
  rw [← gotReply_handed (q := arrived r s) (ok := fld r 8 1) handed]
  refine exec_unnumbered rfl hears takes (by decide) ?_ (.inl (gotReply_rx ..))
  obtain ⟨-, -, -, kind, -⟩ := hears
  rw [recEffect, show mrKind r = 7 from kind]
  rfl

end

/-! ## Tokens and states of an entry (R409, R413, R414) -/

section
variable {r : Rec64} {s t : State} {m : Mirror}

theorem setMirror_rx (i : Nat) (m : Mirror) (s : State) : rxOf (setMirror i m s) = rxOf s := rfl

theorem modMirror_rx (i : Nat) (f : Mirror → Mirror) (s : State) : rxOf (modMirror i f s) = rxOf s := by
  unfold modMirror
  split <;> rfl

theorem freeMirror_rx (i : Nat) (s : State) : rxOf (freeMirror i s) = rxOf s := by
  unfold freeMirror
  split
  · exact (congrArg Ply.rxQ (freeMirrorHanks_ply ..)).trans rfl
  · rfl

theorem trimMirror_ply (n : Nat) (m : Mirror) (s : State) : (trimMirror n m s).2.ply = s.ply := foldl_freeAt_ply ..

theorem trimMirror_now (n : Nat) (m : Mirror) (s : State) : (trimMirror n m s).2.now = s.now := foldl_freeAt_now ..

/-- The entry with the epoch of the record that follows. -/
theorem tget_followed (r : Rec64) (m : Mirror) (s : State) : tget (followed r m s).ply.mirror (fld r 2 2) =
    some { m with epoch := BitVec.ofNat 32 (fld r 4 4) } :=
  tget_tset.trans (if_pos rfl)

theorem applyTokens_tokens (entry : tget t.ply.mirror (fld r 2 2) = some m) : applyTokens r false t =
    setMirror (fld r 2 2) { m with have_ := max m.have_ (fld r 8 4 + fld r 0xC 1) }
      ((List.range (fld r 0xC 1)).foldl (fun s k => wr (m.tokenList + 4 * (fld r 8 4 + k)) (bytesOf 4 (fld r (0x10 + 4 * k) 4)) s) t) := by
  rw [applyTokens, show tget t.ply.mirror (mrSlot r) = some m from entry]
  rfl

theorem applyTokens_generated (entry : tget t.ply.mirror (fld r 2 2) = some m) : applyTokens r true t =
    setMirror (fld r 2 2)
      { m with have_ := max m.have_ (fld r 8 4 + fld r 0xC 1), committed := max m.committed (fld r 8 4 + fld r 0xC 1) }
      ((List.range (fld r 0xC 1)).foldl (fun s k =>
        wr (m.tokenList + 0x100000 + 2 * (fld r 8 4 + k)) (bytesOf 2 (fld r (0x14 + 6 * k) 2))
          (wr (m.tokenList + 4 * (fld r 8 4 + k)) (bytesOf 4 (fld r (0x10 + 6 * k) 4)) s)) t) := by
  rw [applyTokens, show tget t.ply.mirror (mrSlot r) = some m from entry]
  rfl

theorem exec_tokens (follows : Follows r m s) (hears : Hears 2 r s) :
    exec (.tokens r) s = .next (settled (applyTokens r false (followed r m s))) := by
  have left : rxOf (applyTokens r false (followed r m s)) = rxOf (arrived r s) := by
    rw [applyTokens_tokens (tget_followed r m s)]
    exact (setMirror_rx ..).trans ((foldl_view (view := rxOf) (fun _ _ => (wr_aside ..).rx) _).trans rfl)
  refine exec_numbered rfl hears follows (by decide) ?_ (.inl left)
  obtain ⟨-, -, -, kind, -⟩ := hears
  rw [recEffect, show mrKind r = 2 from kind]
  rfl

theorem exec_generated (follows : Follows r m s) (hears : Hears 3 r s) :
    exec (.generated r) s = .next (settled (applyTokens r true (followed r m s))) := by
  have left : rxOf (applyTokens r true (followed r m s)) = rxOf (arrived r s) := by
    rw [applyTokens_generated (tget_followed r m s)]
    exact (setMirror_rx ..).trans ((foldl_view (view := rxOf) (fun _ _ => (wr_aside ..).rx.trans (wr_aside ..).rx) _).trans rfl)
  refine exec_numbered rfl hears follows (by decide) ?_ (.inl left)
  obtain ⟨-, -, -, kind, -⟩ := hears
  rw [recEffect, show mrKind r = 3 from kind]
  rfl

theorem applyState_free (entry : tget t.ply.mirror (fld r 2 2) = some m) (free : fld r 8 1 = 0) :
    applyState r t = freeMirror (fld r 2 2) t := by
  rw [applyState, show tget t.ply.mirror (mrSlot r) = some m from entry]
  exact if_pos free

/-- An entry as a STATE record leaves it (R409). -/
def restated (r : Rec64) (now : Nat) (m : Mirror) : Mirror :=
  { m with
    st := fld r 8 1, status := fld r 9 1, reason := fld r 0xA 1, prio := BitVec.ofNat 4 (fld r 0xB 1)
    mflags := BitVec.ofNat 16 (fld r 0xC 2), committed := max m.committed (fld r 0x10 4), kvPages := fld r 0x14 4
    budget := BitVec.ofNat 32 (fld r 0x18 4), deadline := BitVec.ofNat 32 (now + fld r 0x1C 4)
    maxNew := fld r 0x20 4, stopSet := fld r 0x24 2, submitRing := fld r 0x26 2
    model := BitVec.ofNat 32 (fld r 0x28 4), wversion := BitVec.ofNat 32 (fld r 0x2C 4) }

theorem applyState_kept (entry : tget t.ply.mirror (fld r 2 2) = some m) (kept : fld r 8 1 ≠ 0) :
    applyState r t = setMirror (fld r 2 2) (restated r t.now.toNat (trimMirror (fld r 0x14 4) m t).1)
      (trimMirror (fld r 0x14 4) m t).2 := by
  have clock : localDeadline (trimMirror (fld r 0x14 4) m t).2 (fld r 0x1C 4) = BitVec.ofNat 32 (t.now.toNat + fld r 0x1C 4) := by
    rw [localDeadline, State.us, trimMirror_now]
  rw [applyState, show tget t.ply.mirror (mrSlot r) = some m from entry, restated, ← clock]
  exact if_neg kept

theorem exec_stateRec (follows : Follows r m s) (hears : Hears 4 r s) :
    exec (.stateRec r) s = .next (settled (applyState r (followed r m s))) := by
  have left : rxOf (applyState r (followed r m s)) = rxOf (arrived r s) := by
    by_cases free : fld r 8 1 = 0
    · rw [applyState_free (tget_followed r m s) free]
      exact freeMirror_rx ..
    · rw [applyState_kept (tget_followed r m s) free]
      exact (setMirror_rx ..).trans ((congrArg Ply.rxQ (trimMirror_ply ..)).trans rfl)
  refine exec_numbered rfl hears follows (by decide) ?_ (.inl left)
  obtain ⟨-, -, -, kind, -⟩ := hears
  rw [recEffect, show mrKind r = 4 from kind]
  rfl

end

/-! ## HANDOVER (R417, R420) -/

section
variable {r : Rec64} {s t u : State} {m : Mirror} {i slot p : Nat}

theorem gotHandover_adopts (entry : tget t.ply.mirror i = some m) (room : firstGap t.slots 0 16384 = some slot)
    (panel : adoptPanel t m = some p) (whole : m.whole = true) (ready : adoptWaits i slot m t = none) :
    gotHandover i t =
      let v := adoptInto i slot p m { t with freeCtr := t.freeCtr + 1 }
      (true, lifelineRecs [mirrorRec 7 i 0 [(8, 1, 1)]] [] (plyEvent 6 { v with ply := { v.ply with adopted := 1, ended := 0 } })) := by
  simp only [gotHandover, entry, room, panel, whole, ready, if_true]
  rfl

theorem gotHandover_waits (entry : tget t.ply.mirror i = some m) (room : firstGap t.slots 0 16384 = some slot)
    (panel : adoptPanel t m = some p) (whole : m.whole = true) (waits : adoptWaits i slot m t = some u) :
    gotHandover i t = (false, u) := by
  simp only [gotHandover, entry, room, panel, whole, waits, if_true]

theorem gotHandover_refuses (entry : tget t.ply.mirror i = some m)
    (lacks : firstGap t.slots 0 16384 = none ∨ adoptPanel t m = none ∨ m.whole = false) :
    gotHandover i t = (true, lifelineRecs [mirrorRec 7 i 0 [(8, 1, 0)]] [] t) := by
  unfold gotHandover
  rw [entry]
  dsimp only
  split
  · next slot p room panel =>
    rcases lacks with none_ | none_ | broken
    · exact absurd (none_.symm.trans room) (by simp)
    · exact absurd (none_.symm.trans panel) (by simp)
    · rw [if_neg (by simp [broken])]
      rfl
  · rfl

theorem recEffect_handover_releasing (kind : mrKind r = 6) (st : t.ply.st = .releasing) : recEffect r t = (true, t) := by
  rw [recEffect, kind]
  exact if_pos (beq_iff_eq.2 st)

theorem recEffect_handover_answered (kind : mrKind r = 6) (st : t.ply.st ≠ .releasing) (answers : gotHandover (fld r 2 2) t = (true, u)) :
    recEffect r t = (true, u) := by
  rw [recEffect, kind]
  refine (if_neg (mt beq_iff_eq.1 st)).trans ?_
  rw [show gotHandover (mrSlot r) t = (true, u) from answers]

theorem recEffect_handover_waits (kind : mrKind r = 6) (st : t.ply.st ≠ .releasing) (waits : gotHandover (fld r 2 2) t = (false, u)) :
    recEffect r t = (false, modMirror (fld r 2 2) (fun m => { m with epoch := m.epoch - 1 }) u) := by
  rw [recEffect, kind]
  refine (if_neg (mt beq_iff_eq.1 st)).trans ?_
  rw [show gotHandover (mrSlot r) t = (false, u) from waits]
  rfl

theorem exec_handover_releasing (follows : Follows r m s) (hears : Hears 6 r s) (st : s.ply.st = .releasing) :
    exec (.handover r) s = .next (settled (followed r m s)) := by
  refine exec_numbered rfl hears follows (by decide) ?_ (.inl rfl)
  obtain ⟨-, -, -, kind, -⟩ := hears
  exact recEffect_handover_releasing kind st

theorem exec_handover_answered (follows : Follows r m s) (hears : Hears 6 r s) (st : s.ply.st ≠ .releasing)
    (answers : gotHandover (fld r 2 2) (followed r m s) = (true, t)) (left : rxOf t = rxOf (arrived r s)) :
    exec (.handover r) s = .next (settled t) := by
  refine exec_numbered rfl hears follows (by decide) ?_ (.inl left)
  obtain ⟨-, -, -, kind, -⟩ := hears
  exact recEffect_handover_answered kind st answers

theorem exec_handover_waits (follows : Follows r m s) (hears : Hears 6 r s) (st : s.ply.st ≠ .releasing)
    (waits : gotHandover (fld r 2 2) (followed r m s) = (false, u)) :
    exec (.handover r) s = .next (pairSettle (modMirror (fld r 2 2) (fun m => { m with epoch := m.epoch - 1 }) u)) := by
  have heard := gotRec_heard hears
  obtain ⟨-, -, -, kind, ok, empty, quiet⟩ := hears
  refine congrArg Host.Outcome.next (heard.trans (receive_waits empty ?_))
  exact (applyRec_numbered kind (by decide) ok quiet follows).trans (recEffect_handover_waits kind st waits)

end

/-! ## Bulk bytes (R409, R413, R414) -/

section
variable {s t u w : State} {b : BulkWait} {l : List Byte} {m : Mirror}

theorem mirrorError_rx (i : Nat) (s : State) : rxOf (mirrorError i s) = rxOf s := by
  have counted : rxOf (plyEvent 7 (bump .mirrorErrors 1 s)) = rxOf s := (plyEvent_noticed 7 _).rx.trans rfl
  unfold mirrorError
  refine ite_rx ?_ counted
  unfold sendResync
  exact ite_rx ((lifelineRecs_aside ..).rx.trans (Eq.trans (b := rxOf (modMirror ..)) rfl ((modMirror_rx ..).trans counted)))
    ((modMirror_rx ..).trans counted)

theorem placeBulk_rx (b : BulkWait) (l : List Byte) (s : State) : rxOf (placeBulk b l s).2 = rxOf s := by
  have put (a n : Nat) (m : Mirror) (t : State) (same : rxOf t = rxOf s) :
      rxOf (touch a n (wr a l (setMirror b.slot m t))) = rxOf s :=
    (unseen_rxOf (p := 0)).touch.trans ((wr_aside ..).rx.trans same)
  have tried := allocTry_rx .mirror 2 s.ply.owner false s
  unfold placeBulk
  split
  · rfl
  split
  · exact mirrorError_rx ..
  split
  · dsimp only
    split
    · exact put _ _ _ s rfl
    split
    · next got => rw [got] at tried; exact put _ _ _ _ ((freeAt_aside ..).rx.trans tried)
    · next got => rw [got] at tried; exact tried
  · dsimp only
    split
    · exact put _ _ _ s rfl
    · exact put _ _ _ s rfl
    split
    · next got => rw [got] at tried; exact put _ _ _ _ tried
    · next got => rw [got] at tried; exact tried

/-- A summary has its place (R414). -/
theorem placeBulk_summary (entry : tget s.ply.mirror b.slot = some m) (crc : crc32c l = b.dcrc) (what : b.what = 1)
    (held : m.summary ≠ 0) (near : tierOf m.summary ≠ 3) : placeBulk b l s = (true, touch m.summary l.length (wr m.summary l
      (setMirror b.slot { m with positions := natOf ((l.drop 0xC).take 4) } s))) := by
  rw [placeBulk, entry]
  refine (if_neg (by simp [crc])).trans ((if_pos what).trans (if_pos ?_))
  simp [held, near]

/-- A page that the entry does not hold yet goes to a free place (R413). -/
theorem placeBulk_page {a : Nat} (entry : tget s.ply.mirror b.slot = some m) (crc : crc32c l = b.dcrc) (what : b.what ≠ 1)
    (spot : pageSpot m = some a) (fresh : ∀ e ∈ m.pages, ¬ (e.1 = b.page ∧ e.2.1 = b.layer ∧ e.2.2.1 = b.group)) :
    placeBulk b l s = (true, touch a l.length (wr a l (setMirror b.slot { m with
      pages := m.pages ++ [(b.page, b.layer, b.group, a)] } s))) := by
  have other : ∀ e ∈ m.pages, (e.1 == b.page && e.2.1 == b.layer && e.2.2.1 == b.group) = false := by
    intro e he
    have := fresh e he
    simpa [and_assoc] using this
  have all : (m.pages.filter fun q => !(q.1 == b.page && q.2.1 == b.layer && q.2.2.1 == b.group)) = m.pages :=
    List.filter_eq_self.2 fun e he => by rw [other e he]; rfl
  have none_ : (m.pages.find? fun q => q.1 == b.page && q.2.1 == b.layer && q.2.2.1 == b.group) = none :=
    List.find?_eq_none.2 fun e he => by rw [other e he]; exact Bool.false_ne_true
  rw [placeBulk, entry]
  refine (if_neg (by simp [crc])).trans ((if_neg what).trans ?_)
  simp only [all, none_, spot, Option.map_none, Option.filter_none]

/-! ### A BULK record and its bytes -/

theorem length_pad4k (l : List Byte) : (pad4k l).length = cdiv l.length 4096 * 4096 := by
  have covered : l.length ≤ cdiv l.length 4096 * 4096 := by unfold cdiv; split <;> omega
  rw [pad4k, List.length_append, List.length_replicate]
  omega

theorem take_pad4k (l : List Byte) : (pad4k l).take l.length = l := List.take_left

/-- One turn of the pump over bulk bytes that are placed. -/
theorem pumpRx_bulk {n : Nat} {rest : List (Option (BitVec 16) × Bool × List Byte)} (front : s.ply.rxQ = (none, true, l) :: rest)
    (fed : feedBulk l s = (true, t)) : pumpRx (n + 1) s = pumpRx n (setRxQ t.ply.rxQ.tail t) := by
  simp only [pumpRx, front, fed, if_true, popRx]

theorem pumpRx_empty {n : Nat} (empty : s.ply.rxQ = []) : pumpRx n s = s := by
  cases n with
  | zero => rfl
  | succ n => simp only [pumpRx, empty]

/-- Bulk bytes that come alone. -/
def bytesArrived (l : List Byte) (s : State) : State := setRxQ [(none, true, l)] s

theorem receive_bulk (quiet : s.ply.rxQ = []) (fed : feedBulk l (bytesArrived l s) = (true, t)) (left : rxOf t = [(none, true, l)]) :
    receive none true l s = settled t := by
  have queued : { s with ply := { s.ply with rxQ := s.ply.rxQ ++ [(none, true, l)] } } = bytesArrived l s := by
    rw [quiet]; rfl
  have tail : t.ply.rxQ.tail = [] := congrArg List.tail left
  unfold receive
  dsimp only
  rw [queued, show rxFuel (bytesArrived l s) = (1 + l.length / 64 + 1) + 1 from rfl, pumpRx_bulk rfl fed, tail,
    pumpRx_empty (s := setRxQ [] t) rfl]
  rfl

/-- The bytes announced have all come, and are placed. -/
theorem feedBulk_placed (wait : s.ply.bulk = some b) (got : s.ply.bulkGot = []) (len : l.length = b.bytes)
    (placed : placeBulk b l { s with ply := { s.ply with bulkGot := pad4k l } } = (true, u)) :
    feedBulk (pad4k l) s = (true, { u with ply := { u.ply with bulk := none, bulkGot := [] } }) := by
  have all : ¬ (pad4k l).length < cdiv b.bytes 4096 * 4096 := by rw [length_pad4k, len]; exact Nat.lt_irrefl _
  have bytes : (pad4k l).take b.bytes = l := by rw [← len, take_pad4k]
  rw [feedBulk, wait]
  dsimp only
  rw [got, List.nil_append, if_neg all, bytes, placed]

theorem placeBulk_freed (freed : s.ply.mirror = []) : placeBulk b l s = (true, s) := by
  rw [placeBulk, freed, tget]

/-- The bytes that follow a BULK record, whatever the pair has settled between (R405, R409). -/
theorem receive_announced {ms : Tbl Mirror} (announced : inbox w = (ms, some b, [], []) ∨ inbox w = ([], none, [], [])) (len : l.length = b.bytes)
    (placed : placeBulk b l { w with ply := { w.ply with bulkGot := pad4k l, rxQ := [(none, true, pad4k l)] } } = (true, u)) :
    receive none true (pad4k l) w = settled { u with ply := { u.ply with bulk := none, bulkGot := [] } } := by
  rcases announced with waits | unbound
  · obtain ⟨-, bulk, got, empty⟩ : _ ∧ w.ply.bulk = some b ∧ w.ply.bulkGot = [] ∧ w.ply.rxQ = [] := by
      simpa only [inbox, Prod.mk.injEq] using waits
    have left : rxOf u = [(none, true, pad4k l)] :=
      (congrArg (fun a => rxOf a.2) placed).symm.trans (placeBulk_rx ..)
    exact receive_bulk empty (feedBulk_placed (s := bytesArrived (pad4k l) w) bulk got len placed) left
  · obtain ⟨mirror, bulk, got, empty⟩ : w.ply.mirror = [] ∧ w.ply.bulk = none ∧ w.ply.bulkGot = [] ∧ w.ply.rxQ = [] := by
      simpa only [inbox, Prod.mk.injEq] using unbound
    have fed : feedBulk (pad4k l) (bytesArrived (pad4k l) w) = (true, bytesArrived (pad4k l) w) := by
      rw [feedBulk, show (bytesArrived (pad4k l) w).ply.bulk = none from bulk]
    have freed := placeBulk_freed (b := b) (l := l)
      (s := { w with ply := { w.ply with bulkGot := pad4k l, rxQ := [(none, true, pad4k l)] } }) mirror
    obtain rfl := congrArg Prod.snd (freed.symm.trans placed)
    refine (receive_bulk empty fed rfl).trans (congrArg pairSettle ?_)
    exact congrArg₂ (fun x g => { w with ply := { w.ply with bulk := x, bulkGot := g, rxQ := [] } }) bulk got

end

theorem exec_bulk {r : Rec64} {s u : State} {m : Mirror} {bytes : List Byte} (follows : Follows r m s) (hears : Hears 5 r s)
    (some_ : bytes ≠ []) (len : bytes.length = fld r 0xC 4) :
    let b : BulkWait := { slot := fld r 2 2, what := fld r 8 1, bytes := fld r 0xC 4, dcrc := fld r 0x10 4,
                          page := fld r 0x14 4, layer := fld r 0x18 1, group := fld r 0x19 1 }
    let t := followed r m s
    let w := settled { t with ply := { t.ply with bulk := some b, bulkGot := [] } }
    placeBulk b bytes { w with ply := { w.ply with bulkGot := pad4k bytes, rxQ := [(none, true, pad4k bytes)] } } = (true, u) →
    exec (.bulk r bytes) s = .next (settled { u with ply := { u.ply with bulk := none, bulkGot := [] } }) := by
  intro b t w placed
  obtain ⟨pair, open_, up, kind, ok, empty, quiet⟩ := hears
  have first : receive none false (recBytes r) s = w := by
    refine receive_applied empty ((applyRec_numbered kind (by decide) ok quiet follows).trans ?_) (.inl rfl)
    rw [recEffect, show mrKind r = 5 from kind]
    rfl
  refine congrArg Host.Outcome.next ((if_neg (by simp [pair, open_, up, mrKind, kind])).trans ?_)
  dsimp only
  rw [first, if_neg (by simpa using some_)]
  exact receive_announced (pairSettle_inbox _) len placed

/-- Settles O49: each record is alone in what has come, so the pump applies it and nothing else before the pair settles; what a
kind does is said by its own lemma above. -/
theorem mirrorRecordsComplete : Obligations.MirrorRecordsComplete := by
  unfold Obligations.MirrorRecordsComplete
  intro s r i q
  refine ⟨exec_bindRec, fun takes => ⟨exec_syncDone takes, exec_releaseRec takes, exec_catalogueRec takes, exec_resync takes,
    fun k t hears fresh alloc => exec_openRec takes hears fresh alloc, fun cause hears handed => exec_handoverReply takes hears handed⟩,
    ?numbered, ?bytes⟩
  case numbered =>
    intro m follows t m' a n
    have entry : tget t.ply.mirror (fld r 2 2) = some m' := tget_followed r m s
    refine ⟨?tokens, ?generated, ?state, ?bulk, ?handover⟩
    case tokens =>
      intro hears
      rw [exec_tokens follows hears, applyTokens_tokens entry]
    case generated =>
      intro hears
      rw [exec_generated follows hears, applyTokens_generated entry]
    case state =>
      intro hears
      rw [exec_stateRec follows hears]
      exact ⟨fun free => by rw [applyState_free entry free], fun kept => by rw [applyState_kept entry kept]; rfl⟩
    case bulk => exact fun bytes u hears some_ len => exec_bulk follows hears some_ len
    case handover =>
      intro hears reply
      have answered (ok : Nat) {v : State} (left : rxOf v = rxOf q) : rxOf (reply ok v) = rxOf q := (lifelineRecs_aside ..).rx.trans left
      refine ⟨exec_handover_releasing follows hears, ?acts, ?refused⟩
      case acts =>
        intro slot p st room panel whole
        constructor
        · intro ready v
          refine exec_handover_answered follows hears st (gotHandover_adopts entry room panel whole ready) (answered 1 ?_)
          exact (plyEvent_noticed 6 _).rx.trans (Eq.trans (b := rxOf v) rfl ((adoptInto_rx ..).trans rfl))
        · exact fun u waits => exec_handover_waits follows hears st (gotHandover_waits entry room panel whole waits)
      case refused =>
        exact fun st lacks => exec_handover_answered follows hears st (gotHandover_refuses entry lacks) (answered 0 rfl)
  case bytes =>
    intro b l m entry crc
    exact ⟨placeBulk_summary entry crc, fun a what spot fresh => placeBulk_page entry crc what spot fresh⟩

end Sys2Proof.Proofs

/-! PROOFS. The reset state has the values the manual gives. -/
namespace Sys2Proof.Proofs
open Sys2Proof Machine Safety Laws

/-- Settles O58: every field is read off the reset state, whose tables are empty. -/
theorem resetValuesAsStated : Obligations.ResetValuesAsStated :=
  ⟨rfl, rfl, rfl, rfl, rfl, rfl, rfl, rfl, rfl, rfl, rfl, rfl, rfl, rfl, rfl, fun _ => rfl, fun _ _ => rfl, fun _ => rfl,
    fun _ => rfl⟩

end Sys2Proof.Proofs

/-! PROOFS. NOP, CSET, CADD and CLOAD: what an instruction leaves of its sequencer, and the steps of row counters. -/
namespace Sys2Proof.Proofs
open Sys2Proof Machine Safety Laws

/-! ## What an instruction leaves of its sequencer (R107, R110) -/

/-- `y` holds the program of `x` and stands at the same instruction of it. -/
def Stands (x y : KUnit) : Prop := y.run = x.run ∧ y.pc = x.pc ∧ y.program = x.program

theorem Stands.refl (x : KUnit) : Stands x x := ⟨rfl, rfl, rfl⟩

theorem Stands.trans {x y z : KUnit} (h : Stands x y) (k : Stands y z) : Stands x z :=
  ⟨k.1.trans h.1, k.2.1.trans h.2.1, k.2.2.trans h.2.2⟩

theorem stands_setCtr (n : Nat) (c : RowCtr) (x : KUnit) : Stands x (setCtr n c x) := ⟨rfl, rfl, rfl⟩

theorem stands_setIn (i : Nat) (q : InStrand) (x : KUnit) : Stands x (setIn i q x) := ⟨rfl, rfl, rfl⟩

section
variable {i : Instr} {u : Nat} {s t : State} {y : KUnit}

/-- A unit that can take an instruction and has become `y` retires to the next address. -/
theorem retire_of_stands (ready : Ready i u s) (same : Stands (getUnit s u) y) :
    retire u (setUnit u y t) = setUnit u { y with pc := (getUnit s u).pc + 1 } t := by
  obtain ⟨can, more⟩ := ready
  obtain ⟨run, pc, program⟩ := same
  rw [retire_setUnit (by rw [run]; exact canIssue_not_stopped can) (by rw [pc, program]; exact more), pc]

/-- One that has become `y` jumps to an address of its program. -/
theorem goTo_of_stands {a : Nat} (can : canIssue i u s = true) (inside : a < (getUnit s u).program.length)
    (same : Stands (getUnit s u) y) : goTo u a (setUnit u y t) = setUnit u { y with pc := a } t := by
  obtain ⟨run, -, program⟩ := same
  rw [goTo_eq (by rw [getUnit_setUnit, run]; exact canIssue_not_stopped can)
    (by rw [getUnit_setUnit, program]; exact inside), getUnit_setUnit, setUnit_setUnit]

end

section
variable {i : Instr} {u : BitVec 9} {f : Nat → State → Fired} {s : State} {y : KUnit}

theorem setUnit_getUnit_retire (ready : Ready i u.toNat s) :
    retire u.toNat s = setUnit u.toNat { getUnit s u.toNat with pc := (getUnit s u.toNat).pc + 1 } s :=
  retire_ready (canIssue_not_stopped ready.1) ready.2

/-- An instruction that leaves its unit as `y` and retires. -/
theorem next_unitNext (ready : Ready i u.toNat s) (same : Stands (getUnit s u.toNat) y)
    (fired : f u.toNat s = (retire u.toNat (setUnit u.toNat y s), [])) :
    (.next (issue i u f s) : Result) = .next (unitNext u.toNat y s) :=
  next_issue_done ready.1 (fired.trans (congrArg (·, []) (retire_of_stands ready same)))

/-- One that leaves its unit as `y` and jumps. -/
theorem next_unitAt {a : Nat} (can : canIssue i u.toNat s = true) (inside : a < (getUnit s u.toNat).program.length)
    (same : Stands (getUnit s u.toNat) y) (fired : f u.toNat s = (goTo u.toNat a (setUnit u.toNat y s), [])) :
    (.next (issue i u f s) : Result) = .next (unitAt u.toNat a y s) :=
  next_issue_done can (fired.trans (congrArg (·, []) (goTo_of_stands can inside same)))

end

/-! ## Row counters (R117 to R119) -/

theorem stands_stepCtr (k n : Nat) (x : KUnit) : Stands x (stepCtr k n x).1 := by
  rw [stepCtr_of_ctrs (x := x) (y := x) rfl]
  exact ⟨rfl, rfl, rfl⟩

theorem stepTarget_passes (c : RowCtr) : (stepTarget c).2 = true ↔ Passes c := by
  simp [stepTarget, Passes, stepSum]

/-- VALUE plus a signed number, modulo 2^32. -/
theorem ofInt_value_add (v d : BitVec 32) : BitVec.ofInt 32 (v.toNat + d.toInt) = v + d := by
  rw [BitVec.ofInt_add, BitVec.ofInt_toInt, BitVec.ofInt_natCast, BitVec.ofNat_toNat, BitVec.setWidth_eq]

/-- A step that wraps starts a step of the next counter (R118). -/
theorem stepCtr_chain {x y : KUnit} {n k : Nat} (passes : Passes (getCtr x n)) (unchecked : (getCtr x n).overMode ≠ 2)
    (chain : (getCtr x n).chain = true) (hn : n < 15) (stepped : Stepped n x y) :
    stepCtr (k + 1) n x = ((stepCtr k (n + 1) y).1, true, (stepCtr k (n + 1) y).2.2) := by
  have hy : (if (getCtr x n).overMode = 0 then setCtr n { getCtr x n with value := (getCtr x n).base } x else x) = y :=
    (stepped.2 passes).symm
  simp only [stepCtr, (stepTarget_passes _).2 passes, Bool.not_true, Bool.false_eq_true, if_false, unchecked, chain, hn,
    decide_true, Bool.and_self, if_true, hy]

/-- A step that no checked counter refuses changes the unit alone. -/
theorem doStep_eq {u n : Nat} {s : State} (free : (stepCtr 16 n (getUnit s u)).2.2 = none) :
    doStep u n s =
      ((stepCtr 16 n (getUnit s u)).2.1, false, setUnit u (stepCtr 16 n (getUnit s u)).1 s) := by
  simp only [doStep, free]

/-- CSET writes the field that PART names (R119). -/
theorem csetCtr_eq (part : BitVec 2) (apply : Bool) (v : BitVec 32) (c : RowCtr) :
    csetCtr part.toNat apply v c =
      { base := if part = 0 then v else c.base
        step := if part = 1 then v else c.step
        bound := if part = 2 then v else c.bound
        mode := if part = 3 then v.setWidth 4 else c.mode
        value := if apply then (if part = 0 then v else c.base) else c.value } := by
  have parts : part = 0 ∨ part = 1 ∨ part = 2 ∨ part = 3 := by
    revert part
    decide
  rcases parts with rfl | rfl | rfl | rfl <;> cases apply <;> rfl

/-- CADD on a counter that does not refuse it (R119). -/
theorem caddStep_eq {u n : Nat} {imm : BitVec 32} {s : State}
    (within : let c := getCtr (getUnit s u) n
      let t : Int := c.value.toNat + imm.toInt
      c.overMode = 2 → imm ≠ 0 → 0 ≤ t ∧ t < 4294967296 ∧ (0 < imm.toInt → t ≤ c.bound.toNat) ∧
        (imm.toInt < 0 → (c.bound.toNat : Int) ≤ t)) :
    caddStep u n imm s = (retire u (setUnit u (setCtr n
      (withValue (getCtr (getUnit s u) n) ((getCtr (getUnit s u) n).value + imm)) (getUnit s u)) s), []) := by
  rw [caddStep, if_neg, ofInt_value_add]
  · rfl
  · intro refused
    simp only [Bool.and_eq_true, decide_eq_true_eq, bne_iff_ne, Bool.or_eq_true] at refused
    obtain ⟨⟨checked, moved⟩, bad⟩ := refused
    obtain ⟨low, high, up, down⟩ := within checked fun e => moved (by rw [e]; rfl)
    omega

section
variable {u n a : Nat} {toBound : Bool} {s : State}

/-- The unit that CLOAD leaves, but for its AUTO step. -/
def cloaded (n a : Nat) (toBound : Bool) (x : KUnit) : KUnit :=
  let v := BitVec.ofNat 32 (natOf (lsRead x (ctrVal x a) 4))
  setCtr n (if toBound then { getCtr x n with bound := v } else { getCtr x n with value := v }) x

theorem cloadStep_eq (aligned : ctrVal (getUnit s u) a % 4 = 0) (inside : ctrVal (getUnit s u) a + 4 ≤ 0x80000)
    (free : hazard (getUnit s u) (getUnit s u).issued [(ctrVal (getUnit s u) a, 4)] [] [] [] = false) :
    cloadStep u n a toBound s = (retire u (autoStep u [a] (setUnit u (cloaded n a toBound (getUnit s u)) s)), []) := by
  have ok : lsOk (ctrVal (getUnit s u) a) 4 4 = true := lsOk_of_localOk ⟨aligned, inside⟩
  simp only [cloadStep, ok, free, Bool.not_true, Bool.false_eq_true, if_false, cloaded]

theorem autoStep_one (x : KUnit) :
    autoStep u [a] (setUnit u x s) = if (getCtr x a).auto_ then (doStep u a (setUnit u x s)).2.2 else setUnit u x s := by
  rw [autoStep, show [a].eraseDups = [a] from rfl, List.foldl_cons, List.foldl_nil, getUnit_setUnit]

end

/-- Settles O1: each instruction leaves its unit with other counters, and retires. -/
theorem counterInstructionsComplete : Obligations.CounterInstructionsComplete := by
  intro u s
  refine ⟨?nop, ?cset, ?cadd, ?cload⟩
  case nop =>
    intro ready
    exact next_issue_done ready.1 (congrArg (·, []) (setUnit_getUnit_retire ready))
  case cset =>
    intro n part apply v ready c
    rw [← csetCtr_eq]
    exact next_unitNext ready (stands_setCtr _ _ _) rfl
  case cadd =>
    intro n imm ready c t within
    exact next_unitNext ready (stands_setCtr _ _ _) (caddStep_eq within)
  case cload =>
    intro n a toBound ready x c addr v x' aligned inside free
    have fired : cloadStep u.toNat n.toNat a.toNat toBound s =
        (retire u.toNat (autoStep u.toNat [a.toNat] (setUnit u.toNat x' s)), []) := cloadStep_eq aligned inside free
    have same : Stands x x' := stands_setCtr _ _ _
    refine ⟨fun still => ?_, fun auto unchecked unchained => ?_⟩
    · refine next_unitNext ready same (fired.trans ?_)
      rw [autoStep_one, if_neg (Bool.eq_false_iff.1 still)]
    · obtain ⟨stepped, noFault, -⟩ := stepCtr_stepped (k := 15) unchecked unchained
      refine ⟨_, stepped, next_unitNext ready (same.trans (stands_stepCtr _ _ _)) (fired.trans ?_)⟩
      rw [autoStep_one, if_pos auto, doStep_setUnit noFault]

end Sys2Proof.Proofs

/-! PROOFS. LOOP, CSTEP and BRM: a counter steps, or a marker is judged, and the sequencer goes on or jumps. -/
namespace Sys2Proof.Proofs
open Sys2Proof Machine Safety Laws

/-! ## Taking the head of an input strand (R122, R123, R207) -/

section
variable {q : InStrand} {x : KUnit} {u i : Nat} {s : State}

@[simp] theorem pop_fromLink : q.pop.fromLink = q.fromLink := by
  unfold InStrand.pop
  split <;> rfl

/-- A marker leaves its strand, and no tile loses a beat. -/
theorem pop_of_marker {m : BitVec 16} (head : headOf q = .marker m) : q.pop = { q with queue := q.queue.tail } := by
  unfold headOf at head
  split at head <;> simp_all [InStrand.pop, Entry.isBeat]
  split at head <;> cases head

/-- A beat of no tile that is still arriving leaves its strand. -/
theorem pop_of_beat {b : Beat} {h : Option Rec64} {t : List Entry} (head : q.queue = .beat b h :: t) (whole : q.arr = none) :
    q.pop = { q with queue := t } := by
  simp only [InStrand.pop, head, whole, Bool.and_false, Bool.false_eq_true, if_false]

/-- No link feeds the strand, so that taking its head changes the strand alone. -/
theorem takeHead_unlinked (unlinked : (getIn (getUnit s u) i).fromLink = none) :
    takeHead u i s = setUnit u (setIn i (getIn (getUnit s u) i).pop (getUnit s u)) s := by
  have unfed : (getIn (setIn i (getIn (getUnit s u) i).pop (getUnit s u)) i).fromLink = none := by
    rw [getIn, setIn, tgetD_tset_self, pop_fromLink, unlinked]
  simp only [takeHead, modUnit, getUnit_setUnit, unfed]

end

/-! ## LOOP, CSTEP and BRM (R118, R120, R130) -/

/-- A unit with the loop-end marker of counter `n` in its strand queue. -/
def loopMarked (n : Nat) (out : BitVec 8) (y : KUnit) : KUnit :=
  { y with strandQ := y.strandQ ++ [newOp y (.mark out (BitVec.ofNat 16 (0x1000 + n)))], issued := y.issued + 1 }

/-- A LOOP whose step no checked counter refuses: it falls through when the counter wraps, and jumps else. -/
theorem loopStep_eq {u n target : Nat} {out : BitVec 8} {mark : Bool} {s : State} {y : KUnit} {wraps : Bool}
    (room : mark = true → (getUnit s u).strandQ.length < 4) (stepped : stepCtr 16 n (getUnit s u) = (y, wraps, none)) :
    loopStep u n target out mark s =
      (if wraps then retire u (setUnit u (if mark then loopMarked n out y else y) s) else goTo u target (setUnit u y s), []) := by
  have hstep : doStep u n s = (wraps, false, setUnit u y s) := by
    rw [doStep_eq (by rw [stepped]), stepped]
  rw [loopStep, if_neg]
  · cases wraps <;> cases mark <;> simp [hstep, modUnit, loopMarked]
  · intro full
    simp only [Bool.and_eq_true, decide_eq_true_eq] at full
    obtain ⟨⟨⟨marked, -⟩, -⟩, queued⟩ := full
    exact absurd (room marked) (Nat.not_lt.2 queued)

/-- A CSTEP that no checked counter refuses. -/
theorem cstepStep_eq {u n : Nat} {s : State} (free : (stepCtr 16 n (getUnit s u)).2.2 = none) :
    cstepStep u n s = (retire u (setUnit u (stepCtr 16 n (getUnit s u)).1 s), []) := by
  simp only [cstepStep, doStep_eq free, Bool.false_eq_true, if_false]

/-- A BRM on a marker of no reserved type (R130). -/
theorem brmStep_marker {u i target type arg : Nat} {keep argm : Bool} {m : BitVec 16} {s : State}
    (head : headOf (getIn (getUnit s u) i) = .marker m) (known : markerReserved m = false) :
    brmStep u i target type keep argm arg s =
      (if m.toNat / 4096 = type ∧ (argm = true → m.toNat % 4096 = arg)
        then goTo u target (if keep then s else takeHead u i s) else retire u (if keep then s else takeHead u i s), []) := by
  have hit : (decide (m.toNat / 4096 = type) && (!argm || decide (m.toNat % 4096 = arg))) = true ↔
      m.toNat / 4096 = type ∧ (argm = true → m.toNat % 4096 = arg) := by
    cases argm <;> simp
  simp only [brmStep, head, known, Bool.false_eq_true, if_false, hit]

/-- A BRM that leaves its unit as `y` jumps when it is taken, and retires else. -/
theorem judged_branch {i : Instr} {u a : Nat} {s : State} {y : KUnit} {hit : Prop} [Decidable hit] (ready : Ready i u s)
    (inside : a < (getUnit s u).program.length) (same : Stands (getUnit s u) y) :
    judged u s (if hit then goTo u a (setUnit u y s) else retire u (setUnit u y s)) =
      if hit then unitAt u a y s else unitNext u y s := by
  rw [goTo_of_stands ready.1 inside same, retire_of_stands ready same]
  split <;> rfl

/-- Settles O2: each instruction leaves its unit with other counters or another strand, and goes on or jumps. -/
theorem branchInstructionsComplete : Obligations.BranchInstructionsComplete := by
  intro u s
  refine ⟨?halt, ?jump, ?loop, ?cstep, ?brm⟩
  case halt =>
    intro can
    exact next_issue_done can rfl
  case jump =>
    intro a can inside
    exact next_issue_done can (congrArg (·, []) (goTo_eq (canIssue_not_stopped can) inside))
  case loop =>
    intro out a n mark ready x c inside unchecked unchained room
    obtain ⟨stepped, noFault, wraps⟩ := stepCtr_stepped (k := 15) (x := x) (n := n.toNat) (fun h => unchecked h.2) unchained
    have fired := loopStep_eq (target := a.toNat) (out := out) (s := s) (n := n.toNat) room (Prod.ext rfl (Prod.ext rfl noFault))
    have same : Stands x (stepCtr 16 n.toNat x).1 := stands_stepCtr _ _ _
    refine ⟨_, stepped, ?_⟩
    by_cases passes : Passes c
    · rw [if_pos passes]
      refine next_unitNext ready ?_ (fired.trans (by rw [if_pos (wraps.2 passes)]; rfl))
      cases mark <;> exact same
    · rw [if_neg passes]
      exact next_unitAt ready.1 inside same (fired.trans (by rw [if_neg (mt wraps.1 passes)]))
  case cstep =>
    intro n ready x c unchecked
    refine ⟨?_, ?_⟩
    · intro unchained
      obtain ⟨stepped, noFault, -⟩ := stepCtr_stepped (k := 15) unchecked unchained
      exact ⟨_, stepped, next_unitNext ready (stands_stepCtr _ _ _) (cstepStep_eq noFault)⟩
    · intro passes chain hn y stepped d unchecked' unchained
      obtain ⟨stepped', noFault, -⟩ := stepCtr_stepped (k := 14) unchecked' unchained
      have both := stepCtr_chain (k := 15) passes (fun e => unchecked ⟨passes, e⟩) chain hn stepped
      refine ⟨_, stepped', next_unitNext ready ?_ ((cstepStep_eq (by rw [both]; exact noFault)).trans (by rw [both]))⟩
      have same := stands_stepCtr 16 n.toNat x
      rw [both] at same
      exact same
  case brm =>
    intro inp a type keep argm arg m i x q hit ready inside head known
    have fired := brmStep_marker (target := a.toNat) (type := type.toNat) (keep := keep) (argm := argm) (arg := arg.toNat)
      head known
    have done := next_issue_done (f := fun u s => brmStep u (maskOne inp) a.toNat type.toNat keep argm arg.toNat s)
      ready.1 fired
    refine ⟨fun kept => ?_, fun taken unlinked => ?_, fun taken => ?_⟩
    · subst kept
      refine done.trans (congrArg Host.Outcome.next ?_)
      rw [if_pos rfl, goTo_eq (canIssue_not_stopped ready.1) inside, setUnit_getUnit_retire ready]
      split <;> rfl
    · subst taken
      refine done.trans (congrArg Host.Outcome.next ?_)
      rw [if_neg Bool.false_ne_true, takeHead_unlinked unlinked, pop_of_marker head]
      exact judged_branch ready inside (stands_setIn _ _ _)
    · subst taken
      exact done

end Sys2Proof.Proofs

/-! PROOFS. Semaphores, and the instructions that put a unit to wait at a barrier or on a claim. -/
namespace Sys2Proof.Proofs
open Sys2Proof Machine Safety Laws

/-! ## Semaphores (R140, R148, R209) -/

/-- `y` is `x` but for retained copies that it has let go, and its count of waits. -/
def LetsGo (x y : KUnit) : Prop :=
  ∃ r k, y = { x with retained := r, retCount := k } ∧ ∀ e, e ∈ r → e ∈ x.retained

theorem LetsGo.refl (x : KUnit) : LetsGo x x := ⟨x.retained, x.retCount, rfl, fun _ h => h⟩

theorem releaseRetained_letsGo (sem : Nat) (x : KUnit) : LetsGo x (releaseRetained sem x) := by
  refine List.foldlRecOn (motive := LetsGo x) _ _ (LetsGo.refl x) fun y hy sg _ => ?_
  obtain ⟨r, k, rfl, sub⟩ := hy
  dsimp only
  split
  · split
    · exact ⟨r, k, rfl, sub⟩
    · split
      · exact ⟨r, _, rfl, sub⟩
      · exact ⟨_, _, rfl, fun e he => sub e (List.mem_of_mem_filter he)⟩
  · exact ⟨r, k, rfl, sub⟩

/-- SEM_WAIT on a semaphore that is not zero. -/
theorem semWaitStep_eq {u n : Nat} {s : State} (some_ : semOf (getUnit s u) n ≠ 0) :
    semWaitStep u n s = (retire u (setUnit u (releaseRetained n
      { getUnit s u with sems := tset (getUnit s u).sems n (semOf (getUnit s u) n - 1) }) s), []) := by
  simp only [semWaitStep, some_, if_false]

/-- The signals that SEM_SIGNAL sends along a route. -/
def routeSignals (sem : Nat) (w : OutStrand) : List SemRef :=
  w.dests.filterMap fun d => match d with
    | .strand v _ => some { unit := v, sem := sem }
    | .link _ _ => none

/-- SEM_SIGNAL with no access of T1 or T2 queued. -/
theorem semSignalStep_eq {u sem route : Nat} {s : State} (free : devPending (getUnit s u) = false) :
    semSignalStep u sem route s =
      let t := sendSignals (routeSignals sem (getOut (getUnit s u) route)) s
      (retire u (if (getOut (getUnit s u) route).device then deviceSignal u sem t else t), []) := by
  simp only [semSignalStep, free, Bool.false_eq_true, if_false]
  rfl

/-- MWAIT when no stored move carries the tag and no store of the unit is queued. -/
theorem mwaitStep_eq {u : Nat} {tag : BitVec 16} {s : State} (closed : tag ∉ (getUnit s u).moveTags)
    (noStore : ∀ o ∈ (getUnit s u).moveQ, devWrites (getUnit s u) o.op = []) : mwaitStep u tag s = (retire u s, []) := by
  have quiet : ((getUnit s u).moveQ.any fun o => !(devWrites (getUnit s u) o.op).isEmpty) = false :=
    List.any_eq_false.2 fun o ho => by simp [noStore o ho]
  have done : (getUnit s u).moveTags.contains tag = false := by simpa using closed
  simp only [mwaitStep, quiet, done, Bool.false_eq_true, if_false]

/-- Settles O3: the wait takes one and lets go of retained copies, the signal sets out along its route, and one that
arrives adds one or is dropped. -/
theorem semaphoreInstructionsComplete : Obligations.SemaphoreInstructionsComplete := by
  intro u s
  refine ⟨?wait, ?signal, ?mwait, ?arrive⟩
  case wait =>
    intro n ready x some_
    have fired := semWaitStep_eq some_
    generalize hy : ({ x with sems := tset x.sems n.toNat (semOf x n.toNat - 1) } : KUnit) = y at fired
    obtain ⟨r, k, released, sub⟩ := releaseRetained_letsGo n.toNat y
    have unreleased : x.segs = [] → releaseRetained n.toNat y = y := fun none_ => by
      rw [releaseRetained, ← hy]
      simp only [none_, List.foldl_nil]
    subst hy
    refine ⟨r, k, sub, fun none_ => ?_, next_unitNext ready ⟨rfl, rfl, rfl⟩ (fired.trans (by rw [released]))⟩
    have same := released.symm.trans (unreleased none_)
    exact ⟨congrArg KUnit.retained same, congrArg KUnit.retCount same⟩
  case signal =>
    intro n o ready x w refs s' free
    have fired := semSignalStep_eq (sem := n.toNat) (route := o.toNat) free
    refine ⟨fun inside => ?_, fun device => ?_⟩
    · refine next_issue_done ready.1 (fired.trans (congrArg (·, []) ?_))
      rw [if_neg (Bool.eq_false_iff.1 inside)]
      exact setUnit_getUnit_retire (s := s') ready
    · refine next_issue_done ready.1 (fired.trans (congrArg (·, []) ?_))
      rw [if_pos device]
      rfl
  case mwait =>
    intro tag ready closed noStore
    exact next_issue_done ready.1 ((mwaitStep_eq closed noStore).trans (congrArg (·, []) (setUnit_getUnit_retire ready)))
  case arrive =>
    intro n x r s' sent
    have arrives : exec (.semaphoreSignalArrive u n) s = .next (signalArrive u.toNat n.toNat s') :=
      congrArg Host.Outcome.next (if_pos (List.contains_iff_mem.2 sent))
    have unit : getUnit s' u.toNat = x := rfl
    refine ⟨fun halted => arrives.trans ?_, fun live below => arrives.trans ?_⟩
    · simp only [signalArrive, unit, halted, if_true]
    · have notFull : (semOf x n.toNat).toNat ≠ 255 := Nat.ne_of_lt below
      simp only [signalArrive, unit, live, Bool.false_eq_true, if_false, notFull]

/-! ## Barriers and claims (R140, R164 to R168) -/

/-- No barrier clashes where all units share the ID of one, or one that is not halted is at none. -/
theorem barrierClash_of_open {p id : Nat} {t : State}
    (open_ : allArrived t p id = true ∨ ∃ v ∈ barrierUnits t p, (getUnit t v).halted = false ∧ barrierId (getUnit t v) = none) :
    barrierClash p t = t := by
  rw [barrierClash]
  cases hus : (barrierUnits t p).filter fun u => !(getUnit t u).halted with
  | nil => rfl
  | cons u us =>
    dsimp only
    cases hid : barrierId (getUnit t u) with
    | none => rfl
    | some k =>
      have first : u ∈ (barrierUnits t p).filter fun u => !(getUnit t u).halted := hus ▸ List.mem_cons_self
      obtain ⟨member, live⟩ := List.mem_filter.1 first
      rw [Bool.not_eq_true'] at live
      refine if_neg fun clash => ?_
      simp only [Bool.and_eq_true, Bool.not_eq_true'] at clash
      obtain ⟨waiting, unshared⟩ := clash
      rcases open_ with shared | ⟨v, hv, running, free⟩
      · have hk : k = id := by simpa [live, hid] using List.all_eq_true.1 shared u member
        rw [hk, shared] at unshared
        cases unshared
      · have hmem : v ∈ u :: us := hus ▸ List.mem_filter.2 ⟨hv, by rw [running]; rfl⟩
        have hw := List.all_eq_true.1 waiting v hmem
        rw [free] at hw
        cases hw

/-- A unit that waits at a barrier. -/
def atBarrier (id : Nat) (inp out : BitVec 8) (x : KUnit) : KUnit := { x with wait := .barrier id inp out false }

theorem barrierStep_eq {u id : Nat} {inp out : BitVec 8} {s t : State}
    (ht : t = setUnit u (atBarrier id inp out (getUnit s u)) s) (clean : barrierMarker (getUnit t u) = none)
    (open_ : ∀ p, panelOf s u = some p → allArrived t p id = true ∨
      ∃ v ∈ barrierUnits t p, (getUnit t v).halted = false ∧ barrierId (getUnit t v) = none) :
    barrierStep u id inp out s = (t, [4]) := by
  have hpanel : panelOf t u = panelOf s u := by rw [ht]; rfl
  have hstep : modUnit u (fun x => { x with wait := .barrier id inp out false }) s = t := ht.symm
  rw [barrierStep, hstep, clean, hpanel]
  cases h : panelOf s u with
  | none => rfl
  | some p => exact congrArg (·, [4]) (barrierClash_of_open (open_ p h))

theorem claimStep_eq {u n k target : Nat} {s : State} (free : devPending (getUnit s u) = false)
    (declared : (listOf s u k).isSome = true) :
    claimStep u n k target s = ({ setUnit u { getUnit s u with wait := .claim k n target } s with
      claims := tset s.claims (counterOf k) (tgetD s.claims (counterOf k) [] ++ [{ unit := u, list := k, due := true }]) },
      []) := by
  obtain ⟨w, hw⟩ := Option.isSome_iff_exists.1 declared
  simp only [claimStep, free, hw, Bool.false_eq_true, if_false]
  rfl

theorem tget_of_listOf {u k : Nat} {s : State} {w : WorkList} (h : listOf s u k = some w) : tget s.lists k = some w := by
  unfold listOf at h
  split at h
  · split at h
    · rename_i found _
      rw [found, h]
    · cases h
  · cases h

/-- The index that a unit holds completes (R168). -/
theorem completeIdx_held {u k i : Nat} {s : State} {w : WorkList} (listed : tget s.lists k = some w)
    (held : tget w.held u = some i) :
    completeIdx u k s = wakeClaims k { s with lists := tset s.lists k { w with held := tdel w.held u } } := by
  simp only [completeIdx, listed, held, Option.isSome_some, if_true]

theorem doneTileStep_eq {u n k : Nat} {s : State} {w : WorkList} (free : devPending (getUnit s u) = false)
    (declared : listOf s u k = some w) (held : tget w.held u = some (ctrVal (getUnit s u) n)) :
    doneTileStep u n k s =
      (retire u (wakeClaims k { s with lists := tset s.lists k { w with held := tdel w.held u } }), []) := by
  simp only [doneTileStep, free, declared, held, Bool.false_eq_true, if_false, if_true,
    completeIdx_held (tget_of_listOf declared) held]

/-- Settles O4: BARRIER and CLAIM put their unit to wait, DONE_TILE ends a holding and retires. -/
theorem barriersAndClaimsWait : Obligations.BarriersAndClaimsWait := by
  intro u s
  refine ⟨?barrier, ?claim, ?done⟩
  case barrier =>
    intro inp out id can t clean open_
    exact congrArg Host.Outcome.next ((issue_ready can).trans (congrArg (tally u.toNat s) (barrierStep_eq rfl clean open_)))
  case claim =>
    intro n region l a k c can free declared
    exact next_issue_done can (claimStep_eq free declared)
  case done =>
    intro n region l w k c x ready free declared held
    refine next_issue_done ready.1 ((doneTileStep_eq free declared held).trans (congrArg (·, []) ?_))
    generalize ht : wakeClaims k { s with lists := tset s.lists k { w with held := tdel w.held u.toNat } } = t
    have unit : getUnit t u.toNat = x := by rw [← ht]; rfl
    rw [retire_ready (by rw [unit]; exact canIssue_not_stopped ready.1) (by rw [unit]; exact ready.2), unit, ← ht]
    rfl

end Sys2Proof.Proofs

/-! PROOFS. A barrier that every unit has reached lets them go. -/
namespace Sys2Proof.Proofs
open Sys2Proof Machine Safety Laws

/-! ## The release of a barrier (R140, R154) -/

theorem getUnit_modUnit {u v : Nat} {f : KUnit → KUnit} {s : State} :
    getUnit (modUnit u f s) v = if v = u then f (getUnit s u) else getUnit s v := by
  split
  next h => rw [h, modUnit, getUnit_setUnit]
  next h => rw [modUnit, getUnit_setUnit_ne h]

/-- Steps that each change one unit, and what they count: a unit among those named is changed as by one step, where a
second step changes it no more. -/
theorem foldl_units {g : State → Nat → State} {f : KUnit → KUnit} {ok : KUnit → Prop} (idem : ∀ x, f (f x) = f x)
    (keeps : ∀ x, ok x → ok (f x))
    (step : ∀ t u, ok (getUnit t u) → g t u = { t with units := (g t u).units, ctrs := (g t u).ctrs } ∧
      ∀ v, getUnit (g t u) v = if v = u then f (getUnit t u) else getUnit t v)
    (us : List Nat) (s : State) (all : ∀ u ∈ us, ok (getUnit s u)) :
    us.foldl g s = { s with units := (us.foldl g s).units, ctrs := (us.foldl g s).ctrs } ∧
      ∀ v, getUnit (us.foldl g s) v = if v ∈ us then f (getUnit s v) else getUnit s v := by
  induction us generalizing s with
  | nil => exact ⟨rfl, fun v => rfl⟩
  | cons u us ih =>
    obtain ⟨frame, units⟩ := step s u (all u List.mem_cons_self)
    have rest : ∀ v ∈ us, ok (getUnit (g s u) v) := fun v hv => by
      rw [units]
      split
      · exact keeps _ (all u List.mem_cons_self)
      · exact all v (List.mem_cons_of_mem u hv)
    obtain ⟨frame', units'⟩ := ih (g s u) rest
    refine ⟨?_, fun v => ?_⟩
    · rw [List.foldl_cons, frame', frame]
    · rw [List.foldl_cons, units', units]
      by_cases hu : v = u
      · subst hu
        simp [idem]
      · simp [hu]

theorem barrierMet_run (x : KUnit) : (barrierMet x).run = x.run := by
  unfold barrierMet
  split <;> rfl

theorem barrierId_barrierMet (x : KUnit) : barrierId (barrierMet x) = none := by
  unfold barrierMet
  split
  · rfl
  · next other =>
    unfold barrierId
    split
    · next id inp out wait => exact absurd wait (other id inp out)
    · rfl

/-- A unit that waits for no others is not changed. -/
theorem barrierMet_of_free {x : KUnit} (free : barrierId x = none) : barrierMet x = x := by
  unfold barrierMet
  split
  · next id inp out wait =>
    rw [barrierId, wait] at free
    cases free
  · rfl

@[simp] theorem barrierMet_barrierMet (x : KUnit) : barrierMet (barrierMet x) = barrierMet x :=
  barrierMet_of_free (barrierId_barrierMet x)

/-- The units of a panel once its barrier is met. -/
theorem foldl_barrierMet (us : List Nat) (s : State) :
    us.foldl (fun t u => modUnit u barrierMet t) s =
        { s with units := (us.foldl (fun t u => modUnit u barrierMet t) s).units } ∧
      ∀ v, getUnit (us.foldl (fun t u => modUnit u barrierMet t) s) v =
        if v ∈ us then barrierMet (getUnit s v) else getUnit s v := by
  obtain ⟨frame, units⟩ := foldl_units (g := fun t u => modUnit u barrierMet t) (ok := fun _ => True)
    barrierMet_barrierMet (fun _ _ => trivial) (fun t u _ => ⟨rfl, fun v => getUnit_modUnit⟩) us s (fun _ _ => trivial)
  have counts : (us.foldl (fun t u => modUnit u barrierMet t) s).ctrs = s.ctrs :=
    foldl_view (view := State.ctrs) (f := fun t u => modUnit u barrierMet t) (fun _ _ => rfl) us
  refine ⟨?_, units⟩
  rw [counts] at frame
  exact frame

theorem barrierUnits_congr {s t : State} {p : Nat} (panels : t.panels = s.panels)
    (runs : ∀ u, (getUnit t u).run = (getUnit s u).run) : barrierUnits t p = barrierUnits s p := by
  simp only [barrierUnits, panelUnits, getPanel, panels, runs]

/-- No barrier clashes where no unit waits for the others any more. -/
theorem barrierClash_of_met {p : Nat} {t : State} (met : ∀ u ∈ barrierUnits t p, barrierId (getUnit t u) = none) :
    barrierClash p t = t := by
  rw [barrierClash]
  cases hus : (barrierUnits t p).filter fun u => !(getUnit t u).halted with
  | nil => rfl
  | cons u us =>
    have first : u ∈ (barrierUnits t p).filter fun u => !(getUnit t u).halted := hus ▸ List.mem_cons_self
    simp only [met u (List.mem_filter.1 first).1]

/-- A barrier that is ready binds each unit to its own strands, and completes where these allow it. -/
theorem exec_barrierRelease {panel : BitVec 4} {s : State} {id : Nat} (clean : badBarrier s panel.toNat = none)
    (ready : barrierReached s panel.toNat = some id) :
    exec (.barrierRelease panel) s = .next ((barrierUnits s panel.toNat).foldl
      (fun t u => if barrierHere t u then judged u t (barrierFinish u t) else t)
      ((barrierUnits s panel.toNat).foldl (fun t u => modUnit u barrierMet t) s)) := by
  obtain ⟨frame, units⟩ := foldl_barrierMet (barrierUnits s panel.toNat) s
  have hmeet : meetBarrier panel.toNat s = (barrierUnits s panel.toNat).foldl (fun t u => modUnit u barrierMet t) s := by
    rw [meetBarrier, ready]
  generalize (barrierUnits s panel.toNat).foldl (fun t u => modUnit u barrierMet t) s = t at frame units hmeet
  have same : barrierUnits t panel.toNat = barrierUnits s panel.toNat := by
    refine barrierUnits_congr (by rw [frame]) fun u => ?_
    rw [units]
    split
    · exact barrierMet_run _
    · rfl
  have open_ : barrierClash panel.toNat t = t := barrierClash_of_met fun u hu => by
    rw [units, if_pos (same ▸ hu)]
    exact barrierId_barrierMet _
  simp only [exec, execBarrierRelease, clean, hmeet, open_, same]
  rfl

/-- A unit that its barrier lets go on at its next instruction. -/
def barrierPassed (x : KUnit) : KUnit :=
  match x.wait with
  | .barrier _ _ _ true => { x with wait := .none, pc := x.pc + 1, cycle := x.cycle + 1 }
  | _ => x

/-- A unit that names no strand where its barrier holds it, and has a next instruction. -/
def Strandless (x : KUnit) : Prop :=
  ∀ k inp out, x.wait = .barrier k inp out true → inp = 0 ∧ out = 0 ∧ x.run = .running ∧ x.pc + 1 < x.program.length

theorem barrierPassed_of_free {x : KUnit} (h : ∀ k inp out, x.wait ≠ .barrier k inp out true) : barrierPassed x = x := by
  unfold barrierPassed
  split
  · next k inp out wait => exact absurd wait (h k inp out)
  · rfl

theorem barrierPassed_wait (x : KUnit) (k : Nat) (inp out : BitVec 8) : (barrierPassed x).wait ≠ .barrier k inp out true := by
  unfold barrierPassed
  split
  · exact nofun
  · next other => exact other k inp out

/-- A barrier at a unit that names no strands ends its wait. -/
theorem barrierFinish_strandless {u k : Nat} {t : State} (wait : (getUnit t u).wait = .barrier k 0 0 true)
    (run : (getUnit t u).run = .running) (more : (getUnit t u).pc + 1 < (getUnit t u).program.length) :
    barrierHere t u = true ∧
      barrierFinish u t = setUnit u { getUnit t u with wait := .none, pc := (getUnit t u).pc + 1 } t := by
  have noIn : maskBits 8 (0 : BitVec 8).toNat = [] := by decide
  have noOut : outList (0 : BitVec 8) = [] := noIn
  refine ⟨?_, ?_⟩
  · simp only [barrierHere, wait, noIn, outsRoom, outLinks, noOut, List.all_nil, List.flatMap_nil, Bool.and_self]
  · simp only [barrierFinish, wait, noIn, putOuts, noOut, List.foldl_nil]
    exact retire_setUnit (by rw [run]; exact nofun) more

theorem barrierStep_strandless {t : State} {u : Nat} (ok : Strandless (getUnit t u)) :
    let t' := if barrierHere t u then judged u t (barrierFinish u t) else t
    t' = { t with units := t'.units, ctrs := t'.ctrs } ∧
      ∀ v, getUnit t' v = if v = u then barrierPassed (getUnit t u) else getUnit t v := by
  intro t'
  by_cases held : ∃ k inp out, (getUnit t u).wait = .barrier k inp out true
  · obtain ⟨k, inp, out, wait⟩ := held
    obtain ⟨rfl, rfl, run, more⟩ := ok k inp out wait
    obtain ⟨here, finish⟩ := barrierFinish_strandless wait run more
    have passed : barrierPassed (getUnit t u) =
        { getUnit t u with wait := .none, pc := (getUnit t u).pc + 1, cycle := (getUnit t u).cycle + 1 } := by
      simp only [barrierPassed, wait]
    have judgedEq : judged u t (barrierFinish u t) =
        { setUnit u (barrierPassed (getUnit t u)) t with ctrs := (judged u t (barrierFinish u t)).ctrs } := by
      rw [passed, finish]
      refine (tally_eq u t _).trans ?_
      rw [modUnit_setUnit]
      rfl
    rw [show t' = _ from if_pos here, judgedEq]
    refine ⟨rfl, fun v => ?_⟩
    exact (getUnit_modUnit (f := fun _ => barrierPassed (getUnit t u)) (s := t))
  · have free : ∀ k inp out, (getUnit t u).wait ≠ .barrier k inp out true := fun k inp out wait => held ⟨k, inp, out, wait⟩
    have notHere : barrierHere t u = false := by
      unfold barrierHere
      split
      · next k inp out wait => exact absurd wait (free k inp out)
      · rfl
    rw [show t' = t from if_neg (Bool.eq_false_iff.1 notHere)]
    refine ⟨rfl, fun v => ?_⟩
    rw [barrierPassed_of_free free]
    split
    · next h => rw [h]
    · rfl

/-- A unit that waits for the others goes on once the barrier is met and passed; one at no barrier is as it was. -/
theorem barrierPassed_barrierMet {x : KUnit} (unmet : ∀ k inp out, x.wait ≠ .barrier k inp out true) :
    barrierPassed (barrierMet x) = if (barrierId x).isSome
      then { x with wait := .none, pc := x.pc + 1, cycle := x.cycle + 1 } else x := by
  unfold barrierMet
  split
  · next k inp out wait => simp only [barrierPassed, barrierId, wait, Option.isSome_some, if_true]
  · next other =>
    have noId : barrierId x = none := by
      unfold barrierId
      split
      · next k inp out wait => exact absurd wait (other k inp out)
      · rfl
    rw [barrierPassed_of_free unmet, noId]
    rfl

/-- Settles O5: the barrier binds each waiting unit to its own strands, and lets those go that name none. -/
theorem barrierReleaseCompletes : Obligations.BarrierReleaseCompletes := by
  intro panel s id us clean ready
  have released := exec_barrierRelease clean ready
  refine ⟨released, fun strandless => ⟨_, released, ?_⟩⟩
  obtain ⟨metFrame, met⟩ := foldl_barrierMet us s
  have unmet : ∀ u ∈ us, ∀ k inp out, (getUnit s u).wait ≠ .barrier k inp out true := fun u hu k inp out wait => by
    obtain ⟨-, -, unmet, -⟩ := strandless u hu k inp out true wait
    cases unmet
  have ok : ∀ u ∈ us, Strandless (getUnit (us.foldl (fun t u => modUnit u barrierMet t) s) u) := by
    intro u hu k inp out
    rw [met, if_pos hu]
    unfold barrierMet
    split
    · next k' inp' out' wait =>
      intro same
      cases same
      obtain ⟨hin, hout, -, run, more⟩ := strandless u hu _ _ _ _ wait
      exact ⟨hin, hout, run, more⟩
    · exact fun wait => absurd wait (unmet u hu k inp out)
  obtain ⟨frame, units⟩ := foldl_units (f := barrierPassed) (ok := Strandless)
    (fun x => barrierPassed_of_free (barrierPassed_wait x)) (fun x _ k inp out wait => absurd wait (barrierPassed_wait x k inp out))
    (fun t u => barrierStep_strandless) us _ ok
  refine ⟨?_, fun v => ?_⟩
  · refine frame.trans ?_
    rw [metFrame]
  · refine (units v).trans ?_
    rw [met]
    by_cases hv : v ∈ us
    · simp only [hv, if_true, true_and]
      exact barrierPassed_barrierMet (unmet v hv)
    · simp only [hv, if_false, false_and]

end Sys2Proof.Proofs

/-! PROOFS. A work counter answers the claim of its lowest unit. -/
namespace Sys2Proof.Proofs
open Sys2Proof Machine Safety Laws

/-! ## The answer to a claim (R166 to R170) -/

theorem completeIdx_units (u k : Nat) (s : State) : (completeIdx u k s).units = s.units := by
  unfold completeIdx
  split
  · rfl
  · split <;> rfl

theorem startEpoch_units (k : Nat) (w : BitVec 64) (s : State) : (startEpoch k w s).units = s.units := by
  unfold startEpoch
  split <;> rfl

theorem applyParked_units (k : Nat) (s : State) : (applyParked k s).units = s.units := by
  unfold applyParked
  split
  · split
    · split
      · exact startEpoch_units _ _ _
      · rfl
    · rfl
  · rfl

theorem getUnit_of_units {s t : State} (same : t.units = s.units) (u : Nat) : getUnit t u = getUnit s u := by
  rw [getUnit, same, getUnit]

section
variable {u k n target : Nat} {x : KUnit} {t : State} (hx : getUnit t u = x) (waits : x.wait = .claim k n target)
  (run : x.run = .running)
include hx waits run

/-- An index goes into the unit's counter, and the unit goes on at its next instruction (R140). -/
theorem claimAnswer_index (v : Nat) (more : x.pc + 1 < x.program.length) :
    claimAnswer u (some v) t = setUnit u { setCtr n (withValue (getCtr x n) (BitVec.ofNat 32 v))
      { x with wait := .none } with pc := x.pc + 1 } t := by
  have running : x.run ≠ .stopped := by rw [run]; exact nofun
  subst hx
  simp only [claimAnswer, waits, modUnit, getUnit_setUnit, setUnit_setUnit]
  exact retire_setUnit running more

/-- EMPTY: the unit jumps to its TARGET (R140). -/
theorem claimAnswer_empty (inside : target < x.program.length) :
    claimAnswer u none t = setUnit u { x with wait := .none, pc := target } t := by
  have running : x.run ≠ .stopped := by rw [run]; exact nofun
  subst hx
  simp only [claimAnswer, waits, modUnit]
  rw [goTo_eq (by simpa using running) (by simpa using inside), getUnit_setUnit, setUnit_setUnit]

end

section
variable {q : Claim} {s s1 : State} {l : WorkList}

/-- The claims at a counter without those of the unit it serves. -/
def otherClaims (q : Claim) (s : State) : List Claim :=
  (tgetD s.claims (counterOf q.list) []).filter (·.unit != q.unit)

/-- A state in which index `v` of the list, as `l` leaves it, has been given to the unit of a claim. -/
def indexGiven (q : Claim) (v : Nat) (l : WorkList) (s : State) : State :=
  bump (.claimsServed q.list) 1 { s with
    claims := tset s.claims (counterOf q.list) (otherClaims q s)
    lists := tset s.lists q.list { l with held := tset l.held q.unit v } }

variable (begun : applyParked q.list (completeIdx q.unit q.list s) = s1) (listed : tget s1.lists q.list = some l)
include begun listed

theorem serveClaim_requeued {v : Nat} {t : List Nat} (waiting : l.requeue = v :: t) :
    serveClaim q s = (claimAnswer q.unit (some v) (indexGiven q v { l with requeue := t } s1), []) := by
  simp only [serveClaim, begun, listed, waiting]
  rfl

variable (none_ : l.requeue = [])
include none_

theorem serveClaim_fresh (left : l.next < l.count.toNat) :
    serveClaim q s = (claimAnswer q.unit (some l.next) (indexGiven q l.next { l with next := l.next + 1 } s1), []) := by
  simp only [serveClaim, begun, listed, none_, left, if_true]
  rfl

variable (out : l.count.toNat ≤ l.next)
include out

theorem serveClaim_empty (drained : l.drained = true) : serveClaim q s =
    (claimAnswer q.unit none { s1 with claims := tset s1.claims (counterOf q.list) (otherClaims q s1) }, []) := by
  simp only [serveClaim, begun, listed, none_, Nat.not_lt.2 out, drained, if_false, if_true]
  rfl

theorem serveClaim_wait (open_ : l.drained = false) : serveClaim q s =
    ({ s1 with claims := tset s1.claims (counterOf q.list) (otherClaims q s1 ++ [{ q with due := false }]) }, [11]) := by
  simp only [serveClaim, begun, listed, none_, Nat.not_lt.2 out, open_, Bool.false_eq_true, if_false]
  rfl

end

theorem exec_claimServe {region : Bool} {i : BitVec 6} {s : State} {q : Claim} {f : Fired}
    (next : nextClaim s (if region then 64 + i.toNat else i.toNat) = some q) (served : serveClaim q s = f) :
    exec (.claimServe region i) s = .next (tally q.unit s f) := by
  simp only [exec, execClaimServe, next, served]

/-- Settles O7: the branch of R166 that the list is in gives the answer, and the answer is the unit's next state. -/
theorem claimServeCompletes : Obligations.ClaimServeCompletes := by
  intro s region i q c next k s1 rest x l n target listed waits run more inside free given
  have unit : getUnit s1 q.unit = x := getUnit_of_units ((applyParked_units _ _).trans (completeIdx_units _ _ _)) _
  have gives (v : Nat) (l' : WorkList) (held : l'.held = l.held) :
      tally q.unit s (claimAnswer q.unit (some v) (indexGiven q v l' s1), []) = given v l' := by
    rw [claimAnswer_index (x := x) (t := indexGiven q v l' s1) unit waits run v more, indexGiven, held]
    rfl
  refine ⟨fun v t waiting => ?_, fun none_ left => ?_, fun none_ out drained => ?_, fun none_ out open_ => ?_⟩
  · exact (exec_claimServe next (serveClaim_requeued rfl listed waiting)).trans (congrArg Host.Outcome.next (gives v _ rfl))
  · exact (exec_claimServe next (serveClaim_fresh rfl listed none_ left)).trans
      (congrArg Host.Outcome.next (gives l.next _ rfl))
  · have answered := claimAnswer_empty (x := x) (t := { s1 with claims := tset s1.claims (counterOf k) rest }) unit waits run
      inside
    exact (exec_claimServe next (serveClaim_empty rfl listed none_ out drained)).trans
      (congrArg (fun t => Host.Outcome.next (tally q.unit s (t, []))) answered)
  · exact exec_claimServe next (serveClaim_wait rfl listed none_ out open_)

end Sys2Proof.Proofs

/-! PROOFS. An access of a unit that goes through, and PROB. -/
namespace Sys2Proof.Proofs
open Sys2Proof Machine Safety Laws

/-! ## Accesses of units that go through (R186, R190, R199) -/

/-- A state without what a read may leave of its own: ages of hanks, read-cache lines and counts. -/
def seen (s : State) : State := { s with hanks := [], stackTbl := [], ctrs := [] }

theorem eq_of_seen {s t : State} (same : seen t = seen s) :
    t = { s with hanks := t.hanks, stackTbl := t.stackTbl, ctrs := t.ctrs } :=
  congrArg (fun x : State => { x with hanks := t.hanks, stackTbl := t.stackTbl, ctrs := t.ctrs }) same

@[simp] theorem seen_touch {a n : Nat} {s : State} : seen (touch a n s) = seen s := by
  unfold touch
  split
  · refine foldl_view (view := seen) (fun t k => ?_) _
    unfold modHank
    split <;> rfl
  · rfl

@[simp] theorem seen_lookCtr {c : Nat → Ctr} {o : Option Nat} {s : State} : seen (lookCtr c o s) = seen s := by
  cases o <;> rfl

@[simp] theorem seen_setStack {k : Nat} {x : Stack} {s : State} : seen (setStack k x s) = seen s := rfl

@[simp] theorem seen_cacheLook {o : Option Nat} {mask a : Nat} {s : State} : seen (cacheLook o mask a s) = seen s := by
  unfold cacheLook
  dsimp only
  split
  · simp
  · split <;> simp

@[simp] theorem seen_cacheReads {p a n : Nat} {s : State} : seen (cacheReads p a n s) = seen s :=
  foldl_view (view := seen) (fun _ _ => seen_cacheLook) _

theorem followTile_go {p k off n : Nat} {c : Cast} {g : Seg} {ps : List (Nat × Nat)} {s s1 : State}
    (h : followTile p c g off n s = (k, .go ps s1)) : s1 = s := by
  unfold followTile at h
  split at h
  · next follows =>
    obtain rfl := followPieces_go follows
    exact followPieces_go (congrArg Prod.snd h)
  · next stops => exact absurd (congrArg Prod.snd h) (stops ps s1)

/-- What a state is once an access has cleared its unit's record of a reissue and touched what it reads. -/
theorem touched_of_seen {u : Nat} {s t : State}
    (same : seen t = seen (modUnit u (fun x => { x with lastNoHome := none }) s)) : Touched u s t := by
  have frame := eq_of_seen same
  refine ⟨?_, fun v => ?_⟩
  · rw [frame]
    rfl
  · exact (getUnit_of_units (congrArg State.units frame) v).trans (getUnit_modUnit (f := fun x => { x with lastNoHome := none }))

/-- An access that goes through, of a unit with no write held, is one of a segment of its panel, and leaves no more than
what accesses leave. -/
theorem unitAccess_go {u pc sgi off n : Nat} {write : Bool} {s s1 : State} {ps : List (Nat × Nat)}
    (unheld : (getUnit s u).heldAt = []) (h : unitAccess u pc sgi off n write s = .go ps s1) :
    Touched u s s1 ∧ ∃ p c g, panelOf s u = some p ∧ getCast s p = some c ∧ tget (getUnit s u).segs sgi = some g := by
  unfold unitAccess at h
  dsimp only at h
  split at h
  · next p g panel seg =>
    split at h
    · cases h
    · next c cast =>
      refine ⟨?_, p, c, g, panel, cast, seg⟩
      split at h
      · cases h
      · split at h
        · next k ps' s' follows =>
          obtain rfl := followTile_go follows
          rw [unheld, List.find?_nil] at h
          dsimp only at h
          split at h
          · split at h <;> cases h
          · split at h
            · cases h
            · cases h
              refine touched_of_seen (foldl_view (view := seen) (fun t r => ?_) _)
              split <;> simp
        · next stops _ => exact absurd h (stops ps s1)
  · cases h
  · cases h

/-! ## PROB (R160 to R163) -/

theorem getCtr_setCtr_if {x : KUnit} {n k : Nat} {c : RowCtr} :
    getCtr (setCtr n c x) k = if k = n then c else getCtr x k := by
  split
  next h => rw [h, getCtr_setCtr]
  next h => exact tgetD_tset_ne h

/-- Counters from 8 on that take a value each, the others as they were. -/
theorem getCtr_foldl_value (f : Nat → BitVec 32) (l : List Nat) (x : KUnit) (k : Nat) :
    getCtr (l.foldl (fun x i => setCtr (8 + i) { getCtr x (8 + i) with value := f i } x) x) k =
      if 8 ≤ k ∧ k - 8 ∈ l then { getCtr x k with value := f (k - 8) } else getCtr x k := by
  induction l generalizing x with
  | nil => simp
  | cons i l ih =>
    rw [List.foldl_cons, ih, getCtr_setCtr_if]
    by_cases hk : k = 8 + i
    · subst hk
      simp
    · have other : 8 ≤ k → k - 8 ≠ i := by omega
      rw [if_neg hk]
      by_cases low : 8 ≤ k
      · simp [low, other low]
      · simp [low]

theorem mem_maskBits {n m i : Nat} : i ∈ maskBits n m ↔ i < n ∧ m.testBit i = true := by
  rw [maskBits, List.mem_filter, List.mem_range, nbit_testBit]

/-- PROB loads the counters its mask names (R161). -/
theorem getCtr_loadCvals {r : Rec64} {x : KUnit} {k : Nat} (hk : k < 16) :
    getCtr (loadCvals r x) k = if 8 ≤ k ∧ (pbCmask r).testBit (k - 8) then
      { getCtr x k with value := BitVec.ofNat 32 (fld r (0x10 + 4 * (k - 8)) 4) } else getCtr x k := by
  have named : (8 ≤ k ∧ k - 8 ∈ maskBits 8 (pbCmask r)) ↔ 8 ≤ k ∧ (pbCmask r).testBit (k - 8) = true := by
    rw [mem_maskBits, and_congr_right_iff]
    exact fun low => and_iff_right (by omega)
  rw [loadCvals, getCtr_foldl_value fun i => BitVec.ofNat 32 (fld r (0x10 + 4 * i) 4)]
  exact if_congr named rfl rfl

/-- It changes no more of its unit. -/
theorem loadCvals_eq (r : Rec64) (x : KUnit) : loadCvals r x = { x with ctrs := (loadCvals r x).ctrs } :=
  congrArg (fun y : KUnit => { y with ctrs := (loadCvals r x).ctrs })
    (foldl_view (view := fun y : KUnit => { y with ctrs := [] })
      (f := fun x i => setCtr (8 + i) { getCtr x (8 + i) with value := BitVec.ofNat 32 (fld r (0x10 + 4 * i) 4) } x)
      (fun _ _ => rfl) (maskBits 8 (pbCmask r)) (b := x))

/-- PROB of a problem that its list holds, that can be read, and that has no fault. -/
theorem probStep_eq {u ctr seg : Nat} {s s1 : State} {ps : List (Nat × Nat)} {x : KUnit} {i n : Nat} {r : Rec64}
    (hx : getUnit s u = x) (hi : ctrVal x ctr = i) (hn : ((tget x.segs seg).map (·.len)).getD 0 / 64 = n)
    (hr : BitVec.ofNat 512 (natOf (readPieces ps s1)) = r) (inside : i < n)
    (free : hazard x x.issued [] [] (segRange x seg (64 * i) 64) [] = false)
    (read : unitAccess u x.pc seg (64 * i) 64 false s = .go ps s1) (good : recOk r = true)
    (clean : probFault r (x.tensors.foldl (fun n t => max n (t.1 + 1)) 0) i n = none) :
    probStep u ctr seg s =
      (retire u (modUnit u (fun x => loadCvals r { x with problem := some r, recover := none }) s1), []) := by
  simp only [probStep, hx, hi, hn, hr, Nat.not_le.2 inside, free, read, good, clean, Bool.not_true, Bool.false_eq_true,
    if_false]

/-- Settles O8: the record is read, and the unit takes it and the counters it names. -/
theorem problemLoadCompletes : Obligations.ProblemLoadCompletes := by
  intro u ctr seg s s1 ps x i n r ready inside unheld free read good clean
  obtain ⟨touched, -⟩ := unitAccess_go unheld read
  have unit : getUnit s1 u.toNat = { x with lastNoHome := none } := by rw [touched.2, if_pos rfl]
  let loaded : KUnit := { x with lastNoHome := none, problem := some r, recover := none }
  have same : loadCvals r loaded = { loaded with ctrs := (loadCvals r loaded).ctrs } := loadCvals_eq r loaded
  refine ⟨loadCvals r loaded, next_issue_done ready.1 ?_, same, fun k hk => getCtr_loadCvals hk, touched⟩
  refine (probStep_eq rfl rfl rfl rfl inside free read good clean).trans (congrArg (·, []) ?_)
  rw [modUnit, unit]
  exact retire_of_stands ready (by rw [same]; exact ⟨rfl, rfl, rfl⟩)

end Sys2Proof.Proofs

/-! PROOFS. SEND, RECV, FWD, MARK, STEER and MERGE join the queues of the move and the strand engine. -/
namespace Sys2Proof.Proofs
open Sys2Proof Machine Safety Laws

/-! ## Handing an operation to the move and the strand engine (R107, R119) -/

/-- A unit whose instruction hands `op` to the move engine, but for its AUTO counters and its address. -/
def joinMove (x : KUnit) (op : EngOp) : KUnit := { x with moveQ := x.moveQ ++ [newOp x op], issued := x.issued + 1 }

/-- The same once its AUTO counters have stepped and the instruction has retired. -/
def handMove (ns : List Nat) (x : KUnit) (op : EngOp) : KUnit :=
  { withCtrs (joinMove x op) (autoUnit ns x).ctrs with pc := x.pc + 1 }

theorem handMove_eq {ns : List Nat} {x : KUnit} {op : EngOp} :
    handMove ns x op = { autoUnit ns x with
      issued := x.issued + 1, moveQ := x.moveQ ++ [newOp x op], pc := x.pc + 1 } := by
  rw [autoUnit_of_ctrs (x := x) (y := x) ns rfl]
  rfl

/-- An operation whose local range is right joins the move queue, its AUTO counters step, and the instruction retires; a
LOAD or STORE begins on an idle engine. -/
theorem pushMove_room {i : Instr} {u : Nat} {op : EngOp} {range : Option (Nat × Nat)} {ns : List Nat} {s : State}
    {x : KUnit} (hx : getUnit s u = x) (ready : Ready i u s) (room : x.moveQ.length < 4)
    (inside : ∀ r ∈ range, LocalOk r.1 r.2 256) (ok : AutoOk ns x) :
    pushMove u op range ns s = if x.moveQ.isEmpty && op.stepsAtOnce then moveStep u (setUnit u (handMove ns x op) s)
      else (setUnit u (handMove ns x op) s, []) := by
  subst hx
  obtain ⟨can, more⟩ := ready
  have good : (range.filter fun r => !lsOk r.1 r.2 256) = none :=
    Option.filter_eq_none_iff.2 fun r hr => by simp [lsOk_of_localOk (inside r hr)]
  have hretire := retire_autoStep (u := u) (s := s) (x := getUnit s u) (y := joinMove (getUnit s u) op) rfl
    (canIssue_not_stopped can) more ok
  rw [pushMove, if_neg (Nat.not_le.2 room), good]
  exact congrArg (fun t => if (getUnit s u).moveQ.isEmpty && op.stepsAtOnce then moveStep u t else (t, [])) hretire

/-- Behind other operations, or where it does not step at once, an operation waits in the move queue. -/
theorem pushMove_joins {i : Instr} {u : Nat} {op : EngOp} {range : Option (Nat × Nat)} {ns : List Nat} {s : State}
    {x : KUnit} (hx : getUnit s u = x) (ready : Ready i u s) (room : x.moveQ.length < 4)
    (inside : ∀ r ∈ range, LocalOk r.1 r.2 256) (ok : AutoOk ns x) (later : x.moveQ ≠ [] ∨ op.stepsAtOnce = false) :
    pushMove u op range ns s = (setUnit u (handMove ns x op) s, []) := by
  have hlater : (x.moveQ.isEmpty && op.stepsAtOnce) = false := by
    rcases later with h | h
    · rw [List.isEmpty_eq_false_iff.2 h, Bool.false_and]
    · rw [h, Bool.and_false]
  rw [pushMove_room hx ready room inside ok, hlater, if_neg Bool.false_ne_true]

section
variable {i : Instr} {u : BitVec 9} {f : Nat → State → Fired} {op : EngOp} {ns : List Nat} {s : State}
  (ready : Ready i u.toNat s)
include ready

/-- An instruction that is handed to the move engine and waits there. -/
theorem next_pushMove {range : Option (Nat × Nat)} (pushes : f u.toNat s = pushMove u.toNat op range ns s)
    (room : (getUnit s u.toNat).moveQ.length < 4) (inside : ∀ r ∈ range, LocalOk r.1 r.2 256)
    (ok : AutoOk ns (getUnit s u.toNat)) (later : (getUnit s u.toNat).moveQ ≠ [] ∨ op.stepsAtOnce = false) :
    (.next (issue i u f s) : Result) = .next (unitNext u.toNat { autoUnit ns (getUnit s u.toNat) with
      issued := (getUnit s u.toNat).issued + 1
      moveQ := (getUnit s u.toNat).moveQ ++ [newOp (getUnit s u.toNat) op] } s) := by
  refine next_issue_done ready.1 ((pushes.trans (pushMove_joins rfl ready room inside ok later)).trans ?_)
  rw [handMove_eq]

/-- An instruction that is handed to the strand engine. -/
theorem next_pushStrand (pushes : f u.toNat s = pushStrand u.toNat op s) (room : (getUnit s u.toNat).strandQ.length < 4) :
    (.next (issue i u f s) : Result) = .next (unitNext u.toNat { getUnit s u.toNat with
      issued := (getUnit s u.toNat).issued + 1
      strandQ := (getUnit s u.toNat).strandQ ++ [newOp (getUnit s u.toNat) op] } s) :=
  next_unitNext ready ⟨rfl, rfl, rfl⟩ (pushes.trans (if_neg (Nat.not_le.2 room)))

end

/-- Settles O14: each instruction reads its operands and joins the queue of its engine. -/
theorem strandInstructionsQueue : Obligations.StrandInstructionsQueue := by
  intro u s x moved
  refine ⟨?moves, ?strands⟩
  case moves =>
    intro room
    have one (a n : Nat) (inside : LocalOk a n 256) : ∀ r ∈ some (a, n), LocalOk r.1 r.2 256 :=
      fun r hr => Option.some.inj hr ▸ inside
    refine ⟨?send, ?recv, ?fwd⟩
    case send =>
      intro out l beats1 i a n ready inside ok
      exact next_pushMove ready rfl room (one _ _ inside) ok (.inr rfl)
    case recv =>
      intro inp l beats1 mka i a n ready inside ok
      exact next_pushMove ready rfl room (one _ _ inside) ok (.inr rfl)
    case fwd =>
      intro inp out beats1 mka ready
      exact next_pushMove ready rfl room nofun rfl (.inr rfl)
  case strands =>
    intro room q
    refine ⟨?mark, ?items⟩
    case mark =>
      intro out m ready
      exact next_pushStrand ready rfl room
    case items =>
      intro a b c d beats n1
      exact ⟨fun ready => next_pushStrand ready rfl room, fun ready => next_pushStrand ready rfl room⟩

end Sys2Proof.Proofs

/-! PROOFS. A step of each engine, and the return of a spilled entry. -/
namespace Sys2Proof.Proofs
open Sys2Proof Machine Safety Laws

/-! ## The oldest operation of an engine steps (R128) -/

section
variable {u : Nat} {s : State} {x : KUnit} {o : QOp} {rest : List QOp} (hx : getUnit s u = x) (live : x.halted = false)
  (running : x.run ≠ .stopped)
include hx live running

theorem moveStep_head (head : x.moveQ = o :: rest) (free : opHazard x o = false) : moveStep u s = moveOp u o s := by
  simp [moveStep, hx, live, running, head, free]

theorem strandStep_head (head : x.strandQ = o :: rest) : strandStep u s = strandOp u o s := by
  simp [strandStep, hx, live, running, head]

theorem arrayStep_head (head : x.arrQ = o :: rest) (free : opHazard x o = false) : arrayStep u s = arrayOp u o s := by
  simp [arrayStep, hx, live, running, head, free]

theorem outputStep_emit {out : BitVec 8} {l : List (Beat × Option Rec64)} (head : x.outQ = o :: rest)
    (free : opHazard x o = false) (hop : o.op = .emit out l) : outputStep u s = emitOp u o s := by
  simp [outputStep, hx, live, running, head, free, hop]

/-- A vector instruction that nothing holds pays its issue cycles and has its effect. -/
theorem vectorStep_head (head : x.vecQ = o :: rest) (free : opHazard x o = false) (ceiling : withheld s u = false) :
    vectorStep u s = (vecEffect u o.op (setUnit u { countIssue s.power.ceil.toNat (vecCycles o.op) x with vecQ := rest }
      (countHeld u (heldCycles s.power.ceil.toNat (vecCycles o.op) x) s)), []) := by
  simp [vectorStep, hx, live, running, head, free, ceiling, payIssue_eq hx, modUnit]

end

section
variable {u : Nat} {s : State} {y : KUnit} {o : QOp} {rest : List QOp}

/-- What stays in the move queue of a unit whose oldest operation has become `op`, or is done. -/
theorem setMoveQ_setUnit (op : Option EngOp) (head : y.moveQ = o :: rest) :
    setMoveQ u op (setUnit u y s) =
      setUnit u { y with moveQ := (op.map fun p => { o with op := p }).toList ++ rest } s := by
  rw [setMoveQ, modUnit_setUnit, head]
  cases op <;> rfl

end

/-! ## Strands (R122, R123, R128) -/

/-- An operation that waits for nothing but its strand is not held by an earlier instruction (R109). -/
theorem opHazard_strandPlane {x : KUnit} {o : QOp} {i a c : Nat} {got : List Beat} (hop : o.op = .plane (some i) a c got) :
    opHazard x o = false := by
  simp [opHazard, hop, hazard, opReads, localWrites, opWrites, retainWrites, devReads, devWrites]

@[simp] theorem getIn_setIn {x : KUnit} {i : Nat} {q : InStrand} : getIn (setIn i q x) i = q := by
  simp [getIn, setIn]

theorem headOf_beat {q : InStrand} {b : Beat} {h : Option Rec64} {t : List Entry} (head : q.queue = .beat b h :: t) :
    headOf q = .beat b h := by
  rw [headOf, head]

/-- A beat of no tile that is still arriving leaves a strand that no link feeds. -/
theorem takeHead_beat {u i : Nat} {x : KUnit} {s : State} {q : InStrand} {b : Beat} {h : Option Rec64} {t : List Entry}
    (hq : getIn x i = q) (head : q.queue = .beat b h :: t) (whole : q.arr = none) (unlinked : q.fromLink = none) :
    takeHead u i (setUnit u x s) = setUnit u (setIn i { q with queue := t } x) s := by
  subst hq
  rw [takeHead_unlinked (by rw [getUnit_setUnit]; exact unlinked), getUnit_setUnit, pop_of_beat head whole, setUnit_setUnit]

/-- A RECV takes a beat into the local store and goes on 256 bytes further, or is done (R129). -/
theorem recvOp_beat {u pc i a left mka : Nat} {x : KUnit} {s : State} {o : QOp} {rest : List QOp} {q : InStrand} {b : Beat}
    {h : Option Rec64} {t : List Entry} (hx : getUnit s u = x) (hq : getIn x i = q) (queued : x.moveQ = o :: rest)
    (head : q.queue = .beat b h :: t) (whole : q.arr = none) (unlinked : q.fromLink = none) (some_ : 0 < left) :
    recvOp u pc i a left mka s = (setUnit u { setIn i { q with queue := t } (lsWrite a (beatBytes b) x) with
      moveQ := (if left = 1 then [] else [{ o with op := .recv i (a + 256) (left - 1) mka }]) ++ rest } s, []) := by
  have taken (l : List Byte) : takeHead u i (modUnit u (lsWrite a l) s) =
      setUnit u (setIn i { q with queue := t } (lsWrite a l x)) s := by
    rw [modUnit, hx]
    exact takeHead_beat (x := lsWrite a l x) hq head whole unlinked
  have checked (y : KUnit) : tileOpen (setIn i { q with queue := t } y) i = false := by
    rw [tileOpen, getIn_setIn, whole]
    rfl
  have stays (l : List Byte) : (setIn i { q with queue := t } (lsWrite a l x)).moveQ = o :: rest := queued
  have last : left ≤ 1 ↔ left = 1 := by omega
  simp only [recvOp, hx, hq, headOf_beat head, taken, getUnit_setUnit, afterTake, checked, Bool.not_false, Bool.and_true,
    decide_eq_true_eq, last]
  rw [setMoveQ_setUnit _ (stays _)]
  split <;> rfl

theorem gatherStep_beat {u pc i : Nat} {put : Beat → Option Rec64 → EngOp} {x : KUnit} {s : State} {o : QOp}
    {rest : List QOp} {q : InStrand} {b : Beat} {h : Option Rec64} {t : List Entry} (hx : getUnit s u = x)
    (hq : getIn x i = q) (queued : x.arrQ = o :: rest) (head : q.queue = .beat b h :: t) (whole : q.arr = none)
    (unlinked : q.fromLink = none) :
    gatherStep u pc i put s = (setUnit u { setIn i { q with queue := t } x with
      arrQ := { o with op := put b h } :: rest } s, []) := by
  have taken : takeHead u i s = setUnit u (setIn i { q with queue := t } x) s := by
    rw [takeHead_unlinked (by rw [hx, hq]; exact unlinked), hx, hq, pop_of_beat head whole]
  have stays : (setIn i { q with queue := t } x).arrQ = o :: rest := queued
  simp only [gatherStep, hx, hq, headOf_beat head, taken, setArrOp, modUnit_setUnit, stays]

/-- A SEND whose strands have room puts its next beat on them, the first with its header (R128, R204). -/
theorem sendOp_room {u a left : Nat} {o : QOp} {out : BitVec 8} {first : Bool} {x : KUnit} {s : State} {h : Option Rec64}
    {fresh : Bool} (hx : getUnit s u = x)
    (hdr : (if first then some (sendHdr s u o a left) else none) = h.map fun k => (k, fresh))
    (room : outsRoom s u out (.beat (beatOf (lsRead x a 256)) h) = true) :
    sendOp u o out a left first s =
      (setMoveQ u (if left ≤ 1 then none else some (.send out (a + 256) (left - 1) false))
        (let t := putOuts u out (.beat (beatOf (lsRead x a 256)) h) s
          if h.isSome && fresh then countTile u t else t), []) := by
  subst hx
  cases h with
  | none =>
    rw [Option.map_none] at hdr
    simp only [sendOp, hdr, putIfRoom, Option.map_none, room, if_true]
    rfl
  | some k =>
    rw [Option.map_some] at hdr
    simp only [sendOp, hdr, putIfRoom, Option.map_some, room, if_true]
    rfl

/-- A marker enters an input strand of a unit that is not halted, whose on-chip queue has marker room (R122). -/
theorem deliver_marker {v i : Nat} {m : BitVec 16} {s : State} {y : KUnit} {q : InStrand} (hy : getUnit s v = y)
    (hq : getIn y i = q) (live : y.halted = false) (onChip : q.spilled = []) (whole : q.arr = none) (room : q.marks < 16) :
    deliver v i (.marker m) s = setUnit v (setIn i { q with queue := q.queue ++ [.marker m] } y) s := by
  have lane : q.laneRoom false = true := by simpa [InStrand.laneRoom] using room
  simp [deliver, hy, hq, live, cutShort, resentBeat, enter, onChip, Entry.isBeat, lane, checkArrived, whole]

section
variable {u w v i : Nat} {out : BitVec 8} {m : BitVec 16} {s : State} {y : KUnit} {q : InStrand}
  (one : outList out = [w]) (route : (getOut (getUnit s u) w).dests = [.strand v i]) (hy : getUnit s v = y)
  (hq : getIn y i = q) (live : y.halted = false) (onChip : q.spilled = []) (whole : q.arr = none) (room : q.marks < 16)
include one route hy hq room

theorem outsRoom_marker : outsRoom s u out (.marker m) = true := by
  have lane : q.laneRoom false = true := by simpa [InStrand.laneRoom] using room
  simp [outsRoom, outLinks, one, outRoom, route, destRoom, hy, hq, Entry.isBeat, lane]

include live onChip whole

theorem putOuts_marker (other : v ≠ u) :
    putOuts u out (.marker m) s = setUnit v (setIn i { q with queue := q.queue ++ [.marker m] } y)
      (setUnit u (setOut w (getOut (getUnit s u) w) (getUnit s u)) s) := by
  simp only [putOuts, one, List.foldl_cons, List.foldl_nil, putOut, route, keepTile, sendTo]
  exact deliver_marker (by rw [getUnit_setUnit_ne other, hy]) hq live onChip whole room

end

theorem getOut_setOut_self {x : KUnit} {w : Nat} : getOut (setOut w (getOut x w) x) = getOut x := by
  funext k
  by_cases h : k = w
  · rw [h, getOut, setOut, tgetD_tset_self]
  · rw [getOut, setOut, tgetD_tset_ne h, getOut]

/-- Settles O15: the oldest operation of each engine takes its step, and a spilled entry goes to the end of its queue. -/
theorem engineStepsComplete : Obligations.EngineStepsComplete := by
  intro u s x lv
  refine ⟨fun live running => ⟨?recv, ?send, ?mark, ?emit, ?plane, ?vec⟩, ?spill⟩
  case recv =>
    intro o i a left mka rest b h t q queued hop free head whole unlinked some_
    refine congrArg (fun f => Host.Outcome.next (tally u.toNat s f)) ((moveStep_head rfl live running queued free).trans ?_)
    rw [moveOp, hop]
    dsimp only
    rw [if_neg (Nat.pos_iff_ne_zero.1 some_)]
    exact recvOp_beat rfl rfl queued head whole unlinked some_
  case send =>
    intro o a left out first rest beat rest' sent queued hop free
    have steps : exec (.stepFire u 0) s = .next (tally u.toNat s (sendOp u.toNat o out a left first s)) :=
      congrArg (fun f => Host.Outcome.next (tally u.toNat s f))
        ((moveStep_head rfl live running queued free).trans (by rw [moveOp, hop]))
    refine ⟨fun h later known room => steps.trans ?_, fun isFirst unknown => ?_⟩
    · have hdr : (if first then some (sendHdr s u.toNat o a left) else none) = h.map fun k => (k, false) := by
        cases first with
        | false => rw [later rfl]; rfl
        | true =>
          obtain ⟨k, hk, found⟩ := known rfl
          rw [hk, sendHdr, found]
          rfl
      rw [sendOp_room rfl hdr room, Bool.and_false, if_neg Bool.false_ne_true]
      rfl
    · let f (n : Nat) : Nat := Config.headerField n o.key (lsRead x a (256 * left))
      refine ⟨f 0, f 1, f 2, f 3, f 4, ?_⟩
      intro h room
      have fresh : newHdr s u.toNat o.key (lsRead x a (256 * left)) = h := by
        have beats : (lsRead x a (256 * left)).length / 256 = left := by
          simp [lsRead, memGets]
        simp only [newHdr, beats]
        rfl
      have hdr : (if first then some (sendHdr s u.toNat o a left) else none) = (some h).map fun k => (k, true) := by
        rw [if_pos isFirst, sendHdr, unknown]
        exact congrArg (fun k => some (k, true)) fresh
      refine steps.trans ?_
      rw [sendOp_room rfl hdr room, Option.isSome_some, Bool.and_self, if_pos rfl]
      rfl
  case mark =>
    intro o w v i out m rest y q queued hop one route other liveY onChip whole room
    have fired : strandStep u.toNat s = (setStrandQ u.toNat none (putOuts u.toNat out (.marker m) s), []) := by
      rw [strandStep_head rfl live running queued, strandOp, hop]
      exact if_pos (outsRoom_marker one route rfl rfl room)
    refine ⟨_, congrArg (fun f => Host.Outcome.next (tally u.toNat s f)) fired, ?_⟩
    rw [putOuts_marker one route rfl rfl liveY onChip whole room other]
    let x' : KUnit := setOut w (getOut x w) x
    have sent : setStrandQ u.toNat none (setUnit v (setIn i { q with queue := q.queue ++ [.marker m] } y)
        (setUnit u.toNat x' s)) = setUnit u.toNat { x' with strandQ := rest }
          (setUnit v (setIn i { q with queue := q.queue ++ [.marker m] } y) (setUnit u.toNat x' s)) := by
      have stays : x'.strandQ = o :: rest := queued
      rw [setStrandQ, modUnit, getUnit_setUnit_ne other.symm, getUnit_setUnit, stays]
    rw [sent]
    refine ⟨rfl, ?_, ?_, ?_, fun k hku hkv => ?_⟩
    · rw [getUnit_setUnit]
      rfl
    · rw [getUnit_setUnit]
      exact getOut_setOut_self
    · rw [getUnit_setUnit_ne other, getUnit_setUnit]
    · rw [getUnit_setUnit_ne hku, getUnit_setUnit_ne hkv, getUnit_setUnit_ne hku]
  case emit =>
    intro o out b h l rest queued hop free room t more
    refine congrArg (fun f => Host.Outcome.next (tally u.toNat s f))
      ((outputStep_emit rfl live running queued free hop).trans ?_)
    rw [emitOp, hop]
    dsimp only
    rw [if_pos room]
    cases l <;> rfl
  case plane =>
    intro o i a c got rest b h t q queued hop short head whole unlinked
    refine congrArg (fun f => Host.Outcome.next (tally u.toNat s f))
      ((arrayStep_head rfl live running queued (opHazard_strandPlane hop)).trans ?_)
    have left : got.length < planeBytes c / 256 := by
      rw [planeBytes]
      split at short <;> simp_all
    simp only [arrayOp, hop, left, if_true]
    exact gatherStep_beat rfl rfl queued head whole unlinked
  case vec =>
    intro o rest queued free ceiling
    exact congrArg (fun f => Host.Outcome.next (tally u.toNat s f)) (vectorStep_head rfl live running queued free ceiling)
  case spill =>
    intro i e t q spilled room live r
    have returned : (getIn (getUnit s u.toNat) i.toNat).spilled = e :: t := spilled
    have fits : ((getIn (getUnit s u.toNat) i.toNat).laneRoom e.isBeat && !(getUnit s u.toNat).halted) = true := by
      rw [Bool.and_eq_true]
      exact ⟨room, by rw [live]; rfl⟩
    simp only [exec, execSpillReturn, returned, fits, if_true, List.isEmpty_iff]
    rfl

end Sys2Proof.Proofs

/-! PROOFS. LOAD and STORE: the beats that they move, and what a store sets off. -/
namespace Sys2Proof.Proofs
open Sys2Proof Machine Safety Laws

/-! ## LOAD and STORE on an idle engine (R109, R128) -/

/-- What waits for an earlier instruction does not wait for one that has just joined the move queue. -/
theorem hazard_handMove {x : KUnit} {op : EngOp} {ns : List Nat} {lr lw : List (Nat × Nat)}
    {dr dw : List (Nat × Nat × Nat)} :
    hazard (handMove ns x op) x.issued lr lw dr dw = hazard x x.issued lr lw dr dw := by
  have hq : decide ((newOp x op).num < x.issued) = false := decide_eq_false (Nat.lt_irrefl _)
  simp only [hazard, queuedOps, handMove, withCtrs, joinMove, List.any_append, List.any_cons, List.any_nil, hq,
    Bool.false_and, Bool.or_false]
  rfl

/-- On an idle engine a LOAD or STORE that nothing holds is performed at once. -/
theorem pushMove_begins {i : Instr} {u : Nat} {op : EngOp} {range : Option (Nat × Nat)} {ns : List Nat} {s : State}
    {x : KUnit} (hx : getUnit s u = x) (ready : Ready i u s) (idle : x.moveQ = [])
    (inside : ∀ r ∈ range, LocalOk r.1 r.2 256) (ok : AutoOk ns x) (atOnce : op.stepsAtOnce = true)
    (free : hazard x x.issued (opReads op) (localWrites x op) (devReads x op) (devWrites x op) = false) :
    pushMove u op range ns s = moveOp u (newOp x op) (setUnit u (handMove ns x op) s) := by
  have alone : (handMove ns x op).moveQ = [newOp x op] := congrArg (· ++ [newOp x op]) idle
  have hhaz : opHazard (handMove ns x op) (newOp x op) = false := hazard_handMove.trans free
  rw [pushMove_room hx ready (by simp [idle]) inside ok, idle, atOnce, List.isEmpty_nil, Bool.and_self, if_pos rfl]
  exact moveStep_head getUnit_setUnit (hx ▸ canIssue_live ready.1) (hx ▸ canIssue_not_stopped ready.1) alone hhaz

/-- The instruction itself, where what the engine does is known. -/
theorem next_pushMove_begins {i : Instr} {u : BitVec 9} {f : Nat → State → Fired} {op : EngOp}
    {range : Option (Nat × Nat)} {ns : List Nat} {s t : State} {x : KUnit} (hx : getUnit s u.toNat = x)
    (ready : Ready i u.toNat s) (pushes : f u.toNat s = pushMove u.toNat op range ns s) (idle : x.moveQ = [])
    (inside : ∀ r ∈ range, LocalOk r.1 r.2 256) (ok : AutoOk ns x) (atOnce : op.stepsAtOnce = true)
    (free : hazard x x.issued (opReads op) (localWrites x op) (devReads x op) (devWrites x op) = false)
    (does : moveOp u.toNat (newOp x op) (setUnit u.toNat (handMove ns x op) s) = (t, [])) :
    (.next (issue i u f s) : Result) = .next (judged u.toNat s t) :=
  next_issue_done ready.1 ((pushes.trans (pushMove_begins hx ready idle inside ok atOnce free)).trans does)

/-- The panel and the segments of a unit are not touched by an access. -/
theorem panelOf_of_panels {s t : State} (same : t.panels = s.panels) (u : Nat) : panelOf t u = panelOf s u := by
  rw [panelOf, panelOfCluster, same]
  rfl

theorem getCast_of_panels {s t : State} (same : t.panels = s.panels) : getCast t = getCast s := by
  funext p
  rw [getCast, same, getCast]

/-- The oldest operation leaves the move queue. -/
theorem setMoveQ_done {u : Nat} {s : State} :
    setMoveQ u none s = setUnit u { getUnit s u with moveQ := (getUnit s u).moveQ.tail } s := by
  rw [setMoveQ, modUnit]
  cases (getUnit s u).moveQ <;> rfl

/-! ## LOAD (R115, R207) -/

/-- The unit that a LOAD leaves, its bytes in the local store. -/
def loadedUnit (a : Nat) (bytes : List Byte) (z : KUnit) : KUnit :=
  { lsWrite a bytes z with recover := none, moveQ := z.moveQ.tail }

theorem loadedUnit_of_access {a : Nat} {bytes : List Byte} {y z : KUnit} (hz : z = { y with lastNoHome := none })
    (alone : y.moveQ.tail = []) :
    loadedUnit a bytes z = { lsWrite a bytes y with moveQ := [], recover := none, lastNoHome := none } := by
  subst hz
  simp only [loadedUnit, lsWrite, alone]

theorem loadDone_eq {u a : Nat} {bytes : List Byte} {s : State} :
    loadDone u a bytes s = setUnit u (loadedUnit a bytes (getUnit s u)) s := by
  rw [loadDone, modUnit, setMoveQ_done, getUnit_setUnit, setUnit_setUnit]
  rfl

/-- Changes of one unit, one after another. -/
theorem foldl_modUnit {α : Type} (u : Nat) (f : α → KUnit → KUnit) (l : List α) (s : State) :
    getUnit (l.foldl (fun s h => modUnit u (f h) s) s) u = l.foldl (fun y h => f h y) (getUnit s u) ∧
      ∀ z, setUnit u z (l.foldl (fun s h => modUnit u (f h) s) s) = setUnit u z s := by
  induction l generalizing s with
  | nil => exact ⟨rfl, fun _ => rfl⟩
  | cons h l ih =>
    obtain ⟨unit, frame⟩ := ih (modUnit u (f h) s)
    refine ⟨unit.trans (by rw [modUnit, getUnit_setUnit]; rfl), fun z => (frame z).trans ?_⟩
    rw [modUnit, setUnit_setUnit]

/-- Entries of the header file go by the header file alone, and change nothing else. -/
theorem foldl_hdrFilePut {α : Type} (addr : α → Nat) (hdr : α → Rec64) (l : List α) {x z : KUnit}
    (same : z.hdrFile = x.hdrFile) :
    l.foldl (fun y h => hdrFilePut (addr h) (hdr h) y) z =
      { z with hdrFile := (l.foldl (fun y h => hdrFilePut (addr h) (hdr h) y) x).hdrFile } := by
  induction l generalizing x z with
  | nil =>
    rw [List.foldl_nil, List.foldl_nil, ← same]
  | cons h l ih =>
    have next : (hdrFilePut (addr h) (hdr h) z).hdrFile = (hdrFilePut (addr h) (hdr h) x).hdrFile := by
      rw [hdrFilePut, hdrFilePut, same]
    rw [List.foldl_cons, List.foldl_cons, ih next]
    rfl

section
variable {u a sgi off beats : Nat} {verify : Bool} {q : QOp} {s s1 : State} {ps : List (Nat × Nat)} {p : Nat} {c : Cast}
  {g : Seg} (go : unitAccess u q.pc sgi off (256 * beats) false s = .go ps s1) (panel : panelOf s1 u = some p)
  (cast : getCast s1 p = some c) (seg : tget (getUnit s1 u).segs sgi = some g)
include go panel cast seg

theorem loadOp_plain (plain : verify = false ∨ g.tile = none) :
    loadOp u q a sgi off beats verify s = (loadDone u a (readPieces ps s1) s1, []) := by
  simp only [loadOp, go, panel, Option.bind_some, cast, seg]
  cases tile : g.tile with
  | none => rfl
  | some t =>
    rw [tile] at plain
    have hv : verify = false := plain.resolve_right nofun
    rw [hv]
    rfl

theorem loadOp_tiles {t : TileDecl} {hs : List Rec64} (tile : g.tile = some t) (starts : off % (256 * t.tb) = 0)
    (whole : 256 * beats % (256 * t.tb) = 0)
    (passes : checkTiles s1 c t (off / (256 * t.tb)) (256 * beats / (256 * t.tb)) (readPieces ps s1) [] = .inl hs) :
    loadOp u q a sgi off beats true s = (loadDone u a (readPieces ps s1)
      (hs.zipIdx.foldl (fun s h => modUnit u (hdrFilePut (a + 256 * t.tb * h.2) h.1) s) s1), []) := by
  have aligned : loadUnaligned t off (256 * beats) = false := by
    rw [loadUnaligned, starts, whole]
    rfl
  simp only [loadOp, go, panel, Option.bind_some, cast, seg, tile, aligned, loadTiles, passes, Bool.not_true,
    Bool.false_eq_true, if_false]

end

/-! ## What a store sets off (R165, R174, R229, R249) -/

/-- A state without what the lists and the reducers make of a store that they see. -/
def unsnooped (s : State) : State := { s with reducers := [], lists := [], claims := [], ctrs := [] }

theorem eq_of_unsnooped {s t : State} (same : unsnooped t = unsnooped s) :
    t = { s with reducers := t.reducers, lists := t.lists, claims := t.claims, ctrs := t.ctrs } :=
  congrArg (fun x : State => { x with reducers := t.reducers, lists := t.lists, claims := t.claims, ctrs := t.ctrs }) same

theorem panels_of_unsnooped {s t : State} (same : unsnooped t = unsnooped s) : t.panels = s.panels := by
  rw [eq_of_unsnooped same]

theorem unsnooped_startEpoch {k : Nat} {w : BitVec 64} {s : State} : unsnooped (startEpoch k w s) = unsnooped s := by
  unfold startEpoch
  split <;> rfl

theorem unsnooped_applyParked {k : Nat} {s : State} : unsnooped (applyParked k s) = unsnooped s := by
  unfold applyParked
  split
  · split
    · split
      · exact unsnooped_startEpoch
      · rfl
    · rfl
  · rfl

theorem unsnooped_countStore {k : Nat} {w : BitVec 64} {s : State} : unsnooped (countStore k w s) = unsnooped s := by
  refine Eq.trans ?_ (unsnooped_applyParked (k := k))
  unfold countStore
  generalize applyParked k s = t
  dsimp only
  split
  · rfl
  · split
    · rfl
    · split
      · split <;> rfl
      · split
        · exact unsnooped_startEpoch
        · split <;> rfl

/-- A store of at most `n` bytes at `a` covers no queue beat of its unit's panel. -/
def QueuesClear (u a n : Nat) (s : State) : Prop :=
  ∀ p c, panelOf s u = some p → getCast s p = some c → ∀ q ∈ queueBeats c, ¬ (a ≤ q.2.2 ∧ q.2.2 + 256 ≤ a + n)

theorem queuesClear_of_panels {u a n : Nat} {s t : State} (same : t.panels = s.panels) (clear : QueuesClear u a n s) :
    QueuesClear u a n t := by
  intro p c panel cast
  rw [panelOf_of_panels same] at panel
  rw [getCast_of_panels same] at cast
  exact clear p c panel cast

theorem foldl_eq_self {α β : Type} {f : β → α → β} {b : β} {l : List α} (same : ∀ x ∈ l, f b x = b) : l.foldl f b = b :=
  List.foldlRecOn (motive := fun t => t = b) l f rfl fun t ht x hx => by rw [ht, same x hx]

/-- The lists that a store covers the count beats of. -/
def snoopLists (a : Nat) (l : List Byte) (s : State) : State :=
  s.lists.foldl (fun s kl =>
    if a ≤ kl.2.beat && kl.2.beat + 8 ≤ a + l.length then
      countStore kl.1 (BitVec.ofNat 64 (natOf ((l.drop (kl.2.beat - a)).take 8))) s else s) s

theorem unsnooped_snoopLists {a : Nat} {l : List Byte} {s : State} : unsnooped (snoopLists a l s) = unsnooped s := by
  refine foldl_view (view := unsnooped) (fun t kl => ?_) _
  split
  · exact unsnooped_countStore
  · rfl

section
variable {u a n : Nat} {l : List Byte} {s : State} (short : l.length ≤ n)
include short

/-- A store that covers no queue beat is seen by the lists and the reducers alone. -/
theorem snoop_of_queuesClear (clear : QueuesClear u a n s) : snoop u a l s = snoopLists a l (slotStored a l.length s) := by
  have same : unsnooped (snoopLists a l (slotStored a l.length s)) = unsnooped s := unsnooped_snoopLists
  have clear' := queuesClear_of_panels (panels_of_unsnooped same) clear
  unfold snoopLists at clear' ⊢
  rw [snoop]
  dsimp only
  generalize List.foldl _ (slotStored a l.length s) _ = t at clear' ⊢
  split
  · rfl
  · next p panel =>
    split
    · rfl
    · next c cast =>
      refine foldl_eq_self fun q hq => if_neg fun covered => clear' p c panel cast q hq ?_
      simp only [Bool.and_eq_true, decide_eq_true_eq] at covered
      omega

theorem snoopLists_clear (clear : ∀ kl ∈ s.lists, ¬ (a ≤ kl.2.beat ∧ kl.2.beat + 8 ≤ a + n)) : snoopLists a l s = s := by
  refine foldl_eq_self fun kl hkl => if_neg fun covered => clear kl hkl ?_
  simp only [Bool.and_eq_true, decide_eq_true_eq] at covered
  omega

theorem newlyStored_short {r : Reducer} (none_ : newlyStored a n r = []) : newlyStored a l.length r = [] := by
  simp only [newlyStored, List.map_eq_nil_iff, List.filter_eq_nil_iff, Bool.and_eq_true, decide_eq_true_eq] at none_ ⊢
  intro sl hsl ⟨⟨⟨starts, ends⟩, fresh⟩, unready⟩
  exact none_ sl hsl ⟨⟨⟨starts, by omega⟩, fresh⟩, unready⟩

theorem slotStored_clear (clear : ∀ kr ∈ s.reducers, newlyStored a n kr.2 = []) : slotStored a l.length s = s := by
  have same : (tmap s.reducers fun _ r => { r with stored := r.stored ++ newlyStored a l.length r }) = s.reducers := by
    refine (List.map_congr_left fun kr hkr => ?_).trans (List.map_id _)
    simp only [newlyStored_short short (clear kr hkr), List.append_nil, id]
  rw [slotStored, same]

end

/-- Bytes over ranges, piece by piece, as `step` takes each piece: what each step keeps, they all keep. -/
theorem foldl_pieces {P : State → Prop} {step : Nat × Nat → List Byte → State → State} {ps : List (Nat × Nat)}
    (keeps : ∀ r ∈ ps, ∀ l t, l.length ≤ r.2 → P t → P (step r l t)) (l : List Byte) {s : State} (start : P s) :
    P (ps.foldl (fun (acc : List Byte × State) r => (acc.1.drop r.2, step r (acc.1.take r.2) acc.2)) (l, s)).2 :=
  List.foldlRecOn (motive := fun acc : List Byte × State => P acc.2) ps _ start fun _ h r hr =>
    keeps r hr _ _ (List.length_take_le _ _) h

section
variable {u : Nat} {ps : List (Nat × Nat)} {l : List Byte} {s : State}

/-- A state but for the bytes of device memory. -/
theorem writePieces_frame : writePieces ps l s = { s with mem := (writePieces ps l s).mem } := by
  refine foldl_pieces (P := fun t => t = { s with mem := t.mem }) (step := fun r l t => wr r.1 l t) (fun r _ l t _ h => ?_) l rfl
  rw [wr, h]

/-- Bytes outside the ranges are as they were. -/
theorem memGet_writePieces (ok : MemOk s) {b : Nat} (outside : ∀ r ∈ ps, b < r.1 ∨ r.1 + r.2 ≤ b) :
    memGet (writePieces ps l s).mem b = memGet s.mem b := by
  refine (foldl_pieces (P := fun t => MemOk t ∧ memGet t.mem b = memGet s.mem b) (step := fun r l t => wr r.1 l t)
    (fun r hr l t short h => ⟨memPuts_wf h.1, ?_⟩) l ⟨ok, rfl⟩).2
  have apart := outside r hr
  exact (wr_outside h.1 (by omega)).trans h.2

variable (clear : ∀ r ∈ ps, QueuesClear u r.1 r.2 s)
include clear

/-- A store that covers no queue beat writes its ranges, and changes lists, claims, reducers and counts beside. -/
theorem unsnooped_unitStore : unsnooped (unitStore u ps l s) = unsnooped (writePieces ps l s) := by
  refine foldl_pieces (P := fun t => unsnooped t = unsnooped (writePieces ps l s)) (step := fun r l t => snoop u r.1 l t)
    (fun r hr l' t short h => ?_) l rfl
  have panels : t.panels = s.panels := by
    rw [panels_of_unsnooped h, writePieces_frame]
  rw [snoop_of_queuesClear short (queuesClear_of_panels panels (clear r hr)), unsnooped_snoopLists]
  exact h

/-- One that covers no count beat and no reducer slot either writes its ranges alone. -/
theorem unitStore_clear (lists : ∀ kl ∈ s.lists, ∀ r ∈ ps, ¬ (r.1 ≤ kl.2.beat ∧ kl.2.beat + 8 ≤ r.1 + r.2))
    (slots : ∀ kr ∈ s.reducers, ∀ r ∈ ps, newlyStored r.1 r.2 kr.2 = []) : unitStore u ps l s = writePieces ps l s := by
  refine foldl_pieces (P := fun t => t = writePieces ps l s) (step := fun r l t => snoop u r.1 l t)
    (fun r hr l' t short h => ?_) l rfl
  rw [h]
  generalize hw : writePieces ps l s = w
  have frame : w = { s with mem := w.mem } := hw ▸ writePieces_frame
  have clear' : QueuesClear u r.1 r.2 w := queuesClear_of_panels (by rw [frame]) (clear r hr)
  rw [snoop_of_queuesClear short clear', slotStored_clear short, snoopLists_clear short]
  · exact fun kl hkl => lists kl (by rw [frame] at hkl; exact hkl) r hr
  · exact fun kr hkr => slots kr (by rw [frame] at hkr; exact hkr) r hr

end

/-! ## STORE (R115, R204) -/

/-- A state without the bytes, hanks and counts that a write of device memory changes. -/
def unwritten (s : State) : State := { s with mem := [], hanks := [], ctrs := [] }

theorem unwritten_touch {a n : Nat} {s : State} : unwritten (touch a n s) = unwritten s := by
  unfold touch
  split
  · refine foldl_view (view := unwritten) (fun t k => ?_) _
    unfold modHank
    split <;> rfl
  · rfl

theorem unwritten_putBytes {a : Nat} {l : List Byte} {s : State} : unwritten (putBytes a l s) = unwritten s := by
  unfold putBytes
  split <;> rfl

theorem unwritten_areaWrite {c : Cast} {id off : Nat} {l : List Byte} {s : State} :
    unwritten (areaWrite c id off l s) = unwritten s := by
  have put : unwritten (areaPut c id off l s) = unwritten s := by
    refine foldl_view (view := fun t : List Byte × State => unwritten t.2) (fun _ _ => ?_) _
    dsimp only
    split
    · exact unwritten_putBytes
    · rfl
  refine (foldl_view (view := unwritten) (fun _ _ => ?_) _).trans put
  split
  · exact unwritten_touch
  · rfl

/-- What a STORE goes by after it has written its headers: the panels, lists and reducers, and its unit's move queue. -/
def storeView (u : Nat) (s : State) : Tbl Panel × Tbl WorkList × Tbl Reducer × List QOp :=
  (s.panels, s.lists, s.reducers, (getUnit s u).moveQ)

theorem storeView_putTileHdr {u i : Nat} {c : Cast} {t : TileDecl} {h : Rec64} {s : State} :
    storeView u (putTileHdr c t i h s) = storeView u s := by
  have same : unwritten (putTileHdr c t i h s) = unwritten s := unwritten_areaWrite
  have seen := congrArg (storeView u) same
  exact seen

theorem storeView_countTile {u : Nat} {s : State} : storeView u (countTile u s) = storeView u s := by
  rw [storeView, countTile, modUnit, getUnit_setUnit]
  rfl

theorem storeView_storeHdrs {u a off n : Nat} {q : QOp} {c : Cast} {t : TileDecl} {bytes : List Byte} {s : State} :
    storeView u (storeHdrs u q a off n c t bytes s) = storeView u s := by
  refine foldl_view (view := storeView u) (fun t p => ?_) _
  split
  · exact storeView_putTileHdr
  · exact storeView_countTile.trans storeView_putTileHdr

section
variable {u : Nat} {ps : List (Nat × Nat)} {s : State} (clear : ∀ r ∈ ps, QueuesClear u r.1 r.2 s)
include clear

/-- No move queue beat is covered, so none holds the store back (R193). -/
theorem queueHeld_clear {bytes : List Byte} : queueHeld s u ps bytes = false := by
  unfold queueHeld
  split
  · next c cast =>
    obtain ⟨p, panel, cast⟩ := Option.bind_eq_some_iff.1 cast
    refine List.any_eq_false.2 fun q hq => ?_
    have quiet : (ps.foldl (fun (acc : Bool × List Byte) r =>
        (acc.1 || (r.1 ≤ q.2.2 && q.2.2 + 256 ≤ r.1 + r.2 &&
          (beatSlots (beatOf ((acc.2.drop (q.2.2 - r.1)).take 256))).any fun d => moveOk s d && moveQueueFull s (moveEngine d)),
         acc.2.drop r.2)) (false, bytes)).1 = false := by
      refine List.foldlRecOn (motive := fun acc : Bool × List Byte => acc.1 = false) _ _ rfl fun acc h r hr => ?_
      have apart : (decide (r.1 ≤ q.2.2) && decide (q.2.2 + 256 ≤ r.1 + r.2)) = false := by
        simpa using clear r hr p c panel cast q hq
      simp only [h, apart, Bool.false_and, Bool.or_false]
    rw [quiet, Bool.and_false]
    exact Bool.false_ne_true
  · rfl

/-- No route queue beat is covered, so none has release order (R150). -/
theorem releaseHeld_clear {q : QOp} : releaseHeld s u q ps = false := by
  unfold releaseHeld
  dsimp only
  split
  · next c cast =>
    obtain ⟨p, panel, cast⟩ := Option.bind_eq_some_iff.1 cast
    have apart : ((queueBeats c).any fun b => b.1 == .route &&
        ps.any fun r => decide (r.1 ≤ b.2.2) && decide (b.2.2 + 256 ≤ r.1 + r.2)) = false := by
      refine List.any_eq_false.2 fun b hb => ?_
      have none_ : (ps.any fun r => decide (r.1 ≤ b.2.2) && decide (b.2.2 + 256 ≤ r.1 + r.2)) = false :=
        List.any_eq_false.2 fun r hr => by simpa using clear r hr p c panel cast b hb
      rw [none_, Bool.and_false]
      exact Bool.false_ne_true
    rw [apart, Bool.false_and]
  · rfl

end

/-- The headers that a STORE writes where its segment is one of tiles (R204). -/
def markTiles (u a off n : Nat) (q : QOp) (cast : Option Cast) (tile : Option TileDecl) (bytes : List Byte) (s : State) :
    State :=
  match cast, tile with
  | some c, some t => storeHdrs u q a off n c t bytes s
  | _, _ => s

theorem storeView_markTiles {u a off n : Nat} {q : QOp} {cast : Option Cast} {tile : Option TileDecl} {bytes : List Byte}
    {s : State} : storeView u (markTiles u a off n q cast tile bytes s) = storeView u s := by
  unfold markTiles
  split
  · exact storeView_storeHdrs
  · rfl

theorem markTiles_kept {u a off n : Nat} {q : QOp} {cast : Option Cast} {tile : Option TileDecl} {bytes : List Byte}
    {s : State} : Kept s (markTiles u a off n q cast tile bytes s) := by
  unfold markTiles
  split
  · exact storeHdrs_kept (Kept.refl s)
  · exact Kept.refl s

theorem storeOp_go {u a sgi off beats : Nat} {q : QOp} {s s1 : State} {ps : List (Nat × Nat)}
    (go : unitAccess u q.pc sgi off (256 * beats) true s = .go ps s1) (clear : ∀ r ∈ ps, QueuesClear u r.1 r.2 s1) :
    storeOp u q a sgi off beats s =
      (setMoveQ u none (unitStore u ps (lsRead (getUnit s1 u) a (256 * beats))
        (markTiles u a off (256 * beats) q ((panelOf s1 u).bind (getCast s1))
          ((tget (getUnit s1 u).segs sgi).bind (·.tile)) (lsRead (getUnit s1 u) a (256 * beats)) s1)), []) := by
  simp only [storeOp, go, queueHeld_clear clear, releaseHeld_clear clear, Bool.or_self, Bool.false_eq_true, if_false]
  rfl

/-- What an access that goes through leaves of the panels. -/
theorem panels_of_touched {u : Nat} {s t : State} (touched : Touched u s t) : t.panels = s.panels := by
  rw [touched.1]

/-- Settles O13: behind other operations the instruction joins the move queue; on an idle engine its access goes through,
and what it reads or writes is in its place. -/
theorem loadAndStoreComplete : Obligations.LoadAndStoreComplete := by
  intro u l seg o beats1 s s1 ps x a off beats n tile y ok inside room unheld
  have one : ∀ r ∈ some (a, n), LocalOk r.1 r.2 256 := fun r hr => Option.some.inj hr ▸ inside
  have hand (op : EngOp) : handMove [l.toNat, o.toNat] x op = y op := handMove_eq
  have same (op : EngOp) : (y op).heldAt = x.heldAt ∧ (y op).segs = x.segs ∧ (y op).hdrFile = x.hdrFile ∧
      (y op).store = x.store := by
    rw [← hand]
    exact ⟨rfl, rfl, rfl, rfl⟩
  have alone (idle : x.moveQ = []) (op : EngOp) : (y op).moveQ.tail = [] := congrArg (fun q => (q ++ [newOp x op]).tail) idle
  refine ⟨fun verify => ?load, ?store⟩
  case load =>
    intro i op sq ready
    refine ⟨fun busy => next_pushMove ready rfl room one ok (.inl busy), fun idle free go => ?_⟩
    · obtain ⟨heldAt, segs, hdrFile, -⟩ := same op
      obtain ⟨touched, p, c, g, panel, cast, named⟩ := unitAccess_go (by rw [getUnit_setUnit, heldAt, unheld]) go
      have unit : getUnit s1 u.toNat = { y op with lastNoHome := none } := by rw [touched.2, if_pos rfl, getUnit_setUnit]
      have panels : s1.panels = s.panels := panels_of_touched (s := sq) touched
      rw [getUnit_setUnit, segs] at named
      have htile : tile = g.tile := by rw [show tile = (tget x.segs seg.toNat).bind (·.tile) from rfl, named]; rfl
      have named1 : tget (getUnit s1 u.toNat).segs seg.toNat = some g := by rw [unit]; exact segs ▸ named
      have panel1 : panelOf s1 u.toNat = some p := (panelOf_of_panels panels _).trans panel
      have cast1 : getCast s1 p = some c := by rw [getCast_of_panels panels]; exact cast
      have fires {r : State} (loads : loadOp u.toNat (newOp x op) a seg.toNat off beats verify sq = (r, [])) :
          exec i s = .next (judged u.toNat s r) :=
        next_pushMove_begins (op := op) rfl ready rfl idle one ok rfl free ((hand op).symm ▸ loads)
      intro loaded
      have whole : loadedUnit a (readPieces ps s1) (getUnit s1 u.toNat) = loaded := loadedUnit_of_access unit (alone idle op)
      refine ⟨touched, fun plain => fires ?_, ?_⟩
      · rw [loadOp_plain (q := newOp x op) (beats := beats) go panel1 cast1 named1 (htile ▸ plain), loadDone_eq, whole]
      · intro p' c' t hs isVerify tiled panel' cast' starts ends passes
        obtain rfl : p' = p := Option.some.inj (panel'.symm.trans panel)
        obtain rfl : c' = c := Option.some.inj (cast'.symm.trans cast)
        refine fires ?_
        obtain ⟨unitHdrs, frame⟩ := foldl_modUnit u.toNat
          (fun h : Rec64 × Nat => hdrFilePut (a + 256 * t.tb * h.2) h.1) hs.zipIdx s1
        rw [isVerify, loadOp_tiles (q := newOp x op) (beats := beats) go panel1 cast1 named1 (htile ▸ tiled) starts ends
          passes, loadDone_eq, frame, unitHdrs, foldl_hdrFilePut _ _ _ (x := x) (by rw [unit]; exact hdrFile), ← whole]
        rfl
  case store =>
    intro i op sq bytes covers ready
    refine ⟨fun busy => next_pushMove ready rfl room one ok (.inl busy), fun idle free go clear => ?_⟩
    · obtain ⟨heldAt, segs, -, store⟩ := same op
      obtain ⟨touched, -⟩ := unitAccess_go (by rw [getUnit_setUnit, heldAt, unheld]) go
      have unit : getUnit s1 u.toNat = { y op with lastNoHome := none } := by rw [touched.2, if_pos rfl, getUnit_setUnit]
      have panels : s1.panels = s.panels := panels_of_touched (s := sq) touched
      have clear1 : ∀ r ∈ ps, QueuesClear u.toNat r.1 r.2 s1 := fun r hr =>
        queuesClear_of_panels panels fun p c panel cast q hq => clear p c panel cast q hq r hr
      intro m
      have readsSame : lsRead (getUnit s1 u.toNat) a n = bytes := by
        rw [unit, lsRead]
        exact congrArg (memGets · a n) store
      have marks : markTiles u.toNat a off n (newOp x op) ((panelOf s1 u.toNat).bind (getCast s1))
          ((tget (getUnit s1 u.toNat).segs seg.toNat).bind (·.tile)) (lsRead (getUnit s1 u.toNat) a n) s1 = m := by
        have segsSame : (getUnit s1 u.toNat).segs = x.segs := by
          rw [unit]
          exact segs
        rw [readsSame, segsSame, panelOf_of_panels panels, getCast_of_panels panels]
        rfl
      have view : storeView u.toNat m = storeView u.toNat s1 := marks ▸ storeView_markTiles
      simp only [storeView, Prod.mk.injEq] at view
      obtain ⟨mPanels, mLists, mReducers, mQueue⟩ := view
      have clearM : ∀ r ∈ ps, QueuesClear u.toNat r.1 r.2 m := fun r hr => queuesClear_of_panels mPanels (clear1 r hr)
      have frame := eq_of_unsnooped (unsnooped_unitStore (l := bytes) clearM)
      have units : getUnit (unitStore u.toNat ps bytes m) u.toNat = getUnit m u.toNat := by
        refine getUnit_of_units ?_ _
        rw [frame, writePieces_frame]
      refine ⟨touched, unitStore u.toNat ps bytes m, ?_, frame, fun memOk b outside => ?_, fun lists slots => ?_⟩
      · have performed : storeOp u.toNat (newOp x op) a seg.toNat off beats sq =
            (setUnit u.toNat { getUnit m u.toNat with moveQ := [] } (unitStore u.toNat ps bytes m), []) := by
          rw [storeOp_go (q := newOp x op) (beats := beats) go clear1, marks, readsSame, setMoveQ_done, units,
            mQueue, unit, alone idle op]
        exact next_pushMove_begins (op := op) rfl ready rfl idle one ok rfl free ((hand op).symm ▸ performed)
      · have memOk1 : MemOk s1 := by
          rw [touched.1]
          exact memOk
        have memOkM : MemOk m := marks ▸ markTiles_kept.mem memOk1
        rw [frame]
        exact memGet_writePieces memOkM outside
      · refine unitStore_clear clearM ?_ ?_
        · rw [mLists, touched.1]
          exact lists
        · rw [mReducers, touched.1]
          exact slots

end Sys2Proof.Proofs
